-- ==== Sys2Proof/Word.lean ====
section
/-! DEFINITION. The word types of the KF-1024 (spec/02 R26, spec/07 R116): nothing but widths. -/

namespace Sys2Proof

/-- A byte of any memory. -/
abbrev Byte := BitVec 8

/-- A scalar value: belt entry, keep register or system register image (R26). -/
abbrev Word := BitVec 64

/-- A vector value of 2,048 bits (R26). -/
abbrev VWord := BitVec 2048

/-- A 16-bit code unit (R39). -/
abbrev Unit16 := BitVec 16

/-- A code-unit offset: `PC` and every branch target (R26, R80). -/
abbrev Pc := BitVec 32

end Sys2Proof
end

