-- ==== Sys2Proof/Syntax.lean ====
section
/-! DEFINITION. The rows of spec/opcode_table.json as one inductive: the 203 instructions of the four slot classes with
their operand forms (spec/03 R48 to R59 and the chapters named there), the bundle rows of the sequencer, and the events
of the engines, regions, schedulers, loader and fabric. -/

namespace Sys2Proof

/-- A scalar source operand (R49): belt age, keep register or constant. -/
inductive SOp where
  | b (i : Fin 16)
  | k (i : Fin 32)
  | zero
  | one
  | minus1
  deriving DecidableEq, Repr

/-- A vector source operand (R49). -/
inductive VOp where
  | vb (i : Fin 16)
  | w (i : Fin 16)
  | vzero
  deriving DecidableEq, Repr

/-- A scalar destination (R50). -/
inductive SDst where
  | belt
  | k (i : Fin 32)
  | discard
  deriving DecidableEq, Repr

/-- A vector destination (R50). -/
inductive VDst where
  | belt
  | w (i : Fin 16)
  | discard
  deriving DecidableEq, Repr

/-- The guard of a slot word (R10, R48): `GP` and `GN`. -/
structure Guard where
  p   : Fin 16
  neg : Bool
  deriving DecidableEq, Repr

/-- The amount of a scalar shift (R68). -/
inductive Amt where
  | reg (b : SOp)
  | imm (n : Fin 64)
  deriving DecidableEq, Repr

/-- The amount of a vector shift (R122); the immediate must be below the lane width. -/
inductive VAmt where
  | reg (b : VOp)
  | imm (n : Nat)
  deriving DecidableEq, Repr

/-- The lane index of `vins` and `vext` (R138). -/
inductive LaneIx where
  | imm (n : Nat)
  | reg (c : SOp)
  deriving DecidableEq, Repr

/-- Condition codes (R53, R72). -/
inductive CC where
  | eq | ne | lt | le | gt | ge | ltz | lez | gtz | gez | uo
  deriving DecidableEq, Repr

/-- Lane types (R53, R116). -/
inductive LT where
  | i8 | i16 | i32 | i64 | bf16 | f16 | f32 | f64 | e4m3 | e5m2 | e2m1
  deriving DecidableEq, Repr

/-- Rounding (R53): nearest even or toward zero. -/
inductive Rnd where
  | ne | tz
  deriving DecidableEq, Repr

/-- Element formats of the matrix engine (R53, R146). -/
inductive EF where
  | i8 | e4m3 | e5m2 | e2m1 | bf16 | f16 | f64
  deriving DecidableEq, Repr

/-- The annulment suffix of a branch (R53, R78). -/
inductive An where
  | plain | nt | tk
  deriving DecidableEq, Repr

/-- Atomic operand sizes (R53). -/
inductive Sz where
  | i32 | i64 | u32 | u64
  deriving DecidableEq, Repr

/-- Scopes (R37, R53). -/
inductive Scope where
  | core | cluster | die | package | job
  deriving DecidableEq, Repr

/-- The operations of `vred` and `vscan` (R140). -/
inductive RedOp where
  | add | min | max | minz | maxz | and | or | xor
  deriving DecidableEq, Repr

/-- The system registers that `sget` and `sput` name, indices 0x00 to 0x0F in this order (R36). -/
inductive SysReg where
  | flags | mempol | poltabl | poltabh | traprec | frame | cyf | tick | deadline | lc | stages | npc1 | npc2
  | coreId | regionId | mpc
  deriving DecidableEq, Repr

/-- The target of `mmas` (R160): tile rows or a whole partial plane. -/
inductive MmasDst where
  | tile (acc : Fin 4) (row0 nrow : Nat)
  | plane (pp : Fin 2) (kb : Nat)
  deriving DecidableEq, Repr

/-- The parts that `owr` and `ordv` name (R149). -/
inductive OSel where
  | lo | hi | side
  deriving DecidableEq, Repr

/-- The parts of a tile row that `acrd` and `acwr` name, codes 0 to 7 in this order (R164). -/
inductive AcSel where
  | bm0 | bm1 | gm0 | gm1 | f32 | gf32 | f64lo | f64hi
  deriving DecidableEq, Repr

/-- The parts of a carry that `afcarry` names, codes 0 to 5, or 8 to 13 in the write forms (R190). -/
inductive CySel where
  | bm0 | bm1 | gm0 | gm1 | f32 | gf32
  deriving DecidableEq, Repr

/-- The operations of `rdc`, codes 0 to 12 in this order (R271). -/
inductive RdcOp where
  | addI32 | addF32 | addBf16 | addF64 | maxI32 | maxF32 | minI32 | minF32 | and | or | xor | mxrE4m3 | mxrE2m1
  deriving DecidableEq, Repr

/-- The unit at which an annulled bundle stands, decoded only far enough to learn its length and its marks (R79). -/
inductive AnnulUnit where
  | dict (idx : Nat)
  | literal (tpl : Unit16)
  | empty
  deriving DecidableEq, Repr

/-- A core's own memories, each protected in words of 64 bits (R305), with the byte addresses that the model gives them:
scratchpad; dictionary; slot `o` at `9216 * o` (data, then side area); tile `t` at `49152 * t`, its carry at
`196608 + 768 * t`, its exponents at `199680 + 256 * t`; plane `p` at `16384 * p`; code line `l` at `256 * l`; record `r`
at `1024 * r`. -/
inductive Sram where
  | spad | dict | slot | tile | plane | code | metas
  deriving DecidableEq, Repr

/-- Where an error of a memory shows (R305 to R307): in a line of HBM or of a slice, to the scrubber; in a sector there, to another reader
at its home; in a word of a core's own memory. -/
inductive ErrAt where
  | mem (pa : Nat)
  | read (pa : Nat)
  | sram (core : Nat) (m : Sram) (word : Nat)
  deriving DecidableEq, Repr

/-- The management registers whose writes have no row of their own (R23): service (R233, R234), sources and regions
(R241, R244, R293), rings (R309), energy (R328), fabric number (R335), heaters (R275) and the host window (R319, by its
byte offset). -/
inductive MgmtReg where
  | svent (cluster : Nat) (n : Nat)
  | svctl (core : Nat)
  | svstore (cluster : Nat) (off : Nat)
  | source (n : Nat)
  | regcfg (region : Nat)
  | wdcfg (region : Nat)
  | evtail (part : Nat)
  | ertail (part : Nat)
  | elow (part : Nat)
  | ecap (part : Nat)
  | ewin
  | fpkg
  | heat (chan : Nat) (bank : Nat) (ring : Nat)
  | host (off : Nat)
  deriving DecidableEq, Repr

/-- One row of the opcode table, with its operands. Rows that are events of an engine carry the numbers of the unit
they act on; a row of the sequencer acts on the core that `State` says is issuing. -/
inductive Instr where
  -- the code-unit stream (R39 to R45, R79, R27)
  | issueDictionaryBundle (idx : Nat)
  | issueLiteralBundle (tpl : Unit16) (words : List Word)
  | emptyBundle
  | annulledBundle (u : AnnulUnit)
  | resultLanding (core : Nat)
  | nop
  -- scalar arithmetic and logic (R65 to R69)
  | add (g : Guard) (d : SDst) (a b : SOp)
  | sub (g : Guard) (d : SDst) (a b : SOp)
  | neg (g : Guard) (d : SDst) (a : SOp)
  | mul (g : Guard) (d : SDst) (a b : SOp)
  | mulh (g : Guard) (d : SDst) (a b : SOp)
  | mulhz (g : Guard) (d : SDst) (a b : SOp)
  | div (g : Guard) (d : SDst) (a b : SOp)
  | divz (g : Guard) (d : SDst) (a b : SOp)
  | rem (g : Guard) (d : SDst) (a b : SOp)
  | remz (g : Guard) (d : SDst) (a b : SOp)
  | min (g : Guard) (d : SDst) (a b : SOp)
  | max (g : Guard) (d : SDst) (a b : SOp)
  | minz (g : Guard) (d : SDst) (a b : SOp)
  | maxz (g : Guard) (d : SDst) (a b : SOp)
  | abs (g : Guard) (d : SDst) (a : SOp)
  | and (g : Guard) (d : SDst) (a b : SOp)
  | or (g : Guard) (d : SDst) (a b : SOp)
  | xor (g : Guard) (d : SDst) (a b : SOp)
  | andn (g : Guard) (d : SDst) (a b : SOp)
  | orn (g : Guard) (d : SDst) (a b : SOp)
  | shl (g : Guard) (d : SDst) (a : SOp) (n : Amt)
  | shr (g : Guard) (d : SDst) (a : SOp) (n : Amt)
  | sar (g : Guard) (d : SDst) (a : SOp) (n : Amt)
  | rotl (g : Guard) (d : SDst) (a : SOp) (n : Amt)
  | clz (g : Guard) (d : SDst) (a : SOp)
  | ctz (g : Guard) (d : SDst) (a : SOp)
  | popc (g : Guard) (d : SDst) (a : SOp)
  | bswap (g : Guard) (d : SDst) (a : SOp)
  | sext (g : Guard) (d : SDst) (a : SOp) (n : Nat)
  | zext (g : Guard) (d : SDst) (a : SOp) (n : Nat)
  | bfx (g : Guard) (d : SDst) (a : SOp) (pos w : Nat)
  | bfi (g : Guard) (d : SDst) (a b : SOp) (pos w : Nat)
  -- selection, immediates, addresses, compares, predicates (R70 to R73)
  | sel (g : Guard) (d : SDst) (p : Fin 16) (a b : SOp)
  | mov (g : Guard) (d : SDst) (a : SOp)
  | lea (g : Guard) (d : SDst) (a : SOp) (disp : BitVec 20)
  | addi (g : Guard) (d : SDst) (a : SOp) (imm : BitVec 32)
  | li (g : Guard) (d : SDst) (imm : BitVec 32)
  | lih (g : Guard) (d : SDst) (a : SOp) (imm : BitVec 32)
  | cmp (g : Guard) (cc : CC) (pd : Fin 16) (a b : SOp)
  | cmpi (g : Guard) (cc : CC) (pd : Fin 16) (a : SOp) (imm : BitVec 32)
  | pand (g : Guard) (pd pa : Fin 16) (na : Bool) (pb : Fin 16) (nb : Bool)
  | por (g : Guard) (pd pa : Fin 16) (na : Bool) (pb : Fin 16) (nb : Bool)
  | pxor (g : Guard) (pd pa : Fin 16) (na : Bool) (pb : Fin 16) (nb : Bool)
  | pnot (g : Guard) (pd pa : Fin 16) (na : Bool)
  -- scratchpad loads and stores (R74, R75)
  | ldB (g : Guard) (d : SDst) (a : SOp) (disp : BitVec 20)
  | ldBz (g : Guard) (d : SDst) (a : SOp) (disp : BitVec 20)
  | ldH (g : Guard) (d : SDst) (a : SOp) (disp : BitVec 20)
  | ldHz (g : Guard) (d : SDst) (a : SOp) (disp : BitVec 20)
  | ldW (g : Guard) (d : SDst) (a : SOp) (disp : BitVec 20)
  | ldWz (g : Guard) (d : SDst) (a : SOp) (disp : BitVec 20)
  | ldD (g : Guard) (d : SDst) (a : SOp) (disp : BitVec 20)
  | stB (g : Guard) (b a : SOp) (disp : BitVec 20)
  | stH (g : Guard) (b a : SOp) (disp : BitVec 20)
  | stW (g : Guard) (b a : SOp) (disp : BitVec 20)
  | stD (g : Guard) (b a : SOp) (disp : BitVec 20)
  -- control flow (R83 to R96)
  | br (g : Guard) (an : An) (imm : BitVec 32)
  | bri (g : Guard) (an : An) (a : SOp) (imm : BitVec 32)
  | call (g : Guard) (an : An) (d : SDst) (imm : BitVec 32)
  | ret (g : Guard) (an : An) (a : SOp)
  | loop (g : Guard) (a : SOp) (imm : BitVec 32) (stg : Fin 8)
  | loopb (g : Guard) (imm : BitVec 32)
  | sleepto (g : Guard) (a : SOp)
  | sleeptoWake (core : Nat)
  | mwait (g : Guard) (d : SDst) (cc : CC) (a b c : SOp)
  | mwaitEnd (core : Nat)
  | trig (g : Guard)
  | exit (g : Guard)
  | svc (g : Guard) (d : SDst) (n : BitVec 8) (a b c : SOp)
  | svcResume (core : Nat) (outcome : Word)
  | serviceRestart (n : Nat)
  | trap (g : Guard) (n : BitVec 8)
  | rte (g : Guard)
  | sget (g : Guard) (d : SDst) (r : SysReg)
  | sput (g : Guard) (r : SysReg) (a : SOp)
  | brk (g : Guard) (n : BitVec 8)
  -- completion objects (R288 to R292), energy (R332)
  | lnch (g : Guard) (d : SDst) (a b c : SOp)
  | lnchPh (g : Guard) (d : SDst) (a b : SOp)
  | lnchSelf (g : Guard) (d : SDst) (lvl : Nat)
  | join (g : Guard) (d : SDst) (a b : SOp)
  | joinEnd (core : Nat)
  | cancel (g : Guard) (d : SDst) (a : SOp)
  | killTaken (core : Nat)
  | eget (g : Guard) (d : SDst) (idx : Nat)
  -- integer lanes (R121 to R125)
  | vadd (g : Guard) (d : VDst) (lt : LT) (a b : VOp)
  | vsub (g : Guard) (d : VDst) (lt : LT) (a b : VOp)
  | vmul (g : Guard) (d : VDst) (lt : LT) (a b : VOp)
  | vmulh (g : Guard) (d : VDst) (lt : LT) (u : Bool) (a b : VOp)
  | vmac (g : Guard) (d : VDst) (lt : LT) (a b c : VOp)
  | vwmul (g : Guard) (d : VDst) (lt : LT) (hi u : Bool) (a b : VOp)
  | vwmac (g : Guard) (d : VDst) (lt : LT) (hi u sat : Bool) (a b c : VOp)
  | vnarrow (g : Guard) (d : VDst) (lt : LT) (s : Nat) (u : Bool) (rnd : Rnd) (sat : Bool) (a b : VOp)
  | vadds (g : Guard) (d : VDst) (lt : LT) (u : Bool) (a b : VOp)
  | vsubs (g : Guard) (d : VDst) (lt : LT) (u : Bool) (a b : VOp)
  | vabs (g : Guard) (d : VDst) (lt : LT) (a : VOp)
  | vneg (g : Guard) (d : VDst) (lt : LT) (a : VOp)
  | vmin (g : Guard) (d : VDst) (lt : LT) (a b : VOp)
  | vmax (g : Guard) (d : VDst) (lt : LT) (a b : VOp)
  | vminz (g : Guard) (d : VDst) (lt : LT) (a b : VOp)
  | vmaxz (g : Guard) (d : VDst) (lt : LT) (a b : VOp)
  | vand (g : Guard) (d : VDst) (lt : LT) (a b : VOp)
  | vor (g : Guard) (d : VDst) (lt : LT) (a b : VOp)
  | vxor (g : Guard) (d : VDst) (lt : LT) (a b : VOp)
  | vandn (g : Guard) (d : VDst) (lt : LT) (a b : VOp)
  | vshl (g : Guard) (d : VDst) (lt : LT) (a : VOp) (n : VAmt)
  | vshr (g : Guard) (d : VDst) (lt : LT) (a : VOp) (n : VAmt)
  | vsar (g : Guard) (d : VDst) (lt : LT) (a : VOp) (n : VAmt)
  | vcmp (g : Guard) (d : VDst) (cc : CC) (lt : LT) (a b : VOp)
  | vsel (g : Guard) (d : VDst) (lt : LT) (a b c : VOp)
  | vclz (g : Guard) (d : VDst) (lt : LT) (a : VOp)
  | vpopc (g : Guard) (d : VDst) (lt : LT) (a : VOp)
  -- floating-point lanes (R126 to R130) and block quantisation (R132 to R134)
  | vfadd (g : Guard) (d : VDst) (lt : LT) (rnd : Rnd) (a b : VOp)
  | vfsub (g : Guard) (d : VDst) (lt : LT) (rnd : Rnd) (a b : VOp)
  | vfmul (g : Guard) (d : VDst) (lt : LT) (rnd : Rnd) (a b : VOp)
  | vfma (g : Guard) (d : VDst) (lt : LT) (rnd : Rnd) (a b c : VOp)
  | vfmin (g : Guard) (d : VDst) (lt : LT) (a b : VOp)
  | vfmax (g : Guard) (d : VDst) (lt : LT) (a b : VOp)
  | vfabs (g : Guard) (d : VDst) (lt : LT) (a : VOp)
  | vfneg (g : Guard) (d : VDst) (lt : LT) (a : VOp)
  | vfcmp (g : Guard) (d : VDst) (cc : CC) (lt : LT) (a b : VOp)
  | vrcp (g : Guard) (d : VDst) (lt : LT) (rnd : Rnd) (a : VOp)
  | vrsqrt (g : Guard) (d : VDst) (lt : LT) (rnd : Rnd) (a : VOp)
  | vexp2 (g : Guard) (d : VDst) (lt : LT) (rnd : Rnd) (a : VOp)
  | vlog2 (g : Guard) (d : VDst) (lt : LT) (rnd : Rnd) (a : VOp)
  | vsigm (g : Guard) (d : VDst) (lt : LT) (rnd : Rnd) (a : VOp)
  | vtanh (g : Guard) (d : VDst) (lt : LT) (rnd : Rnd) (a : VOp)
  | vfcvt (g : Guard) (d : VDst) (lt src : LT) (u : Bool) (p : Nat) (rnd : Rnd) (sat : Bool) (a : VOp)
  | vamax (g : Guard) (d : VDst) (lt : LT) (a : VOp)
  | vqmx (g : Guard) (d : VDst) (lt src : LT) (a : VOp)
  | vdqmx (g : Guard) (d : VDst) (lt src : LT) (rnd : Rnd) (sat : Bool) (a : VOp)
  -- lane movement (R135 to R142)
  | vperm (g : Guard) (d : VDst) (lt : LT) (z : Bool) (a b c : VOp)
  | vslide (g : Guard) (d : VDst) (lt : LT) (s : Nat) (a b : VOp)
  | vbcastScalar (g : Guard) (d : VDst) (lt : LT) (a : SOp)
  | vbcastImm (g : Guard) (d : VDst) (lt : LT) (imm : BitVec 32)
  | vins (g : Guard) (d : VDst) (lt : LT) (a : VOp) (b : SOp) (ix : LaneIx)
  | vext (g : Guard) (d : VDst) (lt : LT) (a : VOp) (ix : LaneIx)
  | vzip (g : Guard) (d : VDst) (lt : LT) (hi : Bool) (a b : VOp)
  | vunzip (g : Guard) (d : VDst) (lt : LT) (hi : Bool) (a b : VOp)
  | vred (g : Guard) (d : VDst) (op : RedOp) (lt : LT) (rnd : Rnd) (a : VOp)
  | vscan (g : Guard) (d : VDst) (op : RedOp) (lt : LT) (rnd : Rnd) (a : VOp) (b : Option VOp)
  -- vector memory (R143)
  | vld (g : Guard) (d : VDst) (a : SOp) (disp : BitVec 20)
  | vst (g : Guard) (b : VOp) (a : SOp) (disp : BitVec 20)
  | vldg (g : Guard) (d : VDst) (lt : LT) (a : SOp) (disp : BitVec 20) (b : VOp) (c : SOp)
  | vsts (g : Guard) (lt : LT) (b : VOp) (a : SOp) (disp : BitVec 20) (c : SOp)
  -- latches and crossings (R259)
  | xinL (g : Guard) (d : VDst) (n : Fin 4)
  | xinX (g : Guard) (d : VDst) (c : BitVec 8)
  | xoutD (g : Guard) (a : VOp) (m : BitVec 8)
  | xoutW (g : Guard) (a : VOp)
  | xoutCfg (g : Guard) (a : VOp)
  | xstatL (g : Guard) (d : VDst) (n : Fin 4)
  | xstatX (g : Guard) (d : VDst) (c : BitVec 8)
  -- matrix engine (R148 to R168) and affine instructions (R187 to R190)
  | oclm (g : Guard) (o : Fin 24)
  | orls (g : Guard) (o : Fin 24)
  | owr (g : Guard) (sel : OSel) (o : Fin 24) (row : Nat) (a : VOp)
  | ordv (g : Guard) (d : VDst) (sel : OSel) (o : Fin 24) (row : Nat)
  | mzero (g : Guard) (f64 : Bool) (acc : Fin 4)
  | mma (g : Guard) (ef : EF) (acc : Fin 4) (oa ob : Fin 24) (row0 nrow : Nat)
  | mmab (g : Guard) (ef : EF) (pp : Fin 2) (oa ob : Fin 24) (kb : Nat)
  | mmas (g : Guard) (ef : EF) (dst : MmasDst) (oa ob : Fin 24)
  | scacc (g : Guard) (ef : EF) (acc : Fin 4) (pp : Fin 2) (oa ob : Fin 24) (kb : Nat)
  | acrd (g : Guard) (d : VDst) (sel : AcSel) (acc : Fin 4) (row : Fin 64)
  | acwr (g : Guard) (sel : AcSel) (acc : Fin 4) (row : Fin 64) (a : VOp)
  | acexpRd (g : Guard) (d : VDst) (acc : Fin 4)
  | acexpWr (g : Guard) (acc : Fin 4) (a : VOp)
  | acnorm (g : Guard) (acc : Fin 4)
  | mdpc (g : Guard) (b : SOp)
  | afgainSet (g : Guard) (acc : Fin 4) (row : Option (Fin 64)) (a : VOp)
  | afgainMul (g : Guard) (acc : Fin 4) (row : Option (Fin 64)) (a : VOp)
  | afgainMix (g : Guard) (acc : Fin 4) (row : Option (Fin 64)) (a : VOp)
  | afgainAdd (g : Guard) (acc : Fin 4) (row : Option (Fin 64)) (a : VOp)
  | afscan (g : Guard) (acc : Fin 4) (n : Nat)
  | afcomp (g : Guard) (acc : Fin 4) (n : Nat)
  | afcarryRd (g : Guard) (d : VDst) (sel : CySel) (acc : Fin 4)
  | afcarryWr (g : Guard) (sel : CySel) (acc : Fin 4) (a : VOp)
  | afcarryWrH (g : Guard) (acc : Fin 4) (a : VOp)
  -- events of the matrix engine (R152, R153, R180)
  | productStart (core : Nat)
  | productRowLanding (core : Nat)
  | foldStart (core : Nat)
  | foldRowLanding (core : Nat)
  | scanStart (core : Nat)
  | scanLanding (core : Nat)
  -- copy instructions (R203 to R211)
  | cpyRd (g : Guard) (d : SDst) (pol : Fin 8) (bar : Option (Fin 64)) (a b c : SOp)
  | cpyWr (g : Guard) (d : SDst) (pol : Fin 8) (bar : Option (Fin 64)) (a b c : SOp)
  | cpytRd (g : Guard) (d : SDst) (pol : Fin 8) (bar : Option (Fin 64)) (a b : SOp)
  | cpytWr (g : Guard) (d : SDst) (pol : Fin 8) (bar : Option (Fin 64)) (a b : SOp)
  | cpyo (g : Guard) (d : SDst) (pol : Fin 8) (bar : Option (Fin 64)) (a b c : SOp)
  | cpya (g : Guard) (d : SDst) (pol : Fin 8) (bar : Option (Fin 64)) (a b c : SOp)
  | mcast (g : Guard) (d : SDst) (pol : Fin 8) (bar : Option (Fin 64)) (a b c : SOp)
  | mcastOps (g : Guard) (d : SDst) (pol : Fin 8) (bar : Option (Fin 64)) (a b c : SOp)
  | gath (g : Guard) (d : SDst) (pol : Fin 8) (bar : Option (Fin 64)) (a b c : SOp)
  | scat (g : Guard) (d : SDst) (pol : Fin 8) (bar : Option (Fin 64)) (a b c : SOp)
  | cpys (g : Guard) (d : SDst) (pol : Fin 8) (a b : SOp)
  | bari (g : Guard) (d : SDst) (pol : Fin 8) (a b : SOp)
  | barw (g : Guard) (d : SDst) (pol : Fin 8) (a b : SOp)
  | barwEnd (core : Nat)
  | drain (g : Guard) (d : SDst) (pol : Fin 8) (sc : Scope)
  | drainEnd (core : Nat)
  | permit (g : Guard) (d : SDst) (pol : Fin 8) (a b : SOp)
  | twopen (g : Guard) (d : SDst) (pol : Fin 8) (a b : SOp)
  | twclose (g : Guard) (d : SDst) (pol : Fin 8) (a : SOp)
  | aadd (g : Guard) (d : SDst) (pol : Fin 8) (sz : Sz) (a b c : SOp)
  | amin (g : Guard) (d : SDst) (pol : Fin 8) (sz : Sz) (a b c : SOp)
  | amax (g : Guard) (d : SDst) (pol : Fin 8) (sz : Sz) (a b c : SOp)
  | aand (g : Guard) (d : SDst) (pol : Fin 8) (sz : Sz) (a b c : SOp)
  | aor (g : Guard) (d : SDst) (pol : Fin 8) (sz : Sz) (a b c : SOp)
  | axor (g : Guard) (d : SDst) (pol : Fin 8) (sz : Sz) (a b c : SOp)
  | aswp (g : Guard) (d : SDst) (pol : Fin 8) (sz : Sz) (a b c : SOp)
  | acas (g : Guard) (d : SDst) (pol : Fin 8) (sz : Sz) (a b c : SOp)
  | tlbiVa (g : Guard) (d : SDst) (pol : Fin 8) (sc : Scope) (a c : SOp)
  | tlbiRng (g : Guard) (d : SDst) (pol : Fin 8) (sc : Scope) (a b c : SOp)
  | tlbiAll (g : Guard) (d : SDst) (pol : Fin 8) (sc : Scope) (c : SOp)
  | rdc (g : Guard) (d : SDst) (pol : Fin 8) (op : RdcOp) (len : BitVec 16) (a b c : SOp)
  -- fabric instructions (R344 to R348)
  | fsend (g : Guard) (d : SDst) (pol : Fin 8) (tag : BitVec 16) (a b c : SOp)
  | frecv (g : Guard) (d : SDst) (pol : Fin 8) (a b c : SOp)
  | frecvEnd (core : Nat)
  | fdone (g : Guard) (d : SDst) (pol : Fin 8) (a b : SOp)
  | quiet (g : Guard) (d : SDst) (pol : Fin 8) (a b : SOp)
  | quietEnd (core : Nat)
  | fstat (g : Guard) (d : SDst) (pol : Fin 8) (a b : SOp)
  | fstatRecordLanding (core : Nat)
  -- events of the tile-walk engine (R195 to R211, R220 to R223, R229 to R232, R296)
  | copySegmentLanding (req : Nat) (seg : Nat)
  | bytePerform (req : Nat) (piece : Nat)
  | atomicPerform (req : Nat)
  | tweFaultReport (req : Nat)
  | requestComplete (req : Nat)
  | promise (core : Nat)
  | tableWalk (cluster : Nat) (part : Nat) (va : Nat)
  | tlbiPerform (op : Nat)
  | descriptorFetch (cluster : Nat) (stream : Nat)
  | streamStepStart (cluster : Nat) (stream : Nat)
  | codeLineFetch (core : Nat) (line : Nat)
  | metadataFetch (core : Nat) (rec : Nat)
  -- freeze, services, pre-emption (R169 to R177, R233 to R240)
  | deadlineExpiry (core : Nat)
  | handlerEnd (core : Nat)
  | svreqWrite (core : Nat) (v : BitVec 16)
  | preemptRequest (core : Nat)
  | debugHaltRequest (core : Nat)
  | debugRelease (core : Nat)
  | snapshotComplete (core : Nat)
  | contextSave (core : Nat)
  | contextRestore (core : Nat)
  -- regions, sources, crossings (R241 to R258, R283, R284)
  | sourceEdge (source : Nat) (samples : List (Nat × BitVec 32))
  | slotWindowClose (region : Nat)
  | latchPresentation (region : Nat)
  | sourceLoss (source : Nat)
  | regionStop (region : Nat)
  | regionRestart (region : Nat)
  | frameBoundary (region : Nat)
  | historySlotAdvance (xing : Nat)
  | crossingCompute (xing : Nat)
  | timetableRelease (region : Nat)
  | stallEndRelease (region : Nat)
  | entrySkip (region : Nat)
  | slip (region : Nat)
  -- completion (R281, R282, R289, R293 to R295)
  | launchRelease (obj : Nat)
  | triggerCount (core : Nat)
  | unitCount (core : Nat)
  | completionCounterUpdate (obj : Nat)
  | launchComplete (obj : Nat)
  | graphComplete (obj : Nat)
  | phaseComplete (obj : Nat)
  | jobComplete (obj : Nat)
  | watchdogPreempt (obj : Nat)
  | watchdogKill (obj : Nat)
  | watchdogFence (obj : Nat)
  | reexecutionRelease (obj : Nat)
  -- crossbar and reducers (R264 to R276)
  | wheelSlot (chan : Nat)
  | wheelRevolution (chan : Nat)
  | kilnMapWrite (chan : Nat) (bank : Nat) (v : BitVec 256)
  | kilnChstWrite (chan : Nat) (woff : BitVec 32)
  | reducerContribution (req : Nat)
  | reducerResultWrite (round : Nat)
  | rdcownWrite (reducer : Nat) (v : BitVec 128)
  -- partitions, keys, memory (R306 to R314)
  | partdescWrite (part : Nat) (desc : BitVec 1024)
  | ptrootWrite (part : Nat) (v : Word)
  | groupSweepDone (part : Nat)
  | keyload (slot : Nat) (pair : BitVec 512)
  | keyRevoke (slot : Nat)
  | patrolScrub (w : ErrAt) (err : Fin 3)
  -- loader, host, features, energy (R317 to R331)
  | loadqBind (entry : Nat)
  | loadqUnbind (entry : Nat)
  | loadqReservedOp (entry : Nat)
  | attqRequest (v : Word)
  | featAcceptWrite (v : BitVec 128)
  | packageReset
  | energyMicrosecond
  | energyWindowEnd
  | ebudgetWrite (part : Nat) (v : Word)
  -- fabric (R333 to R353)
  | fwlWrite (die : Nat) (wl : Nat) (v : Word)
  | jobSlotWrite (die : Nat) (slot : Nat) (rec : BitVec 256)
  | messageDelivery (msg : Nat)
  | messageLoss (msg : Nat)
  | lossNoticeArrival (msg : Nat)
  | partialMessageDiscard (msg : Nat)
  | linkLoss (link : Nat)
  | waveStart (job : Nat)
  | waveDownFlit (job : Nat) (die : Nat)
  | wavePass2Start (job : Nat)
  | waveResultArrival (job : Nat) (die : Nat)
  | managementRegisterWrite (reg : MgmtReg) (v : BitVec 128)
  | fencedCoreReset (core : Nat)
  | waveResultSend (job : Nat)
  deriving DecidableEq, Repr

end Sys2Proof
end

