-- ==== Sys2Proof/Machine/Fields.lean ====
section
/-! DEFINITION. The coded fields of slot words: their numbers, and the sets of codes each instruction accepts
(spec/03 R53, spec/07 R116 to R140, spec/08 R146 to R168). -/

namespace Sys2Proof

/-- Condition code numbers (R53). -/
def CC.code : CC → Nat
  | .eq => 0 | .ne => 1 | .lt => 2 | .le => 3 | .gt => 4 | .ge => 5
  | .ltz => 6 | .lez => 7 | .gtz => 8 | .gez => 9 | .uo => 10

/-- Lane type numbers (R53). -/
def LT.code : LT → Nat
  | .i8 => 0 | .i16 => 1 | .i32 => 2 | .i64 => 3 | .bf16 => 4 | .f16 => 5 | .f32 => 6 | .f64 => 7
  | .e4m3 => 8 | .e5m2 => 9 | .e2m1 => 10

/-- Lane widths in bits (R116). -/
def LT.width : LT → Nat
  | .i8 => 8 | .i16 => 16 | .i32 => 32 | .i64 => 64 | .bf16 => 16 | .f16 => 16 | .f32 => 32 | .f64 => 64
  | .e4m3 => 8 | .e5m2 => 8 | .e2m1 => 4

/-- Lanes of a vector (R116). -/
def LT.lanes (lt : LT) : Nat := 2048 / lt.width

/-- `LT` 0 to 3 (R117). -/
def LT.isInt : LT → Bool
  | .i8 | .i16 | .i32 | .i64 => true
  | _ => false

/-- `LT` 4 to 7 (R117). -/
def LT.isFloat : LT → Bool
  | .bf16 | .f16 | .f32 | .f64 => true
  | _ => false

/-- `LT` 4 to 6: the transcendentals and the block instructions (R129, R132 to R134). -/
def LT.isFloat3 : LT → Bool
  | .bf16 | .f16 | .f32 => true
  | _ => false

/-- `LT` 0 to 2: widening and narrowing (R123, R124). -/
def LT.isInt3 : LT → Bool
  | .i8 | .i16 | .i32 => true
  | _ => false

/-- `LT` 8 to 10. -/
def LT.isNarrow : LT → Bool
  | .e4m3 | .e5m2 | .e2m1 => true
  | _ => false

/-- `LT` 0 to 7, where only the width matters (R117). -/
def LT.isWidth (lt : LT) : Bool := !lt.isNarrow

/-- Rounding numbers (R53). -/
def Rnd.code : Rnd → Nat
  | .ne => 0 | .tz => 1

/-- Element format numbers (R53). -/
def EF.code : EF → Nat
  | .i8 => 0 | .e4m3 => 1 | .e5m2 => 2 | .e2m1 => 3 | .bf16 => 4 | .f16 => 5 | .f64 => 6

/-- The element formats of block products (R158). -/
def EF.isBlock : EF → Bool
  | .e4m3 | .e5m2 | .e2m1 => true
  | _ => false

/-- K-blocks of 32 of a slot row (R146). -/
def EF.kblocks : EF → Nat
  | .e2m1 => 8
  | .e4m3 | .e5m2 => 4
  | _ => 0

/-- Annulment numbers (R53). -/
def An.code : An → Nat
  | .plain => 0 | .nt => 1 | .tk => 2

/-- Atomic size numbers (R53). -/
def Sz.code : Sz → Nat
  | .i32 => 0 | .i64 => 1 | .u32 => 2 | .u64 => 3

/-- Scope numbers (R37, R53). -/
def Scope.code : Scope → Nat
  | .core => 0 | .cluster => 1 | .die => 2 | .package => 3 | .job => 4

/-- The numbers of the operations of `vred` and `vscan` (R140). -/
def RedOp.code : RedOp → Nat
  | .add => 0 | .min => 1 | .max => 2 | .minz => 3 | .maxz => 4 | .and => 5 | .or => 6 | .xor => 7

/-- Which operations of R140 a lane type takes: all for the integer types, `add`, `min` and `max` for the float types. -/
def RedOp.accepts (op : RedOp) (lt : LT) : Bool :=
  lt.isInt || (lt.isFloat && match op with | .add | .min | .max => true | _ => false)

/-- `RND` is used by a float `add` and must be 0 elsewhere (R140). -/
def RedOp.rndOk (op : RedOp) (lt : LT) (rnd : Rnd) : Bool :=
  rnd == .ne || (lt.isFloat && op == .add)

/-- Indices of the system registers (R36). -/
def SysReg.code : SysReg → Nat
  | .flags => 0 | .mempol => 1 | .poltabl => 2 | .poltabh => 3 | .traprec => 4 | .frame => 5 | .cyf => 6 | .tick => 7
  | .deadline => 8 | .lc => 9 | .stages => 10 | .npc1 => 11 | .npc2 => 12 | .coreId => 13 | .regionId => 14 | .mpc => 15

/-- The parts of R149. -/
def OSel.code : OSel → Nat
  | .lo => 0 | .hi => 1 | .side => 2

/-- The parts of R164. -/
def AcSel.code : AcSel → Nat
  | .bm0 => 0 | .bm1 => 1 | .gm0 => 2 | .gm1 => 3 | .f32 => 4 | .gf32 => 5 | .f64lo => 6 | .f64hi => 7

/-- The parts of R190, as the read forms number them. -/
def CySel.code : CySel → Nat
  | .bm0 => 0 | .bm1 => 1 | .gm0 => 2 | .gm1 => 3 | .f32 => 4 | .gf32 => 5

/-- The operations of R271. -/
def RdcOp.code : RdcOp → Nat
  | .addI32 => 0 | .addF32 => 1 | .addBf16 => 2 | .addF64 => 3 | .maxI32 => 4 | .maxF32 => 5 | .minI32 => 6 | .minF32 => 7
  | .and => 8 | .or => 9 | .xor => 10 | .mxrE4m3 => 11 | .mxrE2m1 => 12

/-- The conversion pairs that `vfcvt` accepts (R130): integer with float either way, float to another float, and a narrow
format with bf16, f16 or f32 either way. -/
def cvtPairOk (dst src : LT) : Bool :=
  (dst.isInt && src.isFloat) || (dst.isFloat && src.isInt) ||
  (dst.isFloat && src.isFloat && dst != src) ||
  (dst.isNarrow && src.isFloat3) || (dst.isFloat3 && src.isNarrow)

/-- The part index of `vfcvt` (R130): below `wd / ws` for a widening conversion, 0 otherwise. -/
def cvtPartOk (dst src : LT) (p : Nat) : Bool :=
  if dst.width > src.width then decide (p < dst.width / src.width) else p == 0

/-- `U` of `vfcvt` must be 0 when neither side is an integer (R130). -/
def cvtUOk (dst src : LT) (u : Bool) : Bool := dst.isInt || src.isInt || !u

/-- The immediate of `vbcast` for the 16-bit float lanes has `IMM`[31:16] = 0 (R137). -/
def bcastImmOk (lt : LT) (imm : BitVec 32) : Bool :=
  lt.isWidth && ((lt != .bf16 && lt != .f16) || decide (imm.toNat < 65536))

/-- The condition codes of the integer compares (R72, R89, R125). -/
def CC.isInt (cc : CC) : Bool := cc != .uo

/-- The condition codes of `vfcmp` (R128). -/
def CC.isFloat : CC → Bool
  | .eq | .ne | .lt | .le | .gt | .ge | .uo => true
  | _ => false

/-- The element formats of `mma` (R157). -/
def EF.isMma : EF → Bool
  | .i8 | .bf16 | .f16 | .f64 => true
  | _ => false

/-- `mmas` (R160): tile forms for i8, bf16 and f16, plane forms for the block formats. -/
def mmasFieldsOk (ef : EF) : MmasDst → Bool
  | .tile _ row0 nrow => (ef == .i8 || ef == .bf16 || ef == .f16) && decide (row0 + nrow ≤ 63)
  | .plane _ kb => ef.isBlock && decide (kb < ef.kblocks)

/-- With bf16 or f16, `OSB` = 23 of `mmas` traps `BADOPND` (R160). -/
def mmasSlotOk (ef : EF) (ob : Fin 24) : Bool := (ef != .bf16 && ef != .f16) || ob.val != 23

/-- `ROW` of `owr` and `ordv` (R149). -/
def oRowOk (sel : OSel) (row : Nat) : Bool := decide (row < 64) && (sel != .side || row % 16 == 0)

/-- The scopes of `tlbi` (R222). -/
def tlbiScopeOk (sc : Scope) : Bool := sc == .die || sc == .package

/-- The slots present in a template word (R42). -/
def presBits (tpl : Unit16) : List Bool := (List.range 6).map fun i => tpl.toNat.testBit i

/-- How many slots a template names (R42). -/
def presCount (tpl : Unit16) : Nat := ((presBits tpl).filter id).length

end Sys2Proof
end

