-- ==== Sys2Proof/WellFormed.lean ====
section
/-! DEFINITION. Well-formed rows: the operand values an encoding can carry (spec/03 R53 and the chapter of each
instruction), and for the rows of the engines the numbers of units that exist (spec/00 R1, R4). -/

namespace Sys2Proof

/-- Core numbers are die, cluster, core packed into ten bits (R4). -/
def coreOk (c : Nat) : Bool := decide (c < 1024)

/-- The checks of R53 and of each instruction's entry on a row's operands. -/
def Instr.wf : Instr → Bool
  | .issueDictionaryBundle idx => decide (idx < 2048)
  | .issueLiteralBundle tpl words => words.length == presCount tpl
  | .annulledBundle (.dict idx) => decide (idx < 2048)
  | .sext _ _ _ n | .zext _ _ _ n => decide (1 ≤ n ∧ n ≤ 64)
  | .bfx _ _ _ pos w | .bfi _ _ _ _ pos w => decide (pos < 64 ∧ 1 ≤ w ∧ pos + w ≤ 64)
  | .cmp _ cc _ _ _ | .cmpi _ cc _ _ _ | .mwait _ _ cc _ _ _ => cc.isInt
  | .lnchSelf _ _ lvl => decide (lvl ≤ 4)
  | .eget _ _ idx => decide (idx ≤ 4)
  | .vadd _ _ lt _ _ | .vsub _ _ lt _ _ | .vmul _ _ lt _ _ | .vmulh _ _ lt _ _ _ | .vmac _ _ lt _ _ _
  | .vadds _ _ lt _ _ _ | .vsubs _ _ lt _ _ _ | .vabs _ _ lt _ | .vneg _ _ lt _ | .vmin _ _ lt _ _ | .vmax _ _ lt _ _
  | .vminz _ _ lt _ _ | .vmaxz _ _ lt _ _ | .vand _ _ lt _ _ | .vor _ _ lt _ _ | .vxor _ _ lt _ _ | .vandn _ _ lt _ _
  | .vclz _ _ lt _ | .vpopc _ _ lt _ => lt.isInt
  | .vwmul _ _ lt _ _ _ _ | .vwmac _ _ lt _ _ _ _ _ _ => lt.isInt3
  | .vnarrow _ _ lt s _ _ _ _ _ => lt.isInt3 && decide (s < 2 * lt.width)
  | .vshl _ _ lt _ (.imm n) | .vshr _ _ lt _ (.imm n) | .vsar _ _ lt _ (.imm n) => lt.isInt && decide (n < lt.width)
  | .vshl _ _ lt _ (.reg _) | .vshr _ _ lt _ (.reg _) | .vsar _ _ lt _ (.reg _) => lt.isInt
  | .vcmp _ _ cc lt _ _ => cc.isInt && lt.isInt
  | .vsel _ _ lt _ _ _ => lt.isWidth
  | .vfadd _ _ lt _ _ _ | .vfsub _ _ lt _ _ _ | .vfmul _ _ lt _ _ _ | .vfma _ _ lt _ _ _ _ | .vfmin _ _ lt _ _
  | .vfmax _ _ lt _ _ | .vfabs _ _ lt _ | .vfneg _ _ lt _ => lt.isFloat
  | .vfcmp _ _ cc lt _ _ => cc.isFloat && lt.isFloat
  | .vrcp _ _ lt _ _ | .vrsqrt _ _ lt _ _ | .vexp2 _ _ lt _ _ | .vlog2 _ _ lt _ _ | .vsigm _ _ lt _ _
  | .vtanh _ _ lt _ _ | .vamax _ _ lt _ => lt.isFloat3
  | .vfcvt _ _ lt src u p _ _ _ => cvtPairOk lt src && cvtUOk lt src u && cvtPartOk lt src p
  | .vqmx _ _ lt src _ => lt.isNarrow && src.isFloat3
  | .vdqmx _ _ lt src _ _ _ => lt.isFloat3 && src.isNarrow
  | .vperm _ _ lt _ _ _ _ | .vzip _ _ lt _ _ _ | .vunzip _ _ lt _ _ _ => lt.isInt
  | .vslide _ _ lt s _ _ => lt.isInt && decide (s < lt.lanes)
  | .vbcastScalar _ _ lt _ => lt.isWidth
  | .vbcastImm _ _ lt imm => bcastImmOk lt imm
  | .vins _ _ lt _ _ (.imm n) | .vext _ _ lt _ (.imm n) => lt.isWidth && decide (n < lt.lanes)
  | .vins _ _ lt _ _ (.reg _) | .vext _ _ lt _ (.reg _) => lt.isWidth
  | .vred _ _ op lt rnd _ | .vscan _ _ op lt rnd _ _ => op.accepts lt && op.rndOk lt rnd
  | .vldg _ _ lt _ _ _ _ | .vsts _ lt _ _ _ _ => lt.isWidth
  | .owr _ part _ row _ | .ordv _ _ part _ row => oRowOk part row
  | .mma _ ef _ _ _ row0 nrow => ef.isMma && decide (row0 + nrow ≤ 63)
  | .mmab _ ef _ _ _ kb | .scacc _ ef _ _ _ _ kb => ef.isBlock && decide (kb < ef.kblocks)
  | .mmas _ ef dst _ ob => mmasFieldsOk ef dst && mmasSlotOk ef ob
  | .afscan _ _ n | .afcomp _ _ n => decide (1 ≤ n ∧ n ≤ 64)
  | .tlbiVa _ _ _ sc _ _ | .tlbiRng _ _ _ sc _ _ _ | .tlbiAll _ _ _ sc _ => tlbiScopeOk sc
  | .resultLanding c | .sleeptoWake c | .mwaitEnd c | .svcResume c _ | .joinEnd c | .killTaken c | .productStart c
  | .productRowLanding c | .foldStart c | .foldRowLanding c | .scanStart c | .scanLanding c | .barwEnd c | .drainEnd c
  | .frecvEnd c | .quietEnd c | .fstatRecordLanding c | .promise c | .codeLineFetch c _ | .metadataFetch c _
  | .deadlineExpiry c | .handlerEnd c | .svreqWrite c _ | .preemptRequest c | .debugHaltRequest c | .debugRelease c
  | .snapshotComplete c | .contextSave c | .contextRestore c | .triggerCount c | .unitCount c
  | .fencedCoreReset c => coreOk c
  | .descriptorFetch cl st | .streamStepStart cl st => decide (cl < 64 ∧ st < 16)
  | .tableWalk cl part va => decide (cl < 64 ∧ part < 16 ∧ va < 2 ^ 55)
  | .sourceEdge n _ | .sourceLoss n => decide (n < 32)
  | .slotWindowClose r | .latchPresentation r | .regionStop r | .regionRestart r | .frameBoundary r | .timetableRelease r
  | .stallEndRelease r | .entrySkip r | .slip r => decide (r < 32)
  | .historySlotAdvance x | .crossingCompute x => decide (x < 64)
  | .wheelSlot c | .wheelRevolution c | .kilnChstWrite c _ => decide (c < 512)
  | .rdcownWrite r _ => decide (r < 16)
  | .partdescWrite p _ | .ptrootWrite p _ | .groupSweepDone p | .ebudgetWrite p _ => decide (p < 16)
  | .keyload k _ | .keyRevoke k => decide (k < 256)
  | .jobSlotWrite die slot _ => decide (die < 4 ∧ slot < 64)
  | .waveDownFlit _ die | .waveResultArrival _ die => decide (die < 4)
  | _ => true

end Sys2Proof
end

