-- ==== Sys2Proof/Decode.lean ====
section
/-! DEFINITION. From bits to instructions and back (spec/03 R39 to R59): fields of a slot word, one decoder per operand
form, the opcode maps of the four slot classes, code units, and the encoder written from the same tables. -/

namespace Sys2Proof

/-- What a slot word can fail at decode, in the order of R55. -/
inductive DecErr where
  | badOpc
  | badFld
  | badOpnd
  deriving DecidableEq, Repr

/-- The field of `len` bits that starts at bit `lo` of a word (R22, R51). -/
def fld (w lo len : Nat) : Nat := w / 2 ^ lo % 2 ^ len

/-- A `BADFLD` condition (R52, R53). -/
def chk (ok : Bool) : Except DecErr Unit := if ok then .ok () else .error .badFld

/-- A `BADOPND` condition (R49, R50, R53). -/
def chkOpnd (ok : Bool) : Except DecErr Unit := if ok then .ok () else .error .badOpnd

/-- A register number that the width of its field bounds. -/
def finOf (n : Nat) (h : 0 < n) (c : Nat) : Fin n := ⟨c % n, Nat.mod_lt c h⟩

/-- Scalar operand codes (R49). -/
def sopOf (c : Nat) : Except DecErr SOp :=
  if c < 0x10 then .ok (.b (finOf 16 (by decide) c))
  else if c < 0x30 then .ok (.k (finOf 32 (by decide) (c - 0x10)))
  else if c = 0x30 then .ok .zero
  else if c = 0x31 then .ok .one
  else if c = 0x32 then .ok .minus1
  else .error .badOpnd

/-- Vector operand codes (R49). -/
def vopOf (c : Nat) : Except DecErr VOp :=
  if c < 0x10 then .ok (.vb (finOf 16 (by decide) c))
  else if c < 0x20 then .ok (.w (finOf 16 (by decide) (c - 0x10)))
  else if c = 0x20 then .ok .vzero
  else .error .badOpnd

/-- Scalar destination codes (R50). -/
def sdstOf (c : Nat) : Except DecErr SDst :=
  if c = 0 then .ok .belt
  else if 0x10 ≤ c ∧ c < 0x30 then .ok (.k (finOf 32 (by decide) (c - 0x10)))
  else if c = 0x3F then .ok .discard
  else .error .badOpnd

/-- Vector destination codes (R50). -/
def vdstOf (c : Nat) : Except DecErr VDst :=
  if c = 0 then .ok .belt
  else if 0x10 ≤ c ∧ c < 0x20 then .ok (.w (finOf 16 (by decide) (c - 0x10)))
  else if c = 0x3F then .ok .discard
  else .error .badOpnd

/-- Operand-slot numbers (R53). -/
def slotOf (c : Nat) : Except DecErr (Fin 24) :=
  if h : c < 24 then .ok ⟨c, h⟩ else .error .badOpnd

/-- A coded field from its number: the first code of the list with that number, or `BADFLD` (R53). -/
def codeOf {α : Type} (all : List α) (num : α → Nat) (c : Nat) : Except DecErr α :=
  match all.find? fun a => num a == c with
  | some a => .ok a
  | none => .error .badFld

/-- Condition codes 0 to 10. -/
def CC.all : List CC := [.eq, .ne, .lt, .le, .gt, .ge, .ltz, .lez, .gtz, .gez, .uo]
/-- Lane types 0 to 10. -/
def LT.all : List LT := [.i8, .i16, .i32, .i64, .bf16, .f16, .f32, .f64, .e4m3, .e5m2, .e2m1]
/-- Roundings 0 and 1. -/
def Rnd.all : List Rnd := [.ne, .tz]
/-- Element formats 0 to 6. -/
def EF.all : List EF := [.i8, .e4m3, .e5m2, .e2m1, .bf16, .f16, .f64]
/-- Annulment codes 0 to 2. -/
def An.all : List An := [.plain, .nt, .tk]
/-- Atomic sizes 0 to 3. -/
def Sz.all : List Sz := [.i32, .i64, .u32, .u64]
/-- Scopes 0 to 4. -/
def Scope.all : List Scope := [.core, .cluster, .die, .package, .job]
/-- Operations of R140. -/
def RedOp.all : List RedOp := [.add, .min, .max, .minz, .maxz, .and, .or, .xor]
/-- System registers 0x00 to 0x0F. -/
def SysReg.all : List SysReg :=
  [.flags, .mempol, .poltabl, .poltabh, .traprec, .frame, .cyf, .tick, .deadline, .lc, .stages, .npc1, .npc2, .coreId,
   .regionId, .mpc]
/-- Parts of R149. -/
def OSel.all : List OSel := [.lo, .hi, .side]
/-- Parts of R164. -/
def AcSel.all : List AcSel := [.bm0, .bm1, .gm0, .gm1, .f32, .gf32, .f64lo, .f64hi]
/-- Parts of R190. -/
def CySel.all : List CySel := [.bm0, .bm1, .gm0, .gm1, .f32, .gf32]
/-- Operations of R271. -/
def RdcOp.all : List RdcOp :=
  [.addI32, .addF32, .addBf16, .addF64, .maxI32, .maxF32, .minI32, .minF32, .and, .or, .xor, .mxrE4m3, .mxrE2m1]

/-- The guard of a slot word (R48). -/
def guardOf (w : Nat) : Guard := ⟨finOf 16 (by decide) (fld w 52 4), fld w 51 1 == 1⟩

/-- `BAR` and the barrier number of `X8`[7:1] (R201, R203). -/
def barOf (x8 : Nat) : Option (Fin 64) :=
  if fld x8 7 1 = 1 then some (finOf 64 (by decide) (fld x8 1 6)) else none

/-- With `BAR` = 0, `X8`[6:1] must be 0 (R203). -/
def barOk (x8 : Nat) : Bool := fld x8 7 1 == 1 || fld x8 1 6 == 0

/-! ### Scalar forms (R51, R65 to R96) -/

/-- `SRR` with two operands. -/
def decS2 (mk : Guard → SDst → SOp → SOp → Instr) (w : Nat) : Except DecErr Instr := do
  chk (fld w 0 33 == 0)
  return mk (guardOf w) (← sdstOf (fld w 45 6)) (← sopOf (fld w 39 6)) (← sopOf (fld w 33 6))

/-- `SRR` with one operand. -/
def decS1 (mk : Guard → SDst → SOp → Instr) (w : Nat) : Except DecErr Instr := do
  chk (fld w 0 39 == 0)
  return mk (guardOf w) (← sdstOf (fld w 45 6)) (← sopOf (fld w 39 6))

/-- A shift: `Y6` selects the form (R68). -/
def decShift (mk : Guard → SDst → SOp → Amt → Instr) (w : Nat) : Except DecErr Instr := do
  chk (fld w 27 6 == 0 && fld w 0 15 == 0)
  if fld w 15 6 = 0 then do
    chk (fld w 21 6 == 0)
    return mk (guardOf w) (← sdstOf (fld w 45 6)) (← sopOf (fld w 39 6)) (.reg (← sopOf (fld w 33 6)))
  else do
    chk (fld w 15 6 == 1 && fld w 33 6 == 0)
    return mk (guardOf w) (← sdstOf (fld w 45 6)) (← sopOf (fld w 39 6)) (.imm (finOf 64 (by decide) (fld w 21 6)))

/-- `sext` and `zext`: `X6` holds n − 1 (R69). -/
def decExt (mk : Guard → SDst → SOp → Nat → Instr) (w : Nat) : Except DecErr Instr := do
  chk (fld w 27 12 == 0 && fld w 0 21 == 0)
  return mk (guardOf w) (← sdstOf (fld w 45 6)) (← sopOf (fld w 39 6)) (fld w 21 6 + 1)

/-- `bfx`: `X6` holds pos and `Y6` holds w − 1 (R69). -/
def decBfx (w : Nat) : Except DecErr Instr := do
  chk (fld w 27 12 == 0 && fld w 0 15 == 0 && decide (fld w 21 6 + (fld w 15 6 + 1) ≤ 64))
  return .bfx (guardOf w) (← sdstOf (fld w 45 6)) (← sopOf (fld w 39 6)) (fld w 21 6) (fld w 15 6 + 1)

/-- `bfi`. -/
def decBfi (w : Nat) : Except DecErr Instr := do
  chk (fld w 27 6 == 0 && fld w 0 15 == 0 && decide (fld w 21 6 + (fld w 15 6 + 1) ≤ 64))
  return .bfi (guardOf w) (← sdstOf (fld w 45 6)) (← sopOf (fld w 39 6)) (← sopOf (fld w 33 6)) (fld w 21 6)
    (fld w 15 6 + 1)

/-- `sel`: `Y6`[3:0] names the predicate (R70). -/
def decSel (w : Nat) : Except DecErr Instr := do
  chk (fld w 21 12 == 0 && fld w 19 2 == 0 && fld w 0 15 == 0)
  return .sel (guardOf w) (← sdstOf (fld w 45 6)) (finOf 16 (by decide) (fld w 15 4)) (← sopOf (fld w 39 6))
    (← sopOf (fld w 33 6))

/-- `SMEM` with a result: `lea` and the loads. -/
def decLd (mk : Guard → SDst → SOp → BitVec 20 → Instr) (w : Nat) : Except DecErr Instr := do
  chk (fld w 27 12 == 0 && fld w 0 7 == 0)
  return mk (guardOf w) (← sdstOf (fld w 45 6)) (← sopOf (fld w 39 6)) (BitVec.ofNat 20 (fld w 7 20))

/-- `SMEM` without a result: the stores. -/
def decSt (mk : Guard → SOp → SOp → BitVec 20 → Instr) (w : Nat) : Except DecErr Instr := do
  chk (fld w 45 6 == 0 && fld w 27 6 == 0 && fld w 0 7 == 0)
  return mk (guardOf w) (← sopOf (fld w 33 6)) (← sopOf (fld w 39 6)) (BitVec.ofNat 20 (fld w 7 20))

/-- `SRI` with an operand. -/
def decSri (mk : Guard → SDst → SOp → BitVec 32 → Instr) (w : Nat) : Except DecErr Instr := do
  chk (fld w 0 7 == 0)
  return mk (guardOf w) (← sdstOf (fld w 45 6)) (← sopOf (fld w 39 6)) (BitVec.ofNat 32 (fld w 7 32))

/-- `li`. -/
def decLi (w : Nat) : Except DecErr Instr := do
  chk (fld w 0 7 == 0 && fld w 39 6 == 0)
  return .li (guardOf w) (← sdstOf (fld w 45 6)) (BitVec.ofNat 32 (fld w 7 32))

/-- `SPR` register form. -/
def decCmp (w : Nat) : Except DecErr Instr := do
  chk (fld w 45 2 == 0 && fld w 27 6 == 0 && fld w 0 23 == 0)
  let cc ← codeOf CC.all CC.code (fld w 23 4)
  chk cc.isInt
  return .cmp (guardOf w) cc (finOf 16 (by decide) (fld w 47 4)) (← sopOf (fld w 39 6)) (← sopOf (fld w 33 6))

/-- `SPR` immediate form. -/
def decCmpi (w : Nat) : Except DecErr Instr := do
  chk (fld w 45 2 == 0 && fld w 0 3 == 0)
  let cc ← codeOf CC.all CC.code (fld w 3 4)
  chk cc.isInt
  return .cmpi (guardOf w) cc (finOf 16 (by decide) (fld w 47 4)) (← sopOf (fld w 39 6)) (BitVec.ofNat 32 (fld w 7 32))

/-- `SPR` logic form with two predicates. -/
def decPlog (mk : Guard → Fin 16 → Fin 16 → Bool → Fin 16 → Bool → Instr) (w : Nat) : Except DecErr Instr := do
  chk (fld w 27 20 == 0 && fld w 0 17 == 0)
  return mk (guardOf w) (finOf 16 (by decide) (fld w 47 4)) (finOf 16 (by decide) (fld w 23 4)) (fld w 22 1 == 1)
    (finOf 16 (by decide) (fld w 18 4)) (fld w 17 1 == 1)

/-- `pnot`. -/
def decPnot (w : Nat) : Except DecErr Instr := do
  chk (fld w 27 20 == 0 && fld w 0 22 == 0)
  return .pnot (guardOf w) (finOf 16 (by decide) (fld w 47 4)) (finOf 16 (by decide) (fld w 23 4)) (fld w 22 1 == 1)

/-- `br` (R83). -/
def decBr (w : Nat) : Except DecErr Instr := do
  chk (fld w 39 12 == 0 && fld w 0 5 == 0)
  let an ← codeOf An.all An.code (fld w 5 2)
  return .br (guardOf w) an (BitVec.ofNat 32 (fld w 7 32))

/-- `bri` (R83). -/
def decBri (w : Nat) : Except DecErr Instr := do
  chk (fld w 45 6 == 0 && fld w 0 5 == 0)
  let an ← codeOf An.all An.code (fld w 5 2)
  return .bri (guardOf w) an (← sopOf (fld w 39 6)) (BitVec.ofNat 32 (fld w 7 32))

/-- `call` (R83). -/
def decCall (w : Nat) : Except DecErr Instr := do
  chk (fld w 39 6 == 0 && fld w 0 5 == 0)
  let an ← codeOf An.all An.code (fld w 5 2)
  return .call (guardOf w) an (← sdstOf (fld w 45 6)) (BitVec.ofNat 32 (fld w 7 32))

/-- `ret` (R83). -/
def decRet (w : Nat) : Except DecErr Instr := do
  chk (fld w 45 6 == 0 && fld w 7 32 == 0 && fld w 0 5 == 0)
  let an ← codeOf An.all An.code (fld w 5 2)
  return .ret (guardOf w) an (← sopOf (fld w 39 6))

/-- `loop` (R83). -/
def decLoop (w : Nat) : Except DecErr Instr := do
  chk (fld w 45 6 == 0 && fld w 5 2 == 0 && fld w 0 2 == 0)
  return .loop (guardOf w) (← sopOf (fld w 39 6)) (BitVec.ofNat 32 (fld w 7 32)) (finOf 8 (by decide) (fld w 2 3))

/-- `loopb` (R83). -/
def decLoopb (w : Nat) : Except DecErr Instr := do
  chk (fld w 39 12 == 0 && fld w 0 7 == 0)
  return .loopb (guardOf w) (BitVec.ofNat 32 (fld w 7 32))

/-- `SSYS` with nothing used: `trig`, `exit`, `rte`. -/
def decSys0 (mk : Guard → Instr) (w : Nat) : Except DecErr Instr := do
  chk (fld w 0 51 == 0)
  return mk (guardOf w)

/-- `sleepto`. -/
def decSleep (w : Nat) : Except DecErr Instr := do
  chk (fld w 45 6 == 0 && fld w 0 39 == 0)
  return .sleepto (guardOf w) (← sopOf (fld w 39 6))

/-- `trap` and `brk`. -/
def decSysN (mk : Guard → BitVec 8 → Instr) (w : Nat) : Except DecErr Instr := do
  chk (fld w 27 24 == 0 && fld w 0 19 == 0)
  return mk (guardOf w) (BitVec.ofNat 8 (fld w 19 8))

/-- `mwait` (R89). -/
def decMwait (w : Nat) : Except DecErr Instr := do
  chk (fld w 23 4 == 0 && fld w 0 19 == 0)
  let cc ← codeOf CC.all CC.code (fld w 19 4)
  chk cc.isInt
  return .mwait (guardOf w) (← sdstOf (fld w 45 6)) cc (← sopOf (fld w 39 6)) (← sopOf (fld w 33 6))
    (← sopOf (fld w 27 6))

/-- `svc`. -/
def decSvc (w : Nat) : Except DecErr Instr := do
  chk (fld w 0 19 == 0)
  return .svc (guardOf w) (← sdstOf (fld w 45 6)) (BitVec.ofNat 8 (fld w 19 8)) (← sopOf (fld w 39 6))
    (← sopOf (fld w 33 6)) (← sopOf (fld w 27 6))

/-- The register that `IDX` names; 0x10 to 0xFF trap `BADOPND` (R95). -/
def sysRegOf (c : Nat) : Except DecErr SysReg :=
  match SysReg.all[c]? with
  | some r => .ok r
  | none => .error .badOpnd

/-- `sget`. -/
def decSget (w : Nat) : Except DecErr Instr := do
  chk (fld w 27 18 == 0 && fld w 0 19 == 0)
  return .sget (guardOf w) (← sdstOf (fld w 45 6)) (← sysRegOf (fld w 19 8))

/-- `sput`. -/
def decSput (w : Nat) : Except DecErr Instr := do
  chk (fld w 45 6 == 0 && fld w 27 12 == 0 && fld w 0 19 == 0)
  return .sput (guardOf w) (← sysRegOf (fld w 19 8)) (← sopOf (fld w 39 6))

/-- `lnch` and its three forms (R288). -/
def decLnch (w : Nat) : Except DecErr Instr := do
  chk (fld w 24 3 == 0 && fld w 0 19 == 0)
  if fld w 19 2 = 0 then do
    chk (fld w 21 3 == 0)
    return .lnch (guardOf w) (← sdstOf (fld w 45 6)) (← sopOf (fld w 39 6)) (← sopOf (fld w 33 6)) (← sopOf (fld w 27 6))
  else if fld w 19 2 = 1 then do
    chk (fld w 21 3 == 0 && fld w 27 6 == 0)
    return .lnchPh (guardOf w) (← sdstOf (fld w 45 6)) (← sopOf (fld w 39 6)) (← sopOf (fld w 33 6))
  else do
    chk (fld w 19 2 == 2 && fld w 27 18 == 0 && decide (fld w 21 3 ≤ 4))
    return .lnchSelf (guardOf w) (← sdstOf (fld w 45 6)) (fld w 21 3)

/-- `join`. -/
def decJoin (w : Nat) : Except DecErr Instr := do
  chk (fld w 0 33 == 0)
  return .join (guardOf w) (← sdstOf (fld w 45 6)) (← sopOf (fld w 39 6)) (← sopOf (fld w 33 6))

/-- `eget`. -/
def decEget (w : Nat) : Except DecErr Instr := do
  chk (fld w 27 18 == 0 && fld w 0 19 == 0 && decide (fld w 19 8 ≤ 4))
  return .eget (guardOf w) (← sdstOf (fld w 45 6)) (fld w 19 8)

/-- The scalar class (R56). -/
def decodeS (w : Nat) : Except DecErr Instr :=
  match fld w 56 8 with
  | 0x01 => decS2 .add w | 0x02 => decS2 .sub w | 0x03 => decS1 .neg w | 0x04 => decS2 .mul w
  | 0x05 => decS2 .mulh w | 0x06 => decS2 .mulhz w | 0x07 => decS2 .div w | 0x08 => decS2 .divz w
  | 0x09 => decS2 .rem w | 0x0A => decS2 .remz w | 0x0B => decS2 .min w | 0x0C => decS2 .max w
  | 0x0D => decS2 .minz w | 0x0E => decS2 .maxz w | 0x0F => decS1 .abs w
  | 0x10 => decS2 .and w | 0x11 => decS2 .or w | 0x12 => decS2 .xor w | 0x13 => decS2 .andn w | 0x14 => decS2 .orn w
  | 0x15 => decShift .shl w | 0x16 => decShift .shr w | 0x17 => decShift .sar w | 0x18 => decShift .rotl w
  | 0x20 => decS1 .clz w | 0x21 => decS1 .ctz w | 0x22 => decS1 .popc w | 0x23 => decS1 .bswap w
  | 0x24 => decExt .sext w | 0x25 => decExt .zext w | 0x26 => decBfx w | 0x27 => decBfi w
  | 0x30 => decSel w | 0x31 => decS1 .mov w | 0x32 => decLd .lea w
  | 0x40 => decSri .addi w | 0x41 => decLi w | 0x42 => decSri .lih w
  | 0x50 => decCmp w | 0x51 => decCmpi w | 0x52 => decPlog .pand w | 0x53 => decPlog .por w | 0x54 => decPlog .pxor w
  | 0x55 => decPnot w
  | 0x60 => decLd .ldB w | 0x61 => decLd .ldBz w | 0x62 => decLd .ldH w | 0x63 => decLd .ldHz w
  | 0x64 => decLd .ldW w | 0x65 => decLd .ldWz w | 0x66 => decLd .ldD w
  | 0x68 => decSt .stB w | 0x69 => decSt .stH w | 0x6A => decSt .stW w | 0x6B => decSt .stD w
  | 0x80 => decBr w | 0x81 => decBri w | 0x82 => decCall w | 0x83 => decRet w | 0x84 => decLoop w | 0x85 => decLoopb w
  | 0x90 => decSleep w | 0x91 => decMwait w | 0x92 => decSys0 .trig w | 0x93 => decSys0 .exit w | 0x94 => decSvc w
  | 0x95 => decSysN .trap w | 0x96 => decSys0 .rte w | 0x97 => decSget w | 0x98 => decSput w | 0x99 => decSysN .brk w
  | 0xA0 => decLnch w | 0xA1 => decJoin w | 0xA2 => decS1 .cancel w | 0xA3 => decEget w
  | _ => .error .badOpc

/-! ### Vector forms (R51, R117 to R143, R259) -/

/-- `LT` of `VRR` and `VX`, with the set of types the entry accepts. -/
def ltOf (ok : LT → Bool) (c : Nat) : Except DecErr LT := do
  let lt ← codeOf LT.all LT.code c
  chk (ok lt)
  return lt

/-- `RND` of `VRR`. -/
def rndOf (w : Nat) : Except DecErr Rnd := codeOf Rnd.all Rnd.code (fld w 21 2)

/-- `VRR` with one operand; `RND`, `SAT` and `X8` are 0. -/
def decV1 (ok : LT → Bool) (mk : Guard → VDst → LT → VOp → Instr) (w : Nat) : Except DecErr Instr := do
  chk (fld w 0 23 == 0 && fld w 27 12 == 0)
  let lt ← ltOf ok (fld w 23 4)
  return mk (guardOf w) (← vdstOf (fld w 45 6)) lt (← vopOf (fld w 39 6))

/-- `VRR` with two operands. -/
def decV2 (ok : LT → Bool) (mk : Guard → VDst → LT → VOp → VOp → Instr) (w : Nat) : Except DecErr Instr := do
  chk (fld w 0 23 == 0 && fld w 27 6 == 0)
  let lt ← ltOf ok (fld w 23 4)
  return mk (guardOf w) (← vdstOf (fld w 45 6)) lt (← vopOf (fld w 39 6)) (← vopOf (fld w 33 6))

/-- `VRR` with three operands. -/
def decV3 (ok : LT → Bool) (mk : Guard → VDst → LT → VOp → VOp → VOp → Instr) (w : Nat) : Except DecErr Instr := do
  chk (fld w 0 23 == 0)
  let lt ← ltOf ok (fld w 23 4)
  return mk (guardOf w) (← vdstOf (fld w 45 6)) lt (← vopOf (fld w 39 6)) (← vopOf (fld w 33 6)) (← vopOf (fld w 27 6))

/-- `VRR` with two operands and one bit in `X8`[0]. -/
def decV2x (ok : LT → Bool) (mk : Guard → VDst → LT → Bool → VOp → VOp → Instr) (w : Nat) : Except DecErr Instr := do
  chk (fld w 13 10 == 0 && fld w 0 12 == 0 && fld w 27 6 == 0)
  let lt ← ltOf ok (fld w 23 4)
  return mk (guardOf w) (← vdstOf (fld w 45 6)) lt (fld w 12 1 == 1) (← vopOf (fld w 39 6)) (← vopOf (fld w 33 6))

/-- `vperm`: `X8`[0] is `Z` (R135). -/
def decVperm (w : Nat) : Except DecErr Instr := do
  chk (fld w 13 10 == 0 && fld w 0 12 == 0)
  let lt ← ltOf LT.isInt (fld w 23 4)
  return .vperm (guardOf w) (← vdstOf (fld w 45 6)) lt (fld w 12 1 == 1) (← vopOf (fld w 39 6)) (← vopOf (fld w 33 6))
    (← vopOf (fld w 27 6))

/-- `vwmul` (R123). -/
def decVwmul (w : Nat) : Except DecErr Instr := do
  chk (fld w 14 9 == 0 && fld w 0 12 == 0 && fld w 27 6 == 0)
  let lt ← ltOf LT.isInt3 (fld w 23 4)
  return .vwmul (guardOf w) (← vdstOf (fld w 45 6)) lt (fld w 12 1 == 1) (fld w 13 1 == 1) (← vopOf (fld w 39 6))
    (← vopOf (fld w 33 6))

/-- `vwmac` (R123). -/
def decVwmac (w : Nat) : Except DecErr Instr := do
  chk (fld w 14 6 == 0 && fld w 21 2 == 0 && fld w 0 12 == 0)
  let lt ← ltOf LT.isInt3 (fld w 23 4)
  return .vwmac (guardOf w) (← vdstOf (fld w 45 6)) lt (fld w 12 1 == 1) (fld w 13 1 == 1) (fld w 20 1 == 1)
    (← vopOf (fld w 39 6)) (← vopOf (fld w 33 6)) (← vopOf (fld w 27 6))

/-- `vnarrow` (R124). -/
def decVnarrow (w : Nat) : Except DecErr Instr := do
  chk (fld w 19 1 == 0 && fld w 0 12 == 0 && fld w 27 6 == 0)
  let rnd ← rndOf w
  let lt ← ltOf LT.isInt3 (fld w 23 4)
  chk (decide (fld w 12 6 < 2 * lt.width))
  return .vnarrow (guardOf w) (← vdstOf (fld w 45 6)) lt (fld w 12 6) (fld w 18 1 == 1) rnd (fld w 20 1 == 1)
    (← vopOf (fld w 39 6)) (← vopOf (fld w 33 6))

/-- The lane shifts (R122). -/
def decVshift (mk : Guard → VDst → LT → VOp → VAmt → Instr) (w : Nat) : Except DecErr Instr := do
  chk (fld w 20 3 == 0 && fld w 0 12 == 0 && fld w 27 6 == 0 && fld w 18 1 == 0)
  let lt ← ltOf LT.isInt (fld w 23 4)
  if fld w 19 1 = 0 then do
    chk (fld w 12 6 == 0)
    return mk (guardOf w) (← vdstOf (fld w 45 6)) lt (← vopOf (fld w 39 6)) (.reg (← vopOf (fld w 33 6)))
  else do
    chk (fld w 33 6 == 0 && decide (fld w 12 6 < lt.width))
    return mk (guardOf w) (← vdstOf (fld w 45 6)) lt (← vopOf (fld w 39 6)) (.imm (fld w 12 6))

/-- `vcmp` and `vfcmp`: `X8`[3:0] is `CC` (R125, R128). -/
def decVcmp (okc : CC → Bool) (ok : LT → Bool) (mk : Guard → VDst → CC → LT → VOp → VOp → Instr) (w : Nat) :
    Except DecErr Instr := do
  chk (fld w 16 7 == 0 && fld w 0 12 == 0 && fld w 27 6 == 0)
  let cc ← codeOf CC.all CC.code (fld w 12 4)
  chk (okc cc)
  let lt ← ltOf ok (fld w 23 4)
  return mk (guardOf w) (← vdstOf (fld w 45 6)) cc lt (← vopOf (fld w 39 6)) (← vopOf (fld w 33 6))

/-- Float lanes with `RND` and one operand: the transcendentals (R129). -/
def decVr1 (mk : Guard → VDst → LT → Rnd → VOp → Instr) (w : Nat) : Except DecErr Instr := do
  chk (fld w 0 21 == 0 && fld w 27 12 == 0)
  let rnd ← rndOf w
  let lt ← ltOf LT.isFloat3 (fld w 23 4)
  return mk (guardOf w) (← vdstOf (fld w 45 6)) lt rnd (← vopOf (fld w 39 6))

/-- Float lanes with `RND` and two operands (R126). -/
def decVr2 (mk : Guard → VDst → LT → Rnd → VOp → VOp → Instr) (w : Nat) : Except DecErr Instr := do
  chk (fld w 0 21 == 0 && fld w 27 6 == 0)
  let rnd ← rndOf w
  let lt ← ltOf LT.isFloat (fld w 23 4)
  return mk (guardOf w) (← vdstOf (fld w 45 6)) lt rnd (← vopOf (fld w 39 6)) (← vopOf (fld w 33 6))

/-- `vfma` (R126). -/
def decVfma (w : Nat) : Except DecErr Instr := do
  chk (fld w 0 21 == 0)
  let rnd ← rndOf w
  let lt ← ltOf LT.isFloat (fld w 23 4)
  return .vfma (guardOf w) (← vdstOf (fld w 45 6)) lt rnd (← vopOf (fld w 39 6)) (← vopOf (fld w 33 6))
    (← vopOf (fld w 27 6))

/-- `vfcvt` (R130). -/
def decVfcvt (w : Nat) : Except DecErr Instr := do
  chk (fld w 0 12 == 0 && fld w 27 12 == 0)
  let rnd ← rndOf w
  let lt ← codeOf LT.all LT.code (fld w 23 4)
  let src ← codeOf LT.all LT.code (fld w 12 4)
  chk (cvtPairOk lt src && cvtUOk lt src (fld w 16 1 == 1) && cvtPartOk lt src (fld w 17 3))
  return .vfcvt (guardOf w) (← vdstOf (fld w 45 6)) lt src (fld w 16 1 == 1) (fld w 17 3) rnd (fld w 20 1 == 1)
    (← vopOf (fld w 39 6))

/-- `vqmx` (R133). -/
def decVqmx (w : Nat) : Except DecErr Instr := do
  chk (fld w 16 7 == 0 && fld w 0 12 == 0 && fld w 27 12 == 0)
  let lt ← ltOf LT.isNarrow (fld w 23 4)
  let src ← ltOf LT.isFloat3 (fld w 12 4)
  return .vqmx (guardOf w) (← vdstOf (fld w 45 6)) lt src (← vopOf (fld w 39 6))

/-- `vdqmx` (R134). -/
def decVdqmx (w : Nat) : Except DecErr Instr := do
  chk (fld w 16 4 == 0 && fld w 0 12 == 0 && fld w 27 12 == 0)
  let rnd ← rndOf w
  let lt ← ltOf LT.isFloat3 (fld w 23 4)
  let src ← ltOf LT.isNarrow (fld w 12 4)
  return .vdqmx (guardOf w) (← vdstOf (fld w 45 6)) lt src rnd (fld w 20 1 == 1) (← vopOf (fld w 39 6))

/-- `vslide` (R136). -/
def decVslide (w : Nat) : Except DecErr Instr := do
  chk (fld w 20 3 == 0 && fld w 0 12 == 0 && fld w 27 6 == 0)
  let lt ← ltOf LT.isInt (fld w 23 4)
  chk (decide (fld w 12 8 < lt.lanes))
  return .vslide (guardOf w) (← vdstOf (fld w 45 6)) lt (fld w 12 8) (← vopOf (fld w 39 6)) (← vopOf (fld w 33 6))

/-- `vbcast` from a scalar (R137). -/
def decVbcastS (w : Nat) : Except DecErr Instr := do
  chk (fld w 0 23 == 0 && fld w 27 12 == 0)
  let lt ← ltOf LT.isWidth (fld w 23 4)
  return .vbcastScalar (guardOf w) (← vdstOf (fld w 45 6)) lt (← sopOf (fld w 39 6))

/-- `vbcast` of an immediate (R137). -/
def decVbcastI (w : Nat) : Except DecErr Instr := do
  chk (fld w 39 6 == 0 && fld w 0 3 == 0)
  let lt ← ltOf LT.isWidth (fld w 3 4)
  chk (bcastImmOk lt (BitVec.ofNat 32 (fld w 7 32)))
  return .vbcastImm (guardOf w) (← vdstOf (fld w 45 6)) lt (BitVec.ofNat 32 (fld w 7 32))

/-- `vins` (R138). -/
def decVins (w : Nat) : Except DecErr Instr := do
  chk (fld w 0 11 == 0)
  let lt ← ltOf LT.isWidth (fld w 23 4)
  if fld w 19 4 = 0 then do
    chk (fld w 27 6 == 0 && decide (fld w 11 8 < lt.lanes))
    return .vins (guardOf w) (← vdstOf (fld w 45 6)) lt (← vopOf (fld w 39 6)) (← sopOf (fld w 33 6)) (.imm (fld w 11 8))
  else do
    chk (fld w 19 4 == 1 && fld w 11 8 == 0)
    return .vins (guardOf w) (← vdstOf (fld w 45 6)) lt (← vopOf (fld w 39 6)) (← sopOf (fld w 33 6))
      (.reg (← sopOf (fld w 27 6)))

/-- `vext` (R138). -/
def decVext (w : Nat) : Except DecErr Instr := do
  chk (fld w 0 11 == 0 && fld w 33 6 == 0)
  let lt ← ltOf LT.isWidth (fld w 23 4)
  if fld w 19 4 = 0 then do
    chk (fld w 27 6 == 0 && decide (fld w 11 8 < lt.lanes))
    return .vext (guardOf w) (← vdstOf (fld w 45 6)) lt (← vopOf (fld w 39 6)) (.imm (fld w 11 8))
  else do
    chk (fld w 19 4 == 1 && fld w 11 8 == 0)
    return .vext (guardOf w) (← vdstOf (fld w 45 6)) lt (← vopOf (fld w 39 6)) (.reg (← sopOf (fld w 27 6)))

/-- `vred` (R140, R141). -/
def decVred (w : Nat) : Except DecErr Instr := do
  chk (fld w 15 6 == 0 && fld w 0 12 == 0 && fld w 27 12 == 0)
  let op ← codeOf RedOp.all RedOp.code (fld w 12 3)
  let rnd ← rndOf w
  let lt ← codeOf LT.all LT.code (fld w 23 4)
  chk (op.accepts lt && op.rndOk lt rnd)
  return .vred (guardOf w) (← vdstOf (fld w 45 6)) op lt rnd (← vopOf (fld w 39 6))

/-- `vscan` (R140, R142). -/
def decVscan (w : Nat) : Except DecErr Instr := do
  chk (fld w 16 5 == 0 && fld w 0 12 == 0 && fld w 27 6 == 0)
  let op ← codeOf RedOp.all RedOp.code (fld w 12 3)
  let rnd ← rndOf w
  let lt ← codeOf LT.all LT.code (fld w 23 4)
  chk (op.accepts lt && op.rndOk lt rnd)
  if fld w 15 1 = 1 then do
    return .vscan (guardOf w) (← vdstOf (fld w 45 6)) op lt rnd (← vopOf (fld w 39 6)) (some (← vopOf (fld w 33 6)))
  else do
    chk (fld w 33 6 == 0)
    return .vscan (guardOf w) (← vdstOf (fld w 45 6)) op lt rnd (← vopOf (fld w 39 6)) none

/-- `vld` (R143). -/
def decVld (w : Nat) : Except DecErr Instr := do
  chk (fld w 27 12 == 0 && fld w 0 7 == 0)
  return .vld (guardOf w) (← vdstOf (fld w 45 6)) (← sopOf (fld w 39 6)) (BitVec.ofNat 20 (fld w 7 20))

/-- `vst` (R143). -/
def decVst (w : Nat) : Except DecErr Instr := do
  chk (fld w 45 6 == 0 && fld w 27 6 == 0 && fld w 0 7 == 0)
  return .vst (guardOf w) (← vopOf (fld w 33 6)) (← sopOf (fld w 39 6)) (BitVec.ofNat 20 (fld w 7 20))

/-- `vldg` (R143). -/
def decVldg (w : Nat) : Except DecErr Instr := do
  chk (fld w 0 3 == 0)
  let lt ← ltOf LT.isWidth (fld w 3 4)
  return .vldg (guardOf w) (← vdstOf (fld w 45 6)) lt (← sopOf (fld w 39 6)) (BitVec.ofNat 20 (fld w 7 20))
    (← vopOf (fld w 33 6)) (← sopOf (fld w 27 6))

/-- `vsts` (R143). -/
def decVsts (w : Nat) : Except DecErr Instr := do
  chk (fld w 45 6 == 0 && fld w 0 3 == 0)
  let lt ← ltOf LT.isWidth (fld w 3 4)
  return .vsts (guardOf w) lt (← vopOf (fld w 33 6)) (← sopOf (fld w 39 6)) (BitVec.ofNat 20 (fld w 7 20))
    (← sopOf (fld w 27 6))

/-- `xin` and `xstat` (R259). -/
def decXin (mkL : Guard → VDst → Fin 4 → Instr) (mkX : Guard → VDst → BitVec 8 → Instr) (w : Nat) :
    Except DecErr Instr := do
  chk (fld w 27 18 == 0 && fld w 0 11 == 0 && fld w 23 4 == 2)
  if fld w 19 4 < 4 then do
    chk (fld w 11 8 == 0)
    return mkL (guardOf w) (← vdstOf (fld w 45 6)) (finOf 4 (by decide) (fld w 19 4))
  else do
    chk (fld w 19 4 == 8)
    return mkX (guardOf w) (← vdstOf (fld w 45 6)) (BitVec.ofNat 8 (fld w 11 8))

/-- `xout` (R259). -/
def decXout (w : Nat) : Except DecErr Instr := do
  chk (fld w 45 6 == 0 && fld w 27 12 == 0 && fld w 0 11 == 0)
  if fld w 19 4 = 0 then do
    chk (fld w 23 4 == 2)
    return .xoutD (guardOf w) (← vopOf (fld w 39 6)) (BitVec.ofNat 8 (fld w 11 8))
  else if fld w 19 4 = 1 then do
    chk (fld w 23 4 == 1 && fld w 11 8 == 0)
    return .xoutW (guardOf w) (← vopOf (fld w 39 6))
  else do
    chk (fld w 19 4 == 2 && fld w 23 4 == 3 && fld w 11 8 == 0)
    return .xoutCfg (guardOf w) (← vopOf (fld w 39 6))

/-- The codes of the vector class that V0 does not accept (R57). -/
def v1Only (opc : Nat) : Bool := opc == 0x40 || (0x45 ≤ opc && opc ≤ 0x48)

/-- The codes of the vector class that V1 does not accept (R57). -/
def v0Only (opc : Nat) : Bool := 0x60 ≤ opc && opc ≤ 0x62

/-- The vector class (R57), in V0 (`v1` false) or V1. -/
def decodeV (v1 : Bool) (w : Nat) : Except DecErr Instr :=
  if (v1 && v0Only (fld w 56 8)) || (!v1 && v1Only (fld w 56 8)) then .error .badOpc else
  match fld w 56 8 with
  | 0x01 => decV2 LT.isInt .vadd w | 0x02 => decV2 LT.isInt .vsub w | 0x03 => decV2 LT.isInt .vmul w
  | 0x04 => decV2x LT.isInt .vmulh w | 0x05 => decV3 LT.isInt .vmac w | 0x06 => decVwmul w | 0x07 => decVwmac w
  | 0x08 => decVnarrow w | 0x09 => decV2x LT.isInt .vadds w | 0x0A => decV2x LT.isInt .vsubs w
  | 0x0B => decV1 LT.isInt .vabs w | 0x0C => decV1 LT.isInt .vneg w | 0x0D => decV2 LT.isInt .vmin w
  | 0x0E => decV2 LT.isInt .vmax w | 0x0F => decV2 LT.isInt .vminz w | 0x10 => decV2 LT.isInt .vmaxz w
  | 0x11 => decV2 LT.isInt .vand w | 0x12 => decV2 LT.isInt .vor w | 0x13 => decV2 LT.isInt .vxor w
  | 0x14 => decV2 LT.isInt .vandn w | 0x15 => decVshift .vshl w | 0x16 => decVshift .vshr w | 0x17 => decVshift .vsar w
  | 0x18 => decVcmp CC.isInt LT.isInt .vcmp w | 0x19 => decV3 LT.isWidth .vsel w | 0x1A => decV1 LT.isInt .vclz w
  | 0x1B => decV1 LT.isInt .vpopc w
  | 0x20 => decVr2 .vfadd w | 0x21 => decVr2 .vfsub w | 0x22 => decVr2 .vfmul w | 0x23 => decVfma w
  | 0x24 => decV2 LT.isFloat .vfmin w | 0x25 => decV2 LT.isFloat .vfmax w | 0x26 => decV1 LT.isFloat .vfabs w
  | 0x27 => decV1 LT.isFloat .vfneg w | 0x28 => decVcmp CC.isFloat LT.isFloat .vfcmp w
  | 0x29 => decVr1 .vrcp w | 0x2A => decVr1 .vrsqrt w | 0x2B => decVr1 .vexp2 w | 0x2C => decVr1 .vlog2 w
  | 0x2D => decVr1 .vsigm w | 0x2E => decVr1 .vtanh w | 0x2F => decVfcvt w
  | 0x30 => decV1 LT.isFloat3 .vamax w | 0x31 => decVqmx w | 0x32 => decVdqmx w
  | 0x40 => decVperm w | 0x41 => decVslide w | 0x42 => decVbcastS w | 0x43 => decVins w | 0x44 => decVext w
  | 0x45 => decV2x LT.isInt .vzip w | 0x46 => decV2x LT.isInt .vunzip w | 0x47 => decVred w | 0x48 => decVscan w
  | 0x49 => decVbcastI w
  | 0x50 => decVld w | 0x51 => decVst w | 0x52 => decVldg w | 0x53 => decVsts w
  | 0x60 => decXin .xinL .xinX w | 0x61 => decXout w | 0x62 => decXin .xstatL .xstatX w
  | _ => .error .badOpc

/-! ### Matrix forms (R51, R168, R191) -/

/-- `oclm` and `orls`. -/
def decOslot (mk : Guard → Fin 24 → Instr) (w : Nat) : Except DecErr Instr := do
  chk (fld w 45 6 == 0 && fld w 0 39 == 0)
  return mk (guardOf w) (← slotOf (fld w 39 6))

/-- `owr`. -/
def decOwr (w : Nat) : Except DecErr Instr := do
  chk (fld w 45 6 == 0 && fld w 33 6 == 0 && fld w 25 2 == 0 && fld w 0 15 == 0)
  let part ← codeOf OSel.all OSel.code (fld w 15 4)
  chk (oRowOk part (fld w 19 6))
  let o ← slotOf (fld w 27 6)
  return .owr (guardOf w) part o (fld w 19 6) (← vopOf (fld w 39 6))

/-- `ordv`. -/
def decOrdv (w : Nat) : Except DecErr Instr := do
  chk (fld w 33 12 == 0 && fld w 25 2 == 0 && fld w 0 15 == 0)
  let part ← codeOf OSel.all OSel.code (fld w 15 4)
  chk (oRowOk part (fld w 19 6))
  return .ordv (guardOf w) (← vdstOf (fld w 45 6)) part (← slotOf (fld w 27 6)) (fld w 19 6)

/-- `mzero`. -/
def decMzero (w : Nat) : Except DecErr Instr := do
  chk (fld w 33 18 == 0 && fld w 11 20 == 0 && fld w 0 9 == 0 && decide (fld w 9 2 ≤ 1))
  return .mzero (guardOf w) (fld w 9 1 == 1) (finOf 4 (by decide) (fld w 31 2))

/-- `mma`: `MODE` is 1 exactly with `EF` 6 (R157). -/
def decMma (w : Nat) : Except DecErr Instr := do
  chk (fld w 45 6 == 0 && fld w 27 4 == 0 && fld w 0 9 == 0)
  let ef ← codeOf EF.all EF.code (fld w 23 4)
  chk (ef.isMma && fld w 9 2 == (if ef = .f64 then 1 else 0) && decide (fld w 11 6 + fld w 17 6 ≤ 63))
  return .mma (guardOf w) ef (finOf 4 (by decide) (fld w 31 2)) (← slotOf (fld w 39 6)) (← slotOf (fld w 33 6))
    (fld w 11 6) (fld w 17 6)

/-- `mmab`. -/
def decMmab (w : Nat) : Except DecErr Instr := do
  chk (fld w 45 6 == 0 && fld w 31 2 == 0 && fld w 27 3 == 0 && fld w 17 6 == 0 && fld w 0 11 == 0)
  let ef ← codeOf EF.all EF.code (fld w 23 4)
  chk (ef.isBlock && decide (fld w 11 6 < ef.kblocks))
  return .mmab (guardOf w) ef (finOf 2 (by decide) (fld w 30 1)) (← slotOf (fld w 39 6)) (← slotOf (fld w 33 6))
    (fld w 11 6)

/-- `mmas`: the element format decides between the tile and the plane forms (R160). -/
def decMmas (w : Nat) : Except DecErr Instr := do
  chk (fld w 45 6 == 0 && fld w 27 3 == 0 && fld w 0 11 == 0)
  let ef ← codeOf EF.all EF.code (fld w 23 4)
  if ef.isBlock then do
    chk (fld w 31 2 == 0 && fld w 17 6 == 0 && decide (fld w 11 6 < ef.kblocks))
    return .mmas (guardOf w) ef (.plane (finOf 2 (by decide) (fld w 30 1)) (fld w 11 6)) (← slotOf (fld w 39 6))
      (← slotOf (fld w 33 6))
  else do
    chk (ef != .f64 && fld w 30 1 == 0 && decide (fld w 11 6 + fld w 17 6 ≤ 63))
    let oa ← slotOf (fld w 39 6)
    let ob ← slotOf (fld w 33 6)
    chkOpnd (mmasSlotOk ef ob)
    return .mmas (guardOf w) ef (.tile (finOf 4 (by decide) (fld w 31 2)) (fld w 11 6) (fld w 17 6)) oa ob

/-- `scacc`. -/
def decScacc (w : Nat) : Except DecErr Instr := do
  chk (fld w 45 6 == 0 && fld w 27 3 == 0 && fld w 17 6 == 0 && fld w 0 11 == 0)
  let ef ← codeOf EF.all EF.code (fld w 23 4)
  chk (ef.isBlock && decide (fld w 11 6 < ef.kblocks))
  return .scacc (guardOf w) ef (finOf 4 (by decide) (fld w 31 2)) (finOf 2 (by decide) (fld w 30 1))
    (← slotOf (fld w 39 6)) (← slotOf (fld w 33 6)) (fld w 11 6)

/-- `acrd`. -/
def decAcrd (w : Nat) : Except DecErr Instr := do
  chk (fld w 27 18 == 0 && fld w 0 15 == 0)
  let part ← codeOf AcSel.all AcSel.code (fld w 15 4)
  return .acrd (guardOf w) (← vdstOf (fld w 45 6)) part (finOf 4 (by decide) (fld w 25 2)) (finOf 64 (by decide) (fld w 19 6))

/-- `acwr`. -/
def decAcwr (w : Nat) : Except DecErr Instr := do
  chk (fld w 45 6 == 0 && fld w 27 12 == 0 && fld w 0 15 == 0)
  let part ← codeOf AcSel.all AcSel.code (fld w 15 4)
  return .acwr (guardOf w) part (finOf 4 (by decide) (fld w 25 2)) (finOf 64 (by decide) (fld w 19 6)) (← vopOf (fld w 39 6))

/-- `acexp`: `SEL` 0 reads and 1 writes (R166). -/
def decAcexp (w : Nat) : Except DecErr Instr := do
  chk (fld w 27 12 == 0 && fld w 19 6 == 0 && fld w 0 15 == 0)
  if fld w 15 4 = 0 then do
    chk (fld w 39 6 == 0)
    return .acexpRd (guardOf w) (← vdstOf (fld w 45 6)) (finOf 4 (by decide) (fld w 25 2))
  else do
    chk (fld w 15 4 == 1 && fld w 45 6 == 0)
    return .acexpWr (guardOf w) (finOf 4 (by decide) (fld w 25 2)) (← vopOf (fld w 39 6))

/-- `acnorm`. -/
def decAcnorm (w : Nat) : Except DecErr Instr := do
  chk (fld w 33 18 == 0 && fld w 0 31 == 0)
  return .acnorm (guardOf w) (finOf 4 (by decide) (fld w 31 2))

/-- `mdpc`. -/
def decMdpc (w : Nat) : Except DecErr Instr := do
  chk (fld w 39 12 == 0 && fld w 0 33 == 0)
  return .mdpc (guardOf w) (← sopOf (fld w 33 6))

/-- `afgain` (R189). -/
def decAfgain (w : Nat) : Except DecErr Instr := do
  chk (fld w 45 6 == 0 && fld w 27 12 == 0 && fld w 0 15 == 0 && fld w 18 1 == 0 &&
    (fld w 17 1 == 0 || fld w 19 6 == 0))
  let a ← vopOf (fld w 39 6)
  let row := if fld w 17 1 = 1 then none else some (finOf 64 (by decide) (fld w 19 6))
  let acc := finOf 4 (by decide) (fld w 25 2)
  if fld w 15 2 = 0 then return .afgainSet (guardOf w) acc row a
  else if fld w 15 2 = 1 then return .afgainMul (guardOf w) acc row a
  else if fld w 15 2 = 2 then return .afgainMix (guardOf w) acc row a
  else return .afgainAdd (guardOf w) acc row a

/-- `afscan` and `afcomp` (R187, R188). -/
def decAfscan (mk : Guard → Fin 4 → Nat → Instr) (w : Nat) : Except DecErr Instr := do
  chk (fld w 33 18 == 0 && fld w 23 8 == 0 && fld w 0 17 == 0)
  return mk (guardOf w) (finOf 4 (by decide) (fld w 31 2)) (fld w 17 6 + 1)

/-- `afcarry` (R190). -/
def decAfcarry (w : Nat) : Except DecErr Instr := do
  chk (fld w 27 12 == 0 && fld w 19 6 == 0 && fld w 0 15 == 0)
  if fld w 18 1 = 0 then do
    chk (fld w 39 6 == 0)
    let part ← codeOf CySel.all CySel.code (fld w 15 3)
    return .afcarryRd (guardOf w) (← vdstOf (fld w 45 6)) part (finOf 4 (by decide) (fld w 25 2))
  else do
    chk (fld w 45 6 == 0)
    if fld w 15 3 = 6 then
      return .afcarryWrH (guardOf w) (finOf 4 (by decide) (fld w 25 2)) (← vopOf (fld w 39 6))
    else do
      let part ← codeOf CySel.all CySel.code (fld w 15 3)
      return .afcarryWr (guardOf w) part (finOf 4 (by decide) (fld w 25 2)) (← vopOf (fld w 39 6))

/-- The matrix class (R58). `sparse` says that feature 0 is accepted: without it `mmas` and `mdpc` trap `BADOPC` (R327). -/
def decodeM (sparse : Bool) (w : Nat) : Except DecErr Instr :=
  match fld w 56 8 with
  | 0x01 => decOslot .oclm w | 0x02 => decOslot .orls w | 0x03 => decOwr w | 0x04 => decOrdv w
  | 0x10 => decMzero w | 0x11 => decMma w | 0x12 => decMmab w
  | 0x13 => if sparse then decMmas w else .error .badOpc
  | 0x14 => decScacc w
  | 0x20 => decAcrd w | 0x21 => decAcwr w | 0x22 => decAcexp w | 0x23 => decAcnorm w
  | 0x28 => if sparse then decMdpc w else .error .badOpc
  | 0x30 => decAfgain w | 0x31 => decAfscan .afscan w | 0x32 => decAfcarry w | 0x33 => decAfscan .afcomp w
  | _ => .error .badOpc

/-! ### Copy forms (R51, R203 to R213, R222, R271, R343) -/

/-- `POL`. -/
def polOf (w : Nat) : Fin 8 := finOf 8 (by decide) (fld w 24 3)

/-- `CQ` with three operands and a barrier; `D` chooses between the two instructions of an opcode. -/
def decCq3 (mk0 mk1 : Guard → SDst → Fin 8 → Option (Fin 64) → SOp → SOp → SOp → Instr) (w : Nat) :
    Except DecErr Instr := do
  chk (fld w 0 16 == 0 && barOk (fld w 16 8))
  let mk := if fld w 16 1 = 1 then mk1 else mk0
  return mk (guardOf w) (← sdstOf (fld w 45 6)) (polOf w) (barOf (fld w 16 8)) (← sopOf (fld w 39 6)) (← sopOf (fld w 33 6))
    (← sopOf (fld w 27 6))

/-- `CQ` with three operands and `D` = 0. -/
def decCq3z (mk : Guard → SDst → Fin 8 → Option (Fin 64) → SOp → SOp → SOp → Instr) (w : Nat) : Except DecErr Instr := do
  chk (fld w 0 17 == 0 && barOk (fld w 16 8))
  return mk (guardOf w) (← sdstOf (fld w 45 6)) (polOf w) (barOf (fld w 16 8)) (← sopOf (fld w 39 6)) (← sopOf (fld w 33 6))
    (← sopOf (fld w 27 6))

/-- `cpyt` (R204). -/
def decCpyt (w : Nat) : Except DecErr Instr := do
  chk (fld w 0 16 == 0 && barOk (fld w 16 8) && fld w 27 6 == 0)
  let mk := if fld w 16 1 = 1 then Instr.cpytWr else Instr.cpytRd
  return mk (guardOf w) (← sdstOf (fld w 45 6)) (polOf w) (barOf (fld w 16 8)) (← sopOf (fld w 39 6)) (← sopOf (fld w 33 6))

/-- `CB` with two operands and `SC` = 0. -/
def decCb2 (mk : Guard → SDst → Fin 8 → SOp → SOp → Instr) (w : Nat) : Except DecErr Instr := do
  chk (fld w 0 24 == 0 && fld w 27 6 == 0)
  return mk (guardOf w) (← sdstOf (fld w 45 6)) (polOf w) (← sopOf (fld w 39 6)) (← sopOf (fld w 33 6))

/-- `twclose`. -/
def decTwclose (w : Nat) : Except DecErr Instr := do
  chk (fld w 0 24 == 0 && fld w 27 12 == 0)
  return .twclose (guardOf w) (← sdstOf (fld w 45 6)) (polOf w) (← sopOf (fld w 39 6))

/-- `drain` (R208). -/
def decDrain (w : Nat) : Except DecErr Instr := do
  chk (fld w 0 21 == 0 && fld w 27 18 == 0)
  let sc ← codeOf Scope.all Scope.code (fld w 21 3)
  return .drain (guardOf w) (← sdstOf (fld w 45 6)) (polOf w) sc

/-- `CA`: the slice atomics (R209). -/
def decCa (mk : Guard → SDst → Fin 8 → Sz → SOp → SOp → SOp → Instr) (w : Nat) : Except DecErr Instr := do
  chk (fld w 0 22 == 0)
  let sz ← codeOf Sz.all Sz.code (fld w 22 2)
  return mk (guardOf w) (← sdstOf (fld w 45 6)) (polOf w) sz (← sopOf (fld w 39 6)) (← sopOf (fld w 33 6)) (← sopOf (fld w 27 6))

/-- `tlbi` (R222). -/
def decTlbi (w : Nat) : Except DecErr Instr := do
  chk (fld w 0 16 == 0 && fld w 21 3 == 0)
  let sc ← codeOf Scope.all Scope.code (fld w 18 3)
  chk (tlbiScopeOk sc)
  if fld w 16 2 = 0 then do
    chk (fld w 33 6 == 0)
    return .tlbiVa (guardOf w) (← sdstOf (fld w 45 6)) (polOf w) sc (← sopOf (fld w 39 6)) (← sopOf (fld w 27 6))
  else if fld w 16 2 = 1 then do
    return .tlbiRng (guardOf w) (← sdstOf (fld w 45 6)) (polOf w) sc (← sopOf (fld w 39 6)) (← sopOf (fld w 33 6))
      (← sopOf (fld w 27 6))
  else do
    chk (fld w 16 2 == 2 && fld w 33 12 == 0)
    return .tlbiAll (guardOf w) (← sdstOf (fld w 45 6)) (polOf w) sc (← sopOf (fld w 27 6))

/-- `rdc` (R271). -/
def decRdc (w : Nat) : Except DecErr Instr := do
  chk (fld w 20 4 == 0)
  let op ← codeOf RdcOp.all RdcOp.code (fld w 16 4)
  return .rdc (guardOf w) (← sdstOf (fld w 45 6)) (polOf w) op (BitVec.ofNat 16 (fld w 0 16)) (← sopOf (fld w 39 6))
    (← sopOf (fld w 33 6)) (← sopOf (fld w 27 6))

/-- `fsend` (R344). -/
def decFsend (w : Nat) : Except DecErr Instr := do
  chk (fld w 16 8 == 0)
  return .fsend (guardOf w) (← sdstOf (fld w 45 6)) (polOf w) (BitVec.ofNat 16 (fld w 0 16)) (← sopOf (fld w 39 6))
    (← sopOf (fld w 33 6)) (← sopOf (fld w 27 6))

/-- `frecv` (R345). -/
def decFrecv (w : Nat) : Except DecErr Instr := do
  chk (fld w 0 24 == 0)
  return .frecv (guardOf w) (← sdstOf (fld w 45 6)) (polOf w) (← sopOf (fld w 39 6)) (← sopOf (fld w 33 6))
    (← sopOf (fld w 27 6))

/-- The copy class (R59). `fabric` says that feature 2 is accepted: without it the fabric opcodes trap `BADOPC` (R327). -/
def decodeC (fabric : Bool) (w : Nat) : Except DecErr Instr :=
  match fld w 56 8 with
  | 0x01 => decCq3 .cpyRd .cpyWr w | 0x02 => decCpyt w | 0x03 => decCq3z .cpyo w | 0x04 => decCq3z .cpya w
  | 0x05 => decCq3 .mcast .mcastOps w | 0x06 => decCq3z .gath w | 0x07 => decCq3z .scat w
  | 0x10 => decCb2 .cpys w | 0x11 => decCb2 .bari w | 0x12 => decCb2 .barw w | 0x13 => decDrain w
  | 0x14 => decCb2 .permit w | 0x15 => decCb2 .twopen w | 0x16 => decTwclose w
  | 0x20 => decCa .aadd w | 0x21 => decCa .amin w | 0x22 => decCa .amax w | 0x23 => decCa .aand w | 0x24 => decCa .aor w
  | 0x25 => decCa .axor w | 0x26 => decCa .aswp w | 0x27 => decCa .acas w
  | 0x30 => decTlbi w | 0x31 => decRdc w
  | 0x40 => if fabric then decFsend w else .error .badOpc
  | 0x41 => if fabric then decFrecv w else .error .badOpc
  | 0x42 => if fabric then decCb2 .fdone w else .error .badOpc
  | 0x43 => if fabric then decCb2 .quiet w else .error .badOpc
  | 0x44 => if fabric then decCb2 .fstat w else .error .badOpc
  | _ => .error .badOpc

/-- The instruction that a slot word holds in slot 0 to 5 (S, V0, V1, M, C0, C1). The all-zero word is `nop` in every
class, and `OPC` 0x00 with any other bit set traps `BADFLD` (R48). -/
def decodeSlot (sparse fabric : Bool) (slot : Nat) (word : Word) : Except DecErr Instr :=
  if fld word.toNat 56 8 = 0 then (if word = 0 then .ok .nop else .error .badFld)
  else if slot = 0 then decodeS word.toNat
  else if slot = 1 then decodeV false word.toNat
  else if slot = 2 then decodeV true word.toNat
  else if slot = 3 then decodeM sparse word.toNat
  else decodeC fabric word.toNat

/-! ### Code units (R39, R40) -/

/-- What a code unit says (R39). -/
inductive UnitKind where
  | dict (idx : Nat)
  | escape
  | empty
  | reserved
  deriving DecidableEq, Repr

/-- The table of R39. -/
def unitKind (u : Unit16) : UnitKind :=
  if u.toNat < 0x800 then .dict u.toNat
  else if u.toNat = 0xFFF0 then .escape
  else if u.toNat = 0xFFFE then .empty
  else .reserved

/-- A slot word from its four units, bits [15:0] first (R40). -/
def wordOfUnits (a b c d : Unit16) : Word :=
  BitVec.ofNat 64 (a.toNat + b.toNat * 2 ^ 16 + c.toNat * 2 ^ 32 + d.toNat * 2 ^ 48)

/-- The four units of a slot word (R40). -/
def unitsOfWord (w : Word) : List Unit16 :=
  [BitVec.ofNat 16 w.toNat, BitVec.ofNat 16 (w.toNat / 2 ^ 16), BitVec.ofNat 16 (w.toNat / 2 ^ 32),
   BitVec.ofNat 16 (w.toNat / 2 ^ 48)]

/-- `n` slot words from a list of units, with the rest. -/
def takeWords : Nat → List Unit16 → Option (List Word × List Unit16)
  | 0, us => some ([], us)
  | n + 1, a :: b :: c :: d :: us =>
    match takeWords n us with
    | some (ws, rest) => some (wordOfUnits a b c d :: ws, rest)
    | none => none
  | _ + 1, _ => none

/-- A template word that R43 accepts after an escape. -/
def tplOk (tpl : Unit16) : Bool := decide (tpl.toNat / 2 ^ 12 = 0xA) && decide (tpl.toNat / 2 ^ 9 % 8 = 0)

/-- The slots of a template in slot order with their words: (slot number, word) (R40, R42). -/
def slotWords (tpl : Unit16) (words : List Word) : List (Nat × Word) :=
  let present := (List.range 6).filter fun i => tpl.toNat.testBit i
  present.zip words

/-- The bundle row at the head of a list of code units, with the units after it; `none` for a reserved unit, a bad
template or missing units (R39, R40, R43). -/
def decodeUnits : List Unit16 → Option (Instr × List Unit16)
  | [] => none
  | u :: us =>
    match unitKind u with
    | .dict idx => some (.issueDictionaryBundle idx, us)
    | .empty => some (.emptyBundle, us)
    | .reserved => none
    | .escape =>
      match us with
      | [] => none
      | tpl :: us' =>
        if tplOk tpl && decide (tpl.toNat % 64 ≠ 0) then
          match takeWords (presCount tpl) us' with
          | some (ws, rest) => some (.issueLiteralBundle tpl ws, rest)
          | none => none
        else none

/-- The instruction that a bundle row with exactly one present slot holds. -/
def soleInstr : Instr → Option Instr
  | .issueLiteralBundle tpl ws =>
    match slotWords tpl ws with
    | [(slot, w)] =>
      match decodeSlot true true slot w with
      | .ok i => some i
      | .error _ => none
    | _ => some (.issueLiteralBundle tpl ws)
  | i => some i

/-- `n` code units of a number, the first in its low bits. -/
def unitsOfNat : Nat → Nat → List Unit16
  | 0, _ => []
  | n + 1, w => BitVec.ofNat 16 w :: unitsOfNat n (w / 2 ^ 16)

/-- The longest bundle: the escape, the template and six slot words (R39). -/
def maxUnits : Nat := 26

/-- The row that the decoder reads from `nbits` bits of code, bit 0 the least significant of the first unit; bits above
`nbits` are 0. A literal bundle with one slot is answered as its instruction. -/
def decodeTableWord (nbits w : Nat) : Option Instr :=
  match decodeUnits (unitsOfNat maxUnits (w % 2 ^ nbits)) with
  | some (i, _) => soleInstr i
  | none => none

/-! ### The encoder, from the same tables -/

/-- Scalar operand codes (R49). -/
def SOp.enc : SOp → Nat
  | .b i => i.val
  | .k i => 0x10 + i.val
  | .zero => 0x30
  | .one => 0x31
  | .minus1 => 0x32

/-- Vector operand codes (R49). -/
def VOp.enc : VOp → Nat
  | .vb i => i.val
  | .w i => 0x10 + i.val
  | .vzero => 0x20

/-- Scalar destination codes (R50). -/
def SDst.enc : SDst → Nat
  | .belt => 0
  | .k i => 0x10 + i.val
  | .discard => 0x3F

/-- Vector destination codes (R50). -/
def VDst.enc : VDst → Nat
  | .belt => 0
  | .w i => 0x10 + i.val
  | .discard => 0x3F

/-- A Boolean as a field of one bit. -/
def bit (b : Bool) : Nat := if b then 1 else 0

/-- `OPC`, `GP` and `GN` in bits 63 to 51 (R48). -/
def encHead (opc : Nat) (g : Guard) : Nat := opc * 2 ^ 56 + g.p.val * 2 ^ 52 + bit g.neg * 2 ^ 51

/-- The four fields of six bits at 50:45, 44:39, 38:33 and 32:27 (R51). -/
def enc4 (d a b c : Nat) : Nat := d * 2 ^ 45 + a * 2 ^ 39 + b * 2 ^ 33 + c * 2 ^ 27

/-- `X8` of the barrier forms (R203). -/
def encBar (d : Nat) : Option (Fin 64) → Nat
  | none => d
  | some n => 2 ^ 7 + n.val * 2 + d

/-- `SRR` (R51). -/
def encSrr (opc : Nat) (g : Guard) (d : SDst) (a b x6 y6 : Nat) : Nat :=
  encHead opc g + enc4 d.enc a b 0 + x6 * 2 ^ 21 + y6 * 2 ^ 15

/-- The scalar shifts (R68). -/
def encShift (opc : Nat) (g : Guard) (d : SDst) (a : SOp) : Amt → Nat
  | .reg b => encSrr opc g d a.enc b.enc 0 0
  | .imm n => encSrr opc g d a.enc 0 n.val 1

/-- `SMEM` (R51). -/
def encSmem (opc : Nat) (g : Guard) (d a b : Nat) (disp : BitVec 20) : Nat :=
  encHead opc g + enc4 d a b 0 + disp.toNat * 2 ^ 7

/-- `SRI` and `SBR`: the immediate in [38:7] and the fields below it (R51). -/
def encImm (opc : Nat) (g : Guard) (d a : Nat) (imm : BitVec 32) (low : Nat) : Nat :=
  encHead opc g + enc4 d a 0 0 + imm.toNat * 2 ^ 7 + low

/-- `SPR` with a predicate destination in [50:47] (R51). -/
def encPd (opc : Nat) (g : Guard) (pd : Fin 16) (rest : Nat) : Nat := encHead opc g + pd.val * 2 ^ 47 + rest

/-- `SPR` logic form (R51). -/
def encPlog (opc : Nat) (g : Guard) (pd pa : Fin 16) (na : Bool) (pb : Nat) (nb : Bool) : Nat :=
  encPd opc g pd (pa.val * 2 ^ 23 + bit na * 2 ^ 22 + pb * 2 ^ 18 + bit nb * 2 ^ 17)

/-- `SSYS` (R51). -/
def encSys (opc : Nat) (g : Guard) (d a b c idx : Nat) : Nat := encHead opc g + enc4 d a b c + idx * 2 ^ 19

/-- `VRR` (R51). -/
def encVrr (opc : Nat) (g : Guard) (d a b c : Nat) (lt : LT) (rnd : Rnd) (sat : Bool) (x8 : Nat) : Nat :=
  encHead opc g + enc4 d a b c + lt.code * 2 ^ 23 + rnd.code * 2 ^ 21 + bit sat * 2 ^ 20 + x8 * 2 ^ 12

/-- The lane shifts (R122). -/
def encVshift (opc : Nat) (g : Guard) (d : VDst) (lt : LT) (a : VOp) : VAmt → Nat
  | .reg b => encVrr opc g d.enc a.enc b.enc 0 lt .ne false 0
  | .imm n => encVrr opc g d.enc a.enc 0 0 lt .ne false (2 ^ 7 + n)

/-- `VX` (R51). -/
def encVx (opc : Nat) (g : Guard) (d a b c : Nat) (lt : Nat) (lane x8 : Nat) : Nat :=
  encHead opc g + enc4 d a b c + lt * 2 ^ 23 + lane * 2 ^ 19 + x8 * 2 ^ 11

/-- `VMEM` (R51). -/
def encVmem (opc : Nat) (g : Guard) (d a b c : Nat) (disp : BitVec 20) (lt : Nat) : Nat :=
  encHead opc g + enc4 d a b c + disp.toNat * 2 ^ 7 + lt * 2 ^ 3

/-- `MT` (R51). -/
def encMt (opc : Nat) (g : Guard) (oa ob : Nat) (acc pp ef nrow row0 mode : Nat) : Nat :=
  encHead opc g + enc4 0 oa ob 0 + acc * 2 ^ 31 + pp * 2 ^ 30 + ef * 2 ^ 23 + nrow * 2 ^ 17 + row0 * 2 ^ 11 + mode * 2 ^ 9

/-- `MV` (R51). -/
def encMv (opc : Nat) (g : Guard) (d a b os : Nat) (acc row part : Nat) : Nat :=
  encHead opc g + enc4 d a b os + acc * 2 ^ 25 + row * 2 ^ 19 + part * 2 ^ 15

/-- `ROW` and `SEL` of `afgain` (R189). -/
def encGain (op : Nat) (g : Guard) (acc : Fin 4) (a : VOp) : Option (Fin 64) → Nat
  | some row => encMv 0x30 g 0 a.enc 0 0 acc.val row.val op
  | none => encMv 0x30 g 0 a.enc 0 0 acc.val 0 (4 + op)

/-- The copy formats: `POL` in [26:24] and the format's own fields below (R51). -/
def encC (opc : Nat) (g : Guard) (d : SDst) (a b c : Nat) (pol : Fin 8) (low : Nat) : Nat :=
  encHead opc g + enc4 d.enc a b c + pol.val * 2 ^ 24 + low

/-- The slot word of an instruction of the four slot classes, as a number; 0 for the rows that have no slot word. -/
def encodeWord : Instr → Nat
  | .add g d a b => encSrr 0x01 g d a.enc b.enc 0 0
  | .sub g d a b => encSrr 0x02 g d a.enc b.enc 0 0
  | .neg g d a => encSrr 0x03 g d a.enc 0 0 0
  | .mul g d a b => encSrr 0x04 g d a.enc b.enc 0 0
  | .mulh g d a b => encSrr 0x05 g d a.enc b.enc 0 0
  | .mulhz g d a b => encSrr 0x06 g d a.enc b.enc 0 0
  | .div g d a b => encSrr 0x07 g d a.enc b.enc 0 0
  | .divz g d a b => encSrr 0x08 g d a.enc b.enc 0 0
  | .rem g d a b => encSrr 0x09 g d a.enc b.enc 0 0
  | .remz g d a b => encSrr 0x0A g d a.enc b.enc 0 0
  | .min g d a b => encSrr 0x0B g d a.enc b.enc 0 0
  | .max g d a b => encSrr 0x0C g d a.enc b.enc 0 0
  | .minz g d a b => encSrr 0x0D g d a.enc b.enc 0 0
  | .maxz g d a b => encSrr 0x0E g d a.enc b.enc 0 0
  | .abs g d a => encSrr 0x0F g d a.enc 0 0 0
  | .and g d a b => encSrr 0x10 g d a.enc b.enc 0 0
  | .or g d a b => encSrr 0x11 g d a.enc b.enc 0 0
  | .xor g d a b => encSrr 0x12 g d a.enc b.enc 0 0
  | .andn g d a b => encSrr 0x13 g d a.enc b.enc 0 0
  | .orn g d a b => encSrr 0x14 g d a.enc b.enc 0 0
  | .shl g d a n => encShift 0x15 g d a n
  | .shr g d a n => encShift 0x16 g d a n
  | .sar g d a n => encShift 0x17 g d a n
  | .rotl g d a n => encShift 0x18 g d a n
  | .clz g d a => encSrr 0x20 g d a.enc 0 0 0
  | .ctz g d a => encSrr 0x21 g d a.enc 0 0 0
  | .popc g d a => encSrr 0x22 g d a.enc 0 0 0
  | .bswap g d a => encSrr 0x23 g d a.enc 0 0 0
  | .sext g d a n => encSrr 0x24 g d a.enc 0 (n - 1) 0
  | .zext g d a n => encSrr 0x25 g d a.enc 0 (n - 1) 0
  | .bfx g d a pos w => encSrr 0x26 g d a.enc 0 pos (w - 1)
  | .bfi g d a b pos w => encSrr 0x27 g d a.enc b.enc pos (w - 1)
  | .sel g d p a b => encSrr 0x30 g d a.enc b.enc 0 p.val
  | .mov g d a => encSrr 0x31 g d a.enc 0 0 0
  | .lea g d a disp => encSmem 0x32 g d.enc a.enc 0 disp
  | .addi g d a imm => encImm 0x40 g d.enc a.enc imm 0
  | .li g d imm => encImm 0x41 g d.enc 0 imm 0
  | .lih g d a imm => encImm 0x42 g d.enc a.enc imm 0
  | .cmp g cc pd a b => encPd 0x50 g pd (enc4 0 a.enc b.enc 0 + cc.code * 2 ^ 23)
  | .cmpi g cc pd a imm => encPd 0x51 g pd (enc4 0 a.enc 0 0 + imm.toNat * 2 ^ 7 + cc.code * 2 ^ 3)
  | .pand g pd pa na pb nb => encPlog 0x52 g pd pa na pb.val nb
  | .por g pd pa na pb nb => encPlog 0x53 g pd pa na pb.val nb
  | .pxor g pd pa na pb nb => encPlog 0x54 g pd pa na pb.val nb
  | .pnot g pd pa na => encPlog 0x55 g pd pa na 0 false
  | .ldB g d a disp => encSmem 0x60 g d.enc a.enc 0 disp
  | .ldBz g d a disp => encSmem 0x61 g d.enc a.enc 0 disp
  | .ldH g d a disp => encSmem 0x62 g d.enc a.enc 0 disp
  | .ldHz g d a disp => encSmem 0x63 g d.enc a.enc 0 disp
  | .ldW g d a disp => encSmem 0x64 g d.enc a.enc 0 disp
  | .ldWz g d a disp => encSmem 0x65 g d.enc a.enc 0 disp
  | .ldD g d a disp => encSmem 0x66 g d.enc a.enc 0 disp
  | .stB g b a disp => encSmem 0x68 g 0 a.enc b.enc disp
  | .stH g b a disp => encSmem 0x69 g 0 a.enc b.enc disp
  | .stW g b a disp => encSmem 0x6A g 0 a.enc b.enc disp
  | .stD g b a disp => encSmem 0x6B g 0 a.enc b.enc disp
  | .br g an imm => encImm 0x80 g 0 0 imm (an.code * 2 ^ 5)
  | .bri g an a imm => encImm 0x81 g 0 a.enc imm (an.code * 2 ^ 5)
  | .call g an d imm => encImm 0x82 g d.enc 0 imm (an.code * 2 ^ 5)
  | .ret g an a => encImm 0x83 g 0 a.enc 0 (an.code * 2 ^ 5)
  | .loop g a imm stg => encImm 0x84 g 0 a.enc imm (stg.val * 2 ^ 2)
  | .loopb g imm => encImm 0x85 g 0 0 imm 0
  | .sleepto g a => encSys 0x90 g 0 a.enc 0 0 0
  | .mwait g d cc a b c => encSys 0x91 g d.enc a.enc b.enc c.enc cc.code
  | .trig g => encSys 0x92 g 0 0 0 0 0
  | .exit g => encSys 0x93 g 0 0 0 0 0
  | .svc g d n a b c => encSys 0x94 g d.enc a.enc b.enc c.enc n.toNat
  | .trap g n => encSys 0x95 g 0 0 0 0 n.toNat
  | .rte g => encSys 0x96 g 0 0 0 0 0
  | .sget g d r => encSys 0x97 g d.enc 0 0 0 r.code
  | .sput g r a => encSys 0x98 g 0 a.enc 0 0 r.code
  | .brk g n => encSys 0x99 g 0 0 0 0 n.toNat
  | .lnch g d a b c => encSys 0xA0 g d.enc a.enc b.enc c.enc 0
  | .lnchPh g d a b => encSys 0xA0 g d.enc a.enc b.enc 0 1
  | .lnchSelf g d lvl => encSys 0xA0 g d.enc 0 0 0 (2 + lvl * 4)
  | .join g d a b => encSys 0xA1 g d.enc a.enc b.enc 0 0
  | .cancel g d a => encSys 0xA2 g d.enc a.enc 0 0 0
  | .eget g d idx => encSys 0xA3 g d.enc 0 0 0 idx
  | .vadd g d lt a b => encVrr 0x01 g d.enc a.enc b.enc 0 lt .ne false 0
  | .vsub g d lt a b => encVrr 0x02 g d.enc a.enc b.enc 0 lt .ne false 0
  | .vmul g d lt a b => encVrr 0x03 g d.enc a.enc b.enc 0 lt .ne false 0
  | .vmulh g d lt u a b => encVrr 0x04 g d.enc a.enc b.enc 0 lt .ne false (bit u)
  | .vmac g d lt a b c => encVrr 0x05 g d.enc a.enc b.enc c.enc lt .ne false 0
  | .vwmul g d lt hi u a b => encVrr 0x06 g d.enc a.enc b.enc 0 lt .ne false (bit hi + 2 * bit u)
  | .vwmac g d lt hi u sat a b c => encVrr 0x07 g d.enc a.enc b.enc c.enc lt .ne sat (bit hi + 2 * bit u)
  | .vnarrow g d lt s u rnd sat a b => encVrr 0x08 g d.enc a.enc b.enc 0 lt rnd sat (s + 64 * bit u)
  | .vadds g d lt u a b => encVrr 0x09 g d.enc a.enc b.enc 0 lt .ne false (bit u)
  | .vsubs g d lt u a b => encVrr 0x0A g d.enc a.enc b.enc 0 lt .ne false (bit u)
  | .vabs g d lt a => encVrr 0x0B g d.enc a.enc 0 0 lt .ne false 0
  | .vneg g d lt a => encVrr 0x0C g d.enc a.enc 0 0 lt .ne false 0
  | .vmin g d lt a b => encVrr 0x0D g d.enc a.enc b.enc 0 lt .ne false 0
  | .vmax g d lt a b => encVrr 0x0E g d.enc a.enc b.enc 0 lt .ne false 0
  | .vminz g d lt a b => encVrr 0x0F g d.enc a.enc b.enc 0 lt .ne false 0
  | .vmaxz g d lt a b => encVrr 0x10 g d.enc a.enc b.enc 0 lt .ne false 0
  | .vand g d lt a b => encVrr 0x11 g d.enc a.enc b.enc 0 lt .ne false 0
  | .vor g d lt a b => encVrr 0x12 g d.enc a.enc b.enc 0 lt .ne false 0
  | .vxor g d lt a b => encVrr 0x13 g d.enc a.enc b.enc 0 lt .ne false 0
  | .vandn g d lt a b => encVrr 0x14 g d.enc a.enc b.enc 0 lt .ne false 0
  | .vshl g d lt a n => encVshift 0x15 g d lt a n
  | .vshr g d lt a n => encVshift 0x16 g d lt a n
  | .vsar g d lt a n => encVshift 0x17 g d lt a n
  | .vcmp g d cc lt a b => encVrr 0x18 g d.enc a.enc b.enc 0 lt .ne false cc.code
  | .vsel g d lt a b c => encVrr 0x19 g d.enc a.enc b.enc c.enc lt .ne false 0
  | .vclz g d lt a => encVrr 0x1A g d.enc a.enc 0 0 lt .ne false 0
  | .vpopc g d lt a => encVrr 0x1B g d.enc a.enc 0 0 lt .ne false 0
  | .vfadd g d lt rnd a b => encVrr 0x20 g d.enc a.enc b.enc 0 lt rnd false 0
  | .vfsub g d lt rnd a b => encVrr 0x21 g d.enc a.enc b.enc 0 lt rnd false 0
  | .vfmul g d lt rnd a b => encVrr 0x22 g d.enc a.enc b.enc 0 lt rnd false 0
  | .vfma g d lt rnd a b c => encVrr 0x23 g d.enc a.enc b.enc c.enc lt rnd false 0
  | .vfmin g d lt a b => encVrr 0x24 g d.enc a.enc b.enc 0 lt .ne false 0
  | .vfmax g d lt a b => encVrr 0x25 g d.enc a.enc b.enc 0 lt .ne false 0
  | .vfabs g d lt a => encVrr 0x26 g d.enc a.enc 0 0 lt .ne false 0
  | .vfneg g d lt a => encVrr 0x27 g d.enc a.enc 0 0 lt .ne false 0
  | .vfcmp g d cc lt a b => encVrr 0x28 g d.enc a.enc b.enc 0 lt .ne false cc.code
  | .vrcp g d lt rnd a => encVrr 0x29 g d.enc a.enc 0 0 lt rnd false 0
  | .vrsqrt g d lt rnd a => encVrr 0x2A g d.enc a.enc 0 0 lt rnd false 0
  | .vexp2 g d lt rnd a => encVrr 0x2B g d.enc a.enc 0 0 lt rnd false 0
  | .vlog2 g d lt rnd a => encVrr 0x2C g d.enc a.enc 0 0 lt rnd false 0
  | .vsigm g d lt rnd a => encVrr 0x2D g d.enc a.enc 0 0 lt rnd false 0
  | .vtanh g d lt rnd a => encVrr 0x2E g d.enc a.enc 0 0 lt rnd false 0
  | .vfcvt g d lt src u p rnd sat a =>
    encVrr 0x2F g d.enc a.enc 0 0 lt rnd sat (src.code + 16 * bit u + 32 * p)
  | .vamax g d lt a => encVrr 0x30 g d.enc a.enc 0 0 lt .ne false 0
  | .vqmx g d lt src a => encVrr 0x31 g d.enc a.enc 0 0 lt .ne false src.code
  | .vdqmx g d lt src rnd sat a => encVrr 0x32 g d.enc a.enc 0 0 lt rnd sat src.code
  | .vperm g d lt z a b c => encVrr 0x40 g d.enc a.enc b.enc c.enc lt .ne false (bit z)
  | .vslide g d lt s a b => encVrr 0x41 g d.enc a.enc b.enc 0 lt .ne false s
  | .vbcastScalar g d lt a => encVx 0x42 g d.enc a.enc 0 0 lt.code 0 0
  | .vbcastImm g d lt imm => encImm 0x49 g d.enc 0 imm (lt.code * 2 ^ 3)
  | .vins g d lt a b (.imm n) => encVx 0x43 g d.enc a.enc b.enc 0 lt.code 0 n
  | .vins g d lt a b (.reg c) => encVx 0x43 g d.enc a.enc b.enc c.enc lt.code 1 0
  | .vext g d lt a (.imm n) => encVx 0x44 g d.enc a.enc 0 0 lt.code 0 n
  | .vext g d lt a (.reg c) => encVx 0x44 g d.enc a.enc 0 c.enc lt.code 1 0
  | .vzip g d lt hi a b => encVrr 0x45 g d.enc a.enc b.enc 0 lt .ne false (bit hi)
  | .vunzip g d lt hi a b => encVrr 0x46 g d.enc a.enc b.enc 0 lt .ne false (bit hi)
  | .vred g d op lt rnd a => encVrr 0x47 g d.enc a.enc 0 0 lt rnd false op.code
  | .vscan g d op lt rnd a none => encVrr 0x48 g d.enc a.enc 0 0 lt rnd false op.code
  | .vscan g d op lt rnd a (some b) => encVrr 0x48 g d.enc a.enc b.enc 0 lt rnd false (op.code + 8)
  | .vld g d a disp => encVmem 0x50 g d.enc a.enc 0 0 disp 0
  | .vst g b a disp => encVmem 0x51 g 0 a.enc b.enc 0 disp 0
  | .vldg g d lt a disp b c => encVmem 0x52 g d.enc a.enc b.enc c.enc disp lt.code
  | .vsts g lt b a disp c => encVmem 0x53 g 0 a.enc b.enc c.enc disp lt.code
  | .xinL g d n => encVx 0x60 g d.enc 0 0 0 2 n.val 0
  | .xinX g d c => encVx 0x60 g d.enc 0 0 0 2 8 c.toNat
  | .xoutD g a m => encVx 0x61 g 0 a.enc 0 0 2 0 m.toNat
  | .xoutW g a => encVx 0x61 g 0 a.enc 0 0 1 1 0
  | .xoutCfg g a => encVx 0x61 g 0 a.enc 0 0 3 2 0
  | .xstatL g d n => encVx 0x62 g d.enc 0 0 0 2 n.val 0
  | .xstatX g d c => encVx 0x62 g d.enc 0 0 0 2 8 c.toNat
  | .oclm g o => encMt 0x01 g o.val 0 0 0 0 0 0 0
  | .orls g o => encMt 0x02 g o.val 0 0 0 0 0 0 0
  | .owr g part o row a => encMv 0x03 g 0 a.enc 0 o.val 0 row part.code
  | .ordv g d part o row => encMv 0x04 g d.enc 0 0 o.val 0 row part.code
  | .mzero g f64 acc => encMt 0x10 g 0 0 acc.val 0 0 0 0 (bit f64)
  | .mma g ef acc oa ob row0 nrow =>
    encMt 0x11 g oa.val ob.val acc.val 0 ef.code nrow row0 (if ef = .f64 then 1 else 0)
  | .mmab g ef pp oa ob kb => encMt 0x12 g oa.val ob.val 0 pp.val ef.code 0 kb 0
  | .mmas g ef (.tile acc row0 nrow) oa ob => encMt 0x13 g oa.val ob.val acc.val 0 ef.code nrow row0 0
  | .mmas g ef (.plane pp kb) oa ob => encMt 0x13 g oa.val ob.val 0 pp.val ef.code 0 kb 0
  | .scacc g ef acc pp oa ob kb => encMt 0x14 g oa.val ob.val acc.val pp.val ef.code 0 kb 0
  | .acrd g d part acc row => encMv 0x20 g d.enc 0 0 0 acc.val row.val part.code
  | .acwr g part acc row a => encMv 0x21 g 0 a.enc 0 0 acc.val row.val part.code
  | .acexpRd g d acc => encMv 0x22 g d.enc 0 0 0 acc.val 0 0
  | .acexpWr g acc a => encMv 0x22 g 0 a.enc 0 0 acc.val 0 1
  | .acnorm g acc => encMt 0x23 g 0 0 acc.val 0 0 0 0 0
  | .mdpc g b => encMv 0x28 g 0 0 b.enc 0 0 0 0
  | .afgainSet g acc row a => encGain 0 g acc a row
  | .afgainMul g acc row a => encGain 1 g acc a row
  | .afgainMix g acc row a => encGain 2 g acc a row
  | .afgainAdd g acc row a => encGain 3 g acc a row
  | .afscan g acc n => encMt 0x31 g 0 0 acc.val 0 0 (n - 1) 0 0
  | .afcomp g acc n => encMt 0x33 g 0 0 acc.val 0 0 (n - 1) 0 0
  | .afcarryRd g d part acc => encMv 0x32 g d.enc 0 0 0 acc.val 0 part.code
  | .afcarryWr g part acc a => encMv 0x32 g 0 a.enc 0 0 acc.val 0 (8 + part.code)
  | .afcarryWrH g acc a => encMv 0x32 g 0 a.enc 0 0 acc.val 0 14
  | .cpyRd g d pol bar a b c => encC 0x01 g d a.enc b.enc c.enc pol (encBar 0 bar * 2 ^ 16)
  | .cpyWr g d pol bar a b c => encC 0x01 g d a.enc b.enc c.enc pol (encBar 1 bar * 2 ^ 16)
  | .cpytRd g d pol bar a b => encC 0x02 g d a.enc b.enc 0 pol (encBar 0 bar * 2 ^ 16)
  | .cpytWr g d pol bar a b => encC 0x02 g d a.enc b.enc 0 pol (encBar 1 bar * 2 ^ 16)
  | .cpyo g d pol bar a b c => encC 0x03 g d a.enc b.enc c.enc pol (encBar 0 bar * 2 ^ 16)
  | .cpya g d pol bar a b c => encC 0x04 g d a.enc b.enc c.enc pol (encBar 0 bar * 2 ^ 16)
  | .mcast g d pol bar a b c => encC 0x05 g d a.enc b.enc c.enc pol (encBar 0 bar * 2 ^ 16)
  | .mcastOps g d pol bar a b c => encC 0x05 g d a.enc b.enc c.enc pol (encBar 1 bar * 2 ^ 16)
  | .gath g d pol bar a b c => encC 0x06 g d a.enc b.enc c.enc pol (encBar 0 bar * 2 ^ 16)
  | .scat g d pol bar a b c => encC 0x07 g d a.enc b.enc c.enc pol (encBar 0 bar * 2 ^ 16)
  | .cpys g d pol a b => encC 0x10 g d a.enc b.enc 0 pol 0
  | .bari g d pol a b => encC 0x11 g d a.enc b.enc 0 pol 0
  | .barw g d pol a b => encC 0x12 g d a.enc b.enc 0 pol 0
  | .drain g d pol sc => encC 0x13 g d 0 0 0 pol (sc.code * 2 ^ 21)
  | .permit g d pol a b => encC 0x14 g d a.enc b.enc 0 pol 0
  | .twopen g d pol a b => encC 0x15 g d a.enc b.enc 0 pol 0
  | .twclose g d pol a => encC 0x16 g d a.enc 0 0 pol 0
  | .aadd g d pol sz a b c => encC 0x20 g d a.enc b.enc c.enc pol (sz.code * 2 ^ 22)
  | .amin g d pol sz a b c => encC 0x21 g d a.enc b.enc c.enc pol (sz.code * 2 ^ 22)
  | .amax g d pol sz a b c => encC 0x22 g d a.enc b.enc c.enc pol (sz.code * 2 ^ 22)
  | .aand g d pol sz a b c => encC 0x23 g d a.enc b.enc c.enc pol (sz.code * 2 ^ 22)
  | .aor g d pol sz a b c => encC 0x24 g d a.enc b.enc c.enc pol (sz.code * 2 ^ 22)
  | .axor g d pol sz a b c => encC 0x25 g d a.enc b.enc c.enc pol (sz.code * 2 ^ 22)
  | .aswp g d pol sz a b c => encC 0x26 g d a.enc b.enc c.enc pol (sz.code * 2 ^ 22)
  | .acas g d pol sz a b c => encC 0x27 g d a.enc b.enc c.enc pol (sz.code * 2 ^ 22)
  | .tlbiVa g d pol sc a c => encC 0x30 g d a.enc 0 c.enc pol ((sc.code * 4 + 0) * 2 ^ 16)
  | .tlbiRng g d pol sc a b c => encC 0x30 g d a.enc b.enc c.enc pol ((sc.code * 4 + 1) * 2 ^ 16)
  | .tlbiAll g d pol sc c => encC 0x30 g d 0 0 c.enc pol ((sc.code * 4 + 2) * 2 ^ 16)
  | .rdc g d pol op len a b c => encC 0x31 g d a.enc b.enc c.enc pol (op.code * 2 ^ 16 + len.toNat)
  | .fsend g d pol tag a b c => encC 0x40 g d a.enc b.enc c.enc pol tag.toNat
  | .frecv g d pol a b c => encC 0x41 g d a.enc b.enc c.enc pol 0
  | .fdone g d pol a b => encC 0x42 g d a.enc b.enc 0 pol 0
  | .quiet g d pol a b => encC 0x43 g d a.enc b.enc 0 pol 0
  | .fstat g d pol a b => encC 0x44 g d a.enc b.enc 0 pol 0
  | _ => 0

/-- The slot class in which an instruction stands, as the first slot that accepts it: 0 S, 1 V0, 2 V1, 3 M, 4 C0
(R56 to R59); `none` for the rows that are no slot instruction. -/
def slotClass : Instr → Option Nat
  | .nop => some 0
  | .add .. | .sub .. | .neg .. | .mul .. | .mulh .. | .mulhz .. | .div .. | .divz .. | .rem .. | .remz .. | .min ..
  | .max .. | .minz .. | .maxz .. | .abs .. | .and .. | .or .. | .xor .. | .andn .. | .orn .. | .shl .. | .shr ..
  | .sar .. | .rotl .. | .clz .. | .ctz .. | .popc .. | .bswap .. | .sext .. | .zext .. | .bfx .. | .bfi .. | .sel ..
  | .mov .. | .lea .. | .addi .. | .li .. | .lih .. | .cmp .. | .cmpi .. | .pand .. | .por .. | .pxor .. | .pnot ..
  | .ldB .. | .ldBz .. | .ldH .. | .ldHz .. | .ldW .. | .ldWz .. | .ldD .. | .stB .. | .stH .. | .stW .. | .stD ..
  | .br .. | .bri .. | .call .. | .ret .. | .loop .. | .loopb .. | .sleepto .. | .mwait .. | .trig .. | .exit ..
  | .svc .. | .trap .. | .rte .. | .sget .. | .sput .. | .brk .. | .lnch .. | .lnchPh .. | .lnchSelf .. | .join ..
  | .cancel .. | .eget .. => some 0
  | .vperm .. | .vzip .. | .vunzip .. | .vred .. | .vscan .. => some 2
  | .vadd .. | .vsub .. | .vmul .. | .vmulh .. | .vmac .. | .vwmul .. | .vwmac .. | .vnarrow .. | .vadds .. | .vsubs ..
  | .vabs .. | .vneg .. | .vmin .. | .vmax .. | .vminz .. | .vmaxz .. | .vand .. | .vor .. | .vxor .. | .vandn ..
  | .vshl .. | .vshr .. | .vsar .. | .vcmp .. | .vsel .. | .vclz .. | .vpopc .. | .vfadd .. | .vfsub .. | .vfmul ..
  | .vfma .. | .vfmin .. | .vfmax .. | .vfabs .. | .vfneg .. | .vfcmp .. | .vrcp .. | .vrsqrt .. | .vexp2 .. | .vlog2 ..
  | .vsigm .. | .vtanh .. | .vfcvt .. | .vamax .. | .vqmx .. | .vdqmx .. | .vslide .. | .vbcastScalar .. | .vbcastImm ..
  | .vins .. | .vext .. | .vld .. | .vst .. | .vldg .. | .vsts .. | .xinL .. | .xinX .. | .xoutD .. | .xoutW ..
  | .xoutCfg .. | .xstatL .. | .xstatX .. => some 1
  | .oclm .. | .orls .. | .owr .. | .ordv .. | .mzero .. | .mma .. | .mmab .. | .mmas .. | .scacc .. | .acrd ..
  | .acwr .. | .acexpRd .. | .acexpWr .. | .acnorm .. | .mdpc .. | .afgainSet .. | .afgainMul .. | .afgainMix ..
  | .afgainAdd .. | .afscan .. | .afcomp .. | .afcarryRd .. | .afcarryWr .. | .afcarryWrH .. => some 3
  | .cpyRd .. | .cpyWr .. | .cpytRd .. | .cpytWr .. | .cpyo .. | .cpya .. | .mcast .. | .mcastOps .. | .gath ..
  | .scat .. | .cpys .. | .bari .. | .barw .. | .drain .. | .permit .. | .twopen .. | .twclose .. | .aadd .. | .amin ..
  | .amax .. | .aand .. | .aor .. | .axor .. | .aswp .. | .acas .. | .tlbiVa .. | .tlbiRng .. | .tlbiAll .. | .rdc ..
  | .fsend .. | .frecv .. | .fdone .. | .quiet .. | .fstat .. => some 4
  | _ => none

/-- The code units of a row: a bundle row as it stands in the code stream, a slot instruction as the literal bundle that
holds it alone, with no marks; nothing for the other rows (R39, R40, R42). -/
def encode (i : Instr) : List Unit16 :=
  match i with
  | .issueDictionaryBundle idx => [BitVec.ofNat 16 idx]
  | .emptyBundle => [0xFFFE#16]
  | .issueLiteralBundle tpl ws => 0xFFF0#16 :: tpl :: ws.flatMap unitsOfWord
  | _ =>
    match slotClass i with
    | some slot => 0xFFF0#16 :: BitVec.ofNat 16 (0xA000 + 2 ^ slot) :: unitsOfWord (BitVec.ofNat 64 (encodeWord i))
    | none => []

/-- The number of code units, least significant first, that a list of units spells. -/
def natOfUnits : List Unit16 → Nat
  | [] => 0
  | u :: us => u.toNat + 2 ^ 16 * natOfUnits us

end Sys2Proof
end

