-- ==== Sys2Proof/Machine/CoreState.lean ====
section
/-! DEFINITION. The state of one core as plain data (spec/02 R26, R36; spec/05; spec/08; spec/09; spec/10; spec/12
R224, R231; spec/13 R234). -/

namespace Sys2Proof.Machine

/-- A sparse map in one canonical form: keys strictly rising. A map with a default lists no entry equal to it. -/
abbrev SMap (α : Type) := List (Nat × α)

/-- A scalar value with its void bit (R26, R35). -/
structure SVal where
  v    : Word := 0
  void : Bool := true
  deriving DecidableEq, Repr

/-- A vector value with its void bit (R26, R35). -/
structure VVal where
  v    : VWord := 0
  void : Bool := true
  deriving DecidableEq, Repr

/-- `NPC1` or `NPC2` (R37); "none" has every field 0 (R77). -/
structure Npc where
  target : Pc := 0
  annul  : Bool := false
  valid  : Bool := false
  deriving DecidableEq, Repr

/-- Cause codes of stops and error records (R226). -/
inductive Cause where
  | none | invcu | badtpl | bundle | groupdep | badopc | badopnd | badfld | priv | fetch | xlate | perm | keyrev | promise
  | timing | oslot | barovf | mcastpart | svc | yieldsvc | deadline | preempt | debug | swtrap | inflight | xport | rdcerr
  | dataerr | double
  deriving DecidableEq, Repr

/-- Why a core stops before a bundle, with what the trap record says (R224): slot mask, engine, reason, address. -/
structure Stop where
  cause  : Cause
  smask  : Nat := 0
  engine : Nat := 0
  reason : Nat := 0
  va     : Option Nat := none
  deriving DecidableEq, Repr

/-- Where a result goes, with its value (R27): a belt, a keep register, a predicate, or nowhere. `drop vec` says
whether a vector result was due (R173 counts it). -/
inductive Res where
  | sbelt (v : Word)
  | k (i : Fin 32) (v : Word)
  | vbelt (v : VWord)
  | w (i : Fin 16) (v : VWord)
  | pred (i : Fin 16) (v : Bool)
  | drop (vec : Bool)
  deriving DecidableEq, Repr

/-- A result in flight (R27, R29): the bundle count of its landing, or the offset from the stop in the latch bank
(R171); the slot and the count at issue that order it; the flags it raises. -/
structure Landing where
  due   : Nat
  slot  : Nat
  seq   : Nat
  res   : Res
  flags : BitVec 10 := 0
  deriving DecidableEq, Repr

/-- A result that lands in the cycle in which a later bundle issues: a return address (R84) or the result of a wait that
ended while a `sleepto` of the same bundle went on (log 14). `left` counts the bundles that must issue first. -/
structure RetPend where
  left : Nat
  slot : Nat
  seq  : Nat
  dst  : SDst
  /-- Whether the value is the address computed by the second delay bundle. -/
  addr : Bool
  val  : Word
  deriving DecidableEq, Repr

/-- What a core waits for (R87, R89, R202, R208, R290, R343). -/
inductive WaitKind where
  | sleepto (tick : Word)
  | mwait (cc : CC) (ea : Nat) (y z : Word)
  | barw (n : Nat) (z : Word)
  | drain (sc : Scope) (upto : Nat)
  | join (h z : Word)
  /-- `took`: the request that copies the cell, and the payload's bytes. -/
  | frecv (slot y : Nat) (z : Word) (took : Option (Nat × Nat))
  | quiet (slot after : Nat) (z : Word) (got : Option Word)
  | fstat (slot y : Nat)
  deriving DecidableEq, Repr

/-- One wait of the bundle that issued last, with its result once its condition has held. -/
structure Wait where
  kind : WaitKind
  slot : Nat
  seq  : Nat
  dst  : SDst
  done : Option Word := none
  deriving DecidableEq, Repr

/-- A service call in progress (R92). -/
structure SvcCall where
  n    : BitVec 8
  tag  : Word
  y    : Word
  z    : Word
  dst  : SDst
  seq  : Nat
  deriving DecidableEq, Repr

/-- The registers of a sequencer that a context switch carries (R38), with the results in flight. -/
structure Ctx where
  sb       : List SVal := List.replicate 16 {}
  vb       : List VVal := List.replicate 16 {}
  sk       : SMap SVal := []
  vk       : SMap VVal := []
  preds    : BitVec 16 := 1
  pvoid    : BitVec 16 := 0xFFFE
  pc       : Pc := 0
  npc1     : Npc := {}
  npc2     : Npc := {}
  lc       : Word := 0
  stages   : BitVec 4 := 0
  mpc      : BitVec 32 := 0
  flags    : BitVec 10 := 0
  mempol   : BitVec 16 := 0x000C
  poltabl  : BitVec 64 := 0x000C000C000C000C
  poltabh  : BitVec 48 := 0x000C000C000C
  traprec  : BitVec 55 := 0
  /-- Bundles issued and cycles waited (R33, R87). -/
  bc       : Nat := 0
  inflight : List Landing := []
  /-- The snapshot latch bank (R172): `due` is the offset. -/
  latch    : List Landing := []
  rets     : List RetPend := []
  waits    : List Wait := []
  /-- Results that landed in the current cycle, in order, for R29. -/
  landed   : List Landing := []
  /-- Records written for this context (R224). -/
  rcount   : BitVec 32 := 0
  /-- The context has kernel privilege (R90). -/
  kern     : Bool := false
  /-- The entry the bundle in issue makes (R78). -/
  entry    : Npc := {}
  /-- The entries an `sput` of this cycle sets, after the shift of R77 (R95). -/
  npc1Set  : Option Npc := none
  npc2Set  : Option Npc := none
  /-- The value an `sput` of this cycle gives `DEADLINE` (R36, R95). -/
  dlPut    : Option (BitVec 32) := none
  /-- The service call after whose bundle the core stops with `SVC` (R92). -/
  svc      : Option SvcCall := none
  /-- Keep registers and predicates written in the current group (R47). -/
  grpK     : BitVec 32 := 0
  grpW     : BitVec 16 := 0
  grpP     : BitVec 16 := 0
  deriving DecidableEq, Repr

/-- An AF entry that is the identity map (R163): `GM` = 2^46 above `BM` = 0. -/
def entIdentity : BitVec 96 := BitVec.ofNat 96 (2 ^ 94)

/-- The exponent pair that `mzero` sets (R163): `EG` = −46, `EB` = −32,768. -/
def exReset : BitVec 32 := 0xFFD28000

/-- A tile (R150, R163): mode, whether the context has written it (R176), rows of 64 entries (`BM` in [47:0], `GM` in
[95:48]; a row as `mzero` leaves it is not listed), the 64 exponent pairs (`EB` in [15:0], `EG` in [31:16]) and the carry
(R179). -/
structure Tile where
  f64  : Bool := false
  used : Bool := false
  rows : SMap (List (BitVec 96)) := []
  ex   : List (BitVec 32) := List.replicate 64 exReset
  cy   : List (BitVec 96) := List.replicate 64 entIdentity
  deriving DecidableEq, Repr

/-- What changes at the end of a cycle (R151): operand slots, by `64 * slot + row` (data rows of 128 bytes and side rows of
16; zero rows are not listed), tiles, and partial planes by `64 * pp + row` (rows of 64 entries; zero rows are not
listed). -/
structure MxData where
  data   : SMap (BitVec 1024) := []
  side   : SMap (BitVec 128) := []
  tiles  : List Tile := [{}, {}, {}, {}]
  planes : SMap (List (BitVec 32)) := []
  deriving DecidableEq, Repr

/-- What a product instruction computes (R157, R158, R160); `mmas` carries the metadata record it reads. -/
inductive ProdKind where
  | mma (ef : EF) (acc : Fin 4) (row0 nrow : Nat)
  | mmab (ef : EF) (pp : Fin 2) (kb : Nat)
  | mmas (ef : EF) (dst : MmasDst) (record : BitVec 8192)
  deriving DecidableEq, Repr

/-- An instruction of the product array (R152), in cycles of `Ctx.bc`: the rows of B with their side rows, read at the
start, the rows of A read so far by relative row, and how many rows have landed. -/
structure Prod where
  kind  : ProdKind
  oa    : Fin 24
  ob    : Fin 24
  start : Nat
  bRows : List (BitVec 1024) := []
  bSide : List (BitVec 128) := []
  aRows : SMap (BitVec 1024 × BitVec 128) := []
  next  : Nat := 0
  deriving DecidableEq, Repr

/-- An instruction of the fold unit (R153, R159, R167). -/
inductive FoldKind where
  | scacc (ef : EF) (acc : Fin 4) (pp : Fin 2) (oa ob : Fin 24) (kb : Nat)
  | acnorm (acc : Fin 4)
  deriving DecidableEq, Repr

/-- A fold instruction: the side rows of B read at the start, plane rows with side rows of A read so far, and how many
beats have landed. -/
structure Fold where
  kind  : FoldKind
  start : Nat
  bSide : List (BitVec 128) := []
  rows  : SMap (List (BitVec 32) × BitVec 128) := []
  next  : Nat := 0
  deriving DecidableEq, Repr

/-- An instruction of the scan unit (R180, R186): rows, carry and exponents as beat 0 read them. -/
structure Scan where
  comp   : Bool
  acc    : Fin 4
  n      : Nat
  issue  : Nat
  start  : Nat
  input  : Option (List (List (BitVec 96)) × List (BitVec 96) × List (BitVec 32)) := none
  landed : Bool := false
  deriving DecidableEq, Repr

/-- The matrix engine of a core (R146 to R168, R178 to R191). `next` holds what the writes of the current cycle have made of
the data; it takes the place of `now` at the end of the cycle. -/
structure Mx where
  claimed : BitVec 24 := 0
  now     : MxData := {}
  next    : Option MxData := none
  prods   : List Prod := []
  folds   : List Fold := []
  scans   : List Scan := []
  deriving DecidableEq, Repr

/-- An entry of the journal of call tags (R239). -/
structure JEntry where
  tag     : Word
  n       : BitVec 8
  y       : Word
  z       : Word
  outcome : Word
  deriving DecidableEq, Repr

/-- The block on a core (R279 to R285, R295). Objects are named by their keys in `State.objs`. -/
structure Block where
  bid       : Nat
  inst      : Nat
  kernel    : Nat
  part      : Nat
  entry     : Pc
  budget    : Nat
  gen       : Nat
  launch    : Option Nat := none
  graph     : Option Nat := none
  conductor : Bool := false
  rst       : Bool := false
  retried   : Bool := false
  relTick   : Nat := 0
  /-- The number of the next request when `trig` (or `exit` without one) issued. -/
  trig      : Option Nat := none
  trigDone  : Bool := false
  exited    : Bool := false
  /-- The core on which the block was released, and the virtual address of its context area (R176). -/
  home      : Nat := 0
  area      : Nat := 0
  /-- The core that the launch named for it (R295); a `cancel` has killed it (R290). -/
  member    : Nat := 0
  /-- A `cancel` has it killed from the cycle in `killAt` on, if it has not exited by then (R291). -/
  doomed    : Bool := false
  killed    : Bool := false
  journal   : List JEntry := []
  /-- Tags of calls that resumed with `RESTARTED` (R239). -/
  restarted : List Word := []
  deriving DecidableEq, Repr

/-- Whether a core issues (R169, R171, R228, R279): no context in it; issuing or waiting; frozen with the cause code of
the stop; fenced. -/
inductive Run where
  | idle
  | running
  | held (cause : Cause)
  | fenced
  deriving DecidableEq, Repr

/-- A line of the code stream buffer or a record of the metadata buffer (R231): its bytes, or why its fetch failed. -/
inductive CodeLine where
  | bytes (bs : List Byte)
  | bad (cause : Cause) (reason : Nat)
  deriving DecidableEq, Repr

/-- A fault that a request raised away from any bundle (R170 item 5, R195). -/
structure PendFault where
  /-- 0 faults of requests and `RDCERR`, 1 `OSLOT`, 2 `BAROVF` (R170), 3 words that a unit of the matrix engine cannot read
  (R307, log 56). -/
  rank   : Nat
  req    : Nat
  stop   : Stop
  /-- It names a word of the core's own memory (R295, R307). -/
  own    : Bool := false
  deriving DecidableEq, Repr

/-- The held context while handlers run in the service bank (R235, R236). -/
structure Service where
  /-- The context the stop holds, and the cause of the stop. -/
  host    : Ctx
  cause   : Cause := .yieldsvc
  handler : Nat
  /-- Charged cycles still to pass. -/
  left    : Nat
  /-- `exit` has issued. -/
  exited  : Bool := false
  deriving DecidableEq, Repr


/-- One core (R1, R26, R147, R231, R234). -/
structure Core where
  run      : Run := .idle
  ctx      : Ctx := {}
  mx       : Mx := {}
  spad     : SMap Byte := []
  dict     : SMap Byte := []
  code     : SMap CodeLine := []
  codeBase : Nat := 0
  metas    : SMap CodeLine := []
  blk      : Option Block := none
  /-- Releases on the core since bind (R280). -/
  gen      : Nat := 0
  /-- The last unit of the core completed by `cancel` (R290). -/
  cancelled : Bool := false
  /-- A launch not yet released reserves the core (R288): its object. -/
  resv     : Option Nat := none
  faults   : List PendFault := []
  pendPre  : Bool := false
  pendDbg  : Bool := false
  /-- Cycle of the region clock from which a kill is taken (R291). -/
  killAt   : Option Nat := none
  /-- Cycles left until the snapshot is complete, and whether a save is ordered (R171). -/
  snapLeft : Nat := 0
  saveDue  : Bool := false
  /-- The packets of a save are ready on the channels (R265). -/
  saveAsked : Bool := false
  deadline : BitVec 32 := 0
  /-- The kernel wrote `DEADLINE` since the last release (R237); since the last stop with `YIELDSVC` or `DEADLINE`. -/
  dlSet    : Bool := false
  dlHold   : Bool := false
  svreq    : BitVec 16 := 0
  dlreload : BitVec 32 := 0
  dlen     : Bool := false
  dbghold  : Bool := false
  svused   : BitVec 24 := 0
  svc      : Option Service := none
  /-- The bundle of this cycle follows a yield: its tests are over (R236). -/
  yielded  : Bool := false
  /-- `rte` of another core has resumed the core in this cycle: it issues from the next cycle on (R94, log 12). -/
  resumed  : Bool := false
  /-- A bundle has issued, or the core has waited, in the cycle in progress (R33, R87). -/
  ran      : Bool := false
  /-- Words of the core's own memories that no correction can recover (R307). -/
  badWords : List (Sram × Nat) := []
  /-- The matrix engine and the flags before the landings of rows in the current cycle (R171). -/
  mxWas    : Option (Mx × BitVec 10) := none
  /-- The cycle in which a segment last landed through the copy-landing port (R199), and the cycle in which an outgoing copy
  last read the scratchpad (R200). -/
  portAt   : Option Nat := none
  readAt   : Option Nat := none
  deriving DecidableEq, Repr

end Sys2Proof.Machine
end

