-- ==== Sys2Proof/Machine/Mem.lean ====
section
/-! DEFINITION. Sparse maps and little-endian bytes: reading and writing memories of every kind (spec/02 R39, spec/04 R75,
spec/18 R302). -/

namespace Sys2Proof.Machine

/-- The entry at a key. -/
def smGet {α : Type} : SMap α → Nat → Option α
  | [], _ => none
  | (j, x) :: m, k => if j = k then some x else smGet m k

/-- The entry at a key, or the default. -/
def smGetD {α : Type} (m : SMap α) (k : Nat) (d : α) : α := (smGet m k).getD d

/-- Sets the entry at a key. -/
def smPut {α : Type} : SMap α → Nat → α → SMap α
  | [], k, x => [(k, x)]
  | (j, y) :: m, k, x => if k < j then (k, x) :: (j, y) :: m else if k = j then (k, x) :: m else (j, y) :: smPut m k x

/-- Removes the entry at a key. -/
def smDel {α : Type} : SMap α → Nat → SMap α
  | [], _ => []
  | (j, y) :: m, k => if j = k then smDel m k else (j, y) :: smDel m k

/-- Sets the entry at a key of a map with a default: an entry equal to the default is not listed. -/
def smSet {α : Type} [DecidableEq α] (d : α) (m : SMap α) (k : Nat) (x : α) : SMap α :=
  if x = d then smDel m k else smPut m k x

/-- Keys strictly rising, all above a bound. -/
def smRising {α : Type} : Option Nat → SMap α → Bool
  | _, [] => true
  | none, (k, _) :: m => smRising (some k) m
  | some b, (k, _) :: m => decide (b < k) && smRising (some k) m

/-- The canonical form of a byte memory: rising addresses and no listed byte that reads as an unlisted one. -/
def Memory.wf (m : SMap Byte) : Bool := smRising none m && m.all fun c => c.2 != 0

/-- A byte of a memory; an unlisted address reads 0 (log 2). -/
def mRead (m : SMap Byte) (a : Nat) : Byte := smGetD m a 0

/-- Writes a byte, keeping the canonical form. -/
def mWrite (m : SMap Byte) (a : Nat) (b : Byte) : SMap Byte := smSet 0 m a b

/-- `n` bytes from an address. -/
def mReadN (m : SMap Byte) (a : Nat) : Nat → List Byte
  | 0 => []
  | n + 1 => mRead m a :: mReadN m (a + 1) n

/-- A memory with a run of bytes [lo, hi) taken out. -/
def mCut (m : SMap Byte) (lo hi : Nat) : SMap Byte := m.filter fun c => !(decide (lo ≤ c.1) && decide (c.1 < hi))

/-- The entries of a list of cells whose addresses lie in [lo, lo + n), as a memory; of two at one address the first counts. -/
def cellsIn (lo n : Nat) (m : SMap Byte) : SMap Byte :=
  (m.filter fun c => decide (lo ≤ c.1) && decide (c.1 < lo + n)).foldr (fun c m => mWrite m c.1 c.2) []

/-- Bytes written from an address up. -/
def mWriteN (m : SMap Byte) (a : Nat) : List Byte → SMap Byte
  | [] => m
  | b :: bs => mWriteN (mWrite m a b) (a + 1) bs

/-- The number that bytes hold, the first least significant. -/
def leNat : List Byte → Nat
  | [] => 0
  | b :: bs => b.toNat + 256 * leNat bs

/-- The low `n` bytes of a number, the first least significant. -/
def leBytes : Nat → Nat → List Byte
  | 0, _ => []
  | n + 1, v => BitVec.ofNat 8 v :: leBytes n (v / 256)

/-- Bits `lo` to `lo + len - 1` of a number. -/
def bits (v lo len : Nat) : Nat := v / 2 ^ lo % 2 ^ len

/-- The low `n` bits as a two's-complement integer. -/
def sInt (n v : Nat) : Int := if 2 * (v % 2 ^ n) < 2 ^ n then (v % 2 ^ n : Nat) else (v % 2 ^ n : Nat) - (2 ^ n : Nat)

/-- The low `n` bits of an integer. -/
def wrap (n : Nat) (x : Int) : Nat := (x % (2 ^ n : Nat)).toNat

/-- Signed value of a scalar (R62). -/
def sgn (v : Word) : Int := v.toInt

/-- The words of `v`, `w` bits each, from the least significant: lanes (R116). -/
def lanesOf (w : Nat) : Nat → Nat → List Nat
  | 0, _ => []
  | n + 1, v => v % 2 ^ w :: lanesOf w n (v / 2 ^ w)

/-- Lanes of `w` bits put together, the first least significant. -/
def ofLanes (w : Nat) : List Nat → Nat
  | [] => 0
  | x :: xs => x % 2 ^ w + 2 ^ w * ofLanes w xs

end Sys2Proof.Machine
end

