-- ==== Sys2Proof/Machine/Flags.lean ====
section
/-! DEFINITION. The sticky flags (spec/02 R37) and what sets them. -/

namespace Sys2Proof.Machine

/-- A set of flags, in the bit order of `FLAGS`. -/
abbrev Flags := BitVec 10

def fVOIDRD : Flags := 1
def fDZ : Flags := 2
def fOVF : Flags := 4
def fUNF : Flags := 8
def fINX : Flags := 16
def fINVALID : Flags := 32
def fSAT : Flags := 64
def fGUF : Flags := 128
def fSCLO : Flags := 256
def fMODFB : Flags := 512

/-- A flag raised when a condition holds. -/
def fIf (c : Bool) (f : Flags) : Flags := if c then f else 0

/-- `VOIDRD` when a void entry is read (R35). -/
def voidFlag (void : Bool) : Flags := fIf void fVOIDRD

/-- `DZ` of a division (R66). -/
def divFlag (y : Word) : Flags := fIf (y == 0) fDZ

/-- `Sat` (R21): the clamped value and `SAT` when it clamps. -/
def satInt (x lo hi : Int) : Int × Flags :=
  if x < lo then (lo, fSAT) else if hi < x then (hi, fSAT) else (x, 0)

end Sys2Proof.Machine
end

