-- ==== Sys2Proof/Machine/Operands.lean ====
section
/-! DEFINITION. Operands, guards and destinations: reading with void entries (spec/02 R28, R32, R35; spec/03 R48 to R50)
and landing results (spec/02 R27 to R31, spec/05 R84, spec/09 R173). -/

namespace Sys2Proof.Machine

/-- A scalar operand as read at issue. -/
def readS (c : Ctx) : SOp → SVal
  | .b i => c.sb.getD i.val {}
  | .k i => smGetD c.sk i.val {}
  | .zero => ⟨0, false⟩
  | .one => ⟨1, false⟩
  | .minus1 => ⟨BitVec.allOnes 64, false⟩

/-- The value of a scalar operand: a void entry reads 0. -/
def valS (c : Ctx) (o : SOp) : Word := let x := readS c o; if x.void then 0 else x.v

/-- Whether a scalar operand reads a void entry. -/
def voidS (c : Ctx) (o : SOp) : Bool := (readS c o).void

/-- A vector operand as read at issue. -/
def readV (c : Ctx) : VOp → VVal
  | .vb i => c.vb.getD i.val {}
  | .w i => smGetD c.vk i.val {}
  | .vzero => ⟨0, false⟩

/-- The value of a vector operand: a void entry reads 0. -/
def valV (c : Ctx) (o : VOp) : VWord := let x := readV c o; if x.void then 0 else x.v

/-- Whether a vector operand reads a void entry. -/
def voidV (c : Ctx) (o : VOp) : Bool := (readV c o).void

/-- A predicate: `p0` reads 1, a void one reads 0 (R34, R35). -/
def valP (c : Ctx) (p : Fin 16) : Bool := p.val == 0 || (!c.pvoid.getLsbD p.val && c.preds.getLsbD p.val)

/-- Whether a predicate is void. -/
def voidP (c : Ctx) (p : Fin 16) : Bool := p.val != 0 && c.pvoid.getLsbD p.val

/-- Whether the guard lets the instruction act (R10, R32): the named predicate, negated by `GN`. -/
def guardOn (c : Ctx) (g : Guard) : Bool := valP c g.p != g.neg

/-- Sets flags at once. -/
def raise (c : Ctx) (f : Flags) : Ctx := { c with flags := c.flags ||| f }

/-- Sets `VOIDRD` when a void entry was read, in the issue cycle (log 4). -/
def noteVoid (c : Ctx) (void : Bool) : Ctx := raise c (voidFlag void)

/-- A result bound for a scalar destination. -/
def resS (d : SDst) (v : Word) : Res :=
  match d with
  | .belt => .sbelt v
  | .k i => .k i v
  | .discard => .drop false

/-- A result bound for a vector destination. -/
def resV (d : VDst) (v : VWord) : Res :=
  match d with
  | .belt => .vbelt v
  | .w i => .w i v
  | .discard => .drop true

/-- What lands when the guard reads 0 (R32): a zero on the belt, nothing elsewhere. -/
def offS : SDst → Res
  | .belt => .sbelt 0
  | _ => .drop false

def offV : VDst → Res
  | .belt => .vbelt 0
  | _ => .drop true

/-- Puts a result in flight: it lands after `lat` bundles (R27, R33). -/
def fly (c : Ctx) (slot lat : Nat) (r : Res) (f : Flags) : Ctx :=
  { c with inflight := c.inflight ++ [⟨c.bc + lat, slot, c.bc, r, f⟩] }

/-- Issues an instruction with a scalar result: `void` says whether a read operand was void. -/
def issueS (slot lat : Nat) (g : Guard) (d : SDst) (void : Ctx → Bool) (f : Ctx → Word × Flags) (c : Ctx) : Ctx :=
  if guardOn c g then fly (noteVoid c (voidP c g.p || void c)) slot lat (resS d (f c).1) (f c).2
  else fly (noteVoid c (voidP c g.p)) slot lat (offS d) 0

/-- Issues an instruction with a vector result. -/
def issueV (slot lat : Nat) (g : Guard) (d : VDst) (void : Ctx → Bool) (f : Ctx → VWord × Flags) (c : Ctx) : Ctx :=
  if guardOn c g then fly (noteVoid c (voidP c g.p || void c)) slot lat (resV d (f c).1) (f c).2
  else fly (noteVoid c (voidP c g.p)) slot lat (offV d) 0

/-- Issues an instruction with a predicate result (R63): nothing changes when the guard reads 0. -/
def issueP (lat : Nat) (g : Guard) (pd : Fin 16) (void : Ctx → Bool) (f : Ctx → Bool) (c : Ctx) : Ctx :=
  if guardOn c g then fly (noteVoid c (voidP c g.p || void c)) 0 lat (.pred pd (f c)) 0
  else noteVoid c (voidP c g.p)

/-! ### Landing -/

/-- Puts a value into a belt at an age; the entry at age 15 is lost (R27). -/
def beltIns {α : Type} (k : Nat) (x : α) (l : List α) : List α := (l.take k ++ x :: l.drop k).take 16

/-- The order of results that land in one cycle (R29): slot, then issue cycle. -/
def landsBefore (a b : Landing) : Bool := a.slot < b.slot || (a.slot == b.slot && a.seq ≤ b.seq)

/-- Whether two results go to the same belt. -/
def sameBelt : Res → Res → Bool
  | .sbelt _, .sbelt _ => true
  | .vbelt _, .vbelt _ => true
  | _, _ => false

/-- Whether two results go to the same register. -/
def sameReg : Res → Res → Bool
  | .k i _, .k j _ => i == j
  | .w i _, .w j _ => i == j
  | .pred i _, .pred j _ => i == j
  | _, _ => false

/-- Sets a predicate and clears its void bit; `p0` takes no write (R34). -/
def setP (c : Ctx) (p : Fin 16) (v : Bool) : Ctx :=
  if p.val = 0 then c
  else
    let m : BitVec 16 := BitVec.ofNat 16 (2 ^ p.val)
    { c with preds := if v then c.preds ||| m else c.preds &&& ~~~m, pvoid := c.pvoid &&& ~~~m }

/-- Takes one result to its destination, among those of the cycle that have landed already (R27 to R31): a belt value goes
below the ones that the order of R29 pushes later, and a register keeps the value of a later one. -/
def land (c : Ctx) (l : Landing) : Ctx :=
  let later := c.landed.filter fun m => !landsBefore m l
  let c1 :=
    match l.res with
    | .sbelt v => { c with sb := beltIns (later.countP fun (m : Landing) => sameBelt m.res l.res) ⟨v, false⟩ c.sb }
    | .vbelt v => { c with vb := beltIns (later.countP fun (m : Landing) => sameBelt m.res l.res) ⟨v, false⟩ c.vb }
    | .k i v => if later.any fun (m : Landing) => sameReg m.res l.res then c else { c with sk := smPut c.sk i.val ⟨v, false⟩ }
    | .w i v => if later.any fun (m : Landing) => sameReg m.res l.res then c else { c with vk := smPut c.vk i.val ⟨v, false⟩ }
    | .pred i v => if later.any fun (m : Landing) => sameReg m.res l.res then c else setP c i v
    | .drop _ => c
  { c1 with flags := c1.flags ||| l.flags, landed := c1.landed ++ [l] }

/-- Inserts a result into a list in the order of R29. -/
def landInsert (l : Landing) : List Landing → List Landing
  | [] => [l]
  | m :: ms => if landsBefore m l then m :: landInsert l ms else l :: m :: ms

/-- Results in the order of R29. -/
def landSort (ls : List Landing) : List Landing := ls.foldl (fun acc l => landInsert l acc) []

/-- All landings of the cycle (R28): the results due at the current count, in order. -/
def landAll (c : Ctx) : Ctx :=
  let now := landSort (c.inflight.filter fun l => l.due ≤ c.bc)
  now.foldl land { c with inflight := c.inflight.filter fun l => c.bc < l.due, landed := [] }

/-- The results that land with the next bundle (R84): those with no bundle left before them. -/
def retLanding (r : RetPend) : Landing := ⟨0, r.slot, r.seq, resS r.dst r.val, 0⟩

/-- Lands the results that wait for the bundle now due. -/
def landRets (c : Ctx) : Ctx :=
  ((c.rets.filter fun r => r.left == 0).map retLanding).foldl land
    { c with rets := c.rets.filter fun r => r.left != 0 }

/-! ### Freeze and replay -/

/-- The drain of R171: every result in flight becomes a latch entry with its offset. -/
def freezeCtx (c : Ctx) : Ctx :=
  { c with latch := c.latch ++ c.inflight.map fun l => { l with due := l.due - c.bc }, inflight := [] }

/-- The replay of R174: every latch entry lands at its offset from the resumed bundle; a new group begins (R46). -/
def replayCtx (c : Ctx) : Ctx :=
  { c with inflight := c.inflight ++ c.latch.map fun l => { l with due := l.due + c.bc }, latch := [],
           grpK := 0, grpW := 0, grpP := 0 }

end Sys2Proof.Machine
end

