-- ==== Sys2Proof/Config.lean ====
section
/-! DEFINITION. What the spec leaves to an implementation or leaves open: constants with no body, so that nothing can be
proved of their values. Each names the log entry (notes/assumptions) that declares it. -/

namespace Sys2Proof.Config

/-- Which of the enabled rows of the house-clocked engines runs next, and whether one runs at all (R195, R196, R355):
the value at a choice number, taken modulo the number of possibilities (log 7). -/
opaque pick : Nat → Nat

/-- A byte of the parts of a context area whose layout R176 leaves open: number of the save, offset (log 21). -/
opaque areaByte : Nat → Nat → Byte

/-- The reading of a ring's monitor photodiode (R275): house tick of the sample and ring number (log 18). -/
opaque monitor : Nat → Nat → BitVec 10

/-- Where the frame allocator begins its search: partition, class of memory, and how many frames it has given (log 11). -/
opaque framePick : Nat → Nat → Nat → Nat

/-! ### Loader, attestation, energy (spec/19; log 10, 11, 17, 53) -/

/-- Where the host-managed device memory stands in host physical space (R319). -/
opaque hdmBase : Nat

/-- The public key enrolled for a partition under an index, if any (R321, R323), and the fused vendor key (R326): byte i in bits
[8i + 7 : 8i], as of every key here (log 53). -/
opaque enrolled : Nat → Nat → Option (BitVec 256)
opaque vendorKey : BitVec 256

/-- The fused device identity key with its public key (R325), and the random bytes that a signature takes, by house tick. -/
opaque deviceKey : BitVec 512
opaque signRandom : Nat → BitVec 128

/-- Cached lines that were dropped without write-back, by the number of the choice: the units of 64 bytes that HBM then does not hold
as last written, and what it holds of each (R311, R314, log 60). -/
opaque lostUnits : Nat → List (Nat × BitVec 512)

/-- The device serial (R325). -/
opaque serial : BitVec 128

/-- The image of the Cerrum kernel in board flash (R326). -/
opaque flashImage : Nat → Byte

/-- The key pair that the boot ROM draws, by the number of the choice (R326). -/
opaque bootKey : Nat → BitVec 512

/-- What a kernel section of an image holds (R321): dictionary bytes, code bytes, scratchpad image with addresses, and bytes
in its `.scratch` sections. The spec names the parts and gives no layout. -/
opaque kernelSection : List Byte → List Byte × List Byte × List (Nat × Byte) × Nat

/-- The kernel that a timetable entry starts in, and the cycles it declares (R14): by the image's measurement and the number
of the entry. -/
opaque entryKernel : BitVec 256 → Nat → Nat
opaque entryCycles : BitVec 256 → Nat → Nat

/-- Where the loader begins to look for free virtual pages: partition, and how many frames it has (R323). -/
opaque vaPick : Nat → Nat → Nat

/-- Energy that the monitors measure for a partition in a microsecond (R328). -/
opaque energyDebit : Nat → Nat → Nat

/-! ### The fabric outside the package (spec/20; log 16) -/

/-- A message that arrives from another package, by its number: sending package, die and core, tag, job, count of earlier sends,
payload length, receiving die; and its payload. -/
opaque fabricIn : Nat → Nat × Nat × Nat × Nat × Nat × Nat × Nat × Nat
opaque fabricByte : Nat → Nat → Byte

/-- Whether a job has an interface in another package; the sums of (`INJ`, `CON`, `LOSS`) over those interfaces: job, wave since
reset, pass; the number of a wave whose root is there: job, wave since reset. -/
opaque jobElsewhere : Nat → Bool
opaque remoteSums : Nat → Nat → Nat → Nat × Nat × Nat
opaque rootWave : Nat → Nat → Nat

/-- The partition that owns a job slot, by slot and house tick: the kernel gives it, and no register says to whom (R308, R336). -/
opaque slotOwner : Nat → Nat → Nat

/-- Whether a link lies in a job's tree; whether this package's interface on a die stands below it. -/
opaque linkTree : Nat → Nat → Bool
opaque linkLeaf : Nat → Nat → Nat → Bool

end Sys2Proof.Config
end

