-- ==== Sys2Proof/Machine/Cipher.lean ====
section
/-! DEFINITION. The cipher of the key slots (spec/18 R312, R313): AES-256 in XTS mode under IEEE Std 1619, with data units of 64
bytes and the tweak `PA[47:6]`. Memory holds plaintext with the pair that it was written under; the cipher decides what a
reader under another pair gets. Byte 0 of a key is bits [7:0] of its register (log 15). -/

namespace Sys2Proof.Machine

/-! ### The field of 256 elements -/

/-- A byte times x, modulo x^8 + x^4 + x^3 + x + 1. -/
def gfDouble (a : Byte) : Byte := (a <<< 1) ^^^ (if a.getLsbD 7 then 0x1B else 0)

/-- The product of a byte and the low `n` bits of another. -/
def gfMul : Nat → Byte → Byte → Byte
  | 0, _, _ => 0
  | n + 1, a, b => (if b.getLsbD 0 then a else 0) ^^^ gfMul n (gfDouble a) (b >>> 1)

/-- The product of the `n` squares a^2, a^4, …; for seven of them the inverse of `a`. -/
def gfSquares : Nat → Byte → Byte
  | 0, _ => 1
  | n + 1, a => let q := gfMul 8 a a; gfMul 8 q (gfSquares n q)
def gfInv (a : Byte) : Byte := gfSquares 7 a

/-- The byte substitution and its inverse. -/
def aesSub (a : Byte) : Byte :=
  let b := gfInv a
  b ^^^ b.rotateLeft 1 ^^^ b.rotateLeft 2 ^^^ b.rotateLeft 3 ^^^ b.rotateLeft 4 ^^^ 0x63
def aesUnsub (a : Byte) : Byte := gfInv (a.rotateLeft 1 ^^^ a.rotateLeft 3 ^^^ a.rotateLeft 6 ^^^ 0x05)

/-! ### Rounds: a block is 16 bytes, column by column -/

def xorBytes (a b : List Byte) : List Byte := List.zipWith (· ^^^ ·) a b

/-- Row `r` moves `r` columns, forward or back. -/
def aesShift (b : List Byte) : List Byte := (List.range 16).map fun i => b.getD ((i + 4 * (i % 4)) % 16) 0
def aesUnshift (b : List Byte) : List Byte := (List.range 16).map fun i => b.getD ((i + 12 * (i % 4)) % 16) 0

/-- Each column times a circulant matrix with the given first row. -/
def aesMixBy (m : List Byte) (b : List Byte) : List Byte :=
  (List.range 16).map fun i => (List.range 4).foldl (fun x j =>
    x ^^^ gfMul 8 (b.getD (i / 4 * 4 + (i + j) % 4) 0) (m.getD j 0)) 0
def aesMix (b : List Byte) : List Byte := aesMixBy [2, 3, 1, 1] b
def aesUnmix (b : List Byte) : List Byte := aesMixBy [14, 11, 13, 9] b

/-- The words of the key schedule from word `i` on, the newest first. -/
def aesWords : Nat → Nat → Byte → List (List Byte) → List (List Byte)
  | 0, _, _, ws => ws
  | n + 1, i, rcon, ws =>
    let t := ws.getD 0 []
    let u := if i % 8 = 0 then xorBytes ((t.rotateLeft 1).map aesSub) [rcon, 0, 0, 0] else if i % 8 = 4 then t.map aesSub else t
    aesWords n (i + 1) (if i % 8 = 0 then gfDouble rcon else rcon) (xorBytes (ws.getD 7 []) u :: ws)

/-- The 15 round keys of a key of 32 bytes. -/
def aesKeys (key : List Byte) : List (List Byte) :=
  let first := (List.range 8).map fun i => (key.drop (4 * i)).take 4
  let ws := (aesWords 52 8 1 first.reverse).reverse
  (List.range 15).map fun i => ((ws.drop (4 * i)).take 4).flatten

/-- AES-256 of a block, and its inverse, with round keys in order. -/
def aesEnc (ks : List (List Byte)) (b : List Byte) : List Byte :=
  let r := ((ks.drop 1).take 13).foldl (fun b k => xorBytes (aesMix (aesShift (b.map aesSub))) k) (xorBytes b (ks.getD 0 []))
  xorBytes (aesShift (r.map aesSub)) (ks.getD 14 [])
def aesDec (ks : List (List Byte)) (b : List Byte) : List Byte :=
  let r := ((ks.drop 1).take 13).reverse.foldl (fun b k => aesUnmix (xorBytes ((aesUnshift b).map aesUnsub) k))
    (xorBytes b (ks.getD 14 []))
  xorBytes ((aesUnshift r).map aesUnsub) (ks.getD 0 [])

/-! ### XTS -/

/-- A tweak of 16 bytes times x, modulo x^128 + x^7 + x^2 + x + 1. -/
def xtsDouble (t : List Byte) : List Byte :=
  leBytes 16 (let v := leNat t; (2 * v % 2 ^ 128) ^^^ (if v.testBit 127 then 0x87 else 0))

/-- The tweaks of the blocks of a data unit. -/
def xtsTweaks : Nat → List Byte → List (List Byte)
  | 0, _ => []
  | n + 1, t => t :: xtsTweaks n (xtsDouble t)

/-- A data unit under a pair (`DKEY` in [255:0], `TKEY` in [511:256]), each block run through `f`. -/
def xtsUnit (f : List (List Byte) → List Byte → List Byte) (pair : BitVec 512) (unit : Nat) (bs : List Byte) : List Byte :=
  let ks := aesKeys (leBytes 32 pair.toNat)
  let t0 := aesEnc (aesKeys (leBytes 32 (pair.toNat / 2 ^ 256))) (leBytes 16 unit)
  ((xtsTweaks 4 t0).zipIdx.map fun t => xorBytes (f ks (xorBytes ((bs.drop (16 * t.2)).take 16) t.1)) t.1).flatten

/-- A data unit written under one pair as it reads under another. -/
def recode (old new : BitVec 512) (unit : Nat) (bs : List Byte) : List Byte :=
  if old = new then bs else xtsUnit aesDec new unit (xtsUnit aesEnc old unit bs)

end Sys2Proof.Machine
end

