-- ==== Sys2Proof/Machine/UnitState.lean ====
section
/-! DEFINITION. The state of everything outside the cores, as plain data: tile-walk engines (spec/11, spec/12), regions
and crossings (spec/14), crossbar and reducers (spec/15), completion objects (spec/16), partitions, keys and memory
(spec/18), loader and energy (spec/19), fabric (spec/20). -/

namespace Sys2Proof.Machine

/-- The rows of the table that the package makes happen by itself, with the numbers of the units they act on. (A value of
`Instr` with so many constructors cannot be built by compiled code; each event runs the meaning of its row.) -/
inductive Event where
  | resultLanding (core : Nat) | sleeptoWake (core : Nat) | mwaitEnd (core : Nat) | joinEnd (core : Nat)
  | barwEnd (core : Nat) | drainEnd (core : Nat) | frecvEnd (core : Nat) | quietEnd (core : Nat)
  | fstatRecordLanding (core : Nat) | killTaken (core : Nat) | productStart (core : Nat) | productRowLanding (core : Nat)
  | foldStart (core : Nat) | foldRowLanding (core : Nat) | scanStart (core : Nat) | scanLanding (core : Nat)
  | promise (core : Nat) | deadlineExpiry (core : Nat) | handlerEnd (core : Nat) | snapshotComplete (core : Nat)
  | contextSave (core : Nat) | codeLineFetch (core line : Nat) | metadataFetch (core record : Nat)
  | triggerCount (core : Nat) | unitCount (core : Nat)
  | copySegmentLanding (req seg : Nat) | bytePerform (req piece : Nat) | atomicPerform (req : Nat)
  | tweFaultReport (req : Nat) | requestComplete (req : Nat) | tableWalk (cluster part va : Nat) | tlbiPerform (op : Nat)
  | descriptorFetch (cluster stream : Nat) | streamStepStart (cluster stream : Nat)
  | slotWindowClose (region : Nat) | latchPresentation (region : Nat) | sourceLoss (source : Nat) | regionStop (region : Nat)
  | regionRestart (region : Nat) | frameBoundary (region : Nat) | historySlotAdvance (xing : Nat)
  | crossingCompute (xing : Nat) | timetableRelease (region : Nat) | stallEndRelease (region : Nat)
  | entrySkip (region : Nat) | slip (region : Nat)
  | launchRelease (obj : Nat) | completionCounterUpdate (obj : Nat) | launchComplete (obj : Nat) | graphComplete (obj : Nat)
  | phaseComplete (obj : Nat) | jobComplete (obj : Nat) | watchdogPreempt (obj : Nat) | watchdogKill (obj : Nat)
  | watchdogFence (obj : Nat) | reexecutionRelease (obj : Nat)
  | wheelSlot (chan : Nat) | wheelRevolution (chan : Nat) | reducerContribution (req : Nat) | reducerResultWrite (round : Nat)
  | groupSweepDone (part : Nat) | packageReset | energyMicrosecond | energyWindowEnd
  | loadqBind (entry : Nat) | loadqUnbind (entry : Nat) | loadqReservedOp (entry : Nat)
  | messageDelivery (msg : Nat) | lossNoticeArrival (msg : Nat) | messageLoss (msg : Nat) | partialMessageDiscard (msg : Nat)
  | waveStart (job : Nat) | waveDownFlit (job die : Nat) | wavePass2Start (job : Nat) | waveResultSend (job : Nat)
  | waveResultArrival (job die : Nat)
  deriving DecidableEq, Repr

/-! ### Tile-walk engines -/

/-- Where bytes of a request come from or go to. -/
inductive Loc where
  | virt (va : Nat)
  | spad (core addr : Nat)
  | slot (core : Nat) (slot off : Nat)
  | zero
  | none
  deriving DecidableEq, Repr

/-- Bytes of a request that move together, at most an aligned doubleword at each home (R297). `stage` is 0 before the
bytes are taken, 1 when `buf` holds them, 2 once they stand at the destination, 3 when a fault keeps them from moving. -/
structure Piece where
  src   : Loc
  dst   : Loc
  len   : Nat
  /-- The barrier that counts the bytes: the core and the number (R201); whether they are counted. -/
  bar   : Option (Nat × Nat) := none
  counted : Bool := false
  /-- A void-bytes notice (R205). -/
  voidn : Bool := false
  stage : Nat := 0
  buf   : List Byte := []
  /-- The bytes have entered the bridge lane of their partition to another die (R298): the number that the next request had then. -/
  lane  : Option Nat := none
  deriving DecidableEq, Repr

/-- The classes of requests (R193, R209, R211, R271, R344, R345). -/
inductive ReqKind where
  | copy
  /-- `cpya`, `scat`, `gath` and walks: pieces that write the same bytes do so in list order, and a byte is not written
  before it is taken (R203, R205). -/
  | walk
  | stamp
  | atomic (opc : Nat) (sz : Sz) (ea : Nat) (v : Word) (z : Nat)
  | rdc (op : RdcOp) (len n g dst src : Nat)
  | fsend (msg : Nat)
  | frecv (slot cell : Nat)
  /-- Step `k` of a stream (R210). -/
  | step (cluster stream k : Nat)
  deriving DecidableEq, Repr

/-- A request (R192, R195, R196). -/
structure Req where
  core    : Nat
  bid     : Nat
  part    : Nat
  kind    : ReqKind
  /-- Policy after R61. -/
  ord     : Nat := 0
  scope   : Nat := 3
  cache   : Nat := 0
  /-- Engine codes of faults (R225) and bits of `EMASK` (R218) for sources and for destinations. -/
  rdEng   : Nat := 6
  wrEng   : Nat := 7
  rdBit   : Nat := 1
  wrBit   : Nat := 2
  /-- Region tick of issue. -/
  tick    : Nat := 0
  promise : Option Nat := none
  pieces  : List Piece := []
  /-- The request of a service handler (R192). -/
  service : Bool := false
  /-- It occupies a context of its core until it ends. -/
  context : Bool := true
  /-- A fault has been reported; the request never completes (R195). -/
  told    : Bool := false
  /-- Cores that a discarded multicast has been reported to (R206). -/
  missed  : List Nat := []
  /-- The atomic has performed; the contribution has arrived (R272). -/
  mid     : Bool := false
  complete : Bool := false
  deriving DecidableEq, Repr

/-- A cached leaf (R216, R220): base of the range, level, entry. -/
structure Leaf where
  part : Nat
  va   : Nat
  lvl  : Nat
  e    : BitVec 64
  deriving DecidableEq, Repr

/-- A `tlbi` outstanding (R223), by its number among the requests: whether the leaves are removed, and the requests that had
translated through one. -/
structure TlbiOp where
  core  : Nat
  /-- The block that issued it (R281). -/
  bid   : Nat := 0
  part  : Nat
  scope : Nat
  lo    : Nat
  hi    : Nat
  removed : Bool := false
  users : List Nat := []
  deriving DecidableEq, Repr

/-- A pipeline stream (R210, R211). -/
structure Stream where
  isOpen  : Bool := false
  owner   : Nat := 0
  ownerBid : Nat := 0
  part    : Nat := 0
  descVa  : Nat := 0
  /-- The place of the descriptor's read among the requests (R218, R299). -/
  num     : Nat := 0
  /-- The descriptor once fetched (64 bytes). -/
  desc    : Option (BitVec 512) := none
  failed  : Bool := false
  closing : Bool := false
  started : Nat := 0
  permits : SMap Nat := []
  deriving DecidableEq, Repr

/-- The engine of a cluster: leaves, most recently used first, and its 16 streams. -/
structure Twe where
  tlb     : List Leaf := []
  streams : SMap Stream := []
  deriving DecidableEq, Repr

/-! ### Regions, sources, latches, crossings -/

/-- `STATE` of `REGST` (R244). -/
inductive RegSt where
  | idle | locked | holdover | stopped
  deriving DecidableEq, Repr

/-- An entry of a timetable, bound (R14, R279): region tick, core id, kernel of the instance. -/
structure TEntry where
  frame  : Nat
  cyf    : Nat
  core   : Nat
  kernel : Nat
  entry  : Pc
  budget : Nat
  /-- 0 waiting, 1 released, 2 skipped. -/
  done   : Nat := 0
  deriving DecidableEq, Repr

/-- A region, number `8 * die + r` (R242 to R249, R283, R293). -/
structure Region where
  m       : Nat := 0
  d       : Nat := 0
  src     : Nat := 0
  regbw   : Nat := 1
  losn    : Nat := 4
  ioff    : Nat := 0
  ren     : Bool := false
  st      : RegSt := .idle
  clamp   : Bool := false
  relock  : Bool := false
  losts   : Nat := 0
  frame   : Nat := 0
  cyf     : Nat := 0
  /-- Cycles of the source clock since frame 0, stalled ones included (R284). -/
  srcTick : Nat := 0
  /-- Clock cycles run since bind, a plain count that orders events of the region. -/
  clk     : Nat := 0
  /-- Region tick of the cycle that began last. -/
  began   : Nat := 0
  /-- House time of the next cycle: `num / den` house ticks. -/
  num     : Nat := 0
  den     : Nat := 1
  /-- Length of a cycle as the clock follows its source, over `den`; 0 is the nominal one (R246). -/
  step    : Nat := 0
  inst    : Option Nat := none
  part    : Nat := 0
  table   : List TEntry := []
  lean    : List TEntry := []
  hasLean : Bool := false
  leanOn  : Bool := false
  wd1     : Nat := 0
  wd2     : Nat := 0
  wd3     : Nat := 0
  stalled : Bool := false
  stallN  : Nat := 0
  skipE   : Nat := 0
  /-- The entries due are released in the next cycle (R283); a realignment is due (R284). -/
  relNext : Bool := false
  /-- A frame begins with the next cycle (R243). -/
  newFrame : Bool := false
  slipDue : Bool := false
  /-- Slots whose window has an edge, newest first; samples lost in the frame (R246). -/
  edges   : List Nat := []
  overN   : Nat := 0
  /-- House tick of the declaration, of the stop (R247), and of the first good edge after it (R249). -/
  declT   : Nat := 0
  stopT   : Nat := 0
  goodT   : Option Nat := none
  /-- Edges since the return, that one included (R249). -/
  goodN   : Nat := 0
  /-- Rows due at a cycle of the region clock (R281, R282). -/
  timers  : List (Nat × Event) := []
  deriving DecidableEq, Repr

/-- A source (R241, R246): its register and what its edges showed. -/
structure Source where
  pnum  : Nat := 0
  pden  : Nat := 0
  sen   : Bool := false
  /-- House ticks of the last edges, newest first, at most 17. -/
  times : List Nat := []
  deriving DecidableEq, Repr

/-- An ingress latch, number `4 * cluster + n` (R245, R262). -/
structure Latch where
  value : BitVec 32 := 0
  /-- Captured samples with the number of their slot, not yet presented. -/
  cap   : List (BitVec 32 × Nat) := []
  stale : Bool := false
  miss  : Nat := 0
  lost  : Nat := 0
  snp   : Nat := 0
  deriving DecidableEq, Repr

/-- An `xout.cfg` of the cycle in progress, which takes effect at its end (R261): a stop, or a start with the downstream region, the
vector and the upstream slot. -/
structure XCfg where
  stop : Bool
  down : Nat
  v    : Nat
  slot : Nat
  deriving DecidableEq, Repr

/-- A crossing, by global cluster number (R252 to R258). -/
structure Crossing where
  owner    : Option Nat := none
  /-- The block that made its core the owner (R252). -/
  ownerBid : Nat := 0
  cfg      : Option XCfg := none
  run      : Bool := false
  xstep    : Nat := 0
  xadjmax  : Nat := 0
  xksh     : Nat := 0
  xlag     : Nat := 0
  xfmt     : List Nat := []
  xntap    : Nat := 0
  xstoppol : Nat := 0
  xdoff    : Nat := 0
  down     : Nat := 0
  /-- `XW[phi][t]` at `8 * phi + t`. -/
  xw       : SMap (BitVec 16) := []
  /-- Entry `s mod 2^16` of lane `l` at `65536 * l + s mod 2^16`. -/
  hist     : SMap (BitVec 32) := []
  /-- The upstream slot in progress. -/
  slotS    : Nat := 0
  /-- The phase P, and whether the next computation sets it afresh (R255). -/
  p        : Nat := 0
  fresh    : Bool := true
  xadj     : Int := 0
  out      : List (BitVec 32) := List.replicate 8 0
  /-- The last computed output, and held outputs since (R257). -/
  last     : List (BitVec 32) := List.replicate 8 0
  heldK    : Nat := 0
  marks    : BitVec 10 := 0
  lastMk   : BitVec 10 := 0
  stale    : BitVec 8 := 0
  held     : Nat := 0
  pherr    : Bool := false
  upstop   : Bool := false
  slast    : Nat := 0
  deriving DecidableEq, Repr

/-! ### Crossbar and reducers -/

/-- A packet ready on a channel (R266): its site, class, partition, and the request and line it is for. One of an engine's own
traffic (R268) has in place of a request the core whose code, metadata, record or area it moves, with the virtual line; 1,024 for table
entries, or 2,048 and the number of a message that is delivered, with the physical line. -/
structure Packet where
  site  : Nat
  cls   : Nat
  part  : Nat
  req   : Nat
  line  : Nat
  own   : Bool := false
  deriving DecidableEq, Repr

/-- A channel, number `128 * die + ch` (R264 to R266, R275, R278). -/
structure Channel where
  lastFree : Nat := 16
  /-- Owners of the octets 0 to 7 as class-0 slots: partition (R267). -/
  octets   : SMap Nat := []
  ready    : List Packet := []
  woff     : BitVec 32 := 0
  /-- `WOFF` as it works since the last revolution. -/
  woffNow  : BitVec 32 := 0
  /-- Slots still taken by a packet on a degraded channel. -/
  busy     : Nat := 0
  deriving DecidableEq, Repr

/-- A round of a reducer group, `16 * reducer + g` (R272): open until its contributions are `n`, then closed until its result is
written. -/
structure Round where
  group : Nat
  n    : Nat
  op   : RdcOp
  len  : Nat
  dst  : Nat
  part : Nat
  opener : Nat
  /-- Contributions by slot: request and bytes. -/
  got  : SMap (Nat × List Byte) := []
  deriving DecidableEq, Repr

/-! ### Completion objects -/

/-- A completion object above the unit (R280), by key. -/
structure Obj where
  live     : Bool := false
  gen      : Nat := 0
  /-- The last generation completed by `cancel` (R290). -/
  cancelled : Bool := false
  killing  : Bool := false
  inst     : Nat := 0
  part     : Nat := 0
  region   : Nat := 0
  /-- Launch: the blocks, as cores to release. -/
  cores    : List Nat := []
  /-- Members, by the core that the launch named, whose unit has not been counted; whose trigger has not. -/
  units    : List Nat := []
  trigs    : List Nat := []
  released : Bool := false
  entry    : Pc := 0
  budget   : Nat := 0
  kernel   : Nat := 0
  rst      : Bool := false
  /-- Smallest release tick so far, and tick at which the last trigger of the predecessor counted. -/
  due      : Nat := 0
  pred     : Option Nat := none
  /-- Some block of the predecessor has its trigger still to be counted (R285). -/
  predWait : Bool := false
  predT    : Option Nat := none
  /-- Requests of the issuing block that must perform first (R289): block, number of the next request. -/
  after    : Nat × Nat := (0, 0)
  graph    : Option Nat := none
  /-- Graph: whether its conductor's unit still counts at the die; launches still open. Phase: graphs still open. -/
  ownerIn  : Bool := false
  members  : List Nat := []
  phases   : List Nat := []
  /-- Phase: frame range. -/
  lo       : Nat := 0
  hi       : Nat := 0
  opened   : Nat := 0
  ending   : Bool := false
  /-- Watchdog steps taken, and the tick of the last one or of the release (R293). -/
  wdStep   : Nat := 0
  wdTick   : Nat := 0
  /-- The launch waits for energy (R329). -/
  held     : Bool := false
  /-- The counter tree (R281): by cluster, cores whose counter is not zero; clusters whose count is not zero; cores and
  (from 1,024) clusters whose return to zero has not reached the counter above. -/
  cluN     : SMap Nat := []
  dieN     : Nat := 0
  pend     : List Nat := []
  /-- Re-executions to come (R295): tick, core, block. -/
  redo     : List (Nat × Nat × Nat) := []
  deriving DecidableEq, Repr

/-- A context saved to its area (R176). -/
structure Saved where
  /-- The code origin of the block's kernel (R229). -/
  codeBase : Nat
  ctx  : Ctx
  mx   : Mx
  spad : SMap Byte
  dict : SMap Byte
  blk  : Block
  core : Nat
  cause : Cause
  /-- Causes that the stop left pending (R170). -/
  faults : List PendFault
  /-- The kernel wrote `DEADLINE` since the stop (R237). -/
  dlHold : Bool
  deriving DecidableEq, Repr

/-! ### Partitions, keys, loader -/

/-- A partition (R309, R328). -/
structure Part where
  /-- `PARTDESC`. -/
  desc     : BitVec 1024 := BitVec.ofNat 1024 (4 * 2 ^ 320)
  /-- Groups, as stack and group, that are still being zeroed: `SWEEP` (R311). -/
  sweep    : List (Nat × Nat) := []
  cecnt    : Nat := 0
  evHead   : Nat := 0
  evTail   : Nat := 0
  evLost   : Nat := 0
  erHead   : Nat := 0
  erTail   : Nat := 0
  erLost   : Nat := 0
  acct     : Int := 0
  credit   : Nat := 0
  low      : Nat := 0
  cap      : Nat := 0
  /-- Bytes of code and of metadata bound (R229). -/
  codeEnd  : Nat := 0
  metaEnd  : Nat := 0
  /-- Frames of the code and metadata ranges, by virtual page (R229, R230). -/
  codeFrames : SMap Nat := []
  /-- Frames allocated to pages, with their class; frames reserved for jobs (R316). -/
  frames   : List Nat := []
  deriving DecidableEq, Repr

/-- A key slot (R313): the pair, and how many loads made it. -/
structure KeySlot where
  valid   : Bool := false
  revoked : Bool := false
  pair    : BitVec 512 := 0
  loads   : Nat := 0
  deriving DecidableEq, Repr

/-- A kernel of a bound image (R229, R279): its code origin, dictionary and scratchpad image. -/
structure Kernel where
  origin  : Nat := 0
  dict    : SMap Byte := []
  scratch : SMap Byte := []
  /-- Bytes in the `.scratch` sections (R289). -/
  size    : Nat := 0
  deriving DecidableEq, Repr

/-- A bound instance of an image (R323). -/
structure Inst where
  live     : Bool := false
  part     : Nat := 0
  /-- The job object and its generation at the bind (R280). -/
  job      : Nat := 0
  jobGen   : Nat := 0
  /-- Where its kernels and its metadata stand: virtual address and bytes (R229). -/
  codes    : List (Nat × Nat) := []
  /-- Core ids by image core index, and the context area of each (R176). -/
  cores    : List Nat := []
  areas    : List Nat := []
  regions  : List Nat := []
  kernels  : List Kernel := []
  metaBase : Nat := 0
  metas    : Nat := 0
  energy   : Nat := 0
  oslots   : Nat := 0
  mempol   : BitVec 16 := 0x000C
  poltabl  : BitVec 64 := 0x000C000C000C000C
  poltabh  : BitVec 48 := 0x000C000C000C
  meas     : BitVec 256 := 0
  /-- Claims in the order of R15, stream sources, octets as channel and octet (R267), pages the loader mapped. -/
  claims   : List Nat := []
  sources  : List Nat := []
  octets   : List (Nat × Nat) := []
  pages    : List Nat := []
  /-- Frames reserved for later maps: slice, HBM (R316). -/
  resvS    : Nat := 0
  resvH    : Nat := 0
  deriving DecidableEq, Repr

/-- The management block and host window (R319, R320, R325, R327, R328, R335). -/
structure Mgmt where
  /-- `MGMTST.STATE`. -/
  state    : Nat := 0
  loadq    : List Word := []
  qfull    : Bool := false
  busy     : Bool := false
  loadring : Word := 0
  featOffer  : BitVec 128 := 0
  featAccept : BitVec 128 := 0
  ewin     : Nat := 1000
  /-- Whole microseconds since reset, for the window. -/
  us       : Nat := 0
  fpkg     : Nat := 0
  deriving DecidableEq, Repr

/-! ### Fabric -/

/-- What became of a cell (R339): full in an order, or taken by a block; with the bytes of its payload. -/
inductive CellSt where
  | full (order : Int) (len : Nat)
  | taken (bid : Nat) (len : Nat)
  deriving DecidableEq, Repr

/-- A job slot, by `64 * die + n` (R335, R339, R348). -/
structure JobSlot where
  job    : Nat := 0
  part   : Nat := 0
  en     : Bool := false
  origin : Bool := false
  spgper : Nat := 1000
  pool   : Nat := 0
  ncell  : Nat := 1
  inj    : Nat := 0
  con    : Nat := 0
  loss   : Nat := 0
  lseen  : Nat := 0
  /-- Cells that are not free. -/
  cells  : SMap CellSt := []
  order  : Int := 0
  enTick : Nat := 0
  /-- `(JOB, SEQ)` of loss notices seen, by sequence number. -/
  seen   : List Nat := []
  wave   : Nat := 0
  wq     : Bool := false
  winc   : Bool := false
  sinj   : Nat := 0
  scon   : Nat := 0
  sloss  : Nat := 0
  deriving DecidableEq, Repr

/-- A message (R334, R337): of this package under an even number, arriving from outside under an odd one (log 16). -/
structure Msg where
  spkg   : Nat
  sdie   : Nat
  /-- The partition of the sending slot (R333, R335). -/
  spart  : Nat := 0
  score  : Nat
  tag    : Nat
  job    : Nat
  seq    : Nat
  /-- The sending slot's count of accepted sends before this one (R338, R341); `seq` is it modulo 2^32. -/
  inj    : Nat
  len    : Nat
  dpkg   : Nat
  ddie   : Nat
  bytes  : List Byte
  /-- 0 on its way, 1 lost and held by its destination in part, 2 delivered, 3 lost and gone. -/
  st     : Nat := 0
  /-- A loss notice is on its way to the sending interface (R340). -/
  notice : Bool := false
  /-- The request that reads its bytes, and whether earlier requests must perform first (R341). -/
  req    : Nat := 0
  ordered : Bool := false
  /-- Packets that have arrived, and the house tick of the last one (R334, R340). -/
  packets : Nat := 0
  last   : Nat := 0
  /-- The packets of its delivery are ready on the channels (R265). -/
  asked  : Bool := false
  deriving DecidableEq, Repr

/-- The sparge wave of a job (R350), by job id. -/
structure Wave where
  num     : Nat := 0
  /-- Waves of the job begun since reset; `num` counts from the origin slot's enabling. -/
  begun   : Nat := 0
  running : Bool := false
  pass    : Nat := 1
  /-- Leaves that have replied in this pass: die with its three counters; dies that have the result. -/
  got     : List (Nat × Nat × Nat × Nat) := []
  told    : List Nat := []
  s1      : Nat × Nat × Nat := (0, 0, 0)
  s2      : Nat × Nat × Nat := (0, 0, 0)
  inc     : Bool := false
  quiet   : Bool := false
  sent    : Bool := false
  /-- Messages of the job were outstanding here between the two passes (R352); messages of this package to another one that had no
  notice by then. -/
  held    : Bool := false
  away    : List Nat := []
  deriving DecidableEq, Repr

end Sys2Proof.Machine
end

