-- ==== Sys2Proof/Machine/State.lean ====
section
/-! DEFINITION. The state of the package: everything the spec gives the machine, as plain data, and the state after
reset. -/

namespace Sys2Proof.Machine

/-- Why the machine stops for good: the spec names no condition in which the package as a whole does (a core that stops, is
fenced or idles is a state of it), so there is no reason, and no row raises one. -/
inductive Fault where
  deriving DecidableEq, Repr

/-- Why a row has no meaning. -/
inductive Refusal where
  /-- Raised by an arm of `exec` whose row has no meaning yet: by none of them now. Safe. -/
  | notModelled (mnemonic : String)
  deriving DecidableEq, Repr

/-- What is still to do in the current region cycle or house tick. -/
inductive Task where
  /-- A row of the table that is due. -/
  | ev (e : Event)
  /-- The start of a region cycle: counts that fall due, a realignment. -/
  | begin (region : Nat)
  /-- The releases of a region cycle. -/
  | release (region : Nat)
  /-- The cycle of every core of a region. -/
  | cores (region : Nat)
  /-- Results and rows of the matrix engine that land in a core's cycle. -/
  | land (core : Nat)
  /-- The bundle, wait or stop of a core in this cycle. -/
  | act (core : Nat)
  /-- What a core's matrix engine reads in this cycle; the end of the cycle. -/
  | fin (core : Nat)
  | close (core : Nat)
  /-- The computations of the crossings that a region reads. -/
  | xings (region : Nat)
  /-- The end of a region cycle: rows due at its end, and the counts of the clock. -/
  | done (region : Nat)
  | tick (region : Nat)
  /-- One slot of the wheels. -/
  | wheel
  /-- Bytes of a piece enter the bridge lane to another die (R298). -/
  | lane (req piece : Nat)
  /-- A packet of a message arrives (R334). -/
  | packet (msg : Nat)
  /-- Requests whose promise is due in a region's cycle come to their end or to their fault (R195, R269). -/
  | force (region : Nat)
  /-- Lines of code or records of metadata read for the entry of a block before it issues (R231), and how many are left. -/
  | fill (core : Nat) (isMeta : Bool) (line left : Nat)
  deriving DecidableEq, Repr

/-- The order of the model's steps: rows still to run, rows that come from outside, the core and slot of the row in
issue, and the number of the next free choice. -/
structure Sched where
  tasks  : List Task := []
  inbox  : List Instr := []
  cur    : Nat := 0
  slot   : Nat := 0
  choice : Nat := 0
  deriving DecidableEq, Repr

/-- The package. -/
structure State where
  sched   : Sched := {}
  /-- House ticks since package reset (R36). -/
  tick    : Nat := 0
  /-- The cores that differ from a core after reset, by core id (R4). -/
  cores   : SMap Core := []
  twes    : SMap Twe := []
  reqs    : SMap Req := []
  nextReq : Nat := 0
  nextBid : Nat := 1
  tlbis   : SMap TlbiOp := []
  regions : SMap Region := []
  /-- Region of each cluster that has one (R242), and image stream bindings are in the sources. -/
  clusterRegion : SMap Nat := []
  sources : SMap Source := []
  latches : SMap Latch := []
  xings   : SMap Crossing := []
  rdcown  : SMap (BitVec 128) := []
  /-- Rounds open or to be written, by number; several of a group may be closed. -/
  rounds  : SMap Round := []
  nextRound : Nat := 0
  chans   : SMap Channel := []
  /-- Slots of the wheels begun since reset (R265). -/
  wheel   : Nat := 0
  /-- House tick at which the ring monitors were sampled last, 0 before the first sample: `KILN_MON` (R275). -/
  mon     : Nat := 0
  /-- `KILN_HEAT` that is not 2,048, by `(ch * 18 + bank) * 36 + ring`. -/
  heat    : SMap (BitVec 12) := []
  /-- `KILN_MAP` that is not the identity, by `ch * 18 + bank`; and the map in force since the last revolution. -/
  rmap    : SMap (BitVec 256) := []
  rmapNow : SMap (BitVec 256) := []
  objs    : SMap Obj := []
  saved   : List Saved := []
  insts   : SMap Inst := []
  parts   : SMap Part := []
  keys    : SMap KeySlot := []
  /-- Key pair of each 64 KiB frame, as its first writer named it, and of each 64-byte unit written under another (R312). -/
  ftags   : SMap (BitVec 512) := []
  tags    : SMap (BitVec 512) := []
  /-- Poisoned 64-byte sectors (R306). -/
  poison  : List Nat := []
  /-- Physical memory (R302): bytes that are not 0. -/
  mem     : List Host.Cell := []
  mgmt    : Mgmt := {}
  /-- Service stores: bytes that are not 0, by `65536 * cluster + offset` (R233). -/
  store   : SMap Byte := []
  /-- `SVENTn`, by `16 * cluster + n` (R234). -/
  svents  : SMap (BitVec 32) := []
  fwl     : SMap (BitVec 32) := []
  jobs    : SMap JobSlot := []
  msgs    : SMap Msg := []
  nextMsg : Nat := 0
  waves   : SMap Wave := []
  /-- Fabric links that are lost (R353). -/
  links   : List Nat := []
  /-- Host memory as the part has written it or the outside has set it (R319). -/
  host    : List Host.Cell := []
  deriving DecidableEq, Repr

/-- The package right after reset: the boot row is due, everything else stands at its reset value. -/
def State.reset : State := { sched := { tasks := [.ev .packageReset] } }

end Sys2Proof.Machine
end

