-- ==== Sys2Proof/Machine/Phys.lean ====
section
/-! DEFINITION. Physical memory (spec/18 R302 to R315): what stands at an address, partitions and keys, the ring registers
in the kiln aperture (spec/15 R275, R276), event and error records. -/

namespace Sys2Proof.Machine

/-- A partition. -/
def getPart (s : State) (p : Nat) : Part := smGetD s.parts p {}

/-- Changes a partition. -/
def setPart (s : State) (p : Nat) (x : Part) : State := { s with parts := smPut s.parts p x }

/-- A key slot. -/
def getKey (s : State) (k : Nat) : KeySlot := smGetD s.keys k {}

/-- A channel. -/
def getChan (s : State) (c : Nat) : Channel := smGetD s.chans c {}

/-- Changes a channel. -/
def setChan (s : State) (c : Nat) (x : Channel) : State := { s with chans := smPut s.chans c x }

/-- A field of a partition's descriptor (R309). -/
def partField (p : Part) (lo len : Nat) : Nat := bits p.desc.toNat lo len

def partActive (p : Part) : Bool := partField p 323 1 == 1
def partSlsplit (p : Part) : Nat := partField p 320 3
def partRoot (p : Part) : Nat := partField p 384 48
def partEvRing (p : Part) : Nat := partField p 448 48
def partErRing (p : Part) : Nat := partField p 512 48
def partCodeBase (p : Part) : Nat := partField p 832 55
/-- Cluster by global number `16 * die + cluster`. -/
def partHasCluster (p : Part) (cl : Nat) : Bool := partField p cl 1 == 1
def partHasQuad (p : Part) (die q : Nat) : Bool := partField p (64 + 16 * die + q) 1 == 1
def partHasGroup (p : Part) (stack g : Nat) : Bool := partField p (128 + 16 * stack + g) 1 == 1
def partHasKey (p : Part) (k : Nat) : Bool := partField p (576 + k) 1 == 1

/-- What a physical address holds (R302). -/
inductive PaKind where
  | hbm (stack group : Nat)
  | slice (die k off : Nat)
  | kiln (die off : Nat)
  | nothing
  deriving DecidableEq, Repr

/-- The map of R302 with the populated part of each stack and the groups of R303. -/
def paKind (pa : Nat) : PaKind :=
  if pa < 12 * 2 ^ 37 then
    if pa % 2 ^ 37 < 0x1400000000 then .hbm (pa / 2 ^ 37) (bits pa 16 4) else .nothing
  else if 0x800000000000 ≤ pa ∧ pa < 0x800000000000 + 4 * 0x10000000 then
    let o := pa - 0x800000000000
    .slice (o / 0x10000000) (o % 0x10000000 / 0x400000) (o % 0x400000)
  else if 0xC00000000000 ≤ pa ∧ pa < 0xC00000000000 + 4 * 0x1000000 then
    let o := pa - 0xC00000000000
    .kiln (o / 0x1000000) (o % 0x1000000)
  else .nothing

/-- Whether the byte lies in memory that the partition may address (R304, R308). -/
def partOwnsPa (n : Nat) (p : Part) : PaKind → Bool
  | .hbm st g => partHasGroup p st g
  | .slice die k off => partHasQuad p die (k / 4) && decide (off < partSlsplit p * 0x100000)
  | .kiln _ _ => n == 0
  | .nothing => false

/-- Whether the byte lies in the cache part of a slice that the partition owns (R304). -/
def partCachePa (p : Part) : PaKind → Bool
  | .slice die k off => partHasQuad p die (k / 4) && decide (partSlsplit p * 0x100000 ≤ off)
  | _ => false

/-! ### Ring registers -/

/-- `KILN_MAP` at reset: wavelength `l` on ring `l` (R275). -/
def rmapReset : BitVec 256 := BitVec.ofNat 256 (ofLanes 6 (List.range 32))

/-- The six-bit `RING` fields of a map. -/
def rmapRings (v : BitVec 256) : List Nat := lanesOf 6 32 v.toNat

/-- A map that R275 accepts: rings up to 35, none named twice. -/
def rmapOk (v : BitVec 256) : Bool := (rmapRings v).all (· ≤ 35) && decide (rmapRings v).Nodup

/-- How many bits of `WOFF` are set. -/
def onesIn (v : BitVec 32) : Nat := ((List.range 32).filter fun i => v.getLsbD i).length

/-- `KILN_CHST` as it reads (R275, R278). -/
def chstValue (c : Channel) : Nat :=
  (if c.woff = 0 then 0 else 1) + (32 - onesIn c.woffNow) * 2 ^ 8 + c.woff.toNat * 2 ^ 64

/-- Number of a bank of a die: `18 * channel + bank`, over all dies. -/
def bankIx (chan bank : Nat) : Nat := chan * 18 + bank

/-- `KILN_MON` of a ring: the photodiode as sampled last, 0 until its first sample (R275, log 18). -/
def kilnMon (s : State) (ring : Nat) : BitVec 10 := if s.mon = 0 then 0 else Config.monitor s.mon ring

/-- A byte of the kiln aperture (R276). -/
def kilnByte (s : State) (die off : Nat) : Byte :=
  let b0 := die * 128 * 18
  if off < 331776 then BitVec.ofNat 8 ((kilnMon s ((b0 + off / 144) * 36 + off % 144 / 4)).toNat / 256 ^ (off % 4))
  else if 0x80000 ≤ off ∧ off < 0x80000 + 331776 then
    let o := off - 0x80000
    BitVec.ofNat 8 ((smGetD s.heat ((b0 + o / 144) * 36 + o % 144 / 4) 2048).toNat / 256 ^ (o % 4))
  else if 0x100000 ≤ off ∧ off < 0x100000 + 73728 then
    let o := off - 0x100000
    BitVec.ofNat 8 ((smGetD s.rmap (b0 + o / 32) rmapReset).toNat / 256 ^ (o % 32))
  else if 0x120000 ≤ off ∧ off < 0x120000 + 2048 then
    let o := off - 0x120000
    BitVec.ofNat 8 (chstValue (getChan s (die * 128 + o / 16)) / 256 ^ (o % 16))
  else 0

/-! ### Bytes under keys -/

/-- Whether a slot is revoked. -/
def keyRevoked (s : State) (k : Nat) : Bool := (getKey s k).revoked

/-- The pair that a data unit stands under: that of its last write, else the pair of its frame's first writer; none before that
writer, when every slot reads zeros (R312). -/
def unitPair (s : State) (unit : Nat) : Option (BitVec 512) :=
  match smGet s.tags unit with
  | some p => some p
  | none => smGet s.ftags (unit / 1024)

/-- A byte of memory as read under a key slot, or as it stands when no key applies (R312, R313): `State.mem` holds plaintext, and
a unit that stands under another pair is its ciphertext decrypted under the slot's pair. -/
def byteUnder (s : State) (key : Option Nat) (pa : Nat) : Byte :=
  match paKind pa with
  | .kiln die off => kilnByte s die off
  | _ =>
    match key, unitPair s (pa / 64) with
    | some k, some p =>
      if p = (getKey s k).pair then mRead s.mem pa
      else (recode p (getKey s k).pair (pa / 64) (mReadN s.mem (pa / 64 * 64) 64)).getD (pa % 64) 0
    | _, _ => mRead s.mem pa

/-- `n` bytes as read under a key slot. -/
def bytesUnder (s : State) (key : Option Nat) (pa : Nat) : Nat → List Byte
  | 0 => []
  | n + 1 => byteUnder s key pa :: bytesUnder s key (pa + 1) n

/-- Whether one of `n` bytes lies in a poisoned sector (R306). -/
def poisoned (s : State) (pa n : Nat) : Bool := s.poison.any fun u => decide (u * 64 < pa + n ∧ pa < u * 64 + 64)

/-- A read at the home (R227, R314): the bytes, or reason 0x0C or 0x0D. -/
def physRead (s : State) (key : Option Nat) (pa n : Nat) : Except Nat (List Byte) :=
  if (key.map (keyRevoked s)).getD false then .error 0x0C
  else if poisoned s pa n then .error 0x0D
  else .ok (bytesUnder s key pa n)

/-- A unit that a slot writes: the frame's first writer names the pair of the whole frame; a unit under another pair is merged
with its bytes as they read now (R312, R313). -/
def retag (s : State) (k unit : Nat) : State :=
  let pair := (getKey s k).pair
  match unitPair s unit with
  | none => { s with ftags := smPut s.ftags (unit / 1024) pair }
  | some p =>
    if p = pair then s
    else { s with mem := mWriteN s.mem (unit * 64) (bytesUnder s (some k) (unit * 64) 64), tags := smPut s.tags unit pair }

/-- A write at the home of bytes within one unit, under a key slot (R312); `whole` says that the request has now written the
whole sector, which clears its poison (R306). -/
def physWrite (s : State) (key : Option Nat) (pa : Nat) (bs : List Byte) (whole : Bool) : State :=
  let s1 := match key with
    | some k => retag s k (pa / 64)
    | none => s
  { s1 with mem := mWriteN s1.mem pa bs, poison := if whole then s1.poison.filter (· ≠ pa / 64) else s1.poison }

/-- A write of any length, cut where an aligned unit of 64 bytes ends. -/
def physWritesN : Nat → State → Option Nat → Nat → List Byte → State
  | 0, s, _, _, _ => s
  | fuel + 1, s, key, pa, bs =>
    if bs = [] then s
    else
      let n := 64 - pa % 64
      physWritesN fuel (physWrite s key pa (bs.take n) false) key (pa + n) (bs.drop n)
def physWrites (s : State) (key : Option Nat) (pa : Nat) (bs : List Byte) : State :=
  physWritesN (bs.length / 64 + 2) s key pa bs

/-- Sectors that a write of `n` bytes covers whole lose their poison (R306). -/
def unpoison (pa n : Nat) (s : State) : State :=
  { s with poison := s.poison.filter fun u => !(decide (pa ≤ u * 64) && decide (u * 64 + 64 ≤ pa + n)) }

/-- A write of any length by one request. -/
def physWriteN (s : State) (key : Option Nat) (pa : Nat) (bs : List Byte) : State :=
  unpoison pa bs.length (physWrites s key pa bs)

/-- A sparse map with the entries at [lo, lo + n) replaced by others of that range. -/
def splice {α : Type} (m : SMap α) (lo n : Nat) (new : SMap α) : SMap α :=
  (m.filter fun c => decide (c.1 < lo)) ++ new ++ m.filter fun c => decide (lo + n ≤ c.1)

/-- A write of `n` bytes, whole data units within one frame, under a slot: those of `new` and zeros. -/
def physRange (s : State) (k pa n : Nat) (new : SMap Byte) : State :=
  let pair := (getKey s k).pair
  let frame := (smGet s.ftags (pa / 65536)).getD pair
  unpoison pa n
    { s with mem := splice s.mem pa n (cellsIn pa n new), ftags := smPut s.ftags (pa / 65536) frame,
             tags := splice s.tags (pa / 64) (n / 64)
               (if frame = pair then [] else (List.range (n / 64)).map fun i => (pa / 64 + i, pair)) }

/-- The bytes of [pa, pa + n) that are not 0, as read under a slot. -/
def rangeUnder (s : State) (k pa n : Nat) : SMap Byte :=
  if (List.range (n / 64)).all fun i => (unitPair s (pa / 64 + i)).all (· == (getKey s k).pair) then
    s.mem.filter fun c => decide (pa ≤ c.1) && decide (c.1 < pa + n)
  else ((bytesUnder s (some k) pa n).zipIdx.map fun b => (pa + b.2, b.1)).filter fun c => c.2 != 0

/-! ### Rings of records -/

/-- `HEAD` − `TAIL` of a ring, modulo 2^32 (R309, R315). -/
def ringFill (head tail : Nat) : Nat := (head + 2 ^ 32 - tail) % 2 ^ 32

/-- Appends an event record (R250, R315) to a partition's ring. -/
def eventRecord (p code region : Nat) (frame value : Nat) (s : State) : State :=
  let x := getPart s p
  if ringFill x.evHead x.evTail = 2048 then setPart s p { x with evLost := (x.evLost + 1) % 2 ^ 32 }
  else
    let v := code + region % 8 * 2 ^ 8 + region / 8 * 2 ^ 11 + p * 2 ^ 16 + frame % 2 ^ 64 * 2 ^ 64
      + s.tick % 2 ^ 64 * 2 ^ 128 + value % 2 ^ 64 * 2 ^ 192
    setPart (physWriteN s none (partEvRing x + x.evHead % 2048 * 32) (leBytes 32 v)) p
      { x with evHead := (x.evHead + 1) % 2 ^ 32 }

/-- Appends an error record (R315). -/
def errorRecord (p kind : Nat) (cause orig engine reason core paddr : Nat) (va : Option Nat) (s : State) : State :=
  let x := getPart s p
  if ringFill x.erHead x.erTail = 1024 then setPart s p { x with erLost := (x.erLost + 1) % 2 ^ 32 }
  else
    let v := kind + cause * 2 ^ 8 + orig * 2 ^ 16 + engine * 2 ^ 24 + reason * 2 ^ 32 + core * 2 ^ 40 + paddr * 2 ^ 64
      + va.getD 0 % 2 ^ 55 * 2 ^ 128 + (if va.isSome then 2 ^ 191 else 0) + s.tick % 2 ^ 64 * 2 ^ 192
      + x.cecnt % 2 ^ 32 * 2 ^ 256
    setPart (physWriteN s none (partErRing x + x.erHead % 1024 * 64) (leBytes 64 v)) p
      { x with erHead := (x.erHead + 1) % 2 ^ 32 }

/-! ### Packets of the crossbar -/

/-- Lines of 256 bytes that `n` ≥ 1 bytes touch. -/
def linesOf (va n : Nat) : Nat := (va + n - 1) / 256 - va / 256 + 1

/-- Slices of a partition on a die, in ascending order (R304, R308). -/
def partSlices (p : Part) (die : Nat) : List Nat := (List.range 64).filter fun k => partHasQuad p die (k / 4)

/-- The home slice of a line: die and slice (R296, R304). -/
def homeSlice (s : State) (part pa : Nat) : Option (Nat × Nat) :=
  match paKind pa with
  | .slice die k _ => some (die, k)
  | .hbm st _ =>
    let l := partSlices (getPart s part) (st / 3)
    (l[pa / 256 % l.length]?).map fun k => (st / 3, k)
  | _ => none

/-- The partition that holds the group of an HBM address, where its slices have a cache part (R304). -/
def cachedFor (s : State) (pa : Nat) : Option Nat :=
  match paKind pa with
  | .hbm st g => (s.parts.find? fun p => partHasGroup p.2 st g && decide (partSlsplit p.2 < 4)).map (·.1)
  | _ => none

/-- Whether a unit may stand in a slice cache under a key slot. -/
def cachedUnder (s : State) (k unit : Nat) : Bool :=
  (cachedFor s (64 * unit)).isSome && unitPair s unit == some (getKey s k).pair

/-- Whether a unit may stand in the cache part of one of some quads, on behalf of a partition. -/
def cachedIn (s : State) (p quads unit : Nat) : Bool :=
  cachedFor s (64 * unit) == some p &&
  (match homeSlice s p (64 * unit) with
   | some (die, k) => quads.testBit (16 * die + k / 4)
   | none => false)

/-- Lines dropped from the slice caches without write-back, among the units that `f` allows. Which of them were dirty, and what HBM holds
of those, no rule gives: both are free (R311, R314, log 60). -/
def dropCached (f : Nat → Bool) (s : State) : State :=
  { s with mem := ((Config.lostUnits s.sched.choice).filter fun u => f u.1).foldl
             (fun m u => mWriteN m (64 * u.1) (leBytes 64 u.2.toNat)) s.mem,
           sched := { s.sched with choice := s.sched.choice + 1 } }

/-- A packet made ready on a channel, once for a request, line and site (R266). -/
def postPacket (s : State) (chan : Nat) (p : Packet) : State :=
  let c := getChan s chan
  if c.ready.contains p then s else setChan s chan { c with ready := c.ready ++ [p] }

/-- The packets of a line that an engine reads or writes for itself, class 1 (R268): code, metadata, table entries, trap records,
contexts. `req` and `line` name them. -/
def postOwn (s : State) (core part req line pa : Nat) : State :=
  match homeSlice s part pa with
  | none => s
  | some (die, k) =>
    let p : Packet := { site := if die = core / 256 then core / 16 % 16 else 16, cls := 1, part := part, req := req, line := line,
                        own := true }
    postPacket (postPacket s (128 * die + k) p) (128 * (core / 256) + 64 + 4 * (core / 16 % 16) + pa / 256 % 4)
      { p with site := if die = core / 256 then k / 4 else 16 }

/-- The packets of `n` bytes of a core, within one page, at a virtual and a physical address. -/
def postOwnN (s : State) (core part va pa n : Nat) : State :=
  (List.range (linesOf pa n)).foldl (fun s i => postOwn s core part core (va / 256 + i) (pa / 256 * 256 + 256 * i)) s

/-- Whether a packet of an engine's own traffic still waits for its slot (R265, R266). -/
def ownWaits (s : State) (req : Nat) (f : Nat → Bool) : Bool :=
  s.chans.any fun c => c.2.ready.any fun p => p.own && p.req == req && f p.line

/-- The packets of a core's own traffic are sent. -/
def flushOwn (core : Nat) (s : State) : State :=
  { s with chans := s.chans.map fun c => (c.1, { c.2 with ready := c.2.ready.filter fun p => !p.own || p.req != core }) }

end Sys2Proof.Machine
end

