-- ==== Sys2Proof/Machine/Translate.lean ====
section
/-! DEFINITION. Translation (spec/12 R214 to R221): table entries, the walk, the checks of R217 and the TLB of a cluster. -/

namespace Sys2Proof.Machine

/-- Fields of a table entry (R216). -/
def entV (e : Nat) : Bool := bits e 0 1 == 1
def entLF (e : Nat) : Bool := bits e 1 1 == 1
def entMask (e : Nat) : Nat := bits e 2 8
def entLcls (e : Nat) : Nat := bits e 10 2
def entKey (e : Nat) : Nat := bits e 12 8
def entPin (e : Nat) : Bool := bits e 20 1 == 1
def entPfn (e : Nat) : Nat := bits e 22 32

/-- Bytes that a leaf of a level maps (R214). -/
def leafSize : Nat → Nat
  | 0 => 2 ^ 42
  | 1 => 2 ^ 29
  | _ => 2 ^ 16

/-- Index of an address into the table of a level (R214). -/
def tableIx (va lvl : Nat) : Nat := va / leafSize lvl % 2 ^ 13

/-- The checks of R217 on an entry alone, in order: the reason of the first failure. -/
def entCheck (lvl e : Nat) : Option Nat :=
  if !entV e then some (1 + lvl)
  else if bits e 21 1 ≠ 0 ∨ bits e 54 10 ≠ 0 ∨ (!entLF e ∧ (bits e 2 19 ≠ 0 ∨ lvl = 2)) then some 5
  else if !entLF e then none
  else if (lvl = 0 ∧ bits (entPfn e) 0 26 ≠ 0) ∨ (lvl = 1 ∧ bits (entPfn e) 0 13 ≠ 0) then some 6
  else if entLcls e = 3 then some 7
  else none

/-- The physical address that a leaf gives. -/
def leafPa (lvl e va : Nat) : Nat := entPfn e * 2 ^ 16 + va % leafSize lvl

/-- The checks of R217 on a leaf against the partition and the request (R302, R304, R308): reasons 0x08 to 0x0B. Of a leaf at level 0 or 1
only the 64 KiB frame of the access is checked: R217 does not say whether every frame of the leaf must pass (DESIGN CHOICE, log 58). -/
def leafCheck (s : State) (p bit lvl e va : Nat) : Option Nat :=
  let x := getPart s p
  let k := paKind (leafPa lvl e va)
  let isSlice := match k with | .slice _ _ _ => true | _ => false
  let isHbm := match k with | .hbm _ _ => true | _ => false
  if entLcls e = 0 ∧ !(isSlice && partOwnsPa p x k) then some 8
  else if entLcls e = 1 ∧ !isHbm then some 8
  else if entLcls e ≤ 1 ∧ !entPin e then some 8
  else if partCachePa x k then some 8
  else if !partOwnsPa p x k then some 9
  else if !partHasKey x (entKey e) then some 10
  else if !(entMask e).testBit bit then some 11
  else none

/-- The cause of a reason (R217). -/
def reasonCause (r : Nat) : Cause :=
  if r ≤ 8 then .xlate else if r ≤ 11 then .perm else if r = 12 then .keyrev else .dataerr

/-- The cause of a reason on a code or metadata fetch (R217, R232). -/
def reasonFetch (r : Nat) : Cause := if r ≤ 12 then .fetch else .dataerr

/-- The walk of R215 through the levels left: the leaf with its level, or the reason it ends. -/
def walk (s : State) (va : Nat) : List Nat → Nat → Except Nat (Nat × Nat)
  | [], _ => .error 5
  | lvl :: ls, base =>
    let a := base + 8 * tableIx va lvl
    if poisoned s a 8 then .error 14
    else
      let e := leNat (mReadN s.mem a 8)
      match entCheck lvl e with
      | some r => .error r
      | none => if entLF e then .ok (lvl, e) else walk s va ls (entPfn e * 2 ^ 16)

/-- A walk for a request: the leaf, once it passes every check of R217. -/
def walkFor (s : State) (p bit va : Nat) : Except Nat (Nat × Nat) :=
  match walk s va [0, 1, 2] (partRoot (getPart s p)) with
  | .error r => .error r
  | .ok (lvl, e) =>
    match leafCheck s p bit lvl e va with
    | some r => .error r
    | none => .ok (lvl, e)

/-- An engine. -/
def getTwe (s : State) (cl : Nat) : Twe := smGetD s.twes cl {}

/-- Changes an engine. -/
def setTwe (s : State) (cl : Nat) (t : Twe) : State := { s with twes := smPut s.twes cl t }

/-- Whether a cached leaf maps an address of a partition. -/
def leafHits (p va : Nat) (l : Leaf) : Bool := l.part == p && decide (l.va ≤ va) && decide (va < l.va + leafSize l.lvl)

/-- Puts a leaf at the front; when more than 2,048 are held, the least recently used one that is not resident goes, and a
resident one never does (R220). -/
def tlbPut (l : Leaf) (ls : List Leaf) : List Leaf :=
  let all := l :: ls.filter fun m => !(m.part == l.part && m.va == l.va && m.lvl == l.lvl)
  if all.length ≤ 2048 then all
  else
    match (all.reverse.find? fun m => !entPin m.e.toNat) with
    | some v => all.filter (· ≠ v)
    | none => ls

/-- A leaf as it stands in the TLB. -/
def mkLeaf (p va lvl e : Nat) : Leaf := ⟨p, va - va % leafSize lvl, lvl, BitVec.ofNat 64 e⟩

/-- Where a translated access goes (R216, R219). -/
structure Xlat where
  pa   : Nat
  key  : Nat
  lcls : Nat
  pin  : Bool
  deriving DecidableEq, Repr

/-- The result of a leaf for an address. -/
def xlatOf (lvl e va : Nat) : Xlat := ⟨leafPa lvl e va, entKey e, entLcls e, entPin e⟩

/-- The cached leaf for an address, if any. -/
def tlbFind (s : State) (cl p va : Nat) : Option Leaf := (getTwe s cl).tlb.find? (leafHits p va)

/-- The table entries that a walk reads, by physical address (R215). -/
def walkReads (s : State) (va : Nat) : List Nat → Nat → List Nat
  | [], _ => []
  | lvl :: ls, base =>
    let a := base + 8 * tableIx va lvl
    let e := leNat (mReadN s.mem a 8)
    a :: (if poisoned s a 8 || (entCheck lvl e).isSome || entLF e then [] else walkReads s va ls (entPfn e * 2 ^ 16))

/-- The packets of a cluster's walk for a partition (R264, R268). -/
def postWalk (cl p va : Nat) (s : State) : State :=
  (walkReads s va [0, 1, 2] (partRoot (getPart s p))).foldl (fun s a => postOwn s (16 * cl) p 1024 (a / 256) a) s

/-- A walk whose leaf is cached; an entry that fails is never cached (R221). -/
def walkFill (s0 : State) (cl p bit va : Nat) : State × Except Nat Xlat :=
  let s := postWalk cl p va s0
  match walkFor s p bit va with
  | .error r => (s, .error r)
  | .ok (lvl, e) =>
    (setTwe s cl { getTwe s cl with tlb := tlbPut (mkLeaf p va lvl e) (getTwe s cl).tlb }, .ok (xlatOf lvl e va))

/-- Translation for a request (R217, R220, R221): address range first, then the cached leaf, which a denial under reason
0x0B walks again, else a walk. -/
def translate (s : State) (cl p bit va : Nat) : State × Except Nat Xlat :=
  if 2 ^ 55 ≤ va then (s, .error 4)
  else
    match tlbFind s cl p va with
    | none => walkFill s cl p bit va
    | some l =>
      match leafCheck s p bit l.lvl l.e.toNat va with
      | none => (setTwe s cl { getTwe s cl with tlb := tlbPut l (getTwe s cl).tlb }, .ok (xlatOf l.lvl l.e.toNat va))
      | some r => if r = 11 then walkFill s cl p bit va else (s, .error r)

/-- The latency class of an address as the engine finds it at issue, without changing anything (R196). -/
def classOf (s : State) (cl p bit va : Nat) : Option Xlat :=
  match (translate s cl p bit va).2 with
  | .ok x => some x
  | .error _ => none

/-- The physical address of an address, whatever the access: by the cached leaf, else by a walk. -/
def paOf (s : State) (cl p va : Nat) : Option Nat :=
  match tlbFind s cl p va with
  | some l => some (leafPa l.lvl l.e.toNat va)
  | none =>
    match walk s va [0, 1, 2] (partRoot (getPart s p)) with
    | .ok (lvl, e) => some (leafPa lvl e va)
    | .error _ => none

/-- The sector of the table entry at which a walk meets bad data (R217, R227, R306). -/
def walkSector (s : State) (va : Nat) : List Nat → Nat → Nat
  | [], _ => 0
  | lvl :: ls, base =>
    let a := base + 8 * tableIx va lvl
    if poisoned s a 8 then a / 64 * 64
    else
      let e := leNat (mReadN s.mem a 8)
      match entCheck lvl e with
      | some _ => 0
      | none => if entLF e then 0 else walkSector s va ls (entPfn e * 2 ^ 16)

/-- The physical sector of a data error at an address, for its record (R315). -/
def errSector (s : State) (cl p bit reason va : Nat) : Nat :=
  if reason = 14 then walkSector s va [0, 1, 2] (partRoot (getPart s p))
  else
    match classOf s cl p bit va with
    | some x => (s.poison.find? fun u => decide (x.pa / 256 * 4 ≤ u ∧ u < x.pa / 256 * 4 + 4)).elim (x.pa / 64 * 64) (64 * ·)
    | none => 0

/-- Of so many lines from an address on, in one page, the address of the first that holds bad data (R227, R232). -/
def badLineVa (s : State) (cl p va lines : Nat) : Nat :=
  match classOf s cl p 0 va with
  | some x => va + 256 * ((List.range lines).find? fun i => poisoned s (x.pa + 256 * i) 256).getD 0
  | none => va

end Sys2Proof.Machine
end

