-- ==== Sys2Proof/Machine/Ops.lean ====
section
/-! DEFINITION. The named operations over the state: cores and regions, the scratchpad (spec/04 R75), taking a stop and
returning from one (spec/09 R169 to R174, spec/12 R224 to R228), and how an instruction of a slot runs. -/

namespace Sys2Proof.Machine

/-- Outcomes of a row. -/
abbrev Out := Host.Outcome State Fault Refusal

/-- A core. -/
def getCore (s : State) (c : Nat) : Core := smGetD s.cores c {}

/-- Changes a core. -/
def setCore (s : State) (c : Nat) (k : Core) : State := { s with cores := smPut s.cores c k }

/-- The core whose row is in issue. -/
def cur (s : State) : Core := getCore s s.sched.cur

/-- Changes the core whose row is in issue. -/
def setCur (s : State) (k : Core) : State := setCore s s.sched.cur k

/-- The context of the core in issue. -/
def curCtx (s : State) : Ctx := (cur s).ctx

/-- Changes that context. -/
def setCtx (s : State) (c : Ctx) : State := setCur s { cur s with ctx := c }

/-- Puts rows in front of what is still to do. -/
def due (es : List Event) (s : State) : State :=
  { s with sched := { s.sched with tasks := es.map Task.ev ++ s.sched.tasks } }

/-- A region. -/
def getRegion (s : State) (r : Nat) : Region := smGetD s.regions r {}

/-- Changes a region. -/
def setRegion (s : State) (r : Nat) (x : Region) : State := { s with regions := smPut s.regions r x }

/-- The number of a core's region; a cluster with none has the number of its die's region 0. -/
def regionOf (s : State) (c : Nat) : Nat := smGetD s.clusterRegion (c / 16) (c / 256 * 8)

/-- The region of a core. -/
def coreRegion (s : State) (c : Nat) : Region := getRegion s (regionOf s c)

/-- The region tick (R87). -/
def regTick (r : Region) : Nat := (r.frame * r.m + r.cyf) % 2 ^ 64

/-- The region tick of a core. -/
def coreTick (s : State) (c : Nat) : Nat := regTick (coreRegion s c)

/-- The partition of what runs on a core: that of its block, and partition 0 for a kernel context without one (log 13). -/
def corePart (s : State) (c : Nat) : Nat := ((getCore s c).blk.map (·.part)).getD 0

/-- Kernel privilege (R90, log 13). -/
def coreKern (k : Core) : Bool := k.ctx.kern

/-- Conductor privilege (R287). -/
def coreConductor (k : Core) : Bool := (k.blk.map (·.conductor)).getD false

/-- `REGION_ID` (R37). -/
def regionId (s : State) (c : Nat) : Nat :=
  regionOf s c % 8 + c / 256 % 4 * 2 ^ 8 + corePart s c % 16 * 2 ^ 16

/-- The partition that owns a core's cluster (R309). -/
def ownerPart (s : State) (c : Nat) : Option Nat := (s.parts.find? fun x => partHasCluster x.2 (c / 16)).map (·.1)

/-- Whether a core's partition is under debug (R234, R240): `DBGHOLD` is 1 in the core, or in another of the partition. -/
def partDebug (s : State) (c : Nat) : Bool :=
  (getCore s c).dbghold || s.cores.any fun x => x.2.dbghold && (ownerPart s x.1).isSome && ownerPart s x.1 == ownerPart s c

/-- An instance. -/
def getInst (s : State) (n : Nat) : Inst := smGetD s.insts n {}

/-- An `NPC` register as a 34-bit value (R37). -/
def npcBits (n : Npc) : Nat := n.target.toNat + (if n.annul then 2 ^ 32 else 0) + (if n.valid then 2 ^ 33 else 0)

/-- An `NPC` register from its low 34 bits (R36, R37). -/
def npcOf (v : Nat) : Npc := ⟨BitVec.ofNat 32 v, v.testBit 32, v.testBit 33⟩

/-- Cause codes (R226). -/
def causeCode : Cause → Nat
  | .none => 0 | .invcu => 0x01 | .badtpl => 0x02 | .bundle => 0x03 | .groupdep => 0x04 | .badopc => 0x05
  | .badopnd => 0x06 | .badfld => 0x07 | .priv => 0x08 | .fetch => 0x10 | .xlate => 0x11 | .perm => 0x12 | .keyrev => 0x13
  | .promise => 0x14 | .timing => 0x15 | .oslot => 0x16 | .barovf => 0x17 | .mcastpart => 0x18 | .svc => 0x20
  | .yieldsvc => 0x21 | .deadline => 0x22 | .preempt => 0x23 | .debug => 0x24 | .swtrap => 0x25 | .inflight => 0x26
  | .xport => 0x27 | .rdcerr => 0x28 | .dataerr => 0x30 | .double => 0x31

/-! ### Words that cannot be corrected (R307) -/

/-- Whether one of `n` bytes of a core's memory from an address lies in a word that cannot be corrected. -/
def sramBad (k : Core) (m : Sram) (lo n : Nat) : Bool :=
  k.badWords.any fun w => w.1 == m && decide (w.2 * 8 < lo + n ∧ lo < w.2 * 8 + 8)

/-- A write of `n` bytes: a word that it covers is good again. -/
def sramGood (m : Sram) (lo n : Nat) (k : Core) : Core :=
  { k with badWords := k.badWords.filter fun w => !(w.1 == m && decide (lo ≤ w.2 * 8) && decide (w.2 * 8 + 8 ≤ lo + n)) }

/-- The stop of a reader of a bad word, with the engine of its port; the address only for the scratchpad. -/
def sramStop (engine slotMask : Nat) (va : Option Nat) : Stop :=
  { cause := .dataerr, smask := slotMask, engine := engine, reason := 13, va := va }

/-! ### The scratchpad -/

/-- The first address past the scratchpad (R75). -/
def spadTop : Nat := 0x40000

/-- Whether `n` bytes from an address stay in the scratchpad; an access never wraps (R75). -/
def spadOk (ea n : Nat) : Bool := decide (ea + n ≤ spadTop)

/-- Whether one of `n` bytes lies in a word that cannot be corrected (R307). -/
def spadBad (k : Core) (ea n : Nat) : Bool := sramBad k .spad ea n

/-- Writes bytes of a scratchpad; a word wholly covered is good again (R307). -/
def spadWrite (k : Core) (ea : Nat) (bs : List Byte) : Core :=
  sramGood .spad ea bs.length { k with spad := mWriteN k.spad ea bs }

/-- Where a handler's data window stands in the service stores (R233). -/
def windowAt (c : Nat) : Nat := 65536 * (c / 16) + 0xC000 + 0x400 * (c % 16)

/-- Whether `n` bytes from an address stay in what a core's loads and stores address: the scratchpad, or the data window
while a handler runs (R75, R235). -/
def viewOk (k : Core) (ea n : Nat) : Bool := if k.svc.isSome then decide (ea + n ≤ 0x400) else spadOk ea n

/-- Bytes that a core's load reads: scratchpad or data window. -/
def viewRead (s : State) (c ea n : Nat) : List Byte :=
  let k := getCore s c
  if k.svc.isSome then mReadN s.store (windowAt c + ea) n else mReadN k.spad ea n

/-- Bytes that a core's store writes: scratchpad or data window. -/
def viewWrite (s : State) (c ea : Nat) (bs : List Byte) : State :=
  let k := getCore s c
  if k.svc.isSome then { s with store := mWriteN s.store (windowAt c + ea) bs } else setCore s c (spadWrite k ea bs)

/-- The stop of an access by a port: range first, then, for a read, data (R75, R307). -/
def viewStop (k : Core) (engine slotMask ea n : Nat) (rd : Bool) : Option Stop :=
  if !viewOk k ea n then some { cause := .xlate, smask := slotMask, engine := engine, reason := 4, va := some ea }
  else if rd && k.svc.isNone && spadBad k ea n then some (sramStop engine slotMask (some ea))
  else none

/-! ### The code at `PC` -/

/-- A unit of code that cannot be read: its line is absent from the buffer, or has failed; it lies in a word of the buffer that
cannot be corrected; a handler's PC lies outside the store. -/
inductive Miss where
  | absent (line : Nat)
  | failed (addr : Nat) (cause : Cause) (reason : Nat)
  | rotten
  | outside
  deriving DecidableEq, Repr

/-- A code unit by its byte address, from the code stream buffer (R231), or from the service store (R233, R235). -/
def codeUnit (s : State) (c addr : Nat) : Except Miss Unit16 :=
  let k := getCore s c
  if k.svc.isSome then
    if addr + 2 ≤ 0xC000 then .ok (BitVec.ofNat 16 (leNat (mReadN s.store (65536 * (c / 16) + addr) 2))) else .error .outside
  else
    match smGet k.code (addr / 256) with
    | none => .error (.absent (addr / 256))
    | some (.bad cause reason) => .error (.failed addr cause reason)
    | some (.bytes bs) =>
      if sramBad k .code addr 2 then .error .rotten
      else .ok (BitVec.ofNat 16 ((bs.getD (addr % 256) 0).toNat + (bs.getD (addr % 256 + 1) 0).toNat * 2 ^ 8))

/-- Code units from a byte address. -/
def codeUnits (s : State) (c addr : Nat) : Nat → Except Miss (List Unit16)
  | 0 => .ok []
  | n + 1 =>
    match codeUnit s c addr with
    | .error m => .error m
    | .ok u =>
      match codeUnits s c (addr + 2) n with
      | .error m => .error m
      | .ok us => .ok (u :: us)

/-- Where a core's code stands (R229, R235). -/
def pcAddr (k : Core) : Nat := (if k.svc.isSome then 0 else k.codeBase) + 2 * k.ctx.pc.toNat

/-- Template word and slot words of a dictionary entry (R45). -/
def dictTpl (k : Core) (idx : Nat) : Unit16 := BitVec.ofNat 16 (leNat (mReadN k.dict (50 * idx) 2))
def dictWords (k : Core) (idx : Nat) : List (Nat × Word) :=
  ((List.range 6).filter fun i => (dictTpl k idx).toNat.testBit i).map fun i =>
    (i, BitVec.ofNat 64 (leNat (mReadN k.dict (50 * idx + 2 + 8 * i) 8)))

/-- Whether the template of a dictionary entry, or also one of its slot words, lies in a word that cannot be corrected. -/
def dictBad (k : Core) (idx : Nat) (words : Bool) : Bool :=
  sramBad k .dict (50 * idx) 2 || (words && (List.range 6).any fun i =>
    (dictTpl k idx).toNat.testBit i && sramBad k .dict (50 * idx + 2 + 8 * i) 8)

/-- The template word of the bundle at `PC`, once it can be read, whatever follows it. -/
def tplAt (s : State) (c : Nat) : Option Unit16 :=
  let k := getCore s c
  match codeUnit s c (pcAddr k) with
  | .error _ => none
  | .ok u =>
    match unitKind u with
    | .dict idx => if dictBad k idx false then none else some (dictTpl k idx)
    | .escape => (codeUnit s c (pcAddr k + 2)).toOption
    | _ => none

/-- Marks of a template (R42). -/
def tplStop (tpl : Unit16) : Bool := tpl.getLsbD 6
def tplYield (tpl : Unit16) : Bool := tpl.getLsbD 7

/-- Whether the bundle at `PC` has `YIELD` set (R42). The mark of a template word that R43 rejects counts as well (log 54). -/
def yieldHere (s : State) (c : Nat) : Bool := (tplAt s c).any tplYield

/-! ### Stops -/

/-- The handle of an object by its key (R280): keys are `((level * 16 + partition) * 4 + die) * 64 + number`. -/
def objHandle (key gen : Nat) : Nat :=
  let lvl := key / 4096
  let num := key % 64
  (if lvl = 4 then num else num + key / 64 % 4 * 2 ^ 8) + lvl * 2 ^ 10 + gen % 2 ^ 16 * 2 ^ 16

/-- An object. -/
def getObj (s : State) (key : Nat) : Obj := smGetD s.objs key {}

/-- Changes an object. -/
def setObj (s : State) (key : Nat) (o : Obj) : State := { s with objs := smPut s.objs key o }

/-- The launch handle of a core's block, 0 when it has none. -/
def blkLaunch (s : State) (k : Core) : Nat :=
  match k.blk.bind (·.launch) with
  | some key => objHandle key (getObj s key).gen
  | none => 0

/-- The double fault of R228 and the kill path of R294: the core is fenced, the error record with the reason of the failed
access and the `WDFENCE` record are written, and the unit is due to be counted. -/
def doubleFault (c : Nat) (orig : Cause) (engine reason : Nat) (va : Option Nat) (s : State) : State :=
  let k := getCore s c
  let p := corePart s c
  let s1 := setCore s c { k with run := .fenced, ctx := (k.svc.map (·.host)).getD k.ctx, svc := none, faults := [],
                                 pendPre := false, pendDbg := false, saveDue := false }
  let s2 := errorRecord p 2 0x31 (causeCode orig) engine reason c 0 va s1
  let r := coreRegion s c
  due [.unitCount c] (eventRecord p 0x47 (regionOf s c) r.frame (blkLaunch s k + c * 2 ^ 32) s2)

/-- The trap record (R224). `VA` keeps the low 55 bits of an address that is wider (log 54). -/
def trapRecord (s : State) (c : Nat) (x : Ctx) (e : Stop) : Nat :=
  let r := coreRegion s c
  causeCode e.cause + e.smask % 64 * 2 ^ 8 + e.engine * 2 ^ 16 + e.reason * 2 ^ 24 + x.pc.toNat * 2 ^ 32
    + npcBits x.npc1 * 2 ^ 64 + npcBits x.npc2 * 2 ^ 128 + e.va.getD 0 % 2 ^ 55 * 2 ^ 192
    + (if e.va.isSome then 2 ^ 255 else 0) + r.frame % 2 ^ 64 * 2 ^ 256 + r.cyf % 2 ^ 24 * 2 ^ 320 + c * 2 ^ 352
    + regionId s c * 2 ^ 368 + s.tick % 2 ^ 64 * 2 ^ 448 + x.rcount.toNat * 2 ^ 512

/-- `n` bytes written (bit 2) or read (bit 1) through a pinned page for a trap record or a context area (R228): the translated
address, or the reason the access fails, among them data that a read cannot correct (R217, R227). -/
def pinnedAt (s : State) (c bit va n : Nat) : State × Except Nat Xlat :=
  match translate s (c / 16) (corePart s c) bit va with
  | (s1, .error r) => (s1, .error r)
  | (s1, .ok x) =>
    (s1, if !x.pin then .error 8 else if keyRevoked s x.key then .error 12
         else if bit = 1 ∧ poisoned s x.pa n then .error 13 else .ok x)

/-- Writes the trap record of a stop at `TRAPREC`, or takes the double fault (R224, R228). The record stands before any handler runs
(R224), and a handler's cycles count from the stop (R236): its bytes perform at the stop, ahead of its packets. -/
def writeRecord (c : Nat) (e : Stop) (s : State) : State :=
  let k := getCore s c
  let x := { k.ctx with rcount := k.ctx.rcount + 1 }
  match pinnedAt s c 2 x.traprec.toNat 128 with
  | (s1, .error r) => doubleFault c e.cause 0x10 r (some x.traprec.toNat) s1
  | (s1, .ok t) =>
    postOwn (physWriteN (setCore s1 c { getCore s1 c with ctx := x }) (some t.key) t.pa (leBytes 128 (trapRecord s1 c x e)))
      c (corePart s1 c) c (x.traprec.toNat / 256) t.pa

/-- A core without the rows of its matrix engine that landed in the current cycle: the engine stops with the sequencer, and they
land with the resumed bundle (R171, R174). -/
def takeBackRows (k : Core) : Core :=
  match k.mxWas with
  | some (m, f) => { k with mx := m, ctx := { k.ctx with flags := f }, mxWas := none }
  | none => k

/-- Whether nothing of a core is in flight, a return address among it (R84): the latch bank of a stop stays empty. -/
def nothingInFlight (k : Core) : Bool :=
  k.ctx.inflight.isEmpty && k.ctx.latch.isEmpty && k.ctx.rets.isEmpty && k.mx.prods.isEmpty && k.mx.folds.isEmpty &&
    k.mx.scans.isEmpty

/-- Whether a cause is one of the two yields (R236, R237). -/
def isYield (cause : Cause) : Bool := cause == .yieldsvc || cause == .deadline

/-- The freeze of R171: the core stops, and results in flight go to the latch bank. At a yield bundle with an empty bank the
stop is complete in its own cycle (R177). -/
def freeze (c : Nat) (cause : Cause) (s : State) : State :=
  let k := takeBackRows (getCore s c)
  setCore s c { k with run := .held cause, ctx := freezeCtx k.ctx,
                       snapLeft := if nothingInFlight k && yieldHere s c then 0 else 24,
                       saveDue := cause == .preempt, saveAsked := false, dlHold := if isYield cause then false else k.dlHold }

/-- TAKING A STOP (R169, R171, R224): one operation for every cause. In a service handler every trap is a double fault (R235), with the
reason and the address that the trap has. Otherwise the core freezes before the bundle at `PC` and the record is written; bad data of the
core's own memory or of a code or metadata line is also recorded as an error (R227, R307). -/
def takeStop (c : Nat) (e : Stop) (s : State) : State :=
  if (getCore s c).svc.isSome then doubleFault c e.cause 0x01 e.reason e.va s
  else
    let s1 := writeRecord c e (freeze c e.cause s)
    if e.cause = .dataerr ∧ e.engine ≤ 5 then
      let pa := if e.engine ≤ 3 ∨ e.va.isNone then 0 else errSector s (c / 16) (corePart s c) 0 e.reason (e.va.getD 0)
      errorRecord (corePart s1 c) 1 0x30 0 e.engine e.reason c pa e.va s1
    else s1

/-- A stop that writes no record (R224): `YIELDSVC`, and `DEADLINE` when no handler runs. -/
def takeQuietStop (c : Nat) (cause : Cause) (s : State) : State := freeze c cause s

/-- Whether a code line has failed. -/
def lineBad : CodeLine → Bool
  | .bad _ _ => true
  | _ => false

/-- Lines or records that a resume keeps: neither failed (R232) nor with a word that cannot be corrected, which the next read
covers (R307). -/
def goodLines (k : Core) (m : Sram) (size : Nat) (ls : SMap CodeLine) : SMap CodeLine :=
  ls.filter fun l => !lineBad l.2 && !sramBad k m (size * l.1) size

/-- RETURNING FROM A STOP (R174): the latch bank replays, a new group begins, failed lines are read again (R232), and
`DEADLINE` is reloaded after a yield unless the kernel wrote it during the hold (R237). -/
def resumeCore (c : Nat) (s : State) : State :=
  let k := getCore s c
  let yielded := match k.run with | .held cause => isYield cause | _ => false
  setCore s c { k with
    run := .running, ctx := replayCtx k.ctx, snapLeft := 0, saveDue := false,
    code := goodLines k .code 256 k.code, metas := goodLines k .metas 1024 k.metas,
    deadline := if yielded && !k.dlHold then k.dlreload else k.deadline }

/-- The registers that a trap record gives back (R94): `PC`, `NPC1`, `NPC2` from its bytes. -/
def ctxFromRecord (x : Ctx) (rec : Nat) : Ctx :=
  { x with pc := BitVec.ofNat 32 (bits rec 32 32), npc1 := npcOf (bits rec 64 34), npc2 := npcOf (bits rec 128 34) }

/-! ### Instructions of a slot -/

/-- The slot of a scalar, vector, matrix or copy instruction in issue: the slot the bundle gives, or the class's first. -/
def slotV (s : State) : Nat := if s.sched.slot = 2 then 2 else 1
def slotC (s : State) : Nat := if s.sched.slot = 5 then 5 else 4

/-- What an instruction of a slot does: the next state, or the stop that keeps its bundle from committing. -/
abbrev Issue := State → Except Stop State

/-- An instruction that only changes the context and never stops. -/
def onCtx (f : Ctx → Ctx) : Issue := fun s => .ok (setCtx s (f (curCtx s)))

/-- An instruction that only changes its core. -/
def onCore (f : Core → Except Stop Core) : Issue := fun s =>
  match f (cur s) with
  | .ok k => .ok (setCur s k)
  | .error e => .error e

/-- The outcome of an instruction by itself: a stop is taken (R169). -/
def settle (s : State) (r : Except Stop State) : Out :=
  match r with
  | .ok t => .next t
  | .error e => .next (takeStop s.sched.cur e s)

end Sys2Proof.Machine
end

