-- ==== Sys2Proof/Machine/Scalar.lean ====
section
/-! DEFINITION. Scalar instructions (spec/04): arithmetic, logic, shifts, bit operations, selection, immediates, compares,
predicate logic, scratchpad loads and stores. -/

namespace Sys2Proof.Machine

/-! ### Shared forms -/

/-- Two scalar operands, one result (R62, R63). -/
def binS (lat : Nat) (f : Word → Word → Word × Flags) (g : Guard) (d : SDst) (a b : SOp) : Issue :=
  onCtx (issueS 0 lat g d (fun c => voidS c a || voidS c b) fun c => f (valS c a) (valS c b))

/-- One scalar operand, one result. -/
def unS (lat : Nat) (f : Word → Word × Flags) (g : Guard) (d : SDst) (a : SOp) : Issue :=
  onCtx (issueS 0 lat g d (fun c => voidS c a) fun c => f (valS c a))

/-- A result that raises no flag. -/
def plain (f : Word → Word → Word) (x y : Word) : Word × Flags := (f x y, 0)
def plain1 (f : Word → Word) (x : Word) : Word × Flags := (f x, 0)

/-- Bits [127:64] of the products (R65). -/
def mulhS (x y : Word) : Word := BitVec.ofInt 64 (sgn x * sgn y / 2 ^ 64)
def mulhU (x y : Word) : Word := BitVec.ofNat 64 (x.toNat * y.toNat / 2 ^ 64)

/-- The quotients and remainders of R66. -/
def divS (x y : Word) : Word := if y = 0 then BitVec.allOnes 64 else BitVec.ofInt 64 (Int.tdiv (sgn x) (sgn y))
def divU (x y : Word) : Word := if y = 0 then BitVec.allOnes 64 else BitVec.ofNat 64 (x.toNat / y.toNat)
def remS (x y : Word) : Word := if y = 0 then x else BitVec.ofInt 64 (sgn x - Int.tdiv (sgn x) (sgn y) * sgn y)
def remU (x y : Word) : Word := if y = 0 then x else BitVec.ofNat 64 (x.toNat - x.toNat / y.toNat * y.toNat)

/-- Minima and maxima (R65). -/
def minS (x y : Word) : Word := if sgn x ≤ sgn y then x else y
def maxS (x y : Word) : Word := if sgn x ≥ sgn y then x else y
def minU (x y : Word) : Word := if x.toNat ≤ y.toNat then x else y
def maxU (x y : Word) : Word := if x.toNat ≥ y.toNat then x else y

/-- |S(x)| (R65). -/
def absS (x : Word) : Word := BitVec.ofInt 64 (if sgn x < 0 then - sgn x else sgn x)

/-- Shifts by any amount (R68). -/
def shlN (x : Word) (n : Nat) : Word := if 64 ≤ n then 0 else x <<< n
def shrN (x : Word) (n : Nat) : Word := if 64 ≤ n then 0 else x >>> n
def sarN (x : Word) (n : Nat) : Word := x.sshiftRight (if n < 63 then n else 63)
def rotlN (x : Word) (n : Nat) : Word := (x <<< (n % 64)) ||| (x >>> (64 - n % 64))

/-- A shift in its register or immediate form (R68). -/
def shiftS (f : Word → Nat → Word) (g : Guard) (d : SDst) (a : SOp) : Amt → Issue
  | .reg b => binS 1 (plain fun x y => f x y.toNat) g d a b
  | .imm n => unS 1 (plain1 fun x => f x n.val) g d a

/-- Leading zeros of a number of `w` bits. -/
def clzN (w v : Nat) : Nat := if v = 0 then w else w - 1 - Nat.log2 v

/-- Trailing zeros, at most `w`. -/
def ctzN : Nat → Nat → Nat
  | 0, _ => 0
  | w + 1, v => if v % 2 = 1 then 0 else 1 + ctzN w (v / 2)

/-- One bits among the low `w`. -/
def popN : Nat → Nat → Nat
  | 0, _ => 0
  | w + 1, v => v % 2 + popN w (v / 2)

def clzS (x : Word) : Word := BitVec.ofNat 64 (clzN 64 x.toNat)
def ctzS (x : Word) : Word := BitVec.ofNat 64 (ctzN 64 x.toNat)
def popS (x : Word) : Word := BitVec.ofNat 64 (popN 64 x.toNat)

/-- Byte j to byte 7 − j (R69). -/
def bswapS (x : Word) : Word := BitVec.ofNat 64 (leNat (leBytes 8 x.toNat).reverse)

/-- `SignExt(x, n)` and `ZeroExt(x, n)` (R21, R69). -/
def sextS (n : Nat) (x : Word) : Word := BitVec.ofInt 64 (sInt n x.toNat)
def zextS (n : Nat) (x : Word) : Word := BitVec.ofNat 64 (x.toNat % 2 ^ n)

/-- Bit fields (R69). -/
def bfxS (pos w : Nat) (x : Word) : Word := BitVec.ofNat 64 (bits x.toNat pos w)
def bfiS (pos w : Nat) (x y : Word) : Word :=
  let m : Word := BitVec.ofNat 64 ((2 ^ w - 1) * 2 ^ pos)
  (x &&& ~~~m) ||| ((y <<< pos) &&& m)

/-- `IMM` above the low half of x (R70). -/
def lihS (imm : BitVec 32) (x : Word) : Word := BitVec.ofNat 64 (imm.toNat * 2 ^ 32 + x.toNat % 2 ^ 32)

/-- Compares (R72); `uo` belongs to floating point only. -/
def ccHolds (cc : CC) (x y : Word) : Bool :=
  match cc with
  | .eq => x == y
  | .ne => x != y
  | .lt => decide (sgn x < sgn y)
  | .le => decide (sgn x ≤ sgn y)
  | .gt => decide (sgn x > sgn y)
  | .ge => decide (sgn x ≥ sgn y)
  | .ltz => decide (x.toNat < y.toNat)
  | .lez => decide (x.toNat ≤ y.toNat)
  | .gtz => decide (x.toNat > y.toNat)
  | .gez => decide (x.toNat ≥ y.toNat)
  | .uo => false

/-- Predicate logic with inverted operands (R73). -/
def plogic (f : Bool → Bool → Bool) (g : Guard) (pd pa : Fin 16) (na : Bool) (pb : Fin 16) (nb : Bool) : Issue :=
  onCtx (issueP 1 g pd (fun c => voidP c pa || voidP c pb) fun c => f (valP c pa ^^ na) (valP c pb ^^ nb))

/-- The address of a load or store (R75). -/
def memEa (c : Ctx) (a : SOp) (disp : BitVec 20) : Nat := (valS c a + disp.signExtend 64).toNat

/-- A load of `n` bytes (R74, R75); the value is fixed at issue (R76). -/
def loadS (n : Nat) (signed : Bool) (g : Guard) (d : SDst) (a : SOp) (disp : BitVec 20) : Issue := fun s =>
  let c := curCtx s
  let ea := memEa c a disp
  let ext := fun v => if signed then BitVec.ofInt 64 (sInt (8 * n) v) else BitVec.ofNat 64 v
  match if guardOn c g then viewStop (cur s) 2 1 ea n true else none with
  | some e => .error e
  | none =>
    .ok (setCtx s (issueS 0 4 g d (fun c => voidS c a) (fun _ => (ext (leNat (viewRead s s.sched.cur ea n)), 0)) c))

/-- A store of the low `n` bytes of y (R74, R75). -/
def storeS (n : Nat) (g : Guard) (b a : SOp) (disp : BitVec 20) : Issue := fun s =>
  let c := curCtx s
  let ea := memEa c a disp
  if guardOn c g then
    match viewStop (cur s) 2 1 ea n false with
    | some e => .error e
    | none =>
      .ok (viewWrite (setCtx s (noteVoid c (voidP c g.p || voidS c a || voidS c b))) s.sched.cur ea
        (leBytes n (valS c b).toNat))
  else .ok (setCtx s (noteVoid c (voidP c g.p)))

/-! ### The instructions -/

/-- `add` (R65). -/
def issueAdd (g : Guard) (d : SDst) (a b : SOp) : Issue := binS 1 (plain fun x y => x + y) g d a b
def execAdd (g : Guard) (d : SDst) (a b : SOp) (s : State) : Out := settle s (issueAdd g d a b s)

/-- `sub` (R65). -/
def issueSub (g : Guard) (d : SDst) (a b : SOp) : Issue := binS 1 (plain fun x y => x - y) g d a b
def execSub (g : Guard) (d : SDst) (a b : SOp) (s : State) : Out := settle s (issueSub g d a b s)

/-- `neg` (R65). -/
def issueNeg (g : Guard) (d : SDst) (a : SOp) : Issue := unS 1 (plain1 fun x => 0 - x) g d a
def execNeg (g : Guard) (d : SDst) (a : SOp) (s : State) : Out := settle s (issueNeg g d a s)

/-- `mul` (R65). -/
def issueMul (g : Guard) (d : SDst) (a b : SOp) : Issue := binS 3 (plain fun x y => x * y) g d a b
def execMul (g : Guard) (d : SDst) (a b : SOp) (s : State) : Out := settle s (issueMul g d a b s)

/-- `mulh` (R65). -/
def issueMulh (g : Guard) (d : SDst) (a b : SOp) : Issue := binS 4 (plain mulhS) g d a b
def execMulh (g : Guard) (d : SDst) (a b : SOp) (s : State) : Out := settle s (issueMulh g d a b s)

/-- `mulhz` (R65). -/
def issueMulhz (g : Guard) (d : SDst) (a b : SOp) : Issue := binS 4 (plain mulhU) g d a b
def execMulhz (g : Guard) (d : SDst) (a b : SOp) (s : State) : Out := settle s (issueMulhz g d a b s)

/-- `div` (R66). -/
def issueDiv (g : Guard) (d : SDst) (a b : SOp) : Issue := binS 24 (fun x y => (divS x y, divFlag y)) g d a b
def execDiv (g : Guard) (d : SDst) (a b : SOp) (s : State) : Out := settle s (issueDiv g d a b s)

/-- `divz` (R66). -/
def issueDivz (g : Guard) (d : SDst) (a b : SOp) : Issue := binS 24 (fun x y => (divU x y, divFlag y)) g d a b
def execDivz (g : Guard) (d : SDst) (a b : SOp) (s : State) : Out := settle s (issueDivz g d a b s)

/-- `rem` (R66). -/
def issueRem (g : Guard) (d : SDst) (a b : SOp) : Issue := binS 24 (fun x y => (remS x y, divFlag y)) g d a b
def execRem (g : Guard) (d : SDst) (a b : SOp) (s : State) : Out := settle s (issueRem g d a b s)

/-- `remz` (R66). -/
def issueRemz (g : Guard) (d : SDst) (a b : SOp) : Issue := binS 24 (fun x y => (remU x y, divFlag y)) g d a b
def execRemz (g : Guard) (d : SDst) (a b : SOp) (s : State) : Out := settle s (issueRemz g d a b s)

/-- `min` (R65). -/
def issueMin (g : Guard) (d : SDst) (a b : SOp) : Issue := binS 1 (plain minS) g d a b
def execMin (g : Guard) (d : SDst) (a b : SOp) (s : State) : Out := settle s (issueMin g d a b s)

/-- `max` (R65). -/
def issueMax (g : Guard) (d : SDst) (a b : SOp) : Issue := binS 1 (plain maxS) g d a b
def execMax (g : Guard) (d : SDst) (a b : SOp) (s : State) : Out := settle s (issueMax g d a b s)

/-- `minz` (R65). -/
def issueMinz (g : Guard) (d : SDst) (a b : SOp) : Issue := binS 1 (plain minU) g d a b
def execMinz (g : Guard) (d : SDst) (a b : SOp) (s : State) : Out := settle s (issueMinz g d a b s)

/-- `maxz` (R65). -/
def issueMaxz (g : Guard) (d : SDst) (a b : SOp) : Issue := binS 1 (plain maxU) g d a b
def execMaxz (g : Guard) (d : SDst) (a b : SOp) (s : State) : Out := settle s (issueMaxz g d a b s)

/-- `abs` (R65). -/
def issueAbs (g : Guard) (d : SDst) (a : SOp) : Issue := unS 1 (plain1 absS) g d a
def execAbs (g : Guard) (d : SDst) (a : SOp) (s : State) : Out := settle s (issueAbs g d a s)

/-- `and` (R67). -/
def issueAnd (g : Guard) (d : SDst) (a b : SOp) : Issue := binS 1 (plain fun x y => x &&& y) g d a b
def execAnd (g : Guard) (d : SDst) (a b : SOp) (s : State) : Out := settle s (issueAnd g d a b s)

/-- `or` (R67). -/
def issueOr (g : Guard) (d : SDst) (a b : SOp) : Issue := binS 1 (plain fun x y => x ||| y) g d a b
def execOr (g : Guard) (d : SDst) (a b : SOp) (s : State) : Out := settle s (issueOr g d a b s)

/-- `xor` (R67). -/
def issueXor (g : Guard) (d : SDst) (a b : SOp) : Issue := binS 1 (plain fun x y => x ^^^ y) g d a b
def execXor (g : Guard) (d : SDst) (a b : SOp) (s : State) : Out := settle s (issueXor g d a b s)

/-- `andn` (R67). -/
def issueAndn (g : Guard) (d : SDst) (a b : SOp) : Issue := binS 1 (plain fun x y => x &&& ~~~y) g d a b
def execAndn (g : Guard) (d : SDst) (a b : SOp) (s : State) : Out := settle s (issueAndn g d a b s)

/-- `orn` (R67). -/
def issueOrn (g : Guard) (d : SDst) (a b : SOp) : Issue := binS 1 (plain fun x y => x ||| ~~~y) g d a b
def execOrn (g : Guard) (d : SDst) (a b : SOp) (s : State) : Out := settle s (issueOrn g d a b s)

/-- `shl` (R68). -/
def issueShl (g : Guard) (d : SDst) (a : SOp) (n : Amt) : Issue := shiftS shlN g d a n
def execShl (g : Guard) (d : SDst) (a : SOp) (n : Amt) (s : State) : Out := settle s (issueShl g d a n s)

/-- `shr` (R68). -/
def issueShr (g : Guard) (d : SDst) (a : SOp) (n : Amt) : Issue := shiftS shrN g d a n
def execShr (g : Guard) (d : SDst) (a : SOp) (n : Amt) (s : State) : Out := settle s (issueShr g d a n s)

/-- `sar` (R68). -/
def issueSar (g : Guard) (d : SDst) (a : SOp) (n : Amt) : Issue := shiftS sarN g d a n
def execSar (g : Guard) (d : SDst) (a : SOp) (n : Amt) (s : State) : Out := settle s (issueSar g d a n s)

/-- `rotl` (R68). -/
def issueRotl (g : Guard) (d : SDst) (a : SOp) (n : Amt) : Issue := shiftS rotlN g d a n
def execRotl (g : Guard) (d : SDst) (a : SOp) (n : Amt) (s : State) : Out := settle s (issueRotl g d a n s)

/-- `clz` (R69). -/
def issueClz (g : Guard) (d : SDst) (a : SOp) : Issue := unS 1 (plain1 clzS) g d a
def execClz (g : Guard) (d : SDst) (a : SOp) (s : State) : Out := settle s (issueClz g d a s)

/-- `ctz` (R69). -/
def issueCtz (g : Guard) (d : SDst) (a : SOp) : Issue := unS 1 (plain1 ctzS) g d a
def execCtz (g : Guard) (d : SDst) (a : SOp) (s : State) : Out := settle s (issueCtz g d a s)

/-- `popc` (R69). -/
def issuePopc (g : Guard) (d : SDst) (a : SOp) : Issue := unS 1 (plain1 popS) g d a
def execPopc (g : Guard) (d : SDst) (a : SOp) (s : State) : Out := settle s (issuePopc g d a s)

/-- `bswap` (R69). -/
def issueBswap (g : Guard) (d : SDst) (a : SOp) : Issue := unS 1 (plain1 bswapS) g d a
def execBswap (g : Guard) (d : SDst) (a : SOp) (s : State) : Out := settle s (issueBswap g d a s)

/-- `sext` (R69). -/
def issueSext (g : Guard) (d : SDst) (a : SOp) (n : Nat) : Issue := unS 1 (plain1 (sextS n)) g d a
def execSext (g : Guard) (d : SDst) (a : SOp) (n : Nat) (s : State) : Out := settle s (issueSext g d a n s)

/-- `zext` (R69). -/
def issueZext (g : Guard) (d : SDst) (a : SOp) (n : Nat) : Issue := unS 1 (plain1 (zextS n)) g d a
def execZext (g : Guard) (d : SDst) (a : SOp) (n : Nat) (s : State) : Out := settle s (issueZext g d a n s)

/-- `bfx` (R69). -/
def issueBfx (g : Guard) (d : SDst) (a : SOp) (pos w : Nat) : Issue := unS 1 (plain1 (bfxS pos w)) g d a
def execBfx (g : Guard) (d : SDst) (a : SOp) (pos w : Nat) (s : State) : Out := settle s (issueBfx g d a pos w s)

/-- `bfi` (R69). -/
def issueBfi (g : Guard) (d : SDst) (a b : SOp) (pos w : Nat) : Issue := binS 1 (plain (bfiS pos w)) g d a b
def execBfi (g : Guard) (d : SDst) (a b : SOp) (pos w : Nat) (s : State) : Out := settle s (issueBfi g d a b pos w s)

/-- `sel` (R70). -/
def issueSel (g : Guard) (d : SDst) (p : Fin 16) (a b : SOp) : Issue := 
  onCtx (issueS 0 1 g d (fun c => voidP c p || voidS c a || voidS c b) fun c => (if valP c p then valS c a else valS c b, 0))
def execSel (g : Guard) (d : SDst) (p : Fin 16) (a b : SOp) (s : State) : Out := settle s (issueSel g d p a b s)

/-- `mov` (R70). -/
def issueMov (g : Guard) (d : SDst) (a : SOp) : Issue := unS 1 (plain1 fun x => x) g d a
def execMov (g : Guard) (d : SDst) (a : SOp) (s : State) : Out := settle s (issueMov g d a s)

/-- `lea` (R70). -/
def issueLea (g : Guard) (d : SDst) (a : SOp) (disp : BitVec 20) : Issue := unS 1 (plain1 fun x => x + disp.signExtend 64) g d a
def execLea (g : Guard) (d : SDst) (a : SOp) (disp : BitVec 20) (s : State) : Out := settle s (issueLea g d a disp s)

/-- `addi` (R70). -/
def issueAddi (g : Guard) (d : SDst) (a : SOp) (imm : BitVec 32) : Issue := unS 1 (plain1 fun x => x + imm.signExtend 64) g d a
def execAddi (g : Guard) (d : SDst) (a : SOp) (imm : BitVec 32) (s : State) : Out := settle s (issueAddi g d a imm s)

/-- `li` (R70). -/
def issueLi (g : Guard) (d : SDst) (imm : BitVec 32) : Issue := onCtx (issueS 0 1 g d (fun _ => false) fun _ => (imm.signExtend 64, 0))
def execLi (g : Guard) (d : SDst) (imm : BitVec 32) (s : State) : Out := settle s (issueLi g d imm s)

/-- `lih` (R70). -/
def issueLih (g : Guard) (d : SDst) (a : SOp) (imm : BitVec 32) : Issue := unS 1 (plain1 (lihS imm)) g d a
def execLih (g : Guard) (d : SDst) (a : SOp) (imm : BitVec 32) (s : State) : Out := settle s (issueLih g d a imm s)

/-- `cmp` (R72). -/
def issueCmp (g : Guard) (cc : CC) (pd : Fin 16) (a b : SOp) : Issue := 
  onCtx (issueP 1 g pd (fun c => voidS c a || voidS c b) fun c => ccHolds cc (valS c a) (valS c b))
def execCmp (g : Guard) (cc : CC) (pd : Fin 16) (a b : SOp) (s : State) : Out := settle s (issueCmp g cc pd a b s)

/-- `cmpi` (R72). -/
def issueCmpi (g : Guard) (cc : CC) (pd : Fin 16) (a : SOp) (imm : BitVec 32) : Issue := 
  onCtx (issueP 1 g pd (fun c => voidS c a) fun c => ccHolds cc (valS c a) (imm.signExtend 64))
def execCmpi (g : Guard) (cc : CC) (pd : Fin 16) (a : SOp) (imm : BitVec 32) (s : State) : Out := settle s (issueCmpi g cc pd a imm s)

/-- `pand` (R73). -/
def issuePand (g : Guard) (pd pa : Fin 16) (na : Bool) (pb : Fin 16) (nb : Bool) : Issue := plogic (fun x y => x && y) g pd pa na pb nb
def execPand (g : Guard) (pd pa : Fin 16) (na : Bool) (pb : Fin 16) (nb : Bool) (s : State) : Out := settle s (issuePand g pd pa na pb nb s)

/-- `por` (R73). -/
def issuePor (g : Guard) (pd pa : Fin 16) (na : Bool) (pb : Fin 16) (nb : Bool) : Issue := plogic (fun x y => x || y) g pd pa na pb nb
def execPor (g : Guard) (pd pa : Fin 16) (na : Bool) (pb : Fin 16) (nb : Bool) (s : State) : Out := settle s (issuePor g pd pa na pb nb s)

/-- `pxor` (R73). -/
def issuePxor (g : Guard) (pd pa : Fin 16) (na : Bool) (pb : Fin 16) (nb : Bool) : Issue := plogic (fun x y => x ^^ y) g pd pa na pb nb
def execPxor (g : Guard) (pd pa : Fin 16) (na : Bool) (pb : Fin 16) (nb : Bool) (s : State) : Out := settle s (issuePxor g pd pa na pb nb s)

/-- `pnot` (R73). -/
def issuePnot (g : Guard) (pd pa : Fin 16) (na : Bool) : Issue := 
  onCtx (issueP 1 g pd (fun c => voidP c pa) fun c => !(valP c pa ^^ na))
def execPnot (g : Guard) (pd pa : Fin 16) (na : Bool) (s : State) : Out := settle s (issuePnot g pd pa na s)

/-- `ld.b` (R74). -/
def issueLdB (g : Guard) (d : SDst) (a : SOp) (disp : BitVec 20) : Issue := loadS 1 true g d a disp
def execLdB (g : Guard) (d : SDst) (a : SOp) (disp : BitVec 20) (s : State) : Out := settle s (issueLdB g d a disp s)

/-- `ld.bz` (R74). -/
def issueLdBz (g : Guard) (d : SDst) (a : SOp) (disp : BitVec 20) : Issue := loadS 1 false g d a disp
def execLdBz (g : Guard) (d : SDst) (a : SOp) (disp : BitVec 20) (s : State) : Out := settle s (issueLdBz g d a disp s)

/-- `ld.h` (R74). -/
def issueLdH (g : Guard) (d : SDst) (a : SOp) (disp : BitVec 20) : Issue := loadS 2 true g d a disp
def execLdH (g : Guard) (d : SDst) (a : SOp) (disp : BitVec 20) (s : State) : Out := settle s (issueLdH g d a disp s)

/-- `ld.hz` (R74). -/
def issueLdHz (g : Guard) (d : SDst) (a : SOp) (disp : BitVec 20) : Issue := loadS 2 false g d a disp
def execLdHz (g : Guard) (d : SDst) (a : SOp) (disp : BitVec 20) (s : State) : Out := settle s (issueLdHz g d a disp s)

/-- `ld.w` (R74). -/
def issueLdW (g : Guard) (d : SDst) (a : SOp) (disp : BitVec 20) : Issue := loadS 4 true g d a disp
def execLdW (g : Guard) (d : SDst) (a : SOp) (disp : BitVec 20) (s : State) : Out := settle s (issueLdW g d a disp s)

/-- `ld.wz` (R74). -/
def issueLdWz (g : Guard) (d : SDst) (a : SOp) (disp : BitVec 20) : Issue := loadS 4 false g d a disp
def execLdWz (g : Guard) (d : SDst) (a : SOp) (disp : BitVec 20) (s : State) : Out := settle s (issueLdWz g d a disp s)

/-- `ld.d` (R74). -/
def issueLdD (g : Guard) (d : SDst) (a : SOp) (disp : BitVec 20) : Issue := loadS 8 false g d a disp
def execLdD (g : Guard) (d : SDst) (a : SOp) (disp : BitVec 20) (s : State) : Out := settle s (issueLdD g d a disp s)

/-- `st.b` (R74). -/
def issueStB (g : Guard) (b a : SOp) (disp : BitVec 20) : Issue := storeS 1 g b a disp
def execStB (g : Guard) (b a : SOp) (disp : BitVec 20) (s : State) : Out := settle s (issueStB g b a disp s)

/-- `st.h` (R74). -/
def issueStH (g : Guard) (b a : SOp) (disp : BitVec 20) : Issue := storeS 2 g b a disp
def execStH (g : Guard) (b a : SOp) (disp : BitVec 20) (s : State) : Out := settle s (issueStH g b a disp s)

/-- `st.w` (R74). -/
def issueStW (g : Guard) (b a : SOp) (disp : BitVec 20) : Issue := storeS 4 g b a disp
def execStW (g : Guard) (b a : SOp) (disp : BitVec 20) (s : State) : Out := settle s (issueStW g b a disp s)

/-- `st.d` (R74). -/
def issueStD (g : Guard) (b a : SOp) (disp : BitVec 20) : Issue := storeS 8 g b a disp
def execStD (g : Guard) (b a : SOp) (disp : BitVec 20) (s : State) : Out := settle s (issueStD g b a disp s)

/-- `nop` in any slot (R48). -/
def issueNop : Issue := .ok
def execNop (s : State) : Out := settle s (issueNop s)

end Sys2Proof.Machine
end

