-- ==== Sys2Proof/Machine/Control.lean ====
section
/-! DEFINITION. Control flow and system instructions (spec/05): branches, loops, waiting, blocks, services, traps, returns
and system registers. -/

namespace Sys2Proof.Machine

/-! ### Branches and loops -/

/-- The entry that a branch makes (R78). -/
def branchEntry (an : An) (taken : Bool) (t : Pc) : Npc :=
  match an, taken with
  | .tk, true => ⟨t, true, true⟩
  | _, true => ⟨t, false, true⟩
  | .nt, false => ⟨0, true, false⟩
  | _, false => {}

/-- A branch: its guard is its condition; the target is read only when it is taken (R78, R32). -/
def branch (g : Guard) (an : An) (void : Ctx → Bool) (target : Ctx → Pc) (c : Ctx) : Ctx :=
  { noteVoid c (voidP c g.p || (guardOn c g && void c)) with entry := branchEntry an (guardOn c g) (target c) }

/-- (`PC` + SignExt(`IMM`, 32))[31:0] (R80, R84). -/
def relTarget (imm : BitVec 32) (c : Ctx) : Pc := c.pc + imm

/-- (U(x) + SignExt(`IMM`, 32))[31:0] (R84). -/
def regTarget (a : SOp) (imm : BitVec 32) (c : Ctx) : Pc := (valS c a).setWidth 32 + imm

/-- `br` (R83, R84). -/
def issueBr (g : Guard) (an : An) (imm : BitVec 32) : Issue := onCtx (branch g an (fun _ => false) (relTarget imm))
def execBr (g : Guard) (an : An) (imm : BitVec 32) (s : State) : Out := settle s (issueBr g an imm s)

/-- `bri` (R83, R84). -/
def issueBri (g : Guard) (an : An) (a : SOp) (imm : BitVec 32) : Issue :=
  onCtx (branch g an (fun c => voidS c a) (regTarget a imm))
def execBri (g : Guard) (an : An) (a : SOp) (imm : BitVec 32) (s : State) : Out := settle s (issueBri g an a imm s)

/-- `call` (R84): the branch, and the return address pending for the bundle after the second delay bundle; a call not
taken lands a zero there when its destination is the belt (R32). -/
def issueCall (g : Guard) (an : An) (d : SDst) (imm : BitVec 32) : Issue := onCtx fun c =>
  let on := guardOn c g
  let d' := if on then d else match d with | .belt => SDst.belt | _ => .discard
  let c1 := branch g an (fun _ => false) (relTarget imm) c
  { c1 with rets := c1.rets ++ [⟨3, 0, c.bc, d', on, 0⟩] }
def execCall (g : Guard) (an : An) (d : SDst) (imm : BitVec 32) (s : State) : Out := settle s (issueCall g an d imm s)

/-- `ret` (R84). -/
def issueRet (g : Guard) (an : An) (a : SOp) : Issue := onCtx (branch g an (fun c => voidS c a) (regTarget a 0))
def execRet (g : Guard) (an : An) (a : SOp) (s : State) : Out := settle s (issueRet g an a s)

/-- `loop` (R85): predicates `p8` to `p15` become 1, 0, ..., 0 and not void. -/
def issueLoop (g : Guard) (a : SOp) (imm : BitVec 32) (stg : Fin 8) : Issue := onCtx fun c =>
  if guardOn c g then
    { noteVoid c (voidP c g.p || voidS c a) with
      lc := valS c a + imm.signExtend 64, stages := BitVec.ofNat 4 (stg.val + 1),
      preds := (c.preds &&& 0x00FF) ||| 0x0100, pvoid := c.pvoid &&& 0x00FF }
  else noteVoid c (voidP c g.p)
def execLoop (g : Guard) (a : SOp) (imm : BitVec 32) (stg : Fin 8) (s : State) : Out := settle s (issueLoop g a imm stg s)

/-- The rotation of the stage predicates (R34, R86): a void one reads 0, and none is void afterwards. -/
def rotateStages (c : Ctx) (new8 : Bool) : Ctx :=
  let live := c.preds &&& ~~~c.pvoid
  { c with
    preds := (c.preds &&& 0x00FF) ||| ((live &&& 0x7F00) <<< 1) ||| (if new8 then 0x0100 else 0)
    pvoid := c.pvoid &&& 0x00FF }

/-- What `loopb` does with its guard reading 1 (R86): the context, and whether it is taken. -/
def loopbStep (c : Ctx) : Ctx × Bool :=
  if c.stages = 0 then (c, false)
  else if c.lc ≠ 0 then (rotateStages { c with lc := c.lc - 1 } true, true)
  else if 1 < c.stages.toNat then (rotateStages { c with stages := c.stages - 1 } false, true)
  else (rotateStages { c with stages := 0 } false, false)

/-- `loopb` (R86). -/
def issueLoopb (g : Guard) (imm : BitVec 32) : Issue := onCtx fun c =>
  let c0 := noteVoid c (voidP c g.p)
  if guardOn c g then
    let r := loopbStep c0
    { r.1 with entry := branchEntry .plain r.2 (relTarget imm c) }
  else { c0 with entry := {} }
def execLoopb (g : Guard) (imm : BitVec 32) (s : State) : Out := settle s (issueLoopb g imm s)

/-! ### Waiting -/

/-- Adds a wait to the context. -/
def addWait (c : Ctx) (k : WaitKind) (slot : Nat) (d : SDst) : Ctx := { c with waits := c.waits ++ [⟨k, slot, c.bc, d, none⟩] }

/-- Ends a wait with a result (R87, R89): it lands in the next cycle, or with the next bundle while a `sleepto` of the same
bundle goes on (log 14). -/
def endWait (c : Ctx) (w : Wait) (v : Word) : Ctx :=
  let rest := c.waits.erase w
  if rest.isEmpty then { c with waits := rest, inflight := c.inflight ++ [⟨c.bc + 1, w.slot, w.seq, resS w.dst v, 0⟩] }
  else { c with waits := rest, rets := c.rets ++ [⟨0, w.slot, w.seq, w.dst, false, v⟩] }

/-- A wait whose condition holds in its first cycle (R202, R208, R290, R343): the result lands in the cycle in which the next
bundle issues, also when another wait of the bundle goes on. -/
def endNow (c : Ctx) (slot : Nat) (d : SDst) (v : Word) : Ctx := { c with rets := c.rets ++ [⟨1, slot, c.bc, d, false, v⟩] }

/-- `sleepto` (R88). -/
def issueSleepto (g : Guard) (a : SOp) : Issue := onCtx fun c =>
  if guardOn c g then addWait (noteVoid c (voidP c g.p || voidS c a)) (.sleepto (valS c a)) 0 .discard
  else noteVoid c (voidP c g.p)
def execSleepto (g : Guard) (a : SOp) (s : State) : Out := settle s (issueSleepto g a s)

/-- A `sleepto` whose tick has come (R88). -/
def sleepDone (tick : Nat) (w : Wait) : Bool :=
  match w.kind with
  | .sleepto t => decide (t.toNat ≤ tick)
  | _ => false

/-- `SLEEPTO_WAKE` (R88): in the first cycle whose tick is at least U(x) the wait is over, and the bundle issues. -/
def execSleeptoWake (core : Nat) (s : State) : Out :=
  let k := getCore s core
  .next (setCore s core { k with ctx := { k.ctx with waits := k.ctx.waits.filter fun w => !sleepDone (coreTick s core) w } })

/-- The sample of `mwait` (R89): the doubleword, and whether the wait ends. -/
def mwaitSample (s : State) (core : Nat) (cc : CC) (ea : Nat) (y z : Word) : Word × Bool :=
  let v := BitVec.ofNat 64 (leNat (viewRead s core ea 8))
  (v, ccHolds cc v y || decide (z.toNat ≤ coreTick s core))

/-- `mwait` (R89): sampled in the issue cycle, and in every waiting cycle. -/
def issueMwait (g : Guard) (d : SDst) (cc : CC) (a b e : SOp) : Issue := fun s =>
  let c := curCtx s
  let ea := (valS c a).toNat
  if guardOn c g then
    match viewStop (cur s) 2 1 ea 8 true with
    | some x => .error x
    | none =>
      let c1 := noteVoid c (voidP c g.p || voidS c a || voidS c b || voidS c e)
      let r := mwaitSample s s.sched.cur cc ea (valS c b) (valS c e)
      .ok (setCtx s (if r.2 then fly c1 0 1 (resS d r.1) 0 else addWait c1 (.mwait cc ea (valS c b) (valS c e)) 0 d))
  else .ok (setCtx s (fly (noteVoid c (voidP c g.p)) 0 1 (offS d) 0))
def execMwait (g : Guard) (d : SDst) (cc : CC) (a b c : SOp) (s : State) : Out := settle s (issueMwait g d cc a b c s)

/-- `MWAIT_END` (R89): a waiting cycle's sample. -/
def execMwaitEnd (core : Nat) (s : State) : Out :=
  let k := getCore s core
  let ended := k.ctx.waits.foldl (fun c w =>
    match w.kind with
    | .mwait cc ea y z =>
      let r := mwaitSample s core cc ea y z
      if r.2 then endWait c w r.1 else c
    | _ => c) k.ctx
  .next (setCore s core { k with ctx := ended })

/-! ### Blocks -/

/-- `trig` (R91): recorded once, with the number that the next request will have (R285). A service handler has no block, and it
does not change the held context (R235): there `trig` records nothing (log 54). -/
def issueTrig (g : Guard) : Issue := fun s =>
  let k := cur s
  let k1 := { k with ctx := noteVoid k.ctx (voidP k.ctx g.p) }
  if guardOn k.ctx g && k.svc.isNone then
    .ok (setCur s { k1 with blk := k1.blk.map fun b => { b with trig := some (b.trig.getD s.nextReq) } })
  else .ok (setCur s k1)
def execTrig (g : Guard) (s : State) : Out := settle s (issueTrig g s)

/-- A cell taken by a block that ends is full again, ahead of every other (R339). -/
def returnCells (bid : Nat) (j : JobSlot) : JobSlot :=
  let lo := j.cells.foldl (fun m x => match x.2 with | .full o _ => min m o | _ => m) 0
  (j.cells.foldl (fun (acc : JobSlot × Int) x =>
    match x.2 with
    | .taken b len => if b = bid then ({ acc.1 with cells := smPut acc.1.cells x.1 (.full acc.2 len) }, acc.2 - 1) else acc
    | _ => acc) (j, lo - 1)).1

/-- A crossing that a block owns stops and loses its owner when the block ends (R252). -/
def dropXing (bid : Nat) (x : Nat × Crossing) : Nat × Crossing :=
  if x.2.owner.isSome ∧ x.2.ownerBid = bid then (x.1, { x.2 with owner := none, run := false, cfg := none }) else x

/-- The end of a block on its core, by `exit` or by a kill (R91, R148, R252, R211, R339, R239, R291): pending entries and
results go, slots are released, its crossings stop and lose their owner, its streams close, its cells return. The `OSLOT` of a
multicast waits for the next bundle that the core would issue (R206). -/
def endBlock (c : Nat) (s : State) : State :=
  let k := getCore s c
  let bid := (k.blk.map (·.bid)).getD 0
  let base := (k.svc.map (·.host)).getD k.ctx
  let ctx := { base with npc1 := {}, npc2 := {}, entry := {}, npc1Set := none, npc2Set := none, dlPut := none,
                          inflight := [], latch := [], rets := [], waits := [], svc := none }
  let k1 := { k with
    run := .idle, ctx := ctx, mx := { k.mx with claimed := 0, prods := [], folds := [], scans := [] },
    svc := none, faults := k.faults.filter (·.rank == 1), pendPre := false, pendDbg := false, killAt := none, saveDue := false,
    snapLeft := 0,
    blk := k.blk.map fun b => { b with exited := true, trig := some (b.trig.getD s.nextReq), journal := [], restarted := [] } }
  let s1 := setCore s c k1
  { s1 with
    xings := s1.xings.map (dropXing bid)
    twes := s1.twes.map fun t => (t.1, { t.2 with streams := t.2.streams.map fun st =>
      if st.2.isOpen ∧ st.2.owner = c ∧ st.2.ownerBid = bid then (st.1, { st.2 with closing := true }) else st })
    jobs := s1.jobs.map fun j => (j.1, returnCells bid j.2) }

/-- `exit` (R91, R235): the block ends, or the handler does. -/
def issueExit (g : Guard) : Issue := fun s =>
  let k := cur s
  let k1 := { k with ctx := noteVoid k.ctx (voidP k.ctx g.p) }
  if guardOn k.ctx g then
    match k1.svc with
    | some h => .ok (setCur s { k1 with svc := some { h with exited := true } })
    | none => .ok (endBlock s.sched.cur (setCur s k1))
  else .ok (setCur s k1)
def execExit (g : Guard) (s : State) : Out := settle s (issueExit g s)

/-- `svc` (R92): the bundle commits with the call recorded; the core stops before the next bundle. -/
def issueSvc (g : Guard) (d : SDst) (n : BitVec 8) (a b e : SOp) : Issue := onCtx fun c =>
  if guardOn c g then
    { noteVoid c (voidP c g.p || voidS c a || voidS c b || voidS c e) with
      svc := some ⟨n, valS c a, valS c b, valS c e, d, c.bc⟩ }
  else fly (noteVoid c (voidP c g.p)) 0 1 (offS d) 0
def execSvc (g : Guard) (d : SDst) (n : BitVec 8) (a b c : SOp) (s : State) : Out := settle s (issueSvc g d n a b c s)

/-- `trap` (R93): cause `SWTRAP`, slot mask S. -/
def issueTrap (g : Guard) (_n : BitVec 8) : Issue := fun s =>
  let c := curCtx s
  if guardOn c g then .error { cause := .swtrap, smask := 1 } else .ok (setCtx s (noteVoid c (voidP c g.p)))
def execTrap (g : Guard) (n : BitVec 8) (s : State) : Out := settle s (issueTrap g n s)

/-- `brk` (R96): cause `DEBUG`, slot mask S. -/
def issueBrk (g : Guard) (_n : BitVec 8) : Issue := fun s =>
  let c := curCtx s
  if guardOn c g then .error { cause := .debug, smask := 1 } else .ok (setCtx s (noteVoid c (voidP c g.p)))
def execBrk (g : Guard) (n : BitVec 8) (s : State) : Out := settle s (issueBrk g n s)

/-! ### Return from a stop -/

/-- `PRIV` of a slot (R55). -/
def privStop (mask : Nat) : Stop := { cause := .priv, smask := mask, engine := 1 }

/-- Whether a core holds a context that `rte` may resume: a debug halt lasts until the debugger ends it (R169, R240). -/
def rteMay (s : State) (c : Nat) : Bool :=
  match (getCore s c).run with
  | .held cause => !(cause == .debug && partDebug s c)
  | _ => false

/-- The core whose held context has this trap record (log 12): the lowest. -/
def heldWith (s : State) (trec : BitVec 55) (self : Nat) : Option Nat :=
  (s.cores.find? fun x => x.1 != self && x.2.ctx.traprec == trec && rteMay s x.1).map (·.1)

/-- Resumes a held core under its record (R94): `PC`, `NPC1` and `NPC2` from the record, the latch bank replays; a record
that cannot be read is a double fault (R228). In the region of the core that issues `rte` the bundle issues in the next cycle, with
the landings of that cycle before it (R174, log 12). -/
def resumeFromRecord (self c : Nat) (s : State) : State :=
  let k := getCore s c
  match pinnedAt s c 1 k.ctx.traprec.toNat 128 with
  | (s1, .error r) => doubleFault c .none 0x0E r (some k.ctx.traprec.toNat) s1
  | (s1, .ok t) =>
    let image := leNat (bytesUnder s1 (some t.key) t.pa 128)
    let s2 := resumeCore c (setCore s1 c { getCore s1 c with ctx := ctxFromRecord (getCore s1 c).ctx image })
    setCore s2 c { getCore s2 c with resumed := regionOf s2 c == regionOf s2 self }

/-- `rte` (R94): the kernel's stream ends and the context that `TRAPREC` names resumes. The spec does not say what becomes of a
block that the issuing context belongs to: the core idles, and the block neither exits nor is counted (log 54). -/
def issueRte (g : Guard) : Issue := fun s =>
  let k := cur s
  let c := k.ctx
  if !coreKern k then .error (privStop 1)
  else if guardOn c g then
    let c1 := { noteVoid c (voidP c g.p) with npc1 := {}, npc2 := {}, entry := {}, inflight := [], rets := [], waits := [] }
    let me := { k with run := .idle, ctx := c1 }
    let s1 := setCur s me
    match heldWith s c.traprec s.sched.cur with
    | some t => .ok (resumeFromRecord s.sched.cur t s1)
    | none => .ok s1
  else .ok (setCtx s (noteVoid c (voidP c g.p)))
def execRte (g : Guard) (s : State) : Out := settle s (issueRte g s)

/-! ### System registers -/

/-- A system register as `sget` reads it in the issue cycle (R36, R95). -/
def sysRead (s : State) (r : SysReg) : Nat :=
  let k := cur s
  let c := k.ctx
  let rg := coreRegion s s.sched.cur
  match r with
  | .flags => c.flags.toNat
  | .mempol => c.mempol.toNat
  | .poltabl => c.poltabl.toNat
  | .poltabh => c.poltabh.toNat
  | .traprec => c.traprec.toNat
  | .frame => rg.frame % 2 ^ 64
  | .cyf => rg.cyf % 2 ^ 24
  | .tick => s.tick % 2 ^ 64
  | .deadline => k.deadline.toNat
  | .lc => c.lc.toNat
  | .stages => c.stages.toNat
  | .npc1 => npcBits c.npc1
  | .npc2 => npcBits c.npc2
  | .coreId => s.sched.cur
  | .regionId => regionId s s.sched.cur
  | .mpc => c.mpc.toNat

/-- `sget` (R95). -/
def issueSget (g : Guard) (d : SDst) (r : SysReg) : Issue := fun s =>
  .ok (setCtx s (issueS 0 1 g d (fun _ => false) (fun _ => (BitVec.ofNat 64 (sysRead s r), 0)) (curCtx s)))
def execSget (g : Guard) (d : SDst) (r : SysReg) (s : State) : Out := settle s (issueSget g d r s)

/-- A policy entry without reserved codes (R37). -/
def polOk (e : Nat) : Bool := decide (bits e 2 3 ≤ 4) && decide (bits e 5 3 ≤ 1) && decide (bits e 8 2 ≤ 2)

/-- Registers that only a kernel context may write (R36). -/
def sysKernel : SysReg → Bool
  | .traprec | .deadline | .npc1 | .npc2 => true
  | _ => false

/-- Values that `sput` must not store (R37). -/
def sysBad (r : SysReg) (x : Nat) : Bool :=
  match r with
  | .mempol => !polOk x
  | .poltabl => !(polOk x && polOk (x / 2 ^ 16) && polOk (x / 2 ^ 32) && polOk (x / 2 ^ 48))
  | .poltabh => !(polOk x && polOk (x / 2 ^ 16) && polOk (x / 2 ^ 32))
  | .stages => decide (9 ≤ x % 16)
  | _ => false

/-- The ten defined bits of each policy entry (R37). -/
def polMask (n x : Nat) : Nat := ofLanes 16 ((lanesOf 16 n x).map (· % 2 ^ 10))

/-- What `sput` writes (R36, R37, R95). One to `MPC` keeps the records in the metadata buffer (DESIGN CHOICE, log 58: R162 has `mdpc` discard
them, R95 is silent). -/
def sysWrite (r : SysReg) (x : Word) (c : Ctx) : Ctx :=
  let v := x.toNat
  match r with
  | .flags => { c with flags := c.flags &&& ~~~BitVec.ofNat 10 v }
  | .mempol => { c with mempol := BitVec.ofNat 16 (polMask 1 v) }
  | .poltabl => { c with poltabl := BitVec.ofNat 64 (polMask 4 v) }
  | .poltabh => { c with poltabh := BitVec.ofNat 48 (polMask 3 v) }
  | .traprec => { c with traprec := BitVec.ofNat 55 (v / 2 ^ 7 * 2 ^ 7) }
  | .deadline => { c with dlPut := some (BitVec.ofNat 32 v) }
  | .lc => { c with lc := x }
  | .stages => { c with stages := BitVec.ofNat 4 v }
  | .npc1 => { c with npc1Set := some (npcOf v) }
  | .npc2 => { c with npc2Set := some (npcOf v) }
  | .mpc => { c with mpc := BitVec.ofNat 32 v }
  | .frame | .cyf | .tick | .coreId | .regionId => c

/-- `sput` (R95). -/
def issueSput (g : Guard) (r : SysReg) (a : SOp) : Issue := onCore fun k =>
  let c := k.ctx
  if sysKernel r && !coreKern k then .error (privStop 1)
  else if guardOn c g then
    if sysBad r (valS c a).toNat then .error { cause := .badfld, smask := 1, engine := 1 }
    else .ok { k with ctx := sysWrite r (valS c a) (noteVoid c (voidP c g.p || voidS c a)) }
  else .ok { k with ctx := noteVoid c (voidP c g.p) }
def execSput (g : Guard) (r : SysReg) (a : SOp) (s : State) : Out := settle s (issueSput g r a s)

end Sys2Proof.Machine
end

