-- ==== Sys2Proof/Machine/Float.lean ====
section
/-! DEFINITION. Number formats (spec/06): decoding, one rounding of an exact value, conversions, arithmetic, and the
correctly rounded functions of R129 by exact integer bounds. -/

namespace Sys2Proof.Machine

/-- Fraction bits of a format (R99). -/
def fracBits : LT → Nat
  | .bf16 => 7 | .f16 => 10 | .f32 => 23 | .f64 => 52 | .e4m3 => 3 | .e5m2 => 2 | .e2m1 => 1
  | _ => 0

/-- Exponent bias (R99). -/
def expBias : LT → Nat
  | .bf16 => 127 | .f16 => 15 | .f32 => 127 | .f64 => 1023 | .e4m3 => 7 | .e5m2 => 15 | .e2m1 => 1
  | _ => 0

/-- Exponent of the largest finite value (R99). -/
def expMax : LT → Int
  | .bf16 => 127 | .f16 => 15 | .f32 => 127 | .f64 => 1023 | .e4m3 => 8 | .e5m2 => 15 | .e2m1 => 2
  | _ => 0

/-- Significand of the largest finite value, in units of its last place (R99, R104, R106). -/
def sigMax : LT → Nat
  | .e4m3 => 14
  | lt => 2 ^ (fracBits lt + 1) - 1

/-- Code of the largest finite magnitude. -/
def codeMax (lt : LT) : Nat := ((expMax lt + expBias lt).toNat - 1) * 2 ^ fracBits lt + sigMax lt

/-- Code of infinity, for the formats that have one. -/
def codeInf (lt : LT) : Nat := 2 ^ (lt.width - 1) - 2 ^ fracBits lt

/-- The canonical NaN (R100); E2M1 has none and gives 0 (R102). -/
def codeNan : LT → Nat
  | .bf16 => 0x7FC0 | .f16 => 0x7E00 | .f32 => 0x7FC00000 | .f64 => 0x7FF8000000000000 | .e4m3 => 0x7F | .e5m2 => 0x7E
  | _ => 0

/-- A decoded value: a NaN, an infinity, or (−1)^neg · m · 2^e. -/
inductive FVal where
  | nan (signalling : Bool)
  | inf (neg : Bool)
  | fin (neg : Bool) (m : Nat) (e : Int)
  deriving DecidableEq, Repr

/-- Sign of a code. -/
def codeNeg (lt : LT) (q : Nat) : Bool := q.testBit (lt.width - 1)

/-- Magnitude part of a code. -/
def codeMag (lt : LT) (q : Nat) : Nat := q % 2 ^ (lt.width - 1)

/-- A signed code. -/
def signed (lt : LT) (neg : Bool) (mag : Nat) : Nat := if neg then 2 ^ (lt.width - 1) + mag else mag

/-- The finite value of a magnitude code (R99). -/
def finOfMag (lt : LT) (neg : Bool) (mag : Nat) : FVal :=
  let fb := fracBits lt
  let e := mag / 2 ^ fb
  if e = 0 then .fin neg (mag % 2 ^ fb) (1 - expBias lt - fb)
  else .fin neg (mag % 2 ^ fb + 2 ^ fb) (e - expBias lt - fb)

/-- Decoding (R99, R100, R104 to R106); outside block products code 1000b of E2M1 is +0. -/
def decodeF (lt : LT) (q : Nat) : FVal :=
  let mag := codeMag lt q
  let neg := codeNeg lt q
  match lt with
  | .e4m3 => if mag = 0x7F then .nan false else finOfMag lt neg mag
  | .e2m1 => if mag = 0 then .fin false 0 0 else finOfMag lt neg mag
  | _ =>
    if mag < codeInf lt then finOfMag lt neg mag
    else if mag = codeInf lt then .inf neg
    else .nan (!mag.testBit (fracBits lt - 1))

/-- m · 2^e on the grid of multiples of 2^g (R101, R113): the multiple, and whether it is inexact. -/
def roundMag (rnd : Rnd) (m : Nat) (e g : Int) : Nat × Bool :=
  if g ≤ e then (m * 2 ^ (e - g).toNat, false)
  else
    let u := 2 ^ (g - e).toNat
    let q := m / u
    let r := m % u
    let up := rnd == .ne && (decide (u < 2 * r) || (2 * r == u && q % 2 == 1))
    (if up then q + 1 else q, r != 0)

/-- What a finite value becomes beyond the largest finite magnitude (R102). -/
def overflowF (lt : LT) (rnd : Rnd) (sat neg : Bool) : Nat × Flags :=
  if sat || lt == .e2m1 then (signed lt neg (codeMax lt), fSAT ||| fINX)
  else if rnd == .tz then (signed lt neg (codeMax lt), fOVF ||| fINX)
  else if lt == .e4m3 then (codeNan lt, fOVF ||| fINX)
  else (signed lt neg (codeInf lt), fOVF ||| fINX)

/-- One rounding of an exact value into a format, with its flags (R101, R102). -/
def roundF (lt : LT) (rnd : Rnd) (sat neg : Bool) (m : Nat) (e : Int) : Nat × Flags :=
  if m = 0 then (if lt == .e2m1 then 0 else signed lt neg 0, 0)
  else
    let fb : Int := fracBits lt
    let emin : Int := 1 - expBias lt
    let gU : Int := e + (Nat.log2 m : Int) - fb
    let nU := (roundMag rnd m e gU).1
    if expMax lt - fb ≤ gU && decide (sigMax lt < nU * 2 ^ (gU - (expMax lt - fb)).toNat) then overflowF lt rnd sat neg
    else
      let g := max gU (emin - fb)
      let r := roundMag rnd m e g
      let tiny := decide (gU < emin - fb) && decide (nU < 2 ^ (emin - gU).toNat)
      let mag := (g - (emin - fb)).toNat * 2 ^ fracBits lt + r.1
      (if lt == .e2m1 && mag == 0 then 0 else signed lt neg mag, fIf r.2 fINX ||| fIf (r.2 && tiny) fUNF)

/-- A NaN result (R100, R102). -/
def nanF (lt : LT) (invalid : Bool) : Nat × Flags := (codeNan lt, fIf (invalid || lt == .e2m1) fINVALID)

/-- An infinite result of a conversion (R102). -/
def infF (lt : LT) (sat neg : Bool) : Nat × Flags :=
  if sat || lt == .e2m1 then (signed lt neg (codeMax lt), fSAT)
  else if lt == .e4m3 then (codeNan lt, fOVF)
  else (signed lt neg (codeInf lt), 0)

/-- A value converted into a format (R102). -/
def convertF (lt : LT) (rnd : Rnd) (sat : Bool) : FVal → Nat × Flags
  | .nan sg => nanF lt sg
  | .inf n => infF lt sat n
  | .fin n m e => roundF lt rnd sat n m e

/-! ### Arithmetic -/

/-- The sum of two finite values: an exact zero of opposite signs is +0 (R101). -/
def addFin (n1 : Bool) (m1 : Nat) (e1 : Int) (n2 : Bool) (m2 : Nat) (e2 : Int) : Bool × Nat × Int :=
  let e := min e1 e2
  let a := m1 * 2 ^ (e1 - e).toNat
  let b := m2 * 2 ^ (e2 - e).toNat
  if n1 == n2 then (n1, a + b, e)
  else if a = b then (false, 0, e)
  else if b < a then (n1, a - b, e) else (n2, b - a, e)

/-- Whether a value is a signalling NaN. -/
def FVal.sig : FVal → Bool
  | .nan sg => sg
  | _ => false

/-- The negation of a value. -/
def FVal.negate : FVal → FVal
  | .nan sg => .nan sg
  | .inf n => .inf (!n)
  | .fin n m e => .fin (!n) m e

/-- Sums (R100, R101). -/
def addF (lt : LT) (rnd : Rnd) (x y : FVal) : Nat × Flags :=
  match x, y with
  | .nan s1, y => nanF lt (s1 || y.sig)
  | _, .nan s2 => nanF lt s2
  | .inf n1, .inf n2 => if n1 == n2 then infF lt false n1 else nanF lt true
  | .inf n1, .fin _ _ _ => infF lt false n1
  | .fin _ _ _, .inf n2 => infF lt false n2
  | .fin n1 m1 e1, .fin n2 m2 e2 =>
    let r := addFin n1 m1 e1 n2 m2 e2
    roundF lt rnd false r.1 r.2.1 r.2.2

/-- The exact product, or the operand-free NaN of an invalid one: `none` for 0 × ∞ (R100). -/
def mulExact : FVal → FVal → Option FVal
  | .nan s1, y => some (.nan (s1 || y.sig))
  | _, .nan s2 => some (.nan s2)
  | .inf n1, .inf n2 => some (.inf (n1 != n2))
  | .inf n1, .fin n2 m2 _ => if m2 = 0 then none else some (.inf (n1 != n2))
  | .fin n1 m1 _, .inf n2 => if m1 = 0 then none else some (.inf (n1 != n2))
  | .fin n1 m1 e1, .fin n2 m2 e2 => some (.fin (n1 != n2) (m1 * m2) (e1 + e2))

/-- Products (R100, R101). -/
def mulF (lt : LT) (rnd : Rnd) (x y : FVal) : Nat × Flags :=
  match mulExact x y with
  | none => nanF lt true
  | some p => convertF lt rnd false p

/-- a × b + c with one rounding; 0 × ∞ is invalid whatever c is (R126). -/
def fmaF (lt : LT) (rnd : Rnd) (x y z : FVal) : Nat × Flags :=
  match mulExact x y with
  | none => nanF lt true
  | some p => addF lt rnd p z

/-- Order of codes that are no NaN, −0 below +0 (R127). -/
def keyTotal (lt : LT) (q : Nat) : Int := if codeNeg lt q then -(codeMag lt q : Int) - 1 else codeMag lt q

/-- Order of codes by value (R128). -/
def keyValue (lt : LT) (q : Nat) : Int := if codeNeg lt q then -(codeMag lt q : Int) else codeMag lt q

/-- Whether a code of a format with infinities is a NaN, and whether it signals. -/
def isNan (lt : LT) (q : Nat) : Bool := decide (codeInf lt < codeMag lt q)
def isSig (lt : LT) (q : Nat) : Bool := isNan lt q && !(codeMag lt q).testBit (fracBits lt - 1)

/-- Minimum and maximum (R127). -/
def minmaxF (lt : LT) (wantMax : Bool) (x y : Nat) : Nat × Flags :=
  let f := fIf (isSig lt x || isSig lt y) fINVALID
  match isNan lt x, isNan lt y with
  | true, true => (codeNan lt, f)
  | true, false => (y, f)
  | false, true => (x, f)
  | false, false =>
    (if wantMax then (if keyTotal lt x < keyTotal lt y then y else x) else (if keyTotal lt y < keyTotal lt x then y else x), f)

/-- Compares (R128). -/
def cmpF (lt : LT) (cc : CC) (x y : Nat) : Bool × Flags :=
  if isNan lt x || isNan lt y then
    let loud := isSig lt x || isSig lt y
    match cc with
    | .ne | .uo => (true, fIf loud fINVALID)
    | .eq => (false, fIf loud fINVALID)
    | _ => (false, fINVALID)
  else
    let a := keyValue lt x
    let b := keyValue lt y
    (match cc with
      | .eq => decide (a = b) | .ne => decide (a ≠ b) | .lt => decide (a < b) | .le => decide (a ≤ b)
      | .gt => decide (b < a) | .ge => decide (b ≤ a) | _ => false, 0)

/-- A change of the sign bit alone: NaN inputs give the canonical NaN (R126). -/
def signF (lt : LT) (neg : Bool → Bool) (x : Nat) : Nat × Flags :=
  if isNan lt x then nanF lt (isSig lt x) else (signed lt (neg (codeNeg lt x)) (codeMag lt x), 0)

/-! ### Integers -/

/-- The bounds of R98. -/
def intLo (w : Nat) (u : Bool) : Int := if u then 0 else -(2 ^ (w - 1) : Nat)
def intHi (w : Nat) (u : Bool) : Int := if u then (2 ^ w : Nat) - 1 else (2 ^ (w - 1) : Nat) - 1

/-- The integer that lane bits stand for. -/
def laneInt (w : Nat) (u : Bool) (x : Nat) : Int := if u then (x % 2 ^ w : Nat) else sInt w x

/-- A float converted to an integer (R103). -/
def toIntF (w : Nat) (u : Bool) (rnd : Rnd) (sat : Bool) : FVal → Nat × Flags
  | .nan _ => if sat then (0, fINVALID) else (wrap w (intLo w u), fINVALID)
  | .inf n =>
    if sat then (wrap w (if n then intLo w u else intHi w u), fSAT) else (wrap w (intLo w u), fINVALID)
  | .fin n m e =>
    let r := roundMag rnd m e 0
    let v : Int := if n then -(r.1 : Int) else r.1
    if v < intLo w u ∨ intHi w u < v then
      if sat then (wrap w (if v < intLo w u then intLo w u else intHi w u), fSAT) else (wrap w (intLo w u), fINVALID)
    else (wrap w v, fIf r.2 fINX)

/-- An integer as a value. -/
def ofIntF (v : Int) : FVal := .fin (decide (v < 0)) v.natAbs 0

/-! ### The functions of R129: bounds in units of 2^−p -/

/-- The value 2^k·v lies in [m, m + 1): rounding sees it as 2m, or 2m + 1 when it is not m itself. -/
def sticky (lt : LT) (rnd : Rnd) (neg : Bool) (m : Nat) (exact : Bool) (k : Int) : Nat × Flags :=
  roundF lt rnd false neg (if exact then 2 * m else 2 * m + 1) (-k - 1)

/-- Bounds of ln 2: the series of 1 / (i · 2^i). -/
def ln2Sum (p : Nat) : Nat → Nat
  | 0 => 0
  | i + 1 => 2 ^ p / ((i + 1) * 2 ^ (i + 1)) + ln2Sum p i
def ln2 (p : Nat) : Nat × Nat := let s := ln2Sum p p; (s, s + p + 1)

/-- Bounds of e^y for y in [0, 1): Taylor terms from below and from above. -/
def expLo (p y : Nat) : Nat → Nat → Nat → Nat
  | 0, _, _ => 0
  | n + 1, i, t => t + expLo p y n (i + 1) (t * y / (2 ^ p * (i + 1)))
def expHi (p y : Nat) : Nat → Nat → Nat → Nat
  | 0, _, t => t
  | n + 1, i, t => t + expHi p y n (i + 1) (t * y / (2 ^ p * (i + 1)) + 1)
def expB (p lo hi : Nat) : Nat × Nat := (expLo p lo p 0 (2 ^ p), expHi p hi p 0 (2 ^ p))

/-- Bounds of atanh z for z ≤ 1/3, from bounds of z: Σ z^(2i+1) / (2i + 1). -/
def atanhLo (p z2 : Nat) : Nat → Nat → Nat → Nat
  | 0, _, _ => 0
  | n + 1, i, t => t / (2 * i + 1) + atanhLo p z2 n (i + 1) (t * z2 / 2 ^ p)
def atanhHi (p z2 : Nat) : Nat → Nat → Nat → Nat
  | 0, _, t => t
  | n + 1, i, t => t / (2 * i + 1) + 1 + atanhHi p z2 n (i + 1) (t * z2 / 2 ^ p + 1)

/-- Bounds of log2 r for r = m / 2^k in [1, 2). -/
def log2B (p m k : Nat) : Nat × Nat :=
  let zl := (m - 2 ^ k) * 2 ^ p / (m + 2 ^ k)
  let zh := zl + 1
  let a := (2 * atanhLo p (zl * zl / 2 ^ p) p 0 zl, 2 * atanhHi p (zh * zh / 2 ^ p + 1) p 0 zh)
  let l := ln2 p
  (a.1 * 2 ^ p / l.2, a.2 * 2 ^ p / l.1 + 1)

/-- Bounds of e^(m / 2^k), as a power of two and a factor. -/
def expOf (p m k : Nat) : Nat × Nat × Nat :=
  let l := ln2 p
  let y := m * 2 ^ p / 2 ^ k
  let n := y / l.2
  let b := expB p (y - n * l.2) (y + 1 - n * l.1)
  (n, b.1, b.2)

/-- The floor that two bounds agree on, at rising precision: v · 2^k in units of 2^−p is the bounds shifted. -/
def decided (bounds : Nat → Nat × Nat) (keep : Nat → Nat) : Nat → Nat → Nat
  | 0, p => (bounds p).1 / 2 ^ keep p
  | n + 1, p =>
    let b := bounds p
    if b.1 / 2 ^ keep p = b.2 / 2 ^ keep p then b.1 / 2 ^ keep p else decided bounds keep n (2 * p)

/-- A result too small for any format, or too large. -/
def hugeF (lt : LT) (rnd : Rnd) : Nat × Flags := roundF lt rnd false false 1 8192
def tinyF (lt : LT) (rnd : Rnd) : Nat × Flags := roundF lt rnd false false 1 (-8192)

/-- 1/x of a finite x ≠ 0. -/
def rcpFin (lt : LT) (rnd : Rnd) (neg : Bool) (m : Nat) (e : Int) : Nat × Flags :=
  sticky lt rnd neg (2 ^ 128 / m) (2 ^ 128 % m == 0) (128 + e)

/-- Integer square root, bit by bit from a power. -/
def isqrt : Nat → Nat → Nat → Nat
  | 0, _, r => r
  | n + 1, v, r => let t := r + 2 ^ n; isqrt n v (if t * t ≤ v then t else r)

/-- 1/√x of a finite x > 0: with x = m · 2^e and e even, ⌊2^128 / √m⌋. -/
def rsqrtFin (lt : LT) (rnd : Rnd) (m : Nat) (e : Int) : Nat × Flags :=
  let m' := if e % 2 = 0 then m else 2 * m
  let e' := if e % 2 = 0 then e else e - 1
  let q := 2 ^ 256 / m'
  let r := isqrt 129 q 0
  sticky lt rnd false r (r * r * m' == 2 ^ 256) (128 + e' / 2)

/-- 2^x of a finite x. -/
def exp2Fin (lt : LT) (rnd : Rnd) (neg : Bool) (m : Nat) (e : Int) : Nat × Flags :=
  if m = 0 then roundF lt rnd false false 1 0
  else
    let top := e + Nat.log2 m
    if 12 ≤ top then (if neg then tinyF lt rnd else hugeF lt rnd)
    else if top < -60 then sticky lt rnd false (if neg then 2 ^ 60 - 1 else 2 ^ 60) false 60
    else
      let k := (-e).toNat
      let v : Int := (if neg then -1 else 1) * (m * 2 ^ e.toNat : Nat)
      let n := v / (2 ^ k : Nat)
      let f := (v % (2 ^ k : Nat)).toNat
      if f = 0 then roundF lt rnd false false 1 n
      else
        let bounds := fun p => let l := ln2 p; expB p (f * l.1 / 2 ^ k) (f * l.2 / 2 ^ k + 1)
        sticky lt rnd false (decided bounds (fun p => p - 60) 4 160) false (60 - n)

/-- log2 x of a finite x > 0. -/
def log2Fin (lt : LT) (rnd : Rnd) (m : Nat) (e : Int) : Nat × Flags :=
  let k := Nat.log2 m
  let n : Int := e + k
  if m = 2 ^ k then convertF lt rnd false (ofIntF n)
  else
    let bounds := fun p =>
      let b := log2B p m k
      if 0 ≤ n then (n.toNat * 2 ^ p + b.1, n.toNat * 2 ^ p + b.2) else ((-n).toNat * 2 ^ p - b.2, (-n).toNat * 2 ^ p - b.1)
    sticky lt rnd (decide (n < 0)) (decided bounds (fun p => p - 100) 4 200) false 100

/-- 1/(1 + e^−x) of a finite x. -/
def sigmFin (lt : LT) (rnd : Rnd) (neg : Bool) (m : Nat) (e : Int) : Nat × Flags :=
  if m = 0 then roundF lt rnd false false 1 (-1)
  else
    let top := e + Nat.log2 m
    if 10 ≤ top then (if neg then tinyF lt rnd else sticky lt rnd false (2 ^ 60 - 1) false 60)
    else if top < -60 then sticky lt rnd false (if neg then 2 ^ 60 - 1 else 2 ^ 60) false 61
    else
      let k := (-e).toNat
      let v := m * 2 ^ e.toNat
      let n := (expOf 160 v k).1
      if neg then
        let bounds := fun p =>
          let x := expOf p v k
          (2 ^ (2 * p + n) / (2 ^ p + x.2.2 * 2 ^ x.1), 2 ^ (2 * p + n) / (2 ^ p + x.2.1 * 2 ^ x.1) + 1)
        sticky lt rnd false (decided bounds (fun p => p - 60) 4 160) false (60 + n)
      else
        let bounds := fun p =>
          let x := expOf p v k
          (x.2.1 * 2 ^ (x.1 + p) / (2 ^ p + x.2.1 * 2 ^ x.1), x.2.2 * 2 ^ (x.1 + p) / (2 ^ p + x.2.2 * 2 ^ x.1) + 1)
        sticky lt rnd false (decided bounds (fun p => p - 60) 4 (160 + 2 * n)) false 60

/-- tanh x of a finite x ≠ 0. -/
def tanhFin (lt : LT) (rnd : Rnd) (neg : Bool) (m : Nat) (e : Int) : Nat × Flags :=
  let top := e + Nat.log2 m
  if 6 ≤ top then sticky lt rnd neg (2 ^ 60 - 1) false 60
  else if top < -40 then sticky lt rnd neg (m * 2 ^ 40 - 1) false (40 - e)
  else
    let k := (-e).toNat
    let v := 2 * (m * 2 ^ e.toNat)
    let part := fun p x n => (x * 2 ^ n - 2 ^ p) * 2 ^ p / (x * 2 ^ n + 2 ^ p)
    let bounds := fun p => let x := expOf p v k; (part p x.2.1 x.1, part p x.2.2 x.1 + 1)
    sticky lt rnd neg (decided bounds (fun p => p - 100) 4 400) false 100

/-- The functions of R129. -/
inductive Trans where
  | rcp | rsqrt | exp2 | log2 | sigm | tanh
  deriving DecidableEq, Repr

/-- R129: special inputs by the table, any other rounded once. -/
def transF (fn : Trans) (lt : LT) (rnd : Rnd) (x : Nat) : Nat × Flags :=
  let one := (roundF lt rnd false false 1 0).1
  match decodeF lt x with
  | .nan sg => nanF lt sg
  | .inf n =>
    match fn, n with
    | .rcp, n => (signed lt n 0, 0)
    | .rsqrt, false => (0, 0)
    | .rsqrt, true => nanF lt true
    | .exp2, false => (codeInf lt, 0)
    | .exp2, true => (0, 0)
    | .log2, false => (codeInf lt, 0)
    | .log2, true => nanF lt true
    | .sigm, false => (one, 0)
    | .sigm, true => (0, 0)
    | .tanh, n => (signed lt n one, 0)
  | .fin n m e =>
    if m = 0 then
      match fn with
      | .rcp | .rsqrt => (signed lt n (codeInf lt), 0)
      | .exp2 => (one, 0)
      | .log2 => (signed lt true (codeInf lt), 0)
      | .sigm => ((roundF lt rnd false false 1 (-1)).1, 0)
      | .tanh => (x, 0)
    else
      match fn with
      | .rcp => rcpFin lt rnd n m e
      | .rsqrt => if n then nanF lt true else rsqrtFin lt rnd m e
      | .exp2 => exp2Fin lt rnd n m e
      | .log2 => if n then nanF lt true else log2Fin lt rnd m e
      | .sigm => sigmFin lt rnd n m e
      | .tanh => tanhFin lt rnd n m e

end Sys2Proof.Machine
end

