-- ==== Sys2Proof/Machine/Affine.lean ====
section
/-! DEFINITION. Accumulator arithmetic (spec/06 R111 to R115, spec/08 R157 to R167, spec/10 R178 to R185): exact values, one
rounding per part onto a column's grid, renormalisation, products and the scan network, on plain data. -/

namespace Sys2Proof.Machine

/-- An exact value m · 2^e. -/
abbrev Dy := Int × Int

def dyAdd (a b : Dy) : Dy :=
  if a.1 = 0 then b
  else if b.1 = 0 then a
  else
    let e := min a.2 b.2
    (a.1 * 2 ^ (a.2 - e).toNat + b.1 * 2 ^ (b.2 - e).toNat, e)

def dyMul (a b : Dy) : Dy := (a.1 * b.1, a.2 + b.2)

/-- `RoundNE` of m · 2^e onto the grid 2^g: the mantissa, and whether it is inexact. -/
def roundInt (v : Dy) (g : Int) : Int × Bool :=
  let r := roundMag .ne v.1.natAbs v.2 g
  (if v.1 < 0 then -(r.1 : Int) else r.1, r.2)

/-- The exact value of a finite decoded number. -/
def dyOf : FVal → Option Dy
  | .fin n m e => some (if n then -(m : Int) else m, e)
  | _ => none

/-- Fields of an entry and of an exponent pair (R111). -/
def entBM (x : BitVec 96) : Int := sInt 48 x.toNat
def entGM (x : BitVec 96) : Int := sInt 48 (x.toNat / 2 ^ 48)
def mkEnt (gm bm : Int) : BitVec 96 := BitVec.ofNat 96 (wrap 48 bm + 2 ^ 48 * wrap 48 gm)
def exB (x : BitVec 32) : Int := sInt 16 x.toNat
def exG (x : BitVec 32) : Int := sInt 16 (x.toNat / 2 ^ 16)
def mkEx (eg eb : Int) : BitVec 32 := BitVec.ofNat 32 (wrap 16 eb + 2 ^ 16 * wrap 16 eg)

/-- The largest mantissa (R111). -/
def manMax : Int := 2 ^ 47 - 1

/-- The gain part or the offset part of an entry, and of an exponent pair. -/
def entPart (gain : Bool) (x : BitVec 96) : Int := if gain then entGM x else entBM x
def exPart (gain : Bool) (x : BitVec 32) : Int := if gain then exG x else exB x
def entSet (gain : Bool) (x : BitVec 96) (m : Int) : BitVec 96 := if gain then mkEnt m (entBM x) else mkEnt (entGM x) m
def exSet (gain : Bool) (x : BitVec 32) (e : Int) : BitVec 32 := if gain then mkEx e (exB x) else mkEx (exG x) e

/-- The exponent just above a value: the least t with |v| < 2^t. -/
def dyTop (v : Dy) : Int := v.2 + Nat.log2 v.1.natAbs + 1

/-- The first k of the loop of R114: at the k that the largest magnitude asks for, or one more when a rounding reaches
2^47. -/
def renormK (e : Int) (vs : List Dy) : Nat :=
  let k := vs.foldl (fun k v => if v.1 = 0 then k else max k (dyTop v - 47 - e).toNat) 0
  if vs.any fun v => decide (manMax < (roundInt v (e + k)).1.natAbs) then k + 1 else k

/-- A column grid rises until every mantissa fits (R114), or stops at 32,767 and clamps (R115): the exponent, the mantissas
and the flags; a nonzero gain that rounds to zero sets `GUF` (R113). -/
def renorm (gain : Bool) (e : Int) (vs : List Dy) : Int × List Int × Flags :=
  let e' := e + renormK e vs
  let g := min e' 32767
  let ns := vs.map fun v => roundInt v g
  let lost := (List.zip vs ns).any fun p => gain && decide (p.1.1 ≠ 0 ∧ p.2.1 = 0)
  let past := decide (32767 < e')
  let clamp := fun (m : Int) => if manMax < m then manMax else if m < -manMax then -manMax else m
  let inexact := ns.any fun n => n.2
  (g, ns.map fun n => clamp n.1, fIf inexact fINX ||| fIf lost fGUF ||| fIf past fOVF)

/-! ### Tiles -/

/-- A row as `mzero` leaves it (R163). -/
def rowReset (f64 : Bool) : List (BitVec 96) := List.replicate 64 (if f64 then 0 else entIdentity)

/-- A row of a tile. -/
def tileRow (t : Tile) (i : Nat) : List (BitVec 96) := smGetD t.rows i (rowReset t.f64)

/-- Sets a row of a tile. -/
def setRow (t : Tile) (i : Nat) (r : List (BitVec 96)) : Tile :=
  { t with rows := smSet (rowReset t.f64) t.rows i r, used := true }

/-- One part of every column of a tile written under R113 and R114: `news i j` is the exact new value of row i (64 for the
carry, R179) of column j, where the instruction writes it. -/
def tileWrite (gain : Bool) (news : Nat → Nat → Option Dy) (t : Tile) : Tile × Flags :=
  let rows := (List.range 64).map (tileRow t)
  let cols := (List.range 64).map fun j =>
    let e := exPart gain (t.ex.getD j 0)
    let ms := (rows.map fun r => entPart gain (r.getD j 0)) ++ [entPart gain (t.cy.getD j 0)]
    let ns := (List.range 65).map fun i => news i j
    if ns.all Option.isNone then (e, ms, (0 : Flags))
    else renorm gain e (List.zipWith (fun n m => n.getD (m, e)) ns ms)
  let put := fun (i : Nat) (r : List (BitVec 96)) => List.zipWith (fun x c => entSet gain x (c.2.1.getD i 0)) r cols
  let t1 := { t with
    ex := List.zipWith (fun x (c : Int × List Int × Flags) => exSet gain x c.1) t.ex cols, cy := put 64 t.cy }
  ((List.range 64).foldl (fun acc i => setRow acc i (put i (tileRow t i))) t1,
    cols.foldl (fun f c => f ||| c.2.2) 0)

/-- `mzero` (R163, R179). -/
def tileZero (f64 : Bool) : Tile := { f64 := f64, used := true }

/-- `acnorm` on one part of a column (R167): the smallest exponent at which every mantissa is an integer that fits. -/
def normCol (e : Int) (ms : List Int) : Int × List Int :=
  let top := ms.foldl (fun k m => if m = 0 then k else max k (Nat.log2 m.natAbs + 1)) 0
  if top = 0 then (-32768, ms)
  else
    let e' := max (e - (47 - top : Nat)) (-32768)
    (e', ms.map fun m => m * 2 ^ (e - e').toNat)

/-- `acnorm` on a tile, the carry taking part (R167, R179). -/
def tileNorm (gain : Bool) (t : Tile) : Tile :=
  let rows := (List.range 64).map (tileRow t)
  let cols := (List.range 64).map fun j =>
    normCol (exPart gain (t.ex.getD j 0)) ((rows.map fun r => entPart gain (r.getD j 0)) ++ [entPart gain (t.cy.getD j 0)])
  let put := fun (i : Nat) (r : List (BitVec 96)) => List.zipWith (fun x c => entSet gain x (c.2.getD i 0)) r cols
  let t1 := { t with ex := List.zipWith (fun x (c : Int × List Int) => exSet gain x c.1) t.ex cols, cy := put 64 t.cy }
  (List.range 64).foldl (fun acc i => setRow acc i (put i (tileRow t i))) t1

/-! ### Scan network -/

/-- One composition (R183): mantissas on the column's grids, one rounding per part. -/
def scanComp (eg eb : Int) (x y : Int × Int) : (Int × Int) × Flags :=
  let gx : Dy := (x.1 * y.1, 2 * eg)
  let bx := dyAdd (x.1 * y.2, eg + eb) (x.2, eb)
  let g := roundInt gx eg
  let b := roundInt bx eb
  ((g.1, b.1), fIf (decide (gx.1 ≠ 0 ∧ g.1 = 0)) fGUF ||| fIf (g.2 || b.2) fINX)

/-- The levels of the network. -/
def scanNet (eg eb : Int) : Nat → Nat → List (Int × Int) → Flags → List (Int × Int) × Flags
  | 0, _, u, f => (u, f)
  | n + 1, l, u, f =>
    let rs := List.zipWith (scanComp eg eb) (u.drop (2 ^ l)) u
    scanNet eg eb n (l + 1) (u.take (2 ^ l) ++ rs.map (·.1)) (rs.foldl (fun f r => f ||| r.2) f)

/-- One column: rows 0 to n − 1 composed with the carry. -/
def scanCol (eg eb : Int) (xs : List (Int × Int)) (cy : Int × Int) : List (Int × Int) × Flags :=
  let x := scanNet eg eb 6 0 xs 0
  let ys := x.1.map fun u => scanComp eg eb u cy
  (ys.map (·.1), ys.foldl (fun f r => f ||| r.2) x.2)

/-- A scan from what beat 0 read (R183, R184): `afcomp` writes only the carry (R188). -/
def tileScan (comp : Bool) (n : Nat) (rows : List (List (BitVec 96))) (cy : List (BitVec 96)) (ex : List (BitVec 32))
    (t : Tile) : Tile × Flags :=
  let cols := (List.range 64).map fun j =>
    let pair := fun (x : BitVec 96) => (entGM x, entBM x)
    let e := ex.getD j 0
    (e, scanCol (exG e) (exB e) ((rows.take n).map fun r => pair (r.getD j 0)) (pair (cy.getD j 0)))
  let arr := cols.toArray
  let news := fun (gain : Bool) (i j : Nat) =>
    let c := arr.getD j (0, [], 0)
    let at_ := fun (k : Nat) => let y := c.2.1.getD k (0, 0); some ((if gain then y.1 else y.2, exPart gain c.1) : Dy)
    if i = 64 then at_ (n - 1) else if i < n ∧ !comp then at_ i else none
  let a := tileWrite true (news true) t
  let b := tileWrite false (news false) a.1
  (b.1, cols.foldl (fun f c => f ||| c.2.2) (a.2 ||| b.2))

/-! ### Products -/

/-- The lane type of an element format. -/
def efLt : EF → LT
  | .i8 => .i8 | .e4m3 => .e4m3 | .e5m2 => .e5m2 | .e2m1 => .e2m1 | .bf16 => .bf16 | .f16 => .f16 | .f64 => .f64

/-- Element codes of a data row (R146). -/
def rowCodes (ef : EF) (r : BitVec 1024) : List Nat := lanesOf (efLt ef).width (1024 / (efLt ef).width) r.toNat

/-- `Dec` (R104 to R106, R157, R158): none for a NaN or an infinity; `alt` is the block's alternate byte. -/
def elemDec (ef : EF) (alt q : Nat) : Option Dy :=
  match ef with
  | .i8 => some (sInt 8 q, 0)
  | .e2m1 => if q = 8 then some (sInt 8 alt, -1) else dyOf (decodeF .e2m1 q)
  | _ => dyOf (decodeF (efLt ef) q)

/-- Byte of a side row (R147). -/
def sideByte (s : BitVec 128) (i : Nat) : Nat := bits s.toNat (8 * i) 8

/-- The decoded elements of a row, or of K-block kb of it with its alternate. -/
def rowElems (ef : EF) (r : BitVec 1024) : List (Option Dy) := (rowCodes ef r).map (elemDec ef 0)
def blockElems (ef : EF) (kb : Nat) (r : BitVec 1024) (s : BitVec 128) : List (Option Dy) :=
  ((rowCodes ef r).drop (32 * kb) |>.take 32).map (elemDec ef (sideByte s (8 + kb)))

/-- Σ of the products of kept elements with the elements at their positions (R157, R160): a NaN or infinite term is zero
and marks the sum. -/
def dotAt : List (Option Dy) → List Nat → Array (Option Dy) → Dy → Bool → Dy × Bool
  | x :: xs, i :: is, b, d, bad =>
    match x, b.getD i (some (0, 0)) with
    | some u, some v => dotAt xs is b (dyAdd d (dyMul u v)) bad
    | _, _ => dotAt xs is b d true
  | _, _, _, d, bad => (d, bad)

/-- The kept elements of one row under its metadata (R161): their positions, and whether a group is out of order; such a
group contributes nothing. -/
def sparsePick (groups : Nat) (meta_ : Nat) (kept : List (Option Dy)) : List (Option Dy) × List Nat × Bool :=
  (List.range groups).foldl (fun acc g =>
    let i0 := bits meta_ (4 * g) 2
    let i1 := bits meta_ (4 * g + 2) 2
    if i1 ≤ i0 then (acc.1, acc.2.1, true)
    else (acc.1 ++ [kept.getD (2 * g) (some (0, 0)), kept.getD (2 * g + 1) (some (0, 0))],
          acc.2.1 ++ [4 * g + i0, 4 * g + i1], acc.2.2)) ([], [], false)

/-- The metadata of row i of a record. -/
def metaRow (record : BitVec 8192) (i : Nat) : Nat := bits record.toNat (128 * i) 128

/-- The elements of row i of A that a product takes, with their positions along K. -/
def prodA (kind : ProdKind) (i : Nat) (r : BitVec 1024) (s : BitVec 128) : List (Option Dy) × List Nat × Bool :=
  match kind with
  | .mma ef _ _ _ => let a := rowElems ef r; (a, List.range a.length, false)
  | .mmab ef _ kb => (blockElems ef kb r s, List.range 32, false)
  | .mmas ef (.tile _ _ _) record => sparsePick 32 (metaRow record i) ((rowElems ef r).take 64)
  | .mmas ef (.plane _ kb) record =>
    sparsePick 8 (metaRow record i) (((rowCodes ef r).drop (16 * kb) |>.take 16).map (elemDec ef (sideByte s (8 + kb))))

/-- The elements of column j of B along K. -/
def prodB (kind : ProdKind) (rows : Array (BitVec 1024)) (side : Array (BitVec 128)) (j : Nat) : Array (Option Dy) :=
  let r := rows.getD j 0
  match kind with
  | .mma ef _ _ _ => (rowElems ef r).toArray
  | .mmab ef _ kb => (blockElems ef kb r (side.getD j 0)).toArray
  | .mmas ef (.tile _ _ _) _ =>
    (if ef == .i8 then rowElems ef r else rowElems ef r ++ rowElems ef (rows.getD (64 + j) 0)).toArray
  | .mmas ef (.plane _ kb) _ => (blockElems ef kb r (side.getD j 0)).toArray

/-- One row of products: 64 exact sums, and whether a term was not finite or a group out of order. -/
def prodRow (kind : ProdKind) (i : Nat) (a : BitVec 1024 × BitVec 128) (bs : List (Array (Option Dy))) : List Dy × Bool :=
  let x := prodA kind i a.1 a.2
  let ds := bs.map fun b => dotAt x.1 x.2.1 b (0, 0) false
  (ds.map (·.1), x.2.2 || ds.any (·.2))

/-- One row of `mma.f64` (R112, R157): products enter in k order, each with one fused rounding. -/
def f64Row (a : BitVec 1024) (bs : List (BitVec 1024)) (old : List (BitVec 96)) : List (BitVec 96) × Flags :=
  let xs := rowCodes .f64 a
  let rs := List.zipWith (fun (f : BitVec 96) b =>
    (List.zip xs (rowCodes .f64 b)).foldl (fun (acc : Nat × Flags) p =>
      let r := fmaF .f64 .ne (decodeF .f64 p.1) (decodeF .f64 p.2) (decodeF .f64 acc.1)
      (r.1, acc.2 ||| r.2)) (f.toNat % 2 ^ 64, 0)) old bs
  (rs.map fun r => BitVec.ofNat 96 r.1, rs.foldl (fun f r => f ||| r.2) 0)

end Sys2Proof.Machine
end

