-- ==== Sys2Proof/Machine/Requests.lean ====
section
/-! DEFINITION. Requests of the tile-walk engine (spec/11 R192 to R201, spec/17 R296 to R300): policies, result words,
promises, contexts, pieces, the order in which pieces may perform, and barriers. -/

namespace Sys2Proof.Machine

/-! ### Policy and results -/

/-- A working copy of a policy entry (R37, R61). -/
structure Pol where
  ord   : Nat
  scope : Nat
  space : Nat
  cache : Nat
  deriving DecidableEq, Repr

/-- The entry that `POL` selects (R60). -/
def polEntry (c : Ctx) (n : Nat) : Nat :=
  if n = 0 then c.mempol.toNat
  else if n ≤ 4 then bits c.poltabl.toNat (16 * (n - 1)) 16
  else bits c.poltabh.toNat (16 * (n - 5)) 16

def polOf (e : Nat) : Pol := ⟨bits e 0 2, bits e 2 3, bits e 5 3, bits e 8 2⟩

/-- The fallbacks of R61, in order: none when the request is refused; and whether a row applied. -/
def fallback (peer atomic stamp : Bool) (p : Pol) : Option Pol × Bool :=
  if p.space = 1 ∧ !peer then (none, true)
  else
    let p2 := if p.space = 1 ∧ p.cache ≠ 2 then { p with cache := 2 } else p
    let p3 := if p2.space = 1 ∧ p2.scope = 4 then { p2 with scope := 3 } else p2
    let p4 := if p3.space = 0 ∧ p3.scope = 0 then { p3 with scope := 1 } else p3
    let p5 := if atomic ∧ p4.cache = 1 then { p4 with cache := 0 } else p4
    let p6 := if stamp ∧ p5.ord < 2 then { p5 with ord := p5.ord + 2 } else p5
    (some p6, p6 != p)

/-- A status word (R194). -/
def statusW (code val : Nat) : Word := BitVec.ofNat 64 (2 ^ 63 + val % 2 ^ 32 * 2 ^ 16 + code)

def stDone : Word := statusW 0 0
def stAccepted : Word := statusW 1 0
def stRefused : Word := statusW 2 0
def stBusy : Word := statusW 3 0
def stBadarg : Word := statusW 4 0

/-- A promise word. -/
def promiseW (t : Nat) : Word := BitVec.ofNat 64 (t % 2 ^ 63)

/-! ### Promises -/

def ceilDiv (a b : Nat) : Nat := (a + b - 1) / b

/-- Nominal period of a source in house ticks (R241): numerator and denominator; the house source has one tick. -/
def sourcePeriod (s : State) (n : Nat) : Nat × Nat :=
  if n = 0 then (1, 1) else let x := smGetD s.sources n {}; (x.pnum, x.pden)

/-- Parts of a house tick, times M · PDEN, in which a region's clock counts: the bounds of R246 are whole numbers of them, and the rate
follows a source in steps far below a millionth. -/
def clockScale : Nat := 909 * 2 ^ 12

/-- The parts of a house tick for a region of `m` cycles a frame (R242). -/
def clockDen (s : State) (m src : Nat) : Nat := m * (sourcePeriod s src).2 * clockScale

/-- Nanoseconds as cycles of a region at 1.01 times its nominal clock, rounded up (R196, R251). -/
def nsCycles (s : State) (r : Region) (ns : Nat) : Nat :=
  let p := sourcePeriod s r.src
  ceilDiv (ns * 101 * p.2 * r.m) (1000 * p.1 * r.d)

/-- Die of a physical address (R302). -/
def paDie (pa : Nat) : Nat :=
  match paKind pa with
  | .hbm st _ => st / 3
  | .slice die _ _ => die
  | .kiln die _ => die
  | .nothing => 0

/-- The slowest bound among pages that `n` bytes touch (R196): none when one is of class 2; pages that do not translate
count for nothing. -/
def boundNs (s : State) (core part bit : Nat) (ranges : List (Nat × Nat)) (least : Nat) : Option Nat :=
  (ranges.flatMap fun r => if r.2 = 0 then [] else
      (List.range ((r.1 + r.2 - 1) / 65536 - r.1 / 65536 + 1)).map fun i => max r.1 ((r.1 / 65536 + i) * 65536)).foldl
    (fun b va =>
      match b, classOf s (core / 16) part bit va with
      | none, _ => none
      | some n, none => some n
      | some n, some x =>
        if x.lcls = 2 then none
        else some (max n (if x.lcls = 1 then 457 else if paDie x.pa = core / 256 then 57 else 107)))
    (some least)

/-- An atomic or reduction, to which acquire applies (R300). -/
def isAtomic : ReqKind → Bool
  | .atomic _ _ _ _ _ => true
  | .rdc _ _ _ _ _ _ => true
  | _ => false

/-- A request that holds its context: not complete, or its promise tick not reached (R192). -/
def holdsContext (s : State) (r : Req) : Bool :=
  r.context && (!r.complete || match r.promise with | some t => decide (coreTick s r.core < t) | none => false)

/-- Contexts in use: four a core, and one for its handlers (R192). -/
def contextsUsed (s : State) (core : Nat) (service : Bool) : Nat :=
  s.reqs.countP fun (x : Nat × Req) => x.2.core == core && x.2.service == service && holdsContext s x.2
def contextFree (s : State) (core : Nat) (service : Bool) : Bool :=
  decide (contextsUsed s core service < if service then 1 else 4)

/-- The tick from which a promise counts (R196): later for a release, and behind an outstanding acquire; none behind a
request without a promise. -/
def promiseBase (s : State) (core ord : Nat) : Option Nat :=
  s.reqs.foldl (fun b x =>
    let r := x.2
    if r.core = core ∧ ((isAtomic r.kind && r.ord % 2 == 1 && !r.complete) || (2 ≤ ord && r.context)) then
      match b, r.promise with
      | none, _ => none
      | some t, some p => some (max t p)
      | some t, none => if r.complete then some t else none
    else b) (some (coreTick s core))

/-- A promise over `lines` lines with a bound (R196). -/
def promiseTick (s : State) (core ord lines : Nat) (ns : Option Nat) : Option Nat :=
  match ns, promiseBase s core ord with
  | some b, some t => some (t + nsCycles s (coreRegion s core) (b + 2 * (lines - 1)))
  | _, _ => none

/-- The partition under which a core's requests run: partition 0 for a service handler. -/
def reqPart (s : State) (core : Nat) : Nat := if (getCore s core).svc.isSome then 0 else corePart s core

/-- The block that a core's requests belong to; 0 for a handler or a kernel context. -/
def reqBid (k : Core) : Nat := if k.svc.isSome then 0 else (k.blk.map (·.bid)).getD 0

/-- Traffic class of a request (R268). -/
def trafficClass (r : Req) : Nat :=
  match r.kind, r.promise with
  | .rdc _ _ _ _ _ _, _ => 1
  | _, some _ => 0
  | _, none => 2

/-- A request packet from a core's cluster to the home of a physical address, on the slice's home channel, by the bridge from another
die (R264, R268). -/
def postTo (s : State) (core part cls n line pa : Nat) : State :=
  match homeSlice s part pa with
  | none => s
  | some (die, k) =>
    postPacket s (128 * die + k) ⟨if die = core / 256 then core / 16 % 16 else 16, cls, part, n, line, false⟩

/-- A data packet from the home of a physical address to a core's cluster, on one of its four receive channels (R264, R268). -/
def postFrom (s : State) (core part cls n line pa : Nat) : State :=
  match homeSlice s part pa with
  | none => s
  | some (die, k) =>
    postPacket s (128 * (core / 256) + 64 + 4 * (core / 16 % 16) + line % 4)
      ⟨if die = core / 256 then k / 4 else 16, cls, part, n, line, false⟩

/-- Reads bytes within a page for the fetch channel (R231); its packets are of class 1 (R268). -/
def fetchBytes (s : State) (core va n : Nat) : State × Except Nat (List Byte) :=
  match translate s (core / 16) (corePart s core) 0 va with
  | (s1, .error e) => (s1, .error e)
  | (s1, .ok x) => (postOwnN s1 core (corePart s core) va x.pa n, physRead s1 (some x.key) x.pa n)

/-- The request packet of a line, and the packet that brings its data. -/
def postLine (s : State) (n : Nat) (r : Req) (bit va : Nat) : State :=
  match classOf s (r.core / 16) r.part bit va with
  | none => s
  | some x => postTo s r.core r.part (trafficClass r) n (va / 256) x.pa
def postReturn (s : State) (n : Nat) (r : Req) (bit va : Nat) : State :=
  match classOf s (r.core / 16) r.part bit va with
  | none => s
  | some x => postFrom s r.core r.part (trafficClass r) n (va / 256) x.pa

/-- The token of the cycle in which a core's port works: one landing in each (R199), and no landing after a read of that cycle
(R200). -/
def portCycle (s : State) (core : Nat) : Nat :=
  let r := coreRegion s core
  if r.ren && r.st != .stopped then 2 * r.clk else 2 * s.tick + 1

/-- Whether a channel is a home channel: its packets are requests, those of the others bring data (R264). -/
def homeChan (c : Nat) : Bool := decide (c % 128 < 64)

/-- Whether a packet of a request for a line still waits for its slot (R265, R266): the bytes move only once it is sent. -/
def packetWaits (s : State) (home : Bool) (n line : Nat) : Bool :=
  s.chans.any fun c => homeChan c.1 == home && c.2.ready.any fun p => !p.own && p.req == n && p.line == line
def runWaits (s : State) (home : Bool) (n : Nat) : Loc → Bool
  | .virt va => packetWaits s home n (va / 256)
  | _ => false

/-- Whether what a piece of a request brings still waits for its data packet: the old value of an atomic for that of its line. -/
def dataWaits (s : State) (n : Nat) (r : Req) (p : Piece) : Bool :=
  match r.kind with
  | .atomic _ _ ea _ _ => packetWaits s false n (ea / 256)
  | _ => runWaits s false n p.src

/-- Packets of a request leave the channels that are not degraded: what the wheel does within the bounds of R269, at the latest when the
promise falls due. Where the slots of R266 would not do by then, R269 goes before R265 (log 7). -/
def flushPackets (n : Nat) (s : State) : State :=
  { s with chans := s.chans.map fun c =>
      if c.2.woffNow = 0 then (c.1, { c.2 with ready := c.2.ready.filter fun p => p.own || p.req != n }) else c }

/-- Lines of the virtual space that a request's pieces touch, with the engine bit. -/
def reqLines (r : Req) : List (Nat × Nat) :=
  (r.pieces.flatMap fun p =>
    (match p.src with | .virt va => [(r.rdBit, va / 256)] | _ => []) ++
    (match p.dst with | .virt va => [(r.wrBit, va / 256)] | _ => [])).foldr
      (fun x l => if l.head? = some x then l else x :: l) []

/-- Adds a request; its packets become ready on the crossbar (R266). -/
def addReq (s : State) (r : Req) : State :=
  let s1 := { s with reqs := smPut s.reqs s.nextReq r, nextReq := s.nextReq + 1 }
  (reqLines r).foldl (fun s x => postLine s (s1.nextReq - 1) r x.1 (256 * x.2)) s1

def getReq (s : State) (n : Nat) : Req := smGetD s.reqs n { core := 0, bid := 0, part := 0, kind := .copy, complete := true }
def setReq (s : State) (n : Nat) (r : Req) : State := { s with reqs := smPut s.reqs n r }

/-- A request with the fields that depend on the core alone. -/
def blankReq (s : State) (core : Nat) (kind : ReqKind) (p : Pol) : Req :=
  { core := core, bid := reqBid (getCore s core), part := reqPart s core, kind := kind, ord := p.ord, scope := p.scope,
    cache := p.cache, tick := coreTick s core, service := (getCore s core).svc.isSome }

/-- Issues a request (R192, R195 step 4, R196): `BUSY`, or its promise, or `ACCEPTED`. -/
def sendReq (s : State) (r : Req) (lines : Nat) (ns : Option Nat) : State × Word :=
  if contextFree s r.core r.service then
    let t := promiseTick s r.core r.ord lines ns
    (addReq s { r with promise := t }, match t with | some t => promiseW t | none => stAccepted)
  else (s, stBusy)

/-! ### Pieces -/

/-- The number that stands for a core's own memory in requests: its scratchpad, or the data window of its handlers. -/
def selfSpad (k : Core) (core : Nat) : Nat := if k.svc.isSome then 1024 + core else core

/-- A location further on. -/
def locAt (l : Loc) (i : Nat) : Loc :=
  match l with
  | .virt va => .virt (va + i)
  | .spad c a => .spad c (a + i)
  | .slot c o off => .slot c o (off + i)
  | l => l

/-- Cuts [i, n) wherever a base plus the offset is a multiple of its step. -/
def cutRun : Nat → List (Nat × Nat) → Nat → Nat → List (Nat × Nat)
  | 0, _, _, _ => []
  | fuel + 1, bases, i, n =>
    if n ≤ i then []
    else
      let e := bases.foldl (fun e b => min e (i + b.2 - (b.1 + i) % b.2)) n
      (i, e - i) :: cutRun fuel bases e n

/-- The cuts that a location asks for (R199, R297): doublewords at a home, blocks of 256 bytes at a landing port. -/
def locCut (own : Nat) (dst : Bool) : Loc → List (Nat × Nat)
  | .virt va => [(va, 8)]
  | .spad c a => if dst then [(a, 256)] else if c = own then [] else [(a, 8)]
  | .slot _ _ off => [(off, 256)]
  | _ => []

/-- The pieces of a run of `n` bytes. -/
def mkPieces (own : Nat) (src dst : Loc) (n : Nat) (bar : Option (Nat × Nat)) : List Piece :=
  (cutRun n (locCut own false src ++ locCut own true dst) 0 n).map fun c =>
    { src := locAt src c.1, dst := locAt dst c.1, len := c.2, bar := bar }

/-- Bytes of a core's scratchpad, or of a data window for numbers from 1,024. -/
def spadBytes (s : State) (c a n : Nat) : List Byte :=
  if c < 1024 then mReadN (getCore s c).spad a n else mReadN s.store (windowAt (c - 1024) + a) n
def spadPut (s : State) (c a : Nat) (bs : List Byte) : State :=
  if c < 1024 then setCore s c (spadWrite (getCore s c) a bs)
  else { s with store := mWriteN s.store (windowAt (c - 1024) + a) bs }

/-- Where bytes stand, as a home with an address: a partition's virtual space, a scratchpad, a slot. -/
def homeOf (part : Nat) : Loc → Option (Nat × Nat)
  | .virt va => some (part, va)
  | .spad c a => some (16 + c, a)
  | .slot c o off => some (4096 + 32 * c + o, off)
  | _ => none

/-- Whether two runs share a byte of one space. -/
def locsMeet (p1 : Nat) (l1 : Loc) (n1 : Nat) (p2 : Nat) (l2 : Loc) (n2 : Nat) : Bool :=
  match homeOf p1 l1, homeOf p2 l2 with
  | some (h, a), some (h', b) => h == h' && decide (a < b + n2) && decide (b < a + n1)
  | _, _ => false

/-- Whether two runs of requests of one cluster share a byte at its home (R299): also one that two virtual addresses, or two
partitions, reach. -/
def touchMeet (s : State) (cl p1 : Nat) (l1 : Loc) (n1 p2 : Nat) (l2 : Loc) (n2 : Nat) : Bool :=
  locsMeet p1 l1 n1 p2 l2 n2 ||
  match l1, l2 with
  | .virt a, .virt b =>
    match paOf s cl p1 a, paOf s cl p2 b with
    | some x, some y => decide (x < y + n2) && decide (y < x + n1)
    | _, _ => false
  | _, _ => false

/-- Whether a source counts as an access at a home: not the requester's own scratchpad (R200, R296). -/
def srcAtHome (r : Req) (p : Piece) : Bool :=
  match p.src with
  | .virt _ => true
  | .spad c _ => c != r.core && c != 1024 + r.core
  | _ => false

/-- Whether a piece of a request has still to touch a run. -/
def stillTouches (s : State) (r : Req) (p : Piece) (part : Nat) (l : Loc) (n : Nat) : Bool :=
  (p.stage == 0 && srcAtHome r p && touchMeet s (r.core / 16) r.part p.src p.len part l n) ||
  (decide (p.stage < 2) && touchMeet s (r.core / 16) r.part p.dst p.len part l n)

/-- Whether the descriptor of a stream of a cluster, opened before request `n`, has still to be read from a run (R211, R218). -/
def descTouches (s : State) (n cl part : Nat) (l : Loc) (len : Nat) : Bool :=
  (getTwe s cl).streams.any fun x => x.2.isOpen && x.2.desc.isNone && !x.2.failed && decide (x.2.num < n) &&
    touchMeet s cl x.2.part (.virt x.2.descVa) 64 part l len

/-- R299 case 1: an earlier request of the cluster, but for some, that has still to touch the run. -/
def earlierTouchBut (s : State) (skip : List Nat) (n : Nat) (r : Req) (l : Loc) (len : Nat) : Bool :=
  descTouches s n (r.core / 16) r.part l len ||
  s.reqs.any fun x => decide (x.1 < n) && x.2.core / 16 == r.core / 16 && !x.2.complete && !skip.contains x.1 &&
    (x.2.pieces.any fun p => stillTouches s x.2 p r.part l len)
def earlierTouch (s : State) (n : Nat) (r : Req) (l : Loc) (len : Nat) : Bool := earlierTouchBut s [] n r l len

/-! ### Translation of a piece -/

/-- An access of a request to a virtual run within a page (R217, R227, R314): where it goes, or the reason and address of
its fault. -/
def virtAccess (s : State) (r : Req) (bit va n : Nat) (rd : Bool) : State × Except (Nat × Nat) Xlat :=
  match translate s (r.core / 16) r.part bit va with
  | (s1, .error e) => (s1, .error (e, if e = 14 then va / 256 * 256 else va))
  | (s1, .ok x) =>
    if keyRevoked s x.key && (match paKind x.pa with | .kiln _ _ => false | _ => true) then (s1, .error (12, va))
    else if rd && poisoned s (x.pa / 256 * 256) 256 && decide (0 < n) then (s1, .error (13, va / 256 * 256))
    else (s1, .ok x)

/-- A faulting access of a piece, if it has one now: the stop that reports it. -/
def pieceFault (s : State) (r : Req) (p : Piece) : Option Stop :=
  let mk := fun (eng : Nat) (e : Nat × Nat) =>
    ({ cause := reasonCause e.1, engine := eng, reason := e.1, va := some e.2 } : Stop)
  let rd : Option Stop :=
    if p.stage ≠ 0 then none
    else
      match p.src with
      | .virt va => match (virtAccess s r r.rdBit va p.len true).2 with | .error e => some (mk r.rdEng e) | .ok _ => none
      | .spad c a => if c < 1024 ∧ spadBad (getCore s c) a p.len then some (mk (if srcAtHome r p then r.rdEng else r.wrEng) (13, a))
          else none
      | _ => none
  let wr : Option Stop :=
    if 2 ≤ p.stage then none
    else
      match p.dst with
      | .virt va => match (virtAccess s r r.wrBit va p.len false).2 with | .error e => some (mk r.wrEng e) | .ok _ => none
      | _ => none
  match rd with
  | some e => some e
  | none => wr

/-- The fault of a request with the lowest address (R225). -/
def reqFault (s : State) (r : Req) : Option Stop :=
  r.pieces.foldl (fun best p =>
    match best, pieceFault s r p with
    | none, f => f
    | some b, some f => if f.va.getD 0 < b.va.getD 0 then some f else some b
    | b, none => b) none

/-! ### Scopes and order -/

/-- Whether every page that a request writes translates (R298). -/
def writesTranslate (s : State) (r : Req) : Bool :=
  r.pieces.all fun p =>
    match p.dst with
    | .virt va => decide (2 ≤ p.stage) || (classOf s (r.core / 16) r.part r.wrBit va).isSome
    | _ => true

/-- The die of the home of an address, by its translation for an access. -/
def homeDie (s : State) (r : Req) (bit va : Nat) : Option Nat := (classOf s (r.core / 16) r.part bit va).map fun x => paDie x.pa

/-- A step of a stream: a request of the engine, which no core issued (R210). -/
def isStep : ReqKind → Bool
  | .step _ _ _ => true
  | _ => false

/-- An atomic that has performed at the slice. -/
def atomicDone (r : Req) : Bool :=
  match r.kind with
  | .atomic _ _ _ _ _ => r.mid
  | _ => false

/-- R209: whether no earlier acquire of the core is outstanding. -/
def acquireOk (s : State) (n : Nat) (r : Req) : Bool :=
  s.reqs.all fun x => decide (n ≤ x.1) || x.2.core != r.core || isStep x.2.kind || !(isAtomic x.2.kind && x.2.ord % 2 == 1) ||
    atomicDone x.2 || x.2.complete

/-- Whether a piece lands in the memories of the core that issued its request. -/
def landsHere (r : Req) : Loc → Bool
  | .spad c _ => c == r.core || c == 1024 + r.core
  | .slot c _ _ => c == r.core
  | _ => false

/-- Whether a piece has performed at a scope, the order of its request apart (R208, R298). A landing, also one in a peer, has performed
once it has landed. Of a write to the virtual space, at core scope the bytes that leave the core's own memory have been read; at cluster
scope the engine holds the bytes; at die scope they are in the bridge lane. -/
def pieceAt (s : State) (r : Req) (scope : Nat) (p : Piece) : Bool :=
  p.stage == 2 ||
  (match scope with
    | 0 => (match p.dst, p.src with
        | .virt _, .spad _ _ => srcAtHome r p || decide (1 ≤ p.stage)
        | .virt _, _ => true
        | _, _ => false)
    | 1 => (match p.dst with | .virt _ => p.stage == 1 && writesTranslate s r | _ => false)
    | 2 => p.stage == 1 && p.lane.isSome
    | _ => false)

/-- Whether a request has performed at a scope (R208, R298, R300), with fuel for the earlier requests that a release at cluster scope
waits for. -/
def reqAtN : Nat → State → Nat → Req → Nat → Bool
  | 0, _, _, r, _ => r.complete
  | fuel + 1, s, n, r, scope =>
    r.complete ||
    (match r.kind with
      | .copy | .walk | .stamp | .step _ _ _ =>
        r.pieces.all (pieceAt s r scope) &&
        (scope != 1 || r.scope != 1 || (acquireOk s n r && (decide (r.ord < 2) ||
          s.reqs.all fun x => decide (n ≤ x.1) || x.2.core != r.core || isStep x.2.kind || reqAtN fuel s x.1 x.2 1)))
      | .atomic _ _ _ _ _ => r.mid && r.pieces.all fun p => p.stage == 2
      | .rdc _ _ _ _ _ _ => scope == 0 && r.pieces.all (pieceAt s r scope)
      | _ => false)

/-- Whether request `n` has performed at a scope. -/
def reqAt (s : State) (n : Nat) (r : Req) (scope : Nat) : Bool := reqAtN (s.reqs.length + 1) s n r scope

/-- R207, R300: whether what a release waits for has performed at its scope. -/
def releaseOk (s : State) (n : Nat) (r : Req) : Bool :=
  r.ord < 2 || s.reqs.all fun x => decide (n ≤ x.1) || x.2.core != r.core || isStep x.2.kind || reqAt s x.1 x.2 r.scope

/-- A fault that a request's core is to take (R195), `own` when it is of the core's own memory (R295); nothing when its block has
ended (R291). -/
def postFaultAs (own : Bool) (s : State) (n : Nat) (r : Req) (e : Stop) : State :=
  let k := getCore s r.core
  let live : Bool := r.service || match k.blk with
    | some b => b.bid == r.bid && !b.exited
    | none => r.bid == 0
  if live && k.run != .fenced then setCore s r.core { k with faults := k.faults ++ [⟨0, n, e, own⟩] } else s
def postFault (s : State) (n : Nat) (r : Req) (e : Stop) : State := postFaultAs false s n r e

/-- Whether a piece stands in the lane of a partition from one die to another, ahead of request `n` (R298). -/
def laneHolds (s : State) (n part src dst : Nat) (y : Req) : Bool :=
  y.part == part && y.core / 256 == src && y.pieces.any fun p =>
    p.stage == 1 && (p.lane.any (· ≤ n)) &&
      (match p.dst with | .virt w => homeDie s y y.wrBit w == some dst | _ => false)

/-- The bridge lane of R298: whether nothing that entered it before request `n` was issued has still to perform at the home's die. -/
def laneOk (s : State) (n : Nat) (r : Req) (bit va : Nat) : Bool :=
  match homeDie s r bit va with
  | none => true
  | some die => die == r.core / 256 || s.reqs.all fun y => !laneHolds s n r.part (r.core / 256) die y.2

/-- Whether a request may touch a run at its home now (R209, R298 to R300). -/
def mayTouch (s : State) (n : Nat) (r : Req) (l : Loc) (len : Nat) : Bool :=
  !earlierTouch s n r l len && releaseOk s n r && acquireOk s n r

/-! ### Landing in slots, pending fills -/

/-- The slot of a core that a run lies in. -/
def inSlot (core : Nat) (o : Fin 24) : Loc → Option Nat
  | .slot c o' off => if c = core ∧ o' = o.val then some off else none
  | _ => none

/-- Rows of a slot (data rows 0 to 63; a side row counts as its data row) on which requests of the core have landings
pending, with the promise of each (R198). -/
def pendingRows (s : State) (core : Nat) (o : Fin 24) : List (Option Nat × List Nat) :=
  (s.reqs.filter fun x => x.2.core == core && !x.2.complete).filterMap fun x =>
    let rows := x.2.pieces.flatMap fun p =>
      match inSlot core o p.dst with
      | some off =>
        if 2 ≤ p.stage then []
        else
          let row := fun (b : Nat) => if b < 8192 then b / 128 else (b - 8192) / 16
          (List.range (row (off + p.len - 1) - row off + 1)).map fun i => row off + i
      | none => []
    if rows.isEmpty then none else some (x.2.promise, rows)

/-- R198: whether a product that reads rows at given cycles (by row) of a slot meets a pending landing. `c` and `tick` are
the cycle and region tick of its issue. -/
def fillConflict (s : State) (core : Nat) (o : Fin 24) (reads : List (Nat × Nat)) (c tick : Nat) : Bool :=
  (pendingRows s core o).any fun p =>
    let ts := (reads.filter fun r => p.2.contains r.1).map (·.2)
    match ts.min?, p.1 with
    | none, _ => false
    | some _, none => true
    | some t, some promised => decide (tick + (t - c) ≤ promised)

/-! ### Barriers -/

/-- Address of a barrier object (R201). -/
def barAddr (n : Nat) : Nat := 0x3FE00 + 8 * n

/-- The object after a count (R201), and whether it overflows. -/
def barCounted (v count : Nat) (voidn : Bool) : Nat × Bool :=
  let pend := bits v 0 24
  let v1 := if voidn && !v.testBit 26 then v + 2 ^ 26 else v
  if v.testBit 25 && decide (count ≤ pend) then
    let p := pend - count
    if p = 0 then ((v1 - pend - 2 ^ 25) - bits v 24 1 * 2 ^ 24 + (1 - bits v 24 1) * 2 ^ 24, false)
    else (v1 - count, false)
  else (v1 - pend - (if v.testBit 25 then 2 ^ 25 else 0) + (if v.testBit 27 then 0 else 2 ^ 27), true)

/-- Counts bytes in a barrier of a core (R201); an overflow is a pending stop of that core. An object in a word that cannot be
corrected is not counted: its core faults, and the error is recorded (R307, log 56). -/
def countBarrier (core n count engine req : Nat) (voidn : Bool) (s : State) : State :=
  let k := getCore s core
  if spadBad k (barAddr n) 8 then
    errorRecord (corePart s core) 1 0x30 0 engine 13 core 0 (some (barAddr n))
      (setCore s core { k with faults := k.faults ++ [⟨3, req, sramStop engine 0 (some (barAddr n)), true⟩] })
  else
    let r := barCounted (leNat (mReadN k.spad (barAddr n) 8)) count voidn
    let k1 := spadWrite k (barAddr n) (leBytes 8 r.1)
    let e : Stop := { cause := .barovf, engine := engine, va := some (barAddr n) }
    let f : PendFault := ⟨2, req, e, false⟩
    setCore s core (if r.2 then { k1 with faults := k1.faults ++ [f] } else k1)

/-- Changes the pieces of a request by index. -/
def mapPieces (r : Req) (f : Nat → Piece → Piece) : Req := { r with pieces := r.pieces.zipIdx.map fun x => f x.2 x.1 }

/-- A piece by index. -/
def pieceAtIx (r : Req) (i : Nat) : Piece := r.pieces.getD i { src := .none, dst := .none, len := 0, stage := 2 }

/-- The bar of a fault code: engine that an overflow of a piece's barrier names (R201). -/
def barEngine (r : Req) (p : Piece) : Nat :=
  match p.dst with
  | .virt _ => r.wrEng
  | .none => if p.voidn then r.rdEng else r.wrEng
  | _ => if srcAtHome r p || p.src == .zero then r.rdEng else r.wrEng

/-- Counts the bytes of pieces that arrive or perform together in their barrier, if they name one: one count (R199, R201). -/
def countPieces (n : Nat) (r : Req) (ps : List Piece) (s : State) : State :=
  match ps with
  | [] => s
  | p :: _ =>
    match p.bar with
    | some (c, b) => countBarrier c b (ps.map (·.len)).sum (barEngine r p) n p.voidn s
    | none => s

/-- Counts the bytes of a request that have now performed at its scope in the virtual space (R201). -/
def countPerformed (n : Nat) (s : State) : State :=
  let r := getReq s n
  if r.pieces.all fun p => p.bar.isNone then s
  else
    let ordered := releaseOk s n r && acquireOk s n r
    let ready := fun (p : Piece) => !p.counted && (match p.dst with | .virt _ => true | _ => false) && pieceAt s r r.scope p &&
      (p.stage == 2 || ordered)
    let s1 := countPieces n r (r.pieces.filter ready) s
    setReq s1 n { r with pieces := r.pieces.map fun p => if ready p then { p with counted := true } else p }

/-- The same for every request of a core: what one of them waited for may have performed (R300). -/
def countCorePerformed (core : Nat) (s : State) : State :=
  (s.reqs.filter fun x => x.2.core == core).foldl (fun s x => countPerformed x.1 s) s

/-- The same for every request. -/
def countAllPerformed (s : State) : State := s.reqs.foldl (fun s x => countPerformed x.1 s) s

end Sys2Proof.Machine
end

