-- ==== Sys2Proof/Machine/Vector.lean ====
section
/-! DEFINITION. Vector instructions (spec/07): integer and floating-point lanes, conversion, block quantisation, lane
movement, reduction, scratchpad access. -/

namespace Sys2Proof.Machine

/-! ### Shared forms -/

/-- Lanes of a vector (R116). -/
def lv (lt : LT) (v : VWord) : List Nat := lanesOf lt.width lt.lanes v.toNat

/-- A vector from lanes of `w` bits, with the flags of all lanes (R118). -/
def ofLv (w : Nat) (rs : List (Nat × Flags)) : VWord × Flags :=
  (BitVec.ofNat 2048 (ofLanes w (rs.map (·.1))), rs.foldl (fun f r => f ||| r.2) 0)

/-- Lanewise functions. -/
def lane1 (lt : LT) (f : Nat → Nat × Flags) (a : VWord) : VWord × Flags := ofLv lt.width ((lv lt a).map f)
def lane2 (lt : LT) (f : Nat → Nat → Nat × Flags) (a b : VWord) : VWord × Flags :=
  ofLv lt.width (List.zipWith f (lv lt a) (lv lt b))
def lane3 (lt : LT) (f : Nat → Nat → Nat → Nat × Flags) (a b c : VWord) : VWord × Flags :=
  ofLv lt.width (List.zipWith (fun p z => f p.1 p.2 z) (List.zip (lv lt a) (lv lt b)) (lv lt c))

/-- An instruction of a V slot with one, two or three vector operands: the result lands after `lat`. -/
def unV (lat : Nat) (f : VWord → VWord × Flags) (g : Guard) (d : VDst) (a : VOp) : Issue := fun s =>
  onCtx (issueV (slotV s) lat g d (fun c => voidV c a) fun c => f (valV c a)) s
def binV (lat : Nat) (f : VWord → VWord → VWord × Flags) (g : Guard) (d : VDst) (a b : VOp) : Issue := fun s =>
  onCtx (issueV (slotV s) lat g d (fun c => voidV c a || voidV c b) fun c => f (valV c a) (valV c b)) s
def triV (lat : Nat) (f : VWord → VWord → VWord → VWord × Flags) (g : Guard) (d : VDst) (a b e : VOp) : Issue := fun s =>
  onCtx (issueV (slotV s) lat g d (fun c => voidV c a || voidV c b || voidV c e)
    fun c => f (valV c a) (valV c b) (valV c e)) s

/-- A lane result that raises no flag. -/
def quiet1 (f : Nat → Nat) (x : Nat) : Nat × Flags := (f x, 0)
def quiet2 (f : Nat → Nat → Nat) (x y : Nat) : Nat × Flags := (f x y, 0)
def quiet3 (f : Nat → Nat → Nat → Nat) (x y z : Nat) : Nat × Flags := (f x y z, 0)

/-! ### Integer lanes -/

/-- A lane as an integer of the lane type. -/
def lint (lt : LT) (u : Bool) (x : Nat) : Int := laneInt lt.width u x

/-- Bits [2w − 1 : w] of the product (R121). -/
def mulhLane (lt : LT) (u : Bool) (x y : Nat) : Nat := wrap lt.width (lint lt u x * lint lt u y / (2 ^ lt.width : Nat))

/-- A saturated lane (R98, R121). -/
def satLane (w : Nat) (u : Bool) (x : Int) : Nat × Flags :=
  let r := satInt x (intLo w u) (intHi w u)
  (wrap w r.1, r.2)

/-- Minimum and maximum of lanes (R121). -/
def minLane (lt : LT) (u : Bool) (x y : Nat) : Nat := if lint lt u x ≤ lint lt u y then x else y
def maxLane (lt : LT) (u : Bool) (x y : Nat) : Nat := if lint lt u y ≤ lint lt u x then x else y

/-- a AND NOT b on w bits. -/
def andnLane (lt : LT) (x y : Nat) : Nat := Nat.land x (2 ^ lt.width - 1 - y)

/-- Shifts of lanes by any amount (R122). -/
def shlLane (lt : LT) (x s : Nat) : Nat := if lt.width ≤ s then 0 else x * 2 ^ s
def shrLane (lt : LT) (x s : Nat) : Nat := if lt.width ≤ s then 0 else x / 2 ^ s
def sarLane (lt : LT) (x s : Nat) : Nat := wrap lt.width (lint lt false x / (2 ^ min s (lt.width - 1) : Nat))

/-- A vector shift in its two forms (R122). -/
def shiftV (f : LT → Nat → Nat → Nat) (g : Guard) (d : VDst) (lt : LT) (a : VOp) : VAmt → Issue
  | .reg b => binV 2 (lane2 lt (quiet2 (f lt))) g d a b
  | .imm n => unV 2 (lane1 lt (quiet1 fun x => f lt x n)) g d a

/-- Widening products (R123): lanes of width 2w from the low or high half. -/
def halfLanes (lt : LT) (hi : Bool) (v : VWord) : List Nat :=
  if hi then (lv lt v).drop (lt.lanes / 2) else (lv lt v).take (lt.lanes / 2)
def wmulV (lt : LT) (hi u : Bool) (a b : VWord) : VWord × Flags :=
  ofLv (2 * lt.width) (List.zipWith (fun x y => (wrap (2 * lt.width) (lint lt u x * lint lt u y), 0))
    (halfLanes lt hi a) (halfLanes lt hi b))
def wmacV (lt : LT) (hi u sat : Bool) (a b c : VWord) : VWord × Flags :=
  let w := 2 * lt.width
  ofLv w (List.zipWith (fun p z =>
      let v := laneInt w u z + lint lt u p.1 * lint lt u p.2
      if sat then satLane w u v else (wrap w v, 0))
    (List.zip (halfLanes lt hi a) (halfLanes lt hi b)) (lanesOf w (lt.lanes / 2) c.toNat))

/-- `RoundNE` or `RoundTZ` of v / 2^s (R21, R124). -/
def roundShift (rnd : Rnd) (v : Int) (s : Nat) : Int :=
  let r : Int := (roundMag rnd v.natAbs 0 s).1
  if v < 0 then -r else r

/-- Narrowing (R124). -/
def narrowV (lt : LT) (s : Nat) (u : Bool) (rnd : Rnd) (sat : Bool) (a b : VWord) : VWord × Flags :=
  let w := lt.width
  ofLv w ((lanesOf (2 * w) (lt.lanes / 2) a.toNat ++ lanesOf (2 * w) (lt.lanes / 2) b.toNat).map fun x =>
    let q := roundShift rnd (laneInt (2 * w) u x) s
    if sat then satLane w u q else (wrap w q, 0))

/-- All ones or zero (R125, R128). -/
def maskLane (lt : LT) (b : Bool) : Nat := if b then 2 ^ lt.width - 1 else 0

/-- Integer compares at lane width (R72, R125). -/
def ccLane (lt : LT) (cc : CC) (x y : Nat) : Bool :=
  match cc with
  | .eq => x == y
  | .ne => x != y
  | .lt => decide (lint lt false x < lint lt false y)
  | .le => decide (lint lt false x ≤ lint lt false y)
  | .gt => decide (lint lt false y < lint lt false x)
  | .ge => decide (lint lt false y ≤ lint lt false x)
  | .ltz => decide (x < y)
  | .lez => decide (x ≤ y)
  | .gtz => decide (y < x)
  | .gez => decide (y ≤ x)
  | .uo => false

/-! ### Floating-point lanes -/

/-- Lanewise arithmetic on decoded values. -/
def farith2 (lt : LT) (f : FVal → FVal → Nat × Flags) : VWord → VWord → VWord × Flags :=
  lane2 lt fun x y => f (decodeF lt x) (decodeF lt y)

/-- A lane compare as a mask, with its flag. -/
def fcmpLane (lt : LT) (cc : CC) (x y : Nat) : Nat × Flags := let r := cmpF lt cc x y; (maskLane lt r.1, r.2)

/-- One lane of `vfcvt` (R130). -/
def cvtLane (dst src : LT) (u : Bool) (rnd : Rnd) (sat : Bool) (x : Nat) : Nat × Flags :=
  if dst.isInt then toIntF dst.width u rnd sat (decodeF src x)
  else if src.isInt then convertF dst rnd sat (ofIntF (lint src u x))
  else convertF dst rnd sat (decodeF src x)

/-- `vfcvt` (R130): part P of the source when it widens; lanes past N are zero. -/
def cvtV (dst src : LT) (u : Bool) (p : Nat) (rnd : Rnd) (sat : Bool) (a : VWord) : VWord × Flags :=
  let n := 2048 / max src.width dst.width
  ofLv dst.width (((lv src a).drop (p * n) |>.take n).map (cvtLane dst src u rnd sat))

/-! ### Blocks -/

/-- Lists of `n` elements, `k` of them. -/
def chunks {α : Type} (n : Nat) : Nat → List α → List (List α)
  | 0, _ => []
  | k + 1, l => l.take n :: chunks n k (l.drop n)

/-- The largest magnitude code of a block, and whether it holds a NaN or a signalling one. -/
def blockMax (lt : LT) (xs : List Nat) : Nat := xs.foldl (fun m x => max m (codeMag lt x)) 0
def blockNan (lt : LT) (xs : List Nat) : Bool := xs.any (isNan lt)
def blockSig (lt : LT) (xs : List Nat) : Bool := xs.any (isSig lt)

/-- `vamax` (R132). -/
def amaxV (lt : LT) (a : VWord) : VWord × Flags :=
  ofLv 32 ((chunks 32 (lt.lanes / 32) (lv lt a)).map fun xs =>
    if blockNan lt xs then nanF .f32 (blockSig lt xs) else convertF .f32 .ne false (decodeF lt (blockMax lt xs)))

/-- `EMAX` (R109). -/
def emaxOf : LT → Int
  | .e4m3 => 8 | .e5m2 => 15 | _ => 2

/-- A block quantised (R109): its scale, its elements, its flags. -/
def quantBlock (dst src : LT) (xs : List Nat) : Nat × List Nat × Flags :=
  if codeInf src ≤ blockMax src xs then (0xFF, xs.map fun _ => 0, fINVALID)
  else
    match decodeF src (blockMax src xs) with
    | .fin _ m e =>
      if m = 0 then (0, xs.map fun _ => 0, 0)
      else
        let c0 : Int := e + Nat.log2 m - emaxOf dst + 127
        let c : Int := if c0 < 0 then 0 else if 254 < c0 then 254 else c0
        let qs := xs.map fun x =>
          match decodeF src x with
          | .fin n m e => roundF dst .ne true n m (e - (c - 127))
          | _ => (0, 0)
        (c.toNat, qs.map (·.1), fIf (decide (c0 < 0)) fSCLO ||| fIf (decide (254 < c0)) fOVF ||| qs.foldl (fun f q => f ||| q.2) 0)
    | _ => (0, xs.map fun _ => 0, 0)

/-- `vqmx` (R131, R133): elements from bit 0, scales from byte 128. -/
def qmxV (dst src : LT) (a : VWord) : VWord × Flags :=
  let bs := (chunks 32 (src.lanes / 32) (lv src a)).map (quantBlock dst src)
  (BitVec.ofNat 2048 (ofLanes dst.width (bs.flatMap (·.2.1)) + 2 ^ 1024 * ofLanes 8 (bs.map (·.1))),
    bs.foldl (fun f b => f ||| b.2.2) 0)

/-- An element of a block with its alternate byte (R106). -/
def decodeAlt (lt : LT) (q alt : Nat) : FVal :=
  if lt == .e2m1 && q == 8 then .fin (decide (128 ≤ alt)) (sInt 8 alt).natAbs (-1) else decodeF lt q

/-- `vdqmx` (R134). Its pseudocode raises `INVALID` for every NaN, its last paragraph for a signalling one only: the paragraph
(log 55). -/
def dqmxLane (dst src : LT) (rnd : Rnd) (sat : Bool) (s alt q : Nat) : Nat × Flags :=
  if s = 0xFF then nanF dst true
  else
    match decodeAlt src q alt with
    | .nan sg => nanF dst sg
    | .inf n => infF dst sat n
    | .fin n m e => roundF dst rnd sat n m (e + s - 127)
def dqmxV (dst src : LT) (rnd : Rnd) (sat : Bool) (a : VWord) : VWord × Flags :=
  let q := chunks 32 (dst.lanes / 32) (lanesOf src.width dst.lanes a.toNat)
  let side := lanesOf 8 (dst.lanes / 32) (a.toNat / 2 ^ 1024)
  let alts := lanesOf 8 (dst.lanes / 32) (a.toNat / 2 ^ 1056)
  ofLv dst.width ((List.zip q (List.zip side alts)).flatMap fun b => b.1.map (dqmxLane dst src rnd sat b.2.1 b.2.2))

/-! ### Lane movement -/

/-- T: the lanes of A, then those of B (R135). -/
def tlanes (lt : LT) (a b : VWord) : List Nat := lv lt a ++ lv lt b

/-- `vperm` (R135). -/
def permV (lt : LT) (z : Bool) (a b c : VWord) : VWord × Flags :=
  let t := (tlanes lt a b).toArray
  let n2 := 2 * lt.lanes
  ofLv lt.width ((lv lt c).map fun k => (if k < n2 then t.getD k 0 else if z then 0 else t.getD (k % n2) 0, 0))

/-- `vslide` (R136). -/
def slideV (lt : LT) (s : Nat) (a b : VWord) : VWord × Flags :=
  ofLv lt.width (((tlanes lt a b).drop s |>.take lt.lanes).map fun x => (x, 0))

/-- One value in every lane (R137). -/
def bcastV (lt : LT) (x : Nat) : VWord := BitVec.ofNat 2048 (ofLanes lt.width (List.replicate lt.lanes x))

/-- The immediate of `vbcast` (R137). -/
def bcastImm (lt : LT) (imm : BitVec 32) : VWord × Flags :=
  match lt with
  | .f64 => let r := convertF .f64 .ne false (decodeF .f32 imm.toNat); (bcastV lt r.1, r.2)
  | .i64 => (bcastV lt (imm.signExtend 64).toNat, 0)
  | _ => (bcastV lt imm.toNat, 0)

/-- A lane index (R138). -/
def laneIx (lt : LT) (c : Ctx) : LaneIx → Nat
  | .imm n => n
  | .reg z => (valS c z).toNat % lt.lanes
def laneVoid (c : Ctx) : LaneIx → Bool
  | .imm _ => false
  | .reg z => voidS c z

/-- Interleaving (R139). -/
def interleave : List Nat → List Nat → List Nat
  | x :: xs, y :: ys => x :: y :: interleave xs ys
  | _, _ => []
def zipV (lt : LT) (hi : Bool) (a b : VWord) : VWord × Flags :=
  ofLv lt.width ((interleave (halfLanes lt hi a) (halfLanes lt hi b)).map fun x => (x, 0))

/-- Elements of even index. -/
def evens : List Nat → List Nat
  | x :: _ :: xs => x :: evens xs
  | l => l
def unzipV (lt : LT) (hi : Bool) (a b : VWord) : VWord × Flags :=
  ofLv lt.width ((evens (if hi then (tlanes lt a b).drop 1 else tlanes lt a b)).map fun x => (x, 0))

/-! ### Reduction and scan -/

/-- One combination of R140. -/
def redOp (op : RedOp) (lt : LT) (rnd : Rnd) (x y : Nat) : Nat × Flags :=
  if lt.isFloat then
    match op with
    | .add => addF lt rnd (decodeF lt x) (decodeF lt y)
    | .max => minmaxF lt true x y
    | _ => minmaxF lt false x y
  else
    match op with
    | .add => ((x + y) % 2 ^ lt.width, 0)
    | .min => (minLane lt false x y, 0)
    | .max => (maxLane lt false x y, 0)
    | .minz => (minLane lt true x y, 0)
    | .maxz => (maxLane lt true x y, 0)
    | .and => (Nat.land x y, 0)
    | .or => (Nat.lor x y, 0)
    | .xor => (Nat.xor x y, 0)

/-- Halving (R141): `fuel` levels. -/
def redTree (f : Nat → Nat → Nat × Flags) : Nat → List Nat → Flags → Nat × Flags
  | 0, t, fl => (t.headD 0, fl)
  | n + 1, t, fl =>
    let h := t.length / 2
    let rs := List.zipWith f (t.take h) (t.drop h)
    redTree f n (rs.map (·.1)) (rs.foldl (fun f r => f ||| r.2) fl)
def redV (op : RedOp) (lt : LT) (rnd : Rnd) (a : VWord) : VWord × Flags :=
  let r := redTree (redOp op lt rnd) (Nat.log2 lt.lanes) (lv lt a) 0
  (BitVec.ofNat 2048 r.1, r.2)

/-- The levels of the prefix (R142): level l combines with the lane 2^l below. -/
def scanLevels (f : Nat → Nat → Nat × Flags) : Nat → Nat → List Nat → Flags → List Nat × Flags
  | 0, _, t, fl => (t, fl)
  | n + 1, l, t, fl =>
    let rs := List.zipWith f t (t.drop (2 ^ l))
    scanLevels f n (l + 1) (t.take (2 ^ l) ++ rs.map (·.1)) (rs.foldl (fun f r => f ||| r.2) fl)
def scanV (op : RedOp) (lt : LT) (rnd : Rnd) (a : VWord) (b : Option VWord) : VWord × Flags :=
  let r := scanLevels (redOp op lt rnd) (Nat.log2 lt.lanes) 0 (lv lt a) 0
  match b with
  | none => (BitVec.ofNat 2048 (ofLanes lt.width r.1), r.2)
  | some b =>
    let u := ofLv lt.width (r.1.map (redOp op lt rnd ((lv lt b).headD 0)))
    (u.1, r.2 ||| u.2)

/-! ### Scratchpad access -/

/-- Addresses of a gather or scatter (R143). -/
def gatherEas (ea : Nat) (ixs : List Nat) (z : Nat) : List Nat := ixs.map fun i => (ea + i * z) % 2 ^ 64

/-- The first stop among accesses of `n` bytes, in lane order (R144, R307). -/
def lanesStop (k : Core) (mask n : Nat) (rd : Bool) (eas : List Nat) : Option Stop :=
  match eas.find? fun ea => !spadOk ea n with
  | some ea => some { cause := .xlate, smask := mask, engine := 3, reason := 4, va := some ea }
  | none => eas.findSome? fun ea => viewStop k 3 mask ea n rd

/-- `n` bytes of a scratchpad as a number. -/
def spadNat (k : Core) (ea n : Nat) : Nat := leNat (mReadN k.spad ea n)

/-- Stores of lanes in increasing order (R145). -/
def storeLanes (n : Nat) : List (Nat × Nat) → Core → Core
  | [], k => k
  | (ea, x) :: l, k => storeLanes n l (spadWrite k ea (leBytes n x))

/-- A load of a V slot: the addresses of its pieces, `n` bytes each. -/
def loadV (n : Nat) (g : Guard) (d : VDst) (void : Ctx → Bool) (eas : Ctx → List Nat) : Issue := fun s =>
  let k := cur s
  let c := k.ctx
  let as := eas c
  match if guardOn c g then lanesStop k (2 ^ slotV s) n true as else none with
  | some e => .error e
  | none =>
    .ok (setCtx s (issueV (slotV s) 5 g d void
      (fun _ => (BitVec.ofNat 2048 (ofLanes (8 * n) (as.map fun ea => spadNat k ea n)), 0)) c))

/-- A store of a V slot. -/
def storeV (n : Nat) (g : Guard) (void : Ctx → Bool) (eas : Ctx → List (Nat × Nat)) : Issue := fun s =>
  let k := cur s
  let c := k.ctx
  if guardOn c g then
    let as := eas c
    match lanesStop k (2 ^ slotV s) n false (as.map (·.1)) with
    | some e => .error e
    | none => .ok (setCur s (storeLanes n as { k with ctx := noteVoid c (voidP c g.p || void c) }))
  else .ok (setCtx s (noteVoid c (voidP c g.p)))

/-! ### The instructions -/

/-- `vadd` (R121). -/
def issueVadd (g : Guard) (d : VDst) (lt : LT) (a b : VOp) : Issue :=
  binV 2 (lane2 lt (quiet2 fun x y => x + y)) g d a b
def execVadd (g : Guard) (d : VDst) (lt : LT) (a b : VOp) (s : State) : Out :=
  settle s (issueVadd g d lt a b s)

/-- `vsub` (R121). -/
def issueVsub (g : Guard) (d : VDst) (lt : LT) (a b : VOp) : Issue :=
  binV 2 (lane2 lt (quiet2 fun x y => x + 2 ^ lt.width - y)) g d a b
def execVsub (g : Guard) (d : VDst) (lt : LT) (a b : VOp) (s : State) : Out :=
  settle s (issueVsub g d lt a b s)

/-- `vmul` (R121). -/
def issueVmul (g : Guard) (d : VDst) (lt : LT) (a b : VOp) : Issue :=
  binV 3 (lane2 lt (quiet2 fun x y => x * y)) g d a b
def execVmul (g : Guard) (d : VDst) (lt : LT) (a b : VOp) (s : State) : Out :=
  settle s (issueVmul g d lt a b s)

/-- `vmulh` (R121). -/
def issueVmulh (g : Guard) (d : VDst) (lt : LT) (u : Bool) (a b : VOp) : Issue :=
  binV 3 (lane2 lt (quiet2 (mulhLane lt u))) g d a b
def execVmulh (g : Guard) (d : VDst) (lt : LT) (u : Bool) (a b : VOp) (s : State) : Out :=
  settle s (issueVmulh g d lt u a b s)

/-- `vmac` (R121). -/
def issueVmac (g : Guard) (d : VDst) (lt : LT) (a b c : VOp) : Issue :=
  triV 3 (lane3 lt (quiet3 fun x y z => x * y + z)) g d a b c
def execVmac (g : Guard) (d : VDst) (lt : LT) (a b c : VOp) (s : State) : Out :=
  settle s (issueVmac g d lt a b c s)

/-- `vwmul` (R123). -/
def issueVwmul (g : Guard) (d : VDst) (lt : LT) (hi u : Bool) (a b : VOp) : Issue :=
  binV 3 (wmulV lt hi u) g d a b
def execVwmul (g : Guard) (d : VDst) (lt : LT) (hi u : Bool) (a b : VOp) (s : State) : Out :=
  settle s (issueVwmul g d lt hi u a b s)

/-- `vwmac` (R123). -/
def issueVwmac (g : Guard) (d : VDst) (lt : LT) (hi u sat : Bool) (a b c : VOp) : Issue :=
  triV 3 (wmacV lt hi u sat) g d a b c
def execVwmac (g : Guard) (d : VDst) (lt : LT) (hi u sat : Bool) (a b c : VOp) (s : State) : Out :=
  settle s (issueVwmac g d lt hi u sat a b c s)

/-- `vnarrow` (R124). -/
def issueVnarrow (g : Guard) (d : VDst) (lt : LT) (n : Nat) (u : Bool) (rnd : Rnd) (sat : Bool) (a b : VOp) : Issue :=
  binV 2 (narrowV lt n u rnd sat) g d a b
def execVnarrow (g : Guard) (d : VDst) (lt : LT) (n : Nat) (u : Bool) (rnd : Rnd) (sat : Bool) (a b : VOp) (s : State) : Out :=
  settle s (issueVnarrow g d lt n u rnd sat a b s)

/-- `vadds` (R121). -/
def issueVadds (g : Guard) (d : VDst) (lt : LT) (u : Bool) (a b : VOp) : Issue :=
  binV 2 (lane2 lt fun x y => satLane lt.width u (lint lt u x + lint lt u y)) g d a b
def execVadds (g : Guard) (d : VDst) (lt : LT) (u : Bool) (a b : VOp) (s : State) : Out :=
  settle s (issueVadds g d lt u a b s)

/-- `vsubs` (R121). -/
def issueVsubs (g : Guard) (d : VDst) (lt : LT) (u : Bool) (a b : VOp) : Issue :=
  binV 2 (lane2 lt fun x y => satLane lt.width u (lint lt u x - lint lt u y)) g d a b
def execVsubs (g : Guard) (d : VDst) (lt : LT) (u : Bool) (a b : VOp) (s : State) : Out :=
  settle s (issueVsubs g d lt u a b s)

/-- `vabs` (R121). -/
def issueVabs (g : Guard) (d : VDst) (lt : LT) (a : VOp) : Issue :=
  unV 2 (lane1 lt (quiet1 fun x => wrap lt.width (lint lt false x).natAbs)) g d a
def execVabs (g : Guard) (d : VDst) (lt : LT) (a : VOp) (s : State) : Out :=
  settle s (issueVabs g d lt a s)

/-- `vneg` (R121). -/
def issueVneg (g : Guard) (d : VDst) (lt : LT) (a : VOp) : Issue :=
  unV 2 (lane1 lt (quiet1 fun x => 2 ^ lt.width - x)) g d a
def execVneg (g : Guard) (d : VDst) (lt : LT) (a : VOp) (s : State) : Out :=
  settle s (issueVneg g d lt a s)

/-- `vmin` (R121). -/
def issueVmin (g : Guard) (d : VDst) (lt : LT) (a b : VOp) : Issue :=
  binV 2 (lane2 lt (quiet2 (minLane lt false))) g d a b
def execVmin (g : Guard) (d : VDst) (lt : LT) (a b : VOp) (s : State) : Out :=
  settle s (issueVmin g d lt a b s)

/-- `vmax` (R121). -/
def issueVmax (g : Guard) (d : VDst) (lt : LT) (a b : VOp) : Issue :=
  binV 2 (lane2 lt (quiet2 (maxLane lt false))) g d a b
def execVmax (g : Guard) (d : VDst) (lt : LT) (a b : VOp) (s : State) : Out :=
  settle s (issueVmax g d lt a b s)

/-- `vminz` (R121). -/
def issueVminz (g : Guard) (d : VDst) (lt : LT) (a b : VOp) : Issue :=
  binV 2 (lane2 lt (quiet2 (minLane lt true))) g d a b
def execVminz (g : Guard) (d : VDst) (lt : LT) (a b : VOp) (s : State) : Out :=
  settle s (issueVminz g d lt a b s)

/-- `vmaxz` (R121). -/
def issueVmaxz (g : Guard) (d : VDst) (lt : LT) (a b : VOp) : Issue :=
  binV 2 (lane2 lt (quiet2 (maxLane lt true))) g d a b
def execVmaxz (g : Guard) (d : VDst) (lt : LT) (a b : VOp) (s : State) : Out :=
  settle s (issueVmaxz g d lt a b s)

/-- `vand` (R121). -/
def issueVand (g : Guard) (d : VDst) (lt : LT) (a b : VOp) : Issue :=
  binV 2 (lane2 lt (quiet2 Nat.land)) g d a b
def execVand (g : Guard) (d : VDst) (lt : LT) (a b : VOp) (s : State) : Out :=
  settle s (issueVand g d lt a b s)

/-- `vor` (R121). -/
def issueVor (g : Guard) (d : VDst) (lt : LT) (a b : VOp) : Issue :=
  binV 2 (lane2 lt (quiet2 Nat.lor)) g d a b
def execVor (g : Guard) (d : VDst) (lt : LT) (a b : VOp) (s : State) : Out :=
  settle s (issueVor g d lt a b s)

/-- `vxor` (R121). -/
def issueVxor (g : Guard) (d : VDst) (lt : LT) (a b : VOp) : Issue :=
  binV 2 (lane2 lt (quiet2 Nat.xor)) g d a b
def execVxor (g : Guard) (d : VDst) (lt : LT) (a b : VOp) (s : State) : Out :=
  settle s (issueVxor g d lt a b s)

/-- `vandn` (R121). -/
def issueVandn (g : Guard) (d : VDst) (lt : LT) (a b : VOp) : Issue :=
  binV 2 (lane2 lt (quiet2 (andnLane lt))) g d a b
def execVandn (g : Guard) (d : VDst) (lt : LT) (a b : VOp) (s : State) : Out :=
  settle s (issueVandn g d lt a b s)

/-- `vshl` (R122). -/
def issueVshl (g : Guard) (d : VDst) (lt : LT) (a : VOp) (n : VAmt) : Issue :=
  shiftV shlLane g d lt a n
def execVshl (g : Guard) (d : VDst) (lt : LT) (a : VOp) (n : VAmt) (s : State) : Out :=
  settle s (issueVshl g d lt a n s)

/-- `vshr` (R122). -/
def issueVshr (g : Guard) (d : VDst) (lt : LT) (a : VOp) (n : VAmt) : Issue :=
  shiftV shrLane g d lt a n
def execVshr (g : Guard) (d : VDst) (lt : LT) (a : VOp) (n : VAmt) (s : State) : Out :=
  settle s (issueVshr g d lt a n s)

/-- `vsar` (R122). -/
def issueVsar (g : Guard) (d : VDst) (lt : LT) (a : VOp) (n : VAmt) : Issue :=
  shiftV sarLane g d lt a n
def execVsar (g : Guard) (d : VDst) (lt : LT) (a : VOp) (n : VAmt) (s : State) : Out :=
  settle s (issueVsar g d lt a n s)

/-- `vcmp` (R125). -/
def issueVcmp (g : Guard) (d : VDst) (cc : CC) (lt : LT) (a b : VOp) : Issue :=
  binV 2 (lane2 lt (quiet2 fun x y => maskLane lt (ccLane lt cc x y))) g d a b
def execVcmp (g : Guard) (d : VDst) (cc : CC) (lt : LT) (a b : VOp) (s : State) : Out :=
  settle s (issueVcmp g d cc lt a b s)

/-- `vsel` (R125). -/
def issueVsel (g : Guard) (d : VDst) (lt : LT) (a b c : VOp) : Issue :=
  triV 2 (lane3 lt (quiet3 fun x y z => if z = 0 then y else x)) g d a b c
def execVsel (g : Guard) (d : VDst) (lt : LT) (a b c : VOp) (s : State) : Out :=
  settle s (issueVsel g d lt a b c s)

/-- `vclz` (R121). -/
def issueVclz (g : Guard) (d : VDst) (lt : LT) (a : VOp) : Issue :=
  unV 2 (lane1 lt (quiet1 (clzN lt.width))) g d a
def execVclz (g : Guard) (d : VDst) (lt : LT) (a : VOp) (s : State) : Out :=
  settle s (issueVclz g d lt a s)

/-- `vpopc` (R121). -/
def issueVpopc (g : Guard) (d : VDst) (lt : LT) (a : VOp) : Issue :=
  unV 2 (lane1 lt (quiet1 (popN lt.width))) g d a
def execVpopc (g : Guard) (d : VDst) (lt : LT) (a : VOp) (s : State) : Out :=
  settle s (issueVpopc g d lt a s)

/-- `vfadd` (R126). -/
def issueVfadd (g : Guard) (d : VDst) (lt : LT) (rnd : Rnd) (a b : VOp) : Issue :=
  binV 4 (farith2 lt (addF lt rnd)) g d a b
def execVfadd (g : Guard) (d : VDst) (lt : LT) (rnd : Rnd) (a b : VOp) (s : State) : Out :=
  settle s (issueVfadd g d lt rnd a b s)

/-- `vfsub` (R126). -/
def issueVfsub (g : Guard) (d : VDst) (lt : LT) (rnd : Rnd) (a b : VOp) : Issue :=
  binV 4 (farith2 lt fun x y => addF lt rnd x y.negate) g d a b
def execVfsub (g : Guard) (d : VDst) (lt : LT) (rnd : Rnd) (a b : VOp) (s : State) : Out :=
  settle s (issueVfsub g d lt rnd a b s)

/-- `vfmul` (R126). -/
def issueVfmul (g : Guard) (d : VDst) (lt : LT) (rnd : Rnd) (a b : VOp) : Issue :=
  binV 4 (farith2 lt (mulF lt rnd)) g d a b
def execVfmul (g : Guard) (d : VDst) (lt : LT) (rnd : Rnd) (a b : VOp) (s : State) : Out :=
  settle s (issueVfmul g d lt rnd a b s)

/-- `vfma` (R126). -/
def issueVfma (g : Guard) (d : VDst) (lt : LT) (rnd : Rnd) (a b c : VOp) : Issue :=
  triV 4 (lane3 lt fun x y z => fmaF lt rnd (decodeF lt x) (decodeF lt y) (decodeF lt z)) g d a b c
def execVfma (g : Guard) (d : VDst) (lt : LT) (rnd : Rnd) (a b c : VOp) (s : State) : Out :=
  settle s (issueVfma g d lt rnd a b c s)

/-- `vfmin` (R127). -/
def issueVfmin (g : Guard) (d : VDst) (lt : LT) (a b : VOp) : Issue :=
  binV 4 (lane2 lt (minmaxF lt false)) g d a b
def execVfmin (g : Guard) (d : VDst) (lt : LT) (a b : VOp) (s : State) : Out :=
  settle s (issueVfmin g d lt a b s)

/-- `vfmax` (R127). -/
def issueVfmax (g : Guard) (d : VDst) (lt : LT) (a b : VOp) : Issue :=
  binV 4 (lane2 lt (minmaxF lt true)) g d a b
def execVfmax (g : Guard) (d : VDst) (lt : LT) (a b : VOp) (s : State) : Out :=
  settle s (issueVfmax g d lt a b s)

/-- `vfabs` (R126). -/
def issueVfabs (g : Guard) (d : VDst) (lt : LT) (a : VOp) : Issue :=
  unV 4 (lane1 lt (signF lt fun _ => false)) g d a
def execVfabs (g : Guard) (d : VDst) (lt : LT) (a : VOp) (s : State) : Out :=
  settle s (issueVfabs g d lt a s)

/-- `vfneg` (R126). -/
def issueVfneg (g : Guard) (d : VDst) (lt : LT) (a : VOp) : Issue :=
  unV 4 (lane1 lt (signF lt fun n => !n)) g d a
def execVfneg (g : Guard) (d : VDst) (lt : LT) (a : VOp) (s : State) : Out :=
  settle s (issueVfneg g d lt a s)

/-- `vfcmp` (R128). -/
def issueVfcmp (g : Guard) (d : VDst) (cc : CC) (lt : LT) (a b : VOp) : Issue :=
  binV 4 (lane2 lt (fcmpLane lt cc)) g d a b
def execVfcmp (g : Guard) (d : VDst) (cc : CC) (lt : LT) (a b : VOp) (s : State) : Out :=
  settle s (issueVfcmp g d cc lt a b s)

/-- `vrcp` (R129). -/
def issueVrcp (g : Guard) (d : VDst) (lt : LT) (rnd : Rnd) (a : VOp) : Issue :=
  unV 10 (lane1 lt (transF .rcp lt rnd)) g d a
def execVrcp (g : Guard) (d : VDst) (lt : LT) (rnd : Rnd) (a : VOp) (s : State) : Out :=
  settle s (issueVrcp g d lt rnd a s)

/-- `vrsqrt` (R129). -/
def issueVrsqrt (g : Guard) (d : VDst) (lt : LT) (rnd : Rnd) (a : VOp) : Issue :=
  unV 10 (lane1 lt (transF .rsqrt lt rnd)) g d a
def execVrsqrt (g : Guard) (d : VDst) (lt : LT) (rnd : Rnd) (a : VOp) (s : State) : Out :=
  settle s (issueVrsqrt g d lt rnd a s)

/-- `vexp2` (R129). -/
def issueVexp2 (g : Guard) (d : VDst) (lt : LT) (rnd : Rnd) (a : VOp) : Issue :=
  unV 10 (lane1 lt (transF .exp2 lt rnd)) g d a
def execVexp2 (g : Guard) (d : VDst) (lt : LT) (rnd : Rnd) (a : VOp) (s : State) : Out :=
  settle s (issueVexp2 g d lt rnd a s)

/-- `vlog2` (R129). -/
def issueVlog2 (g : Guard) (d : VDst) (lt : LT) (rnd : Rnd) (a : VOp) : Issue :=
  unV 10 (lane1 lt (transF .log2 lt rnd)) g d a
def execVlog2 (g : Guard) (d : VDst) (lt : LT) (rnd : Rnd) (a : VOp) (s : State) : Out :=
  settle s (issueVlog2 g d lt rnd a s)

/-- `vsigm` (R129). -/
def issueVsigm (g : Guard) (d : VDst) (lt : LT) (rnd : Rnd) (a : VOp) : Issue :=
  unV 10 (lane1 lt (transF .sigm lt rnd)) g d a
def execVsigm (g : Guard) (d : VDst) (lt : LT) (rnd : Rnd) (a : VOp) (s : State) : Out :=
  settle s (issueVsigm g d lt rnd a s)

/-- `vtanh` (R129). -/
def issueVtanh (g : Guard) (d : VDst) (lt : LT) (rnd : Rnd) (a : VOp) : Issue :=
  unV 10 (lane1 lt (transF .tanh lt rnd)) g d a
def execVtanh (g : Guard) (d : VDst) (lt : LT) (rnd : Rnd) (a : VOp) (s : State) : Out :=
  settle s (issueVtanh g d lt rnd a s)

/-- `vfcvt` (R130). -/
def issueVfcvt (g : Guard) (d : VDst) (lt src : LT) (u : Bool) (p : Nat) (rnd : Rnd) (sat : Bool) (a : VOp) : Issue :=
  unV 4 (cvtV lt src u p rnd sat) g d a
def execVfcvt (g : Guard) (d : VDst) (lt src : LT) (u : Bool) (p : Nat) (rnd : Rnd) (sat : Bool) (a : VOp) (s : State) : Out :=
  settle s (issueVfcvt g d lt src u p rnd sat a s)

/-- `vamax` (R132). -/
def issueVamax (g : Guard) (d : VDst) (lt : LT) (a : VOp) : Issue :=
  unV 4 (amaxV lt) g d a
def execVamax (g : Guard) (d : VDst) (lt : LT) (a : VOp) (s : State) : Out :=
  settle s (issueVamax g d lt a s)

/-- `vqmx` (R133). -/
def issueVqmx (g : Guard) (d : VDst) (lt src : LT) (a : VOp) : Issue :=
  unV 4 (qmxV lt src) g d a
def execVqmx (g : Guard) (d : VDst) (lt src : LT) (a : VOp) (s : State) : Out :=
  settle s (issueVqmx g d lt src a s)

/-- `vdqmx` (R134). -/
def issueVdqmx (g : Guard) (d : VDst) (lt src : LT) (rnd : Rnd) (sat : Bool) (a : VOp) : Issue :=
  unV 4 (dqmxV lt src rnd sat) g d a
def execVdqmx (g : Guard) (d : VDst) (lt src : LT) (rnd : Rnd) (sat : Bool) (a : VOp) (s : State) : Out :=
  settle s (issueVdqmx g d lt src rnd sat a s)

/-- `vperm` (R135). -/
def issueVperm (g : Guard) (d : VDst) (lt : LT) (z : Bool) (a b c : VOp) : Issue :=
  triV 3 (permV lt z) g d a b c
def execVperm (g : Guard) (d : VDst) (lt : LT) (z : Bool) (a b c : VOp) (s : State) : Out :=
  settle s (issueVperm g d lt z a b c s)

/-- `vslide` (R136). -/
def issueVslide (g : Guard) (d : VDst) (lt : LT) (n : Nat) (a b : VOp) : Issue :=
  binV 3 (slideV lt n) g d a b
def execVslide (g : Guard) (d : VDst) (lt : LT) (n : Nat) (a b : VOp) (s : State) : Out :=
  settle s (issueVslide g d lt n a b s)

/-- `vbcastScalar` (R137). -/
def issueVbcastScalar (g : Guard) (d : VDst) (lt : LT) (a : SOp) : Issue :=
  fun s => onCtx (issueV (slotV s) 2 g d (fun c => voidS c a) fun c => (bcastV lt (valS c a).toNat, 0)) s
def execVbcastScalar (g : Guard) (d : VDst) (lt : LT) (a : SOp) (s : State) : Out :=
  settle s (issueVbcastScalar g d lt a s)

/-- `vbcastImm` (R137). -/
def issueVbcastImm (g : Guard) (d : VDst) (lt : LT) (imm : BitVec 32) : Issue :=
  fun s => onCtx (issueV (slotV s) 2 g d (fun _ => false) fun _ => bcastImm lt imm) s
def execVbcastImm (g : Guard) (d : VDst) (lt : LT) (imm : BitVec 32) (s : State) : Out :=
  settle s (issueVbcastImm g d lt imm s)

/-- `vins` (R138). -/
def issueVins (g : Guard) (d : VDst) (lt : LT) (a : VOp) (b : SOp) (ix : LaneIx) : Issue :=
  fun s => onCtx (issueV (slotV s) 2 g d (fun c => voidV c a || voidS c b || laneVoid c ix) fun c =>
    (BitVec.ofNat 2048 (ofLanes lt.width ((lv lt (valV c a)).set (laneIx lt c ix) (valS c b).toNat)), 0)) s
def execVins (g : Guard) (d : VDst) (lt : LT) (a : VOp) (b : SOp) (ix : LaneIx) (s : State) : Out :=
  settle s (issueVins g d lt a b ix s)

/-- `vext` (R138). -/
def issueVext (g : Guard) (d : VDst) (lt : LT) (a : VOp) (ix : LaneIx) : Issue :=
  fun s => onCtx (issueV (slotV s) 2 g d (fun c => voidV c a || laneVoid c ix) fun c =>
    (BitVec.ofNat 2048 ((lv lt (valV c a)).getD (laneIx lt c ix) 0), 0)) s
def execVext (g : Guard) (d : VDst) (lt : LT) (a : VOp) (ix : LaneIx) (s : State) : Out :=
  settle s (issueVext g d lt a ix s)

/-- `vzip` (R139). -/
def issueVzip (g : Guard) (d : VDst) (lt : LT) (hi : Bool) (a b : VOp) : Issue :=
  binV 3 (zipV lt hi) g d a b
def execVzip (g : Guard) (d : VDst) (lt : LT) (hi : Bool) (a b : VOp) (s : State) : Out :=
  settle s (issueVzip g d lt hi a b s)

/-- `vunzip` (R139). -/
def issueVunzip (g : Guard) (d : VDst) (lt : LT) (hi : Bool) (a b : VOp) : Issue :=
  binV 3 (unzipV lt hi) g d a b
def execVunzip (g : Guard) (d : VDst) (lt : LT) (hi : Bool) (a b : VOp) (s : State) : Out :=
  settle s (issueVunzip g d lt hi a b s)

/-- `vred` (R141). -/
def issueVred (g : Guard) (d : VDst) (op : RedOp) (lt : LT) (rnd : Rnd) (a : VOp) : Issue :=
  unV 6 (redV op lt rnd) g d a
def execVred (g : Guard) (d : VDst) (op : RedOp) (lt : LT) (rnd : Rnd) (a : VOp) (s : State) : Out :=
  settle s (issueVred g d op lt rnd a s)

/-- `vscan` (R142). -/
def issueVscan (g : Guard) (d : VDst) (op : RedOp) (lt : LT) (rnd : Rnd) (a : VOp) (b : Option VOp) : Issue :=
  match b with
  | none => unV 6 (fun x => scanV op lt rnd x none) g d a
  | some e => binV 6 (fun x y => scanV op lt rnd x (some y)) g d a e
def execVscan (g : Guard) (d : VDst) (op : RedOp) (lt : LT) (rnd : Rnd) (a : VOp) (b : Option VOp) (s : State) : Out :=
  settle s (issueVscan g d op lt rnd a b s)

/-- `vld` (R143, R144). -/
def issueVld (g : Guard) (d : VDst) (a : SOp) (disp : BitVec 20) : Issue :=
  loadV 256 g d (fun c => voidS c a) fun c => [memEa c a disp]
def execVld (g : Guard) (d : VDst) (a : SOp) (disp : BitVec 20) (s : State) : Out :=
  settle s (issueVld g d a disp s)

/-- `vst` (R143, R144). -/
def issueVst (g : Guard) (b : VOp) (a : SOp) (disp : BitVec 20) : Issue :=
  storeV 256 g (fun c => voidS c a || voidV c b) fun c => [(memEa c a disp, (valV c b).toNat)]
def execVst (g : Guard) (b : VOp) (a : SOp) (disp : BitVec 20) (s : State) : Out :=
  settle s (issueVst g b a disp s)

/-- `vldg` (R143, R144). -/
def issueVldg (g : Guard) (d : VDst) (lt : LT) (a : SOp) (disp : BitVec 20) (b : VOp) (c : SOp) : Issue :=
  loadV (lt.width / 8) g d (fun x => voidS x a || voidV x b || voidS x c) fun x =>
    gatherEas (memEa x a disp) (lv lt (valV x b)) (valS x c).toNat
def execVldg (g : Guard) (d : VDst) (lt : LT) (a : SOp) (disp : BitVec 20) (b : VOp) (c : SOp) (s : State) : Out :=
  settle s (issueVldg g d lt a disp b c s)

/-- `vsts` (R143 to R145). -/
def issueVsts (g : Guard) (lt : LT) (b : VOp) (a : SOp) (disp : BitVec 20) (c : SOp) : Issue :=
  storeV (lt.width / 8) g (fun x => voidS x a || voidV x b || voidS x c) fun x =>
    List.zip (gatherEas (memEa x a disp) (List.range lt.lanes) (valS x c).toNat) (lv lt (valV x b))
def execVsts (g : Guard) (lt : LT) (b : VOp) (a : SOp) (disp : BitVec 20) (c : SOp) (s : State) : Out :=
  settle s (issueVsts g lt b a disp c s)

end Sys2Proof.Machine
end

