-- ==== Sys2Proof/Machine/Matrix.lean ====
section
/-! DEFINITION. The matrix engine (spec/08) and the affine instructions (spec/10): schedules and their checks, the
access-port instructions, and the reads and landings of the product array, the fold unit and the scan unit. -/

namespace Sys2Proof.Machine

/-! ### Operand memory -/

/-- Whether a slot is claimed. -/
def slotHeld (m : Mx) (o : Fin 24) : Bool := m.claimed.getLsbD o.val

/-- Slots that a context may claim (R148): the image's claim; all of them for a kernel context without a block. -/
def slotLimit (s : State) (k : Core) : Nat := (k.blk.map fun b => (getInst s b.inst).oslots).getD 24

/-- A data row and a side row (R146, R147). -/
def dataRow (d : MxData) (o row : Nat) : BitVec 1024 := smGetD d.data (64 * o + row) 0
def sideRow (d : MxData) (o row : Nat) : BitVec 128 := smGetD d.side (64 * o + row) 0

def setDataRow (d : MxData) (o row : Nat) (v : BitVec 1024) : MxData := { d with data := smSet 0 d.data (64 * o + row) v }
def setSideRow (d : MxData) (o row : Nat) (v : BitVec 128) : MxData := { d with side := smSet 0 d.side (64 * o + row) v }

/-- A byte of a slot: 8,192 data bytes, then 1,024 side bytes. -/
def slotByte (d : MxData) (o off : Nat) : Byte :=
  if off < 8192 then BitVec.ofNat 8 ((dataRow d o (off / 128)).toNat / 256 ^ (off % 128))
  else BitVec.ofNat 8 ((sideRow d o ((off - 8192) / 16)).toNat / 256 ^ (off % 16))

/-- A row with one byte replaced. -/
def putByte (w v i : Nat) (b : Byte) : BitVec w :=
  BitVec.ofNat w (v - bits v (8 * i) 8 * 256 ^ i + b.toNat * 256 ^ i)

def setSlotByte (d : MxData) (o off : Nat) (b : Byte) : MxData :=
  if off < 8192 then setDataRow d o (off / 128) (putByte 1024 (dataRow d o (off / 128)).toNat (off % 128) b)
  else setSideRow d o ((off - 8192) / 16) (putByte 128 (sideRow d o ((off - 8192) / 16)).toNat (off % 16) b)

/-- Bytes written into a slot from an offset up. -/
def setSlotBytes (d : MxData) (o off : Nat) : List Byte → MxData
  | [] => d
  | b :: bs => setSlotBytes (setSlotByte d o off b) o (off + 1) bs

/-- A slot cleared (R148). -/
def clearSlot (d : MxData) (o : Nat) : MxData :=
  { d with data := d.data.filter fun x => x.1 / 64 ≠ o, side := d.side.filter fun x => x.1 / 64 ≠ o }

/-- A write that lands in the current cycle (R151, R155): it applies to what earlier writes of the cycle have made. -/
def mxWrite (m : Mx) (f : MxData → MxData) : Mx := { m with next := some (f (m.next.getD m.now)) }

/-- A tile. -/
def tileOf (d : MxData) (acc : Fin 4) : Tile := d.tiles.getD acc.val {}
def setTile (d : MxData) (acc : Fin 4) (t : Tile) : MxData := { d with tiles := d.tiles.set acc.val t }

/-- A row of a partial plane. -/
def planeRow (d : MxData) (pp row : Nat) : List (BitVec 32) := smGetD d.planes (64 * pp + row) (List.replicate 64 0)
def setPlaneRow (d : MxData) (pp row : Nat) (r : List (BitVec 32)) : MxData :=
  { d with planes := smSet (List.replicate 64 0) d.planes (64 * pp + row) r }

/-! ### Schedules -/

/-- The number of rows of a product, and what it covers (R152): a tile from a row, or a plane. -/
def prodRows : ProdKind → Nat
  | .mma _ _ _ nrow => nrow + 1
  | .mmas _ (.tile _ _ nrow) _ => nrow + 1
  | _ => 64
def prodTile : ProdKind → Option (Fin 4 × Nat)
  | .mma _ acc row0 _ => some (acc, row0)
  | .mmas _ (.tile acc row0 _) _ => some (acc, row0)
  | _ => none
def prodPlane : ProdKind → Option (Fin 2)
  | .mmab _ pp _ => some pp
  | .mmas _ (.plane pp _) _ => some pp
  | _ => none

/-- Rows per beat (R152); `mma.f64` takes four beats a row. -/
def prodRate : ProdKind → Nat
  | .mmab .e2m1 _ _ => 8
  | .mmab _ _ _ => 4
  | .mmas .i8 (.tile _ _ _) _ => 2
  | .mmas .e2m1 (.plane _ _) _ => 16
  | .mmas _ (.plane _ _) _ => 8
  | _ => 1
def prodF64 : ProdKind → Bool
  | .mma .f64 _ _ _ => true
  | _ => false
def prodFirst (k : ProdKind) (r : Nat) : Nat := if prodF64 k then 4 * r else r / prodRate k
def prodLast (k : ProdKind) (r : Nat) : Nat := if prodF64 k then 4 * r + 3 else r / prodRate k
def prodBeats (k : ProdKind) : Nat :=
  if prodF64 k then 4 * prodRows k else (prodRows k + prodRate k - 1) / prodRate k

/-- End cycle, and landing cycle of a row (R152). -/
def prodEnd (p : Prod) : Nat := p.start + prodBeats p.kind
def prodLands (k : ProdKind) (start r : Nat) : Nat := start + 3 + prodLast k r

/-- Rows of a product with their landing cycles. -/
def prodLandings (k : ProdKind) (start : Nat) : List (Nat × Nat) :=
  (List.range (prodRows k)).map fun r => (r, prodLands k start r)

/-- End cycle of a fold instruction; the cycle in which `scacc` reads and lands a row; the landings of its beats (R153). -/
def foldEnd (f : Fold) : Nat := match f.kind with | .scacc _ _ _ _ _ _ => f.start + 4 | .acnorm _ => f.start + 1
def foldLandings (k : FoldKind) (start : Nat) : List Nat :=
  match k with
  | .scacc _ _ _ _ _ _ => (List.range 4).map fun b => start + b + 2
  | .acnorm _ => [start + 1]
def foldTile : FoldKind → Fin 4
  | .scacc _ acc _ _ _ _ => acc
  | .acnorm acc => acc

/-- Start of the next instruction of a unit (R152, R153, R180). -/
def unitStart (c : Nat) (lastEnd : Option Nat) : Nat := max (c + 1) (lastEnd.getD 0)

/-- Whether a cycle lies in a scan window on a tile (R180). -/
def inWindow (m : Mx) (acc : Fin 4) (t : Nat) : Bool :=
  m.scans.any fun x => x.acc == acc && decide (x.issue + 1 ≤ t ∧ t ≤ x.start + 7)

/-- Whether a landing of an issued product or fold instruction on a tile falls in a cycle or later (R156, R181). -/
def landsOnTile (m : Mx) (acc : Fin 4) (t : Nat) : Bool :=
  (m.prods.any fun p => (match prodTile p.kind with | some x => x.1 == acc | none => false) &&
    (prodLandings p.kind p.start).any fun l => decide (t ≤ l.2)) ||
  m.folds.any fun f => foldTile f.kind == acc && (foldLandings f.kind f.start).any fun l => decide (t ≤ l)

/-- R156 and R181 for a product issued in cycle c. -/
def prodConflict (m : Mx) (c : Nat) (kind : ProdKind) : Bool :=
  let start := unitStart c (m.prods.getLast?.map prodEnd)
  let lands := prodLandings kind start
  (m.prods.any fun p => decide (c < p.start)) ||
  (match prodPlane kind with
    | some pp => m.folds.any fun f =>
        match f.kind with
        | .scacc _ _ fp _ _ _ => fp == pp && lands.any fun l => decide (l.2 < f.start + l.1 / 16)
        | _ => false
    | none => false) ||
  (match prodTile kind with
    | some x => lands.any fun l => inWindow m x.1 l.2
    | none => false)

/-- R156 and R181 for a fold instruction issued in cycle c. -/
def foldConflict (m : Mx) (c : Nat) (kind : FoldKind) : Bool :=
  let start := unitStart c (m.folds.getLast?.map foldEnd)
  (m.folds.any fun f => decide (c < f.start)) ||
  (match kind with
    | .scacc _ _ pp _ _ _ => m.prods.any fun p => prodPlane p.kind == some pp &&
        (prodLandings p.kind p.start).any fun l => decide (start + l.1 / 16 ≤ l.2)
    | _ => false) ||
  ((foldLandings kind start).any fun t => inWindow m (foldTile kind) t)

/-- R181 for a scan issued in cycle c. -/
def scanConflict (m : Mx) (c : Nat) (acc : Fin 4) : Bool :=
  let start := unitStart c (m.scans.getLast?.map fun x => x.start + 8)
  (m.scans.any fun x => decide (c < x.start)) || landsOnTile m acc start

/-- Whether an issued product has still to read a slot after cycle c (R148, R152): B at its start, row r of A at its first
beat. One whose last read falls in cycle c itself has no read left, so that an `orls` of that cycle releases the slot (DESIGN CHOICE,
log 58). -/
def stillReads (m : Mx) (c : Nat) (o : Fin 24) : Bool :=
  m.prods.any fun p =>
    (p.oa == o && decide (c < p.start + prodFirst p.kind (prodRows p.kind - 1))) ||
    ((p.ob == o || (match p.kind with
      | .mmas ef (.tile _ _ _) _ => ef != .i8 && o.val == p.ob.val + 1
      | _ => false)) && decide (c < p.start))

/-! ### How an M-slot instruction issues -/

def mStop (cause : Cause) : Stop := { cause := cause, smask := 8 }

/-- Checks in the order of R156: slots, tile mode, schedule. -/
def mCheck (slots mode sched : Bool) : Option Stop :=
  if slots || mode then some (mStop .oslot) else if sched then some (mStop .timing) else none

/-- An M-slot instruction without a result: `check` and `act` see the core before the bundle; flags of the write are set
in the issue cycle, in which it lands (R31, R154). -/
def issueM (g : Guard) (void : Ctx → Bool) (check : State → Core → Option Stop) (act : State → Core → Core × Flags) :
    Issue := fun s =>
  let k := cur s
  if guardOn k.ctx g then
    match check s k with
    | some e => .error e
    | none =>
      let r := act s k
      .ok (setCur s { r.1 with ctx := raise (noteVoid r.1.ctx (voidP k.ctx g.p || void k.ctx)) r.2 })
  else .ok (setCtx s (noteVoid k.ctx (voidP k.ctx g.p)))

/-! ### Words of slots, tiles and planes that cannot be corrected (R307) -/

/-- Whether a row of a slot, data or side, a row, the exponents or the carry of a tile, or a row of a plane lies in such a word. -/
def dataBad (k : Core) (o row n : Nat) : Bool := sramBad k .slot (9216 * o + 128 * row) (128 * n)
def sideBad (k : Core) (o row n : Nat) : Bool := sramBad k .slot (9216 * o + 8192 + 16 * row) (16 * n)
def rowBad (k : Core) (acc row n : Nat) : Bool := sramBad k .tile (49152 * acc + 768 * row) (768 * n)
def exBad (k : Core) (acc : Nat) : Bool := sramBad k .tile (199680 + 256 * acc) 256
def cyBad (k : Core) (acc : Nat) : Bool := sramBad k .tile (196608 + 768 * acc) 768
def planeBad (k : Core) (pp row n : Nat) : Bool := sramBad k .plane (16384 * pp + 256 * row) (256 * n)

/-- A write of a whole slot, of a whole tile with its carry and exponents. -/
def slotGood (o : Nat) (k : Core) : Core := sramGood .slot (9216 * o) 9216 k
def tileGood (acc : Nat) (k : Core) : Core :=
  sramGood .tile (49152 * acc) 49152 (sramGood .tile (196608 + 768 * acc) 768 (sramGood .tile (199680 + 256 * acc) 256 k))

/-- A check of an M-slot instruction, and after it the words that it reads. -/
def orBad (bad : Bool) (check : Option Stop) : Option Stop :=
  match check with
  | some e => some e
  | none => if bad then some (sramStop 0 8 none) else none

/-- An M-slot instruction with a vector result after 6 cycles (R154); `bad` says whether it reads a word that cannot be corrected. -/
def issueMv (g : Guard) (d : VDst) (bad : Core → Bool) (check : Core → Option Stop) (f : Core → VWord × Flags) : Issue := fun s =>
  let k := cur s
  match if guardOn k.ctx g then orBad (bad k) (check k) else none with
  | some e => .error e
  | none => .ok (setCtx s (issueV 3 6 g d (fun _ => false) (fun _ => f k) k.ctx))

/-- A write of one tile through the access port (R154, R155, R181 case 4): its mode as the tile stands before the cycle. `bad` says
whether the write merges with a word that cannot be corrected. -/
def issueTile (g : Guard) (acc : Fin 4) (a : Option VOp) (bad : Core → Bool) (mode : Tile → Bool)
    (f : Ctx → Tile → Tile × Flags) : Issue :=
  issueM g (fun c => (a.map (voidV c)).getD false)
    (fun _ k => orBad (bad k) (mCheck false (!mode (tileOf k.mx.now acc)) (inWindow k.mx acc k.ctx.bc)))
    (fun _ k =>
      let d := k.mx.next.getD k.mx.now
      let r := f k.ctx (tileOf d acc)
      ({ k with mx := mxWrite k.mx fun d => setTile d acc { r.1 with used := true } }, r.2))

/-! ### Slots -/

/-- `oclm` (R148). -/
def issueOclm (g : Guard) (o : Fin 24) : Issue :=
  issueM g (fun _ => false)
    (fun s k => mCheck (slotHeld k.mx o || decide (slotLimit s k ≤ o.val)) false false)
    (fun _ k =>
      let m := mxWrite k.mx fun d => clearSlot d o.val
      (slotGood o.val { k with mx := { m with claimed := m.claimed ||| BitVec.ofNat 24 (2 ^ o.val) } }, 0))
def execOclm (g : Guard) (o : Fin 24) (s : State) : Out := settle s (issueOclm g o s)

/-- `orls` (R148, R198). -/
def issueOrls (g : Guard) (o : Fin 24) : Issue :=
  issueM g (fun _ => false)
    (fun s k => mCheck (!slotHeld k.mx o || decide (slotLimit s k ≤ o.val) || stillReads k.mx k.ctx.bc o ||
      !(pendingRows s s.sched.cur o).isEmpty) false false)
    (fun _ k => ({ k with mx := { k.mx with claimed := k.mx.claimed &&& ~~~BitVec.ofNat 24 (2 ^ o.val) } }, 0))
def execOrls (g : Guard) (o : Fin 24) (s : State) : Out := settle s (issueOrls g o s)

/-- What `owr` writes (R149). -/
def owrData (part : OSel) (o row : Nat) (v : Nat) (d : MxData) : MxData :=
  match part with
  | .lo => setDataRow d o row (BitVec.ofNat 1024 v)
  | .hi => setDataRow d o row (BitVec.ofNat 1024 (v / 2 ^ 1024))
  | .side => (List.range 16).foldl (fun d i => setSideRow d o (row + i) (BitVec.ofNat 128 (v / 2 ^ (128 * i)))) d

/-- The words that `owr` covers. -/
def owrGood (part : OSel) (o row : Nat) (k : Core) : Core :=
  match part with
  | .side => sramGood .slot (9216 * o + 8192 + 16 * row) 256 k
  | _ => sramGood .slot (9216 * o + 128 * row) 128 k

/-- `owr` (R149). -/
def issueOwr (g : Guard) (part : OSel) (o : Fin 24) (row : Nat) (a : VOp) : Issue :=
  issueM g (fun c => voidV c a)
    (fun _ k => mCheck (!slotHeld k.mx o) false false)
    (fun _ k => (owrGood part o.val row { k with mx := mxWrite k.mx (owrData part o.val row (valV k.ctx a).toNat) }, 0))
def execOwr (g : Guard) (part : OSel) (o : Fin 24) (row : Nat) (a : VOp) (s : State) : Out :=
  settle s (issueOwr g part o row a s)

/-- What `ordv` reads (R149). -/
def ordvData (part : OSel) (o row : Nat) (d : MxData) : VWord :=
  match part with
  | .lo => (dataRow d o row).setWidth 2048
  | .hi => (dataRow d o row).setWidth 2048 <<< 1024
  | .side => BitVec.ofNat 2048 (ofLanes 128 ((List.range 16).map fun i => (sideRow d o (row + i)).toNat))

/-- `ordv` (R149). -/
def issueOrdv (g : Guard) (d : VDst) (part : OSel) (o : Fin 24) (row : Nat) : Issue :=
  issueMv g d (fun k => match part with | .side => sideBad k o.val row 16 | _ => dataBad k o.val row 1)
    (fun k => mCheck (!slotHeld k.mx o) false false) (fun k => (ordvData part o.val row k.mx.now, 0))
def execOrdv (g : Guard) (d : VDst) (part : OSel) (o : Fin 24) (row : Nat) (s : State) : Out :=
  settle s (issueOrdv g d part o row s)

/-! ### Products and folds -/

/-- `mzero` (R163, R156, R181). -/
def issueMzero (g : Guard) (f64 : Bool) (acc : Fin 4) : Issue :=
  issueM g (fun _ => false)
    (fun _ k => mCheck false false (landsOnTile k.mx acc k.ctx.bc || inWindow k.mx acc k.ctx.bc))
    (fun _ k => (tileGood acc.val { k with mx := mxWrite k.mx fun d => setTile d acc (tileZero f64) }, 0))
def execMzero (g : Guard) (f64 : Bool) (acc : Fin 4) (s : State) : Out := settle s (issueMzero g f64 acc s)

/-- Slots of B that a product reads (R152, R160). -/
def prodBs (kind : ProdKind) (ob : Fin 24) : List (Fin 24) :=
  match kind with
  | .mmas ef (.tile _ _ _) _ => if ef != .i8 then [ob, Fin.ofNat 24 (ob.val + 1)] else [ob]
  | _ => [ob]

/-- R198 for a product about to issue on the core in issue: rows of A at their first beats, rows of B at the start. -/
def fillBars (s : State) (k : Core) (kind : ProdKind) (oa ob : Fin 24) : Bool :=
  let c := k.ctx.bc
  let start := unitStart c (k.mx.prods.getLast?.map prodEnd)
  let row0 := match prodTile kind with | some x => x.2 | none => 0
  let tick := coreTick s s.sched.cur
  fillConflict s s.sched.cur oa ((List.range (prodRows kind)).map fun r => (row0 + r, start + prodFirst kind r)) c tick ||
    (prodBs kind ob).any fun o => fillConflict s s.sched.cur o ((List.range 64).map fun r => (r, start)) c tick

/-- Checks of a product instruction in the order of R156. -/
def prodCheck (s : State) (k : Core) (kind : ProdKind) (oa ob : Fin 24) (mode : Bool) : Option Stop :=
  mCheck (!slotHeld k.mx oa || (prodBs kind ob).any fun o => !slotHeld k.mx o) mode
    (prodConflict k.mx k.ctx.bc kind || fillBars s k kind oa ob)

/-- Queues a product (R152). -/
def addProd (k : Core) (kind : ProdKind) (oa ob : Fin 24) : Core :=
  let start := unitStart k.ctx.bc (k.mx.prods.getLast?.map prodEnd)
  { k with mx := { k.mx with prods := k.mx.prods ++ [{ kind := kind, oa := oa, ob := ob, start := start }] } }

/-- `mma` (R157). -/
def issueMma (g : Guard) (ef : EF) (acc : Fin 4) (oa ob : Fin 24) (row0 nrow : Nat) : Issue :=
  issueM g (fun _ => false)
    (fun s k => prodCheck s k (.mma ef acc row0 nrow) oa ob ((tileOf k.mx.now acc).f64 != (ef == .f64)))
    (fun _ k => (addProd k (.mma ef acc row0 nrow) oa ob, 0))
def execMma (g : Guard) (ef : EF) (acc : Fin 4) (oa ob : Fin 24) (row0 nrow : Nat) (s : State) : Out :=
  settle s (issueMma g ef acc oa ob row0 nrow s)

/-- `mmab` (R158). -/
def issueMmab (g : Guard) (ef : EF) (pp : Fin 2) (oa ob : Fin 24) (kb : Nat) : Issue :=
  issueM g (fun _ => false)
    (fun s k => prodCheck s k (.mmab ef pp kb) oa ob false)
    (fun _ k => (addProd k (.mmab ef pp kb) oa ob, 0))
def execMmab (g : Guard) (ef : EF) (pp : Fin 2) (oa ob : Fin 24) (kb : Nat) (s : State) : Out :=
  settle s (issueMmab g ef pp oa ob kb s)

/-- Where a metadata record stands (R161, R229). -/
def metaVa (s : State) (k : Core) (n : Nat) : Nat := (getInst s ((k.blk.map (·.inst)).getD 0)).metaBase + 1024 * n

/-- Reads a metadata record of a core for the fetch channel (R161, R229, R231, R232): its bytes, or why it failed with the
address. A record lies in one page. -/
def readMeta (s : State) (core n : Nat) : State × Except (Nat × Nat) (List Byte) :=
  let va := metaVa s (getCore s core) n
  match fetchBytes s core va 1024 with
  | (s1, .error e) => (s1, .error (e, va))
  | (s1, .ok bs) => (s1, .ok bs)

/-- Puts a record into the metadata buffer, which holds four (R161); the oldest number leaves. -/
def putMeta (k : Core) (n : Nat) (l : CodeLine) : Core :=
  let m := smPut k.metas n l
  sramGood .metas (1024 * n) 1024 { k with metas := if 4 < m.length then m.filter fun x => x.1 == n || x.1 != (m.find? fun y => y.1 != n).elim 0 (·.1) else m }

/-- `METADATA_FETCH` (R161, R231): a record comes into the buffer, or is marked failed. -/
def fetchMeta (core n : Nat) (s : State) : State :=
  match readMeta s core n with
  | (s1, .error e) => setCore s1 core (putMeta (getCore s1 core) n (.bad (reasonFetch e.1) e.1))
  | (s1, .ok bs) => setCore s1 core (putMeta (getCore s1 core) n (.bytes bs))
def execMetadataFetch (core record : Nat) (s : State) : Out := .next (fetchMeta core record s)

/-- The record that `mmas` reads: from the buffer, or by a fetch that the bundle waits for. Its `FETCH` is taken in the turn of slot M, after
the decode conditions and the traps of the slots before it, with a slot mask of 0 (DESIGN CHOICE, log 58: R55 has `FETCH` precede all
for a bundle that was never decoded, which a bundle with an `mmas` has been). -/
def metaRecord (s : State) (core n : Nat) : State × Except Stop (BitVec 8192) :=
  let s1 := if (smGet (getCore s core).metas n).isSome then s else fetchMeta core n s
  match smGet (getCore s1 core).metas n with
  | some (.bytes bs) =>
    (s1, if sramBad (getCore s1 core) .metas (1024 * n) 1024 then .error (sramStop 5 0 none)
         else .ok (BitVec.ofNat 8192 (leNat bs)))
  | some (.bad cause reason) =>
    let va := metaVa s (getCore s core) n
    let at' := if reason = 13 then badLineVa s (core / 16) (corePart s core) va 4 else va
    (s1, .error { cause := cause, engine := 5, reason := reason, va := some at' })
  | none => (s1, .error (mStop .fetch))

/-- What `mmas` needs of its target tile (R160): an AF tile. -/
def mmasMode (dst : MmasDst) (k : Core) : Bool :=
  match dst with
  | .tile acc _ _ => (tileOf k.mx.now acc).f64
  | .plane _ _ => false

/-- `mmas` (R160, R161): its record is read under `MPC`, which then counts up. -/
def issueMmas (g : Guard) (ef : EF) (dst : MmasDst) (oa ob : Fin 24) : Issue := fun s =>
  let k := cur s
  if guardOn k.ctx g then
    match metaRecord s s.sched.cur k.ctx.mpc.toNat with
    | (_, .error e) => .error e
    | (s1, .ok data) =>
      issueM g (fun _ => false)
        (fun s k => prodCheck s k (.mmas ef dst data) oa ob (mmasMode dst k))
        (fun _ k =>
          let k1 := addProd k (.mmas ef dst data) oa ob
          ({ k1 with ctx := { k1.ctx with mpc := k1.ctx.mpc + 1 } }, 0)) s1
  else .ok (setCtx s (noteVoid k.ctx (voidP k.ctx g.p)))
def execMmas (g : Guard) (ef : EF) (dst : MmasDst) (oa ob : Fin 24) (s : State) : Out :=
  settle s (issueMmas g ef dst oa ob s)

/-- `scacc` (R159). -/
def issueScacc (g : Guard) (ef : EF) (acc : Fin 4) (pp : Fin 2) (oa ob : Fin 24) (kb : Nat) : Issue :=
  let kind := FoldKind.scacc ef acc pp oa ob kb
  issueM g (fun _ => false)
    (fun _ k => mCheck (!slotHeld k.mx oa || !slotHeld k.mx ob) (tileOf k.mx.now acc).f64 (foldConflict k.mx k.ctx.bc kind))
    (fun _ k =>
      let start := unitStart k.ctx.bc (k.mx.folds.getLast?.map foldEnd)
      ({ k with mx := { k.mx with folds := k.mx.folds ++ [{ kind := kind, start := start }] } }, 0))
def execScacc (g : Guard) (ef : EF) (acc : Fin 4) (pp : Fin 2) (oa ob : Fin 24) (kb : Nat) (s : State) : Out :=
  settle s (issueScacc g ef acc pp oa ob kb s)

/-- `acnorm` (R167). -/
def issueAcnorm (g : Guard) (acc : Fin 4) : Issue :=
  issueM g (fun _ => false)
    (fun _ k => mCheck false (tileOf k.mx.now acc).f64 (foldConflict k.mx k.ctx.bc (.acnorm acc)))
    (fun _ k =>
      let start := unitStart k.ctx.bc (k.mx.folds.getLast?.map foldEnd)
      ({ k with mx := { k.mx with folds := k.mx.folds ++ [{ kind := .acnorm acc, start := start }] } }, 0))
def execAcnorm (g : Guard) (acc : Fin 4) (s : State) : Out := settle s (issueAcnorm g acc s)

/-! ### Access to tiles -/

/-- Whether a part belongs to a mode (R164). -/
def acMode (part : AcSel) (t : Tile) : Bool := t.f64 == (part == .f64lo || part == .f64hi)

/-- 32 signed mantissas as i64 lanes. -/
def manLanes (gain : Bool) (xs : List (BitVec 96)) : VWord × Flags :=
  (BitVec.ofNat 2048 (ofLanes 64 (xs.map fun x => wrap 64 (entPart gain x))), 0)

/-- 64 values as f32 lanes, rounded (R164, R190). -/
def f32Lanes (gain : Bool) (xs : List (BitVec 96)) (ex : List (BitVec 32)) : VWord × Flags :=
  ofLv 32 (List.zipWith (fun x e =>
    let m := entPart gain x
    roundF .f32 .ne false (decide (m < 0)) m.natAbs (exPart gain e)) xs ex)

/-- What `acrd` reads of a row (R164). -/
def acRead (part : AcSel) (t : Tile) (row : Nat) : VWord × Flags :=
  let r := tileRow t row
  match part with
  | .bm0 => manLanes false (r.take 32)
  | .bm1 => manLanes false (r.drop 32)
  | .gm0 => manLanes true (r.take 32)
  | .gm1 => manLanes true (r.drop 32)
  | .f32 => f32Lanes false r t.ex
  | .gf32 => f32Lanes true r t.ex
  | .f64lo => (BitVec.ofNat 2048 (ofLanes 64 ((r.take 32).map (·.toNat))), 0)
  | .f64hi => (BitVec.ofNat 2048 (ofLanes 64 ((r.drop 32).map (·.toNat))), 0)

/-- Whether a part is read or written on the column grids (R112, R164, R165): mantissas and F64 entries use no exponent. -/
def acGrid (part : AcSel) : Bool := part == .f32 || part == .gf32

/-- Whether a part's write merges with the row (R165): an F64 entry is written whole. -/
def acMerges (part : AcSel) : Bool := !(part == .f64lo || part == .f64hi)

/-- `acrd` (R164). -/
def issueAcrd (g : Guard) (d : VDst) (part : AcSel) (acc : Fin 4) (row : Fin 64) : Issue :=
  issueMv g d (fun k => rowBad k acc.val row.val 1 || (acGrid part && exBad k acc.val))
    (fun k => mCheck false (!acMode part (tileOf k.mx.now acc)) false) (fun k => acRead part (tileOf k.mx.now acc) row.val)
def execAcrd (g : Guard) (d : VDst) (part : AcSel) (acc : Fin 4) (row : Fin 64) (s : State) : Out :=
  settle s (issueAcrd g d part acc row s)

/-- Mantissas of 32 entries from i64 lanes, clamped (R165, R190). -/
def manSet (gain : Bool) (hi : Bool) (v : VWord) (r : List (BitVec 96)) : List (BitVec 96) × Flags :=
  let cs := (lanesOf 64 32 v.toNat).map fun x => satInt (sInt 64 x) (-manMax) manMax
  let put := List.zipWith (fun e (c : Int × Flags) => entSet gain e c.1) (if hi then r.drop 32 else r.take 32) cs
  (if hi then r.take 32 ++ put else put ++ r.drop 32, cs.foldl (fun f c => f ||| c.2) 0)

/-- An f32 lane as an exact value; a NaN or an infinity stands for 0. -/
def f32Val (v : VWord) (j : Nat) : Option Dy := dyOf (decodeF .f32 (bits v.toNat (32 * j) 32))
def f32Dy (v : VWord) (j : Nat) : Dy := (f32Val v j).getD (0, 0)
def f32Bad (v : VWord) : Flags := fIf ((List.range 64).any fun j => (f32Val v j).isNone) fINVALID

/-- A NaN becomes the canonical NaN; a signalling one sets `INVALID` (R100, R165). -/
def f64Lane (x : Nat) : Nat × Flags := if isNan .f64 x then nanF .f64 (isSig .f64 x) else (x, 0)

/-- F64 entries of half a row (R165). -/
def f64Set (hi : Bool) (v : VWord) (r : List (BitVec 96)) : List (BitVec 96) × Flags :=
  let cs := (lanesOf 64 32 v.toNat).map f64Lane
  let put := cs.map fun c => BitVec.ofNat 96 c.1
  (if hi then r.take 32 ++ put else put ++ r.drop 32, cs.foldl (fun f c => f ||| c.2) 0)

/-- What `acwr` writes (R165). -/
def acWrite (part : AcSel) (row : Nat) (v : VWord) (t : Tile) : Tile × Flags :=
  let rowPut := fun (x : List (BitVec 96) × Flags) => (setRow t row x.1, x.2)
  let grid := fun (gain : Bool) =>
    let r := tileWrite gain (fun i j => if i = row then some (f32Dy v j) else none) t
    (r.1, r.2 ||| f32Bad v)
  match part with
  | .bm0 => rowPut (manSet false false v (tileRow t row))
  | .bm1 => rowPut (manSet false true v (tileRow t row))
  | .gm0 => rowPut (manSet true false v (tileRow t row))
  | .gm1 => rowPut (manSet true true v (tileRow t row))
  | .f32 => grid false
  | .gf32 => grid true
  | .f64lo => rowPut (f64Set false v (tileRow t row))
  | .f64hi => rowPut (f64Set true v (tileRow t row))

/-- `acwr` (R165). -/
def issueAcwr (g : Guard) (part : AcSel) (acc : Fin 4) (row : Fin 64) (a : VOp) : Issue := fun s =>
  match issueTile g acc (some a) (fun k => acMerges part && (rowBad k acc.val row.val 1 || (acGrid part && exBad k acc.val)))
      (acMode part) (fun c t => acWrite part row.val (valV c a) t) s with
  | .error e => .error e
  | .ok t =>
    .ok (if acMerges part ∨ !guardOn (curCtx s) g then t
      else setCur t (sramGood .tile (49152 * acc.val + 768 * row.val + if part = .f64hi then 384 else 0) 384 (cur t)))
def execAcwr (g : Guard) (part : AcSel) (acc : Fin 4) (row : Fin 64) (a : VOp) (s : State) : Out :=
  settle s (issueAcwr g part acc row a s)

/-- `acexp.rd` (R166). -/
def issueAcexpRd (g : Guard) (d : VDst) (acc : Fin 4) : Issue :=
  issueMv g d (fun k => exBad k acc.val) (fun _ => none)
    (fun k => (BitVec.ofNat 2048 (ofLanes 32 ((tileOf k.mx.now acc).ex.map (·.toNat))), 0))
def execAcexpRd (g : Guard) (d : VDst) (acc : Fin 4) (s : State) : Out := settle s (issueAcexpRd g d acc s)

/-- `acexp.wr` (R166). -/
def issueAcexpWr (g : Guard) (acc : Fin 4) (a : VOp) : Issue :=
  issueM g (fun c => voidV c a) (fun _ k => mCheck false false (inWindow k.mx acc k.ctx.bc))
    (fun _ k =>
      let ex := (lanesOf 32 64 (valV k.ctx a).toNat).map (BitVec.ofNat 32)
      let f := fun d => setTile d acc { tileOf d acc with ex := ex, used := true }
      (sramGood .tile (199680 + 256 * acc.val) 256 { k with mx := mxWrite k.mx f }, 0))
def execAcexpWr (g : Guard) (acc : Fin 4) (a : VOp) (s : State) : Out := settle s (issueAcexpWr g acc a s)

/-- `mdpc` (R162): `MPC` from the next cycle on, and the metadata buffer empties. -/
def issueMdpc (g : Guard) (b : SOp) : Issue :=
  issueM g (fun c => voidS c b) (fun _ _ => none)
    (fun _ k => ({ k with ctx := { k.ctx with mpc := BitVec.ofNat 32 (valS k.ctx b).toNat }, metas := [] }, 0))
def execMdpc (g : Guard) (b : SOp) (s : State) : Out := settle s (issueMdpc g b s)

/-! ### Affine instructions -/

/-- An AF tile (R182). -/
def afTile (t : Tile) : Bool := !t.f64

/-- The operations of R189. -/
inductive GainOp where
  | set | mul | mix | add
  deriving DecidableEq, Repr

/-- New gain and offset of an entry under λ (R189): none where the part is unchanged. -/
def gainNew (op : GainOp) (l : Option Dy) (g b : Dy) : Option Dy × Option Dy :=
  let z : Dy := (0, 0)
  match op, l with
  | .set, l => (some (l.getD z), none)
  | .mul, none => (some z, some z)
  | .mul, some x => (some (dyMul x g), some (dyMul x b))
  | .mix, none => (some z, some z)
  | .mix, some x => (some x, some (dyMul (dyAdd (1, 0) (-x.1, x.2)) b))
  | .add, none => (none, some z)
  | .add, some x => (none, some (dyAdd b x))

/-- `afgain` on a tile (R189): one row, or all of them. -/
def gainWrite (op : GainOp) (row : Option (Fin 64)) (v : VWord) (t : Tile) : Tile × Flags :=
  let lam := ((List.range 64).map (f32Val v)).toArray
  let rows := ((List.range 64).map fun i => (tileRow t i).toArray).toArray
  let ex := t.ex.toArray
  let new := fun (i j : Nat) =>
    let x := (rows.getD i #[]).getD j 0
    let e := ex.getD j 0
    gainNew op (lam.getD j none) (entGM x, exG e) (entBM x, exB e)
  let on := fun (i : Nat) => decide (i < 64) && match row with | some r => r.val == i | none => true
  let a := tileWrite true (fun i j => if on i then (new i j).1 else none) t
  let b := tileWrite false (fun i j => if on i then (new i j).2 else none) a.1
  (b.1, a.2 ||| b.2 ||| f32Bad v)

/-- Whether a tile holds a word that cannot be corrected. -/
def tileBad (k : Core) (acc : Nat) : Bool := rowBad k acc 0 64 || exBad k acc || cyBad k acc

/-- `afgain.set`, `.mul`, `.mix`, `.add` (R189). -/
def issueAfgainSet (g : Guard) (acc : Fin 4) (row : Option (Fin 64)) (a : VOp) : Issue :=
  issueTile g acc (some a) (fun k => tileBad k acc.val) afTile fun c t => gainWrite .set row (valV c a) t
def execAfgainSet (g : Guard) (acc : Fin 4) (row : Option (Fin 64)) (a : VOp) (s : State) : Out :=
  settle s (issueAfgainSet g acc row a s)
def issueAfgainMul (g : Guard) (acc : Fin 4) (row : Option (Fin 64)) (a : VOp) : Issue :=
  issueTile g acc (some a) (fun k => tileBad k acc.val) afTile fun c t => gainWrite .mul row (valV c a) t
def execAfgainMul (g : Guard) (acc : Fin 4) (row : Option (Fin 64)) (a : VOp) (s : State) : Out :=
  settle s (issueAfgainMul g acc row a s)
def issueAfgainMix (g : Guard) (acc : Fin 4) (row : Option (Fin 64)) (a : VOp) : Issue :=
  issueTile g acc (some a) (fun k => tileBad k acc.val) afTile fun c t => gainWrite .mix row (valV c a) t
def execAfgainMix (g : Guard) (acc : Fin 4) (row : Option (Fin 64)) (a : VOp) (s : State) : Out :=
  settle s (issueAfgainMix g acc row a s)
def issueAfgainAdd (g : Guard) (acc : Fin 4) (row : Option (Fin 64)) (a : VOp) : Issue :=
  issueTile g acc (some a) (fun k => tileBad k acc.val) afTile fun c t => gainWrite .add row (valV c a) t
def execAfgainAdd (g : Guard) (acc : Fin 4) (row : Option (Fin 64)) (a : VOp) (s : State) : Out :=
  settle s (issueAfgainAdd g acc row a s)

/-- Queues a scan (R180). -/
def issueScan (comp : Bool) (g : Guard) (acc : Fin 4) (n : Nat) : Issue :=
  issueM g (fun _ => false)
    (fun _ k => mCheck false (tileOf k.mx.now acc).f64 (scanConflict k.mx k.ctx.bc acc))
    (fun _ k =>
      let start := unitStart k.ctx.bc (k.mx.scans.getLast?.map fun x => x.start + 8)
      let x : Scan := { comp := comp, acc := acc, n := n, issue := k.ctx.bc, start := start }
      ({ k with mx := { k.mx with scans := k.mx.scans ++ [x] } }, 0))

/-- `afscan` (R187). -/
def issueAfscan (g : Guard) (acc : Fin 4) (n : Nat) : Issue := issueScan false g acc n
def execAfscan (g : Guard) (acc : Fin 4) (n : Nat) (s : State) : Out := settle s (issueAfscan g acc n s)

/-- `afcomp` (R188). -/
def issueAfcomp (g : Guard) (acc : Fin 4) (n : Nat) : Issue := issueScan true g acc n
def execAfcomp (g : Guard) (acc : Fin 4) (n : Nat) (s : State) : Out := settle s (issueAfcomp g acc n s)

/-- What the read forms of `afcarry` read (R190). -/
def cyRead (part : CySel) (t : Tile) : VWord × Flags :=
  match part with
  | .bm0 => manLanes false (t.cy.take 32)
  | .bm1 => manLanes false (t.cy.drop 32)
  | .gm0 => manLanes true (t.cy.take 32)
  | .gm1 => manLanes true (t.cy.drop 32)
  | .f32 => f32Lanes false t.cy t.ex
  | .gf32 => f32Lanes true t.cy t.ex

/-- `afcarry`, read forms (R190). -/
def issueAfcarryRd (g : Guard) (d : VDst) (part : CySel) (acc : Fin 4) : Issue :=
  issueMv g d (fun k => cyBad k acc.val || exBad k acc.val) (fun k => mCheck false (tileOf k.mx.now acc).f64 false)
    (fun k => cyRead part (tileOf k.mx.now acc))
def execAfcarryRd (g : Guard) (d : VDst) (part : CySel) (acc : Fin 4) (s : State) : Out :=
  settle s (issueAfcarryRd g d part acc s)

/-- What the write forms write (R190). -/
def cyWrite (part : CySel) (v : VWord) (t : Tile) : Tile × Flags :=
  let man := fun (gain hi : Bool) => let x := manSet gain hi v t.cy; ({ t with cy := x.1 }, x.2)
  let grid := fun (gain : Bool) =>
    let r := tileWrite gain (fun i j => if i = 64 then some (f32Dy v j) else none) t
    (r.1, r.2 ||| f32Bad v)
  match part with
  | .bm0 => man false false
  | .bm1 => man false true
  | .gm0 => man true false
  | .gm1 => man true true
  | .f32 => grid false
  | .gf32 => grid true

/-- `afcarry`, write forms (R190). -/
def issueAfcarryWr (g : Guard) (part : CySel) (acc : Fin 4) (a : VOp) : Issue :=
  issueTile g acc (some a) (fun k => tileBad k acc.val) afTile fun c t => cyWrite part (valV c a) t
def execAfcarryWr (g : Guard) (part : CySel) (acc : Fin 4) (a : VOp) (s : State) : Out :=
  settle s (issueAfcarryWr g part acc a s)

/-- `afcarry.wr.h` (R190): gain exactly 1 and offset from the lane, both under R113 and R114. -/
def cyWriteH (v : VWord) (t : Tile) : Tile × Flags :=
  let a := tileWrite true (fun i _ => if i = 64 then some (1, 0) else none) t
  let b := tileWrite false (fun i j => if i = 64 then some (f32Dy v j) else none) a.1
  (b.1, a.2 ||| b.2 ||| f32Bad v)
def issueAfcarryWrH (g : Guard) (acc : Fin 4) (a : VOp) : Issue :=
  issueTile g acc (some a) (fun k => tileBad k acc.val) afTile fun c t => cyWriteH (valV c a) t
def execAfcarryWrH (g : Guard) (acc : Fin 4) (a : VOp) (s : State) : Out := settle s (issueAfcarryWrH g acc a s)

/-! ### Reads and landings of the units -/

/-- Applies a change to a core's matrix engine and raises flags in its context. -/
def onMx (core : Nat) (f : Core → Mx × Flags) (s : State) : State :=
  let k := getCore s core
  let r := f k
  setCore s core { k with mx := r.1, ctx := raise k.ctx r.2 }

/-- The same for a landing: what the engine and the flags were before the cycle's landings is kept, for a stop in the cycle takes them
back (R171). -/
def onMxRow (core : Nat) (f : Core → Mx × Flags) (s : State) : State :=
  let k := getCore s core
  onMx core f (setCore s core { k with mxWas := some (k.mxWas.getD (k.mx, k.ctx.flags)) })

/-- Units of the matrix engine that meet a word that cannot be corrected leave it, before anything of the word is used (R227, R307): the
core faults at the next bundle (log 56). `own` says whether the word is one of a slot or tile. -/
def failUnits (core : Nat) (own : Bool) (bad : Core → Mx → Mx) (s : State) : State :=
  let k := getCore s core
  if k.badWords.isEmpty then s
  else
    let m := bad k k.mx
    if m = k.mx then s
    else setCore s core { k with mx := m, faults := k.faults ++ [⟨3, s.nextReq, sramStop 0 0 none, own⟩] }

/-- Whether a product, a fold or a scan reads such a word in a cycle, and whether one of its landings merges with one. -/
def prodReadsBad (k : Core) (t : Nat) (p : Prod) : Bool :=
  let row0 := match prodTile p.kind with | some x => x.2 | none => 0
  (decide (p.start = t) && (prodBs p.kind p.ob).any fun o => dataBad k o.val 0 64 || sideBad k o.val 0 64) ||
  (List.range (prodRows p.kind)).any fun r => decide (p.start + prodFirst p.kind r = t) &&
    (dataBad k p.oa.val (row0 + r) 1 || sideBad k p.oa.val (row0 + r) 1)
def foldReadsBad (k : Core) (t : Nat) (f : Fold) : Bool :=
  match f.kind with
  | .acnorm _ => false
  | .scacc _ _ _ oa ob _ => (decide (f.start = t) && sideBad k ob.val 0 64) ||
      (List.range 64).any fun i => decide (f.start + i / 16 = t) && sideBad k oa.val i 1
def foldPlaneBad (k : Core) (t : Nat) (f : Fold) : Bool :=
  match f.kind with
  | .acnorm _ => false
  | .scacc _ _ pp _ _ _ => (List.range 64).any fun i => decide (f.start + i / 16 = t) && planeBad k pp.val i 1
def scanReadsBad (k : Core) (t : Nat) (x : Scan) : Bool :=
  decide (x.start = t) && (rowBad k x.acc.val 0 x.n || cyBad k x.acc.val || exBad k x.acc.val)

/-- The reads of a product in cycle t (R152): B at the start, rows of A at their first beats. -/
def prodReads (d : MxData) (t : Nat) (p : Prod) : Prod :=
  let o := p.ob.val
  let two : Bool := match p.kind with | .mmas ef (.tile _ _ _) _ => ef != .i8 | _ => false
  let p1 := if p.start = t then
      { p with bRows := ((List.range 64).map (dataRow d o)) ++ (if two then (List.range 64).map (dataRow d (o + 1)) else []),
               bSide := (List.range 64).map (sideRow d o) }
    else p
  let row0 := match prodTile p.kind with | some x => x.2 | none => 0
  let as := (List.range (prodRows p.kind)).foldl (fun m r =>
      if p.start + prodFirst p.kind r = t then smPut m r (dataRow d p.oa.val (row0 + r), sideRow d p.oa.val (row0 + r)) else m)
    p1.aRows
  { p1 with aRows := as }

/-- `PRODUCT_START` (R152): the operand reads that the product array makes in the cycle. -/
def execProductStart (core : Nat) (s : State) : Out :=
  .next (onMx core (fun k => ({ k.mx with prods := k.mx.prods.map (prodReads k.mx.now k.ctx.bc) }, 0))
    (failUnits core true (fun k m => { m with prods := m.prods.filter fun p => !prodReadsBad k k.ctx.bc p }) s))

/-- The rows of a product due by cycle t, as relative rows. -/
def prodDue (t : Nat) (p : Prod) : List Nat :=
  (List.range (prodRows p.kind)).filter fun r => decide (p.next ≤ r) && decide (prodLands p.kind p.start r ≤ t)

/-- Whether a landing of a product merges with a word that cannot be corrected; the words that its landings in a plane cover. -/
def prodMergesBad (k : Core) (t : Nat) (p : Prod) : Bool :=
  match prodTile p.kind with
  | none => false
  | some (acc, row0) => !(prodDue t p).isEmpty &&
      ((!prodF64 p.kind && exBad k acc.val) || (prodDue t p).any fun r => rowBad k acc.val (row0 + r) 1)
def prodCovers (t : Nat) (k : Core) (p : Prod) : Core :=
  match prodPlane p.kind with
  | none => k
  | some pp => (prodDue t p).foldl (fun k r => sramGood .plane (16384 * pp.val + 256 * r) 256 k) k

/-- The rows of one product that land together (R155, R157, R158, R160). -/
def landProd (rs : List Nat) (p : Prod) (d : MxData) : MxData × Flags :=
  let aOf := fun (r : Nat) => smGetD p.aRows r (0, 0)
  match p.kind with
  | .mma .f64 acc row0 _ =>
    rs.foldl (fun x r =>
      let t := tileOf x.1 acc
      let y := f64Row (aOf r).1 p.bRows (tileRow t (row0 + r))
      (setTile x.1 acc (setRow t (row0 + r) y.1), x.2 ||| y.2)) (d, 0)
  | kind =>
    let bs := (List.range 64).map (prodB kind p.bRows.toArray p.bSide.toArray)
    match prodTile kind, prodPlane kind with
    | some (acc, row0), _ =>
      let sums := rs.map fun r => (row0 + r, prodRow kind (row0 + r) (aOf r) bs)
      let t := tileOf d acc
      let ex := t.ex.toArray
      let tab := sums.map fun x => (x.1, (x.2.1.toArray, (tileRow t x.1).toArray))
      let news := fun (i j : Nat) =>
        (tab.find? fun x => x.1 == i).map fun x => dyAdd (entBM (x.2.2.getD j 0), exB (ex.getD j 0)) (x.2.1.getD j (0, 0))
      let y := tileWrite false news t
      (setTile d acc { y.1 with used := true }, y.2 ||| fIf (sums.any fun x => x.2.2) fINVALID)
    | none, some pp =>
      rs.foldl (fun x r =>
        let y := prodRow kind r (aOf r) bs
        let out := y.1.map fun v => roundF .f32 .ne false (decide (v.1 < 0)) v.1.natAbs v.2
        (setPlaneRow x.1 pp.val r (out.map fun q => BitVec.ofNat 32 q.1),
          out.foldl (fun f q => f ||| q.2) (x.2 ||| fIf y.2 fINVALID))) (d, 0)
    | none, none => (d, 0)

/-- `PRODUCT_ROW_LANDING` (R152): the rows due in the cycle. -/
def execProductRowLanding (core : Nat) (s0 : State) : Out :=
  let s1 := failUnits core true (fun k m => { m with prods := m.prods.filter fun p => !prodMergesBad k k.ctx.bc p }) s0
  let k0 := getCore s1 core
  let s := setCore s1 core (k0.mx.prods.foldl (prodCovers k0.ctx.bc) k0)
  .next (onMxRow core (fun k =>
    k.mx.prods.foldl (fun (acc : Mx × Flags) p =>
      let rs := prodDue k.ctx.bc p
      if rs.isEmpty then acc
      else
        let r := landProd rs p (acc.1.next.getD acc.1.now)
        let ps := acc.1.prods.map fun q => if q = p then { q with next := q.next + rs.length } else q
        ({ acc.1 with next := some r.1, prods := ps }, acc.2 ||| r.2)) (k.mx, 0)) s)

/-- The reads of a fold instruction in cycle t (R153). -/
def foldReads (d : MxData) (t : Nat) (f : Fold) : Fold :=
  match f.kind with
  | .acnorm _ => f
  | .scacc _ _ pp oa ob _ =>
    let f1 := if f.start = t then { f with bSide := (List.range 64).map (sideRow d ob.val) } else f
    let rows := (List.range 64).foldl (fun m i =>
      if f.start + i / 16 = t then smPut m i (planeRow d pp.val i, sideRow d oa.val i) else m) f1.rows
    { f1 with rows := rows }

/-- `FOLD_START` (R153): the reads that the fold unit makes in the cycle. -/
def execFoldStart (core : Nat) (s : State) : Out :=
  .next (onMx core (fun k => ({ k.mx with folds := k.mx.folds.map (foldReads k.mx.now k.ctx.bc) }, 0))
    (failUnits core false (fun k m => { m with folds := m.folds.filter fun f => !foldPlaneBad k k.ctx.bc f })
      (failUnits core true (fun k m => { m with folds := m.folds.filter fun f => !foldReadsBad k k.ctx.bc f }) s)))

/-- One beat of `scacc` lands: rows 16b to 16b + 15 (R159). -/
def landScacc (b kb : Nat) (f : Fold) (t : Tile) : Tile × Flags :=
  let bs := f.bSide.toArray
  let ex := t.ex.toArray
  let rows := ((List.range 64).map fun i =>
    let x := smGetD f.rows i ([], 0)
    (x.1.toArray, sideByte x.2 kb, (tileRow t i).toArray)).toArray
  let scaleBad := fun (i j : Nat) => (rows.getD i (#[], 0, #[])).2.1 == 0xFF || sideByte (bs.getD j 0) kb == 0xFF
  let mine := fun (i : Nat) => decide (16 * b ≤ i) && decide (i < 16 * b + 16)
  let news := fun (i j : Nat) =>
    if mine i && !scaleBad i j then
      let x := rows.getD i (#[], 0, #[])
      match dyOf (decodeF .f32 (x.1.getD j 0).toNat) with
      | some v => some (dyAdd (entBM (x.2.2.getD j 0), exB (ex.getD j 0))
          (v.1, v.2 + x.2.1 + sideByte (bs.getD j 0) kb - 254))
      | none => none
    else none
  let bad := (List.range 64).any fun i => mine i && (List.range 64).any fun j => scaleBad i j
  let r := tileWrite false news t
  ({ r.1 with used := true }, r.2 ||| fIf bad fINVALID)

/-- What of a fold instruction is due by cycle t lands. -/
def landFold (t : Nat) (f : Fold) (d : MxData) : Option (Nat × MxData × Flags) :=
  match f.kind with
  | .acnorm acc =>
    if f.next = 0 ∧ f.start + 1 ≤ t then
      let t := tileNorm false (tileNorm true (tileOf d acc))
      some (1, setTile d acc { t with used := true }, 0)
    else none
  | .scacc _ acc _ _ _ kb =>
    if f.next < 4 ∧ f.start + f.next + 2 ≤ t then
      let r := landScacc f.next kb f (tileOf d acc)
      some (f.next + 1, setTile d acc r.1, r.2)
    else none

/-- Whether a landing of a fold instruction merges with a word that cannot be corrected. -/
def foldMergesBad (k : Core) (t : Nat) (f : Fold) : Bool :=
  (landFold t f k.mx.now).isSome && tileBad k (foldTile f.kind).val

/-- `FOLD_ROW_LANDING` (R153). -/
def execFoldRowLanding (core : Nat) (s0 : State) : Out :=
  let s := failUnits core true (fun k m => { m with folds := m.folds.filter fun f => !foldMergesBad k k.ctx.bc f }) s0
  .next (onMxRow core (fun k =>
    k.mx.folds.foldl (fun (acc : Mx × Flags) f =>
      match landFold k.ctx.bc f (acc.1.next.getD acc.1.now) with
      | none => acc
      | some r =>
        let fs := acc.1.folds.map fun q => if q = f then { q with next := r.1 } else q
        ({ acc.1 with next := some r.2.1, folds := fs }, acc.2 ||| r.2.2)) (k.mx, 0)) s)

/-- Beat 0 of a scan (R180). -/
def scanReads (d : MxData) (t : Nat) (x : Scan) : Scan :=
  if x.start = t then
    let a := tileOf d x.acc
    { x with input := some ((List.range x.n).map (tileRow a), a.cy, a.ex) }
  else x

/-- `SCAN_START` (R180). -/
def execScanStart (core : Nat) (s : State) : Out :=
  .next (onMx core (fun k => ({ k.mx with scans := k.mx.scans.map (scanReads k.mx.now k.ctx.bc) }, 0))
    (failUnits core true (fun k m => { m with scans := m.scans.filter fun x => !scanReadsBad k k.ctx.bc x }) s))

/-- `SCAN_LANDING` (R180, R183, R184): rows, carry, exponents and flags land in cycle s + 7. -/
def execScanLanding (core : Nat) (s : State) : Out :=
  .next (onMxRow core (fun k =>
    k.mx.scans.foldl (fun (acc : Mx × Flags) x =>
      match x.input with
      | some i =>
        if !x.landed && decide (x.start + 7 ≤ k.ctx.bc) then
          let d := acc.1.next.getD acc.1.now
          let r := tileScan x.comp x.n i.1 i.2.1 i.2.2 (tileOf d x.acc)
          let xs := acc.1.scans.map fun q => if q = x then { q with landed := true } else q
          ({ acc.1 with next := some (setTile d x.acc { r.1 with used := true }), scans := xs }, acc.2 ||| r.2)
        else acc
      | none => acc) (k.mx, 0)) s)

/-- The end of a cycle (R151): writes take effect, and instructions that have landed wholly leave the units. -/
def mxEnd (c : Nat) (m : Mx) : Mx :=
  { m with
    now := m.next.getD m.now, next := none
    prods := m.prods.filter fun p => decide (c < prodLands p.kind p.start (prodRows p.kind - 1))
    folds := m.folds.filter fun f => (foldLandings f.kind f.start).any fun l => decide (c < l)
    scans := m.scans.filter fun x => decide (c < x.start + 7) }

/-- Rows that the matrix engine has due in a cycle before the bundle, and at its end. -/
def mxLandings (core : Nat) (k : Core) : List Event :=
  (if k.mx.prods.any fun p => !(prodDue k.ctx.bc p).isEmpty then [.productRowLanding core] else []) ++
  (if k.mx.folds.any fun f => (landFold k.ctx.bc f k.mx.now).isSome then [.foldRowLanding core] else []) ++
  (if k.mx.scans.any fun x => !x.landed && x.input.isSome && decide (x.start + 7 ≤ k.ctx.bc) then [.scanLanding core] else [])
def mxReads (core : Nat) (k : Core) : List Event :=
  (if k.mx.prods.any fun p => decide (p.start ≤ k.ctx.bc ∧ k.ctx.bc < prodEnd p) then [.productStart core] else []) ++
  (if k.mx.folds.any fun f => decide (f.start ≤ k.ctx.bc ∧ k.ctx.bc < foldEnd f) then [.foldStart core] else []) ++
  (if k.mx.scans.any fun x => x.start == k.ctx.bc then [.scanStart core] else [])

end Sys2Proof.Machine
end

