-- ==== Sys2Proof/Machine/Copy.lean ====
section
/-! DEFINITION. The instructions of the copy slots that make requests of the tile-walk engine (spec/11 R202 to R213): transfers,
walks, multicast, stamps, atomics, barriers, drains and streams; and `tlbi` (spec/12 R222, R223). -/

namespace Sys2Proof.Machine

/-! ### The pattern of a copy-slot instruction -/

/-- What an entry answers at issue: the state, the result word and the flags of its landing. -/
abbrev Reply := Except Stop (State × Word × Flags)

/-- A copy-slot instruction (R193): its word lands after latency 1; a guard that reads 0 issues nothing and lands 0. -/
def issueC (g : Guard) (d : SDst) (void : Ctx → Bool) (f : State → Reply) : Issue := fun s =>
  let c := curCtx s
  if guardOn c g then
    match f s with
    | .error e => .error e
    | .ok (t, w, fl) => .ok (setCtx t (fly (noteVoid (curCtx t) (voidP c g.p || void c)) (slotC s) 1 (resS d w) fl))
  else .ok (setCtx s (fly (noteVoid c (voidP c g.p)) (slotC s) 1 (offS d) 0))

/-- Bit of a trap's slot mask. -/
def maskC (s : State) : Nat := 2 ^ slotC s

/-- Void operands of one, two and three registers. -/
def void1 (a : SOp) (c : Ctx) : Bool := voidS c a
def void2 (a b : SOp) (c : Ctx) : Bool := voidS c a || voidS c b
def void3 (a b e : SOp) (c : Ctx) : Bool := voidS c a || voidS c b || voidS c e

/-- The value of an operand of the row in issue, as a number. -/
def valN (s : State) (a : SOp) : Nat := (valS (curCtx s) a).toNat

/-- The policy that `POL` selects (R60). -/
def polNow (s : State) (n : Fin 8) : Pol := polOf (polEntry (curCtx s) n.val)

/-- An entry in the order of R195: traps, then refusal by policy, then what the entry does under its working policy;
`MODFB` when a row of R61 applied. -/
def underPol (s : State) (pol : Fin 8) (peer atomic stamp : Bool) (traps : Pol → Option Stop) (body : Pol → State × Word) :
    Reply :=
  match traps (polNow s pol) with
  | some e => .error e
  | none =>
    match fallback peer atomic stamp (polNow s pol) with
    | (none, _) => .ok (s, stRefused, fMODFB)
    | (some q, fb) => .ok ((body q).1, (body q).2, fIf fb fMODFB)

/-- A word that lands with nothing done. -/
def only (s : State) (w : Word) : State × Word := (s, w)

/-- `XLATE` for a run of the core's own scratchpad (R195 step 1): the first address of the run. -/
def ownRange (s : State) (engine a n : Nat) : Option Stop :=
  if n = 0 then none else viewStop (cur s) engine (maskC s) a n false

/-- The first of several traps. -/
def firstStop (l : List (Option Stop)) : Option Stop := (l.filterMap id).head?

/-! ### References -/

/-- A peer reference (R203). -/
def peerCore (x : Nat) : Nat := bits x 32 10
def peerAddr (x : Nat) : Nat := bits x 0 18
def peerWell (x : Nat) : Bool := x == peerAddr x + peerCore x * 2 ^ 32

/-- Whether a core lies in the requester's partition. -/
def inPart (s : State) (core : Nat) : Bool := partHasCluster (getPart s (reqPart s s.sched.cur)) (core / 16)

/-- `MCASTPART` of a peer outside the partition (R203): before its reserved bits count (R195). -/
def peerTrap (s : State) (p : Pol) (x : Nat) : Option Stop :=
  if p.space = 1 ∧ !inPart s (peerCore x) then some { cause := .mcastpart, smask := maskC s } else none

/-- Bound of a peer scratchpad (R196). -/
def peerNs (core peer : Nat) : Nat := if core / 256 = peer / 256 then 57 else 107

/-- A slot reference (R203): slot, first byte, and the bytes from there to the end of row 63. -/
def refSlot (y : Nat) : Nat := bits y 0 5
def refBase (y : Nat) : Nat := if y.testBit 5 then 8192 + 16 * bits y 6 6 else 128 * bits y 6 6
def refRoom (y : Nat) : Nat := (if y.testBit 5 then 16 else 128) * (64 - bits y 6 6)

/-- `OSLOT` of a slot of the issuing core (R148, R195); a handler has no slots. -/
def ownSlot (s : State) (y : Nat) : Option Stop :=
  if (cur s).svc.isNone && (cur s).mx.claimed.getLsbD (refSlot y) && decide (refSlot y < 24) then none
  else some { cause := .oslot, smask := maskC s }

/-- A handler may name no barrier (R235). -/
def barBad (s : State) (bar : Option (Fin 64)) : Bool := (cur s).svc.isSome && bar.isSome

/-- The barrier of a core. -/
def barOf (core : Nat) (bar : Option (Fin 64)) : Option (Nat × Nat) := bar.map fun n => (core, n.val)

/-- The cluster-independent frame of a request of the core in issue. -/
def newReq (s : State) (kind : ReqKind) (q : Pol) (pieces : List Piece) : Req :=
  { blankReq s s.sched.cur kind q with pieces := pieces }

/-- The location of an address in the issuing core's scratchpad or data window. -/
def ownSpad (s : State) (a : Nat) : Loc := .spad (selfSpad (cur s) s.sched.cur) a

/-- Number of the issuing core's own memory. -/
def ownNum (s : State) : Nat := selfSpad (cur s) s.sched.cur

/-- The bound over virtual runs under an engine's bit (R196). -/
def virtNs (s : State) (bit : Nat) (ranges : List (Nat × Nat)) (least : Nat) : Option Nat :=
  boundNs s s.sched.cur (reqPart s s.sched.cur) bit ranges least

/-! ### Transfers -/

/-- The traps of a `cpy` (R195, R203); a length beyond 262,144 is left to `BADARG` (log 33). -/
def cpyTraps (s : State) (engine : Nat) (a b e : SOp) (p : Pol) : Option Stop :=
  firstStop [if valN s e ≤ 262144 then ownRange s engine (valN s b) (valN s e) else none, peerTrap s p (valN s a)]

/-- Whether the operands of a `cpy` are out of range. -/
def cpyBad (q : Pol) (x n : Nat) : Bool :=
  decide (262144 < n) || (q.space == 1 && !(peerWell x && spadOk (peerAddr x) n))

/-- The far end of a `cpy`: a peer's scratchpad or the virtual space. -/
def cpyFar (q : Pol) (x : Nat) : Loc := if q.space = 1 then .spad (peerCore x) (peerAddr x) else .virt x

/-- Lines and bound of a `cpy` (R196). -/
def cpyNs (s : State) (q : Pol) (bit x n : Nat) : Option Nat :=
  if q.space = 1 then some (peerNs s.sched.cur (peerCore x)) else virtNs s bit [(x, n)] 57
def cpyLines (q : Pol) (x n : Nat) : Nat := if q.space = 1 then linesOf (peerAddr x) n else linesOf x n

/-- `cpy.rd` (R203). -/
def issueCpyRd (g : Guard) (d : SDst) (pol : Fin 8) (bar : Option (Fin 64)) (a b e : SOp) : Issue :=
  issueC g d (void3 a b e) fun s => underPol s pol true false false (cpyTraps s 6 a b e) fun q =>
    let x := valN s a
    let n := valN s e
    if barBad s bar then only s stBadarg
    else if n = 0 then only s stDone
    else if cpyBad q x n then only s stBadarg
    else
      let ps := mkPieces (ownNum s) (cpyFar q x) (ownSpad s (valN s b)) n (barOf s.sched.cur bar)
      sendReq s { newReq s .copy q ps with wrEng := 6 } (cpyLines q x n) (cpyNs s q 1 x n)
def execCpyRd (g : Guard) (d : SDst) (pol : Fin 8) (bar : Option (Fin 64)) (a b c : SOp) (s : State) : Out :=
  settle s (issueCpyRd g d pol bar a b c s)

/-- `cpy.wr` (R203): a barrier is the receiver's, or the issuing core's for the virtual space (R201). -/
def issueCpyWr (g : Guard) (d : SDst) (pol : Fin 8) (bar : Option (Fin 64)) (a b e : SOp) : Issue :=
  issueC g d (void3 a b e) fun s => underPol s pol true false false (cpyTraps s 7 a b e) fun q =>
    let x := valN s a
    let n := valN s e
    if barBad s bar then only s stBadarg
    else if n = 0 then only s stDone
    else if cpyBad q x n then only s stBadarg
    else
      let home := if q.space = 1 then peerCore x else s.sched.cur
      let ps := mkPieces (ownNum s) (ownSpad s (valN s b)) (cpyFar q x) n (barOf home bar)
      sendReq s (newReq s .copy q ps) (cpyLines q x n) (cpyNs s q 2 x n)
def execCpyWr (g : Guard) (d : SDst) (pol : Fin 8) (bar : Option (Fin 64)) (a b c : SOp) (s : State) : Out :=
  settle s (issueCpyWr g d pol bar a b c s)

/-- `cpyo` (R203). -/
def issueCpyo (g : Guard) (d : SDst) (pol : Fin 8) (bar : Option (Fin 64)) (a b e : SOp) : Issue :=
  issueC g d (void3 a b e) fun s => underPol s pol false false false (fun _ => ownSlot s (valN s b)) fun q =>
    let x := valN s a
    let y := valN s b
    let n := valN s e
    if barBad s bar then only s stBadarg
    else if n = 0 then only s stDone
    else if 262144 < n ∨ 2 ^ 12 ≤ y ∨ refRoom y < n then only s stBadarg
    else
      let ps := mkPieces (ownNum s) (.virt x) (.slot s.sched.cur (refSlot y) (refBase y)) n (barOf s.sched.cur bar)
      sendReq s { newReq s .copy q ps with rdEng := 8, wrEng := 8, rdBit := 3 } (linesOf x n) (virtNs s 3 [(x, n)] 57)
def execCpyo (g : Guard) (d : SDst) (pol : Fin 8) (bar : Option (Fin 64)) (a b c : SOp) (s : State) : Out :=
  settle s (issueCpyo g d pol bar a b c s)

/-- The sum of two bounds. -/
def sumNs (a b : Option Nat) : Option Nat := a.bind fun x => b.map fun y => x + y

/-- `cpya` (R203, R196): the lines of both sides count (log 34). -/
def issueCpya (g : Guard) (d : SDst) (pol : Fin 8) (bar : Option (Fin 64)) (a b e : SOp) : Issue :=
  issueC g d (void3 a b e) fun s => underPol s pol false false false (fun _ => none) fun q =>
    let x := valN s a
    let y := valN s b
    let n := valN s e
    if barBad s bar then only s stBadarg
    else if n = 0 then only s stDone
    else if 2 ^ 24 ≤ n then only s stBadarg
    else
      let ps := mkPieces (ownNum s) (.virt y) (.virt x) n (barOf s.sched.cur bar)
      sendReq s (newReq s .walk q ps) (linesOf x n + linesOf y n) (sumNs (virtNs s 1 [(y, n)] 57) (virtNs s 2 [(x, n)] 57))
def execCpya (g : Guard) (d : SDst) (pol : Fin 8) (bar : Option (Fin 64)) (a b c : SOp) (s : State) : Out :=
  settle s (issueCpya g d pol bar a b c s)

/-! ### Gather and scatter -/

/-- An element word (R203): address of the elements, count, bytes of an element, and whether it is legal. -/
def elAddr (z : Nat) : Nat := bits z 0 18
def elCount (z : Nat) : Nat := bits z 18 12 + 1
def elSize (z : Nat) : Nat := 2 ^ bits z 30 4
def elOk (z : Nat) : Bool := decide (z < 2 ^ 34) && decide (bits z 30 4 ≤ 8)

/-- The traps of `gath` and `scat`: the index list, then the elements, by the fields as they stand, reserved bits or not (R195). -/
def elTraps (s : State) (engine : Nat) (b e : SOp) : Option Stop :=
  let z := valN s e
  firstStop [ownRange s engine (valN s b) (4 * elCount z), ownRange s engine (elAddr z) (elCount z * elSize z)]

/-- Virtual addresses of the elements, by the index list as it stands in the issue cycle (log 28). -/
def elRuns (s : State) (x y z : Nat) : List (Nat × Nat) :=
  (lanesOf 32 (elCount z) (leNat (spadBytes s (ownNum s) y (4 * elCount z)))).map fun i => (x + i * elSize z, elSize z)

/-- Lines of several runs, each counted by itself. -/
def runLines (l : List (Nat × Nat)) : Nat := (l.map fun r => linesOf r.1 r.2).sum

/-- `gath` (R203). -/
def issueGath (g : Guard) (d : SDst) (pol : Fin 8) (bar : Option (Fin 64)) (a b e : SOp) : Issue :=
  issueC g d (void3 a b e) fun s => underPol s pol false false false (fun _ => elTraps s 6 b e) fun q =>
    let z := valN s e
    if !elOk z || barBad s bar then only s stBadarg
    else
      let runs := elRuns s (valN s a) (valN s b) z
      let ps := runs.zipIdx.flatMap fun r =>
        mkPieces (ownNum s) (.virt r.1.1) (ownSpad s (elAddr z + r.2 * elSize z)) r.1.2 (barOf s.sched.cur bar)
      sendReq s (newReq s .copy q ps) (runLines runs) (virtNs s 1 runs 57)
def execGath (g : Guard) (d : SDst) (pol : Fin 8) (bar : Option (Fin 64)) (a b c : SOp) (s : State) : Out :=
  settle s (issueGath g d pol bar a b c s)

/-- `scat` (R203): elements that write the same bytes perform in list order. -/
def issueScat (g : Guard) (d : SDst) (pol : Fin 8) (bar : Option (Fin 64)) (a b e : SOp) : Issue :=
  issueC g d (void3 a b e) fun s => underPol s pol false false false (fun _ => elTraps s 7 b e) fun q =>
    let z := valN s e
    if !elOk z || barBad s bar then only s stBadarg
    else
      let runs := elRuns s (valN s a) (valN s b) z
      let ps := runs.zipIdx.flatMap fun r =>
        mkPieces (ownNum s) (ownSpad s (elAddr z + r.2 * elSize z)) (.virt r.1.1) r.1.2 (barOf s.sched.cur bar)
      sendReq s (newReq s .walk q ps) (runLines runs) (virtNs s 2 runs 57)
def execScat (g : Guard) (d : SDst) (pol : Fin 8) (bar : Option (Fin 64)) (a b c : SOp) (s : State) : Out :=
  settle s (issueScat g d pol bar a b c s)

/-! ### Tile walks -/

/-- A walk record (R204). -/
structure Walk where
  base    : Int
  nrows   : Nat
  rowb    : Nat
  sstride : Int
  clipr   : Nat
  clipb   : Nat
  dstride : Nat
  nofill  : Bool
  deriving DecidableEq, Repr

/-- The record that 32 bytes hold. -/
def walkOf (v : Nat) : Walk :=
  { base := (bits v 0 55 : Nat), nrows := bits v 64 16, rowb := bits v 80 16, sstride := sInt 32 (bits v 96 32),
    clipr := bits v 128 16, clipb := bits v 144 16, dstride := bits v 160 32, nofill := v.testBit 192 }

/-- Whether every field is in range and every reserved bit 0 (R204). -/
def walkOk (v : Nat) : Bool :=
  let w := walkOf v
  bits v 55 9 == 0 && bits v 193 63 == 0 && decide (1 ≤ w.nrows ∧ w.nrows ≤ 4096) && decide (1 ≤ w.rowb ∧ w.rowb ≤ 16384)
    && decide (w.dstride ≤ 0x3FFFF)

/-- Bytes of a scratchpad that a walk spans: none when it has no rows or no bytes. -/
def walkSpan (w : Walk) : Nat := if w.nrows = 0 ∨ w.rowb = 0 then 0 else (w.nrows - 1) * w.dstride + w.rowb

/-- Virtual address of a row, and its bytes that are not clipped (R205). -/
def walkVa (w : Walk) (i : Nat) : Nat := wrap 64 (w.base + i * w.sstride)
def walkLive (w : Walk) (i : Nat) : Nat := if w.clipr ≤ i then 0 else min w.rowb w.clipb

/-- The rows with their runs. -/
def walkRuns (w : Walk) : List (Nat × Nat) := (List.range w.nrows).map fun i => (walkVa w i, walkLive w i)

/-- Different lines that the rows touch, rows in address order (R205). -/
def walkLines (w : Walk) : Nat :=
  let runs := (walkRuns w).filter fun r => r.2 ≠ 0
  let up := if w.sstride < 0 then runs.reverse else runs
  (up.foldl (fun (acc : Nat × Nat) r =>
    let lo := max acc.2 (r.1 / 256)
    let hi := (r.1 + r.2 - 1) / 256 + 1
    (acc.1 + (hi - lo), max acc.2 hi)) (0, 0)).1

/-- The pieces of a load walk into a core's memory from an address (R205). -/
def walkLoad (own target : Nat) (w : Walk) (y : Nat) (bar : Option (Nat × Nat)) : List Piece :=
  (List.range w.nrows).flatMap fun i =>
    let sa := y + i * w.dstride
    let live := walkLive w i
    let clip := w.rowb - live
    mkPieces own (.virt (walkVa w i)) (.spad target sa) live bar ++
      (if clip = 0 then []
       else if w.nofill then [{ src := .zero, dst := .none, len := clip, bar := bar, voidn := true }]
       else mkPieces own .zero (.spad target (sa + live)) clip bar)

/-- The pieces of a store walk from a core's memory (R205): a clipped byte counts as performed. -/
def walkStore (own source : Nat) (w : Walk) (y : Nat) (bar : Option (Nat × Nat)) : List Piece :=
  (List.range w.nrows).flatMap fun i =>
    let live := walkLive w i
    let clip := w.rowb - live
    mkPieces own (.spad source (y + i * w.dstride)) (.virt (walkVa w i)) live bar ++
      (if clip = 0 then [] else [{ src := .zero, dst := .none, len := clip, bar := bar }])

/-- The walk record at U(x), read through the scalar port in the issue cycle. -/
def walkAt (s : State) (x : Nat) : Nat := leNat (viewRead s s.sched.cur x 32)

/-- The traps of a walk (R204): the record, then the extent, by the fields as they stand, in range or not (R195). -/
def walkTraps (s : State) (engine : Nat) (a b : SOp) : Option Stop :=
  let x := valN s a
  match ownRange s engine x 32 with
  | some e => some e
  | none =>
    match viewStop (cur s) 2 (maskC s) x 32 true with
    | some e => some e
    | none => ownRange s engine (valN s b) (walkSpan (walkOf (walkAt s x)))

/-- Sends a walk: one whose bytes are all clipped promises the next tick (R205). -/
def sendWalk (s : State) (r : Req) (w : Walk) (bit : Nat) : State × Word :=
  let runs := walkRuns w
  if runs.all fun x => x.2 == 0 then
    if contextFree s r.core r.service then
      let t := (promiseBase s r.core r.ord).map (· + 1)
      (addReq s { r with promise := t }, match t with | some t => promiseW t | none => stAccepted)
    else (s, stBusy)
  else sendReq s r (walkLines w) (virtNs s bit runs 57)

/-- `cpyt.rd` (R204, R205). -/
def issueCpytRd (g : Guard) (d : SDst) (pol : Fin 8) (bar : Option (Fin 64)) (a b : SOp) : Issue :=
  issueC g d (void2 a b) fun s => underPol s pol false false false (fun _ => walkTraps s 6 a b) fun q =>
    let v := walkAt s (valN s a)
    if !walkOk v || barBad s bar then only s stBadarg
    else
      let ps := walkLoad (ownNum s) (ownNum s) (walkOf v) (valN s b) (barOf s.sched.cur bar)
      sendWalk s (newReq s .walk q ps) (walkOf v) 1
def execCpytRd (g : Guard) (d : SDst) (pol : Fin 8) (bar : Option (Fin 64)) (a b : SOp) (s : State) : Out :=
  settle s (issueCpytRd g d pol bar a b s)

/-- `cpyt.wr` (R204, R205). -/
def issueCpytWr (g : Guard) (d : SDst) (pol : Fin 8) (bar : Option (Fin 64)) (a b : SOp) : Issue :=
  issueC g d (void2 a b) fun s => underPol s pol false false false (fun _ => walkTraps s 7 a b) fun q =>
    let v := walkAt s (valN s a)
    if !walkOk v || barBad s bar then only s stBadarg
    else
      let ps := walkStore (ownNum s) (ownNum s) (walkOf v) (valN s b) (barOf s.sched.cur bar)
      sendWalk s (newReq s .walk q ps) (walkOf v) 2
def execCpytWr (g : Guard) (d : SDst) (pol : Fin 8) (bar : Option (Fin 64)) (a b : SOp) (s : State) : Out :=
  settle s (issueCpytWr g d pol bar a b s)

/-! ### Multicast -/

/-- The members that C names (R206). -/
def members (z : Nat) : List Nat :=
  ((List.range 16).filter fun i => z.testBit i).map fun i => bits z 20 2 * 256 + bits z 16 4 * 16 + i

/-- The length in B. -/
def mcastLen (y : Nat) : Nat := bits y 32 19

/-- `MCASTPART` of a multicast: its members lie in one cluster. -/
def mcastTrap (s : State) (z : Nat) : Option Stop :=
  if (members z).any fun m => !inPart s m then some { cause := .mcastpart, smask := maskC s } else none

/-- Whether a length of a multicast is legal. -/
def mcastLenOk (n : Nat) : Bool := decide (1 ≤ n ∧ n ≤ 262144)

/-- The source of a multicast: the virtual space or the sender's scratchpad. -/
def mcastSrc (s : State) (q : Pol) (x : Nat) : Loc := if q.space = 1 then ownSpad s x else .virt x

/-- The bound of the farthest member's die (R206). -/
def farNs (s : State) (ms : List Nat) : Nat := ms.foldl (fun b m => max b (peerNs s.sched.cur m)) 57

/-- The bound of a multicast. -/
def mcastNs (s : State) (q : Pol) (bit x n : Nat) (ms : List Nat) : Option Nat :=
  if q.space = 1 then some (farNs s ms) else virtNs s bit [(x, n)] (farNs s ms)

/-- Sends a multicast to each member's destination. -/
def sendMcast (s : State) (q : Pol) (bar : Option (Fin 64)) (bit eng x n : Nat) (ms : List Nat) (dst : Nat → Loc) :
    State × Word :=
  let ps := ms.flatMap fun m => mkPieces (ownNum s) (mcastSrc s q x) (dst m) n (barOf m bar)
  sendReq s { newReq s .copy q ps with rdEng := eng, wrEng := eng, rdBit := bit } (linesOf x n) (mcastNs s q bit x n ms)

/-- `mcast` (R206). A mask of 0 comes after the operand values: with an illegal length or a reserved bit set `BADARG` lands (DESIGN
CHOICE, log 58: R206 gives `DONE` for the mask, R195 `BADARG` for the values). -/
def issueMcast (g : Guard) (d : SDst) (pol : Fin 8) (bar : Option (Fin 64)) (a b e : SOp) : Issue :=
  issueC g d (void3 a b e) fun s =>
    let x := valN s a
    let y := valN s b
    let z := valN s e
    let n := mcastLen y
    let aim := bits y 0 18
    let traps := fun (p : Pol) => firstStop
      [if p.space = 1 ∧ mcastLenOk n ∧ members z ≠ [] then ownRange s 6 x n else none,
       if (members z).contains s.sched.cur ∧ mcastLenOk n ∧ !spadOk aim n then
         some { cause := .xlate, smask := maskC s, engine := 6, reason := 4, va := some aim } else none,
       mcastTrap s z]
    underPol s pol true false false traps fun q =>
      if y ≠ aim + n * 2 ^ 32 ∨ 2 ^ 22 ≤ z ∨ !mcastLenOk n ∨ barBad s bar then only s stBadarg
      else if members z = [] then only s stDone
      else if !spadOk aim n then only s stBadarg
      else sendMcast s q bar 1 6 x n (members z) fun m => .spad m aim
def execMcast (g : Guard) (d : SDst) (pol : Fin 8) (bar : Option (Fin 64)) (a b c : SOp) (s : State) : Out :=
  settle s (issueMcast g d pol bar a b c s)

/-- `mcast.ops` (R206). -/
def issueMcastOps (g : Guard) (d : SDst) (pol : Fin 8) (bar : Option (Fin 64)) (a b e : SOp) : Issue :=
  issueC g d (void3 a b e) fun s =>
    let x := valN s a
    let y := valN s b
    let z := valN s e
    let n := mcastLen y
    let aim := bits y 0 12
    let traps := fun (p : Pol) => firstStop
      [if p.space = 1 ∧ mcastLenOk n ∧ members z ≠ [] then ownRange s 8 x n else none,
       if (members z).contains s.sched.cur then ownSlot s aim else none,
       mcastTrap s z]
    underPol s pol true false false traps fun q =>
      if y ≠ aim + n * 2 ^ 32 ∨ 2 ^ 22 ≤ z ∨ !mcastLenOk n ∨ barBad s bar then only s stBadarg
      else if members z = [] then only s stDone
      else if refRoom aim < n then only s stBadarg
      else sendMcast s q bar 3 8 x n (members z) fun m => .slot m (refSlot aim) (refBase aim)
def execMcastOps (g : Guard) (d : SDst) (pol : Fin 8) (bar : Option (Fin 64)) (a b c : SOp) (s : State) : Out :=
  settle s (issueMcastOps g d pol bar a b c s)

/-! ### Stamps and drains -/

/-- `cpys` (R207): its eight bytes are taken at issue. -/
def issueCpys (g : Guard) (d : SDst) (pol : Fin 8) (a b : SOp) : Issue :=
  issueC g d (void2 a b) fun s => underPol s pol true false true (fun p => peerTrap s p (valN s a)) fun q =>
    let x := valN s a
    if q.space = 1 ∧ (!peerWell x ∨ peerAddr x % 8 ≠ 0) then only s stBadarg
    else if x % 8 ≠ 0 then only s stBadarg
    else
      let p : Piece := { src := .none, dst := cpyFar q x, len := 8, stage := 1, buf := leBytes 8 (valN s b) }
      sendReq s { newReq s .stamp q [p] with wrEng := 0xC, wrBit := 7 } 1 (cpyNs s q 7 x 8)
def execCpys (g : Guard) (d : SDst) (pol : Fin 8) (a b : SOp) (s : State) : Out := settle s (issueCpys g d pol a b s)

/-- Whether every request that a core issued before a number, and every `tlbi`, has performed at a scope (R208, R223). The steps of
a stream are the engine's (R210). -/
def drained (s : State) (core scope upto : Nat) : Bool :=
  (s.reqs.all fun x => decide (upto ≤ x.1) || x.2.core != core || isStep x.2.kind || reqAt s x.1 x.2 scope) &&
  s.tlbis.all fun x => decide (upto ≤ x.1) || x.2.core != core || decide (scope < x.2.scope)

/-- `drain` (R208). -/
def issueDrain (g : Guard) (d : SDst) (_pol : Fin 8) (sc : Scope) : Issue := fun s =>
  let c := curCtx s
  if guardOn c g then
    let c1 := noteVoid c (voidP c g.p)
    .ok (setCtx s (if drained s s.sched.cur sc.code s.nextReq then endNow c1 (slotC s) d stDone
      else addWait c1 (.drain sc s.nextReq) (slotC s) d))
  else .ok (setCtx s (fly (noteVoid c (voidP c g.p)) (slotC s) 1 (offS d) 0))
def execDrain (g : Guard) (d : SDst) (pol : Fin 8) (sc : Scope) (s : State) : Out := settle s (issueDrain g d pol sc s)

/-- Ends the waits of a core whose probe gives a word. -/
def endWaits (core : Nat) (probe : WaitKind → Option Word) (s : State) : State :=
  let k := getCore s core
  let done := k.ctx.waits.foldl (fun c w =>
    match probe w.kind with
    | some v => endWait c w v
    | none => c) k.ctx
  setCore s core { k with ctx := done }

/-- `DRAIN_END` (R208). -/
def execDrainEnd (core : Nat) (s : State) : Out :=
  .next (endWaits core (fun w =>
    match w with
    | .drain sc upto => if drained s core sc.code upto then some stDone else none
    | _ => none) s)

/-! ### Barriers -/

/-- The barrier object as `bari` leaves it (R202). -/
def barArmed (v total : Nat) : Nat :=
  let keep := v - bits v 0 28
  let phase := bits v 24 1
  if total = 0 then keep + (1 - phase) * 2 ^ 24 else keep + phase * 2 ^ 24 + 2 ^ 25 + total

/-- `bari` (R202). -/
def issueBari (g : Guard) (d : SDst) (_pol : Fin 8) (a b : SOp) : Issue :=
  issueC g d (void2 a b) fun s =>
    let n := valN s a
    let total := valN s b
    if 63 < n ∨ 2 ^ 24 ≤ total then .ok (s, stBadarg, 0)
    else
      match viewStop (cur s) 2 (maskC s) (barAddr n) 8 false with
      | some e => .error e
      | none =>
        let v := leNat (viewRead s s.sched.cur (barAddr n) 8)
        .ok (viewWrite s s.sched.cur (barAddr n) (leBytes 8 (barArmed v total)), stDone, 0)
def execBari (g : Guard) (d : SDst) (pol : Fin 8) (a b : SOp) (s : State) : Out := settle s (issueBari g d pol a b s)

/-- A sample of `barw` (R202). -/
def barwSample (s : State) (core n : Nat) (z : Word) : Option Word :=
  let v := leNat (viewRead s core (barAddr n) 8)
  if !v.testBit 25 then some (statusW 0 v)
  else if z.toNat ≤ coreTick s core then some (statusW 5 v)
  else none

/-- `barw` (R202). -/
def issueBarw (g : Guard) (d : SDst) (_pol : Fin 8) (a b : SOp) : Issue := fun s =>
  let c := curCtx s
  let n := valN s a
  if guardOn c g then
    let c1 := noteVoid c (voidP c g.p || voidS c a || voidS c b)
    if 63 < n then .ok (setCtx s (fly c1 (slotC s) 1 (resS d stBadarg) 0))
    else
      match viewStop (cur s) 2 (maskC s) (barAddr n) 8 true with
      | some e => .error e
      | none => .ok (setCtx s (match barwSample s s.sched.cur n (valS c b) with
          | some w => endNow c1 (slotC s) d w
          | none => addWait c1 (.barw n (valS c b)) (slotC s) d))
  else .ok (setCtx s (fly (noteVoid c (voidP c g.p)) (slotC s) 1 (offS d) 0))
def execBarw (g : Guard) (d : SDst) (pol : Fin 8) (a b : SOp) (s : State) : Out := settle s (issueBarw g d pol a b s)

/-- `BARW_END` (R202). -/
def execBarwEnd (core : Nat) (s : State) : Out :=
  .next (endWaits core (fun w =>
    match w with
    | .barw n z => barwSample s core n z
    | _ => none) s)

/-! ### Atomics -/

/-- Bytes of an atomic's operand (R209). -/
def szBytes : Sz → Nat
  | .i32 | .u32 => 4
  | .i64 | .u64 => 8

/-- The new value of an atomic (R209): operations 0 to 7 in the order of the table. -/
def atomicNew (opc : Nat) (sz : Sz) (old v swap : Nat) : Nat :=
  let w := 8 * szBytes sz
  let below : Bool := match sz with
    | .i32 | .i64 => decide (sInt w old < sInt w v)
    | .u32 | .u64 => decide (old < v)
  match opc with
  | 0 => (old + v) % 2 ^ w
  | 1 => if below then old else v
  | 2 => if below then v else old
  | 3 => Nat.land old v
  | 4 => Nat.lor old v
  | 5 => Nat.xor old v
  | 6 => v
  | _ => if old = v then swap else old

/-- The old value as it returns (R209). -/
def atomicOld (sz : Sz) (old : Nat) : Nat := match sz with | .i32 => wrap 64 (sInt 32 old) | _ => old

/-- An atomic (R209): the word at the home, and the landing of the old value. -/
def atomicReq (opc : Nat) (g : Guard) (d : SDst) (pol : Fin 8) (sz : Sz) (a b e : SOp) : Issue :=
  issueC g d (void3 a b e) fun s =>
    let z := valN s e
    underPol s pol false true false (fun _ => ownRange s 9 z 8) fun q =>
      let x := valN s a
      let n := szBytes sz
      if x % n ≠ 0 then only s stBadarg
      else
        let ps : List Piece := { src := .virt x, dst := .none, len := n } :: mkPieces (ownNum s) .none (ownSpad s z) 8 none
        let v := BitVec.ofNat 64 (valN s b % 2 ^ (8 * n))
        sendReq s { newReq s (.atomic opc sz x v z) q ps with rdEng := 9, wrEng := 9, rdBit := 4, wrBit := 4 } 1
          (virtNs s 4 [(x, n)] 57)

/-- `aadd` (R209). -/
def issueAadd (g : Guard) (d : SDst) (pol : Fin 8) (sz : Sz) (a b c : SOp) : Issue := atomicReq 0 g d pol sz a b c
def execAadd (g : Guard) (d : SDst) (pol : Fin 8) (sz : Sz) (a b c : SOp) (s : State) : Out :=
  settle s (issueAadd g d pol sz a b c s)

/-- `amin` (R209). -/
def issueAmin (g : Guard) (d : SDst) (pol : Fin 8) (sz : Sz) (a b c : SOp) : Issue := atomicReq 1 g d pol sz a b c
def execAmin (g : Guard) (d : SDst) (pol : Fin 8) (sz : Sz) (a b c : SOp) (s : State) : Out :=
  settle s (issueAmin g d pol sz a b c s)

/-- `amax` (R209). -/
def issueAmax (g : Guard) (d : SDst) (pol : Fin 8) (sz : Sz) (a b c : SOp) : Issue := atomicReq 2 g d pol sz a b c
def execAmax (g : Guard) (d : SDst) (pol : Fin 8) (sz : Sz) (a b c : SOp) (s : State) : Out :=
  settle s (issueAmax g d pol sz a b c s)

/-- `aand` (R209). -/
def issueAand (g : Guard) (d : SDst) (pol : Fin 8) (sz : Sz) (a b c : SOp) : Issue := atomicReq 3 g d pol sz a b c
def execAand (g : Guard) (d : SDst) (pol : Fin 8) (sz : Sz) (a b c : SOp) (s : State) : Out :=
  settle s (issueAand g d pol sz a b c s)

/-- `aor` (R209). -/
def issueAor (g : Guard) (d : SDst) (pol : Fin 8) (sz : Sz) (a b c : SOp) : Issue := atomicReq 4 g d pol sz a b c
def execAor (g : Guard) (d : SDst) (pol : Fin 8) (sz : Sz) (a b c : SOp) (s : State) : Out :=
  settle s (issueAor g d pol sz a b c s)

/-- `axor` (R209). -/
def issueAxor (g : Guard) (d : SDst) (pol : Fin 8) (sz : Sz) (a b c : SOp) : Issue := atomicReq 5 g d pol sz a b c
def execAxor (g : Guard) (d : SDst) (pol : Fin 8) (sz : Sz) (a b c : SOp) (s : State) : Out :=
  settle s (issueAxor g d pol sz a b c s)

/-- `aswp` (R209). -/
def issueAswp (g : Guard) (d : SDst) (pol : Fin 8) (sz : Sz) (a b c : SOp) : Issue := atomicReq 6 g d pol sz a b c
def execAswp (g : Guard) (d : SDst) (pol : Fin 8) (sz : Sz) (a b c : SOp) (s : State) : Out :=
  settle s (issueAswp g d pol sz a b c s)

/-- `acas` (R209). -/
def issueAcas (g : Guard) (d : SDst) (pol : Fin 8) (sz : Sz) (a b c : SOp) : Issue := atomicReq 7 g d pol sz a b c
def execAcas (g : Guard) (d : SDst) (pol : Fin 8) (sz : Sz) (a b c : SOp) (s : State) : Out :=
  settle s (issueAcas g d pol sz a b c s)

/-! ### Streams -/

/-- A stream of a cluster. -/
def getStream (s : State) (cl n : Nat) : Stream := smGetD (getTwe s cl).streams n {}
def setStream (s : State) (cl n : Nat) (x : Stream) : State :=
  setTwe s cl { getTwe s cl with streams := smPut (getTwe s cl).streams n x }

/-- Whether a request is a step of a stream that has started and not ended. -/
def stepOf (cl n : Nat) (r : Req) : Bool :=
  match r.kind with
  | .step c m _ => c == cl && m == n && !r.complete && !r.told
  | _ => false

/-- Whether the id of a stream is taken (R211): a closed one is free once its started steps have ended. -/
def streamUsed (s : State) (cl n : Nat) : Bool :=
  let x := getStream s cl n
  x.isOpen && (!x.closing || s.reqs.any fun r => stepOf cl n r.2)

/-- Fields of a descriptor (R210). -/
def descWalk (v : Nat) : Nat := bits v 0 256
def descAdv (v : Nat) : Int := sInt 64 (bits v 256 64)
def descSteps (v : Nat) : Nat := bits v 320 32
def descDepth (v : Nat) : Nat := bits v 352 8
def descStore (v : Nat) : Bool := v.testBit 360
def descBuf (v k : Nat) : Nat := bits v 384 18 + k % descDepth v * bits v 416 32
def descMask (v : Nat) : Nat := bits v 448 16
def descBar (v : Nat) : Option Nat := if v.testBit 471 then some (bits v 464 6) else none

/-- The consumers of a stream of a cluster. -/
def descCores (cl v : Nat) : List Nat := ((List.range 16).filter fun i => (descMask v).testBit i).map fun i => cl * 16 + i

/-- Whether a descriptor holds no bad field (R210). -/
def descOk (v : Nat) : Bool :=
  walkOk (descWalk v) && decide (1 ≤ descSteps v) && decide (1 ≤ descDepth v ∧ descDepth v ≤ 16) && bits v 361 23 == 0
    && bits v 402 14 == 0 && bits v 470 1 == 0 && bits v 472 40 == 0
    && (!descStore v || (descCores 0 v).length == 1)

/-- Bytes of the virtual space within one page, read for a partition under an engine's bit: or the reason and address. -/
def readVirt (s : State) (cl part bit va n : Nat) : State × Except (Nat × Nat) (List Byte) :=
  match translate s cl part bit va with
  | (s1, .error e) => (s1, .error (e, if e = 14 then va / 256 * 256 else va))
  | (s1, .ok x) =>
    match physRead s1 (some x.key) x.pa n with
    | .error e => (s1, .error (e, if e = 13 then va / 256 * 256 else va))
    | .ok bs => (s1, .ok bs)

/-- The read of a stream's descriptor as a request of its owner, engine copy read (R218, log 59). -/
def descReq (x : Stream) : Req :=
  { core := x.owner, bid := x.ownerBid, part := x.part, kind := .copy, context := false,
    pieces := [{ src := .virt x.descVa, dst := .none, len := 64 }] }

/-- Bytes that stand at a physical address once what an engine or a bridge lane holds ahead of request `num` has performed (R298). -/
def heldOver (s : State) (num pa : Nat) (r : Req) (bs : List Byte) : List Byte :=
  s.reqs.foldl (fun bs x =>
    x.2.pieces.foldl (fun bs q =>
      let ahead := (decide (x.1 < num) && x.2.core / 16 == r.core / 16) ||
        (x.2.part == r.part && x.2.core / 256 == r.core / 256 && q.lane.any (· ≤ num))
      match q.dst with
      | .virt w =>
        if q.stage = 1 ∧ ahead then
          match paOf s (x.2.core / 16) x.2.part w with
          | some a => bs.zipIdx.map fun b => if a ≤ pa + b.2 then (q.buf[pa + b.2 - a]?).getD b.1 else b.1
          | none => bs
        else bs
      | _ => bs) bs) bs

/-- Reads the descriptor of an open stream (R211): one that faults or is bad leaves the stream failed. Data that cannot be corrected is
also a fault of the owner, and is recorded (R227). -/
def fetchDesc (cl n : Nat) (s : State) : State :=
  let x := getStream s cl n
  let r := descReq x
  if x.isOpen && x.desc.isNone && !x.failed then
    match readVirt s cl x.part 1 x.descVa 64 with
    | (s1, .error e) =>
      let s2 := setStream s1 cl n { x with failed := true }
      if 13 ≤ e.1 then
        postFault (errorRecord x.part 1 0x30 0 6 e.1 x.owner (errSector s cl x.part 1 e.1 x.descVa) (some e.2) s2) x.num r
          { cause := .dataerr, engine := 6, reason := e.1, va := some e.2 }
      else s2
    | (s1, .ok bs0) =>
      let bs := match paOf s1 cl x.part x.descVa with
        | some pa => heldOver s1 x.num pa r bs0
        | none => bs0
      if descOk (leNat bs) then setStream s1 cl n { x with desc := some (BitVec.ofNat 512 (leNat bs)) }
      else setStream s1 cl n { x with failed := true }
  else s

/-- Whether the descriptor of a stream may be read now: in the order of R298 and R299, its packets being sent (R265). -/
def mayFetchDesc (s : State) (cl n : Nat) : Bool :=
  let x := getStream s cl n
  let r := descReq x
  x.isOpen && x.desc.isNone && !x.failed && !earlierTouch s x.num r (.virt x.descVa) 64 && laneOk s x.num r 1 x.descVa &&
    !runWaits s true x.num (.virt x.descVa) && !runWaits s false x.num (.virt x.descVa)

/-- `DESCRIPTOR_FETCH` (R211). -/
def execDescriptorFetch (cluster stream : Nat) (s : State) : Out :=
  .next (if mayFetchDesc s cluster stream then fetchDesc cluster stream s else s)

/-- `twopen` (R211). Like `bari`, `barw`, `permit` and `twclose` it takes no policy: no row of R61 applies to it and it sets no `MODFB`, where
R60 says only that `SPACE` and `CACHE` are ignored (DESIGN CHOICE, log 58). Its descriptor's read takes a number among the requests. -/
def issueTwopen (g : Guard) (d : SDst) (_pol : Fin 8) (a b : SOp) : Issue :=
  issueC g d (void2 a b) fun s =>
    let n := valN s a
    let va := valN s b
    let cl := s.sched.cur / 16
    if 15 < n ∨ va % 64 ≠ 0 then .ok (s, stBadarg, 0)
    else if streamUsed s cl n then .ok (s, stBusy, 0)
    else
      let x : Stream := { isOpen := true, owner := s.sched.cur, ownerBid := reqBid (cur s), part := reqPart s s.sched.cur,
                          descVa := va, num := s.nextReq }
      let s1 := { setStream s cl n x with nextReq := s.nextReq + 1 }
      .ok (postReturn (postLine s1 x.num (descReq x) 1 va) x.num (descReq x) 1 va, stAccepted, 0)
def execTwopen (g : Guard) (d : SDst) (pol : Fin 8) (a b : SOp) (s : State) : Out := settle s (issueTwopen g d pol a b s)

/-- `permit` (R211): a descriptor not read yet is read for the answer, under what the engine holds ahead of it (log 35). -/
def issuePermit (g : Guard) (d : SDst) (_pol : Fin 8) (a b : SOp) : Issue :=
  issueC g d (void2 a b) fun s =>
    let n := valN s a
    let count := valN s b
    let cl := s.sched.cur / 16
    if 15 < n ∨ count = 0 ∨ 65535 < count then .ok (s, stBadarg, 0)
    else
      let s1 := fetchDesc cl n s
      let x := getStream s1 cl n
      let me := s.sched.cur % 16
      match x.desc with
      | none => .ok (s1, stRefused, 0)
      | some v =>
        let total := smGetD x.permits me 0 + count
        if !x.isOpen || x.failed || x.closing || !(descMask v.toNat).testBit me || decide (descSteps v.toNat < total) then
          .ok (s1, stRefused, 0)
        else .ok (setStream s1 cl n { x with permits := smPut x.permits me total }, stDone, 0)
def execPermit (g : Guard) (d : SDst) (pol : Fin 8) (a b : SOp) (s : State) : Out := settle s (issuePermit g d pol a b s)

/-- `twclose` (R211). -/
def issueTwclose (g : Guard) (d : SDst) (_pol : Fin 8) (a : SOp) : Issue :=
  issueC g d (void1 a) fun s =>
    let n := valN s a
    let cl := s.sched.cur / 16
    let x := getStream s cl n
    if 15 < n then .ok (s, stBadarg, 0)
    else if !streamUsed s cl n || x.owner != s.sched.cur then .ok (s, stRefused, 0)
    else .ok (setStream s cl n { x with closing := true }, statusW (if x.failed then 4 else 0) x.started, 0)
def execTwclose (g : Guard) (d : SDst) (pol : Fin 8) (a : SOp) (s : State) : Out := settle s (issueTwclose g d pol a s)

/-! ### Invalidation -/

/-- `tlbi` (R222): privileged whatever the guard; it takes a number among the requests, and no context. -/
def tlbiReq (g : Guard) (d : SDst) (sc : Scope) (void : Ctx → Bool) (lo len : State → Nat) (z : SOp) : Issue := fun s =>
  if !coreKern (cur s) then .error (privStop (maskC s))
  else issueC g d void (fun s =>
    if 16 ≤ valN s z ∨ 2 ^ 55 ≤ lo s ∨ 2 ^ 55 < len s then .ok (s, stBadarg, 0)
    else if len s = 0 then .ok (s, stDone, 0)
    else
      let op : TlbiOp := { core := s.sched.cur, bid := reqBid (cur s), part := valN s z, scope := sc.code, lo := lo s, hi := lo s + len s }
      .ok ({ s with tlbis := smPut s.tlbis s.nextReq op, nextReq := s.nextReq + 1 }, stAccepted, 0)) s

/-- `tlbi.va` (R222). -/
def issueTlbiVa (g : Guard) (d : SDst) (_pol : Fin 8) (sc : Scope) (a c : SOp) : Issue :=
  tlbiReq g d sc (void2 a c) (fun s => valN s a) (fun _ => 1) c
def execTlbiVa (g : Guard) (d : SDst) (pol : Fin 8) (sc : Scope) (a c : SOp) (s : State) : Out :=
  settle s (issueTlbiVa g d pol sc a c s)

/-- `tlbi.rng` (R222). -/
def issueTlbiRng (g : Guard) (d : SDst) (_pol : Fin 8) (sc : Scope) (a b c : SOp) : Issue :=
  tlbiReq g d sc (void3 a b c) (fun s => valN s a) (fun s => valN s b) c
def execTlbiRng (g : Guard) (d : SDst) (pol : Fin 8) (sc : Scope) (a b c : SOp) (s : State) : Out :=
  settle s (issueTlbiRng g d pol sc a b c s)

/-- `tlbi.all` (R222). -/
def issueTlbiAll (g : Guard) (d : SDst) (_pol : Fin 8) (sc : Scope) (c : SOp) : Issue :=
  tlbiReq g d sc (void1 c) (fun _ => 0) (fun _ => 2 ^ 55) c
def execTlbiAll (g : Guard) (d : SDst) (pol : Fin 8) (sc : Scope) (c : SOp) (s : State) : Out :=
  settle s (issueTlbiAll g d pol sc c s)

end Sys2Proof.Machine
end

