-- ==== Sys2Proof/Machine/Crossbar.lean ====
section
/-! DEFINITION. The photonic crossbar, the ring registers and the column-head reducers (spec/15 R264 to R278). -/

namespace Sys2Proof.Machine

/-! ### The wheel -/

/-- Slots that a packet takes on a channel with `w` wavelengths in use (R278): a line of 256 bytes at 16 × w a slot. -/
def packetSlots (w : Nat) : Nat := if w = 0 then 0 else (256 + 16 * w - 1) / (16 * w)

/-- The sites in cyclic order after one (R266). -/
def sitesAfter (last : Nat) : List Nat := (List.range 17).map fun i => (last + 1 + i) % 17

/-- The packet that a free slot carries (R266 rule 2): of the first site with one of class 1 or 2, class 1 before 2. -/
def freePacket (c : Channel) : Option Packet :=
  (sitesAfter c.lastFree).findSome? fun site =>
    match c.ready.find? fun p => p.site == site && p.cls == 1 with
    | some p => some p
    | none => c.ready.find? fun p => p.site == site && p.cls == 2

/-- What a slot of the wheel carries: the packet, and whether the slot was free (R266, R267). -/
def slotPacket (c : Channel) (slot : Nat) : Option (Packet × Bool) :=
  match (smGet c.octets (slot % 8)).bind fun part => c.ready.find? fun p => p.cls == 0 && p.part == part with
  | some p => some (p, false)
  | none => (freePacket c).map fun p => (p, true)

/-- One slot on a channel (R266, R278). -/
def wheelStep (c : Channel) (slot : Nat) : Channel :=
  if c.busy ≠ 0 then { c with busy := c.busy - 1 }
  else
    let n := packetSlots (32 - onesIn c.woffNow)
    match if n = 0 then none else slotPacket c slot with
    | none => c
    | some (p, isFree) =>
      { c with ready := c.ready.erase p, lastFree := if isFree then p.site else c.lastFree, busy := n - 1 }

/-- `WHEEL_SLOT` (R266): the slot in progress. -/
def execWheelSlot (chan : Nat) (s : State) : Out := .next (setChan s chan (wheelStep (getChan s chan) (s.wheel % 64)))

/-- `WHEEL_REVOLUTION` (R265, R275, R278): written maps and unused wavelengths take effect. -/
def execWheelRevolution (chan : Nat) (s : State) : Out :=
  let c := getChan s chan
  let maps := (List.range 18).foldl (fun m k => smSet rmapReset m (bankIx chan k) (smGetD s.rmap (bankIx chan k) rmapReset)) s.rmapNow
  .next { setChan s chan { c with woffNow := c.woff } with rmapNow := maps }

/-! ### Ring registers -/

/-- A write of a ring map (R275): a bad one is ignored as a whole. -/
def putMap (s : State) (ix : Nat) (v : BitVec 256) : State :=
  let w := BitVec.ofNat 256 (v.toNat % 2 ^ 192)
  if rmapOk w then { s with rmap := smSet rmapReset s.rmap ix w } else s

/-- Physical address of the ring maps of a channel's first bank (R276), which an error record of kind 3 names (log 36). -/
def bankPa (chan : Nat) : Nat := 0xC00000000000 + chan / 128 * 0x1000000 + 0x100000 + 32 * (18 * (chan % 128))

/-- A write of `WOFF` (R275, R278): the first unused wavelength of a channel is recorded. -/
def putWoff (s : State) (chan : Nat) (woff : BitVec 32) : State :=
  let c := getChan s chan
  let s1 := setChan s chan { c with woff := woff }
  if c.woff = 0 ∧ woff ≠ 0 then errorRecord 0 3 0 0 0 0 0 (bankPa chan) none s1 else s1

/-- `KILN_MAP` and `KILN_CHST` written through the management block (R275). -/
def execKilnMapWrite (chan bank : Nat) (v : BitVec 256) (s : State) : Out := .next (putMap s (bankIx chan bank) v)
def execKilnChstWrite (chan : Nat) (woff : BitVec 32) (s : State) : Out := .next (putWoff s chan woff)

/-- The register of the kiln aperture at an offset: its first byte and its size (R276). -/
def kilnReg (off : Nat) : Option (Nat × Nat) :=
  if 0x80000 ≤ off ∧ off < 0x80000 + 331776 then some (off / 4 * 4, 4)
  else if 0x100000 ≤ off ∧ off < 0x100000 + 73728 then some (off / 32 * 32, 32)
  else if 0x120000 ≤ off ∧ off < 0x120000 + 2048 then some (off / 16 * 16, 16)
  else none

/-- A write of a whole register of the aperture (R276). -/
def putKiln (s : State) (die off : Nat) (v : Nat) : State :=
  let b0 := die * 128 * 18
  if off < 0x100000 then
    let o := off - 0x80000
    { s with heat := smSet 2048 s.heat ((b0 + o / 144) * 36 + o % 144 / 4) (BitVec.ofNat 12 v) }
  else if off < 0x120000 then putMap s (b0 + (off - 0x100000) / 32) (BitVec.ofNat 256 v)
  else putWoff s (die * 128 + (off - 0x120000) / 16) (BitVec.ofNat 32 (v / 2 ^ 64))

/-- A write of consecutive bytes at the aperture takes effect for the registers that it covers whole (R276). -/
def kilnWrite (s : State) (die off : Nat) (bs : List Byte) : State :=
  (((List.range bs.length).filterMap fun i => kilnReg (off + i)).dedup).foldl (fun s g =>
    if off ≤ g.1 ∧ g.1 + g.2 ≤ off + bs.length then putKiln s die g.1 (leNat ((bs.drop (g.1 - off)).take g.2)) else s) s

/-- A write of one request at a home: memory under its key, or the ring registers of the aperture (R276, R312). -/
def homeWrite (s : State) (key pa : Nat) (bs : List Byte) : State :=
  match paKind pa with
  | .kiln die off => kilnWrite s die off bs
  | _ => physWriteN s (some key) pa bs

/-- The byte that a request has written at an offset of an aperture, once its piece has performed: of pieces that write the same
byte the later in the list (R203). -/
def kilnCovered (s : State) (r : Req) (die off : Nat) : Option Byte :=
  r.pieces.reverse.findSome? fun p =>
    match p.dst with
    | .virt va =>
      if p.stage ≠ 2 then none
      else
        match classOf s (r.core / 16) r.part r.wrBit va with
        | some x =>
          match paKind x.pa with
          | .kiln d o => if d = die ∧ o ≤ off ∧ off < o + p.len then p.buf[off - o]? else none
          | _ => none
        | none => none
    | _ => none

/-- What a piece that performs at the aperture writes (R276): the registers that the request's pieces now cover whole. -/
def kilnPut (s : State) (r : Req) (die off len : Nat) : State :=
  (((List.range len).filterMap fun i => kilnReg (off + i)).dedup).foldl (fun s g =>
    let bs := (List.range g.2).filterMap fun i => kilnCovered s r die (g.1 + i)
    if bs.length = g.2 then putKiln s die g.1 (leNat bs) else s) s

/-! ### Reducers -/

/-- The reducer of a core and its slot there (R270). -/
def reducerOf (core : Nat) : Nat := core / 256 * 4 + core / 16 % 4
def reducerSlot (core : Nat) : Nat := core / 64 % 4 * 16 + core % 16

/-- The partition that owns a group, if it is assigned (R270). -/
def groupOwner (v : BitVec 128) (g : Nat) : Option Nat := if v.getLsbD (64 + g) then some (bits v.toNat (4 * g) 4) else none

/-- Bytes of an input element, of a result element, and the lengths accepted (R271). -/
def rdcIn : RdcOp → Nat
  | .addBf16 => 2
  | .addF64 => 8
  | .mxrE4m3 | .mxrE2m1 => 256
  | _ => 4
def rdcOut : RdcOp → Nat
  | .addF64 | .mxrE4m3 | .mxrE2m1 => 8
  | _ => 4
def rdcLenOk (op : RdcOp) (len : Nat) : Bool := decide (rdcIn op ≤ len ∧ len ≤ 256) && len % rdcIn op == 0

/-- Bytes that a round writes (R271, R274). -/
def rdcBytes (op : RdcOp) (len n : Nat) : Nat :=
  match op with
  | .addBf16 => 2 * len
  | .mxrE4m3 | .mxrE2m1 => 256 * n
  | _ => len

/-- Width of a result lane. -/
def rdcWidth (op : RdcOp) : Nat := if op = .addF64 then 64 else 32

/-- The elements of a contribution, as result lanes (R271). -/
def rdcLanes (op : RdcOp) (bs : List Byte) : List Nat :=
  let n := leNat bs
  match op with
  | .addBf16 => (lanesOf 16 (bs.length / 2) n).map fun x => (convertF .f32 .ne false (decodeF .bf16 x)).1
  | _ => lanesOf (rdcWidth op) (bs.length * 8 / rdcWidth op) n

/-- One combine (R271, R127): flags are discarded (R272). -/
def rdcComb (op : RdcOp) (a b : Nat) : Nat :=
  match op with
  | .addI32 => (a + b) % 2 ^ 32
  | .addF32 | .addBf16 => (addF .f32 .ne (decodeF .f32 a) (decodeF .f32 b)).1
  | .addF64 => (addF .f64 .ne (decodeF .f64 a) (decodeF .f64 b)).1
  | .maxI32 => if sInt 32 a < sInt 32 b then b else a
  | .minI32 => if sInt 32 b < sInt 32 a then b else a
  | .maxF32 => (minmaxF .f32 true a b).1
  | .minF32 => (minmaxF .f32 false a b).1
  | .and => Nat.land a b
  | .or => Nat.lor a b
  | .xor => Nat.xor a b
  | .mxrE4m3 | .mxrE2m1 => a

/-- `Comb` (R272): an absent contribution leaves the other. -/
def rdcPair (op : RdcOp) : Option (List Nat) → Option (List Nat) → Option (List Nat)
  | a, none => a
  | none, b => b
  | some a, some b => some ((List.zip a b).map fun x => rdcComb op x.1 x.2)

/-- One level of the tree (R272). -/
def rdcLevel (op : RdcOp) : List (Option (List Nat)) → List (Option (List Nat))
  | a :: b :: l => rdcPair op a b :: rdcLevel op l
  | l => l

/-- The result of a round of lanes (R272): six levels over the 64 slots. -/
def rdcTree (op : RdcOp) (got : SMap (Nat × List Byte)) : List Nat :=
  let t0 := (List.range 64).map fun q => (smGet got q).map fun x => rdcLanes op x.2
  let t6 := (List.range 6).foldl (fun t _ => rdcLevel op t) t0
  (t6.head?.bind id).getD []

/-- A block of a packed vector brought to a common scale (R274). -/
def mxrBlock (lt : LT) (v smax b : Nat) : List Nat :=
  let scale := bits v (8 * (128 + b)) 8
  let alt := bits v (8 * (132 + b)) 8
  (lanesOf lt.width 32 (v / 2 ^ (lt.width * 32 * b))).map fun q =>
    if smax = 0xFF then 0
    else
      match decodeAlt lt q alt with
      | .nan _ => codeNan lt
      | .inf n => (infF lt true n).1
      | .fin n m e => (roundF lt .ne true n m (e + scale - smax)).1

/-- The result of an `.mxr` round (R274): a packed vector for each contributor in ascending slot order. -/
def mxrResult (lt : LT) (got : SMap (Nat × List Byte)) : List Byte :=
  let vs := got.map fun x => leNat x.2.2
  let smax := fun (b : Nat) => vs.foldl (fun m v => max m (bits v (8 * (128 + b)) 8)) 0
  vs.flatMap fun v =>
    let els := (List.range 4).flatMap fun b => mxrBlock lt v (smax b) b
    leBytes 256 (ofLanes lt.width els + ofLanes 8 ((List.range 4).map smax) * 2 ^ 1024)

/-- The bytes that a round writes. -/
def roundResult (x : Round) : List Byte :=
  match x.op with
  | .mxrE4m3 => mxrResult .e4m3 x.got
  | .mxrE2m1 => mxrResult .e2m1 x.got
  | op => let l := rdcTree op x.got; leBytes (rdcBytes op x.len x.n) (ofLanes (rdcWidth op) l)

/-- `rdc` (R271). -/
def issueRdc (g : Guard) (d : SDst) (pol : Fin 8) (op : RdcOp) (len : BitVec 16) (a b e : SOp) : Issue :=
  issueC g d (void3 a b e) fun s =>
    let y := valN s b
    let n := len.toNat
    underPol s pol false false false (fun _ => ownRange s 0xA y n) fun q =>
      let x := valN s a
      let z := valN s e
      let cnt := bits z 0 6 + 1
      let grp := bits z 8 4
      if !rdcLenOk op n || z != (cnt - 1) + grp * 2 ^ 8 || x % rdcOut op != 0 then only s stBadarg
      else if groupOwner (smGetD s.rdcown (reducerOf s.sched.cur) 0) grp ≠ some (reqPart s s.sched.cur) then only s stRefused
      else
        let ps : List Piece := { src := ownSpad s y, dst := .none, len := n } ::
          mkPieces (ownNum s) .none (.virt x) (rdcBytes op n cnt) none
        sendReq s { newReq s (.rdc op n cnt grp x y) q ps with rdEng := 0xA, wrEng := 0xA, rdBit := 5, wrBit := 5 } 1 none
def execRdc (g : Guard) (d : SDst) (pol : Fin 8) (op : RdcOp) (len : BitVec 16) (a b c : SOp) (s : State) : Out :=
  settle s (issueRdc g d pol op len a b c s)


/-- `RDCERR` of one contributor (R273): it takes the stop and its request is complete. -/
def rdcErr (s : State) (n : Nat) : State :=
  let r := getReq s n
  let dst := match r.kind with | .rdc _ _ _ _ dst _ => dst | _ => 0
  postFault (setReq s n { r with complete := true, told := true }) n r
    { cause := .rdcerr, engine := 0xA, va := some dst }

/-- The open round of a group (R272, R273): its number. -/
def roundOpen (x : Round) : Bool := decide (x.got.length < x.n)
def openRound (s : State) (group : Nat) : Option Nat :=
  (s.rounds.find? fun x => x.2.group == group && roundOpen x.2).map (·.1)

/-- An open round fails (R273): every contributor takes `RDCERR`, its request is complete, and the group has no open round. -/
def failRound (key : Nat) (s : State) : State :=
  match smGet s.rounds key with
  | none => s
  | some x => if roundOpen x then x.got.foldl (fun s c => rdcErr s c.2.1) { s with rounds := smDel s.rounds key } else s

/-- Whether a contribution has still to arrive and may (R200, R209, R300): its order, and its destination translates. -/
def mayContribute (s : State) (n : Nat) (r : Req) : Bool :=
  match r.kind with
  | .rdc _ _ _ _ _ _ => !r.mid && !r.complete && !r.told && releaseOk s n r && acquireOk s n r && (reqFault s r).isNone
  | _ => false

/-- `REDUCER_CONTRIBUTION` (R272, R273): the bytes are taken and arrive; they open or join a round, or fail it. -/
def execReducerContribution (req : Nat) (s : State) : Out :=
  let r := getReq s req
  match r.kind with
  | .rdc op len n g dst src =>
    if mayContribute s req r then
      let own := match r.pieces.head?.map (·.src) with | some (.spad c _) => c | _ => r.core
      let bs := spadBytes s own src len
      let group := 16 * reducerOf r.core + g
      let slot := reducerSlot r.core
      let ps := match r.pieces with | p :: l => { p with stage := 2 } :: l | l => l
      let s0 := if own < 1024 then setCore s own { getCore s own with readAt := some (portCycle s own) } else s
      let s1 := setReq s0 req { r with mid := true, pieces := ps }
      match openRound s1 group with
      | none =>
        let x : Round := { group := group, n := n, op := op, len := len, dst := dst, part := r.part, opener := req,
                           got := [(slot, (req, bs))] }
        .next { s1 with rounds := smPut s1.rounds s1.nextRound x, nextRound := s1.nextRound + 1 }
      | some key =>
        match smGet s1.rounds key with
        | none => .next s1
        | some x =>
          if (smGet x.got slot).isSome || x.n != n || x.op != op || x.len != len || x.dst != dst then
            .next (rdcErr (failRound key s1) req)
          else .next { s1 with rounds := smPut s1.rounds key { x with got := smPut x.got slot (req, bs) } }
    else .next s
  | _ => .next s

/-- Whether a round is closed and its result may be written (R272, R298, R299), the packets of its lines being sent (R265). -/
def mayWriteRound (s : State) (x : Round) : Bool :=
  let r := getReq s x.opener
  !roundOpen x && (reqFault s r).isNone && !r.told && (r.pieces.all fun p => !runWaits s true x.opener p.dst) &&
    x.got.all fun c =>
      !earlierTouchBut s (x.got.map (·.2.1)) c.2.1 (getReq s c.2.1) (.virt x.dst) (rdcBytes x.op x.len x.n) &&
      laneOk s c.2.1 (getReq s c.2.1) (getReq s c.2.1).wrBit x.dst

/-- A write to the virtual space by a request, page by page; a page that does not translate keeps its bytes. -/
def virtWrite (s : State) (r : Req) (bit va : Nat) (bs : List Byte) : State :=
  (cutRun (bs.length + 1) [(va, 65536)] 0 bs.length).foldl (fun s c =>
    match virtAccess s r bit (va + c.1) c.2 false with
    | (s1, .ok t) => homeWrite s1 t.key t.pa ((bs.drop c.1).take c.2)
    | (s1, .error _) => s1) s

/-- The requests of a round are complete (R272). -/
def completeRound (x : Round) (s : State) : State :=
  x.got.foldl (fun s c => setReq s c.2.1 { getReq s c.2.1 with complete := true, pieces := [] }) s

/-- The result of a round as it stands at its destination, by the translation of the contribution that opened it. -/
def writeRound (x : Round) (s : State) : State :=
  virtWrite s (getReq s x.opener) (getReq s x.opener).wrBit x.dst (roundResult x)

/-- `REDUCER_RESULT_WRITE` (R272, R274): every contribution of the round performs. -/
def execReducerResultWrite (round : Nat) (s : State) : Out :=
  match smGet s.rounds round with
  | none => .next s
  | some x =>
    if mayWriteRound s x then
      let s1 := completeRound x (writeRound x s)
      .next (countAllPerformed { s1 with rounds := smDel s1.rounds round })
    else .next s

/-- `RDCOWN` written (R270, R273). -/
def execRdcownWrite (reducer : Nat) (v : BitVec 128) (s : State) : Out :=
  let old := smGetD s.rdcown reducer 0
  let w := BitVec.ofNat 128 (v.toNat % 2 ^ 80)
  let s1 := { s with rdcown := smPut s.rdcown reducer w }
  .next ((List.range 16).foldl (fun s g =>
    if groupOwner old g ≠ groupOwner w g then
      match openRound s (16 * reducer + g) with
      | some key => failRound key s
      | none => s
    else s) s1)

end Sys2Proof.Machine
end

