-- ==== Sys2Proof/Machine/Engine.lean ====
section
/-! DEFINITION. The tile-walk engine at work (spec/11 R195 to R201, R206, R209, R210; spec/12 R215, R220 to R223, R227, R231; spec/17
R296 to R300): bytes are taken and put, segments land, atomics perform, faults are reported, requests complete. -/

namespace Sys2Proof.Machine

/-! ### Runs of a request -/

/-- Whether two runs of one request share an aligned doubleword of one home (R297), also one that two virtual addresses reach. -/
def sameDouble (s : State) (r : Req) (a : Loc) (n : Nat) (b : Loc) (m : Nat) : Bool :=
  let meet := fun (x y : Nat) => decide (x / 8 * 8 < y + m) && decide (y / 8 * 8 < x + n)
  (match homeOf r.part a, homeOf r.part b with
    | some (h, x), some (h', y) => h == h' && meet x y
    | _, _ => false) ||
  match a, b with
  | .virt u, .virt v =>
    match paOf s (r.core / 16) r.part u, paOf s (r.core / 16) r.part v with
    | some x, some y => meet x y
    | _, _ => false
  | _, _ => false

/-! ### Taking bytes -/

/-- The pieces taken with one: those that share an aligned doubleword of its home (R297); of the core's own memory, those for the other
members of a multicast, as each byte is read once (R200). -/
def takeGroup (s : State) (r : Req) (i : Nat) : List Nat :=
  let p := pieceAtIx r i
  let with_ := fun (q : Piece) =>
    if srcAtHome r p then srcAtHome r q && sameDouble s r p.src p.len q.src q.len
    else match p.src with
      | .spad _ _ => q.src == p.src
      | _ => false
  (r.pieces.zipIdx.filter fun x => x.2 == i || (x.1.stage == 0 && with_ x.1)).map (·.2)

/-! ### The copy-landing port -/

/-- The receiving core of a destination in a core's own memories. -/
def landCore : Loc → Option Nat
  | .spad c _ => some (if c < 1024 then c else c - 1024)
  | .slot c _ _ => some c
  | _ => none

/-- Whether a run follows another at once in the same aligned block of 256 bytes (R199). -/
def landNext (p q : Piece) : Bool :=
  match p.dst, q.dst with
  | .spad c a, .spad c' b => c == c' && b == a + p.len && a / 256 == b / 256
  | .slot c o a, .slot c' o' b => c == c' && o == o' && b == a + p.len && a / 256 == b / 256
  | _, _ => false


/-- A walk every byte of which is clipped (R205): fill and notices only. -/
def allClipped (r : Req) : Bool :=
  r.kind == .walk && r.pieces.all fun p => p.src == .zero || p.voidn

/-- Segments that a request has still to land at a core: runs of bytes in blocks of 256. -/
def segsLeft (r : Req) (c : Nat) : Nat :=
  (r.pieces.zipIdx.filter fun x => decide (x.1.stage < 2) && landCore x.1.dst == some c &&
    !(decide (0 < x.2) && landNext (pieceAtIx r (x.2 - 1)) x.1)).length

/-- Segments that promised requests have to land at a core by a tick of a region; those of other regions all count. -/
def segsDue (s : State) (c region t : Nat) : Nat :=
  (s.reqs.map fun x => match x.2.promise with
    | some p => if regionOf s x.2.core ≠ region ∨ p ≤ t then segsLeft x.2 c else 0
    | none => 0).sum

/-- Whether a request must go on now to keep its promise (R195, R205, R269): its tick is so near that the ports of its receivers have
no cycle to spare. -/
def urgent (s : State) (r : Req) : Bool :=
  match r.promise with
  | none => false
  | some t =>
    let region := regionOf s r.core
    let ports := (r.pieces.filterMap fun p => if p.stage < 2 then landCore p.dst else none).dedup
    !r.complete && decide (t < coreTick s r.core + ports.foldl (fun m c => max m (segsDue s c region t)) 1)

/-- Whether the port of a core is wanted by another request that is urgent and due earlier than request `n`. -/
def portWanted (s : State) (n : Nat) (r : Req) (c : Nat) : Bool :=
  s.reqs.any fun x => x.1 != n && urgent s x.2 && (x.2.pieces.any fun p => p.stage == 1 && landCore p.dst == some c) &&
    !(urgent s r && match r.promise, x.2.promise with
      | some a, some b => decide (a < b) || (a == b && decide (n < x.1))
      | _, _ => false)

/-- Whether a source may be taken now: its order, its translation, its request packet (R265), and the port that reads a scratchpad. -/
def srcReady (s : State) (n : Nat) (r : Req) (p : Piece) : Bool :=
  match p.src with
  | .virt va => mayTouch s n r p.src p.len && laneOk s n r r.rdBit va && !runWaits s true n p.src &&
      (match (virtAccess s r r.rdBit va p.len true).2 with | .ok _ => true | .error _ => false)
  | .spad c a => (!srcAtHome r p || mayTouch s n r p.src p.len) && !(decide (c < 1024) && spadBad (getCore s c) a p.len) &&
      !portWanted s n r c
  | .slot _ _ _ => false
  | .zero => true
  | .none => false

/-- The bytes of a source. -/
def srcBytes (s : State) (r : Req) (p : Piece) : State × List Byte :=
  match p.src with
  | .virt va =>
    match virtAccess s r r.rdBit va p.len true with
    | (s1, .ok x) => (s1, bytesUnder s1 (some x.key) x.pa p.len)
    | (s1, .error _) => (s1, [])
  | .spad c a => (s, spadBytes s c a p.len)
  | _ => (s, List.replicate p.len 0)

/-- Requests whose bytes move piece by piece. -/
def movesBytes (r : Req) : Bool :=
  match r.kind with
  | .copy | .walk | .stamp | .step _ _ _ | .fsend _ | .frecv _ _ => true
  | _ => false

/-- Whether a walk that is all clipped has come to the cycle of its promise, in which its fill or notice takes effect (R205). -/
def clippedNow (s : State) (r : Req) : Bool := !allClipped r || r.promise.all (· ≤ coreTick s r.core)

/-- Whether a piece may be taken now. -/
def mayTake (s : State) (n : Nat) (r : Req) (i : Nat) : Bool :=
  (pieceAtIx r i).stage == 0 && movesBytes r && clippedNow s r && (takeGroup s r i).all fun j => srcReady s n r (pieceAtIx r j)

/-- The bytes of a message, once they are read (R344). -/
def fillMsg (m : Nat) (bs : List Byte) (s : State) : State :=
  match smGet s.msgs m with
  | some x => { s with msgs := smPut s.msgs m { x with bytes := x.bytes ++ bs } }
  | none => s

/-- Takes one piece: bytes for no destination have then performed (R205). -/
def takePiece (n i : Nat) (s : State) : State :=
  let r := getReq s n
  let p := pieceAtIx r i
  let b := srcBytes s r p
  let gone := p.dst == .none
  let q := { p with stage := if gone then 2 else 1, buf := if gone then [] else b.2 }
  let s1 := setReq b.1 n (mapPieces r fun j x => if j = i then q else x)
  let s2 := match p.src with
    | .virt va => postReturn s1 n r r.rdBit va
    | .spad c _ => if c < 1024 then setCore s1 c { getCore s1 c with readAt := some (portCycle s1 c) } else s1
    | _ => s1
  let s3 := match r.kind with | .fsend m => fillMsg m b.2 s2 | _ => s2
  if gone then countPieces n r [p] s3 else s3

/-! ### Putting bytes -/

/-- The pieces put with one: those that share an aligned doubleword of the destination (R297). -/
def putGroup (s : State) (r : Req) (i : Nat) : List Nat :=
  let p := pieceAtIx r i
  (r.pieces.zipIdx.filter fun x => decide (x.1.stage < 2) && (x.2 == i || sameDouble s r p.dst p.len x.1.dst x.1.len)).map (·.2)

/-- Order inside a request (R203, R205, R210): of pieces that write the same bytes the earlier first, and no byte of a source is
written before the source is taken wholly. -/
def insideOk (r : Req) (i : Nat) (with_ : List Nat) : Bool :=
  match r.kind with
  | .walk | .step _ _ _ =>
    let p := pieceAtIx r i
    (r.pieces.zipIdx.all fun x => !(decide (x.2 < i) && decide (x.1.stage < 2) && !with_.contains x.2 &&
      locsMeet r.part x.1.dst x.1.len r.part p.dst p.len)) &&
    ((r.pieces.all fun x => x.stage != 0) || !(r.pieces.any fun x => srcAtHome r x && locsMeet r.part x.src x.len r.part p.dst p.len))
  | _ => true

/-- Whether a run of the virtual space may be put now. -/
def dstReady (s : State) (n : Nat) (r : Req) (group : List Nat) (i : Nat) : Bool :=
  let p := pieceAtIx r i
  match p.dst with
  | .virt va => p.stage == 1 && mayTouch s n r p.dst p.len && laneOk s n r r.wrBit va && insideOk r i group &&
      !runWaits s true n p.dst && !runWaits s false n p.src &&
      (match (virtAccess s r r.wrBit va p.len false).2 with | .ok _ => true | .error _ => false)
  | _ => false

/-- Whether a piece may be put now. -/
def mayPut (s : State) (n : Nat) (r : Req) (i : Nat) : Bool :=
  movesBytes r && (putGroup s r i).all fun j => dstReady s n r (putGroup s r i) j

/-- Whether a request has put every byte of a 64-byte sector of the virtual space (R306). -/
def coversSector (r : Req) (va : Nat) : Bool :=
  let base := va / 64 * 64
  let puts := r.pieces.filterMap fun p =>
    match p.dst with
    | .virt w => if p.stage = 2 then some (w, p.len) else none
    | _ => none
  (List.range 64).all fun i => puts.any fun q => decide (q.1 ≤ base + i) && decide (base + i < q.1 + q.2)

/-- Puts one piece at its home. -/
def putPiece (n i : Nat) (s : State) : State :=
  let r := getReq s n
  let p := pieceAtIx r i
  match p.dst with
  | .virt va =>
    match virtAccess s r r.wrBit va p.len false with
    | (s1, .error _) => s1
    | (s1, .ok x) =>
      match paKind x.pa with
      | .kiln die off =>
        let r1 := mapPieces r fun j q => if j = i then { q with stage := 2 } else q
        kilnPut (setReq s1 n r1) r1 die off p.len
      | _ =>
        let r1 := mapPieces r fun j q => if j = i then { q with stage := 2, buf := [] } else q
        physWrite (setReq s1 n r1) (some x.key) x.pa p.buf (coversSector r1 va)
  | _ => s

/-- `BYTE_PERFORM` (R296, R297, R200): a piece is taken from its source or put at its home in the virtual space. -/
def execBytePerform (req piece : Nat) (s : State) : Out :=
  let r := getReq s req
  if mayTake s req r piece then
    .next (countCorePerformed r.core ((takeGroup s r piece).foldl (fun s i => takePiece req i s) s))
  else if (pieceAtIx r piece).stage = 1 ∧ mayPut s req r piece then
    .next (countCorePerformed r.core ((putGroup s r piece).foldl (fun s i => putPiece req i s) s))
  else .next s

/-- Whether bytes bound for another die may enter the bridge lane (R298): taken, in order, and behind no write of the cluster to the
same bytes that has not entered it. -/
def mayEnterLane (s : State) (n : Nat) (r : Req) (i : Nat) : Bool :=
  let p := pieceAtIx r i
  match p.dst with
  | .virt va =>
    p.stage == 1 && p.lane.isNone && movesBytes r && releaseOk s n r && acquireOk s n r && !runWaits s false n p.src &&
    (match homeDie s r r.wrBit va with | some die => die != r.core / 256 | none => false) &&
    !(s.reqs.any fun x => decide (x.1 < n) && x.2.core / 16 == r.core / 16 && !x.2.complete &&
      x.2.pieces.any fun q => q.lane.isNone && stillTouches s x.2 q r.part p.dst p.len)
  | _ => false

/-- The bytes of a piece, with those of its doubleword, enter the lane: what comes from the die later performs behind them (R298). No
row of the table names the step (log 19). -/
def enterLane (n i : Nat) (s : State) : State :=
  let r := getReq s n
  if mayEnterLane s n r i then
    let g := (putGroup s r i).filter (mayEnterLane s n r)
    countCorePerformed r.core
      (setReq s n (mapPieces r fun j q => if g.contains j then { q with lane := some s.nextReq } else q))
  else s

/-! ### Landing -/

/-- The pieces of a segment from one on (R199): taken, contiguous, in one block. -/
def segFrom (r : Req) : Nat → Nat → List Nat
  | 0, _ => []
  | fuel + 1, i =>
    i :: (if (pieceAtIx r (i + 1)).stage = 1 ∧ landNext (pieceAtIx r i) (pieceAtIx r (i + 1)) then segFrom r fuel (i + 1) else [])

/-- A set of pieces with those that share an aligned doubleword of one home with one of them, again and again (R297). -/
def doubleClosure (s : State) (r : Req) : Nat → List Nat → List Nat
  | 0, g => g
  | fuel + 1, g =>
    let all := (r.pieces.zipIdx.filter fun x => decide (x.1.stage < 2) && (g.contains x.2 ||
      g.any fun j => sameDouble s r (pieceAtIx r j).dst (pieceAtIx r j).len x.1.dst x.1.len)).map (·.2)
    if all.length ≤ g.length then g else doubleClosure s r fuel all

/-- The pieces that land with one (R199, R297): a contiguous segment; at the home in another core, or for a step of a stream, with
what shares its doublewords, also across a gap; the whole of a walk that is all clipped (R205). In the order of the list, so that later
rows stay (R205). -/
def landGroup (s : State) (r : Req) (i : Nat) : List Nat :=
  if allClipped r then (r.pieces.zipIdx.filter fun x => decide (x.1.stage < 2)).map (·.2)
  else if landsHere r (pieceAtIx r i).dst && !isStep r.kind then segFrom r 256 i
  else doubleClosure s r 256 (segFrom r 256 i)

/-- Steps of a stream land in order at each consumer (R210). -/
def stepOrder (s : State) (r : Req) (core : Nat) : Bool :=
  match r.kind with
  | .step cl n k => s.reqs.all fun x =>
      match x.2.kind with
      | .step cl' n' k' => !(cl' == cl && n' == n && decide (k' < k)) ||
          x.2.pieces.all fun p => landCore p.dst != some core || decide (2 ≤ p.stage)
      | _ => true
  | _ => true

/-- Whether a core's port may land a segment of a request in the cycle (R199, R200). -/
def portFree (s : State) (n : Nat) (r : Req) (c : Nat) : Bool :=
  let t := some (portCycle s c)
  (getCore s c).portAt != t && (getCore s c).readAt != t && !portWanted s n r c

/-- Whether a segment may land now. -/
def mayLand (s : State) (n : Nat) (r : Req) (i : Nat) : Bool :=
  let p := pieceAtIx r i
  match landCore p.dst with
  | none => false
  | some c =>
    let seg := landGroup s r i
    p.stage == 1 && (if allClipped r then clippedNow s r else portFree s n r c) && stepOrder s r c &&
    seg.all fun j => (pieceAtIx r j).stage == 1 && mayTouch s n r (pieceAtIx r j).dst (pieceAtIx r j).len && insideOk r j seg &&
      !dataWaits s n r (pieceAtIx r j)

/-- Bytes that land in an operand slot (R151, R199): they stand from the end of the cycle, or at once on a core that runs
nothing, also because its region is stopped (R248). -/
def slotPut (c o off : Nat) (bs : List Byte) (s : State) : State :=
  let k := getCore s c
  let f := fun d => setSlotBytes d o off bs
  let mx := if k.run = .running ∧ (coreRegion s c).st ≠ .stopped then mxWrite k.mx f
    else { k.mx with now := f k.mx.now, next := k.mx.next.map f }
  setCore s c (sramGood .slot (9216 * o + off) bs.length { k with mx := mx })

/-- `OSLOT` of a member whose slot is not claimed when the bytes arrive (R206), once for a request: it waits for the first bundle
that the core would issue. -/
def memberStop (n c : Nat) (s : State) : State :=
  let r := getReq s n
  let k := getCore s c
  let e : Stop := { cause := .oslot, engine := 8 }
  if r.missed.contains c then s
  else
    let s1 := setReq s n { r with missed := c :: r.missed }
    if k.run = .fenced then s1 else setCore s1 c { k with faults := k.faults ++ [⟨1, n, e, false⟩] }

/-- Whether bytes that arrive are kept: not in a slot that is not claimed (R206). -/
def landKept (s : State) (p : Piece) : Bool :=
  match p.dst with
  | .slot c o _ => (getCore s c).mx.claimed.getLsbD o
  | _ => true

/-- Lands one piece. -/
def landPiece (n i : Nat) (s : State) : State :=
  let r := getReq s n
  let p := pieceAtIx r i
  let s1 := setReq s n (mapPieces r fun j q => if j = i then { q with stage := 2, buf := [] } else q)
  match p.dst with
  | .spad c a => spadPut s1 c a p.buf
  | .slot c o off => if landKept s p then slotPut c o off p.buf s1 else memberStop n c s1
  | _ => s1

/-- `COPY_SEGMENT_LANDING` (R199, R201, R206): one segment through the copy-landing port of a core. -/
def execCopySegmentLanding (req seg : Nat) (s : State) : Out :=
  let r := getReq s req
  if mayLand s req r seg then
    match landCore (pieceAtIx r seg).dst with
    | some c =>
      let s1 := if allClipped r then s else setCore s c { getCore s c with portAt := some (portCycle s c) }
      let ps := (landGroup s r seg).map (pieceAtIx r)
      .next (countCorePerformed r.core
        (countPieces req r (ps.filter (landKept s)) ((landGroup s r seg).foldl (fun s i => landPiece req i s) s1)))
    | none => .next s
  else .next s

/-! ### Atomics, completion, faults -/

/-- Whether an atomic may perform now. -/
def mayAtomic (s : State) (n : Nat) (r : Req) : Bool :=
  match r.kind with
  | .atomic _ sz ea _ _ => !r.mid && !r.told && mayTouch s n r (.virt ea) (szBytes sz) && laneOk s n r r.wrBit ea &&
      !runWaits s true n (.virt ea) && (reqFault s r).isNone
  | _ => false

/-- The part of an atomic's old value that a piece brings to the scratchpad from `z` on (R199, R209). -/
def returnPart (z : Nat) (bs : List Byte) (p : Piece) : List Byte :=
  match p.dst with
  | .spad _ a => (bs.drop (a - z)).take p.len
  | _ => []


/-- `ATOMIC_PERFORM` (R209): one indivisible step at the slice; the old value is bound for the scratchpad. -/
def execAtomicPerform (req : Nat) (s : State) : Out :=
  let r := getReq s req
  match r.kind with
  | .atomic opc sz ea v z =>
    if mayAtomic s req r then
      match virtAccess s r r.wrBit ea (szBytes sz) true with
      | (s1, .ok x) =>
        let w := szBytes sz
        let old := leNat (bytesUnder s1 (some x.key) x.pa w)
        let own := match r.pieces.getLast?.map (·.dst) with | some (.spad c _) => c | _ => r.core
        let swap := leNat (spadBytes s1 own z w)
        let s2 := homeWrite s1 x.key x.pa (leBytes w (atomicNew opc sz old v.toNat swap))
        let s3 := if own < 1024 ∧ opc = 7 then setCore s2 own { getCore s2 own with readAt := some (portCycle s2 own) } else s2
        let r1 := mapPieces r fun i p =>
          if i = 0 then { p with stage := 2 } else { p with stage := 1, buf := returnPart z (leBytes 8 (atomicOld sz old)) p }
        .next (countCorePerformed r.core (postReturn (setReq s3 req { r1 with mid := true }) req r r.wrBit ea))
      | (s1, .error _) => .next s1
    else .next s
  | _ => .next s

/-- Whether a request has nothing left to do. -/
def mayComplete (r : Req) : Bool :=
  !r.complete && !r.told &&
  (match r.kind with
    | .rdc _ _ _ _ _ _ => false
    | _ => r.pieces.all fun p => p.stage == 2)

/-- `REQUEST_COMPLETE` (R192, R193). -/
def execRequestComplete (req : Nat) (s : State) : Out :=
  let r := getReq s req
  if mayComplete r then
    .next (countCorePerformed r.core
      (setReq s req { r with complete := true, pieces := r.pieces.map fun p => { p with buf := [] } }))
  else .next s

/-- The round that a contribution stands in. -/
def roundOf (s : State) (n : Nat) : Option Nat :=
  (s.rounds.find? fun x => x.2.got.any fun c => c.2.1 == n).map (·.1)

/-- `TWE_FAULT_REPORT` (R195, R211, R225, R227, R273, R307): the faulting pieces move no byte, the request never completes, and its
core is told once, with the lowest address. A data error of a scratchpad has no sector, and `PADDR` is 0 (log 56). A contributor's
fault fails its open round, and it takes `RDCERR` after its own fault. -/
def reportFault (n : Nat) (s : State) : State :=
  let r := getReq s n
  match reqFault s r with
  | none => s
  | some e =>
    let r1 := { r with told := true, pieces := r.pieces.map fun p => if (pieceFault s r p).isSome then { p with stage := 3, buf := [] } else p }
    let s1 := setReq s n r1
    let sram := r.pieces.find? fun p => match p.src with
      | .spad _ a => e.reason == 13 && e.va == some a && pieceFault s r p == some e
      | _ => false
    let paddr := if sram.isSome then 0 else errSector s (r.core / 16) r.part r.rdBit e.reason (e.va.getD 0)
    let s2 := if e.cause = .dataerr then errorRecord r.part 1 0x30 0 e.engine e.reason r.core paddr e.va s1 else s1
    let s3 := match r.kind with
      | .step cl k _ => setStream s2 cl k { getStream s2 cl k with failed := true }
      | _ => s2
    let mine := sram.any fun p => match p.src with
      | .spad c _ => c == r.core
      | _ => false
    let s4 := if r.told then s3 else postFaultAs mine s3 n r e
    match roundOf s4 n with
    | some key => failRound key s4
    | none => s4
def execTweFaultReport (req : Nat) (s : State) : Out := .next (reportFault req s)

/-! ### Promises -/

/-- A request of what runs on a core whose promise is broken (R197). -/
def broken (s : State) (core : Nat) : Option (Nat × Req) :=
  let k := getCore s core
  s.reqs.find? fun x =>
    let r := x.2
    r.core == core && r.service == k.svc.isSome && r.bid == reqBid k && !r.told && !r.complete &&
      (match r.promise with | some t => decide (t ≤ coreTick s core) | none => false) && !reqAt s x.1 r r.scope

/-- `PROMISE` (R197): the core freezes before its bundle; a fault of the request comes instead (R195). -/
def execPromise (core : Nat) (s : State) : Out :=
  match broken s core with
  | none => .next s
  | some (n, r) =>
    if (reqFault s r).isSome then .next (reportFault n s)
    else .next (takeStop core { cause := .promise } s)

/-! ### Walks, invalidation, streams -/


/-- `TABLE_WALK` (R215, R217, R220, R221): a leaf that some engine may use is cached; one that fails is not. -/
def execTableWalk (cluster part va : Nat) (s0 : State) : Out :=
  if 2 ^ 55 ≤ va then .next s0
  else
    let s := postWalk cluster part va s0
    match walk s va [0, 1, 2] (partRoot (getPart s0 part)) with
    | .error _ => .next s
    | .ok (lvl, e) =>
      if (List.range 8).any fun bit => (leafCheck s part bit lvl e va).isNone then
        .next (setTwe s cluster { getTwe s cluster with tlb := tlbPut (mkLeaf part va lvl e) (getTwe s cluster).tlb })
      else .next s

/-- Clusters whose engines a `tlbi` concerns (R223). -/
def tlbiClusters (s : State) (op : TlbiOp) : List Nat :=
  (List.range 64).filter fun cl => partHasCluster (getPart s op.part) cl && (op.scope != 2 || cl / 16 == op.core / 256)

/-- Whether a leaf is to go. -/
def tlbiHits (op : TlbiOp) (l : Leaf) : Bool :=
  l.part == op.part && decide (l.va < op.hi) && decide (op.lo < l.va + leafSize l.lvl)

/-- Removes leaves of a cluster and walks back those that still pass, pinned (R223). -/
def dropLeaves (op : TlbiOp) (cl : Nat) (s : State) : State :=
  let t := getTwe s cl
  let gone := t.tlb.filter (tlbiHits op)
  if gone.isEmpty then s
  else
    gone.foldl (fun s0 l =>
      let s := postWalk cl op.part l.va s0
      match walk s l.va [0, 1, 2] (partRoot (getPart s op.part)) with
      | .ok (lvl, e) =>
        if entPin e && (List.range 8).any fun bit => (leafCheck s op.part bit lvl e l.va).isNone then
          setTwe s cl { getTwe s cl with tlb := tlbPut (mkLeaf op.part l.va lvl e) (getTwe s cl).tlb }
        else s
      | .error _ => s) (setTwe s cl { t with tlb := t.tlb.filter fun l => !tlbiHits op l })

/-- Whether a location lies in the range of a `tlbi` or of a leaf that it removes. -/
def inRange (op : TlbiOp) (gone : List Leaf) (len : Nat) : Loc → Bool
  | .virt va => (decide (va < op.hi) && decide (op.lo < va + len)) ||
      gone.any fun l => decide (va < l.va + leafSize l.lvl) && decide (l.va < va + len)
  | _ => false

/-- Whether a request has translated through a leaf that a `tlbi` removes: a byte in its range has been taken, or is on its way or
at its home (R223). -/
def usedLeaf (s : State) (op : TlbiOp) (r : Req) : Bool :=
  let gone := (getTwe s (r.core / 16)).tlb.filter (tlbiHits op)
  r.part == op.part && (tlbiClusters s op).contains (r.core / 16) && r.pieces.any fun p =>
    decide (1 ≤ p.stage) && (inRange op gone p.len p.src || inRange op gone p.len p.dst)

/-- Whether a request is over: complete, or its fault told. -/
def overReq (r : Req) : Bool := r.complete || r.told

/-- The outstanding requests that had translated through a removed leaf. -/
def tlbiUsers (s : State) (op : TlbiOp) : List Nat :=
  (s.reqs.filter fun x => !overReq x.2 && usedLeaf s op x.2).map (·.1)

/-- Whether every request that a `tlbi` waits for has completed or faulted (R223). -/
def usersOver (s : State) (op : TlbiOp) : Bool := op.users.all fun n => overReq (getReq s n)

/-- Whether a `tlbi` has something to do now: its leaves are still there, or those that used them are over. -/
def mayTlbi (s : State) (op : TlbiOp) : Bool := !op.removed || usersOver s op

/-- `TLBI_PERFORM` (R223): the leaves go, and those pinned and still valid are walked back in; it has performed once every request
that had translated through one has completed or faulted. -/
def execTlbiPerform (op : Nat) (s : State) : Out :=
  match smGet s.tlbis op with
  | none => .next s
  | some x =>
    let y := if x.removed then x else { x with removed := true, users := tlbiUsers s x }
    let s1 := if x.removed then s else (tlbiClusters s x).foldl (fun s cl => dropLeaves x cl s) s
    .next { s1 with tlbis := if usersOver s y then smDel s1.tlbis op else smPut s1.tlbis op y }

/-- Whether a stream may start its next step (R210, R212). -/
def mayStep (s : State) (cl n : Nat) : Bool :=
  let x := getStream s cl n
  x.isOpen && !x.closing && !x.failed &&
    (match x.desc with
      | none => false
      | some v => decide (x.started < descSteps v.toNat) &&
          (descCores cl v.toNat).all fun c => decide (x.started < smGetD x.permits (c % 16) 0))

/-- `STREAM_STEP_START` (R210): the step's walk begins; a buffer outside the scratchpad is a fault of the step. The bytes of a store
stream's step count in its barrier at package scope, whatever `POL` of the `twopen` says: the spec names no scope for a step (DESIGN CHOICE,
log 58). -/
def execStreamStepStart (cluster stream : Nat) (s : State) : Out :=
  if mayStep s cluster stream then
    let x := getStream s cluster stream
    let v := (x.desc.getD 0).toNat
    let k := x.started
    let w0 := walkOf (descWalk v)
    let w := { w0 with base := w0.base + k * descAdv v }
    let y := descBuf v k
    let cores := descCores cluster v
    let ps := cores.flatMap fun c =>
      let bar := (descBar v).map fun b => (c, b)
      if descStore v then walkStore 2048 c w y bar else walkLoad 2048 c w y bar
    let r : Req := { core := x.owner, bid := x.ownerBid, part := x.part, kind := .step cluster stream k, rdEng := 0xF, wrEng := 0xF,
                     tick := coreTick s x.owner, pieces := ps, context := false }
    let s1 := setStream s cluster stream { x with started := k + 1 }
    if spadOk y (walkSpan w) then .next (addReq s1 r)
    else
      let e : Stop := { cause := .xlate, engine := 0xF, reason := 4, va := some y }
      let s2 := setStream s1 cluster stream { x with started := k + 1, failed := true }
      .next (postFault { s2 with nextReq := s2.nextReq + 1 } s2.nextReq r e)
  else .next s

/-! ### Code lines -/

/-- Reads a line of 256 bytes for the fetch channel (R231). -/
def readLine (s : State) (core line : Nat) : State × Except Nat (List Byte) := fetchBytes s core (256 * line) 256

/-- Puts a line into the code stream buffer of 32 KiB (R231): beyond 128 lines the farthest from it leaves. -/
def putLine (k : Core) (line : Nat) (l : CodeLine) : Core :=
  let m := smPut k.code line l
  if m.length ≤ 128 then { k with code := m }
  else
    let far := m.foldl (fun b x =>
      let d := fun (y : Nat) => if y ≤ line then line - y else y - line
      if d b < d x.1 then x.1 else b) line
    { k with code := smDel m far }

/-- `CODE_LINE_FETCH` (R227, R231): a line comes into the buffer, or is marked failed. -/
def execCodeLineFetch (core line : Nat) (s : State) : Out :=
  match readLine s core line with
  | (s1, .ok bs) => .next (setCore s1 core (putLine (sramGood .code (256 * line) 256 (getCore s1 core)) line (.bytes bs)))
  | (s1, .error e) =>
    .next (setCore s1 core (putLine (getCore s1 core) line (.bad (reasonFetch e) e)))

end Sys2Proof.Machine
end

