-- ==== Sys2Proof/Machine/Pages.lean ====
section
/-! DEFINITION. Frames and page tables as the Cerrum kernel and the steep loader keep them (spec/18 R303, R308, R316; spec/12
R214 to R216, R219, R220). Which free frame is given is open (log 11). -/

namespace Sys2Proof.Machine

/-- Slices of a partition with some addressable memory, as die and slice (R304, R308). -/
def ownSlices (x : Part) : List (Nat × Nat) := (List.range 4).flatMap fun die => (partSlices x die).map fun k => (die, k)

/-- HBM groups of a partition, as stack and group (R303), from which frames are given: not those still being zeroed (R311). -/
def ownGroups (x : Part) : List (Nat × Nat) :=
  (List.range 12).flatMap fun st =>
    ((List.range 16).filter fun g => partHasGroup x st g && !x.sweep.contains (st, g)).map fun g => (st, g)

/-- How many frames a partition has in its slices and in its HBM groups. -/
def sliceFrames (x : Part) : Nat := (ownSlices x).length * (partSlsplit x * 16)
def hbmFrames (x : Part) : Nat := (ownGroups x).length * 81920

/-- Frame `i` of the slices, and of the groups. -/
def sliceFrame (x : Part) (i : Nat) : Nat :=
  let n := partSlsplit x * 16
  match (ownSlices x)[i / n]? with
  | some (die, k) => (0x800000000000 + die * 0x10000000 + k * 0x400000) / 65536 + i % n
  | none => 0
def hbmFrame (x : Part) (i : Nat) : Nat :=
  match (ownGroups x)[i / 81920]? with
  | some (st, g) => st * 2 ^ 21 + i % 81920 * 16 + g
  | none => 0

/-- Whether a frame number lies in slice memory. -/
def pfnSlice (f : Nat) : Bool := decide (0x80000000 ≤ f)

/-- Frames that hold tables and rings (R215, R309). -/
def kernelHolds (s : State) (f : Nat) : Bool :=
  s.parts.any fun x => [partRoot x.2, partEvRing x.2, partErRing x.2].any fun a => a != 0 && a / 65536 == f

/-- The first free frame from a starting place, among `n`. -/
def seekFrame (s : State) (x : Part) (at_ : Nat → Nat) (n start : Nat) : Nat → Option Nat
  | 0 => none
  | fuel + 1 =>
    let f := at_ (start % n)
    if x.frames.contains f || kernelHolds s f then seekFrame s x at_ n (start + 1) fuel else some f

/-- A free frame of a partition: slice memory or HBM. -/
def freeFrame (s : State) (p : Nat) (slice : Bool) : Option Nat :=
  let x := getPart s p
  let n := if slice then sliceFrames x else hbmFrames x
  if n = 0 then none
  else seekFrame s x (if slice then sliceFrame x else hbmFrame x) n (Config.framePick p (if slice then 0 else 1) x.frames.length)
    (min n (x.frames.length + 65))

/-- Bytes [lo, lo + n) of physical memory read 0, and no key applies to them. -/
def clearMem (lo n : Nat) (s : State) : State :=
  { s with mem := s.mem.filter fun c => !(decide (lo ≤ c.1) && decide (c.1 < lo + n))
           tags := s.tags.filter fun c => !(decide (lo ≤ c.1 * 64) && decide (c.1 * 64 < lo + n))
           ftags := s.ftags.filter fun c => !(decide (lo ≤ c.1 * 65536) && decide (c.1 * 65536 < lo + n))
           poison := s.poison.filter fun u => !(decide (lo ≤ u * 64) && decide (u * 64 < lo + n)) }

/-- Gives a frame of a partition, zeroed (R35, R311). -/
def giveFrame (s : State) (p : Nat) (slice : Bool) : Option (State × Nat) :=
  (freeFrame s p slice).map fun f =>
    (setPart (clearMem (f * 65536) 65536 s) p { getPart s p with frames := f :: (getPart s p).frames }, f)

/-- A table entry as a number (R216). -/
def mkEntry (leaf : Bool) (mask lcls key : Nat) (pin : Bool) (pfn : Nat) : Nat :=
  1 + (if leaf then 2 else 0) + mask % 256 * 2 ^ 2 + lcls % 4 * 2 ^ 10 + key % 256 * 2 ^ 12 + (if pin then 2 ^ 20 else 0)
    + pfn % 2 ^ 32 * 2 ^ 22

/-- Writes a table entry; tables lie in the kernel's frames and no key applies to them (R215). -/
def putEntry (a e : Nat) (s : State) : State := { s with mem := mWriteN s.mem a (leBytes 8 e) }

/-- The address of the level-2 entry for a page, with the tables on the way made in partition 0's memory (log 11). -/
def entryAt (s : State) (va : Nat) : List Nat → Nat → Option (State × Nat)
  | [], base => some (s, base + 8 * tableIx va 2)
  | lvl :: ls, base =>
    let a := base + 8 * tableIx va lvl
    let e := leNat (mReadN s.mem a 8)
    if entV e then (if entLF e then none else entryAt s va ls (entPfn e * 65536))
    else
      match giveFrame s 0 false with
      | none => none
      | some (s1, f) => entryAt (putEntry a (mkEntry false 0 0 0 false f) s1) va ls (f * 65536)

/-- Clusters of a partition. -/
def partClusters (x : Part) : List Nat := (List.range 64).filter fun c => partHasCluster x c

/-- Puts a pinned leaf into the TLBs of the clusters that touch its page (R220, R316). -/
def walkIn (cls : List Nat) (p va e : Nat) (s : State) : State :=
  cls.foldl (fun s cl => setTwe s cl { getTwe s cl with tlb := tlbPut (mkLeaf p va 2 e) (getTwe s cl).tlb }) s

/-- Maps one page to a frame (R316), for the clusters of an image. -/
def mapPage (cls : List Nat) (p va e : Nat) (s : State) : Option State :=
  (entryAt s va [0, 1] (partRoot (getPart s p))).map fun r =>
    let s1 := putEntry r.2 e r.1
    if entPin e then walkIn cls p va e s1 else s1

/-- Whether a page is mapped: a walk finds something else than an invalid entry. -/
def pageMapped (s : State) (p va : Nat) : Bool :=
  match walk s va [0, 1, 2] (partRoot (getPart s p)) with
  | .error r => !(decide (1 ≤ r) && decide (r ≤ 3))
  | .ok _ => true

/-- The level-2 entry of a page, when the walk reaches one that is valid: its address and value. -/
def pageEntry (s : State) (p va : Nat) : Option (Nat × Nat) :=
  let a0 := partRoot (getPart s p) + 8 * tableIx va 0
  let e0 := leNat (mReadN s.mem a0 8)
  let a1 := entPfn e0 * 65536 + 8 * tableIx va 1
  let e1 := leNat (mReadN s.mem a1 8)
  let a2 := entPfn e1 * 65536 + 8 * tableIx va 2
  let e2 := leNat (mReadN s.mem a2 8)
  if entV e0 && !entLF e0 && entV e1 && !entLF e1 && entV e2 then some (a2, e2) else none

/-- Resident leaves in the TLB of a cluster, and in the fullest one of some clusters (R220). -/
def residentAt (s : State) (cl : Nat) : Nat := (getTwe s cl).tlb.countP fun l => entPin l.e.toNat
def residentLeaves (s : State) (cls : List Nat) : Nat := cls.foldl (fun m cl => max m (residentAt s cl)) 0

/-- Clusters in which an instance has cores. -/
def instClusters (i : Inst) : List Nat := (i.cores.map (· / 16)).dedup

/-- Frames of a kind that nothing has taken or reserved. -/
def looseFrames (s : State) (p : Nat) (slice : Bool) : Nat :=
  let x := getPart s p
  let held := x.frames.countP fun f => pfnSlice f == slice
  let resv := s.insts.foldl (fun n i => if i.2.live ∧ i.2.part = p then n + (if slice then i.2.resvS else i.2.resvH) else n) 0
  (if slice then sliceFrames x else hbmFrames x) - held - resv

/-- Pages of a run. -/
def pagesOf (va count : Nat) : List Nat := (List.range count).map fun i => va + i * 65536

/-! ### Calls for pages (R316) -/

/-- The result word of a call that did nothing, for a reason. -/
def noPages (reason : Nat) : Nat := reason * 2 ^ 32

/-- Maps pages one after another. -/
def mapRun (cls : List Nat) (p : Nat) (slice : Bool) (mask lcls key : Nat) (pin : Bool) : List Nat → State → Option State
  | [], s => some s
  | va :: vs, s =>
    match giveFrame s p slice with
    | none => none
    | some (s1, f) =>
      match mapPage cls p va (mkEntry true mask lcls key pin f) s1 with
      | none => none
      | some s2 => mapRun cls p slice mask lcls key pin vs s2

/-- Changes an instance. -/
def setInst (s : State) (n : Nat) (i : Inst) : State := { s with insts := smPut s.insts n i }

/-- Takes frames from a job's reserve first (R316). -/
def useReserve (inst count : Nat) (slice : Bool) (s : State) : State :=
  let i := getInst s inst
  setInst s inst (if slice then { i with resvS := i.resvS - count } else { i with resvH := i.resvH - count })

/-- Notes pages that a job has mapped, for the release of its instance (R320). -/
def ownPages (inst : Nat) (vs : List Nat) (s : State) : State :=
  let i := getInst s inst
  setInst s inst { i with pages := i.pages ++ vs }

/-- Pages that are mapped no longer belong to no instance. -/
def disownPages (p : Nat) (vs : List Nat) (s : State) : State :=
  { s with insts := s.insts.map fun x =>
      (x.1, if x.2.part = p then { x.2 with pages := x.2.pages.filter fun v => !vs.contains v } else x.2) }

/-- "Map pages" (R316). Pages of class 0 lie in slice memory, the others in HBM. When several reasons apply the lowest is
given (log 11). -/
def callMap (s : State) (p inst va z : Nat) : State × Nat :=
  let count := bits z 0 16
  let lcls := bits z 16 2
  let key := bits z 18 8
  let mask := bits z 26 8
  let slice := lcls == 0
  let i := getInst s inst
  if va % 65536 ≠ 0 ∨ 2 ^ 55 ≤ va ∨ count = 0 ∨ lcls = 3 ∨ 2 ^ 34 ≤ z ∨ 2 ^ 55 < va + count * 65536 then (s, noPages 1)
  else if looseFrames s p slice + (if slice then i.resvS else i.resvH) < count then (s, noPages 2)
  else if (pagesOf va count).any (pageMapped s p) then (s, noPages 3)
  else if lcls ≤ 1 ∧ 1536 < residentLeaves s (instClusters i) + count then (s, noPages 4)
  else if !partHasKey (getPart s p) key then (s, noPages 5)
  else
    match mapRun (instClusters i) p slice mask lcls key (lcls ≤ 1) (pagesOf va count) s with
    | some s1 => (ownPages inst (pagesOf va count) (useReserve inst count slice s1), count)
    | none => (s, noPages 2)

/-- Whether a leaf of a TLB overlaps a run. -/
def leafIn (p lo hi : Nat) (l : Leaf) : Bool := l.part == p && decide (l.va < hi) && decide (lo < l.va + leafSize l.lvl)

/-- "Unmap pages" (R316): pages that are not mapped are skipped, and the frames are free afterwards. -/
def callUnmap (s : State) (p va count : Nat) : State × Nat :=
  if va % 65536 ≠ 0 ∨ 2 ^ 55 ≤ va ∨ count = 0 ∨ 65535 < count ∨ 2 ^ 55 < va + count * 65536 then (s, noPages 1)
  else
    let r := (pagesOf va count).foldl (fun (r : State × Nat) v =>
      match pageEntry r.1 p v with
      | none => r
      | some (a, e) =>
        let s1 := putEntry a 0 r.1
        (setPart s1 p { getPart s1 p with frames := (getPart s1 p).frames.filter (· ≠ entPfn e) }, r.2 + 1)) (s, 0)
    let cut := r.1.twes.map fun t => (t.1, { t.2 with tlb := t.2.tlb.filter fun l => !leafIn p va (va + count * 65536) l })
    (disownPages p (pagesOf va count) { r.1 with twes := cut }, r.2)

/-- "Allocate frames" (R316). -/
def callAlloc (s : State) (p inst count z : Nat) : State × Nat :=
  if count = 0 ∨ 65535 < count ∨ 1 < z then (s, noPages 1)
  else if looseFrames s p (z == 0) < count then (s, noPages 2)
  else
    let i := getInst s inst
    (setInst s inst (if z = 0 then { i with resvS := i.resvS + count } else { i with resvH := i.resvH + count }), count)

/-- "Free frames" (R316). -/
def callFree (s : State) (inst count z : Nat) : State × Nat :=
  if 1 < z then (s, noPages 1)
  else
    let i := getInst s inst
    if z = 0 then (setInst s inst { i with resvS := i.resvS - count }, min count i.resvS)
    else (setInst s inst { i with resvH := i.resvH - count }, min count i.resvH)

end Sys2Proof.Machine
end

