-- ==== Sys2Proof/Machine/Area.lean ====
section
/-! DEFINITION. The context area (spec/09 R176, R177, R179, R186; spec/12 R228): what a save writes to memory and what a restore
reads back. R176 fixes the place and the size of every part; the order within the header, the scalar registers, the latch bank and
the unit schedules is the model's (DESIGN CHOICE, log 21). The number format of a row that a unit has computed and not landed is
open: the bytes of the shadow tile are free, and a restore takes the operands of such rows from `State.saved` (log 21). -/

namespace Sys2Proof.Machine

/-! ### Sparse bytes -/

/-- The bytes of a number from an address on that are not 0. -/
def cellsOf (a n v : Nat) : SMap Byte :=
  if v = 0 then [] else ((leBytes n v).zipIdx.map fun b => (a + b.2, b.1)).filter fun c => c.2 != 0

/-- A memory moved up, or its part [lo, lo + n) moved down to 0. -/
def cellsUp (a : Nat) (m : SMap Byte) : SMap Byte := m.map fun c => (c.1 + a, c.2)
def cellsDown (lo n : Nat) (m : SMap Byte) : SMap Byte :=
  (m.filter fun c => decide (lo ≤ c.1) && decide (c.1 < lo + n)).map fun c => (c.1 - lo, c.2)

/-- The number that `n` bytes from an address hold. -/
def cellsNat (m : SMap Byte) (a n : Nat) : Nat :=
  (m.filter fun c => decide (a ≤ c.1) && decide (c.1 < a + n)).foldl (fun v c => v + c.2.toNat * 256 ^ (c.1 - a)) 0

/-- Rows of `n` bytes that are not all 0. -/
def cellsRows (m : SMap Byte) (n : Nat) : SMap Nat :=
  ((m.map fun c => c.1 / n).dedup).foldr (fun r acc => smPut acc r (cellsNat m (r * n) n)) []

/-- Words of 64 bits from an address on, and the words that stand there. -/
def cellsWords (a : Nat) (ws : List Nat) : SMap Byte := cellsOf a (8 * ws.length) (ofLanes 64 ws)
def wordsFrom (m : SMap Byte) (a n : Nat) : List Nat := lanesOf 64 n (cellsNat m a (8 * n))

/-- Fields of given widths, the first from bit 0 on. -/
def packN : List (Nat × Nat) → Nat
  | [] => 0
  | f :: fs => f.2 % 2 ^ f.1 + 2 ^ f.1 * packN fs

/-- A mask of `n` bits, and a value with its void bit. -/
def maskN (n : Nat) (f : Nat → Bool) : Nat := ofLanes 1 ((List.range n).map fun i => if f i then 1 else 0)
def maskBit (w lo i : Nat) : Bool := w.testBit (lo + i)

/-- A cycle as its distance from the stop, in 16 bits, and the cycle again (R171). -/
def offWord (bc t : Nat) : Nat := wrap 16 ((t : Int) - bc)
def offFrom (bc w : Nat) : Nat := ((bc : Int) + sInt 16 w).toNat

/-- The age of an instruction at the stop, which orders results (R29); one older than 65,535 cycles keeps that age. -/
def ageWord (bc seq : Nat) : Nat := min (bc - seq) 65535

/-! ### Parts of the area -/

/-- Entries of 96 or 32 bits as one number. -/
def entsNat {w : Nat} (l : List (BitVec w)) : Nat := ofLanes w (l.map BitVec.toNat)
def natEnts (w n v : Nat) : List (BitVec w) := (lanesOf w n v).map (BitVec.ofNat w)


/-- What is saved of the matrix engine, with the claimed-slot mask. -/
def usedTiles (m : Mx) : List Nat := (List.range 4).filter fun t => (m.now.tiles.getD t {}).used
def claimedSlots (m : Mx) : List Nat := (List.range 24).filter fun o => m.claimed.getLsbD o

/-- Ranges of the area that a save or restore touches, in order: offset and length. The parts of the latch bank are skipped when it is
empty (R177). -/
def areaRanges (m : Mx) (latch : Bool) : List (Nat × Nat) :=
  [(0, 0x2400)] ++ (if latch then [(0x2400, 0xDC00)] else []) ++
  (usedTiles m).map (fun t => (0x10000 + 768 * t, 768)) ++ (usedTiles m).map (fun t => (0x10C00 + 256 * t, 256)) ++
  (usedTiles m).map (fun t => (0x11000 + 49152 * t, 49152)) ++ [(0x41000, 0x8000)] ++
  (claimedSlots m).map (fun o => (0x49000 + 9216 * o, 9216)) ++ [(0x7F000, 0x40000)]

/-! ### The registers, the wait and the latch bank -/

/-- All causes, and the one of a code (R226). -/
def causes : List Cause :=
  [.invcu, .badtpl, .bundle, .groupdep, .badopc, .badopnd, .badfld, .priv, .fetch, .xlate, .perm, .keyrev, .promise, .timing,
   .oslot, .barovf, .mcastpart, .svc, .yieldsvc, .deadline, .preempt, .debug, .swtrap, .inflight, .xport, .rdcerr, .dataerr, .double]
def causeOf (n : Nat) : Cause := (causes.find? fun c => causeCode c == n).getD .none

/-- A scalar destination in 6 bits. -/
def dstWord : SDst → Nat
  | .k i => i.val
  | .belt => 32
  | .discard => 33
def dstFrom (n : Nat) : SDst := if n = 32 then .belt else if h : n < 32 then .k ⟨n, h⟩ else .discard

/-- A wait as its number, a flag and five words; a request that it waits for goes by its number. -/
def kindWords : WaitKind → Nat × Bool × List Nat
  | .sleepto t => (1, false, [t.toNat])
  | .mwait cc ea y z => (2, false, [cc.code, ea, y.toNat, z.toNat])
  | .barw n z => (3, false, [n, z.toNat])
  | .drain sc upto => (4, false, [sc.code, upto])
  | .join h z => (5, false, [h.toNat, z.toNat])
  | .frecv key y z took => (6, took.isSome, [key, y, z.toNat, (took.getD (0, 0)).1, (took.getD (0, 0)).2])
  | .quiet key after z got => (7, got.isSome, [key, after, z.toNat, (got.getD 0).toNat])
  | .fstat key y => (8, false, [key, y])
def kindFrom (n : Nat) (flag : Bool) (ws : List Nat) : WaitKind :=
  let g := fun (i : Nat) => ws.getD i 0
  let v := fun (i : Nat) => BitVec.ofNat 64 (ws.getD i 0)
  match n with
  | 1 => .sleepto (v 0)
  | 2 => .mwait ((codeOf CC.all CC.code (g 0)).toOption.getD .eq) (g 1) (v 2) (v 3)
  | 3 => .barw (g 0) (v 1)
  | 4 => .drain ((codeOf Scope.all Scope.code (g 0)).toOption.getD .core) (g 1)
  | 5 => .join (v 0) (v 1)
  | 6 => .frecv (g 0) (g 1) (v 2) (if flag then some (g 3, g 4) else none)
  | 7 => .quiet (g 0) (g 1) (v 2) (if flag then some (v 3) else none)
  | _ => .fstat (g 0) (g 1)

/-- One wait of the wait condition: seven words. -/
def waitWords (bc : Nat) (w : Wait) : List Nat :=
  let x := kindWords w.kind
  [packN [(4, x.1), (1, x.2.1.toNat), (3, w.slot), (6, dstWord w.dst), (1, w.done.isSome.toNat), (16, ageWord bc w.seq)],
   (w.done.getD 0).toNat] ++ x.2.2 ++ List.replicate (5 - x.2.2.length) 0
def waitFrom (bc : Nat) (ws : List Nat) : Option Wait :=
  let h := ws.getD 0 0
  if bits h 0 4 = 0 then none
  else some ⟨kindFrom (bits h 0 4) (h.testBit 4) (ws.drop 2), bits h 5 3, bc - bits h 15 16, dstFrom (bits h 8 6),
    if h.testBit 14 then some (BitVec.ofNat 64 (ws.getD 1 0)) else none⟩

/-- Words 0 to 31 of the area: the header. -/
def headerWords (c : Ctx) (m : Mx) (cause : Cause) : List Nat :=
  let tile := fun (t : Nat) => m.now.tiles.getD t {}
  [c.pc.toNat, npcBits c.npc1, npcBits c.npc2, c.lc.toNat,
   packN [(32, c.mpc.toNat), (16, c.stages.toNat), (16, c.flags.toNat)], packN [(16, c.mempol.toNat), (48, c.poltabh.toNat)],
   c.poltabl.toNat, c.traprec.toNat,
   packN [(16, c.preds.toNat), (16, c.pvoid.toNat), (24, m.claimed.toNat), (4, maskN 4 fun t => (tile t).f64),
     (4, maskN 4 fun t => (tile t).used)],
   packN [(16, maskN 16 fun i => (c.vb.getD i {}).void), (16, maskN 16 fun i => (smGetD c.vk i {}).void), (8, causeCode cause)]] ++
  (c.waits.take 3).flatMap (waitWords c.bc)

/-- Words 32 to 127: the scalar belt, the scalar keeps and their void bits. -/
def scalarWords (c : Ctx) : List Nat :=
  let k := fun (i : Nat) => smGetD c.sk i {}
  (List.range 16).map (fun i => (c.sb.getD i {}).v.toNat) ++ (List.range 32).map (fun i => (k i).v.toNat) ++
  [packN [(16, maskN 16 fun i => (c.sb.getD i {}).void), (32, maskN 32 fun i => (k i).void)]]

/-- Vector belt and vector keeps (R176); a void entry holds 0. -/
def areaVectors (c : Ctx) : SMap Byte :=
  (List.range 16).flatMap (fun i => let x := c.vb.getD i {}; cellsOf (0x400 + 256 * i) 256 (if x.void then 0 else x.v.toNat)) ++
  (List.range 16).flatMap fun i => let x := smGetD c.vk i {}; cellsOf (0x1400 + 256 * i) 256 (if x.void then 0 else x.v.toNat)

/-- A result as its number, its register and its value. -/
def resWords : Res → Nat × Nat × Nat
  | .sbelt v => (0, 0, v.toNat)
  | .k i v => (1, i.val, v.toNat)
  | .pred i v => (2, i.val, v.toNat)
  | .drop vec => (3, vec.toNat, 0)
  | .vbelt v => (4, 0, v.toNat)
  | .w i v => (5, i.val, v.toNat)
def resFrom (n i v : Nat) : Res :=
  match n with
  | 0 => .sbelt (BitVec.ofNat 64 v)
  | 1 => .k (Fin.ofNat 32 i) (BitVec.ofNat 64 v)
  | 2 => .pred (Fin.ofNat 16 i) (v == 1)
  | 3 => .drop (i == 1)
  | 4 => .vbelt (BitVec.ofNat 2048 v)
  | _ => .w (Fin.ofNat 16 i) (BitVec.ofNat 2048 v)

/-- Whether a result is bound for the vector belt or a vector keep, or dropped from there: a vector entry of the bank (R172, R173). -/
def isVecRes : Res → Bool
  | .vbelt _ => true
  | .w _ _ => true
  | .drop vec => vec
  | _ => false

/-- The mark of a latch entry (R171): its kind, destination, slot, issue order, flags and offset; and its value. -/
def latchMark (bc : Nat) (l : Landing) : Nat :=
  packN [(1, 1), (1, 0), (3, (resWords l.res).1), (5, (resWords l.res).2.1), (3, l.slot), (16, l.due), (10, l.flags.toNat),
    (16, ageWord bc l.seq)]
def latchValue (l : Landing) : Nat := (resWords l.res).2.2
def latchFrom (bc w v : Nat) : Landing :=
  ⟨bits w 13 16, bits w 10 3, bc - bits w 39 16, resFrom (bits w 2 3) (bits w 5 5) v, BitVec.ofNat 10 (bits w 29 10)⟩

/-- A result that lands with a later bundle (R84), as a scalar entry. -/
def retMark (bc : Nat) (r : RetPend) : Nat :=
  packN [(1, 1), (1, 1), (6, dstWord r.dst), (3, r.slot), (3, r.left), (1, r.addr.toNat), (16, ageWord bc r.seq)]
def retFrom (bc w v : Nat) : RetPend :=
  ⟨bits w 11 3, bits w 8 3, bc - bits w 15 16, dstFrom (bits w 2 6), w.testBit 14, BitVec.ofNat 64 v⟩

/-- The latch entries, 5 KiB: 56 scalar entries of two words, then 16 vector entries of a word and a vector. -/
def areaLatch (c : Ctx) : SMap Byte :=
  let sc := (c.latch.filter fun l => !isVecRes l.res).map (fun l => [latchMark c.bc l, latchValue l]) ++
    c.rets.map fun r => [retMark c.bc r, r.val.toNat]
  cellsWords 0x2400 (sc.take 56).flatten ++
  ((c.latch.filter fun l => isVecRes l.res).take 16).zipIdx.flatMap fun x =>
    cellsWords (0x2780 + 264 * x.2) [latchMark c.bc x.1] ++ cellsOf (0x2788 + 264 * x.2) 256 (latchValue x.1)

/-! ### The unit schedules -/

/-- A product as a word (R172): what it computes, its operands, how many rows have landed and its start cycle. -/
def prodWord (bc : Nat) (p : Prod) : Nat :=
  let x : Nat × EF × Nat × Nat × Nat := match p.kind with
    | .mma ef acc row0 nrow => (1, ef, acc.val, row0, nrow)
    | .mmab ef pp kb => (2, ef, pp.val, kb, 0)
    | .mmas ef (.tile acc row0 nrow) _ => (3, ef, acc.val, row0, nrow)
    | .mmas ef (.plane pp kb) _ => (4, ef, pp.val, kb, 0)
  packN [(3, x.1), (3, x.2.1.code), (2, x.2.2.1), (6, x.2.2.2.1), (6, x.2.2.2.2), (5, p.oa.val), (5, p.ob.val), (7, p.next),
    (16, offWord bc p.start)]
def efFrom (n : Nat) : EF := (codeOf EF.all EF.code n).toOption.getD .i8

/-- The product of a word; `p` holds the operands that its computed rows have read (log 21). -/
def prodFrom (bc w : Nat) (p : Prod) : Prod :=
  let record : BitVec 8192 := match p.kind with | .mmas _ _ r => r | _ => 0
  let ef := efFrom (bits w 3 3)
  let acc := Fin.ofNat 4 (bits w 6 2)
  let pp := Fin.ofNat 2 (bits w 6 2)
  let kind : ProdKind := match bits w 0 3 with
    | 1 => .mma ef acc (bits w 8 6) (bits w 14 6)
    | 2 => .mmab ef pp (bits w 8 6)
    | 3 => .mmas ef (.tile acc (bits w 8 6) (bits w 14 6)) record
    | _ => .mmas ef (.plane pp (bits w 8 6)) record
  { p with kind := kind, oa := Fin.ofNat 24 (bits w 20 5), ob := Fin.ofNat 24 (bits w 25 5), next := bits w 30 7,
           start := offFrom bc (bits w 37 16) }

/-- A fold instruction as a word, and again. -/
def foldWord (bc : Nat) (f : Fold) : Nat :=
  let x : Nat × EF × Nat × Nat × Nat × Nat × Nat := match f.kind with
    | .scacc ef acc pp oa ob kb => (1, ef, acc.val, pp.val, oa.val, ob.val, kb)
    | .acnorm acc => (2, .i8, acc.val, 0, 0, 0, 0)
  packN [(3, x.1), (3, x.2.1.code), (2, x.2.2.1), (1, x.2.2.2.1), (5, x.2.2.2.2.1), (5, x.2.2.2.2.2.1), (6, x.2.2.2.2.2.2), (7, f.next),
    (16, offWord bc f.start)]
def foldFrom (bc w : Nat) (f : Fold) : Fold :=
  let acc := Fin.ofNat 4 (bits w 6 2)
  { f with
    kind := if bits w 0 3 = 1 then .scacc (efFrom (bits w 3 3)) acc (Fin.ofNat 2 (bits w 8 1)) (Fin.ofNat 24 (bits w 9 5))
        (Fin.ofNat 24 (bits w 14 5)) (bits w 19 6)
      else .acnorm acc
    next := bits w 25 7, start := offFrom bc (bits w 32 16) }

/-- A scan as a word (R186): the tile, n, the offsets of its issue and start, from which that of the landing follows, and the beats
done. -/
def beatsDone (bc : Nat) (x : Scan) : Nat := min (bc - x.start) 8
def scanWord (bc : Nat) (x : Scan) : Nat :=
  packN [(1, 1), (1, x.comp.toNat), (2, x.acc.val), (7, x.n), (16, offWord bc x.issue), (16, offWord bc x.start), (4, beatsDone bc x),
    (1, x.landed.toNat)]

/-- A scan restored: the beats done are computed again from the tile, the carry and the exponents as they stand in the area (R186). -/
def scanFrom (d : MxData) (bc w : Nat) : Scan :=
  let acc := Fin.ofNat 4 (bits w 2 2)
  let t := d.tiles.getD acc.val {}
  { comp := w.testBit 1, acc := acc, n := bits w 4 7, issue := offFrom bc (bits w 11 16), start := offFrom bc (bits w 27 16),
    input := if 0 < bits w 43 4 then some ((List.range (bits w 4 7)).map (tileRow t), t.cy, t.ex) else none
    landed := w.testBit 47 }

/-- The tags of the shadow tile's rows: rows read and not landed, with their offsets (R171). -/
def rowTags (bc : Nat) (m : Mx) : List Nat :=
  m.prods.flatMap fun p => (p.aRows.filter fun r => decide (p.next ≤ r.1)).map fun r =>
    packN [(1, 1), (7, r.1), (16, offWord bc (prodLands p.kind p.start r.1))]

/-- The last 2 KiB of the latch part: 64 products, 64 fold instructions, 64 scans and 64 row tags. -/
def areaUnits (c : Ctx) (m : Mx) : SMap Byte :=
  cellsWords 0x3800 ((m.prods.map (prodWord c.bc)).take 64) ++ cellsWords 0x3A00 ((m.folds.map (foldWord c.bc)).take 64) ++
  cellsWords 0x3C00 ((m.scans.map (scanWord c.bc)).take 64) ++ cellsWords 0x3E00 ((rowTags c.bc m).take 64)

/-! ### The matrix state -/

/-- Carries, exponents and rows of the used tiles. -/
def areaTiles (m : Mx) : SMap Byte :=
  let tile := fun (t : Nat) => m.now.tiles.getD t {}
  (usedTiles m).flatMap (fun t => cellsOf (0x10000 + 768 * t) 768 (entsNat (tile t).cy)) ++
  (usedTiles m).flatMap (fun t => cellsOf (0x10C00 + 256 * t) 256 (entsNat (tile t).ex)) ++
  (usedTiles m).flatMap fun t => (List.range 64).flatMap fun i =>
    cellsOf (0x11000 + 49152 * t + 768 * i) 768 (entsNat (tileRow (tile t) i))

/-- The partial planes, and the claimed slots: data, then side area. -/
def areaPlanes (m : Mx) : SMap Byte := m.now.planes.flatMap fun r => cellsOf (0x41000 + 256 * r.1) 256 (entsNat r.2)
def areaSlots (m : Mx) : SMap Byte :=
  (claimedSlots m).flatMap fun o =>
    (m.now.data.filter fun r => r.1 / 64 == o).flatMap (fun r => cellsOf (0x49000 + 9216 * o + 128 * (r.1 % 64)) 128 r.2.toNat) ++
    (m.now.side.filter fun r => r.1 / 64 == o).flatMap fun r =>
      cellsOf (0x49000 + 9216 * o + 8192 + 16 * (r.1 % 64)) 16 r.2.toNat

/-- The bytes of the shadow tile: a unit's computed rows have no stated format (log 21). -/
def areaShadow (n : Nat) (m : Mx) : SMap Byte :=
  if m.prods.isEmpty && m.folds.isEmpty then []
  else ((List.range 49152).map fun i => (0x4000 + i, Config.areaByte n (0x4000 + i))).filter fun c => c.2 != 0

/-- The bytes that a save writes, by offset: the ones that are not 0. `n` numbers the save. -/
def areaImage (n : Nat) (cause : Cause) (c : Ctx) (m : Mx) (spad : SMap Byte) (latch : Bool) : SMap Byte :=
  cellsWords 0 (headerWords c m cause) ++ cellsWords 0x100 (scalarWords c) ++ areaVectors c ++
  (if latch then areaLatch c ++ areaUnits c m ++ areaShadow n m else []) ++ areaTiles m ++ areaPlanes m ++
  areaSlots m ++ cellsUp 0x7F000 spad

/-! ### What a restore reads -/

/-- Keep registers that are not void, as a map. -/
def keepsFrom {α : Type} (n : Nat) (void : Nat → Bool) (v : Nat → α) : SMap α :=
  ((List.range n).filter fun i => !void i).map fun i => (i, v i)

/-- The registers as they stand in an area. -/
def regsFrom (a : SMap Byte) (c : Ctx) : Ctx :=
  let h := wordsFrom a 0 32
  let g := fun (i lo n : Nat) => bits (h.getD i 0) lo n
  let w := wordsFrom a 0x100 49
  let sv := fun (i : Nat) => (⟨BitVec.ofNat 64 (w.getD i 0), false⟩ : SVal)
  let vv := fun (i : Nat) => (⟨BitVec.ofNat 2048 (cellsNat a (0x400 + 256 * i) 256), false⟩ : VVal)
  { c with
    pc := BitVec.ofNat 32 (g 0 0 32), npc1 := npcOf (g 1 0 34), npc2 := npcOf (g 2 0 34), lc := BitVec.ofNat 64 (g 3 0 64)
    mpc := BitVec.ofNat 32 (g 4 0 32), stages := BitVec.ofNat 4 (g 4 32 4), flags := BitVec.ofNat 10 (g 4 48 10)
    mempol := BitVec.ofNat 16 (g 5 0 16), poltabh := BitVec.ofNat 48 (g 5 16 48), poltabl := BitVec.ofNat 64 (g 6 0 64)
    traprec := BitVec.ofNat 55 (g 7 0 55), preds := BitVec.ofNat 16 (g 8 0 16), pvoid := BitVec.ofNat 16 (g 8 16 16)
    waits := (List.range 3).filterMap fun i => waitFrom c.bc ((h.drop (10 + 7 * i)).take 7)
    sb := (List.range 16).map fun i => if maskBit (w.getD 48 0) 0 i then {} else sv i
    sk := keepsFrom 32 (maskBit (w.getD 48 0) 16) fun i => sv (16 + i)
    vb := (List.range 16).map fun i => if maskBit (h.getD 9 0) 0 i then {} else vv i
    vk := keepsFrom 16 (maskBit (h.getD 9 0) 16) fun i => vv (16 + i) }

/-- The latch bank as it stands in an area. -/
def latchOf (a : SMap Byte) (c : Ctx) : Ctx :=
  let sc := (List.range 56).map fun i => (cellsNat a (0x2400 + 16 * i) 8, cellsNat a (0x2408 + 16 * i) 8)
  let ve := (List.range 16).map fun i => (cellsNat a (0x2780 + 264 * i) 8, cellsNat a (0x2788 + 264 * i) 256)
  let some_ := fun (x : Nat × Nat) => x.1.testBit 0
  { c with
    latch := (((sc.filter fun x => some_ x && !x.1.testBit 1) ++ ve.filter some_).map fun x => latchFrom c.bc x.1 x.2)
    rets := (sc.filter fun x => some_ x && x.1.testBit 1).map fun x => retFrom c.bc x.1 x.2 }

/-- A tile as it stands in an area, of the mode that the header gives it; an F64 entry holds its low 64 bits (R112). A mantissa of −2^47,
which R111 says no tile holds, stays as it stands there (DESIGN CHOICE, log 58). -/
def tileFrom (a : SMap Byte) (t : Nat) (f64 : Bool) : Tile :=
  let ent := fun (x : BitVec 96) => if f64 then BitVec.ofNat 96 (x.toNat % 2 ^ 64) else x
  let rows := (List.range 64).map fun i => (i, (natEnts 96 64 (cellsNat a (0x11000 + 49152 * t + 768 * i) 768)).map ent)
  { f64 := f64, used := true
    cy := natEnts 96 64 (cellsNat a (0x10000 + 768 * t) 768)
    ex := natEnts 32 64 (cellsNat a (0x10C00 + 256 * t) 256)
    rows := rows.filter fun r => r.2 != rowReset f64 }

/-- The matrix state as it stands in an area: claimed slots, tiles in use and their modes are in the header. -/
def mxFrom (a : SMap Byte) (m0 : Mx) : Mx :=
  let h := cellsNat a 0x40 8
  let m := { m0 with claimed := BitVec.ofNat 24 (bits h 32 24) }
  let slot := fun (o lo n : Nat) => cellsDown (0x49000 + 9216 * o + lo) n a
  { m with now := {
      data := (claimedSlots m).flatMap fun o => (cellsRows (slot o 0 8192) 128).map fun r => (64 * o + r.1, BitVec.ofNat 1024 r.2)
      side := (claimedSlots m).flatMap fun o => (cellsRows (slot o 8192 1024) 16).map fun r => (64 * o + r.1, BitVec.ofNat 128 r.2)
      tiles := (List.range 4).map fun t => if maskBit h 60 t then tileFrom a t (maskBit h 56 t) else {}
      planes := (cellsRows (cellsDown 0x41000 0x8000 a) 256).map fun r => (r.1, natEnts 32 64 r.2) } }

/-- The unit schedules as they stand in an area. -/
def unitsFrom (a : SMap Byte) (bc : Nat) (m : Mx) : Mx :=
  { m with
    prods := m.prods.zipIdx.map fun p => prodFrom bc (cellsNat a (0x3800 + 8 * p.2) 8) p.1
    folds := m.folds.zipIdx.map fun f => foldFrom bc (cellsNat a (0x3A00 + 8 * f.2) 8) f.1
    scans := ((wordsFrom a 0x3C00 64).filter fun w => w.testBit 0).map (scanFrom m.now bc) }

/-! ### The walks and the accesses -/

/-- The part of a range that lies in page `i` of an area. -/
def inPage (i : Nat) (r : Nat × Nat) : Nat × Nat := (max r.1 (65536 * i), min (r.1 + r.2) (65536 * i + 65536) - max r.1 (65536 * i))

/-- The offset of the first line of a range of an area that holds bad data. -/
def badLine (bad : Nat → Nat → Bool) (lo n : Nat) : Nat :=
  let lines := (List.range ((n + 255) / 256 + 1)).map fun j => lo / 256 * 256 + 256 * j
  (lines.find? fun a => bad (max a lo) (min (a + 256) (lo + n) - max a lo)).getD lo

/-- Walks the 12 pages of an area for writing (bit 2) or reading (bit 1): where each stands, or the reason and the address of the
first that fails (R176, R228). -/
def areaWalk (core bit area : Nat) (ranges : List (Nat × Nat)) : List Nat → State → State × Except (Nat × Nat) (List Xlat)
  | [], s => (s, .ok [])
  | i :: is, s =>
    match pinnedAt s core bit (area + 65536 * i) 0 with
    | (s1, .error r) => (s1, .error (r, area + 65536 * i))
    | (s1, .ok x) =>
      let bad := ((ranges.map (inPage i)).filter fun r => r.2 != 0).find? fun r => poisoned s1 (x.pa + r.1 - 65536 * i) r.2
      match if bit = 1 then bad else none with
      | some r => (s1, .error (13, area + badLine (fun lo n => poisoned s1 (x.pa + lo - 65536 * i) n) r.1 r.2))
      | none =>
        match areaWalk core bit area ranges is s1 with
        | (s2, .error e) => (s2, .error e)
        | (s2, .ok xs) => (s2, .ok (x :: xs))

/-- The packets of the ranges of an area, class 1 (R268). -/
def areaPost (core area : Nat) (ranges : List (Nat × Nat)) (xs : List Xlat) (s : State) : State :=
  xs.zipIdx.foldl (fun s x =>
    ((ranges.map (inPage x.2)).filter fun r => r.2 != 0).foldl (fun s r =>
      postOwnN s core (corePart s core) (area + r.1) (x.1.pa + r.1 - 65536 * x.2) r.2) s) s

/-- Whether packets of an area still wait for their slots; those of the trap-record slot, which no save and no restore moves, apart. -/
def areaWaits (s : State) (core area : Nat) : Bool := ownWaits s core fun l => decide (area / 256 ≤ l) && decide (l < area / 256 + 0xBF0)

/-- Writes the ranges of an image to the pages of an area. -/
def areaWrite (ranges : List (Nat × Nat)) (image : SMap Byte) (xs : List Xlat) (s : State) : State :=
  xs.zipIdx.foldl (fun s x =>
    ((ranges.map (inPage x.2)).filter fun r => r.2 != 0).foldl (fun s r =>
      physRange s x.1.key (x.1.pa + r.1 - 65536 * x.2) r.2
        (cellsUp (x.1.pa + r.1 - 65536 * x.2) (cellsDown r.1 r.2 image))) s) s

/-- The bytes of the ranges of an area that are not 0, by offset. -/
def areaRead (ranges : List (Nat × Nat)) (xs : List Xlat) (s : State) : SMap Byte :=
  xs.zipIdx.flatMap fun x =>
    ((ranges.map (inPage x.2)).filter fun r => r.2 != 0).flatMap fun r =>
      let pa := x.1.pa + r.1 - 65536 * x.2
      cellsUp r.1 (cellsDown pa r.2 (rangeUnder s x.1.key pa r.2))

/-- Whether a save meets a word that cannot be corrected (R307); the address is known of a word of the scratchpad, which is read
last. -/
def saveBad (k : Core) : Option (Option Nat) :=
  if (usedTiles k.mx).any (fun t => sramBad k .tile (49152 * t) 49152 || sramBad k .tile (196608 + 768 * t) 768 ||
      sramBad k .tile (199680 + 256 * t) 256) ||
    sramBad k .plane 0 0x8000 || (claimedSlots k.mx).any (fun o => sramBad k .slot (9216 * o) 9216) then some none
  else ((k.badWords.filter fun w => w.1 == .spad).map fun w => w.2 * 8).min?.map some

end Sys2Proof.Machine
end

