-- ==== Sys2Proof/Machine/Freeze.lean ====
section
/-! DEFINITION. Freeze, snapshot, save and restore (spec/09 R169 to R177), service handlers, calls and the journal (spec/13
R233 to R240, spec/18 R316). -/

namespace Sys2Proof.Machine

/-! ### Requests to stop -/

/-- A context that a request can stop: issuing, waiting or held. -/
def stoppable (k : Core) : Bool :=
  match k.run with
  | .running => true
  | .held _ => true
  | _ => false

/-- `PREEMPT_REQUEST` (R169, R170): pending until the next bundle. -/
def execPreemptRequest (core : Nat) (s : State) : Out :=
  let k := getCore s core
  .next (if stoppable k then setCore s core { k with pendPre := true } else s)

/-- `DEBUG_HALT_REQUEST` (R169, R170, R240): any core of a partition under debug. -/
def execDebugHaltRequest (core : Nat) (s : State) : Out :=
  let k := getCore s core
  .next (if partDebug s core && stoppable k then setCore s core { k with pendDbg := true } else s)

/-- `DEBUG_RELEASE` (R169, R174, R240). -/
def execDebugRelease (core : Nat) (s : State) : Out :=
  let k := getCore s core
  .next (if partDebug s core && k.run == .held .debug then resumeCore core s else s)

/-! ### The snapshot and the saved context -/

/-- `SNAPSHOT_COMPLETE` (R171): 24 cycles after the stop. -/
def execSnapshotComplete (core : Nat) (s : State) : Out :=
  .next (setCore s core { getCore s core with snapLeft := 0 })

/-- Whether every copy request of a core's context has landed or will never land (R171, R195). -/
def copiesLanded (s : State) (core : Nat) : Bool :=
  let bid := reqBid (getCore s core)
  s.reqs.all fun x => x.2.core != core || x.2.bid != bid || x.2.service || x.2.complete || x.2.told

/-- Whether a core holds a context whose snapshot is complete and whose copies have landed (R171). -/
def saveReady (s : State) (core : Nat) : Bool :=
  let k := getCore s core
  (match k.run with | .held _ => true | _ => false) && k.snapLeft == 0 && copiesLanded s core

/-- The number of a save, for its free bytes. -/
def nextChoice (s : State) : State := { s with sched := { s.sched with choice := s.sched.choice + 1 } }

/-- The context of a core leaves it for its area, whose pages stand at `xs`. `State.saved` holds what the area does not: the block, its
code origin and dictionary, faults that the stop left pending, and the model's own numbers (log 21). -/
def saveTo (core : Nat) (cause : Cause) (b : Block) (xs : List Xlat) (s : State) : State :=
  let k := getCore s core
  let latch := !nothingInFlight k
  let image := areaImage s.sched.choice cause k.ctx k.mx k.spad latch
  let sv : Saved := { codeBase := k.codeBase, ctx := k.ctx, mx := k.mx, spad := k.spad, dict := k.dict, blk := b, core := core,
                      cause := cause, faults := k.faults, dlHold := k.dlHold }
  let k1 := { k with run := .idle, ctx := {}, mx := {}, spad := [], dict := [], code := [], metas := [],
                     blk := none, faults := [], saveDue := false, saveAsked := false, badWords := [] }
  let s1 := areaWrite (areaRanges k.mx latch) image xs (nextChoice s)
  { setCore s1 core k1 with saved := s1.saved ++ [sv] }

/-- Changes the block on a core. -/
def onBlk (core : Nat) (f : Block → Block) (s : State) : State :=
  let k := getCore s core
  setCore s core { k with blk := k.blk.map f }

/-- A kill is taken on a core (R291): its block ends, by `cancel` if one has doomed it (R290). -/
def takeKill (core : Nat) (s : State) : State := endBlock core (onBlk core (fun b => { b with killed := b.doomed }) s)

/-- `CONTEXT_SAVE` (R169, R171, R176): the context leaves the core, which is free of it; for a held context whose snapshot or
copies are not complete, or whose service handlers still run, the save is ordered (log 23). The bytes move once the packets of the
area are sent (R265): the row makes them ready first, and comes again. A context that a kill awaits is not saved: the kill discards it,
in a stopped region at once (R291). A page that fails, or a word that cannot be corrected, is a double fault (R228, R307). -/
def execContextSave (core : Nat) (s : State) : Out :=
  let k := getCore s core
  match k.run, k.blk with
  | .held cause, some b =>
    if k.killAt.isSome then
      .next (if (coreRegion s core).st = .stopped then takeKill core s else setCore s core { k with saveDue := true })
    else if saveReady s core then
      let ranges := areaRanges k.mx (!nothingInFlight k)
      match areaWalk core 2 b.area ranges (List.range 12) s with
      | (s1, .error e) => .next (doubleFault core cause 0x0E e.1 (some e.2) s1)
      | (s1, .ok xs) =>
        .next (match saveBad k with
          | some va => doubleFault core cause 0x0E 13 va s1
          | none =>
            if !k.saveAsked then
              areaPost core b.area ranges xs (setCore s1 core { getCore s1 core with saveDue := true, saveAsked := true })
            else if areaWaits s core b.area then setCore s1 core { getCore s1 core with saveDue := true }
            else saveTo core cause b xs s1)
    else .next (setCore s core { k with saveDue := true })
  | .running, some _ => .next (if k.svc.isSome then setCore s core { k with saveDue := true } else s)
  | _, _ => .next s

/-- A core that holds no block and no context. -/
def coreBare (k : Core) : Bool := k.run == .idle && k.blk.isNone && k.resv.isNone

/-- The saved context that a restore to a core takes: the one it held, else one whose instance has the core (log 38). -/
def savedFor (s : State) (core : Nat) : Option Saved :=
  match s.saved.find? (fun v => v.core == core && !v.blk.exited) with
  | some v => some v
  | none => s.saved.find? fun v => !v.blk.exited && (getInst s v.blk.inst).cores.contains core

/-- A core that takes a saved context, before its area is read. A call in progress goes with the context: a core that was saved while it
waited in `svc` stops with `SVC` again (log 54). Conductor privilege is the core's and stays with it: `first` says whether the core is
that of image core index 0 (R287). -/
def withSaved (v : Saved) (first : Bool) (k : Core) : Core :=
  { k with run := .held v.cause, codeBase := v.codeBase, ctx := v.ctx, mx := v.mx, spad := v.spad, dict := v.dict, code := [],
           metas := [], blk := some { v.blk with conductor := first }, faults := v.faults, badWords := [], dlHold := v.dlHold }

/-- What the area of a saved context holds takes the place of what was saved; `latch` says whether the save wrote the latch parts. -/
def withArea (latch : Bool) (a : SMap Byte) (k : Core) : Core :=
  let c := regsFrom a k.ctx
  let m := mxFrom a k.mx
  { k with
    run := .held (causeOf (bits (cellsNat a 0x48 8) 32 8)), ctx := if latch then latchOf a c else c,
    mx := if latch then unitsFrom a c.bc m else m, spad := cellsIn 0 spadTop (cellsDown 0x7F000 spadTop a) }

/-- `CONTEXT_RESTORE` (R174, R176): the context stands in the core again and resumes; its first bundle waits for the packets of the area
(R265). -/
def execContextRestore (core : Nat) (s : State) : Out :=
  let k := getCore s core
  if coreBare k then
    match savedFor s core with
    | none => .next s
    | some v =>
      let k1 := withSaved v ((getInst s v.blk.inst).cores.head? == some core) k
      let s1 := { setCore s core k1 with saved := s.saved.erase v }
      let latch := !nothingInFlight k1
      let ranges := areaRanges v.mx latch
      match areaWalk core 1 v.blk.area ranges (List.range 12) s1 with
      | (s2, .error e) => .next (doubleFault core v.cause 0x0E e.1 (some e.2) s2)
      | (s2, .ok xs) =>
        let s3 := areaPost core v.blk.area ranges xs s2
        .next (resumeCore core (setCore s3 core (withArea latch (areaRead ranges xs s2) (getCore s3 core))))
  else .next s

/-- `KILL_TAKEN` (R291): before the first bundle from the cycle of the kill on, the context is discarded. -/
def execKillTaken (core : Nat) (s : State) : Out :=
  match (getCore s core).killAt with
  | some t => .next (if t ≤ (coreRegion s core).clk then takeKill core s else s)
  | none => .next s

/-! ### Service handlers -/

/-- `SVENTn` of a core's cluster (R234). -/
def svent (s : State) (core n : Nat) : Nat := (smGetD s.svents (16 * (core / 16) + n) 0).toNat
def sventEntry (s : State) (core n : Nat) : Nat := bits (svent s core n) 0 16
def sventLen (s : State) (core n : Nat) : Nat := bits (svent s core n) 16 12

/-- The service budget of what runs on a core (R14, R236). -/
def svBudget (k : Core) : Nat := (k.blk.map (·.budget)).getD 0

/-- The lowest pending handler that fits the budget left (R236). -/
def nextHandler (s : State) (core : Nat) : Option Nat :=
  let k := getCore s core
  (List.range 16).find? fun n =>
    k.svreq.getLsbD n && sventLen s core n != 0 && decide (sventLen s core n + k.svused.toNat ≤ svBudget k)

/-- The context of a handler as it begins (R235). `MEMPOL`, `POLTABL`, `POLTABH`, `TRAPREC` and `MPC` are not of the service bank
and the held context's are hidden: a handler finds them as at the start of a block, 0x000C in every policy entry and zeros, and what
it writes to them ends with it (log 54). -/
def handlerCtx (entry : Nat) : Ctx := { kern := true, pc := BitVec.ofNat 32 entry }

/-- Runs a handler in the service bank for a context held with a cause (R235, R236). -/
def startHandler (core n : Nat) (cause : Cause) (host : Ctx) (s : State) : State :=
  let k := getCore s core
  let len := sventLen s core n
  setCore s core { k with
    run := .running, ctx := handlerCtx (sventEntry s core n),
    svc := some { host := host, cause := cause, handler := n, left := len },
    svreq := k.svreq &&& ~~~BitVec.ofNat 16 (2 ^ n), svused := k.svused + BitVec.ofNat 24 len }

/-- After its handlers the held context resumes, in this cycle (R236, R237), or stays held for a save ordered while they ran
(R169, log 23). -/
def endHandlers (core : Nat) (cause : Cause) (host : Ctx) (s : State) : State :=
  let k := getCore s core
  let held := setCore s core { k with run := .held cause, ctx := host, svc := none }
  if k.saveDue then held
  else
    let s1 := resumeCore core held
    setCore s1 core { getCore s1 core with yielded := true }

/-- Whether every request of a core's handler has performed at package scope (R235). One whose fault has been told is over: the
fault is a double fault of the handler that issued it. -/
def handlerPerformed (s : State) (core : Nat) : Bool :=
  s.reqs.all fun x => x.2.core != core || !x.2.service || x.2.told || reqAt s x.1 x.2 3

/-- `HANDLER_END` (R235, R236): once its charge has passed, the next handler runs or the held context resumes; a handler that
has not issued `exit` by then is a double fault. -/
def execHandlerEnd (core : Nat) (s : State) : Out :=
  match (getCore s core).svc with
  | none => .next s
  | some h =>
    if h.left ≠ 0 then .next s
    else if !h.exited then .next (doubleFault core .none 0x01 0 none s)
    else if !handlerPerformed s core then .next s
    else
      match nextHandler s core with
      | some n => .next (startHandler core n h.cause h.host s)
      | none => .next (endHandlers core h.cause h.host s)

/-- `DEADLINE_EXPIRY` (R82, R169, R224, R236): with a handler to run, the stop writes its record and the handler begins;
with none, the context resumes in the same cycle and no record is written. -/
def execDeadlineExpiry (core : Nat) (s : State) : Out :=
  let k := getCore s core
  if k.run == .running && k.svc.isNone && k.dlen && k.deadline == 0 then
    match nextHandler s core with
    | some n =>
      let s1 := takeStop core { cause := .deadline } s
      .next (if (getCore s1 core).run == .held .deadline then startHandler core n .deadline (getCore s1 core).ctx s1 else s1)
    | none =>
      let s1 := takeQuietStop core .deadline s
      .next (endHandlers core .deadline (getCore s1 core).ctx s1)
  else .next s

/-- The stop of a yield bundle at which a pending handler fits (R169, R236): no record (R224). -/
def yieldStop (core n : Nat) (s : State) : State :=
  let s1 := takeQuietStop core .yieldsvc s
  startHandler core n .yieldsvc (getCore s1 core).ctx s1

/-- Handlers of a cluster whose entries are used (R234), as a mask. -/
def sventUsed (s : State) (core : Nat) : BitVec 16 :=
  BitVec.ofNat 16 (((List.range 16).filter fun n => sventLen s core n != 0).foldl (fun m n => m + 2 ^ n) 0)

/-- `SVREQ_WRITE` (R234): a bit of an unused entry is cleared. -/
def execSvreqWrite (core : Nat) (v : BitVec 16) (s : State) : Out :=
  .next (setCore s core { getCore s core with svreq := v &&& sventUsed s core })

/-! ### Calls -/

/-- A call's outcome that is a status (R238). -/
def callStatus (code : Nat) : Word := BitVec.ofNat 64 (2 ^ 63 + code)

/-- A call's outcome that is a result (R238). -/
def callResult (v : Nat) : Word := BitVec.ofNat 64 (v % 2 ^ 63)

/-- Calls that change nothing (R238), and calls that are assigned. -/
def callIdempotent (n : Nat) : Bool := n == 0 || n == 5 || n == 15
def callKnown (n : Nat) : Bool := decide (n ≤ 5) || n == 15

/-- What a call does, and its result (R238, R316, R328). -/
def callDo (s : State) (part inst : Nat) (c : SvcCall) : State × Nat :=
  match c.n.toNat with
  | 1 => callMap s part inst c.y.toNat c.z.toNat
  | 2 => callUnmap s part c.y.toNat c.z.toNat
  | 3 => callAlloc s part inst c.y.toNat c.z.toNat
  | 4 => callFree s inst c.y.toNat c.z.toNat
  | 5 => (s, wrap 63 (getPart s part).acct)
  | _ => (s, c.y.toNat)

/-- An entry for the journal (R239). -/
def journalOf (c : SvcCall) (w : Word) : JEntry := ⟨c.tag, c.n, c.y, c.z, w⟩

/-- Whether the journal has room (R239). -/
def journalFull (journal : List JEntry) : Bool := decide (64 ≤ journal.length)

/-- Adds an entry to the journal of a core's block; a full one keeps its entries. -/
def addJournal (core : Nat) (j : JEntry) (s : State) : State :=
  onBlk core (fun b => if journalFull b.journal then b else { b with journal := b.journal ++ [j] }) s

/-- The kernel's answer to a call (R238, R239): a journalled tag answers `NOTTAKEN` to every call when it was answered so before; a
tag of a restarted call that is not journalled is answered `NOTTAKEN` and journalled. The result of dropping an entry is not stated:
`open_` (log 39). -/
def callAnswer (core : Nat) (c : SvcCall) (open_ : Word) (s : State) : State × Word :=
  let b := (getCore s core).blk
  let journal := (b.map (·.journal)).getD []
  let part := corePart s core
  let inst := (b.map (·.inst)).getD 0
  let n := c.n.toNat
  if !callKnown n then (s, callStatus 2)
  else if n = 15 then
    (onBlk core (fun b => { b with journal := b.journal.filter fun j => j.tag != c.y }) s, callResult open_.toNat)
  else if callIdempotent n then (s, callResult (callDo s part inst c).2)
  else if c.tag = 0 then (s, callStatus 6)
  else
    match journal.find? (fun j => j.tag == c.tag) with
    | some j => (s, if j.outcome = callStatus 1 then callStatus 1
        else if j.n = c.n ∧ j.y = c.y ∧ j.z = c.z then j.outcome else callStatus 4)
    | none =>
      if ((b.map (·.restarted)).getD []).contains c.tag then (addJournal core (journalOf c (callStatus 1)) s, callStatus 1)
      else if journalFull journal then (s, callStatus 5)
      else
        let r := callDo s part inst c
        let w := callResult r.2
        (addJournal core (journalOf c w) r.1, w)

/-- Whether a call may complete: an unmap waits until no request uses a leaf it removes (R223, R316). -/
def callReady (core : Nat) (c : SvcCall) (s : State) : Bool :=
  c.n.toNat != 2 || (tlbiUsers s { core := core, part := corePart s core, scope := 3, lo := c.y.toNat,
                                   hi := c.y.toNat + c.z.toNat * 65536 }).isEmpty

/-- Resumes a core from its call; the outcome lands with the next bundle (R92). -/
def callResume (core : Nat) (c : SvcCall) (w : Word) (s : State) : State :=
  let k := getCore s core
  let land : RetPend := { left := 0, slot := 0, seq := c.seq, dst := c.dst, addr := false, val := w }
  resumeCore core (setCore s core { k with ctx := { k.ctx with svc := none, rets := k.ctx.rets ++ [land] } })

/-- The call that a core waits in. -/
def callOf (k : Core) : Option SvcCall := if k.run == .held .svc then k.ctx.svc else none

/-- `SVC_RESUME` (R92, R238, R239, R316): the service completes. `outcome` is what the spec leaves to the service. -/
def execSvcResume (core : Nat) (outcome : Word) (s : State) : Out :=
  match callOf (getCore s core) with
  | none => .next s
  | some c =>
    if callReady core c s then
      let r := callAnswer core c outcome s
      .next (callResume core c r.2 r.1)
    else .next s

/-- What a restart does to one core's call: bit `core` of `took` says that its effect and journal entry had been made. -/
def restartCall (took core : Nat) (s : State) : State :=
  match callOf (getCore s core) with
  | none => s
  | some c =>
    let s1 := if took.testBit core && callReady core c s then (callAnswer core c 0 s).1 else s
    let s2 := if callIdempotent c.n.toNat then s1 else onBlk core (fun b => { b with restarted := c.tag :: b.restarted }) s1
    callResume core c (callStatus 3) s2

/-- `SERVICE_RESTART` (R239): every call in flight resumes with `RESTARTED`. -/
def execServiceRestart (took : Nat) (s : State) : Out := .next ((s.cores.map (·.1)).foldl (fun s c => restartCall took c s) s)

end Sys2Proof.Machine
end

