-- ==== Sys2Proof/Machine/Sched.lean ====
section
/-! DEFINITION. Release and completion (spec/16): blocks, the counter tree, launches, graphs, phases, jobs, stalls and slips,
`lnch`, `join`, `cancel`, the watchdog and re-execution; admission by energy (spec/19 R329). -/

namespace Sys2Proof.Machine

/-! ### Timers and objects -/

/-- A row due some cycles of a region's clock from now. -/
def addTimer (r delay : Nat) (e : Event) (s : State) : State :=
  let x := getRegion s r
  setRegion s r { x with timers := x.timers ++ [(x.clk + delay, e)] }

/-- The key of an object (R280). -/
def objKey (lvl part die num : Nat) : Nat := ((lvl * 16 + part) * 4 + die) * 64 + num
def keyLevel (key : Nat) : Nat := key / 4096

/-- Objects of a level per die, or per partition for jobs (R280). -/
def objCount (lvl : Nat) : Nat := if lvl = 1 then 64 else 16

/-- The lowest-numbered free object of a kind (R280). -/
def freeObj (s : State) (lvl part die : Nat) : Option Nat :=
  ((List.range (objCount lvl)).map (objKey lvl part die)).find? fun k => !(getObj s k).live

/-- Allocates an object with its contents: one more generation (R280). -/
def allocObj (key : Nat) (o : Obj) (s : State) : State :=
  setObj s key { o with live := true, gen := (getObj s key).gen + 1 }

/-- The handle of an object as it stands. -/
def handleOf (s : State) (key : Nat) : Nat := objHandle key (getObj s key).gen

/-- The handle of a block's unit (R280). -/
def unitHandle (b : Block) : Nat := b.home + b.gen % 2 ^ 16 * 2 ^ 16

/-- Live objects of an instance at a level. -/
def liveObjs (s : State) (inst lvl : Nat) : List Nat :=
  (s.objs.filter fun (x : Nat × Obj) => x.2.live && x.2.inst == inst && keyLevel x.1 == lvl).map (·.1)

/-- Energy of a launch in the account's units (R329). -/
def energyNeed (i : Inst) : Nat := ceilDiv i.energy 1024

/-! ### Blocks -/

/-- A core is free (R283): it holds no block that is not counted, and no context. -/
def coreFree (k : Core) : Bool := k.blk.isNone && k.run == .idle

/-- A kernel of an instance. -/
def kernelOf (i : Inst) (n : Nat) : Kernel := i.kernels.getD n {}

/-- The context at the start of a block (R35); the reserved bits of the image's policy entries read 0 (R37). -/
def blockCtx (i : Inst) (b : Block) : Ctx :=
  { pc := b.entry, mempol := BitVec.ofNat 16 (polMask 1 i.mempol.toNat), poltabl := BitVec.ofNat 64 (polMask 4 i.poltabl.toNat),
    poltabh := BitVec.ofNat 48 (polMask 3 i.poltabh.toNat), traprec := BitVec.ofNat 55 (b.area + 0xBF000), kern := b.part == 0 }

/-- What the fetch channel reads before a block issues (R231): 128 lines from the entry point on, and the records that the metadata
buffer holds, from record 0 on, where `MPC` stands. -/
def fillTasks (c : Nat) (k : Core) (i : Inst) : List Task :=
  .fill c false (pcAddr k / 256) 128 :: (if i.metas = 0 then [] else [.fill c true 0 (min 4 i.metas)])

/-- Releases a block on a core (R279, R35, R148, R150, R231, R237). The `OSLOT` of a multicast goes on waiting for the core's next
bundle (R206); a reservation ends with the release of the launch that made it (R288). -/
def startBlock (c : Nat) (b0 : Block) (s : State) : State :=
  let k := getCore s c
  let i := getInst s b0.inst
  let kn := kernelOf i b0.kernel
  let b := { b0 with bid := s.nextBid, gen := k.gen + 1, home := c, area := i.areas.getD (i.cores.idxOf c) 0,
                     conductor := i.cores.head? == some c, relTick := coreTick s c }
  let k1 := { k with
    run := .running, ctx := blockCtx i b, mx := {}, spad := kn.scratch, dict := kn.dict, code := [], codeBase := kn.origin,
    metas := [], blk := some b, gen := k.gen + 1, cancelled := false, resv := if k.resv = b.launch then none else k.resv,
    faults := k.faults.filter (·.rank == 1), pendPre := false,
    pendDbg := false, killAt := none, snapLeft := 0, saveDue := false, svc := none, badWords := [],
    deadline := if k.dlSet then k.deadline else k.dlreload, dlSet := false }
  { setCore s c k1 with nextBid := s.nextBid + 1, sched := { s.sched with tasks := fillTasks c k1 i ++ s.sched.tasks } }

/-- Where a block stands: on a core, or as a discarded saved context that is still to be counted. -/
def blocksAt (s : State) (core : Nat) : List Block :=
  (getCore s core).blk.toList ++ (s.saved.filter fun v => v.core == core && v.blk.exited).map (·.blk)

/-- Every block that has not been counted, saved ones included, with the core. -/
def allBlocks (s : State) : List (Nat × Block) :=
  s.cores.filterMap (fun x => x.2.blk.map fun b => (x.1, b)) ++ s.saved.map fun v => (v.core, v.blk)

/-- Changes a block wherever it stands. -/
def mapBlock (bid : Nat) (f : Block → Block) (s : State) : State :=
  { s with
    cores := s.cores.map fun x => if (x.2.blk.map (·.bid)) = some bid then (x.1, { x.2 with blk := x.2.blk.map f }) else x
    saved := s.saved.map fun v => if v.blk.bid = bid then { v with blk := f v.blk } else v }

/-- A request counts as performed at package scope (R281): from its promise tick, and from the cycle in which it performs
when it carries none or breaks it. -/
def reqCounted (s : State) (tick n : Nat) (r : Req) : Bool :=
  reqAt s n r 3 && match r.promise with
    | some t => decide (t ≤ tick)
    | none => true

/-- Whether every `tlbi` that a block issued below a number has performed (R223, R281). -/
def tlbisDone (s : State) (bid upto : Nat) : Bool := s.tlbis.all fun x => x.2.bid != bid || decide (upto ≤ x.1)

/-- Whether the requests of a block below a number all count at a tick. -/
def reqsCounted (s : State) (tick bid upto : Nat) : Bool :=
  tlbisDone s bid upto &&
  s.reqs.all fun x => x.2.bid != bid || x.2.service || isStep x.2.kind || decide (upto ≤ x.1) || reqCounted s tick x.1 x.2

/-- A trigger is due to be counted (R285); a unit is (R281). -/
def trigReady (s : State) (tick : Nat) (b : Block) : Bool :=
  !b.trigDone && match b.trig with
    | some n => reqsCounted s tick b.bid n
    | none => false
def unitReady (s : State) (tick : Nat) (b : Block) : Bool := b.exited && reqsCounted s tick b.bid s.nextReq

/-! ### The counter tree -/

/-- The counters of an object as its members begin to count (R281). -/
def withCounters (cores : List Nat) (o : Obj) : Obj :=
  let cl := (cores.map (· / 16)).eraseDups
  { o with units := cores, cluN := cl.foldl (fun m c => smPut m c (cores.countP fun (x : Nat) => x / 16 == c)) [],
           dieN := cl.length, pend := [] }

/-- A member's counter returns to zero at its core (R281). -/
def unitZero (key member : Nat) (s : State) : State :=
  let o := getObj s key
  if o.units.contains member then
    addTimer o.region 2 (.completionCounterUpdate key)
      (setObj s key { o with units := o.units.erase member, pend := o.pend ++ [member] })
  else s

/-- Whether everything of an instance but its job is over (R282). -/
def jobReady (s : State) (inst : Nat) : Bool :=
  ((getInst s inst).regions.all fun r => ((getRegion s r).table ++ (getRegion s r).lean).all fun e => e.done != 0) &&
  ((allBlocks s).all fun b => b.2.inst != inst) &&
  [1, 2, 3].all fun lvl => liveObjs s inst lvl == []

/-- Whether the job of an instance has not completed: its object is live in the generation of the bind (R280, R282). -/
def jobLive (s : State) (i : Inst) : Bool := (getObj s i.job).live && (getObj s i.job).gen == i.jobGen

/-- A job whose last part is over completes 2 cycles later (R282). -/
def jobCheck (inst region : Nat) (s : State) : State :=
  let key := (getInst s inst).job
  let o := getObj s key
  if jobLive s (getInst s inst) && !o.ending && jobReady s inst then
    addTimer region 2 (.jobComplete key) (setObj s key { o with ending := true })
  else s

/-- An object completes and is free (R280, R290). -/
def finishObj (key : Nat) (s : State) : State :=
  let o := getObj s key
  setObj s key { o with live := false, cancelled := o.killing, killing := false, ending := false }

/-- A phase whose range has ended and whose graphs are over completes 2 cycles later (R282). -/
def phaseCheck (key : Nat) (s : State) : State :=
  let o := getObj s key
  if o.live && !o.ending && decide (o.hi ≤ (getRegion s o.region).frame) && o.members == [] then
    addTimer o.region 2 (.phaseComplete key) (setObj s key { o with ending := true })
  else s

/-- A graph whose conductor's unit and launches are over completes 2 cycles later (R282). -/
def graphCheck (key : Nat) (s : State) : State :=
  let o := getObj s key
  if o.live && !o.ending && !o.ownerIn && o.members == [] then
    addTimer o.region 2 (.graphComplete key) (setObj s key { o with ending := true })
  else s

/-- `COMPLETION_COUNTER_UPDATE` (R281): a return to zero reaches the counter above. -/
def execCompletionCounterUpdate (obj : Nat) (s : State) : Out :=
  let o := getObj s obj
  match o.pend with
  | [] => .next s
  | x :: rest =>
    if x < 1024 then
      let cl := x / 16
      let n := smGetD o.cluN cl 0 - 1
      let o1 := { o with cluN := smPut o.cluN cl n, pend := rest }
      .next (if n = 0 then addTimer o.region 2 (.completionCounterUpdate obj) (setObj s obj { o1 with pend := rest ++ [1024 + cl] })
        else setObj s obj o1)
    else
      let n := o.dieN - 1
      let s1 := setObj s obj { o with dieN := n, pend := rest }
      .next (if n ≠ 0 then s1
        else if keyLevel obj = 1 then due [.launchComplete obj] s1
        else graphCheck obj (setObj s1 obj { getObj s1 obj with ownerIn := false }))

/-- Launches that name an object as their predecessor no longer wait for its triggers, the last of which is counted at a tick (R285). -/
def freeDependants (key t : Nat) (s : State) : State :=
  { s with objs := s.objs.map fun x =>
      if x.2.live ∧ x.2.pred = some key ∧ x.2.predWait then (x.1, { x.2 with predWait := false, predT := some t }) else x }

/-- A predecessor that has completed places no constraint any more (R285). -/
def dropPred (key : Nat) (s : State) : State :=
  { s with objs := s.objs.map fun x =>
      if x.2.live ∧ x.2.pred = some key then (x.1, { x.2 with pred := none, predWait := false }) else x }

/-- `LAUNCH_COMPLETE` (R282). -/
def execLaunchComplete (obj : Nat) (s : State) : Out :=
  let o := getObj s obj
  if o.live && keyLevel obj == 1 && o.dieN == 0 then
    let s1 := dropPred obj (finishObj obj s)
    let s2 := match o.graph with
      | some g => graphCheck g (setObj s1 g { getObj s1 g with members := (getObj s1 g).members.erase obj })
      | none => s1
    .next (jobCheck o.inst o.region s2)
  else .next s

/-- `GRAPH_COMPLETE` (R282). -/
def execGraphComplete (obj : Nat) (s : State) : Out :=
  let o := getObj s obj
  if o.live && o.ending && keyLevel obj == 2 then
    let s1 := o.phases.foldl (fun s p =>
      phaseCheck p (setObj s p { getObj s p with members := (getObj s p).members.erase obj })) (finishObj obj s)
    .next (jobCheck o.inst o.region s1)
  else .next s

/-- `PHASE_COMPLETE` (R282). -/
def execPhaseComplete (obj : Nat) (s : State) : Out :=
  let o := getObj s obj
  if o.live && o.ending && keyLevel obj == 3 then .next (jobCheck o.inst o.region (finishObj obj s)) else .next s

/-- `JOB_COMPLETE` (R282). -/
def execJobComplete (obj : Nat) (s : State) : Out :=
  let o := getObj s obj
  if o.live && o.ending && keyLevel obj == 4 then .next (finishObj obj s) else .next s

/-- The trigger of a launch's member is counted at a tick: the last frees the dependants (R285). -/
def trigZero (key member t : Nat) (s : State) : State :=
  let o := getObj s key
  let s1 := setObj s key { o with trigs := o.trigs.erase member }
  if o.trigs.erase member = [] then freeDependants key t s1 else s1

/-- `TRIGGER_COUNT` (R285): the block's trigger is counted at its core; the last of a launch frees its dependants from the
fourth cycle on. -/
def execTriggerCount (core : Nat) (s : State) : Out :=
  let t := coreTick s core
  .next ((blocksAt s core).foldl (fun s b =>
    if trigReady s t b then
      let s1 := mapBlock b.bid (fun b => { b with trigDone := true }) s
      match b.launch with
      | none => s1
      | some key => trigZero key b.member t s1
    else s) s)

/-- The mark of a unit that has completed (R280, R290), by the core of its release while that core has released no other. -/
def markUnit (b : Block) (s : State) : State :=
  let h := getCore s b.home
  if h.gen = b.gen then setCore s b.home { h with cancelled := b.killed } else s

/-- Counts a unit (R281, R283): the core holds the block no more, and the objects above count it. -/
def countUnit (core : Nat) (b : Block) (s : State) : State :=
  let k := getCore s core
  let here := (k.blk.map (·.bid)) = some b.bid
  let s1 := markUnit b (if here then setCore s core { k with blk := none }
    else { s with saved := s.saved.filter fun v => v.blk.bid != b.bid })
  let s2 := match b.launch with
    | some key => unitZero key b.member s1
    | none => match b.graph with
      | some g => unitZero g b.member s1
      | none => s1
  jobCheck b.inst (regionOf s core) s2

/-! ### Re-execution -/

/-- Cycles from a launch or a failure to the release (R289, R295). -/
def setupCycles (kn : Kernel) : Nat := 32 + 2 * ceilDiv kn.size 256

/-- The lowest-indexed free image core of a region that no launch reserves (R295). -/
def spareCore (s : State) (inst region but : Nat) : Option Nat :=
  (getInst s inst).cores.find? fun c =>
    c != but && regionOf s c == region && coreFree (getCore s c) && (getCore s c).resv.isNone

/-- A saved context that is discarded; its block, killed by `cancel` if one has doomed it, is still to be counted (R291). What it
owned is released as at `exit`. -/
def discardSaved (bid : Nat) (s : State) : State :=
  let ended := fun (b : Block) =>
    { b with exited := true, killed := b.doomed, trig := some (b.trig.getD s.nextReq), journal := [], restarted := [] }
  let gone := fun (v : Saved) =>
    if v.blk.bid = bid then { v with ctx := {}, mx := {}, spad := [], dict := [], faults := [], blk := ended v.blk } else v
  { s with
    saved := s.saved.map gone
    xings := s.xings.map (dropXing bid)
    twes := s.twes.map fun t => (t.1, { t.2 with streams := t.2.streams.map fun st =>
      if st.2.isOpen ∧ st.2.ownerBid = bid then (st.1, { st.2 with closing := true }) else st })
    jobs := s.jobs.map fun j => (j.1, returnCells bid j.2) }

/-- A block leaves its core, or its area, without being counted. -/
def dropBlock (core : Nat) (b : Block) (s : State) : State :=
  let k := getCore s core
  if (k.blk.map (·.bid)) = some b.bid then
    let s1 := endBlock core s
    setCore s1 core { getCore s1 core with blk := none, run := if k.run == .fenced then .fenced else .idle }
  else
    let s1 := discardSaved b.bid s
    { s1 with saved := s1.saved.filter fun v => v.blk.bid != b.bid }

/-- Re-executes a failed block of a restartable launch on a spare core, if it may be (R295). -/
def retryOf (core : Nat) (b : Block) (s : State) : Option State :=
  match b.launch with
  | none => none
  | some key =>
    let o := getObj s key
    if o.rst && !b.retried then
      (spareCore s b.inst o.region core).map fun c =>
        let t := coreTick s core + setupCycles (kernelOf (getInst s b.inst) o.kernel)
        let s1 := dropBlock core b s
        setObj (setCore s1 c { getCore s1 c with resv := some key }) key { o with redo := o.redo ++ [(t, c, b.member)] }
    else none
def retryBlock (core : Nat) (s : State) : Option State := (getCore s core).blk.bind fun b => retryOf core b s

/-- A `WDKILL` record (R293). -/
def wdKill (key n : Nat) (s : State) : State :=
  let o := getObj s key
  eventRecord o.part 0x46 o.region (getRegion s o.region).frame (handleOf s key + n % 2 ^ 16 * 2 ^ 32) s

/-- A block of a restartable launch that may not run again is killed as in step 2 of R293 (R295). -/
def noRetry (b : Block) (s : State) : State :=
  match b.launch with
  | some key => if (getObj s key).rst then wdKill key 1 s else s
  | none => s

/-- `UNIT_COUNT` (R281, R293, R294, R295): the unit of a block that has ended is counted; that of a fenced core is counted at
once, unless the block runs again. -/
def execUnitCount (core : Nat) (s : State) : Out :=
  let t := coreTick s core
  let k := getCore s core
  match k.run, k.blk with
  | .fenced, some b =>
    match retryBlock core s with
    | some s1 => .next s1
    | none =>
      let s1 := endBlock core (noRetry b s)
      .next (countUnit core b (setCore s1 core { getCore s1 core with run := .fenced }))
  | _, _ => .next ((blocksAt s core).foldl (fun s b => if unitReady s t b then countUnit core b s else s) s)

/-- What a stop with `DATAERR` on a core's own memory starts (R295): the block runs again, or is killed. -/
def dataErrRetry (core : Nat) (s : State) : State :=
  match (getCore s core).blk with
  | none => s
  | some b =>
    match b.launch with
    | none => s
    | some key =>
      if (getObj s key).rst then
        match retryBlock core s with
        | some s1 => s1
        | none => endBlock core (wdKill key 1 s)
      else s

/-- A block that waits for its re-execution is over: its core is reserved no more, and the launch counts the member. -/
def endRedo (key : Nat) (x : Nat × Nat × Nat) (s : State) : State :=
  let o := getObj s key
  let k := getCore s x.2.1
  let s1 := setObj s key { o with redo := o.redo.erase x }
  let s2 := if k.resv = some key then setCore s1 x.2.1 { k with resv := none } else s1
  unitZero key x.2.2 (trigZero key x.2.2 (regTick (getRegion s o.region)) s2)

/-- `REEXECUTION_RELEASE` (R295): the blocks whose tick has come; one whose core another block has taken is killed as in step 2 of
R293. -/
def execReexecutionRelease (obj : Nat) (s : State) : Out :=
  let o := getObj s obj
  let t := regTick (getRegion s o.region)
  .next ((o.redo.filter fun x => decide (x.1 ≤ t)).foldl (fun s x =>
    let o := getObj s obj
    let b : Block := { bid := 0, inst := o.inst, kernel := o.kernel, part := o.part, entry := o.entry, budget := o.budget, gen := 0,
                       launch := some obj, graph := o.graph, rst := true, retried := true, member := x.2.2,
                       trigDone := !o.trigs.contains x.2.2 }
    if coreFree (getCore s x.2.1) then startBlock x.2.1 b (setObj s obj { o with redo := o.redo.erase x })
    else endRedo obj x (wdKill obj 1 s)) s)

/-! ### Releases -/

/-- The timetable in force (R330). -/
def tableNow (x : Region) : List TEntry := if x.leanOn then x.lean else x.table

/-- Changes the timetable in force. -/
def mapTable (f : TEntry → TEntry) (x : Region) : Region :=
  if x.leanOn then { x with lean := x.lean.map f } else { x with table := x.table.map f }

/-- Whether an entry falls due in the current cycle. -/
def entryDue (x : Region) (e : TEntry) : Bool := e.done == 0 && e.frame == x.frame && e.cyf == x.cyf

/-- Entries due. -/
def entriesDue (x : Region) : List TEntry := (tableNow x).filter (entryDue x)

/-- Whether an entry's core is free (R283). -/
def entryFree (s : State) (e : TEntry) : Bool := coreFree (getCore s e.core)

/-- Open phases of a region that count a graph released now (R280). -/
def phasesNow (s : State) (inst r : Nat) : List Nat :=
  (liveObjs s inst 3).filter fun k =>
    let o := getObj s k
    o.region == r && !o.ending && decide (o.lo ≤ (getRegion s r).frame) && decide ((getRegion s r).frame < o.hi)

/-- Releases the block of a timetable entry (R279, R280): with conductor privilege it gets a graph, if one is free. -/
def releaseEntry (r : Nat) (e : TEntry) (s : State) : State :=
  let x := getRegion s r
  let inst := x.inst.getD 0
  let i := getInst s inst
  let b : Block := { bid := 0, inst := inst, kernel := e.kernel, part := i.part, entry := e.entry, budget := e.budget, gen := 0,
                     member := e.core }
  let s0 := setRegion s r (mapTable (fun y => if y = e then { y with done := 1 } else y) x)
  if i.cores.head? = some e.core then
    match freeObj s0 2 i.part (r / 8) with
    | none => startBlock e.core b s0
    | some g =>
      let ps := phasesNow s0 inst r
      let o : Obj := withCounters [e.core] { inst := inst, part := i.part, region := r, ownerIn := true, phases := ps, opened := s0.nextBid }
      let s1 := ps.foldl (fun s p => setObj s p { getObj s p with members := g :: (getObj s p).members }) (allocObj g o s0)
      startBlock e.core { b with graph := some g } s1
  else startBlock e.core b s0

/-- Releases every entry due whose core is free. -/
def releaseDue (r : Nat) (s : State) : State :=
  (entriesDue (getRegion s r)).foldl (fun s e => if entryFree s e then releaseEntry r e s else s) s

/-- `TIMETABLE_RELEASE` (R279, R283): the entries due are released, or the region stalls. -/
def execTimetableRelease (region : Nat) (s : State) : Out :=
  let x := getRegion s region
  if (entriesDue x).all (entryFree s) then .next (releaseDue region s)
  else .next (setRegion s region { x with stalled := true, stallN := 1 })

/-- The end of a stall (R283): the tick advances again, and a realignment is due. -/
def endStall (x : Region) : Region := { x with stalled := false, stallN := 0, relNext := false, slipDue := true }

/-- `STALL_END_RELEASE` (R283): the cycle after the core became free. -/
def execStallEndRelease (region : Nat) (s : State) : Out :=
  let x := getRegion s region
  if x.stalled && x.relNext then .next (releaseDue region (setRegion s region (endStall x))) else .next s

/-- Entries that a predicate picks are skipped. -/
def skipEntries (f : TEntry → Bool) (x : Region) : Region :=
  let n := (tableNow x).countP fun e => e.done == 0 && f e
  { mapTable (fun e => if e.done = 0 ∧ f e then { e with done := 2 } else e) x with skipE := x.skipE + n }

/-- `ENTRY_SKIP` (R283): after M stall cycles the entries whose core is not free are skipped, and the others are released. -/
def execEntrySkip (region : Nat) (s : State) : Out :=
  let x := getRegion s region
  if x.stalled && decide (x.m ≤ x.stallN) then
    let late := fun (e : TEntry) => entryDue x e && !entryFree s e
    .next (jobCheck (x.inst.getD 0) region (releaseDue region (setRegion s region (endStall (skipEntries late x)))))
  else .next s

/-- Cores of a region's clusters. -/
def regionCores (s : State) (r : Nat) : List Nat :=
  ((s.clusterRegion.filter fun x => x.2 == r).map (·.1)).flatMap fun cl => (List.range 16).map fun i => cl * 16 + i

/-- Whether a region's partition is under debug (R240, R284): `DBGHOLD` is 1 in a core of the partition, whatever its region. -/
def regionDebug (s : State) (r : Nat) : Bool := (regionCores s r).any (partDebug s)

/-- `SLIP` (R284): at the first frame boundary of the source after a stall the region realigns; under debug only the record
is written. The crossings of the region set their phase afresh (R257). -/
def execSlip (region : Nat) (s : State) : Out :=
  let x := getRegion s region
  if x.slipDue && !x.stalled && x.m != 0 && x.srcTick % x.m == 0 then
    let f' := x.srcTick / x.m
    let skipf := if x.cyf = 0 then f' - x.frame else f' - x.frame - 1
    let cut := if x.cyf = 0 then 0 else x.m - x.cyf
    let dropped := fun (e : TEntry) => decide (x.frame * x.m + x.cyf ≤ e.frame * x.m + e.cyf) && decide (e.frame < f')
    let y := skipEntries dropped x
    let ev := fun s => eventRecord x.part 0x40 region (getRegion s region).frame
      (skipf % 2 ^ 32 + cut % 2 ^ 24 * 2 ^ 32 + min y.skipE 255 * 2 ^ 56) s
    if regionDebug s region then .next (ev (setRegion s region { x with slipDue := false, skipE := 0 }))
    else
      let s1 := setRegion s region { y with slipDue := false, skipE := 0, frame := f', cyf := 0, newFrame := true }
      let cls := (s1.clusterRegion.filter fun c => c.2 == region).map (·.1)
      let s2 := { s1 with xings := s1.xings.map fun z => if cls.contains z.1 || z.2.down == region then (z.1, { z.2 with fresh := true }) else z }
      .next (jobCheck (x.inst.getD 0) region (ev s2))
  else .next s

/-- Whether the requests of the issuing block let a launch go at a tick (R289): the first one past them all. -/
def launchAfter (s : State) (o : Obj) (t : Nat) : Bool :=
  tlbisDone s o.after.1 o.after.2 &&
  s.reqs.all fun x => x.2.bid != o.after.1 || x.2.service || decide (o.after.2 ≤ x.1) ||
    isStep x.2.kind || (reqAt s x.1 x.2 3 && match x.2.promise with | some p => decide (p + 1 ≤ t) | none => true)

/-- Whether a launch is to be released in the current cycle (R285, R289, R329); its cores are free by then (log 40). -/
def launchReady (s : State) (key : Nat) : Bool :=
  let o := getObj s key
  let t := regTick (getRegion s o.region)
  o.live && !o.released && o.units != [] && decide (o.due ≤ t) && !o.held && !o.predWait &&
    (match o.predT with | some p => decide (p + 4 ≤ t) | none => true) && launchAfter s o t &&
    o.cores.all fun c => coreFree (getCore s c)

/-- `LAUNCH_RELEASE` (R279, R289): every block of the launch, in one cycle. -/
def execLaunchRelease (obj : Nat) (s : State) : Out :=
  if launchReady s obj then
    let o := getObj s obj
    let s1 := setObj s obj { o with released := true, wdTick := regTick (getRegion s o.region) }
    .next (o.cores.foldl (fun s c =>
      startBlock c { bid := 0, inst := o.inst, kernel := o.kernel, part := o.part, entry := o.entry, budget := o.budget, gen := 0,
                     launch := some obj, graph := o.graph, rst := o.rst, member := c } s) s1)
  else .next s

/-- Launches that energy holds are admitted in a cycle whose start covers them (R329). -/
def admitHeld (r : Nat) (s : State) : State :=
  { s with objs := s.objs.map fun x =>
      if x.2.live ∧ x.2.held ∧ x.2.region = r ∧ (energyNeed (getInst s x.2.inst) : Int) ≤ (getPart s x.2.part).acct then
        (x.1, { x.2 with held := false })
      else x }

/-- What the release part of a region cycle has to do (R279, R283, R289, R295): rows due, in the order of entries, launches,
re-executions. -/
def releaseRows (r : Nat) (s : State) : State :=
  let x := getRegion s r
  let entries := entriesDue x
  let t := regTick x
  let mine := s.objs.filter fun (o : Nat × Obj) => o.2.live && o.2.region == r && keyLevel o.1 == 1
  let others : List Event := (mine.filter fun o => launchReady s o.1).map (fun o => Event.launchRelease o.1) ++
    (mine.filter fun o => o.2.redo.any fun y => decide (y.1 ≤ t)).map fun o => Event.reexecutionRelease o.1
  if x.stalled then
    if x.relNext then due (.stallEndRelease r :: others) s
    else if x.m ≤ x.stallN ∧ !entries.all (entryFree s) then due (.entrySkip r :: others) s
    else if entries.all (entryFree s) then setRegion s r { x with relNext := true, stallN := x.stallN + 1 }
    else setRegion s r { x with stallN := x.stallN + 1 }
  else if entries ≠ [] ∧ !entries.all (entryFree s) then due [.timetableRelease r] s
  else if entries ≠ [] then due (.timetableRelease r :: others) s
  else due others s

/-! ### Handles -/

/-- What a handle names for a block (R290, R291). -/
inductive Named where
  | bad
  /-- Complete, or of an older generation; whether it completed by `cancel`. -/
  | over (byCancel : Bool)
  | mine
  | unit (core bid : Nat)
  | obj (key : Nat)
  deriving DecidableEq, Repr

/-- Objects that contain a block (R290). -/
def contains_ (s : State) (b : Block) (key : Nat) : Bool :=
  b.launch == some key || b.graph == some key || (jobLive s (getInst s b.inst) && (getInst s b.inst).job == key) ||
    (match b.graph with | some g => (getObj s g).phases.contains key && (getObj s key).members.contains g | none => false)

/-- Reads a handle for a block (R280, R290). A generation that is not the object's is older. -/
def readHandle (s : State) (b : Block) (h : Nat) : Named :=
  let lvl := bits h 10 3
  let ix := bits h 0 10
  let gen := bits h 16 16
  if 2 ^ 32 ≤ h ∨ bits h 13 3 ≠ 0 ∨ 5 ≤ lvl then .bad
  else if lvl = 0 then
    if !(getInst s b.inst).cores.contains ix then .bad
    else
      match (allBlocks s).find? (fun x => x.2.home == ix && x.2.gen % 2 ^ 16 == gen) with
      | some (c, u) => if u.inst ≠ b.inst then .bad else if u.bid = b.bid then .mine else .unit c u.bid
      | none => .over ((getCore s ix).gen % 2 ^ 16 == gen && (getCore s ix).cancelled)
  else if lvl = 4 ∧ 16 ≤ ix then .bad
  else if lvl < 4 ∧ (bits ix 6 2 ≠ 0 ∨ objCount lvl ≤ ix % 64) then .bad
  else
    let key := objKey lvl b.part (if lvl = 4 then 0 else ix / 256) (ix % 64)
    let o := getObj s key
    if o.gen % 2 ^ 16 ≠ gen then .over false
    else if o.inst ≠ b.inst ∨ o.gen = 0 then .bad
    else if !o.live then .over o.cancelled
    else if contains_ s b key then .mine
    else .obj key

/-- `DONE` with `VAL` (R290). -/
def doneVal (byCancel : Bool) : Word := statusW 0 (if byCancel then 1 else 0)

/-- The status `TIMEOUT` (R194). -/
def stTimeout : Word := statusW 5 0

/-! ### `lnch` -/

/-- The block in issue; a context without one has no launches. -/
def curBlk (s : State) : Block := (cur s).blk.getD { bid := 0, inst := 0, kernel := 0, part := 0, entry := 0, budget := 0, gen := 0 }

/-- The cores that a mask of image core indices names (R288). -/
def maskCores (i : Inst) (m : Nat) : List Nat := (i.cores.zipIdx.filter fun x => m.testBit x.2).map (·.1)

/-- The graph that a launch belongs to (R280). -/
def graphOf (s : State) (b : Block) : Option Nat :=
  match b.launch with
  | some key => (getObj s key).graph
  | none => b.graph

/-- Whether a launch's operands are illegal (R288). -/
def lnchBad (s : State) (x y z : Nat) : Bool :=
  let b := curBlk s
  let i := getInst s b.inst
  let cs := maskCores i y
  bits x 33 3 != 0 || bits x 48 16 != 0 || y == 0 || decide (2 ^ i.cores.length ≤ y) ||
    (cs.any fun c => regionOf s c != regionOf s s.sched.cur || c == s.sched.cur) ||
    (z != 0 && (bits z 10 3 != 1 || readHandle s b z == .bad))

/-- A block that waits for energy records `EHOLD` (R329). -/
def eholdRecord (key : Nat) (s : State) : State :=
  let o := getObj s key
  let short := (energyNeed (getInst s o.inst) : Int) - (getPart s o.part).acct
  eventRecord o.part 0x45 o.region (getRegion s o.region).frame (handleOf s key + min short.toNat (2 ^ 32 - 1) * 2 ^ 32) s

/-- `lnch` (R288, R289, R329). -/
def lnchDo (s : State) (x y z : Nat) : State × Word :=
  let c := s.sched.cur
  let b := curBlk s
  let i := getInst s b.inst
  let cs := maskCores i y
  let r := regionOf s c
  if lnchBad s x y z then (s, stBadarg)
  else if cs.any fun k => !coreFree (getCore s k) || (getCore s k).resv.isSome then (s, stBusy)
  else
    match freeObj s 1 b.part (c / 256) with
    | none => (s, stBusy)
    | some key =>
      let pred : Option Nat := if z = 0 then none else
        match readHandle s b z with
        | .obj p => some p
        | .mine => b.launch
        | _ => none
      let wait : Bool := pred.any fun p => (getObj s p).trigs != []
      let covered := decide ((energyNeed i : Int) ≤ (getPart s b.part).acct)
      let g := graphOf s b
      let o : Obj := { inst := b.inst, part := b.part, region := r, cores := cs, trigs := cs, entry := BitVec.ofNat 32 x,
                       budget := bits x 36 12, kernel := b.kernel, rst := x.testBit 32,
                       due := coreTick s c + setupCycles (kernelOf i b.kernel), pred := pred, predWait := wait,
                       after := (b.bid, s.nextReq), graph := g,
                       held := !covered }
      let s1 := allocObj key (withCounters cs o) s
      let s2 := cs.foldl (fun s k => setCore s k { getCore s k with resv := some key }) s1
      let s3 := match g with
        | some g => setObj s2 g { getObj s2 g with members := key :: (getObj s2 g).members }
        | none => s2
      let s4 := if covered then s3 else eholdRecord key s3
      (s4, BitVec.ofNat 64 (handleOf s4 key))

/-- An instruction whose word lands after latency 1 on the S slot. -/
def issueWordS (g : Guard) (d : SDst) (void : Ctx → Bool) (f : State → State × Word) : Issue := fun s =>
  let c := curCtx s
  if guardOn c g then
    let r := f s
    .ok (setCtx r.1 (fly (noteVoid (curCtx r.1) (voidP c g.p || void c)) 0 1 (resS d r.2) 0))
  else .ok (setCtx s (fly (noteVoid c (voidP c g.p)) 0 1 (offS d) 0))

/-- An instruction that only a conductor may issue (R287), whatever the guard reads. -/
def conductorOnly (f : Issue) : Issue := fun s => if coreConductor (cur s) then f s else .error (privStop 1)

/-- `lnch`. -/
def issueLnch (g : Guard) (d : SDst) (a b c : SOp) : Issue :=
  conductorOnly (issueWordS g d (void3 a b c) fun s => lnchDo s (valN s a) (valN s b) (valN s c))
def execLnch (g : Guard) (d : SDst) (a b c : SOp) (s : State) : Out := settle s (issueLnch g d a b c s)

/-- `lnch.ph` (R288). -/
def lnchPhDo (s : State) (lo hi : Nat) : State × Word :=
  let b := curBlk s
  if hi ≤ lo then (s, stBadarg)
  else
    match freeObj s 3 b.part (s.sched.cur / 256) with
    | none => (s, stBusy)
    | some key =>
      let o : Obj := { inst := b.inst, part := b.part, region := regionOf s s.sched.cur, lo := lo, hi := hi, opened := s.nextBid }
      let s1 := phaseCheck key (allocObj key o { s with nextBid := s.nextBid + 1 })
      (s1, BitVec.ofNat 64 (handleOf s1 key))
def issueLnchPh (g : Guard) (d : SDst) (a b : SOp) : Issue :=
  conductorOnly (issueWordS g d (void2 a b) fun s => lnchPhDo s (valN s a) (valN s b))
def execLnchPh (g : Guard) (d : SDst) (a b : SOp) (s : State) : Out := settle s (issueLnchPh g d a b s)

/-- The most recently opened phase that counts a graph (R288). -/
def newestPhase (s : State) (g : Nat) : Option Nat :=
  ((getObj s g).phases.filter fun p => (getObj s p).live && (getObj s p).members.contains g).foldl (fun m p =>
    match m with
    | none => some p
    | some q => if (getObj s q).opened < (getObj s p).opened then some p else some q) none

/-- `lnch.self` (R288). -/
def lnchSelfWord (s : State) (lvl : Nat) : Word :=
  let b := curBlk s
  let word := fun (k : Option Nat) => match k with
    | some key => BitVec.ofNat 64 (handleOf s key)
    | none => stBadarg
  if (cur s).blk.isNone then stBadarg
  else if lvl = 0 then BitVec.ofNat 64 (unitHandle b)
  else if lvl = 1 then word b.launch
  else if lvl = 2 then word (graphOf s b)
  else if lvl = 3 then word ((graphOf s b).bind (newestPhase s))
  else word (some (getInst s b.inst).job)
def issueLnchSelf (g : Guard) (d : SDst) (lvl : Nat) : Issue :=
  issueWordS g d (fun _ => false) fun s => (s, lnchSelfWord s lvl)
def execLnchSelf (g : Guard) (d : SDst) (lvl : Nat) (s : State) : Out := settle s (issueLnchSelf g d lvl s)

/-! ### `join` -/

/-- The result of a `join` once it has one (R290). -/
def joinProbe (s : State) (core : Nat) (h z : Word) : Option Word :=
  let b := (getCore s core).blk.getD { bid := 0, inst := 0, kernel := 0, part := 0, entry := 0, budget := 0, gen := 0 }
  match readHandle s b h.toNat with
  | .bad => some stBadarg
  | .mine => some stRefused
  | .over k => some (doneVal k)
  | _ => if z.toNat ≤ coreTick s core then some stTimeout else none

/-- `join` (R290). -/
def issueJoin (g : Guard) (d : SDst) (a b : SOp) : Issue := conductorOnly fun s =>
  let c := curCtx s
  if guardOn c g then
    let c1 := noteVoid c (voidP c g.p || voidS c a || voidS c b)
    .ok (setCtx s (match joinProbe s s.sched.cur (valS c a) (valS c b) with
      | some w => if w = stTimeout then endNow c1 0 d w else fly c1 0 1 (resS d w) 0
      | none => addWait c1 (.join (valS c a) (valS c b)) 0 d))
  else .ok (setCtx s (fly (noteVoid c (voidP c g.p)) 0 1 (offS d) 0))
def execJoin (g : Guard) (d : SDst) (a b : SOp) (s : State) : Out := settle s (issueJoin g d a b s)

/-- `JOIN_END` (R290): sampled in each waiting cycle. -/
def execJoinEnd (core : Nat) (s : State) : Out :=
  .next (endWaits core (fun w => match w with | .join h z => joinProbe s core h z | _ => none) s)

/-! ### `cancel`, watchdog -/

/-- Launches that name one of these as predecessor and are not released are cancelled with it (R285). -/
def withDependants (s : State) : Nat → List Nat → List Nat
  | 0, ls => ls
  | fuel + 1, ls =>
    let more := (s.objs.filter fun (x : Nat × Obj) => x.2.live && !x.2.released && !ls.contains x.1 &&
      match x.2.pred with | some p => ls.contains p | none => false).map (·.1)
    if more = [] then ls else withDependants s fuel (ls ++ more)

/-- Launches and graphs under an object (R280). -/
def graphsUnder (s : State) (key : Nat) : List Nat :=
  if keyLevel key = 2 then [key] else if keyLevel key = 3 then (getObj s key).members
  else if keyLevel key = 4 then liveObjs s (getObj s key).inst 2 else []
def launchesUnder (s : State) (key : Nat) : List Nat :=
  if keyLevel key = 1 then withDependants s 64 [key]
  else if keyLevel key = 4 then liveObjs s (getObj s key).inst 1
  else withDependants s 64 ((graphsUnder s key).flatMap fun g => (getObj s g).members)

/-- Withholds the blocks of a launch that has not been released, or those of one that wait to run again (R291): how many. -/
def withhold (key : Nat) (s : State) : State × Nat :=
  let o := getObj s key
  if o.released then (o.redo.foldl (fun s x => endRedo key x s) s, o.redo.length)
  else if o.units = [] then (s, 0)
  else
    let n := o.units.length
    let s1 := o.cores.foldl (fun s c =>
      if (getCore s c).resv = some key then setCore s c { getCore s c with resv := none } else s) s
    (dropPred key (o.units.foldl (fun s c => unitZero key c s) (setObj s1 key { getObj s1 key with trigs := [] })), n)

/-- Whether a core waits (R87). -/
def isWaiting (k : Core) : Bool := k.svc.isNone && k.ctx.waits != []

/-- Kills a released block (R291): at once where it is held, saved, waiting or in a stopped region, else from the fourth
cycle on, counted from the first kill. -/
def killBlock (byCancel : Bool) (core : Nat) (b : Block) (s : State) : State × Nat :=
  if b.exited then (s, 0)
  else
    let s1 := if byCancel then mapBlock b.bid (fun b => { b with doomed := true }) s else s
    let k := getCore s1 core
    if (k.blk.map (·.bid)) ≠ some b.bid then (discardSaved b.bid s1, 1)
    else
      let r := coreRegion s1 core
      if k.run = .running ∧ !isWaiting k ∧ k.svc.isNone ∧ r.st ≠ .stopped then
        (setCore s1 core { k with killAt := some (min (r.clk + 4) (k.killAt.getD (r.clk + 4))) }, 1)
      else (takeKill core s1, 1)

/-- Kills blocks. -/
def killAll (byCancel : Bool) (bs : List (Nat × Block)) (s : State) : State × Nat :=
  bs.foldl (fun r x => let y := killBlock byCancel x.1 x.2 r.1; (y.1, r.2 + y.2)) (s, 0)

/-- Blocks under an object, or of a unit. -/
def blocksUnder (s : State) (key : Nat) : List (Nat × Block) :=
  let ls := launchesUnder s key
  let gs := graphsUnder s key
  (allBlocks s).filter fun x =>
    (match x.2.launch with | some l => ls.contains l | none => match x.2.graph with | some g => gs.contains g | none => false) ||
    (keyLevel key == 4 && x.2.inst == (getObj s key).inst)

/-- Timetable entries of a cancelled phase or job are skipped (R291): of a phase, those of its frame range for the conductor
core. -/
def skipUnder (key : Nat) (s : State) : State :=
  let o := getObj s key
  let i := getInst s o.inst
  let skip := fun (f : TEntry → Bool) (x : Region) =>
    let g := fun (e : TEntry) => if e.done = 0 ∧ f e then { e with done := 2 } else e
    { x with table := x.table.map g, lean := x.lean.map g }
  if keyLevel key = 3 then
    setRegion s o.region (skip (fun e => i.cores.head? == some e.core && decide (o.lo ≤ e.frame) && decide (e.frame < o.hi))
      (getRegion s o.region))
  else if keyLevel key = 4 then i.regions.foldl (fun s r => setRegion s r (skip (fun _ => true) (getRegion s r))) s
  else s

/-- Cancels an object and everything under it (R291): how many blocks were killed or withheld. -/
def cancelObj (key : Nat) (s : State) : State × Nat :=
  let ls := launchesUnder s key
  let objs := key :: ls ++ graphsUnder s key ++ (if keyLevel key = 4 then liveObjs s (getObj s key).inst 3 else [])
  let bs := blocksUnder s key
  let s1 := objs.foldl (fun s k => setObj s k { getObj s k with killing := true }) s
  let s2 := if keyLevel key = 4 then (liveObjs s (getObj s key).inst 3).foldl (fun s k => skipUnder k s) (skipUnder key s1) else skipUnder key s1
  let r := ls.foldl (fun (r : State × Nat) l => let y := withhold l r.1; (y.1, r.2 + y.2)) (s2, 0)
  let q := killAll true bs r.1
  (jobCheck (getObj s key).inst (getObj s key).region q.1, r.2 + q.2)

/-- `cancel` (R291). -/
def cancelDo (s : State) (h : Nat) : State × Word :=
  match readHandle s (curBlk s) h with
  | .bad => (s, stBadarg)
  | .mine => (s, stRefused)
  | .over k => (s, doneVal k)
  | .unit c bid =>
    let r := killAll true ((allBlocks s).filter fun x => x.1 == c && x.2.bid == bid) s
    (r.1, statusW 0 r.2)
  | .obj key =>
    let r := cancelObj key s
    (r.1, statusW 0 r.2)
def issueCancel (g : Guard) (d : SDst) (a : SOp) : Issue :=
  conductorOnly (issueWordS g d (void1 a) fun s => cancelDo s (valN s a))
def execCancel (g : Guard) (d : SDst) (a : SOp) (s : State) : Out := settle s (issueCancel g d a s)

/-- The limit of a launch's next watchdog step, in ticks from the last one (R293); a limit of 0 disables it and those after. -/
def wdLimit (x : Region) (step : Nat) : Option Nat :=
  let l := [x.wd1, x.wd2, x.wd3].take (step + 1)
  if step < 3 ∧ !l.contains 0 then (l[step]?).map (· * x.m) else none

/-- Whether a launch's next step is due (R293). -/
def wdDue (s : State) (key : Nat) : Bool :=
  let o := getObj s key
  let x := getRegion s o.region
  o.live && o.released && match wdLimit x o.wdStep with
    | some n => decide (o.wdTick + n ≤ regTick x)
    | none => false

/-- A step of the watchdog has been taken. -/
def wdStepped (key step : Nat) (s : State) : State :=
  let o := getObj s key
  setObj s key { o with wdStep := step, wdTick := regTick (getRegion s o.region) }

/-- Blocks of a launch. -/
def launchBlocks (s : State) (key : Nat) : List (Nat × Block) := (allBlocks s).filter fun x => x.2.launch == some key

/-- `WATCHDOG_PREEMPT` (R293): the stop orders the save; a context that is saved already stays so. -/
def execWatchdogPreempt (obj : Nat) (s : State) : Out :=
  if wdDue s obj && (getObj s obj).wdStep == 0 then
    .next ((launchBlocks s obj).foldl (fun s x =>
      let k := getCore s x.1
      if (k.blk.map (·.bid)) == some x.2.bid && stoppable k && !x.2.exited then setCore s x.1 { k with pendPre := true } else s)
      (wdStepped obj 1 s))
  else .next s

/-- `WATCHDOG_KILL` (R293): blocks that wait to run again included. -/
def execWatchdogKill (obj : Nat) (s : State) : Out :=
  if wdDue s obj && (getObj s obj).wdStep == 1 then
    let q := withhold obj (wdStepped obj 2 s)
    let r := killAll false (launchBlocks s obj) q.1
    .next (wdKill obj (r.2 + q.2) r.1)
  else .next s

/-- A core that the watchdog fences: no stop, request or kill of it is left. -/
def fenceCore (k : Core) : Core :=
  { k with run := .fenced, faults := [], pendPre := false, pendDbg := false, killAt := none, saveDue := false }

/-- `WATCHDOG_FENCE` (R293). The core of a saved block is fenced too, and the fence recorded, where no other block has it (log 58); its
unit is counted at once, unless the block runs again (R295). -/
def execWatchdogFence (obj : Nat) (s : State) : Out :=
  if wdDue s obj && (getObj s obj).wdStep == 2 then
    .next ((launchBlocks s obj).foldl (fun s x =>
      let o := getObj s obj
      let k := getCore s x.1
      let s1 := if (k.blk.map (·.bid)) = some x.2.bid ∨ k.blk.isNone then
          eventRecord o.part 0x47 o.region (getRegion s o.region).frame (handleOf s obj + x.1 * 2 ^ 32) (setCore s x.1 (fenceCore k))
        else s
      if (k.blk.map (·.bid)) = some x.2.bid then due [.unitCount x.1] s1
      else
        match retryOf x.1 x.2 s1 with
        | some s3 => s3
        | none => countUnit x.1 x.2 (noRetry x.2 s1)) (wdStepped obj 3 s))
  else .next s

/-- Steps of the watchdog due in a region. -/
def wdRows (r : Nat) (s : State) : List Event :=
  (s.objs.filter fun (o : Nat × Obj) => o.2.region == r && keyLevel o.1 == 1 && wdDue s o.1).map fun o =>
    if o.2.wdStep = 0 then .watchdogPreempt o.1 else if o.2.wdStep = 1 then .watchdogKill o.1 else .watchdogFence o.1

/-- `FENCED_CORE_RESET` (R293): the kernel resets a fenced core, which is free again. -/
def execFencedCoreReset (core : Nat) (s : State) : Out :=
  let k := getCore s core
  if k.run = .fenced then
    .next (setCore s core { run := .idle, gen := k.gen, cancelled := k.cancelled, resv := k.resv, svreq := k.svreq, dlreload := k.dlreload,
                            dlen := k.dlen, dbghold := k.dbghold, svused := k.svused })
  else .next s

end Sys2Proof.Machine
end

