-- ==== Sys2Proof/Machine/Stream.lean ====
section
/-! DEFINITION. The stream instructions (spec/14 R259 to R263): ingress latches and resampling crossings as a core sees
them. -/

namespace Sys2Proof.Machine

/-- A latch, by cluster and number (R245). -/
def getLatch (s : State) (cl n : Nat) : Latch := smGetD s.latches (4 * cl + n) {}

/-- The wavelength bound as a stream lane for a source and a latch number (R333). -/
def streamLane (s : State) (src n : Nat) : Option Nat :=
  (s.fwl.find? fun x => let v := x.2.toNat; v.testBit 4 && v.testBit 5 && bits v 6 5 == src && bits v 12 2 == n).map (·.2.toNat)

/-- Whether a latch is bound (R245): latch 0 in a region locked to a stream source; the others when their follower lane is. -/
def latchBound (s : State) (cl n : Nat) : Bool :=
  match smGet s.clusterRegion cl with
  | none => false
  | some r =>
    let x := getRegion s r
    x.ren && x.src != 0 && (n == 0 || (streamLane s x.src n).isSome)

/-- A crossing, by the cluster that feeds it (R252). -/
def getXing (s : State) (x : Nat) : Crossing := smGetD s.xings x {}
def setXing (s : State) (x : Nat) (v : Crossing) : State := { s with xings := smPut s.xings x v }

/-- The core that an image core index names for a core's block (R14, R259). -/
def imageCore (s : State) (k : Core) (c : Nat) : Option Nat := k.blk.bind fun b => (getInst s b.inst).cores[c]?

def xStop : Stop := { cause := .xport, smask := 2 }

/-- A stream instruction without a result: V0 only. -/
def issueX (g : Guard) (a : VOp) (f : State → Nat → Ctx → Except Stop State) : Issue := fun s =>
  let c := curCtx s
  if guardOn c g then
    match f s s.sched.cur c with
    | .error e => .error e
    | .ok t => .ok (setCtx t (noteVoid (curCtx t) (voidP c g.p || voidV c a)))
  else .ok (setCtx s (noteVoid c (voidP c g.p)))

/-- A stream instruction with a result after one cycle. -/
def issueXr (g : Guard) (d : VDst) (f : State → Nat → Except Stop (VWord × Flags)) : Issue := fun s =>
  let c := curCtx s
  if guardOn c g then
    match f s s.sched.cur with
    | .error e => .error e
    | .ok r => .ok (setCtx s (issueV 1 1 g d (fun _ => false) (fun _ => r) c))
  else .ok (setCtx s (issueV 1 1 g d (fun _ => false) (fun _ => (0, 0)) c))

/-- i32 lanes from the lowest. -/
def i32s (xs : List Nat) : VWord := BitVec.ofNat 2048 (ofLanes 32 xs)

/-- `xin.l` (R260, R263). -/
def issueXinL (g : Guard) (d : VDst) (n : Fin 4) : Issue := issueXr g d fun s core =>
  let l := getLatch s (core / 16) n.val
  if latchBound s (core / 16) n.val then .ok (i32s [l.value.toNat], 0) else .error xStop
def execXinL (g : Guard) (d : VDst) (n : Fin 4) (s : State) : Out := settle s (issueXinL g d n s)

/-- A lane of a crossing as a 32-bit image: INT16 sign-extended (R260). -/
def laneImage (fmt : Nat) (v : BitVec 32) : Nat := if fmt = 0 then wrap 32 (sInt 16 v.toNat) else v.toNat

/-- `xin.x` (R260, R263). -/
def issueXinX (g : Guard) (d : VDst) (c : BitVec 8) : Issue := issueXr g d fun s core =>
  match imageCore s (getCore s core) c.toNat with
  | none => .error xStop
  | some up =>
    let x := getXing s (up / 16)
    if x.run && regionOf s core == x.down then .ok (i32s (List.zipWith laneImage x.xfmt x.out), x.marks)
    else .error xStop
def execXinX (g : Guard) (d : VDst) (c : BitVec 8) (s : State) : Out := settle s (issueXinX g d c s)

/-- The upstream slot in progress in a cluster's region (R243, R254). -/
def slotIndex (r : Region) : Nat := if r.m = 0 then 0 else r.frame * r.d + ((r.cyf + 1) * r.d - 1) / r.m

/-- A crossing's ownership test (R252, R263). -/
def ownerOk (x : Crossing) (core : Nat) : Bool := x.owner == none || x.owner == some core

/-- A crossing with no owner takes the core of an `xout` as its owner, with the block that runs there (R252). -/
def ownXing (s : State) (core : Nat) (x : Crossing) : Crossing :=
  if x.owner = none then { x with owner := some core, ownerBid := reqBid (getCore s core) } else x

/-- `xout.d` (R254, R261). -/
def issueXoutD (g : Guard) (a : VOp) (m : BitVec 8) : Issue := issueX g a fun s core c =>
  let x := getXing s (core / 16)
  if x.run && ownerOk x core then
    let v := lanesOf 32 8 (valV c a).toNat
    let h := (List.range 8).foldl (fun h l =>
      if m.getLsbD l then
        let w := if x.xfmt.getD l 0 = 0 then 16 else 32
        smSet 0 h (65536 * l + x.slotS % 65536) (BitVec.ofNat 32 (v.getD l 0 % 2 ^ w))
      else h) x.hist
    .ok (setXing s (core / 16) { ownXing s core x with hist := h })
  else .error xStop
def execXoutD (g : Guard) (a : VOp) (m : BitVec 8) (s : State) : Out := settle s (issueXoutD g a m s)

/-- `xout.w` (R253). -/
def issueXoutW (g : Guard) (a : VOp) : Issue := issueX g a fun s core c =>
  let x := getXing s (core / 16)
  if ownerOk x core then
    let w := (List.range 128).foldl (fun w i => smSet 0 w i (BitVec.ofNat 16 (bits (valV c a).toNat (16 * i) 16))) x.xw
    .ok (setXing s (core / 16) { ownXing s core x with xw := w })
  else .error xStop
def execXoutW (g : Guard) (a : VOp) (s : State) : Out := settle s (issueXoutW g a s)

/-- The reserved bits of a configuration (R253). -/
def cfgReserved (v : Nat) : Bool := bits v 48 16 == 0 && bits v 102 26 == 0 && bits v 176 16 == 0 && v / 2 ^ 248 == 0

/-- The ranges of the fields under `START` (R253): `md` is the downstream ⌊M / D⌋. -/
def cfgRanges (v md : Nat) : Bool :=
  let ntap := bits v 208 4
  decide (2 ^ 16 ≤ bits v 0 48 ∧ bits v 0 48 ≤ 8 * 2 ^ 32) && decide (bits v 96 6 ≤ 47) && decide (ntap ≤ 7) &&
  decide (2 ^ 32 ≤ bits v 128 48 ∧ bits v 128 48 ≤ (15 - ntap) * 2 ^ 32) &&
  ((lanesOf 2 8 (bits v 192 16)).all (· != 3)) && (bits v 212 2 != 3) && decide (bits v 214 24 < md)

/-- A crossing started from a configuration (R253, R254): history zero, output zero, marks and counts clear, no phase. -/
def cfgStart (x : Crossing) (down v slot : Nat) : Crossing :=
  { owner := x.owner, ownerBid := x.ownerBid, run := true, xstep := bits v 0 48, xadjmax := bits v 64 32, xksh := bits v 96 6,
    xlag := bits v 128 48, xfmt := lanesOf 2 8 (bits v 192 16), xntap := bits v 208 4, xstoppol := bits v 212 2,
    xdoff := bits v 214 24, down := down, xw := x.xw, slotS := slot, upstop := x.upstop, slast := x.slast, p := x.p, xadj := x.xadj }

/-- The end of a cycle: an `xout.cfg` takes effect (R253, R261). -/
def applyCfg (x : Crossing) : Crossing :=
  match x.cfg with
  | none => x
  | some c => if c.stop then { x with run := false, owner := none, cfg := none } else cfgStart x c.down c.v c.slot

/-- `xout.cfg` (R253, R261, R263): it waits for the end of its cycle. -/
def issueXoutCfg (g : Guard) (a : VOp) : Issue := issueX g a fun s core c =>
  let cl := core / 16
  let x := getXing s cl
  let v := (valV c a).toNat
  let start := v.testBit 238
  let stop := v.testBit 239
  if !ownerOk x core || start == stop || !cfgReserved v then .error xStop
  else if stop then .ok (setXing s cl { ownXing s core x with cfg := some ⟨true, 0, 0, 0⟩ })
  else
    match imageCore s (getCore s core) (bits v 240 8) with
    | none => .error xStop
    | some dn =>
      let rd := getRegion s (regionOf s dn)
      if x.run || !cfgRanges v (rd.m / rd.d) then .error xStop
      else .ok (setXing s cl { ownXing s core x with cfg := some ⟨false, regionOf s dn, v, slotIndex (coreRegion s core)⟩ })
def execXoutCfg (g : Guard) (a : VOp) (s : State) : Out := settle s (issueXoutCfg g a s)

/-- `xstat.l` (R262, R263). -/
def issueXstatL (g : Guard) (d : VDst) (n : Fin 4) : Issue := issueXr g d fun s core =>
  let l := getLatch s (core / 16) n.val
  if latchBound s (core / 16) n.val then .ok (i32s [1 + (if l.stale then 2 else 0), l.miss, l.lost, l.snp], 0) else .error xStop
def execXstatL (g : Guard) (d : VDst) (n : Fin 4) (s : State) : Out := settle s (issueXstatL g d n s)

/-- `xstat.x` (R262, R263). -/
def issueXstatX (g : Guard) (d : VDst) (c : BitVec 8) : Issue := issueXr g d fun s core =>
  match imageCore s (getCore s core) c.toNat with
  | none => .error xStop
  | some up =>
    let x := getXing s (up / 16)
    let p := x.p
    if x.owner == some core || (!x.xfmt.isEmpty && regionOf s core == x.down) then
      .ok (i32s [(if x.run then 1 else 0) + (if x.upstop then 2 else 0) + (if x.pherr then 4 else 0) + x.stale.toNat * 2 ^ 8,
        x.held, p % 2 ^ 32, p / 2 ^ 32, wrap 32 x.xadj, x.slast], 0)
    else .error xStop
def execXstatX (g : Guard) (d : VDst) (c : BitVec 8) (s : State) : Out := settle s (issueXstatX g d c s)

end Sys2Proof.Machine
end

