-- ==== Sys2Proof/Machine/Regions.lean ====
section
/-! DEFINITION. Regions, sources, ingress latches and resampling crossings (spec/14 R241 to R258), and what a frame boundary
does (spec/13 R236, spec/19 R330). -/

namespace Sys2Proof.Machine

/-! ### Slots of a frame -/

/-- The region tick at which the slot with a sample number begins (R243). -/
def slotStart (x : Region) (sn : Nat) : Nat := sn / x.d * x.m + sn % x.d * x.m / x.d

/-- Half of a slot's window (R245). -/
def slotHalf (x : Region) : Nat := x.m / (4 * x.d)

/-- The slot whose window holds the current cycle (R245). -/
def slotHere (x : Region) : Option Nat :=
  let pos := x.frame * x.m + x.cyf
  let sn := slotIndex x
  [sn - 1, sn, sn + 1].find? fun n =>
    decide (slotStart x n ≤ pos + slotHalf x) && decide (pos ≤ slotStart x n + slotHalf x)

/-- The slot of the current frame that began a number of cycles before the current one (R243). -/
def slotBefore (x : Region) (off : Nat) : Option Nat :=
  if x.m = 0 ∨ x.cyf < off then none
  else
    let j := ((x.cyf - off + 1) * x.d - 1) / x.m
    if j < x.d ∧ j * x.m / x.d = x.cyf - off then some (x.frame * x.d + j) else none

/-- Clusters of a region. -/
def regionClusters (s : State) (r : Nat) : List Nat := (s.clusterRegion.filter fun c => c.2 == r).map (·.1)

/-- Bound latches of a region, by number. -/
def regionLatches (s : State) (r : Nat) : List Nat :=
  (regionClusters s r).flatMap fun cl => ((List.range 4).filter (latchBound s cl)).map fun n => 4 * cl + n

/-- Changes latches. -/
def mapLatches (ls : List Nat) (f : Latch → Latch) (s : State) : State :=
  { s with latches := ls.foldl (fun m l => smPut m l (f (smGetD m l {}))) s.latches }

/-- Regions locked to a source. -/
def regionsOf (s : State) (src : Nat) : List Nat := (s.regions.filter fun x => x.2.src == src && x.2.ren && x.2.st != .idle).map (·.1)

/-! ### Sources -/

/-- A source. -/
def getSource (s : State) (n : Nat) : Source := smGetD s.sources n {}
def setSource (s : State) (n : Nat) (x : Source) : State := { s with sources := smPut s.sources n x }

/-- A source is declared lost or under-rate for a region: holdover (R246, R247). -/
def declare (r : Nat) (s : State) : State :=
  let x := getRegion s r
  if x.st = .locked then setRegion s r { x with st := .holdover, declT := s.tick, goodT := none, goodN := 0, relock := false } else s

/-- `LOSN` as it acts (R244). -/
def losn (x : Region) : Nat := if x.losn = 0 then 4 else x.losn

/-- Whether an interval lies within the lock range, measured in whole house ticks (R246, log 41). -/
def inLock (y : Source) (dt : Nat) : Bool :=
  decide (100 * y.pnum ≤ (dt + 1) * 101 * y.pden) && decide ((dt - 1) * 9 * y.pden ≤ 10 * y.pnum)

/-- A sample as its lane converts it (R245): 16-bit lanes extend the sign. -/
def laneSample (s : State) (src n : Nat) (v : BitVec 32) : BitVec 32 :=
  match streamLane s src n with
  | some w => if w.testBit 11 then v else (v.setWidth 16).signExtend 32
  | none => v

/-- Capture of an edge's sample by one latch for a slot; under a clamp a sample not yet presented is lost (R245, R246). -/
def captureOne (clamp : Bool) (sn : Nat) (v : BitVec 32) (l : Latch) : Latch :=
  if clamp then { l with cap := [(v, sn)], lost := if l.cap = [] then l.lost else (l.lost + 1) % 2 ^ 32 }
  else { l with cap := (v, sn) :: l.cap.filter fun c => c.2 != sn }

/-- Capture by a region's latches. -/
def capture (r src sn : Nat) (samples : List (Nat × BitVec 32)) (s : State) : State :=
  let x := getRegion s r
  let ls := regionLatches s r
  let lost := x.clamp && ls.any fun l => l % 4 == 0 && (smGetD s.latches l {}).cap != []
  let s1 := ls.foldl (fun s l =>
    match samples.find? (fun y => y.1 == l % 4) with
    | some y => mapLatches [l] (captureOne x.clamp sn (laneSample s src y.1 y.2)) s
    | none => s) s
  setRegion s1 r { x with edges := sn :: x.edges.take 7, overN := if lost then x.overN + 1 else x.overN,
                          losts := if lost then (x.losts + 1) % 2 ^ 32 else x.losts }

/-- The span of the last 16 periods, once the region has seen so many edges since its bind or the return of its source. -/
def edgeSpan (x : Region) (y : Source) : Option Nat :=
  match y.times[0]?, y.times[16]? with
  | some a, some b => if 17 ≤ x.goodN then some (a - b) else none
  | _, _ => none

/-! #### The clock follows its source (R246); the rule, which the spec leaves to the bandwidth `REGBW`, is log 8 -/

/-- The length of a cycle at the nominal rate, over `den`, and its bounds at nominal + 1 % and nominal − 10 % (R246, R251): a multiple of
`clockScale`, the nominal length divides exactly. -/
def nominalStep (s : State) (x : Region) : Nat := x.d * (sourcePeriod s x.src).1 * clockScale
def fastStep (nom : Nat) : Nat := nom / 101 * 100
def slowStep (nom : Nat) : Nat := nom / 9 * 10

/-- The mean period of a source over its last edges, at most 16 periods, as a fraction. -/
def meanPeriod (x : Region) (y : Source) : Nat × Nat :=
  let ts := y.times.take (min 17 x.goodN)
  match ts.head?, ts.getLast? with
  | some a, some b => if 1 < ts.length then (a - b, ts.length - 1) else (y.pnum, y.pden)
  | _, _ => (y.pnum, y.pden)

/-- The slot to which the clock brings an edge: the one whose window holds it; outside every window the nearest one, but none for a
single edge that comes late or early, which moves no phase. -/
def phaseSlot (x : Region) : Option Nat :=
  match slotHere x with
  | some sn => some sn
  | none =>
    let pos := x.frame * x.m + x.cyf
    let sn := slotIndex x
    if x.edges.any fun e => decide (sn ≤ e + 4) then none
    else some (if pos - slotStart x sn ≤ slotStart x (sn + 1) - pos then sn else sn + 1)

/-- The length of a cycle after an edge: the next slot is to begin one mean period after this edge, within the bounds. -/
def followStep (s : State) (x : Region) (y : Source) : Nat :=
  let nom := nominalStep s x
  let p := meanPeriod x y
  let raw := match phaseSlot x with
    | some sn =>
      let k := slotStart x (sn + 1) - (x.frame * x.m + x.cyf)
      ((s.tick * p.2 + p.1) * x.den / max 1 p.2 - x.num) / max 1 k
    | none => p.1 * x.d * x.den / max 1 (p.2 * x.m)
  max (fastStep nom) (min (slowStep nom) raw)

/-- The length of the next cycle. -/
def cycleStep (s : State) (x : Region) : Nat := if x.step = 0 then nominalStep s x else x.step

/-- An edge in a locked region: declaration of under-rate, the clamp, the rate, and the capture (R245, R246). -/
def lockedEdge (src r : Nat) (samples : List (Nat × BitVec 32)) (s : State) : State :=
  let x := getRegion s r
  let y := getSource s src
  let fast : Bool := match edgeSpan x y with | some n => decide (n * 101 * y.pden < 1600 * y.pnum) | none => x.clamp
  let under : Bool := match edgeSpan x y with | some n => decide (160 * y.pnum < n * 9 * y.pden) | none => false
  if under then declare r s
  else
    let step := if fast then fastStep (nominalStep s x) else followStep s x y
    let s1 := setRegion s r { x with clamp := fast, step := step }
    if fast then capture r src (slotIndex x) samples s1
    else
      match slotHere x with
      | some sn => capture r src sn samples s1
      | none => s1

/-- Whether the edge that came last is a frame boundary of its source at which a stopped region restarts (R249): frames of the source
are counted from the edge with which it returned (log 8). -/
def boundaryEdge (s : State) (x : Region) : Bool :=
  x.st == .stopped && (match x.goodT with | some g => decide (g + 2000 < s.tick) | none => false) &&
    decide (x.stopT < s.tick) && (x.goodN - 1) % max 1 x.d == 0

/-- An edge in a region whose source was declared lost or under-rate (R249). In holdover nothing is captured, but a window has its edge
(R262); the edge at which a stopped region restarts is that of the first slot that runs. -/
def returnedEdge (src r : Nat) (samples : List (Nat × BitVec 32)) (gap : Option Nat) (s : State) : State :=
  let x := getRegion s r
  let fresh : Bool := match x.goodT, gap with
    | some _, some dt => !inLock (getSource s src) dt
    | _, _ => true
  let edges := match x.st, slotHere x with
    | .holdover, some sn => sn :: x.edges.take 7
    | _, _ => x.edges
  let x1 := { x with relock := true, goodT := if fresh then some s.tick else x.goodT, goodN := if fresh then 1 else x.goodN + 1,
                     edges := edges }
  let s1 := setRegion s r x1
  if boundaryEdge s x1 then
    due [.regionRestart r] (capture r src (x.frame * x.d) samples
      (mapLatches (regionLatches s r) (fun l => { l with cap := [] }) (setRegion s1 r { x1 with clamp := false, edges := [] })))
  else s1

/-- What an edge does to one region (R245, R246, R249). -/
def edgeRegion (src : Nat) (samples : List (Nat × BitVec 32)) (gap : Option Nat) (s : State) (r : Nat) : State :=
  let x := getRegion s r
  match x.st with
  | .idle => s
  | .locked => lockedEdge src r samples (setRegion s r { x with goodN := x.goodN + 1 })
  | _ => returnedEdge src r samples gap s

/-- `SOURCE_EDGE` (R245, R246, R249): an edge of a stream source at the current house tick, with the samples of its lanes by
latch number. An edge is one of the driving lane (R245, R333): without such a lane nothing arrives. -/
def execSourceEdge (source : Nat) (samples : List (Nat × BitVec 32)) (s : State) : Out :=
  let y := getSource s source
  if source = 0 ∨ !y.sen ∨ (streamLane s source 0).isNone then .next s
  else
    let gap := y.times.head?.map fun t => s.tick - t
    let s1 := setSource s source { y with times := (s.tick :: y.times).take 17 }
    .next ((regionsOf s1 source).foldl (edgeRegion source samples gap) s1)

/-- Whether a region's source has given no edge for `LOSN` periods (R246). What holds before the first edge the spec leaves open: the
moment in which a region is locked to the source counts as one (`awaitEdge`, log 8). -/
def lossDue (s : State) (r : Nat) : Bool :=
  let x := getRegion s r
  let y := getSource s x.src
  x.src != 0 && y.pnum != 0 && y.pden != 0 && (match y.times.head? with
    | some t => decide (losn x * y.pnum ≤ (s.tick - t) * y.pden)
    | none => false) && (x.st == .locked || ((x.st == .holdover || x.st == .stopped) && x.goodT.isSome))

/-- `SOURCE_LOSS` (R246, R249): regions for which the source is lost go to holdover; where it had returned, the 20 µs begin
again. -/
def execSourceLoss (source : Nat) (s : State) : Out :=
  .next ((regionsOf s source).foldl (fun s r =>
    if lossDue s r then
      if (getRegion s r).st = .locked then declare r s else setRegion s r { getRegion s r with goodT := none }
    else s) s)

/-! ### Stop and restart -/

/-- Changes the crossings that a cluster of a region feeds, and those that a region reads. -/
def mapXings (f : Nat → Crossing → Crossing) (s : State) : State :=
  { s with xings := s.xings.map fun x => (x.1, f x.1 x.2) }

/-- A save that was ordered before its region stops completes: nothing of its snapshot waits for a clock that stands (R248). -/
def hastenSaves (cls : List Nat) (s : State) : State :=
  { s with cores := s.cores.map fun k =>
      (k.1, if cls.contains (k.1 / 16) && k.2.saveDue && decide (1 < k.2.snapLeft) then { k.2 with snapLeft := 1 } else k.2) }

/-- `REGION_STOP` (R247): at a frame boundary, a region in holdover. -/
def execRegionStop (region : Nat) (s : State) : Out :=
  let x := getRegion s region
  if x.st = .holdover ∧ x.cyf = 0 then
    let cls := regionClusters s region
    let s1 := hastenSaves cls (setRegion s region { x with st := .stopped, stopT := s.tick, edges := [] })
    let s2 := mapXings (fun c y => if cls.contains c then { y with upstop := true } else y) s1
    .next (eventRecord x.part 0x41 region x.frame x.declT s2)
  else .next s

/-- `REGION_RESTART` (R249, R257), at the frame boundary of the source that `returnedEdge` found: the region's first cycle begins with the
boundary's house tick, at the nominal rate until the next edge. -/
def execRegionRestart (region : Nat) (s : State) : Out :=
  let x := getRegion s region
  if boundaryEdge s x then
    let cls := regionClusters s region
    let s1 := setRegion s region { x with st := .locked, relock := false, goodT := none, num := s.tick * x.den, step := 0 }
    let s2 := mapLatches (regionLatches s region) (fun l => { l with stale := true }) s1
    let s3 := mapXings (fun c y =>
      if cls.contains c then { y with upstop := false, fresh := true }
      else if y.down = region then { y with fresh := true } else y) s2
    .next (eventRecord x.part 0x44 region x.frame (s.tick - x.stopT) s3)
  else .next s

/-! ### Windows and presentations -/

/-- `SLOT_WINDOW_CLOSE` (R246, R262): the window that closes with the current cycle. With no edge in it every latch of the region misses
a slot, and while the source is not lost there is an event; a clamp suspends the check. -/
def execSlotWindowClose (region : Nat) (s : State) : Out :=
  let x := getRegion s region
  match slotBefore x (slotHalf x) with
  | none => .next s
  | some sn =>
    if x.src = 0 ∨ (x.st ≠ .locked ∧ x.st ≠ .holdover) ∨ (x.st = .locked ∧ x.clamp) ∨ x.edges.contains sn then .next s
    else
      let s1 := mapLatches (regionLatches s region) (fun l => { l with miss := (l.miss + 1) % 2 ^ 32 }) s
      .next (if x.st = .locked then eventRecord x.part 0x43 region x.frame sn s1 else s1)

/-- What a latch presents for a slot (R245); under a clamp, whatever it captured last. -/
def present (clamp : Bool) (sn : Nat) (l : Latch) : Latch :=
  let rest := l.cap.filter fun c => decide (sn < c.2)
  match l.cap.find? (fun c => clamp || c.2 == sn) with
  | some c => { l with value := c.1, stale := false, snp := c.2 % 2 ^ 32, cap := if clamp then [] else rest }
  | none => { l with stale := true, cap := rest }

/-- `LATCH_PRESENTATION` (R245): in the cycle `IOFF` after a slot begins. -/
def execLatchPresentation (region : Nat) (s : State) : Out :=
  let x := getRegion s region
  match slotBefore x x.ioff with
  | none => .next s
  | some sn => .next (if x.src = 0 then s else mapLatches (regionLatches s region) (present x.clamp sn) s)

/-! ### Frame boundaries -/

/-- The table that a region takes for a frame (R330). -/
def leanSelect (s : State) (x : Region) : Bool :=
  let p := getPart s x.part
  if !x.hasLean then false
  else if p.acct < (p.low : Int) then true
  else if (p.low + energyNeed (getInst s (x.inst.getD 0)) : Int) ≤ p.acct then false
  else x.leanOn

/-- Entries of frames that are over are over too, in either table. -/
def closeFrames (x : Region) : Region :=
  let f := fun (e : TEntry) => if e.done = 0 ∧ e.frame < x.frame then { e with done := 2 } else e
  { x with table := x.table.map f, lean := x.lean.map f }

/-- `FRAME_BOUNDARY` (R236, R243, R246, R247, R282, R330): a frame begins. -/
def execFrameBoundary (region : Nat) (s : State) : Out :=
  let x := getRegion s region
  let s1 := if x.overN = 0 then s else eventRecord x.part 0x42 region (x.frame - 1) x.overN s
  let x1 := closeFrames { x with newFrame := false, overN := 0, leanOn := leanSelect s x }
  let s2 := (regionCores s region).foldl (fun s c =>
    let k := getCore s c
    if k.svused = 0 then s else setCore s c { k with svused := 0 }) (setRegion s1 region x1)
  let s3 := (s2.objs.map (·.1)).foldl (fun s k =>
    if keyLevel k = 3 ∧ (getObj s k).region = region then phaseCheck k s else s) s2
  let s4 := jobCheck (x.inst.getD 0) region s3
  .next (if x.st = .holdover then due [.regionStop region] s4 else s4)

/-! ### Crossings -/

/-- An integer quotient rounded to the nearest, ties to even (R21). -/
def divNE (a : Int) (b : Nat) : Int :=
  let q := a / (b : Int)
  let r := (a % (b : Int)).toNat
  if b < 2 * r ∨ (2 * r = b ∧ q % 2 ≠ 0) then q + 1 else q

/-- An entry of a crossing's history. -/
def histAt (x : Crossing) (lane : Nat) (n : Int) : Nat := (smGetD x.hist (65536 * lane + wrap 16 n) 0).toNat

/-- One step of the history: entry `sn` copies the one before in every lane, and entries long lost go (R254). -/
def histStep (x : Crossing) (sn : Nat) : Crossing :=
  let h := (List.range 8).foldl (fun h l =>
    smDel (smSet 0 h (65536 * l + sn % 65536) (smGetD h (65536 * l + (sn + 65535) % 65536) 0)) (65536 * l + (sn + 65536 - 18) % 65536)) x.hist
  { x with hist := h, slotS := sn }

/-- `HISTORY_SLOT_ADVANCE` (R254): an upstream slot begins; slots that a realignment dropped repeat the sample before them
(log 42). -/
def execHistorySlotAdvance (xing : Nat) (s : State) : Out :=
  let x := getXing s xing
  let sn := slotIndex (getRegion s (smGetD s.clusterRegion xing (xing / 16 * 8)))
  if x.run && x.slotS != sn then
    let n := if x.slotS < sn then min 18 (sn - x.slotS) else 1
    let from_ := fun (h : SMap (BitVec 32)) (l : Nat) =>
      smSet 0 h (65536 * l + (sn - n) % 65536) (smGetD x.hist (65536 * l + x.slotS % 65536) 0)
    let x0 := { x with hist := (List.range 8).foldl from_ x.hist }
    .next (setXing s xing ((List.range n).foldl (fun x i => histStep x (sn - (n - 1 - i))) x0))
  else .next s

/-- One lane of a computation (R256): value and marks. -/
def xingLane (x : Crossing) (phi : Nat) (n : Int) (lane : Nat) : Nat × Flags :=
  let fmt := x.xfmt.getD lane 0
  let taps := List.range (x.xntap + 1)
  let wt := fun (t : Nat) => sInt 16 (smGetD x.xw (8 * phi + t) 0).toNat
  if fmt = 2 then
    taps.foldl (fun (acc : Nat × Flags) t =>
      let w := wt t
      let r := fmaF .f32 .ne (.fin (decide (w < 0)) w.natAbs (-14)) (decodeF .f32 (histAt x lane (n - t))) (decodeF .f32 acc.1)
      (r.1, acc.2 ||| r.2)) (0, 0)
  else
    let w := if fmt = 0 then 16 else 32
    let sum := taps.foldl (fun (a : Int) t => a + wt t * sInt w (histAt x lane (n - t))) 0
    let r := satInt (divNE sum (2 ^ 14)) (intLo w false) (intHi w false)
    (wrap w r.1, r.2)

/-- One lane of a held output under `RAMP` (R257). At k = 16 an infinite last output makes 0 × ∞: the lane is the canonical NaN, and its
`INVALID` of R100 is dropped, as R257 lists `INX` alone as a mark (DESIGN CHOICE, log 58). -/
def rampLane (x : Crossing) (k lane : Nat) : Nat × Flags :=
  let fmt := x.xfmt.getD lane 0
  let v := ((x.last.getD lane 0) : BitVec 32).toNat
  if 16 < k then (0, 0)
  else if fmt = 2 then
    let r := mulF .f32 .ne (decodeF .f32 v) (.fin false (16 - k) (-4))
    (r.1, r.2 &&& fINX)
  else
    let w := if fmt = 0 then 16 else 32
    (wrap w (divNE (sInt w v * ((16 - k : Nat) : Int)) 16), 0)

/-- An output that is not computed (R257). -/
def holdOutput (x : Crossing) : Crossing := { x with stale := 0xFF, held := (x.held + 1) % 2 ^ 32, heldK := x.heldK + 1 }

/-- A held output while the upstream region is stopped (R257). -/
def holdStopped (x0 : Crossing) : Crossing :=
  let x := holdOutput x0
  if x.xstoppol = 0 then { x with out := x.last, marks := x.lastMk }
  else if x.xstoppol = 1 then { x with out := List.replicate 8 0, marks := 0 }
  else
    let ls := (List.range 8).map (rampLane x x.heldK)
    { x with out := ls.map fun l => BitVec.ofNat 32 l.1, marks := ls.foldl (fun f l => f ||| l.2) 0 }

/-- The tracking term at a downstream frame boundary (R258). -/
def trackXing (x : Crossing) (num : Int) (m : Nat) : Crossing :=
  let e := sInt 48 (wrap 48 (divNE (num - (x.xlag + x.p : Nat) * (m : Int)) m))
  { x with xadj := (satInt (e / (2 ^ x.xksh : Nat)) (-(x.xadjmax : Int)) x.xadjmax).1 }

/-- One computation (R255): `u` is the upstream tick, `m` and `d` the upstream region's, `boundary` the first slot of a
downstream frame. -/
def computeXing (u m d : Nat) (boundary : Bool) (x0 : Crossing) : Crossing :=
  let num : Int := (u * d * 2 ^ 32 : Nat)
  let sN := u * d / m
  let x1 := if x0.fresh then { x0 with p := wrap 48 (divNE (num - x0.xlag * (m : Int)) m), xadj := 0, fresh := false }
    else if boundary then trackXing x0 num m else x0
  let n : Int := (x1.p / 2 ^ 32 : Nat)
  let phi := x1.p / 2 ^ 28 % 16
  let x2 := if 15 - x1.xntap < wrap 16 ((sN : Int) - 1 - n) then { holdOutput x1 with pherr := true }
    else
      let ls := (List.range 8).map (xingLane x1 phi n)
      let out := ls.map fun l => BitVec.ofNat 32 l.1
      let mk := ls.foldl (fun f l => f ||| l.2) 0
      { x1 with out := out, last := out, marks := mk, lastMk := mk, stale := 0, heldK := 0 }
  { x2 with p := wrap 48 ((x2.p + x2.xstep : Nat) + x2.xadj), slast := sN % 2 ^ 32 }

/-- Whether a crossing computes in the current cycle of its downstream region (R255). -/
def xingDue (s : State) (xing : Nat) : Bool :=
  let x := getXing s xing
  let b := getRegion s x.down
  x.run && !b.stalled && b.st != .stopped && b.st != .idle && (slotBefore b x.xdoff).isSome

/-- `CROSSING_COMPUTE` (R255 to R258). The tracking term is recomputed with the first slot of a frame, from the position at
its computation: only so does it stay 0 at nominal rates (log 43). -/
def execCrossingCompute (xing : Nat) (s : State) : Out :=
  let x := getXing s xing
  if xingDue s xing then
    let a := getRegion s (smGetD s.clusterRegion xing (xing / 16 * 8))
    let b := getRegion s x.down
    if a.st = .stopped then .next (setXing s xing (holdStopped { x with upstop := true }))
    else
      let first := decide (slotBefore b x.xdoff = some (b.frame * b.d)) && decide (0 < b.frame)
      .next (setXing s xing (computeXing a.began a.m a.d first x))
  else .next s

end Sys2Proof.Machine
end

