-- ==== Sys2Proof/Machine/Package.lean ====
section
/-! DEFINITION. Partitions, keys and errors of memory (spec/18 R305 to R316), and management registers without behaviour of
their own (spec/01 R23). -/

namespace Sys2Proof.Machine

/-! ### Partition descriptors -/

/-- Bits of a `PARTDESC` that are not reserved and not fixed at zero (R309). -/
def partDescMask : Nat :=
  2 ^ 324 - 1 + (2 ^ 48 - 2 ^ 16) * 2 ^ 384 + (2 ^ 48 - 2 ^ 16) * 2 ^ 448 + (2 ^ 48 - 2 ^ 16) * 2 ^ 512 + (2 ^ 256 - 1) * 2 ^ 576
    + (2 ^ 55 - 2 ^ 16) * 2 ^ 832

/-- Reserved fields of a `PARTDESC` (R309). -/
def descReserved (d : Nat) : Nat :=
  bits d 324 60 + bits d 432 16 + bits d 496 16 + bits d 560 16 + bits d 887 137

/-- The resources that a descriptor names: clusters, quads, groups, keys. -/
def descHolds (d : Nat) : Nat := bits d 0 320 + bits d 576 256 * 2 ^ 320

/-- Whether a write to a `PARTDESC` is ignored as a whole (R310). -/
def descBad (s : State) (p : Nat) (new : Nat) : Bool :=
  let x := getPart s p
  let old := x.desc.toNat
  let active := old.testBit 323
  (active && (bits old 0 323 != bits new 0 323 || bits old 832 55 != bits new 832 55)) ||
  (s.parts.any fun y => y.1 != p && (descHolds y.2.desc.toNat &&& descHolds new) != 0) ||
  descReserved new != 0 || decide (5 ≤ bits new 320 3) ||
  ((List.range 12).any fun st => bits new (128 + 16 * st) 16 != 0 && bits new (64 + 16 * (st / 3)) 16 == 0) ||
  (new.testBit 323 && x.sweep != []) ||
  (active && (List.range 256).any fun k => old.testBit (576 + k) && !new.testBit (576 + k) && !keyRevoked s k)

/-- A request without what it would still land in a cluster; one that the cluster's cores issued is over (R311). -/
def dropLandings (cl : Nat) (r : Req) : Req :=
  if r.core / 16 = cl then { r with complete := true, pieces := [] }
  else { r with pieces := r.pieces.map fun p =>
    if p.stage < 2 ∧ (landCore p.dst).any (· / 16 == cl) then { p with stage := 2, buf := [] } else p }

/-- A cluster is given: its cores, data windows, crossing, latches and engine hold nothing of a former owner, whose requests land
nothing there (R220, R311). -/
def zeroCluster (cl : Nat) (s : State) : State :=
  let clear := fun (k : Core) => ({ gen := k.gen, dlreload := k.dlreload, dlen := k.dlen, dbghold := k.dbghold } : Core)
  let window := fun (c : Nat × Byte) => decide (65536 * cl + 0xC000 ≤ c.1) && decide (c.1 < 65536 * cl + 65536)
  { s with
    cores := s.cores.map fun k => if k.1 / 16 = cl then (k.1, clear k.2) else k
    reqs := s.reqs.map fun x => (x.1, dropLandings cl x.2)
    store := s.store.filter fun c => !window c
    twes := smPut s.twes cl {}
    xings := smDel s.xings cl
    latches := s.latches.filter fun l => l.1 / 4 != cl }

/-- Bytes of a kind of memory read 0 (R311, R312). -/
def zeroWhere (f : PaKind → Bool) (s : State) : State :=
  { s with
    mem := s.mem.filter fun c => !f (paKind c.1)
    tags := s.tags.filter fun c => !f (paKind (c.1 * 64))
    ftags := s.ftags.filter fun c => !f (paKind (c.1 * 65536))
    poison := s.poison.filter fun u => !f (paKind (u * 64)) }

/-- A slice of some quads. -/
def inQuads (qs : Nat) : PaKind → Bool
  | .slice die k _ => qs.testBit (16 * die + k / 4)
  | _ => false

/-- A byte of some groups. -/
def inGroups (gs : List (Nat × Nat)) : PaKind → Bool
  | .hbm st g => gs.contains (st, g)
  | _ => false

/-- A `tlbi.all.package` of the kernel for a partition (R215, R223). -/
def flushPart (p : Nat) (s : State) : State :=
  { s with tlbis := smPut s.tlbis s.nextReq { core := 0, part := p, scope := 3, lo := 0, hi := 2 ^ 55 }, nextReq := s.nextReq + 1 }

/-- What a descriptor gives its partition (R311): clusters and quads zeroed at once, groups in the background, of those that it still
owns; a change of `SLSPLIT` zeroes every slice; a change of `PTROOT` empties the TLBs (R215). Quads that the partition no longer holds
take with them the dirty lines that they cached for it: the next owner is given them emptied without write-back (log 60). -/
def giveResources (p old new : Nat) (s : State) : State :=
  let gained := fun (i : Nat) => new.testBit i && !old.testBit i
  let lost := bits old 64 64 - (bits old 64 64 &&& bits new 64 64)
  let s0 := if lost = 0 then s else dropCached (cachedIn s p lost) s
  let s1 := ((List.range 64).filter gained).foldl (fun s cl => zeroCluster cl s) s0
  let quads := if bits old 320 3 ≠ bits new 320 3 then bits new 64 64 else bits new 64 64 - (bits new 64 64 &&& bits old 64 64)
  let s2 := if quads = 0 then s1 else zeroWhere (inQuads quads) s1
  let gs := ((List.range 192).filter fun i => gained (128 + i)).map fun i => (i / 16, i % 16)
  let x := getPart s2 p
  let kept := x.sweep.filter fun g => new.testBit (128 + 16 * g.1 + g.2)
  let s3 := setPart s2 p { x with desc := BitVec.ofNat 1024 (new &&& partDescMask), sweep := kept ++ gs }
  if bits old 384 48 = bits new 384 48 then s3 else flushPart p s3

/-- `PARTDESC` written (R310, R311). -/
def execPartdescWrite (part : Nat) (desc : BitVec 1024) (s : State) : Out :=
  if descBad s part desc.toNat then .next s
  else .next (giveResources part (getPart s part).desc.toNat desc.toNat s)

/-- `PTROOT` written (R215). -/
def execPtrootWrite (part : Nat) (v : Word) (s : State) : Out :=
  let x := getPart s part
  let d := x.desc.toNat
  let root := bits v.toNat 16 32 * 2 ^ 16
  let new := d - bits d 384 48 * 2 ^ 384 + root * 2 ^ 384
  .next (flushPart part (setPart s part { x with desc := BitVec.ofNat 1024 new }))

/-- `GROUP_SWEEP_DONE` (R311): every byte of the groups reads 0, and `SWEEP` clears. -/
def execGroupSweepDone (part : Nat) (s : State) : Out :=
  let x := getPart s part
  .next (setPart (zeroWhere (inGroups x.sweep) s) part { x with sweep := [] })

/-! ### Keys -/

/-- `KEYLOAD` (R313). -/
def execKeyload (slot : Nat) (pair : BitVec 512) (s : State) : Out :=
  let k := getKey s slot
  if (k.valid && !k.revoked) || bits pair.toNat 0 256 == bits pair.toNat 256 256 then .next s
  else .next { s with keys := smPut s.keys slot { valid := true, revoked := false, pair := pair, loads := k.loads + 1 } }

/-- `KEYCMD` with revoke (R313, R314): in one cycle at every home; dirty lines cached under the slot are not written back. -/
def execKeyRevoke (slot : Nat) (s : State) : Out :=
  .next (dropCached (cachedUnder s slot) { s with keys := smPut s.keys slot { getKey s slot with revoked := true } })

/-! ### Errors in memory -/

/-- The partition that owns the memory at an address (R308). -/
def paOwner (s : State) (pa : Nat) : Option Nat :=
  let k := paKind pa
  (s.parts.find? fun x => partOwnsPa x.1 x.2 k || partCachePa x.2 k).map (·.1)

/-- A corrected error is counted (R305). -/
def countCorrected (p pa : Nat) (s : State) : State :=
  let x := getPart s p
  let n := (x.cecnt + 1) % 2 ^ 32
  let s1 := setPart s p { x with cecnt := n }
  if n % 4096 = 0 then errorRecord p 5 0 0 0 0 0 (pa / 64 * 64) none s1 else s1

/-- Sectors that become poisoned (R306). -/
def poisonMore (us : List Nat) (s : State) : State := { s with poison := s.poison ++ us.filter fun u => !s.poison.contains u }

/-- A line of memory that the scrubber finds without an error, with a corrected one, or with an uncorrectable one (R305, R306); the marker
of a poisoned sector is an uncorrectable error to every later read. -/
def scrubLine (pa : Nat) (err : Fin 3) (s : State) : State :=
  match paOwner s pa with
  | none => s
  | some p =>
    let s1 := if err.val = 1 then countCorrected p pa s else s
    if err.val = 2 ∨ poisoned s (pa / 256 * 256) 256 then
      let u := pa / 256 * 4
      errorRecord p 4 0 0 0 0 0 (pa / 64 * 64) none (poisonMore [u, u + 1, u + 2, u + 3] s1)
    else s1

/-- A sector in which another reader meets a corrected error or an uncorrectable one, which poisons it (R305, R306); the consumer records
it (R227). -/
def readError (pa : Nat) (err : Fin 3) (s : State) : State :=
  match paOwner s pa with
  | none => s
  | some p => if err.val = 0 then s else if err.val = 1 then countCorrected p pa s else poisonMore [pa / 64] s

/-- A word of a core's own memory with a corrected error, or with one that stays until a write covers it (R305, R307). -/
def scrubWord (core : Nat) (m : Sram) (word : Nat) (err : Fin 3) (s : State) : State :=
  if err.val = 0 then s
  else if err.val = 1 then countCorrected ((ownerPart s core).getD 0) 0 s
  else
    let k := getCore s core
    setCore s core { k with badWords := (m, word) :: k.badWords.filter (· != (m, word)) }

/-- `PATROL_SCRUB` (R305, R306): the scrubber reads a line. The row also stands for an error that another read meets, and for one in a
core's own memory, which have no row of their own (log 57). -/
def execPatrolScrub (w : ErrAt) (err : Fin 3) (s : State) : Out :=
  match w with
  | .mem pa => .next (scrubLine pa err s)
  | .read pa => .next (readError pa err s)
  | .sram core m word => .next (scrubWord core m word err s)

end Sys2Proof.Machine
end

