-- ==== Sys2Proof/Machine/Hash.lean ====
section
/-! DEFINITION. The functions by which the loader measures and verifies an image (spec/19 R323 to R326): SHA-256 of FIPS 180-4, and
the verification and the signature of HashSLH-DSA-SHA2-128s of FIPS 205, with SHA-256 as the pre-hash and an empty context string (log 53). -/

namespace Sys2Proof.Machine

/-! ### SHA-256 -/

/-- The `n` low bytes of a number, the most significant first. -/
def beBytes (n v : Nat) : List Byte := (leBytes n v).reverse
/-- The number that bytes hold, the first most significant. -/
def beNat (bs : List Byte) : Nat := leNat bs.reverse

/-- The largest r of `n` bits more than those of `r0` whose power does not exceed v. -/
def rootBits (pow v : Nat) : Nat → Nat → Nat
  | 0, r => r
  | n + 1, r => rootBits pow v n (if (r + 2 ^ n) ^ pow ≤ v then r + 2 ^ n else r)

/-- The first 64 primes; the words that FIPS 180-4 takes from the fractions of their square and cube roots. -/
def shaPrimes : List Nat := (List.range 312).filter fun n => decide (2 ≤ n) && (List.range n).all fun d => decide (d < 2) || n % d != 0
def shaStart : List (BitVec 32) := (shaPrimes.take 8).map fun p => BitVec.ofNat 32 (rootBits 2 (p * 2 ^ 64) 40 0)
def shaWords : List (BitVec 32) := shaPrimes.map fun p => BitVec.ofNat 32 (rootBits 3 (p * 2 ^ 96) 40 0)

/-- The message schedule: the newest word first, `n` of them still to come. -/
def shaSchedule : Nat → List (BitVec 32) → List (BitVec 32)
  | 0, ws => ws
  | n + 1, ws =>
    let at_ := fun i => ws.getD i 0
    let a := at_ 14
    let b := at_ 1
    let s0 := a.rotateRight 7 ^^^ a.rotateRight 18 ^^^ (a >>> 3)
    let s1 := b.rotateRight 17 ^^^ b.rotateRight 19 ^^^ (b >>> 10)
    shaSchedule n ((at_ 15 + s0 + at_ 6 + s1) :: ws)

/-- One round on the eight working words. -/
def shaRound (v : List (BitVec 32)) (kw : BitVec 32) : List (BitVec 32) :=
  let x := fun i => v.getD i 0
  let pick := (x 4 &&& x 5) ^^^ (~~~x 4 &&& x 6)
  let most := (x 0 &&& x 1) ^^^ (x 0 &&& x 2) ^^^ (x 1 &&& x 2)
  let up := (x 4).rotateRight 6 ^^^ (x 4).rotateRight 11 ^^^ (x 4).rotateRight 25
  let down := (x 0).rotateRight 2 ^^^ (x 0).rotateRight 13 ^^^ (x 0).rotateRight 22
  let t := x 7 + up + pick + kw
  [t + down + most, x 0, x 1, x 2, x 3 + t, x 4, x 5, x 6]

/-- A block of 64 bytes. -/
def shaBlock (h : List (BitVec 32)) (b : List Byte) : List (BitVec 32) :=
  let first := (List.range 16).map fun i => BitVec.ofNat 32 (beNat ((b.drop (4 * i)).take 4))
  let ws := (shaSchedule 48 first.reverse).reverse
  List.zipWith (· + ·) h ((List.zipWith (· + ·) shaWords ws).foldl shaRound h)

/-- SHA-256: the message, a one bit, zeros and the length in bits, block by block. -/
def sha256 (m : List Byte) : List Byte :=
  let n := m.length
  let all := m ++ 0x80 :: List.replicate ((119 - n % 64) % 64) 0 ++ beBytes 8 (8 * n)
  let h := (List.range (all.length / 64)).foldl (fun h i => shaBlock h ((all.drop (64 * i)).take 64)) shaStart
  h.flatMap fun w => beBytes 4 w.toNat

/-! ### SLH-DSA-SHA2-128s: n = 16, h = 63, d = 7, a = 12, k = 14, w = 16 -/

/-- An address: layer, tree, type, and the three words that the types use. -/
structure SlhAddr where
  layer : Nat := 0
  tree  : Nat := 0
  type  : Nat := 0
  pair  : Nat := 0
  x     : Nat := 0
  y     : Nat := 0
  deriving DecidableEq, Repr

/-- The compressed form, 22 bytes. -/
def SlhAddr.bytes (a : SlhAddr) : List Byte :=
  beBytes 1 a.layer ++ beBytes 8 a.tree ++ beBytes 1 a.type ++ beBytes 4 a.pair ++ beBytes 4 a.x ++ beBytes 4 a.y

/-- The tweakable hash, for messages of any length. -/
def slhHash (seed : List Byte) (a : SlhAddr) (m : List Byte) : List Byte :=
  (sha256 (seed ++ List.replicate 48 0 ++ a.bytes ++ m)).take 16

/-- The i-th block of 16 bytes. -/
def slhPart (s : List Byte) (i : Nat) : List Byte := (s.drop (16 * i)).take 16

/-- Digits of `b` bits, the most significant first. -/
def slhDigits (b n : Nat) (bs : List Byte) : List Nat :=
  (List.range n).map fun i => beNat bs / 2 ^ (8 * bs.length - b * (i + 1)) % 2 ^ b

/-- The root over a leaf, `n` levels up from level `l`: `i` is the node's number among those of its level, `auth` holds a sibling for
each level. -/
def slhClimb (seed : List Byte) (a : SlhAddr) (auth : List Byte) : Nat → Nat → Nat → List Byte → List Byte
  | 0, _, _, node => node
  | n + 1, l, i, node =>
    let here := { a with x := l + 1, y := i / 2 }
    let sib := slhPart auth l
    slhClimb seed a auth n (l + 1) (i / 2) (slhHash seed here (if i % 2 = 0 then node ++ sib else sib ++ node))

/-- The few-time public key that a signature leads to. -/
def slhForest (seed : List Byte) (a : SlhAddr) (md sig : List Byte) : List Byte :=
  let roots := (slhDigits 12 14 md).zipIdx.flatMap fun d =>
    let s := sig.drop (208 * d.2)
    let leaf := 4096 * d.2 + d.1
    slhClimb seed a (s.drop 16) 12 0 leaf (slhHash seed { a with y := leaf } (s.take 16))
  slhHash seed { a with type := 4 } roots

/-- Steps of a hash chain. -/
def slhChain (seed : List Byte) (a : SlhAddr) : Nat → Nat → List Byte → List Byte
  | 0, _, v => v
  | n + 1, i, v => slhChain seed a n (i + 1) (slhHash seed { a with y := i } v)

/-- The one-time public key that a signature leads to. -/
def slhOnce (seed : List Byte) (a : SlhAddr) (m sig : List Byte) : List Byte :=
  let ds := slhDigits 4 32 m
  let sum := (ds.map fun d => 15 - d).sum
  let ends := (ds ++ slhDigits 4 3 (beBytes 2 (16 * sum))).zipIdx.flatMap fun d =>
    slhChain seed { a with x := d.2 } (15 - d.1) d.1 (slhPart sig d.2)
  slhHash seed { a with type := 1 } ends

/-- The root that the signatures of the layers lead to, from the lowest layer up. -/
def slhTower (seed sig : List Byte) : Nat → Nat → Nat → Nat → List Byte → List Byte
  | 0, _, _, _, node => node
  | n + 1, j, tree, leaf, node =>
    let s := (sig.drop (704 * j)).take 704
    let a : SlhAddr := { layer := j, tree := tree, pair := leaf }
    let pk := slhOnce seed a node s
    let root := slhClimb seed { a with type := 2, pair := 0 } (s.drop 560) 9 0 leaf pk
    slhTower seed sig n (j + 1) (tree / 512) (tree % 512) root

/-- What is signed in place of a message: the pre-hash with its object identifier, under the empty context. -/
def slhMessage (m : List Byte) : List Byte := [1, 0, 6, 9, 96, 134, 72, 1, 101, 3, 4, 2, 1] ++ sha256 m

/-- What a message and its randomizer select: the digits of the few-time key, the tree of the lowest layer and the leaf in it. -/
def slhSelect (seed root r m1 : List Byte) : List Byte × Nat × Nat :=
  let digest := sha256 (r ++ seed ++ sha256 (r ++ seed ++ root ++ m1) ++ beBytes 4 0)
  (digest.take 21, beNat ((digest.drop 21).take 7) % 2 ^ 54, beNat ((digest.drop 28).take 2) % 2 ^ 9)

/-- Whether a signature of 7,856 bytes over bytes verifies under a public key of 32 (R323). -/
def slhVerify (pk m sig : List Byte) : Bool :=
  let seed := pk.take 16
  let root := (pk.drop 16).take 16
  let at_ := slhSelect seed root (sig.take 16) (slhMessage m)
  let few := slhForest seed { tree := at_.2.1, type := 3, pair := at_.2.2 } at_.1 ((sig.drop 16).take 2912)
  decide (sig.length = 7856) && slhTower seed (sig.drop 2928) 7 0 at_.2.1 at_.2.2 few == root

/-! ### Signing (R325) -/

/-- The node of a binary tree over leaves `i * 2^l` on, `l` levels up. -/
def slhNode (seed : List Byte) (a : SlhAddr) (leaf : Nat → List Byte) : Nat → Nat → List Byte
  | 0, i => leaf i
  | l + 1, i => slhHash seed { a with x := l + 1, y := i } (slhNode seed a leaf l (2 * i) ++ slhNode seed a leaf l (2 * i + 1))

/-- The siblings on the way from a leaf up to level `n`. -/
def slhPath (seed : List Byte) (a : SlhAddr) (leaf : Nat → List Byte) (n i : Nat) : List Byte :=
  (List.range n).flatMap fun l => slhNode seed a leaf l (Nat.xor (i / 2 ^ l) 1)

/-- Secret starts of chains, the signature of a node, and the one-time public key of a leaf. -/
def slhStart (sk seed : List Byte) (a : SlhAddr) (i : Nat) : List Byte := slhHash seed { a with type := 5, x := i } sk
def slhOnceSign (sk seed : List Byte) (a : SlhAddr) (m : List Byte) : List Byte :=
  let ds := slhDigits 4 32 m
  let sum := (ds.map fun d => 15 - d).sum
  (ds ++ slhDigits 4 3 (beBytes 2 (16 * sum))).zipIdx.flatMap fun d =>
    slhChain seed { a with x := d.2 } d.1 0 (slhStart sk seed a d.2)
def slhOnceKey (sk seed : List Byte) (a : SlhAddr) : List Byte :=
  slhHash seed { a with type := 1 } ((List.range 35).flatMap fun i => slhChain seed { a with x := i } 15 0 (slhStart sk seed a i))

/-- Secret leaves of the few-time key, and its signature of digits. -/
def slhSecret (sk seed : List Byte) (a : SlhAddr) (i : Nat) : List Byte := slhHash seed { a with type := 6, y := i } sk
def slhForestSign (sk seed : List Byte) (a : SlhAddr) (md : List Byte) : List Byte :=
  (slhDigits 12 14 md).zipIdx.flatMap fun d =>
    let i := 4096 * d.2 + d.1
    slhSecret sk seed a i ++ slhPath seed a (fun j => slhHash seed { a with y := j } (slhSecret sk seed a j)) 12 i

/-- The signatures of the layers, from the lowest up, over a node. -/
def slhTowerSign (sk seed : List Byte) : Nat → Nat → Nat → Nat → List Byte → List Byte
  | 0, _, _, _, _ => []
  | n + 1, j, tree, leaf, node =>
    let a : SlhAddr := { layer := j, tree := tree }
    let key := fun (i : Nat) => slhOnceKey sk seed { a with pair := i }
    let up := slhNode seed { a with type := 2 } key 9 0
    slhOnceSign sk seed { a with pair := leaf } node ++ slhPath seed { a with type := 2 } key 9 leaf ++
      slhTowerSign sk seed n (j + 1) (tree / 512) (tree % 512) up

/-- HMAC with SHA-256 under a key of 16 bytes. -/
def hmac (key m : List Byte) : List Byte :=
  let pad := fun (x : Byte) => (key ++ List.replicate 48 0).map (· ^^^ x)
  sha256 (pad 0x5C ++ sha256 (pad 0x36 ++ m))

/-- The signature of bytes under a private key of 64 bytes (two secrets, then the public key), with 16 random bytes. -/
def slhSign (sk rnd m : List Byte) : List Byte :=
  let seed := slhPart sk 2
  let m1 := slhMessage m
  let r := (hmac (slhPart sk 1) (rnd ++ m1)).take 16
  let at_ := slhSelect seed (slhPart sk 3) r m1
  let a : SlhAddr := { tree := at_.2.1, type := 3, pair := at_.2.2 }
  let few := slhForestSign (slhPart sk 0) seed a at_.1
  r ++ few ++ slhTowerSign (slhPart sk 0) seed 7 0 at_.2.1 at_.2.2 (slhForest seed a at_.1 few)

end Sys2Proof.Machine
end

