-- ==== Sys2Proof/Machine/Loader.lean ====
section
/-! DEFINITION. The steep loader, the host window, attestation, boot, features and energy (spec/19 R319 to R332, with the
image rules of spec/01 R14, R15, R20 and spec/12 R229, R230). The byte layouts that the spec names without fixing are those
of log 10; where things are placed is open (log 11). -/

namespace Sys2Proof.Machine

/-! ### Host memory -/

/-- The physical address behind an offset in host-managed device memory: group 0 of stack 0 (R303, R319). -/
def hdmPa (o : Nat) : Nat := o / 65536 * 2 ^ 20 + o % 65536

/-- Whether a host physical address lies in the device's own range (R319). -/
def inHdm (a : Nat) : Bool := decide (Config.hdmBase ≤ a) && decide (a < Config.hdmBase + 2 ^ 32)

/-- A byte at a host physical address. -/
def hostByte (s : State) (a : Nat) : Byte := if inHdm a then mRead s.mem (hdmPa (a - Config.hdmBase)) else mRead s.host a

/-- Writes bytes at a host physical address. -/
def hostWrite (s : State) (a : Nat) : List Byte → State
  | [] => s
  | b :: bs =>
    hostWrite (if inHdm a then { s with mem := mWrite s.mem (hdmPa (a - Config.hdmBase)) b } else { s with host := mWrite s.host a b })
      (a + 1) bs

/-! ### Images -/

/-- A byte string. -/
abbrev Bytes := Nat → Byte

/-- The number in `n` bytes from an offset. -/
def imgNat (b : Bytes) (off n : Nat) : Nat := leNat ((List.range n).map fun i => b (off + i))

/-- Bytes of an image. -/
def imgBytes (b : Bytes) (off n : Nat) : List Byte := (List.range n).map fun i => b (off + i)

/-- A section of the directory (R321). -/
structure Sect where
  ty  : Nat
  off : Nat
  len : Nat
  deriving DecidableEq, Repr

/-- An entry of a timetable as the image holds it (R14, R321): six fields of four bytes (log 10). -/
structure RawEntry where
  region : Nat
  frame  : Nat
  cyf    : Nat
  core   : Nat
  entry  : Nat
  budget : Nat
  deriving DecidableEq, Repr

def imgLen (b : Bytes) : Nat := imgNat b 8 8
def imgSects (b : Bytes) : List Sect :=
  (List.range (min 256 (imgNat b 0x20 4))).map fun i => ⟨imgNat b (0x40 + 16 * i) 4, imgNat b (0x48 + 16 * i) 4, imgNat b (0x4C + 16 * i) 4⟩

/-- The signature's bytes (R321). -/
def sigLen : Nat := 7856

/-- `MEAS` (R324): the digest, its first byte in bits [7:0]; and whether an image's signature verifies (R323 item 2). -/
def imgMeas (b : Bytes) : BitVec 256 := BitVec.ofNat 256 (leNat (sha256 (imgBytes b 0 (imgLen b))))
def imgSigned (key : BitVec 256) (b : Bytes) : Bool :=
  let n := imgLen b - sigLen
  slhVerify (leBytes 32 key.toNat) (imgBytes b 0 n) (imgBytes b n sigLen)

/-- Sections of a type. -/
def sectsOf (ss : List Sect) (ty : Nat) : List Sect := ss.filter fun x => x.ty == ty

/-- The one section of a type. -/
def sectOf (ss : List Sect) (ty : Nat) : Option Sect := (sectsOf ss ty).head?

/-- Claims in the order of R15; an image without them claims nothing. -/
def imgClaims (b : Bytes) (ss : List Sect) : List Nat :=
  match sectOf ss 1 with
  | some x => (List.range 7).map fun i => imgNat b (x.off + 8 * i) 8
  | none => List.replicate 7 0

/-- The region table: `REGCFG` and stream index (R321), 24 bytes each (log 10). -/
def imgRegions (b : Bytes) (ss : List Sect) : List (Nat × Nat) :=
  match sectOf ss 2 with
  | some x => (List.range (x.len / 24)).map fun i => (imgNat b (x.off + 24 * i) 16, imgNat b (x.off + 24 * i + 16) 8)
  | none => []

/-- A timetable. -/
def imgTable (b : Bytes) (ss : List Sect) (ty : Nat) : List RawEntry :=
  match sectOf ss ty with
  | some x => (List.range (x.len / 24)).map fun i =>
      let f := fun (k : Nat) => imgNat b (x.off + 24 * i + 4 * k) 4
      ⟨f 0, f 1, f 2, f 3, f 4, f 5⟩
  | none => []

/-- Whether a policy section has no reserved code in any of its entries (R20, R37): none can come to stand in a register (R60; log
10). -/
def policyOk (b : Bytes) (x : Sect) : Bool :=
  let w := fun (k : Nat) => imgNat b (x.off + 8 * k) 8
  !sysBad .mempol (w 0 % 2 ^ 16) && !sysBad .poltabl (w 1) && !sysBad .poltabh (w 2 % 2 ^ 48)

/-- Whether a section has a length that its type allows. -/
def sectLenOk (b : Bytes) (ss : List Sect) (x : Sect) : Bool :=
  match x.ty with
  | 1 => x.len == 56
  | 2 | 3 | 4 => x.len % 24 == 0
  | 6 => decide (8 ≤ x.len) && decide ((b x.off).toNat ≤ 2)
  | 7 => x.len % 1024 == 0
  | 8 => x.len % 16 == 0
  | 9 => x.len == 24 + 8 * (imgRegions b ss).length && policyOk b x
  | _ => true

/-- Feature bits (R327). -/
def feature (s : State) (n : Nat) : Bool := s.mgmt.featAccept.getLsbD n

/-- The format check (R321, R323 item 1). -/
def formatOk (s : State) (part : Nat) (b : Bytes) : Bool :=
  let n := imgNat b 0x20 4
  let ss := imgSects b
  let len := imgLen b
  imgNat b 0 4 == 0x31564B49 && imgNat b 4 2 == 1 && decide (imgNat b 6 1 ≤ 7) && imgNat b 7 1 == 0 &&
  decide (len ≤ 2 ^ 32) && decide (1 ≤ n) && decide (n ≤ 256) && decide (0x40 + 16 * n + sigLen ≤ len) && imgNat b 0x24 28 == 0 &&
  ((List.range n).all fun i => imgNat b (0x44 + 16 * i) 4 == 0) &&
  (ss.all fun x => decide (1 ≤ x.ty) && decide (x.ty ≤ 9) && decide (x.off + x.len + sigLen ≤ len) && sectLenOk b ss x) &&
  decide ((sectsOf ss 5).length ≤ 8) && ([1, 2, 3, 4, 8, 9].all fun t => decide ((sectsOf ss t).length ≤ 1)) &&
  (feature s 4 || (sectsOf ss 4).isEmpty) && partActive (getPart s part)

/-! ### Claims, regions, resources -/

/-- Live instances of a partition. -/
def partInsts (s : State) (p : Nat) : List Inst := (s.insts.filter fun x => x.2.live && x.2.part == p).map (·.2)

/-- Clusters of a partition that no region has. -/
def looseClusters (s : State) (p : Nat) : List Nat := (partClusters (getPart s p)).filter fun c => (smGet s.clusterRegion c).isNone

/-- Stream sources of a partition (R241, R333): those whose driving lane it owns; and those that no instance has. -/
def partSources (s : State) (p : Nat) : List Nat :=
  ((List.range 32).drop 1).filter fun n => match streamLane s n 0 with | some v => v % 16 == p && (getSource s n).sen | none => false
def looseSources (s : State) (p : Nat) : List Nat :=
  (partSources s p).filter fun n => !(partInsts s p).any fun i => i.sources.contains n

/-- A claim of a kind, in the order of R15. -/
def claimOf (cl : List Nat) (k : Nat) : Nat := cl.getD k 0

/-- Stream indices that an image's regions bind: regions whose `SRC` is not the house source. -/
def boundStreams (rs : List (Nat × Nat)) : List Nat := ((rs.filter fun r => bits r.1 36 5 != 0).map (·.2)).eraseDups

/-- The first kind of claim that the partition cannot meet (R15, R323 item 4); a region is free to it on a die where it has clusters
without one. A bind for which no job object is free has no kind of
its own; it is refused with the regions (log 10). The slots of `wheel` are checked as octets (R267). -/
def claimFail (s : State) (p : Nat) (cl : List Nat) (rs : List (Nat × Nat)) : Option Nat :=
  let used := fun k => ((partInsts s p).map fun i => claimOf i.claims k).sum
  let dies := (looseClusters s p).map (· / 16)
  let freeRegions := (List.range 32).countP fun r => (getRegion s r).inst.isNone && dies.contains (r / 8)
  if 16 * (looseClusters s p).length < claimOf cl 0 then some 0
  else if 24 < claimOf cl 1 then some 1
  else if (ownSlices (getPart s p)).length < claimOf cl 2 + used 2 then some 2
  else if claimOf cl 3 < rs.length ∨ freeRegions < claimOf cl 3 ∨ (freeObj s 4 p 0).isNone then some 3
  else if claimOf cl 4 < (boundStreams rs).length ∨ (looseSources s p).length < claimOf cl 4 then some 4
  else none

/-- The region that an image core belongs to (R242). -/
def coreHome (es : List RawEntry) (core : Nat) : Nat := ((es.find? fun e => e.core == core).map (·.region)).getD 0

/-- The source that an image region is locked to: the k-th free stream source for the k-th stream index (log 11). -/
def regionSource (s : State) (p : Nat) (rs : List (Nat × Nat)) (r : Nat × Nat) : Option Nat :=
  if bits r.1 36 5 = 0 then some 0 else (looseSources s p)[(boundStreams rs).idxOf r.2]?

/-- Whether the numbers of a region are legal (R14, R242 to R244). -/
def regionOk (s : State) (p : Nat) (rs : List (Nat × Nat)) (r : Nat × Nat) : Bool :=
  let m := bits r.1 0 24
  let d := bits r.1 24 12
  let ioff := bits r.1 64 24
  match regionSource s p rs r with
  | none => false
  | some src =>
    let q := sourcePeriod s src
    decide (1 ≤ m) && decide (1 ≤ d) && decide (0 < q.1) && decide (0 < q.2) && decide (350 * q.1 * d ≤ 100 * q.2 * m) &&
    decide (100 * q.2 * m ≤ 1400 * q.1 * d) && (src == 0 || (feature s 1 && decide (4 * d ≤ m))) &&
    decide (m / (4 * d) < ioff) && decide (ioff < m / d)

/-- The cycles of the releases of a core within a frame (R14). -/
def coreLoad (meas : BitVec 256) (es : List (RawEntry × Nat)) (core frame : Nat) : Nat :=
  ((es.filter fun e => e.1.core == core && e.1.frame == frame).map fun e => Config.entryCycles meas e.2).sum

/-- The region that fails the checks of R14 and R242 to R244, if one does (R323 item 4). -/
def regionFail (s : State) (p : Nat) (meas : BitVec 256) (cl : List Nat) (rs : List (Nat × Nat)) (es ls : List RawEntry) : Option Nat :=
  match (List.range rs.length).find? (fun i => !regionOk s p rs (rs.getD i (0, 0))) with
  | some i => some i
  | none =>
    match ((es ++ ls).find? fun e => decide (rs.length ≤ e.region) || decide (bits (rs.getD e.region (0, 0)).1 0 24 ≤ e.cyf) ||
        decide (claimOf cl 0 ≤ e.core) || coreHome (es ++ ls) e.core != e.region) with
    | some e => some e.region
    | none =>
      let full := fun (t : List RawEntry) (base : Nat) => (t.find? fun e =>
        decide (bits (rs.getD e.region (0, 0)).1 0 24 < coreLoad meas (t.zipIdx base) e.core e.frame)).map (·.region)
      match full es 0 with
      | some r => some r
      | none => full ls es.length

/-- Image cores of a region, in order (R242). -/
def coresOf (es : List RawEntry) (n r : Nat) : List Nat := (List.range n).filter fun c => coreHome es c == r

/-- Where one region goes: a hardware region number and clusters of one die, among clusters not yet taken (log 11). -/
def placeRegion (s : State) (loose taken regs : List Nat) (need : Nat) : Option (Nat × List Nat) :=
  ((List.range 4).findSome? fun die =>
    let cls := loose.filter fun c => c / 16 == die && !taken.contains c
    let free := (List.range 8).find? fun r => !regs.contains (8 * die + r) && (getRegion s (8 * die + r)).inst.isNone
    match free with
    | some r => if need ≤ cls.length then some (8 * die + r, cls.take need) else none
    | none => none)

/-- Where every region goes, in the order of the table. -/
def placeAll (s : State) (loose : List Nat) (es : List RawEntry) (ncore nreg : Nat) : Option (List (Nat × List Nat)) :=
  (List.range nreg).foldl (fun acc i =>
    match acc with
    | none => none
    | some ps =>
      (placeRegion s loose (ps.flatMap (·.2)) (ps.map (·.1)) (ceilDiv (coresOf es ncore i).length 16)).map fun q => ps ++ [q]) (some [])

/-- The core id of each image core. -/
def placedCores (es : List RawEntry) (ncore : Nat) (ps : List (Nat × List Nat)) : List Nat :=
  (List.range ncore).map fun c =>
    let r := coreHome es c
    let k := (coresOf es ncore r).idxOf c
    16 * ((ps.getD r (0, [])).2.getD (k / 16) 0) + k % 16

/-- Data sections with their latency class, and the pages they take (R321). -/
def dataSects (_b : Bytes) (ss : List Sect) : List (Nat × Sect) :=
  (ss.zipIdx.filter fun x => x.1.ty == 6).map fun x => (x.2, x.1)
def sectClass (b : Bytes) (x : Sect) : Nat := (b x.off).toNat
def sectPages (x : Sect) : Nat := ceilDiv (x.len - 8) 65536

/-- Where each kernel of an image comes to stand (R229), as bytes of code come one after another. -/
def kernelOrigins (start : Nat) : List (List Byte) → List Nat
  | [] => []
  | bs :: rest => start :: kernelOrigins (start + (Config.kernelSection bs).2.1.length) rest

/-- The code pages that hold an entry point of an image (R230), each once. -/
def entryPages (s : State) (p : Nat) (meas : BitVec 256) (b : Bytes) (ss : List Sect) (entries : List RawEntry) : List Nat :=
  let x := getPart s p
  let at_ := kernelOrigins (partCodeBase x + x.codeEnd) ((sectsOf ss 5).map fun y => imgBytes b y.off y.len)
  (entries.zipIdx.filterMap fun e =>
    (at_[Config.entryKernel meas e.2 % max 1 at_.length]?).map fun o => (o + 2 * e.1.entry) / 65536).dedup

/-- Resident leaves that an image adds in a cluster (R220): its class-0 and class-1 pages, the context areas of its cores there (R176),
and the entry pages (R230) that are not resident there already. -/
def imgResident (s : State) (p : Nat) (b : Bytes) (ss : List Sect) (cores entryPs : List Nat) (cl : Nat) : Nat :=
  (((dataSects b ss).filter fun x => decide (sectClass b x.2 ≤ 1)).map fun x => sectPages x.2).sum
    + 12 * cores.countP (fun c => c / 16 == cl)
    + entryPs.countP fun g => !((getTwe s cl).tlb.any fun l => entPin l.e.toNat && leafHits p (g * 65536) l)

/-- Channels on which an image gets octets (R267): home channels of the partition's slices, receive channels of its clusters. -/
def octetChannels (s : State) (p : Nat) (cls : List Nat) : List Nat :=
  (ownSlices (getPart s p)).map (fun x => 128 * x.1 + x.2) ++
    cls.flatMap fun c => (List.range 4).map fun k => 128 * (c / 16) + 64 + 4 * (c % 16) + k

/-- The octets that an image gets, or none when a channel would exceed five (R267). -/
def pickOctets (s : State) (chans : List Nat) (n : Nat) : Option (List (Nat × Nat)) :=
  chans.foldl (fun acc c =>
    match acc with
    | none => none
    | some l =>
      let free := (List.range 8).filter fun o => (smGet (getChan s c).octets o).isNone
      if 5 < (8 - free.length) + n then none else some (l ++ (free.take n).map fun o => (c, o))) (some [])

/-! ### Relocations -/

/-- A relocation (R322); `kind` and `tsect` hold the reserved bits above them, which no relocation that fits has set. -/
structure Reloc where
  site   : Nat
  kind   : Nat
  tsect  : Nat
  addend : Int
  deriving DecidableEq, Repr

def imgRelocs (b : Bytes) (ss : List Sect) : List Reloc :=
  match sectOf ss 8 with
  | some x => (List.range (x.len / 16)).map fun i =>
      let v := imgNat b (x.off + 16 * i) 16
      ⟨bits v 0 32, bits v 32 8, bits v 40 24, sInt 64 (v / 2 ^ 64)⟩
  | none => []

/-- The value of a relocation, when it names something (R322): the bound address of a data section plus the addend, or a
latency in cycles. -/
def relocValue (s : State) (p : Nat) (rs : List (Nat × Nat)) (vas : SMap Nat) (r : Reloc) : Option Int :=
  if r.kind = 4 then
    match rs[r.tsect]? with
    | none => none
    | some g => (regionSource s p rs g).map fun src =>
        let q := sourcePeriod s src
        let den : Int := 1000 * q.1 * (bits g.1 24 12 : Nat)
        (r.addend * 101 * q.2 * (bits g.1 0 24 : Nat) + den - 1) / den
  else if r.kind ≤ 3 then (smGet vas r.tsect).map fun va => (va : Int) + r.addend
  else none

/-- Whether a value fits its field (R322). -/
def relocFits (kind : Nat) (v : Int) : Bool :=
  let lohi : Int × Int := match kind with
    | 0 => (0, 2 ^ 64 - 1)
    | 1 => (0, 2 ^ 32 - 1)
    | 2 => (-(2 ^ 31), 2 ^ 31 - 1)
    | 3 => (-(2 ^ 19), 2 ^ 19 - 1)
    | _ => (0, 2 ^ 31 - 1)
  decide (lohi.1 ≤ v) && decide (v ≤ lohi.2)

/-- A relocation's field: width and place of its low bit in the word at the site (R51, R322). A latency stands in an `IMM`
(log 10). -/
def relocField : Nat → Nat × Nat
  | 0 => (64, 0)
  | 1 => (32, 0)
  | 3 => (20, 7)
  | _ => (32, 7)

/-- Bytes of the word at a relocation's site. -/
def relocBytes (kind : Nat) : Nat := if kind = 1 then 4 else 8

/-- An image with one field replaced. -/
def patch (b : Bytes) (site kind : Nat) (v : Int) : Bytes :=
  let n := relocBytes kind
  let f := relocField kind
  let old := imgNat b site n
  let new := old - bits old f.2 f.1 * 2 ^ f.2 + wrap f.1 v * 2 ^ f.2
  let bs := leBytes n new
  fun i => if site ≤ i ∧ i < site + n then bs.getD (i - site) 0 else b i

/-- Applies the relocations in order: the patched image, or the number of the first that does not fit. -/
def relocate (s : State) (p : Nat) (rs : List (Nat × Nat)) (vas : SMap Nat) : List Reloc → Nat → Bytes → Except Nat Bytes
  | [], _, b => .ok b
  | r :: rest, i, b =>
    match relocValue s p rs vas r with
    | some v => if relocFits r.kind v then relocate s p rs vas rest (i + 1) (patch b r.site r.kind v) else .error i
    | none => .error i

/-! ### Placing -/

/-- The first run of free virtual pages from a starting page (R323, log 11). -/
def seekVa (s : State) (p n : Nat) (taken : List Nat) : Nat → Nat → Nat
  | 0, page => page
  | fuel + 1, page =>
    if (List.range n).any fun i => taken.contains (page + i) || pageMapped s p ((page + i) * 65536) then seekVa s p n taken fuel (page + 1)
    else page

/-- Virtual pages for runs of pages, one run after another: the page each run begins at. -/
def assignVas (s : State) (p start : Nat) : List Nat → List Nat → List Nat
  | _, [] => []
  | taken, n :: ns =>
    let v := seekVa s p n taken ((getPart s p).frames.length + taken.length + 1) start
    v :: assignVas s p start (taken ++ (List.range n).map (v + ·)) ns

/-- The key slot under which the loader stores pages: the partition's lowest (log 11). -/
def loadKey (x : Part) : Nat := ((List.range 256).find? fun k => partHasKey x k).getD 0

/-- Writes bytes through the frames of a run of pages. -/
def fillPage (key f off : Nat) (bs : List Byte) (s : State) : State := physWriteN s (some key) (f * 65536 + off) bs

/-- Maps one page for the loader and fills it. -/
def loadPage (cls : List Nat) (p va mask lcls : Nat) (bs : List Byte) (s : State) : Option State :=
  let key := loadKey (getPart s p)
  match giveFrame s p (lcls == 0) with
  | none => none
  | some (s1, f) =>
    (mapPage cls p va (mkEntry true mask lcls key (lcls ≤ 1) f) s1).map fun s2 => fillPage key f 0 bs s2

/-- Maps pages one after another with the bytes that go into them. -/
def loadPages (cls : List Nat) (p page mask lcls : Nat) : List (List Byte) → State → Option State
  | [], s => some s
  | bs :: rest, s =>
    match loadPage cls p (page * 65536) mask lcls bs s with
    | none => none
    | some s1 => loadPages cls p (page + 1) mask lcls rest s1

/-- Bytes cut into pages. -/
def inPages (b : Bytes) (off len : Nat) : List (List Byte) :=
  (List.range (ceilDiv len 65536)).map fun i => imgBytes b (off + 65536 * i) (min 65536 (len - 65536 * i))

/-- The frame of a page of the code or metadata range, made with a filling when it is new (R229). -/
def codeFrame (p page : Nat) (fill : Byte) (s : State) : Option (State × Nat) :=
  match smGet (getPart s p).codeFrames page with
  | some f => some (s, f)
  | none =>
    (giveFrame s p false).map fun r =>
      let s1 := fillPage (loadKey (getPart s p)) r.2 0 (List.replicate 65536 fill) r.1
      (setPart s1 p { getPart s1 p with codeFrames := smPut (getPart s1 p).codeFrames page r.2 }, r.2)

/-- Writes bytes into the code or metadata range (R229). -/
def putCode (p va : Nat) (fill : Byte) (bs : List Byte) (s : State) : Option State :=
  let first := va / 65536
  let n := if bs = [] then 0 else (va + bs.length - 1) / 65536 - first + 1
  (List.range n).foldl (fun acc i =>
    match acc with
    | none => none
    | some s =>
      let page := first + i
      let lo := max va (page * 65536)
      let hi := min (va + bs.length) (page * 65536 + 65536)
      (codeFrame p page fill s).map fun r =>
        fillPage (loadKey (getPart s p)) r.2 (lo % 65536) ((bs.drop (lo - va)).take (hi - lo)) r.1) (some s)

/-- Maps and pins a code page with only the fetch bit (R230), and walks it in (R220); the entry of one that is mapped already is changed
to that, in its frame and under its key. -/
def mapCode (cls : List Nat) (p va : Nat) (s : State) : Option State :=
  let page := va / 65536
  if pageMapped s p (page * 65536) then
    some (match pageEntry s p (page * 65536) with
      | some (a, e) =>
        let e1 := mkEntry true 1 (min 1 (entLcls e)) (entKey e) true (entPfn e)
        walkIn cls p (page * 65536) e1 (putEntry a e1 s)
      | none => s)
  else
    match smGet (getPart s p).codeFrames page with
    | none => some s
    | some f => mapPage cls p (page * 65536) (mkEntry true 1 1 (loadKey (getPart s p)) true f) s

/-- A kernel section placed after the code bound so far (R45, R229, R279): the kernel as cores use it. -/
def placeKernel (p : Nat) (bs : List Byte) (s : State) : Option (State × Kernel) :=
  let k := Config.kernelSection bs
  let x := getPart s p
  let origin := partCodeBase x + x.codeEnd
  (putCode p origin 0xFF k.2.1 s).map fun s1 =>
    let s2 := setPart s1 p { getPart s1 p with codeEnd := x.codeEnd + k.2.1.length }
    (s2, { origin := origin, dict := mWriteN [] 0 k.1, scratch := k.2.2.1.foldl (fun m c => mWrite m c.1 c.2) [], size := k.2.2.2 })

/-- Kernel sections, one after another. -/
def placeKernels (p : Nat) : List (List Byte) → State → Option (State × List Kernel)
  | [], s => some (s, [])
  | bs :: rest, s =>
    match placeKernel p bs s with
    | none => none
    | some (s1, k) => (placeKernels p rest s1).map fun r => (r.1, k :: r.2)

/-! ### Results -/

/-- Writes the result record (R324). -/
def writeResult (tag status index job part : Nat) (meas : BitVec 256) (origin metabase : Nat) (s : State) : State :=
  let v := status + index % 2 ^ 24 * 2 ^ 8 + job % 2 ^ 32 * 2 ^ 32 + part % 16 * 2 ^ 64 + meas.toNat * 2 ^ 128 + origin * 2 ^ 384
    + metabase * 2 ^ 640
  hostWrite s (s.mgmt.loadring.toNat + 128 * tag) (leBytes 128 v)

/-- Takes the request at the head of the queue off it. -/
def popQueue (s : State) : State := { s with mgmt := { s.mgmt with loadq := s.mgmt.loadq.drop 1, busy := false } }

/-- Fields of a request (R320). -/
def qTag (w : Word) : Nat := bits w.toNat 0 5
def qAddr (w : Word) : Nat := bits w.toNat 6 46 * 64
def qHandle (w : Word) : Nat := bits w.toNat 6 32
def qPart (w : Word) : Nat := bits w.toNat 52 4
def qOp (w : Word) : Nat := bits w.toNat 56 2

/-! ### Bind -/

/-- What a bind comes to: the state with the image bound and its instance, or a status with an index. -/
abbrev BindResult := Except (Nat × Nat) (State × Nat)

/-- The lowest free instance number. -/
def freeInst (s : State) : Nat :=
  ((List.range (s.insts.length + 1)).find? fun n => !(getInst s n).live).getD s.insts.length

/-- A region as the loader enables it (R244, R279, R293, R330): frame 0 begins at the current house tick; `hasLean` says whether the image
has a lean timetable, be it one without an entry for this region. -/
def freshRegion (s : State) (p inst : Nat) (cfg src wd : Nat) (table lean : List TEntry) (hasLean : Bool) : Region :=
  let m := bits cfg 0 24
  { m := m, d := bits cfg 24 12, src := src, regbw := bits cfg 41 2, losn := bits cfg 43 8, ioff := bits cfg 64 24, ren := true,
    st := .locked, num := s.tick * clockDen s m src, den := clockDen s m src, inst := some inst, part := p, table := table, lean := lean,
    hasLean := hasLean, wd1 := bits wd 0 16, wd2 := bits wd 16 16, wd3 := bits wd 32 16 }

/-- An image's entries for a region, bound (R14, R279). -/
def bindEntries (meas : BitVec 256) (es : List RawEntry) (cores : List Nat) (nk r base : Nat) : List TEntry :=
  (es.zipIdx.filter fun e => e.1.region == r).map fun e =>
    { frame := e.1.frame, cyf := e.1.cyf, core := cores.getD e.1.core 0, kernel := Config.entryKernel meas (base + e.2) % max 1 nk,
      entry := BitVec.ofNat 32 e.1.entry, budget := e.1.budget }

/-- Whether an object belongs to a live instance of a partition, or has been its job. -/
def objOwned (s : State) (p key : Nat) (o : Obj) : Bool :=
  o.live || ((getInst s o.inst).live && (getInst s o.inst).part == p) || s.insts.any fun i => i.2.live && i.2.part == p && i.2.job == key

/-- Generations start from 0 at a bind (R280): those of the objects of the partition that belong to none of its live instances; an object
that one of them has, or has had, keeps its own (log 47). -/
def freshGens (p : Nat) (s : State) : State :=
  { s with objs := s.objs.map fun x =>
      (x.1, if x.1 / 256 % 16 = p ∧ !objOwned s p x.1 x.2 then { x.2 with gen := 0, cancelled := false } else x.2) }

/-- A region is locked to a source: one that has given no edge yet counts as having given one now, the spec being silent on what comes
before the first (R246, log 8). -/
def awaitEdge (n : Nat) (s : State) : State :=
  if n ≠ 0 ∧ (getSource s n).times = [] then setSource s n { getSource s n with times := [s.tick] } else s

/-- Everything that follows from a bind once the memory is placed: octets, regions, cores, sources, job object (R267, R280, R290, R323). -/
def enableImage (p inst : Nat) (i : Inst) (ps : List (Nat × List Nat)) (regs : List Region) (s0 : State) : State :=
  let s := freshGens p s0
  let s1 := i.octets.foldl (fun s o => setChan s o.1 { getChan s o.1 with octets := smPut (getChan s o.1).octets o.2 p }) s
  let s2 := (List.zip ps regs).foldl (fun s x =>
    x.1.2.foldl (fun s c => { s with clusterRegion := smPut s.clusterRegion c x.1.1, latches := s.latches.filter fun l => l.1 / 4 != c })
      (setRegion s x.1.1 x.2)) s1
  let s3 := i.cores.foldl (fun s c => setCore s c { getCore s c with gen := 0, cancelled := false }) s2
  let s4 := i.sources.foldl (fun s n => awaitEdge n s) s3
  match freeObj s4 4 p 0 with
  | some key =>
    let s5 := allocObj key { inst := inst, part := p, region := i.regions.headD 0 } s4
    setInst s5 inst { i with job := key, jobGen := (getObj s5 key).gen }
  | none => setInst s4 inst i

/-- Places everything and binds (R323): a status when memory or page tables run out (log 10). -/
def bindImage (s : State) (p : Nat) (b0 b : Bytes) (meas : BitVec 256) (pages : List Nat) (ps : List (Nat × List Nat))
    (octs : List (Nat × Nat)) : BindResult :=
  let ss := imgSects b0
  let cl := imgClaims b0 ss
  let rs := imgRegions b0 ss
  let es := imgTable b0 ss 3
  let ls := imgTable b0 ss 4
  let ncore := claimOf cl 0
  let cores := placedCores (es ++ ls) ncore ps
  let data := dataSects b0 ss
  let ndata := data.length
  let full : Nat × Nat := (5, 2)
  let cls := ps.flatMap (·.2)
  let s1? := (List.zip data pages).foldl (fun (acc : Option State) x =>
    acc.bind (loadPages cls p x.2 0xFE (sectClass b0 x.1.2) (inPages b (x.1.2.off + 8) (x.1.2.len - 8)))) (some s)
  let areas := pages.drop ndata
  let s2? := (List.zip areas cores).foldl (fun (acc : Option State) a =>
    acc.bind (loadPages [a.2 / 16] p a.1 0x06 1 (List.replicate 12 []))) s1?
  let kernBytes := (sectsOf ss 5).map fun x => imgBytes b x.off x.len
  match s2?.bind (placeKernels p kernBytes) with
  | none => .error full
  | some (s3, ks) =>
    let x := getPart s3 p
    let metaOff := ceilDiv x.metaEnd 1024 * 1024
    let metaVa := partCodeBase x + 2 ^ 40 + metaOff
    let metaB := ((sectsOf ss 7).map fun y => imgBytes b y.off y.len).flatten
    if 2 ^ 40 ≤ x.codeEnd ∨ 2 ^ 40 < metaOff + metaB.length then .error (1, 0)
    else
      let s4? := (putCode p metaVa 0 metaB s3).map fun s =>
        setPart s p { getPart s p with metaEnd := if metaB = [] then x.metaEnd else metaOff + metaB.length }
      let nk := ks.length
      let inst := freeInst s3
      let tabs := (List.range rs.length).map fun r => (bindEntries meas es cores nk r 0, bindEntries meas ls cores nk r es.length)
      let entries := tabs.flatMap fun t => t.1 ++ t.2
      let s5? := entries.foldl (fun (acc : Option State) e =>
        acc.bind (mapCode cls p ((ks.getD e.kernel {}).origin + 2 * e.entry.toNat))) s4?
      match s5? with
      | none => .error full
      | some s5 =>
        let pol := sectOf ss 9
        let polAt := fun (off dflt : Nat) => match pol with | some y => imgNat b (y.off + off) 8 | none => dflt
        let regs := (List.range rs.length).map fun r =>
          let g := rs.getD r (0, 0)
          let t := tabs.getD r ([], [])
          freshRegion s5 p inst g.1 ((regionSource s p rs g).getD 0) (polAt (24 + 8 * r) 0) t.1 t.2 (!(sectsOf ss 4).isEmpty)
        let codes := (List.zip ks kernBytes).map (fun x => (x.1.origin, (Config.kernelSection x.2).2.1.length)) ++ [(metaVa, metaB.length)]
        let i : Inst := { live := true, part := p, cores := cores, areas := areas.map (· * 65536), regions := ps.map (·.1), kernels := ks,
                          codes := codes,
                          metaBase := metaVa, metas := metaB.length / 1024, energy := claimOf cl 6, oslots := claimOf cl 1,
                          mempol := BitVec.ofNat 16 (polAt 0 0x000C), poltabl := BitVec.ofNat 64 (polAt 8 0x000C000C000C000C),
                          poltabh := BitVec.ofNat 48 (polAt 16 0x000C000C000C), meas := meas, claims := cl,
                          sources := (rs.filterMap (regionSource s p rs)).filter (· != 0), octets := octs,
                          pages := (List.zip data pages).flatMap (fun x => (List.range (sectPages x.1.2)).map fun k => (x.2 + k) * 65536) ++
                            areas.flatMap (fun a => (List.range 12).map fun k => (a + k) * 65536) }
        .ok (enableImage p inst i ps regs s5, inst)

/-- The checks of R323 in order, then the bind. `boot` is the bind of the kernel image, without signature and energy checks
(R326, R331). -/
def bindTry (s : State) (p : Nat) (b : Bytes) (boot : Bool) : BindResult :=
  if !formatOk s p b then .error (1, 0)
  else
    let ss := imgSects b
    let meas := imgMeas b
    let key := Config.enrolled p (imgNat b 6 1)
    let cl := imgClaims b ss
    let rs := imgRegions b ss
    let es := imgTable b ss 3
    let ls := imgTable b ss 4
    let ncore := claimOf cl 0
    let octN := ceilDiv (claimOf cl 5) 8
    if !boot ∧ key = none then .error (3, 0)
    else if !boot ∧ !imgSigned (key.getD 0) b then .error (2, 0)
    else if imgNat b 0x10 16 &&& s.mgmt.featAccept.toNat ≠ imgNat b 0x10 16 then .error (4, 0)
    else
      match claimFail s p cl rs, placeAll s (looseClusters s p) (es ++ ls) ncore rs.length with
      | some k, _ => .error (5, k)
      | none, none => .error (5, 0)
      | none, some ps =>
        match regionFail s p meas cl rs es ls with
        | some r => .error (7, r)
        | none =>
          let cores := placedCores (es ++ ls) ncore ps
          let entryPs := entryPages s p meas b ss (es ++ ls)
          if (ps.flatMap (·.2)).any (fun k => decide (1536 < residentAt s k + imgResident s p b ss cores entryPs k)) then .error (8, 0)
          else
            match pickOctets s (octetChannels s p (ps.flatMap (·.2))) octN with
            | none => .error (9, 0)
            | some octs =>
              if (claimOf cl 5 = 0 ∧ (dataSects b ss).any fun x => decide (sectClass b x.2 ≤ 1)) then .error (9, 0)
              else if !boot ∧ (getPart s p).credit < ceilDiv (claimOf cl 6) 1024 then .error (10, 0)
              else
                let runs := (dataSects b ss).map (fun x => sectPages x.2) ++ List.replicate ncore 12
                let pages := assignVas s p (Config.vaPick p (getPart s p).frames.length % 2 ^ 38) [] runs
                let vas := (List.zip (dataSects b ss) pages).foldl (fun m x => smPut m x.1.1 (x.2 * 65536)) []
                match relocate s p rs vas (imgRelocs b ss) 0 b with
                | .error k => .error (6, k)
                | .ok b' => bindImage s p b b' meas pages ps octs

/-- Code origins of an instance as the result record gives them (R324). -/
def originField (s : State) (i : Inst) : Nat :=
  ofLanes 32 (i.kernels.map fun k => k.origin - partCodeBase (getPart s i.part))

/-- `LOADQ_BIND` (R320, R323, R324): the request at the head of the queue. -/
def execLoadqBind (entry : Nat) (s : State) : Out :=
  match s.mgmt.loadq[entry]? with
  | none => .next s
  | some w =>
    if entry ≠ 0 ∨ qOp w ≠ 0 then .next s
    else
      let p := qPart w
      let b : Bytes := fun i => hostByte s (qAddr w + i)
      match bindTry s p b false with
      | .error (st, ix) => .next (popQueue (writeResult (qTag w) st ix 0 p (imgMeas b) 0 0 s))
      | .ok (s1, n) =>
        let i := getInst s1 n
        .next (popQueue (writeResult (qTag w) 0 0 (objHandle i.job i.jobGen) p i.meas (originField s1 i)
          (if i.metas = 0 then 0 else i.metaBase) s1))

/-! ### Unbind -/

/-- The instance of a partition that a job handle names: the handle given at its bind (R280, R324). -/
def instOf (s : State) (p h : Nat) : Option (Nat × Inst) :=
  (s.insts.find? fun x => x.2.live && x.2.part == p && objHandle x.2.job x.2.jobGen == h)

/-- Pages on which an instance has code or metadata (R229). -/
def codePages (i : Inst) : List Nat :=
  (i.codes.flatMap fun c => if c.2 = 0 then [] else (List.range ((c.1 + c.2 - 1) / 65536 - c.1 / 65536 + 1)).map (c.1 / 65536 + ·)).dedup

/-- Releases the pages of code and metadata on which no other live instance of the partition has any: leaves and frames (R320). -/
def releaseCode (n : Nat) (i : Inst) (s : State) : State :=
  let others := (s.insts.filter fun x => x.1 != n && x.2.live && x.2.part == i.part).flatMap fun x => codePages x.2
  ((codePages i).filter fun g => !others.contains g).foldl (fun s g =>
    let s1 := (callUnmap s i.part (g * 65536) 1).1
    let x := getPart s1 i.part
    match smGet x.codeFrames g with
    | some f => setPart s1 i.part { x with codeFrames := smDel x.codeFrames g, frames := x.frames.filter (· ≠ f) }
    | none => s1) s

/-- Releases every resource of an instance (R320): the pages that the loader or its calls mapped and those of its code, with their
leaves and frames; octets, regions, clusters. Its reserve of frames and its sources are free with it. -/
def releaseInst (n : Nat) (s : State) : State :=
  let i := getInst s n
  let s1 := releaseCode n i (i.pages.foldl (fun s va => (callUnmap s i.part va 1).1) s)
  let s2 := i.octets.foldl (fun s o => setChan s o.1 { getChan s o.1 with octets := smDel (getChan s o.1).octets o.2 }) s1
  let cls := (s2.clusterRegion.filter fun c => i.regions.contains c.2).map (·.1)
  let s3 := { s2 with clusterRegion := s2.clusterRegion.filter fun c => !i.regions.contains c.2,
                      xings := s2.xings.map fun x => if cls.contains x.1 then (x.1, { x.2 with run := false, owner := none, cfg := none }) else x }
  let s4 := i.regions.foldl (fun s r => setRegion s r {}) s3
  setInst s4 n { i with live := false }

/-- `LOADQ_UNBIND` (R320): the job is cancelled; once it has completed, its resources are released and the record is
written. -/
def execLoadqUnbind (entry : Nat) (s : State) : Out :=
  match s.mgmt.loadq[entry]? with
  | none => .next s
  | some w =>
    if entry ≠ 0 ∨ qOp w ≠ 1 then .next s
    else
      let p := qPart w
      match instOf s p (qHandle w) with
      | none => .next (popQueue (writeResult (qTag w) 11 0 0 p 0 0 0 s))
      | some (n, i) =>
        if jobLive s i then
          if s.mgmt.busy then .next s
          else .next (cancelObj i.job { s with mgmt := { s.mgmt with busy := true } }).1
        else
          .next (popQueue (writeResult (qTag w) 0 0 (qHandle w) p i.meas (originField s i) (if i.metas = 0 then 0 else i.metaBase)
            (releaseInst n s)))

/-- `LOADQ_RESERVED_OP` (R320): rejected with `BADFORMAT`. -/
def execLoadqReservedOp (entry : Nat) (s : State) : Out :=
  match s.mgmt.loadq[entry]? with
  | none => .next s
  | some w =>
    if entry ≠ 0 ∨ qOp w < 2 then .next s
    else .next (popQueue (writeResult (qTag w) 1 0 0 (qPart w) 0 0 0 s))

/-- The row that the request at the head of the queue has due. -/
def loadqRow (s : State) : Option Event :=
  match s.mgmt.loadq with
  | [] => none
  | w :: _ =>
    if qOp w = 0 then some (.loadqBind 0) else if qOp w = 1 then
      (match instOf s (qPart w) (qHandle w) with
        | some (_, i) => if jobLive s i && s.mgmt.busy then none else some (.loadqUnbind 0)
        | none => some (.loadqUnbind 0))
    else some (.loadqReservedOp 0)

/-! ### Attestation, features, boot -/

/-- The report of an instance (R325), 128 bytes: `MEAS`, partition, job handle, `FEAT_ACCEPT`, nonce and serial in this order,
the spec naming no offsets (log 10). -/
def attReport (s : State) (h nonce : Nat) : List Byte :=
  match s.insts.find? (fun x => x.2.live && objHandle x.2.job x.2.jobGen == h) with
  | none => List.replicate 128 0
  | some (_, i) =>
    leBytes 128 (i.meas.toNat + i.part * 2 ^ 256 + h * 2 ^ 288 + s.mgmt.featAccept.toNat * 2 ^ 320 + nonce * 2 ^ 448
      + Config.serial.toNat * 2 ^ 704)

/-- `ATTQ` written (R325). -/
def execAttqRequest (v : Word) (s : State) : Out :=
  let a := v.toNat / 64 * 64
  let b : Bytes := fun i => hostByte s (a + i)
  let rep := attReport s (imgNat b 0 4) (imgNat b 32 32)
  .next (hostWrite s (a + 64) (rep ++ slhSign (leBytes 64 Config.deviceKey.toNat) (leBytes 16 (Config.signRandom s.tick).toNat) rep))

/-- `FEAT_ACCEPT` written (R327): only while no partition but 0 is active; bits not offered are stored as 0. -/
def execFeatAcceptWrite (v : BitVec 128) (s : State) : Out :=
  if s.parts.any fun x => x.1 != 0 && partActive x.2 then .next s
  else .next { s with mgmt := { s.mgmt with featAccept := v &&& s.mgmt.featOffer } }

/-- What partition 0 owns (R308): cluster 0 and quad 0 of every die, group 0 of stacks 0, 3, 6 and 9, key slot 0. -/
def kernelDesc : Nat :=
  let per := fun (base : Nat) => ((List.range 4).map fun d => 2 ^ (base + 16 * d)).sum
  per 0 + per 64 + ((List.range 4).map fun d => 2 ^ (128 + 48 * d)).sum + 4 * 2 ^ 320 + 2 ^ 323 + 2 ^ 576

/-- Features that this part offers: bits 0 to 4 (R327). -/
def offered : BitVec 128 := 0x1F

/-- The package as its reset leaves it, before the boot ROM runs. Host memory and rows from outside stay. -/
def resetPackage (s : State) : State :=
  { sched := { inbox := s.sched.inbox, choice := s.sched.choice }, host := s.host, mgmt := { state := 1 } }

/-- Groups of a partition that hold no byte yet are zeroed in the background (R311, R326). -/
def sweepEmpty (p : Nat) (s : State) : State :=
  let x := getPart s p
  setPart s p { x with sweep := (ownGroups x).filter fun g => !(s.mem.any fun c => inGroups [g] (paKind c.1)) }

/-- The boot ROM's steps (R326): the kernel image verified, key slot 0 loaded, the image bound, features offered. -/
def bootPackage (s : State) : State :=
  if !imgSigned Config.vendorKey Config.flashImage then { s with mgmt := { s.mgmt with state := 3 } }
  else
    let k : KeySlot := { valid := true, pair := Config.bootKey s.sched.choice, loads := 1 }
    let s1 := setPart { nextChoice s with keys := [(0, k)] } 0 { desc := BitVec.ofNat 1024 kernelDesc }
    let s2 := match bindTry s1 0 Config.flashImage true with
      | .ok (s2, _) => s2
      | .error _ => s1
    sweepEmpty 0 { s2 with mgmt := { s2.mgmt with state := 2, featOffer := offered } }

/-- `PACKAGE_RESET` (R326): the reset, with `STATE` = 1, and the row again for the boot that follows it. -/
def execPackageReset (s : State) : Out :=
  if s.mgmt.state = 1 then .next (bootPackage s) else .next (due [.packageReset] (resetPackage s))

/-! ### Energy -/

/-- `ENERGY_WINDOW_END` (R328): every account is credited, up to its ceiling. -/
def execEnergyWindowEnd (s : State) : Out :=
  .next { s with parts := s.parts.map fun x => (x.1, { x.2 with acct := min (x.2.acct + x.2.credit) x.2.cap }) }

/-- `ENERGY_MICROSECOND` (R328): every account is debited by the energy measured. -/
def execEnergyMicrosecond (s : State) : Out :=
  .next { s with parts := s.parts.map fun x =>
    (x.1, { x.2 with acct := max (x.2.acct - Config.energyDebit x.1 s.mgmt.us) (-(2 ^ 63)) }) }

/-- The most that all credits of a window may come to (R328). -/
def creditLimit (win : Nat) : Nat := 3300 * win * 2 ^ 20 / 10 ^ 6

/-- All credits together, with one partition's replaced. -/
def creditSum (s : State) (p v : Nat) : Nat := ((s.parts.filter fun x => x.1 != p).map fun x => x.2.credit).sum + v

/-- `EBUDGET` written (R328). -/
def execEbudgetWrite (part : Nat) (v : Word) (s : State) : Out :=
  let c := bits v.toNat 0 48
  if creditLimit s.mgmt.ewin < creditSum s part c then .next s
  else .next (setPart s part { getPart s part with credit := c })

/-- An energy register as `eget` reads it (R332). -/
def egetValue (s : State) (core idx : Nat) : Word :=
  let p := getPart s (corePart s core)
  match idx with
  | 0 => BitVec.ofInt 64 p.acct
  | 1 => BitVec.ofNat 64 p.credit
  | 2 => BitVec.ofNat 64 p.low
  | 3 => BitVec.ofNat 64 s.mgmt.ewin
  | _ => if (coreRegion s core).leanOn then 1 else 0

/-- `eget` (R332). -/
def issueEget (g : Guard) (d : SDst) (idx : Nat) : Issue := fun s =>
  .ok (setCtx s (issueS 0 1 g d (fun _ => false) (fun _ => (egetValue s s.sched.cur idx, 0)) (curCtx s)))
def execEget (g : Guard) (d : SDst) (idx : Nat) (s : State) : Out := settle s (issueEget g d idx s)

/-! ### Registers without behaviour of their own -/

/-- What the management window reads at an offset (R319, R320, R327): write-only registers and reserved offsets read 0. The request at
the head of the queue is the one being processed (log 10). -/
def windowRead (s : State) (off : Nat) : BitVec 128 :=
  let m := s.mgmt
  if off = 0x0008 then
    BitVec.ofNat 128 (m.loadq.length + (if m.qfull then 2 ^ 5 else 0) + (if m.loadq.isEmpty then 0 else 2 ^ 6))
  else if off = 0x0010 then m.loadring.setWidth 128
  else if off = 0x0020 then m.featOffer
  else if off = 0x0030 then m.featAccept
  else if off = 0x0040 then BitVec.ofNat 128 m.state
  else 0

/-- A write of `LOADQ` (R320). -/
def loadqWrite (v : Word) (s : State) : State :=
  if s.mgmt.state ≠ 2 then s
  else if 16 ≤ s.mgmt.loadq.length then { s with mgmt := { s.mgmt with qfull := true } }
  else { s with mgmt := { s.mgmt with loadq := s.mgmt.loadq ++ [v] } }

/-- Whether a handler runs in a cluster (R233). -/
def handlerIn (s : State) (cl : Nat) : Bool := s.cores.any fun k => k.1 / 16 == cl && k.2.svc.isSome

/-- A region under a new `REGCFG` (R244). -/
def withRegcfg (s : State) (v : Nat) (x : Region) : Region :=
  let src := bits v 36 5
  let ren := v.testBit 51
  let y := { x with m := bits v 0 24, d := bits v 24 12, src := src, regbw := bits v 41 2, losn := bits v 43 8, ioff := bits v 64 24, ren := ren }
  if x.m = y.m ∧ x.d = y.d ∧ x.src = y.src ∧ x.ren = y.ren then y
  else if !ren then { y with st := .idle }
  else { y with st := .locked, num := s.tick * clockDen s y.m src, den := clockDen s y.m src, step := 0 }

/-- `REGCFG` written (R244): a region that it locks to a source waits for its edges. -/
def writeRegcfg (r v : Nat) (s : State) : State :=
  let x := withRegcfg s v (getRegion s r)
  let t := setRegion s r x
  if x.ren then awaitEdge x.src t else t

/-- A region whose source has a new nominal period (R241, R242): its next cycle begins when it would have, or now if its clock stood, and
its cycles have the new nominal length; in holdover they keep their length in house time (R247). -/
def withPeriod (s : State) (x : Region) : Region :=
  let den := clockDen s x.m x.src
  let over_ := fun (n : Nat) => if x.den = 0 then 0 else ceilDiv (n * den) x.den
  { x with den := den, num := max (over_ x.num) (s.tick * den), step := if x.st = .holdover then over_ x.step else 0 }

/-- A source register written (R241): the regions that are locked to the source count by its new period; a source that had no period till
now is awaited from now on (log 8). -/
def writeSource (k v : Nat) (s : State) : State :=
  let old := getSource s k
  let new := { old with pnum := bits v 0 24, pden := bits v 24 12, sen := v.testBit 36 }
  let t := setSource s k (if old.pnum = 0 ∨ old.pden = 0 then { new with times := if old.times = [] then [] else [s.tick] } else new)
  if new.pnum = old.pnum ∧ new.pden = old.pden then t
  else (regionsOf t k).foldl (fun t r => setRegion t r (withPeriod t (getRegion t r))) t

/-- A service entry; requests for an entry that is no longer used are cleared without effect (R234). -/
def sventWrite (cl k v : Nat) (s : State) : State :=
  let s1 := { s with svents := smPut s.svents (16 * cl + k) (BitVec.ofNat 32 (bits v 0 28)) }
  if bits v 16 12 ≠ 0 then s1
  else { s1 with cores := s1.cores.map fun c =>
    (c.1, if c.1 / 16 = cl then { c.2 with svreq := c.2.svreq &&& ~~~BitVec.ofNat 16 (2 ^ k) } else c.2) }

/-- `MANAGEMENT_REGISTER_WRITE` (R23): writable fields of R234, R241, R244, R275, R293, R309, R319, R320, R328, R335. -/
def execManagementRegisterWrite (reg : MgmtReg) (v : BitVec 128) (s : State) : Out :=
  let n := v.toNat
  match reg with
  | .svent cl k => .next (sventWrite cl k n s)
  | .svctl core =>
    let k := getCore s core
    .next (setCore s core { k with dlreload := BitVec.ofNat 32 n, dlen := n.testBit 32,
                                   dbghold := if feature s 3 then n.testBit 33 else k.dbghold })
  | .svstore cl off =>
    if handlerIn s cl then .next s
    else .next { s with store := mWriteN s.store (65536 * cl + off % 65536 / 8 * 8) (leBytes 8 n) }
  | .source k => .next (writeSource k n s)
  | .regcfg r => .next (writeRegcfg r n s)
  | .wdcfg r => .next (setRegion s r { getRegion s r with wd1 := bits n 0 16, wd2 := bits n 16 16, wd3 := bits n 32 16 })
  | .evtail p => .next (setPart s p { getPart s p with evTail := bits n 0 32 })
  | .ertail p => .next (setPart s p { getPart s p with erTail := bits n 0 32 })
  | .elow p => .next (setPart s p { getPart s p with low := bits n 0 48 })
  | .ecap p => .next (setPart s p { getPart s p with cap := bits n 0 48 })
  | .ewin =>
    let w := bits n 0 20
    if w < 100 ∨ 1000000 < w ∨ creditLimit w < creditSum s 16 0 then .next s
    else .next { s with mgmt := { s.mgmt with ewin := w } }
  | .fpkg => .next { s with mgmt := { s.mgmt with fpkg := bits n 0 12 } }
  | .heat ch bank ring => .next { s with heat := smSet 2048 s.heat (bankIx ch bank * 36 + ring) (BitVec.ofNat 12 n) }
  | .host off =>
    if off = 0x0000 then .next (loadqWrite (BitVec.ofNat 64 n) s)
    else if off = 0x0008 then .next (if n.testBit 5 then { s with mgmt := { s.mgmt with qfull := false } } else s)
    else if off = 0x0010 then .next { s with mgmt := { s.mgmt with loadring := BitVec.ofNat 64 (n / 4096 * 4096) } }
    else if off = 0x0030 then execFeatAcceptWrite v s
    else if off = 0x0048 then execAttqRequest (BitVec.ofNat 64 n) s
    else .next s

end Sys2Proof.Machine
end

