-- ==== Sys2Proof/Machine/Fabric.lean ====
section
/-! DEFINITION. The fabric interface of each die (spec/20 R333 to R354): wavelengths, job slots and pools, messages, the five
fabric instructions, and the sparge wave. -/

namespace Sys2Proof.Machine

/-! ### Registers -/

/-- Whether another wavelength is a stream lane of the same source with the same latch number (R333). -/
def laneTaken (s : State) (key v : Nat) : Bool :=
  s.fwl.any fun x => x.1 != key && x.2.toNat.testBit 5 && bits x.2.toNat 6 5 == bits v 6 5 && bits x.2.toNat 12 2 == bits v 12 2

/-- `FWL_WRITE` (R333): wavelengths 0 to 511 of a die transmit, 512 to 1,023 receive. -/
def execFwlWrite (die wl : Nat) (v : Word) (s : State) : Out :=
  let key := die % 4 * 1024 + wl % 1024
  let x := bits v.toNat 0 14
  if x.testBit 5 ∧ (wl % 1024 < 512 ∨ bits x 6 5 = 0 ∨ laneTaken s key x) then .next s
  else .next { s with fwl := smPut s.fwl key (BitVec.ofNat 32 x) }

/-- A job slot, by `64 * die + n`. -/
def getJob (s : State) (key : Nat) : JobSlot := smGetD s.jobs key {}
def setJob (s : State) (key : Nat) (j : JobSlot) : State := { s with jobs := smPut s.jobs key j }

/-- The enabled slot of a die for a job (R335, R336). -/
def jobOn (s : State) (die job : Nat) : Option Nat :=
  (s.jobs.find? fun x => x.1 / 64 == die && x.2.en && x.2.job == job).map (·.1)

/-- The fields that a slot write gives (R335). -/
def jobFields (j : JobSlot) (v : Nat) : JobSlot :=
  { j with job := bits v 0 16, part := bits v 16 4, en := v.testBit 20, origin := v.testBit 21, spgper := bits v 32 32,
           pool := bits v 64 55, ncell := bits v 128 13 }

/-- Whether every field is in range (R335). -/
def jobInRange (j : JobSlot) : Bool :=
  decide (100 ≤ j.spgper) && j.pool % 65536 == 0 && decide (1 ≤ j.ncell ∧ j.ncell ≤ 4096)

/-- The wave of a job. -/
def getWave (s : State) (job : Nat) : Wave := smGetD s.waves job {}
def setWave (s : State) (job : Nat) (w : Wave) : State := { s with waves := smPut s.waves job w }

/-- `JOB_SLOT_WRITE` (R335, R336): enabling a slot zeroes its counters, and an origin's waves count from there (R350). Which partition owns
a slot is the kernel's gift (R308), which no register holds: a free value (log 16). -/
def execJobSlotWrite (die slot : Nat) (record : BitVec 256) (s : State) : Out :=
  let key := die % 4 * 64 + slot % 64
  let old := getJob s key
  let new := jobFields old record.toNat
  if old.en ∧ { new with en := true } ≠ old then .next s
  else if !jobInRange new ∨ new.part ≠ Config.slotOwner key s.tick % 16 then .next s
  else if new.en ∧ !old.en then
    if (jobOn s (die % 4) new.job).isSome then .next s
    else
      let s1 := setJob s key { new with inj := 0, con := 0, loss := 0, lseen := 0, enTick := s.tick, seen := [] }
      .next (if new.origin then setWave s1 new.job { begun := (getWave s new.job).begun } else s1)
  else .next (setJob s key new)

/-! ### Messages -/

/-- A message that arrives from another package (log 16). -/
def outsideMsg (n : Nat) : Msg :=
  let x := Config.fabricIn n
  let len := x.2.2.2.2.2.2.1 % 4096 + 1
  { spkg := x.1 % 4096, sdie := x.2.1 % 4, score := x.2.2.1 % 1024, tag := x.2.2.2.1 % 65536, job := x.2.2.2.2.1 % 65536,
    seq := x.2.2.2.2.2.1 % 2 ^ 32, inj := x.2.2.2.2.2.1, len := len, dpkg := 0, ddie := x.2.2.2.2.2.2.2 % 4,
    bytes := (List.range len).map (Config.fabricByte n) }

/-- Whether a message number is one of this package's own. -/
def ownMsg (n : Nat) : Bool := n % 2 == 0

/-- A message by its number; one from outside is of a job that has an interface there. -/
def msgOf (s : State) (n : Nat) : Option Msg :=
  match smGet s.msgs n with
  | some m => some m
  | none => if ownMsg n || !Config.jobElsewhere (outsideMsg n).job then none else some (outsideMsg n)

/-- Whether every earlier request of a message's core, a `tlbi` too, has performed at package scope (R341). -/
def msgOrdered (s : State) (m : Msg) : Bool := !m.ordered || drained s m.score 3 m.req

/-- Whether a message's packets may leave: its bytes are read, and its order allows it (R341, R344). -/
def msgSent (s : State) (m : Msg) : Bool := m.bytes.length == m.len && msgOrdered s m

/-- Whether a message is for a pool of this package. -/
def msgHere (s : State) (n : Nat) (m : Msg) : Bool := !ownMsg n || m.dpkg == s.mgmt.fpkg

/-- Messages of a slot that have not been sent (R344). -/
def unsentOf (s : State) (die job : Nat) : Nat :=
  s.msgs.countP fun (x : Nat × Msg) => ownMsg x.1 && x.2.sdie == die && x.2.job == job && x.2.st == 0 && !msgSent s x.2

/-- The header of a cell (R337). -/
def msgHeader (m : Msg) (cell : Nat) : Nat :=
  m.spkg + m.sdie * 2 ^ 12 + m.tag * 2 ^ 16 + m.len * 2 ^ 32 + cell * 2 ^ 48 + m.seq * 2 ^ 64 + m.job * 2 ^ 96 + m.score * 2 ^ 128

/-- The lowest free cell of a pool (R339). -/
def freeCell (j : JobSlot) : Option Nat := (List.range j.ncell).find? fun c => (smGet j.cells c).isNone

/-- Virtual address of a cell (R336). -/
def cellVa (j : JobSlot) (c : Nat) : Nat := j.pool + 8192 * c

/-- Where a cell stands for delivery (R218, R336), or the reason for which the pool faults. -/
def cellWalk (s : State) (j : JobSlot) (c : Nat) : Except Nat Xlat :=
  match walkFor s j.part 6 (cellVa j c) with
  | .error e => .error e
  | .ok (lvl, e) => if keyRevoked s (entKey e) then .error 12 else .ok (xlatOf lvl e (cellVa j c))
def cellAt (s : State) (j : JobSlot) (c : Nat) : Option Xlat := (cellWalk s j c).toOption

/-- A table entry of the pool that cannot be corrected is recorded when the delivery meets it (R227); no core is concerned. -/
def poolRecord (s : State) (j : JobSlot) (c : Nat) : State :=
  match cellWalk s j c with
  | .error 14 =>
    errorRecord j.part 1 0x30 0 0xB 14 0 (walkSector s (cellVa j c) [0, 1, 2] (partRoot (getPart s j.part))) (some (cellVa j c)) s
  | _ => s

/-- Whether two messages are of one job, from one interface to one pool (R341). -/
def sameStream (n : Nat) (m : Msg) (x : Nat × Msg) : Bool :=
  x.1 % 2 == n % 2 && x.2.spkg == m.spkg && x.2.sdie == m.sdie && x.2.job == m.job && x.2.dpkg == m.dpkg && x.2.ddie == m.ddie

/-- Whether a message must wait for one before it (R341): one of this package for those sent before it, in whose order `INJ` counted; one
from elsewhere for those with a lower `INJ`, and for ever when one after it has been delivered (log 16). -/
def msgBehind (s : State) (n : Nat) (m : Msg) : Bool :=
  s.msgs.any fun x => x.1 != n && sameStream n m x &&
    if ownMsg n then x.2.st == 0 && decide (x.1 < n)
    else (x.2.st == 0 && decide (x.2.inj < m.inj)) || (x.2.st == 2 && decide (m.inj ≤ x.2.inj))

/-! #### Packets (R334); what links, switches and their retries do outside the package is open (log 16) -/

/-- The packets of a message. -/
def msgPackets (m : Msg) : Nat := ceilDiv (32 + m.len) 512

/-- A fabric lane of a die for a partition: a wavelength that transmits or receives, given to it and no stream lane (R333). -/
def laneFor (s : State) (die part : Nat) (tx : Bool) : Bool :=
  s.fwl.any fun x => x.1 / 1024 == die && decide (x.1 % 1024 < 512) == tx && x.2.getLsbD 4 && !x.2.getLsbD 5 && bits x.2.toNat 0 4 == part

/-- The partition of a message's job at its receiving interface. -/
def msgPart (s : State) (m : Msg) : Option Nat := (jobOn s m.ddie m.job).map fun key => (getJob s key).part

/-- Whether a message can travel: out on a lane of its sending slot's partition and in on one of the receiving slot's; a message to the die
it comes from needs none. A job that the receiving interface does not know has no lane of its own there. -/
def msgLanes (s : State) (n : Nat) (m : Msg) : Bool :=
  (ownMsg n && m.sdie == m.ddie) ||
    ((!ownMsg n || laneFor s m.sdie m.spart true) &&
      (match msgPart s m with
        | some p => laneFor s m.ddie p false
        | none => (List.range 16).any fun p => laneFor s m.ddie p false))

/-- Whether the next packet of a message may arrive at its interface in this package. -/
def packetOpen (s : State) (n : Nat) : Bool :=
  match msgOf s n with
  | none => false
  | some m => m.st == 0 && msgHere s n m && msgSent s m && decide (m.packets < msgPackets m) && msgLanes s n m

/-- A packet arrives (R334, R340). -/
def packetArrives (n : Nat) (s : State) : State :=
  match msgOf s n with
  | none => s
  | some m => if packetOpen s n then { s with msgs := smPut s.msgs n { m with packets := m.packets + 1, last := s.tick } } else s

/-- A message that has been delivered. -/
def overMsg (s : State) (n : Nat) (m : Msg) : State := { s with msgs := smPut s.msgs n { m with st := 2, bytes := [] } }

/-- Whether every packet of a message has arrived and its turn has come. -/
def msgIn (s : State) (n : Nat) (m : Msg) : Bool :=
  m.st == 0 && msgHere s n m && msgSent s m && m.packets == msgPackets m && !msgBehind s n m

/-- Whether a message may be delivered now: the slot, the cell and its place. -/
def mayDeliver (s : State) (n : Nat) : Option (Nat × Nat × Xlat) :=
  match msgOf s n with
  | none => none
  | some m =>
    if msgIn s n m then
      (jobOn s m.ddie m.job).bind fun key =>
        (freeCell (getJob s key)).bind fun c => (cellAt s (getJob s key) c).map fun x => (key, c, x)
    else none

/-- The packets by which an interface writes bytes of a message to their home slices: class 1, from the bridge's site (R268, R355). -/
def postDelivery (s : State) (msg part pa n : Nat) : State :=
  (List.range (linesOf pa n)).foldl (fun s i =>
    let a := pa / 256 * 256 + 256 * i
    match homeSlice s part a with
    | none => s
    | some (d, k) =>
      let p : Packet := { site := 16, cls := 1, part := part, req := 2048 + msg, line := a / 256, own := true }
      postPacket s (128 * d + k) p) s

/-- `MESSAGE_DELIVERY` (R334, R337, R339, R341): header and payload perform in the lowest free cell, which is then full. -/
def execMessageDelivery (msg : Nat) (s : State) : Out :=
  match mayDeliver s msg, msgOf s msg with
  | some (key, c, x), some m =>
    let j := getJob s key
    let s1 := physWriteN s (some x.key) x.pa (leBytes 32 (msgHeader m c) ++ m.bytes)
    let s2 := setJob s1 key { j with cells := smPut j.cells c (.full j.order m.len), order := j.order + 1 }
    .next (overMsg s2 msg m)
  | _, _ => .next s

/-- Whether a delivery has still to make its packets ready; whether they are sent, so that its bytes may move (R265). -/
def deliveryAsks (s : State) (n : Nat) : Bool := (mayDeliver s n).isSome && (msgOf s n).any (!·.asked)
def deliveryMoves (s : State) (n : Nat) : Bool :=
  (mayDeliver s n).isSome && (msgOf s n).any (·.asked) && !ownWaits s (2048 + n) fun _ => true

/-- The packets of a delivery become ready, once. -/
def askDelivery (n : Nat) (s : State) : State :=
  match mayDeliver s n, msgOf s n with
  | some (key, _, x), some m =>
    if m.asked then s
    else postDelivery { s with msgs := smPut s.msgs n { m with asked := true } } n (getJob s key).part x.pa (32 + m.len)
  | _, _ => s

/-- Whether this package's interface loses a message: no enabled slot for its job when a packet is there, or a pool that faults at its
delivery (R340). -/
def msgLostHere (s : State) (n : Nat) : Bool :=
  match msgOf s n with
  | none => false
  | some m =>
    match jobOn s m.ddie m.job with
    | none => m.st == 0 && msgHere s n m && msgSent s m && decide (0 < m.packets)
    | some key => msgIn s n m && (match freeCell (getJob s key) with
        | none => false
        | some c => (cellAt s (getJob s key) c).isNone)

/-- `MESSAGE_LOSS` (R340): the message goes on no further, and its sender is sent one notice; a destination here keeps the part that
has arrived. -/
def execMessageLoss (msg : Nat) (s : State) : Out :=
  match msgOf s msg with
  | none => .next s
  | some m =>
    if m.st == 0 && msgSent s m then
      let m1 := { m with st := if msgHere s msg m ∧ 0 < m.packets then 1 else 3, bytes := [], notice := ownMsg msg }
      let s1 := if msgIn s msg m then
          ((jobOn s m.ddie m.job).bind fun key => (freeCell (getJob s key)).map fun c => poolRecord s (getJob s key) c).getD s
        else s
      .next { s1 with msgs := smPut s1.msgs msg m1 }
    else .next s

/-- Whether a notice may arrive: one that this package sent, or one from a switch or another package. -/
def mayNotice (s : State) (n : Nat) : Bool :=
  match smGet s.msgs n with
  | none => false
  | some m => ownMsg n && (m.notice || (m.st == 0 && msgSent s m && m.dpkg != s.mgmt.fpkg))

/-- `LOSS_NOTICE_ARRIVAL` (R340): the first notice for a (`JOB`, `SEQ`) counts. -/
def execLossNoticeArrival (msg : Nat) (s : State) : Out :=
  match smGet s.msgs msg with
  | none => .next s
  | some m =>
    if mayNotice s msg then
      let m1 := { m with st := if m.st = 0 then 3 else m.st, notice := false, bytes := [] }
      let s1 := { s with msgs := smPut s.msgs msg m1 }
      match jobOn s m.sdie m.job with
      | none => .next s1
      | some key =>
        let j := getJob s key
        .next (if j.seen.contains m.seq then s1 else setJob s1 key { j with loss := j.loss + 1, seen := m.seq :: j.seen })
    else .next s

/-- `PARTIAL_MESSAGE_DISCARD` (R340): 100 µs after the last packet. -/
def discardDue (s : State) (m : Msg) : Bool := m.st == 1 && decide (m.last + 10000 ≤ s.tick)
def execPartialMessageDiscard (msg : Nat) (s : State) : Out :=
  match smGet s.msgs msg with
  | none => .next s
  | some m => if discardDue s m then .next { s with msgs := smPut s.msgs msg { m with st := 3 } } else .next s

/-- `LINK_LOSS` (R353). -/
def execLinkLoss (link : Nat) (s : State) : Out :=
  .next (if s.links.contains link then s else { s with links := link :: s.links })

/-! ### Instructions -/

/-- The slot that a job operand names for the core in issue (R343): or the status that lands. -/
def jobOperand (s : State) (x : Nat) : Except Word Nat :=
  if 0xFFFF < x then .error stBadarg
  else
    match jobOn s (s.sched.cur / 256) x with
    | none => .error stRefused
    | some key => if (getJob s key).part = reqPart s s.sched.cur then .ok key else .error stRefused

/-- `XLATE` of `n` bytes of the core's own memory (R343). -/
def fabStop (s : State) (engine ea n : Nat) : Option Stop := viewStop (cur s) engine (maskC s) ea n false

/-- The number of the next message of this package. -/
def newMsg (s : State) : Nat := 2 * s.nextMsg

/-- An accepted send (R338, R344): `INJ` counts, and a request reads the bytes. -/
def sendMsg (s : State) (q : Pol) (key : Nat) (tag : BitVec 16) (x y z : Nat) : State × Word :=
  let j := getJob s key
  let n := newMsg s
  let m : Msg := { spkg := s.mgmt.fpkg, sdie := s.sched.cur / 256, spart := j.part, score := s.sched.cur, tag := tag.toNat, job := bits x 16 16,
                   seq := j.inj % 2 ^ 32, inj := j.inj, len := z, dpkg := bits x 0 12, ddie := bits x 12 2, bytes := [],
                   req := s.nextReq, ordered := decide (2 ≤ q.ord) }
  let s1 := setJob { s with msgs := smPut s.msgs n m, nextMsg := s.nextMsg + 1 } key { j with inj := j.inj + 1 }
  let r : Req := { newReq s (.fsend n) { q with ord := 0 } (mkPieces (ownNum s) (ownSpad s y) .none z none) with wrEng := 7 }
  (addReq s1 r, statusW 1 m.seq)

/-- `fsend` (R343, R344): of its policy entry only `ORD` counts, and `SPACE` 1 refuses it. -/
def issueFsend (g : Guard) (d : SDst) (pol : Fin 8) (tag : BitVec 16) (a b e : SOp) : Issue :=
  issueC g d (void3 a b e) fun s =>
    let x := valN s a
    let y := valN s b
    let z := valN s e
    let q := polNow s pol
    match (if 1 ≤ z ∧ z ≤ 4096 then fabStop s 7 y z else none) with
    | some stop => .error stop
    | none =>
      if q.space = 1 then .ok (s, stRefused, fMODFB)
      else if x ≠ bits x 0 14 + bits x 16 16 * 2 ^ 16 ∨ z = 0 ∨ 4096 < z then .ok (s, stBadarg, 0)
      else
        match jobOperand s (bits x 16 16) with
        | .error w => .ok (s, w, 0)
        | .ok key =>
          if 32 ≤ unsentOf s (s.sched.cur / 256) (bits x 16 16) ∨ !contextFree s s.sched.cur (cur s).svc.isSome then
            .ok (s, stBusy, 0)
          else
            let r := sendMsg s q key tag x y z
            .ok (r.1, r.2, 0)
def execFsend (g : Guard) (d : SDst) (pol : Fin 8) (tag : BitVec 16) (a b c : SOp) (s : State) : Out :=
  settle s (issueFsend g d pol tag a b c s)

/-- An instruction that waits (R343): traps, then the job operand, then what it does with its slot: it lands a word, one that ends a
wait in its first cycle with the next bundle, or leaves a wait behind. -/
def issueJobWait (g : Guard) (d : SDst) (void : Ctx → Bool) (a : SOp) (traps : State → Option Stop)
    (body : State → Nat → State × (Word ⊕ WaitKind)) : Issue := fun s =>
  let c := curCtx s
  if guardOn c g then
    match traps s with
    | some e => .error e
    | none =>
      let note := fun (t : State) => noteVoid (curCtx t) (voidP c g.p || void c)
      match jobOperand s (valN s a) with
      | .error w => .ok (setCtx s (fly (note s) (slotC s) 1 (resS d w) 0))
      | .ok key =>
        match body s key with
        | (t, .inl w) => .ok (setCtx t (if w = stTimeout ∨ w = stDone then endNow (note t) (slotC s) d w
            else fly (note t) (slotC s) 1 (resS d w) 0))
        | (t, .inr k) => .ok (setCtx t (addWait (note t) k (slotC s) d))
  else .ok (setCtx s (fly (noteVoid c (voidP c g.p)) (slotC s) 1 (offS d) 0))

/-- The full cell that became full first (R341). -/
def firstFull (j : JobSlot) : Option (Nat × Nat) :=
  (j.cells.foldl (fun (best : Option (Int × Nat × Nat)) x =>
    match x.2, best with
    | .full o len, none => some (o, x.1, len)
    | .full o len, some b => if o < b.1 then some (o, x.1, len) else some b
    | _, b => b) none).map (·.2)

/-- Takes a full cell for a `frecv` of a core, when it has a context free: the request that copies it (R339, R345). -/
def takeCell (core key y : Nat) (s : State) : Option (State × Nat × Nat) :=
  let j := getJob s key
  let k := getCore s core
  match firstFull j with
  | none => none
  | some (c, len) =>
    if j.en && contextFree s core k.svc.isSome then
      let own := selfSpad k core
      let r : Req := { blankReq s core (.frecv key c) ⟨0, 3, 0, 0⟩ with
        pieces := mkPieces own (.virt (cellVa j c)) (.spad own y) (32 + len) none, part := j.part, rdEng := 0xB, wrEng := 6,
        rdBit := 6 }
      let s1 := setJob s key { j with cells := smPut j.cells c (.taken (reqBid k) len) }
      some (addReq s1 r, s.nextReq, len)
    else none

/-- `frecv` (R345): at its time-out it takes nothing. -/
def issueFrecv (g : Guard) (d : SDst) (_pol : Fin 8) (a b e : SOp) : Issue :=
  issueJobWait g d (void3 a b e) a (fun s => fabStop s 6 (valN s b) 4128) fun s key =>
    let z := valS (curCtx s) e
    if z.toNat ≤ coreTick s s.sched.cur then (s, .inl stTimeout)
    else
      match takeCell s.sched.cur key (valN s b) s with
      | some (t, n) => (t, .inr (.frecv key (valN s b) z (some n)))
      | none => (s, .inr (.frecv key (valN s b) z none))
def execFrecv (g : Guard) (d : SDst) (pol : Fin 8) (a b c : SOp) (s : State) : Out := settle s (issueFrecv g d pol a b c s)

/-- Whether the last byte of a `frecv` has landed (R345). -/
def frecvDone (s : State) (n : Nat) : Bool := (getReq s n).pieces.all fun p => p.stage == 2

/-- One wait of a `frecv` in a waiting cycle: its end, or a cell that it takes now. -/
def frecvStep (core : Nat) (w : Wait) (s : State) : State :=
  let k := getCore s core
  match w.kind with
  | .frecv _ _ _ (some (n, len)) =>
    if frecvDone s n then setCore s core { k with ctx := endWait k.ctx w (statusW 0 len) } else s
  | .frecv key y z none =>
    if z.toNat ≤ coreTick s core then setCore s core { k with ctx := endWait k.ctx w stTimeout }
    else
      match takeCell core key y s with
      | none => s
      | some (t, took) =>
        let w1 := { w with kind := .frecv key y z (some took) }
        setCore t core { k with ctx := { k.ctx with waits := k.ctx.waits.map fun x => if x = w then w1 else x } }
  | _ => s

/-- `FRECV_END` (R337, R343, R345). -/
def execFrecvEnd (core : Nat) (s : State) : Out := .next ((getCore s core).ctx.waits.foldl (fun s w => frecvStep core w s) s)

/-- `fdone` (R338, R346): `CON` counts in the issue cycle. -/
def issueFdone (g : Guard) (d : SDst) (_pol : Fin 8) (a b : SOp) : Issue :=
  issueJobWait g d (void2 a b) a (fun _ => none) fun s key =>
    let j := getJob s key
    let c := valN s b
    if j.ncell ≤ c then (s, .inl stBadarg)
    else
      match smGet j.cells c with
      | some (.taken bid _) =>
        if bid = reqBid (cur s) then (setJob s key { j with cells := smDel j.cells c, con := j.con + 1 }, .inl stDone)
        else (s, .inl stRefused)
      | _ => (s, .inl stRefused)
def execFdone (g : Guard) (d : SDst) (pol : Fin 8) (a b : SOp) (s : State) : Out := settle s (issueFdone g d pol a b s)

/-- `quiet` (R347): waits for a wave that begins after its issue. -/
def issueQuiet (g : Guard) (d : SDst) (_pol : Fin 8) (a b : SOp) : Issue :=
  issueJobWait g d (void2 a b) a (fun _ => none) fun s key =>
    let z := valS (curCtx s) b
    if z.toNat ≤ coreTick s s.sched.cur then (s, .inl stTimeout)
    else (s, .inr (.quiet key (getWave s (getJob s key).job).begun z none))
def execQuiet (g : Guard) (d : SDst) (pol : Fin 8) (a b : SOp) (s : State) : Out := settle s (issueQuiet g d pol a b s)

/-- `QUIET_END` (R343, R347): the result of a wave that found the job quiet, or the time-out. -/
def execQuietEnd (core : Nat) (s : State) : Out :=
  .next (endWaits core (fun w =>
    match w with
    | .quiet _ _ _ (some v) => some v
    | .quiet _ _ z none => if z.toNat ≤ coreTick s core then some stTimeout else none
    | _ => none) s)

/-- `fstat` (R348). -/
def issueFstat (g : Guard) (d : SDst) (_pol : Fin 8) (a b : SOp) : Issue :=
  issueJobWait g d (void2 a b) a (fun s => fabStop s 6 (valN s b) 64) fun s key =>
    if valN s b % 8 ≠ 0 then (s, .inl stBadarg) else (s, .inr (.fstat key (valN s b)))
def execFstat (g : Guard) (d : SDst) (pol : Fin 8) (a b : SOp) (s : State) : Out := settle s (issueFstat g d pol a b s)

/-- The record of a slot (R348). -/
def fstatRecord (j : JobSlot) : Nat :=
  j.inj % 2 ^ 64 + j.con % 2 ^ 64 * 2 ^ 64 + j.loss % 2 ^ 64 * 2 ^ 128 + j.wave % 2 ^ 32 * 2 ^ 192 + (if j.wq then 2 ^ 224 else 0)
    + (if j.winc then 2 ^ 225 else 0) + j.sinj % 2 ^ 64 * 2 ^ 256 + j.scon % 2 ^ 64 * 2 ^ 320 + j.sloss % 2 ^ 64 * 2 ^ 384
    + j.lseen % 2 ^ 64 * 2 ^ 448

/-- One `fstat` whose record lands. -/
def fstatStep (core : Nat) (w : Wait) (s : State) : State :=
  match w.kind with
  | .fstat key y =>
    let s1 := spadPut s (selfSpad (getCore s core) core) y (leBytes 64 (fstatRecord (getJob s key)))
    let k := getCore s1 core
    setCore s1 core { k with ctx := endWait k.ctx w (statusW 0 (getJob s key).wave) }
  | _ => s

/-- `FSTAT_RECORD_LANDING` (R343, R348). -/
def execFstatRecordLanding (core : Nat) (s : State) : Out :=
  .next ((getCore s core).ctx.waits.foldl (fun s w => fstatStep core w s) s)

/-! ### The sparge wave -/

/-- The enabled origin slot of a job in this package. -/
def waveOrigin (s : State) (job : Nat) : Option JobSlot := (s.jobs.find? fun x => x.2.en && x.2.origin && x.2.job == job).map (·.2)

/-- Dies whose interface is a leaf of a job's tree (R350). -/
def waveLeaves (s : State) (job : Nat) : List Nat := (List.range 4).filter fun d => (jobOn s d job).isSome

/-- Whether an interface is cut off by a lost link (R353). -/
def cutOff (s : State) (job die : Nat) : Bool := s.links.any fun l => Config.linkTree l job && Config.linkLeaf l job die

/-- Whether a reply is marked incomplete (R353). -/
def treeCut (s : State) (job : Nat) : Bool := s.links.any fun l => Config.linkTree l job

/-- Whether a job's origin slot is in another package: some interface of the job is, and no slot here is its origin, enabled or not. -/
def originElsewhere (s : State) (job : Nat) : Bool :=
  Config.jobElsewhere job && !(s.jobs.any fun x => x.2.origin && x.2.job == job)

/-- Whether a wave is running (R350): a sent one ends with its result at the last leaf that there still is. -/
def waveRuns (s : State) (job : Nat) : Bool :=
  let w := getWave s job
  w.running && (!w.sent || (waveLeaves s job).any fun d => !cutOff s job d && !w.told.contains d)

/-- Whether the root starts a wave now (R350); with the origin slot elsewhere the start comes from outside (log 16). -/
def waveDue (s : State) (job : Nat) : Bool :=
  let w := getWave s job
  !waveRuns s job && (match waveOrigin s job with
    | some j => decide (j.enTick + (w.num + 1) * j.spgper ≤ s.tick)
    | none => originElsewhere s job && !(waveLeaves s job).isEmpty)

/-- `WAVE_START` (R350): the root counts its waves; of a root elsewhere the number is its own, and it only rises (log 16). -/
def execWaveStart (job : Nat) (s : State) : Out :=
  let w := getWave s job
  let num := if (waveOrigin s job).isSome then w.num + 1 else max (w.num + 1) (Config.rootWave job (w.begun + 1))
  if waveDue s job then .next (setWave s job { num := num, begun := w.begun + 1, running := true }) else .next s

/-- Whether a leaf may reply in the pass in progress. -/
def flitDue (s : State) (job die : Nat) : Bool :=
  let w := getWave s job
  w.running && !w.sent && (waveLeaves s job).contains die && !cutOff s job die && !(w.got.any fun (x : Nat × Nat × Nat × Nat) => x.1 == die)

/-- `WAVE_DOWN_FLIT` (R350, R353): the leaf reads its three counters together and replies. -/
def execWaveDownFlit (job die : Nat) (s : State) : Out :=
  let w := getWave s job
  match jobOn s die job with
  | some key =>
    let j := getJob s key
    .next (if flitDue s job die then setWave s job { w with got := w.got ++ [(die, j.inj, j.con, j.loss)] } else s)
  | none => .next s

/-- Whether every leaf that is not cut off has replied. -/
def passDone (s : State) (job : Nat) : Bool :=
  let w := getWave s job
  (waveLeaves s job).all fun d => cutOff s job d || w.got.any fun (x : Nat × Nat × Nat × Nat) => x.1 == d

/-- The sums of a pass, modulo 2^64 (R351): over the interfaces here, and those elsewhere when the job has any (log 16). -/
def waveSums (job : Nat) (w : Wave) : Nat × Nat × Nat :=
  let r := if Config.jobElsewhere job then Config.remoteSums job w.begun w.pass else (0, 0, 0)
  let t := w.got.foldl (fun (acc : Nat × Nat × Nat) x => (acc.1 + x.2.1, acc.2.1 + x.2.2.1, acc.2.2 + x.2.2.2)) r
  (t.1 % 2 ^ 64, t.2.1 % 2 ^ 64, t.2.2 % 2 ^ 64)

/-- Whether the pass-1 sums have reached the root; whether those of pass 2 have. -/
def pass2Due (s : State) (job : Nat) : Bool := let w := getWave s job; w.running && w.pass == 1 && passDone s job
def resultDue (s : State) (job : Nat) : Bool := let w := getWave s job; w.running && w.pass == 2 && !w.sent && passDone s job

/-- Whether a message of a job is unsent or on its way here, in a pool here or taken, or awaits a notice here (R352). -/
def jobHeld (s : State) (job : Nat) : Bool :=
  (s.msgs.any fun x => x.2.job == job && (x.2.notice || (x.2.st == 0 && (msgHere s x.1 x.2 || !msgSent s x.2)))) ||
    (s.jobs.any fun x => x.2.en && x.2.job == job && x.2.cells != [])

/-- Messages of this package to another one, of a job, that are under way for all that is known here. -/
def jobAway (s : State) (job : Nat) : List Nat :=
  (s.msgs.filter fun x => ownMsg x.1 && x.2.job == job && x.2.st == 0 && !msgHere s x.1 x.2).map (·.1)

/-- `WAVE_PASS2_START` (R350). -/
def execWavePass2Start (job : Nat) (s : State) : Out :=
  let w := getWave s job
  .next (if pass2Due s job then setWave s job { w with pass := 2, s1 := waveSums job w, got := [], inc := treeCut s job,
                                                       held := jobHeld s job, away := jobAway s job } else s)

/-- Whether a wave found its job quiet (R351). -/
def waveQuiet (inc : Bool) (s1 s2 : Nat × Nat × Nat) : Bool :=
  !inc && s1 == s2 && s2.1 == (s2.2.1 + s2.2.2) % 2 ^ 64

/-- The sums of pass 2. Those of interfaces elsewhere are free but for what R352 says of them: with messages outstanding between the
passes they do not balance (log 16). -/
def finalSums (job : Nat) (w : Wave) : Nat × Nat × Nat :=
  let r := waveSums job w
  if Config.jobElsewhere job && w.held && waveQuiet false w.s1 r then (r.1, (r.2.1 + 2 ^ 64 - 1) % 2 ^ 64, r.2.2) else r

/-- Messages that a quiet wave has found consumed elsewhere: no notice of them comes later (R352, R354). -/
def settleAway (ns : List Nat) (s : State) : State :=
  { s with msgs := s.msgs.map fun x => if ns.contains x.1 ∧ x.2.st = 0 then (x.1, { x.2 with st := 2, bytes := [] }) else x }

/-- `WAVE_RESULT_SEND` (R350, R351). -/
def execWaveResultSend (job : Nat) (s : State) : Out :=
  let w := getWave s job
  if resultDue s job then
    let s2 := finalSums job w
    let inc := w.inc || treeCut s job
    let reached := (waveLeaves s job).any fun d => !cutOff s job d
    let quiet := waveQuiet inc w.s1 s2
    let s1 := if quiet then settleAway w.away s else s
    .next (setWave s1 job { w with s2 := s2, inc := inc, quiet := quiet, sent := true, running := reached })
  else .next s

/-- Whether a result reaches a leaf now. -/
def arrivalDue (s : State) (job die : Nat) : Bool :=
  let w := getWave s job
  w.running && w.sent && (waveLeaves s job).contains die && !cutOff s job die && !w.told.contains die

/-- The result of a wave for the waits of a context (R347): those of the slot that began before the wave did. -/
def giveQuiet (key begun : Nat) (v : Word) (c : Ctx) : Ctx :=
  { c with waits := c.waits.map fun w =>
      match w.kind with
      | .quiet k after z none => if k = key ∧ after < begun then { w with kind := .quiet k after z (some v) } else w
      | _ => w }

/-- Whether a context waits for the result. -/
def awaitsQuiet (key begun : Nat) (c : Ctx) : Bool :=
  c.waits.any fun w =>
    match w.kind with
    | .quiet k after _ none => k == key && decide (after < begun)
    | _ => false

/-- Changes every context of the package: those in cores, those held while a handler runs, those saved. -/
def mapCtxs (f : Ctx → Ctx) (s : State) : State :=
  { s with
    cores := s.cores.map fun x => (x.1, { x.2 with ctx := f x.2.ctx, svc := x.2.svc.map fun h => { h with host := f h.host } }),
    saved := s.saved.map fun v => { v with ctx := f v.ctx } }

/-- The contexts of the package. -/
def allCtxs (s : State) : List Ctx :=
  (s.cores.flatMap fun x => x.2.ctx :: (x.2.svc.map (·.host)).toList) ++ s.saved.map (·.ctx)

/-- The wave once a leaf has its result: it ends with the last of them. -/
def wavePassed (s : State) (job die : Nat) : State :=
  let w := getWave s job
  let told := die :: w.told
  let rest := (waveLeaves s job).filter fun d => !cutOff s job d && !told.contains d
  setWave s job { w with told := told, running := !rest.isEmpty }

/-- `WAVE_RESULT_ARRIVAL` (R347, R350): the slot keeps the result; a quiet one ends the waits of the job at the interface. -/
def execWaveResultArrival (job die : Nat) (s : State) : Out :=
  let w := getWave s job
  match jobOn s die job with
  | some key =>
    if arrivalDue s job die then
      let j := { getJob s key with wave := w.num, wq := w.quiet, winc := w.inc, sinj := w.s2.1, scon := w.s2.2.1, sloss := w.s2.2.2 }
      let s1 := wavePassed s job die
      if w.quiet && (allCtxs s).any (awaitsQuiet key w.begun) then
        let v := statusW (if j.lseen < j.sloss then 7 else 6) w.num
        .next (mapCtxs (giveQuiet key w.begun v) (setJob s1 key { j with lseen := j.sloss }))
      else .next (setJob s1 key j)
    else .next s
  | none => .next s

end Sys2Proof.Machine
end

