-- ==== Sys2Proof/Machine/Slots.lean ====
section
/-! DEFINITION. The instructions of the slots as a bundle sees them (spec/03 R47, R54, R55): what each reads and writes, the
ports it uses, its privilege, and the definition that issues it. -/

namespace Sys2Proof.Machine

/-- What the words of an instruction name: its guard, the operands it reads, its destination (R47 to R50). -/
structure Names where
  g  : Guard
  rs : List SOp := []
  rv : List VOp := []
  rp : List (Fin 16) := []
  ds : Option SDst := none
  dv : Option VDst := none
  dp : Option (Fin 16) := none
  deriving DecidableEq, Repr

def amtReads : Amt → List SOp
  | .reg b => [b]
  | .imm _ => []

def vamtReads : VAmt → List VOp
  | .reg b => [b]
  | .imm _ => []

def ixReads : LaneIx → List SOp
  | .reg c => [c]
  | .imm _ => []

/-- The names of an instruction of a slot; none for `nop` and for rows that stand in no slot. The rotation of p8 to p15 by `loopb` counts
as no read of them (DESIGN CHOICE, log 58: R47 says only that `loopb` writes nothing that the check records). -/
def namesOf : Instr → Option Names
  | .add g d a b | .sub g d a b | .mul g d a b | .mulh g d a b | .mulhz g d a b | .div g d a b | .divz g d a b
  | .rem g d a b | .remz g d a b | .min g d a b | .max g d a b | .minz g d a b | .maxz g d a b | .and g d a b
  | .or g d a b | .xor g d a b | .andn g d a b | .orn g d a b | .bfi g d a b _ _ | .lnchPh g d a b
  | .join g d a b | .cpytRd g d _ _ a b | .cpytWr g d _ _ a b | .cpys g d _ a b | .bari g d _ a b
  | .barw g d _ a b | .permit g d _ a b | .twopen g d _ a b | .fdone g d _ a b | .quiet g d _ a b
  | .fstat g d _ a b =>
    some { g := g, ds := some d, rs := [a, b] }
  | .neg g d a | .abs g d a | .clz g d a | .ctz g d a | .popc g d a | .bswap g d a | .sext g d a _
  | .zext g d a _ | .bfx g d a _ _ | .mov g d a | .lea g d a _ | .addi g d a _ | .lih g d a _ | .ldB g d a _
  | .ldBz g d a _ | .ldH g d a _ | .ldHz g d a _ | .ldW g d a _ | .ldWz g d a _ | .ldD g d a _ | .cancel g d a
  | .twclose g d _ a =>
    some { g := g, ds := some d, rs := [a] }
  | .shl g d a n | .shr g d a n | .sar g d a n | .rotl g d a n =>
    some { g := g, ds := some d, rs := [a] ++ amtReads n }
  | .sel g d p a b =>
    some { g := g, ds := some d, rs := [a, b], rp := [p] }
  | .li g d _ | .call g _ d _ | .sget g d _ | .lnchSelf g d _ | .eget g d _ | .drain g d _ _ =>
    some { g := g, ds := some d }
  | .cmp g _ pd a b =>
    some { g := g, dp := some pd, rs := [a, b] }
  | .cmpi g _ pd a _ =>
    some { g := g, dp := some pd, rs := [a] }
  | .pand g pd pa _ pb _ | .por g pd pa _ pb _ | .pxor g pd pa _ pb _ =>
    some { g := g, dp := some pd, rp := [pa, pb] }
  | .pnot g pd pa _ =>
    some { g := g, dp := some pd, rp := [pa] }
  | .stB g b a _ | .stH g b a _ | .stW g b a _ | .stD g b a _ =>
    some { g := g, rs := [b, a] }
  | .br g _ _ | .loopb g _ | .trig g | .exit g | .trap g _ | .rte g | .brk g _ | .oclm g _ | .orls g _
  | .mzero g _ _ | .mma g _ _ _ _ _ _ | .mmab g _ _ _ _ _ | .mmas g _ _ _ _ | .scacc g _ _ _ _ _ _
  | .acnorm g _ | .afscan g _ _ | .afcomp g _ _ =>
    some { g := g }
  | .bri g _ a _ | .ret g _ a | .loop g a _ _ | .sleepto g a | .sput g _ a =>
    some { g := g, rs := [a] }
  | .mwait g d _ a b c | .svc g d _ a b c | .lnch g d a b c | .cpyRd g d _ _ a b c | .cpyWr g d _ _ a b c
  | .cpyo g d _ _ a b c | .cpya g d _ _ a b c | .mcast g d _ _ a b c | .mcastOps g d _ _ a b c
  | .gath g d _ _ a b c | .scat g d _ _ a b c | .aadd g d _ _ a b c | .amin g d _ _ a b c | .amax g d _ _ a b c
  | .aand g d _ _ a b c | .aor g d _ _ a b c | .axor g d _ _ a b c | .aswp g d _ _ a b c | .acas g d _ _ a b c
  | .tlbiRng g d _ _ a b c | .rdc g d _ _ _ a b c | .fsend g d _ _ a b c | .frecv g d _ a b c =>
    some { g := g, ds := some d, rs := [a, b, c] }
  | .vadd g d _ a b | .vsub g d _ a b | .vmul g d _ a b | .vmulh g d _ _ a b | .vwmul g d _ _ _ a b
  | .vnarrow g d _ _ _ _ _ a b | .vadds g d _ _ a b | .vsubs g d _ _ a b | .vmin g d _ a b | .vmax g d _ a b
  | .vminz g d _ a b | .vmaxz g d _ a b | .vand g d _ a b | .vor g d _ a b | .vxor g d _ a b | .vandn g d _ a b
  | .vcmp g d _ _ a b | .vfadd g d _ _ a b | .vfsub g d _ _ a b | .vfmul g d _ _ a b | .vfmin g d _ a b
  | .vfmax g d _ a b | .vfcmp g d _ _ a b | .vslide g d _ _ a b | .vzip g d _ _ a b | .vunzip g d _ _ a b =>
    some { g := g, dv := some d, rv := [a, b] }
  | .vmac g d _ a b c | .vwmac g d _ _ _ _ a b c | .vsel g d _ a b c | .vfma g d _ _ a b c
  | .vperm g d _ _ a b c =>
    some { g := g, dv := some d, rv := [a, b, c] }
  | .vabs g d _ a | .vneg g d _ a | .vclz g d _ a | .vpopc g d _ a | .vfabs g d _ a | .vfneg g d _ a
  | .vrcp g d _ _ a | .vrsqrt g d _ _ a | .vexp2 g d _ _ a | .vlog2 g d _ _ a | .vsigm g d _ _ a
  | .vtanh g d _ _ a | .vfcvt g d _ _ _ _ _ _ a | .vamax g d _ a | .vqmx g d _ _ a | .vdqmx g d _ _ _ _ a
  | .vred g d _ _ _ a =>
    some { g := g, dv := some d, rv := [a] }
  | .vshl g d _ a n | .vshr g d _ a n | .vsar g d _ a n =>
    some { g := g, dv := some d, rv := [a] ++ vamtReads n }
  | .vbcastScalar g d _ a | .vld g d a _ =>
    some { g := g, dv := some d, rs := [a] }
  | .vbcastImm g d _ _ | .xinL g d _ | .xinX g d _ | .xstatL g d _ | .xstatX g d _ | .ordv g d _ _ _
  | .acrd g d _ _ _ | .acexpRd g d _ | .afcarryRd g d _ _ =>
    some { g := g, dv := some d }
  | .vins g d _ a b ix =>
    some { g := g, dv := some d, rs := [b] ++ ixReads ix, rv := [a] }
  | .vext g d _ a ix =>
    some { g := g, dv := some d, rs := ixReads ix, rv := [a] }
  | .vscan g d _ _ _ a b =>
    some { g := g, dv := some d, rv := [a] ++ b.toList }
  | .vst g b a _ =>
    some { g := g, rs := [a], rv := [b] }
  | .vldg g d _ a _ b c =>
    some { g := g, dv := some d, rs := [a, c], rv := [b] }
  | .vsts g _ b a _ c =>
    some { g := g, rs := [a, c], rv := [b] }
  | .xoutD g a _ | .xoutW g a | .xoutCfg g a | .owr g _ _ _ a | .acwr g _ _ _ a | .acexpWr g _ a
  | .afgainSet g _ _ a | .afgainMul g _ _ a | .afgainMix g _ _ a | .afgainAdd g _ _ a | .afcarryWr g _ _ a
  | .afcarryWrH g _ a =>
    some { g := g, rv := [a] }
  | .mdpc g b =>
    some { g := g, rs := [b] }
  | .tlbiVa g d _ _ a c =>
    some { g := g, ds := some d, rs := [a, c] }
  | .tlbiAll g d _ _ c =>
    some { g := g, ds := some d, rs := [c] }
  | _ => none

/-- The definition that issues an instruction of a slot. -/
def slotIssue : Instr → Option Issue
  | .nop => some issueNop
  | .add g d a b => some (issueAdd g d a b)
  | .sub g d a b => some (issueSub g d a b)
  | .neg g d a => some (issueNeg g d a)
  | .mul g d a b => some (issueMul g d a b)
  | .mulh g d a b => some (issueMulh g d a b)
  | .mulhz g d a b => some (issueMulhz g d a b)
  | .div g d a b => some (issueDiv g d a b)
  | .divz g d a b => some (issueDivz g d a b)
  | .rem g d a b => some (issueRem g d a b)
  | .remz g d a b => some (issueRemz g d a b)
  | .min g d a b => some (issueMin g d a b)
  | .max g d a b => some (issueMax g d a b)
  | .minz g d a b => some (issueMinz g d a b)
  | .maxz g d a b => some (issueMaxz g d a b)
  | .abs g d a => some (issueAbs g d a)
  | .and g d a b => some (issueAnd g d a b)
  | .or g d a b => some (issueOr g d a b)
  | .xor g d a b => some (issueXor g d a b)
  | .andn g d a b => some (issueAndn g d a b)
  | .orn g d a b => some (issueOrn g d a b)
  | .shl g d a n => some (issueShl g d a n)
  | .shr g d a n => some (issueShr g d a n)
  | .sar g d a n => some (issueSar g d a n)
  | .rotl g d a n => some (issueRotl g d a n)
  | .clz g d a => some (issueClz g d a)
  | .ctz g d a => some (issueCtz g d a)
  | .popc g d a => some (issuePopc g d a)
  | .bswap g d a => some (issueBswap g d a)
  | .sext g d a n => some (issueSext g d a n)
  | .zext g d a n => some (issueZext g d a n)
  | .bfx g d a pos w => some (issueBfx g d a pos w)
  | .bfi g d a b pos w => some (issueBfi g d a b pos w)
  | .sel g d p a b => some (issueSel g d p a b)
  | .mov g d a => some (issueMov g d a)
  | .lea g d a disp => some (issueLea g d a disp)
  | .addi g d a imm => some (issueAddi g d a imm)
  | .li g d imm => some (issueLi g d imm)
  | .lih g d a imm => some (issueLih g d a imm)
  | .cmp g cc pd a b => some (issueCmp g cc pd a b)
  | .cmpi g cc pd a imm => some (issueCmpi g cc pd a imm)
  | .pand g pd pa na pb nb => some (issuePand g pd pa na pb nb)
  | .por g pd pa na pb nb => some (issuePor g pd pa na pb nb)
  | .pxor g pd pa na pb nb => some (issuePxor g pd pa na pb nb)
  | .pnot g pd pa na => some (issuePnot g pd pa na)
  | .ldB g d a disp => some (issueLdB g d a disp)
  | .ldBz g d a disp => some (issueLdBz g d a disp)
  | .ldH g d a disp => some (issueLdH g d a disp)
  | .ldHz g d a disp => some (issueLdHz g d a disp)
  | .ldW g d a disp => some (issueLdW g d a disp)
  | .ldWz g d a disp => some (issueLdWz g d a disp)
  | .ldD g d a disp => some (issueLdD g d a disp)
  | .stB g b a disp => some (issueStB g b a disp)
  | .stH g b a disp => some (issueStH g b a disp)
  | .stW g b a disp => some (issueStW g b a disp)
  | .stD g b a disp => some (issueStD g b a disp)
  | .br g an imm => some (issueBr g an imm)
  | .bri g an a imm => some (issueBri g an a imm)
  | .call g an d imm => some (issueCall g an d imm)
  | .ret g an a => some (issueRet g an a)
  | .loop g a imm stg => some (issueLoop g a imm stg)
  | .loopb g imm => some (issueLoopb g imm)
  | .sleepto g a => some (issueSleepto g a)
  | .mwait g d cc a b c => some (issueMwait g d cc a b c)
  | .trig g => some (issueTrig g)
  | .exit g => some (issueExit g)
  | .svc g d n a b c => some (issueSvc g d n a b c)
  | .trap g n => some (issueTrap g n)
  | .rte g => some (issueRte g)
  | .sget g d r => some (issueSget g d r)
  | .sput g r a => some (issueSput g r a)
  | .brk g n => some (issueBrk g n)
  | .lnch g d a b c => some (issueLnch g d a b c)
  | .lnchPh g d a b => some (issueLnchPh g d a b)
  | .lnchSelf g d lvl => some (issueLnchSelf g d lvl)
  | .join g d a b => some (issueJoin g d a b)
  | .cancel g d a => some (issueCancel g d a)
  | .eget g d idx => some (issueEget g d idx)
  | .vadd g d lt a b => some (issueVadd g d lt a b)
  | .vsub g d lt a b => some (issueVsub g d lt a b)
  | .vmul g d lt a b => some (issueVmul g d lt a b)
  | .vmulh g d lt u a b => some (issueVmulh g d lt u a b)
  | .vmac g d lt a b c => some (issueVmac g d lt a b c)
  | .vwmul g d lt hi u a b => some (issueVwmul g d lt hi u a b)
  | .vwmac g d lt hi u sat a b c => some (issueVwmac g d lt hi u sat a b c)
  | .vnarrow g d lt s u rnd sat a b => some (issueVnarrow g d lt s u rnd sat a b)
  | .vadds g d lt u a b => some (issueVadds g d lt u a b)
  | .vsubs g d lt u a b => some (issueVsubs g d lt u a b)
  | .vabs g d lt a => some (issueVabs g d lt a)
  | .vneg g d lt a => some (issueVneg g d lt a)
  | .vmin g d lt a b => some (issueVmin g d lt a b)
  | .vmax g d lt a b => some (issueVmax g d lt a b)
  | .vminz g d lt a b => some (issueVminz g d lt a b)
  | .vmaxz g d lt a b => some (issueVmaxz g d lt a b)
  | .vand g d lt a b => some (issueVand g d lt a b)
  | .vor g d lt a b => some (issueVor g d lt a b)
  | .vxor g d lt a b => some (issueVxor g d lt a b)
  | .vandn g d lt a b => some (issueVandn g d lt a b)
  | .vshl g d lt a n => some (issueVshl g d lt a n)
  | .vshr g d lt a n => some (issueVshr g d lt a n)
  | .vsar g d lt a n => some (issueVsar g d lt a n)
  | .vcmp g d cc lt a b => some (issueVcmp g d cc lt a b)
  | .vsel g d lt a b c => some (issueVsel g d lt a b c)
  | .vclz g d lt a => some (issueVclz g d lt a)
  | .vpopc g d lt a => some (issueVpopc g d lt a)
  | .vfadd g d lt rnd a b => some (issueVfadd g d lt rnd a b)
  | .vfsub g d lt rnd a b => some (issueVfsub g d lt rnd a b)
  | .vfmul g d lt rnd a b => some (issueVfmul g d lt rnd a b)
  | .vfma g d lt rnd a b c => some (issueVfma g d lt rnd a b c)
  | .vfmin g d lt a b => some (issueVfmin g d lt a b)
  | .vfmax g d lt a b => some (issueVfmax g d lt a b)
  | .vfabs g d lt a => some (issueVfabs g d lt a)
  | .vfneg g d lt a => some (issueVfneg g d lt a)
  | .vfcmp g d cc lt a b => some (issueVfcmp g d cc lt a b)
  | .vrcp g d lt rnd a => some (issueVrcp g d lt rnd a)
  | .vrsqrt g d lt rnd a => some (issueVrsqrt g d lt rnd a)
  | .vexp2 g d lt rnd a => some (issueVexp2 g d lt rnd a)
  | .vlog2 g d lt rnd a => some (issueVlog2 g d lt rnd a)
  | .vsigm g d lt rnd a => some (issueVsigm g d lt rnd a)
  | .vtanh g d lt rnd a => some (issueVtanh g d lt rnd a)
  | .vfcvt g d lt src u p rnd sat a => some (issueVfcvt g d lt src u p rnd sat a)
  | .vamax g d lt a => some (issueVamax g d lt a)
  | .vqmx g d lt src a => some (issueVqmx g d lt src a)
  | .vdqmx g d lt src rnd sat a => some (issueVdqmx g d lt src rnd sat a)
  | .vperm g d lt z a b c => some (issueVperm g d lt z a b c)
  | .vslide g d lt s a b => some (issueVslide g d lt s a b)
  | .vbcastScalar g d lt a => some (issueVbcastScalar g d lt a)
  | .vbcastImm g d lt imm => some (issueVbcastImm g d lt imm)
  | .vins g d lt a b ix => some (issueVins g d lt a b ix)
  | .vext g d lt a ix => some (issueVext g d lt a ix)
  | .vzip g d lt hi a b => some (issueVzip g d lt hi a b)
  | .vunzip g d lt hi a b => some (issueVunzip g d lt hi a b)
  | .vred g d op lt rnd a => some (issueVred g d op lt rnd a)
  | .vscan g d op lt rnd a b => some (issueVscan g d op lt rnd a b)
  | .vld g d a disp => some (issueVld g d a disp)
  | .vst g b a disp => some (issueVst g b a disp)
  | .vldg g d lt a disp b c => some (issueVldg g d lt a disp b c)
  | .vsts g lt b a disp c => some (issueVsts g lt b a disp c)
  | .xinL g d n => some (issueXinL g d n)
  | .xinX g d c => some (issueXinX g d c)
  | .xoutD g a m => some (issueXoutD g a m)
  | .xoutW g a => some (issueXoutW g a)
  | .xoutCfg g a => some (issueXoutCfg g a)
  | .xstatL g d n => some (issueXstatL g d n)
  | .xstatX g d c => some (issueXstatX g d c)
  | .oclm g o => some (issueOclm g o)
  | .orls g o => some (issueOrls g o)
  | .owr g part o row a => some (issueOwr g part o row a)
  | .ordv g d part o row => some (issueOrdv g d part o row)
  | .mzero g f64 acc => some (issueMzero g f64 acc)
  | .mma g ef acc oa ob row0 nrow => some (issueMma g ef acc oa ob row0 nrow)
  | .mmab g ef pp oa ob kb => some (issueMmab g ef pp oa ob kb)
  | .mmas g ef dst oa ob => some (issueMmas g ef dst oa ob)
  | .scacc g ef acc pp oa ob kb => some (issueScacc g ef acc pp oa ob kb)
  | .acrd g d part acc row => some (issueAcrd g d part acc row)
  | .acwr g part acc row a => some (issueAcwr g part acc row a)
  | .acexpRd g d acc => some (issueAcexpRd g d acc)
  | .acexpWr g acc a => some (issueAcexpWr g acc a)
  | .acnorm g acc => some (issueAcnorm g acc)
  | .mdpc g b => some (issueMdpc g b)
  | .afgainSet g acc row a => some (issueAfgainSet g acc row a)
  | .afgainMul g acc row a => some (issueAfgainMul g acc row a)
  | .afgainMix g acc row a => some (issueAfgainMix g acc row a)
  | .afgainAdd g acc row a => some (issueAfgainAdd g acc row a)
  | .afscan g acc n => some (issueAfscan g acc n)
  | .afcomp g acc n => some (issueAfcomp g acc n)
  | .afcarryRd g d part acc => some (issueAfcarryRd g d part acc)
  | .afcarryWr g part acc a => some (issueAfcarryWr g part acc a)
  | .afcarryWrH g acc a => some (issueAfcarryWrH g acc a)
  | .cpyRd g d pol bar a b c => some (issueCpyRd g d pol bar a b c)
  | .cpyWr g d pol bar a b c => some (issueCpyWr g d pol bar a b c)
  | .cpytRd g d pol bar a b => some (issueCpytRd g d pol bar a b)
  | .cpytWr g d pol bar a b => some (issueCpytWr g d pol bar a b)
  | .cpyo g d pol bar a b c => some (issueCpyo g d pol bar a b c)
  | .cpya g d pol bar a b c => some (issueCpya g d pol bar a b c)
  | .mcast g d pol bar a b c => some (issueMcast g d pol bar a b c)
  | .mcastOps g d pol bar a b c => some (issueMcastOps g d pol bar a b c)
  | .gath g d pol bar a b c => some (issueGath g d pol bar a b c)
  | .scat g d pol bar a b c => some (issueScat g d pol bar a b c)
  | .cpys g d pol a b => some (issueCpys g d pol a b)
  | .bari g d pol a b => some (issueBari g d pol a b)
  | .barw g d pol a b => some (issueBarw g d pol a b)
  | .drain g d pol sc => some (issueDrain g d pol sc)
  | .permit g d pol a b => some (issuePermit g d pol a b)
  | .twopen g d pol a b => some (issueTwopen g d pol a b)
  | .twclose g d pol a => some (issueTwclose g d pol a)
  | .aadd g d pol sz a b c => some (issueAadd g d pol sz a b c)
  | .amin g d pol sz a b c => some (issueAmin g d pol sz a b c)
  | .amax g d pol sz a b c => some (issueAmax g d pol sz a b c)
  | .aand g d pol sz a b c => some (issueAand g d pol sz a b c)
  | .aor g d pol sz a b c => some (issueAor g d pol sz a b c)
  | .axor g d pol sz a b c => some (issueAxor g d pol sz a b c)
  | .aswp g d pol sz a b c => some (issueAswp g d pol sz a b c)
  | .acas g d pol sz a b c => some (issueAcas g d pol sz a b c)
  | .tlbiVa g d pol sc a c => some (issueTlbiVa g d pol sc a c)
  | .tlbiRng g d pol sc a b c => some (issueTlbiRng g d pol sc a b c)
  | .tlbiAll g d pol sc c => some (issueTlbiAll g d pol sc c)
  | .rdc g d pol op len a b c => some (issueRdc g d pol op len a b c)
  | .fsend g d pol tag a b c => some (issueFsend g d pol tag a b c)
  | .frecv g d pol a b c => some (issueFrecv g d pol a b c)
  | .fdone g d pol a b => some (issueFdone g d pol a b)
  | .quiet g d pol a b => some (issueQuiet g d pol a b)
  | .fstat g d pol a b => some (issueFstat g d pol a b)
  | _ => none

/-! ### Ports, privilege, order -/

/-- The ports of R54. -/
inductive Port where
  | vector | scalar | operand | permute
  deriving DecidableEq, Repr

/-- Accesses that a port takes in a bundle. -/
def portCap : Port → Nat
  | .vector => 2
  | _ => 1

/-- The port that an instruction uses at issue (R54). -/
def portOf : Instr → Option Port
  | .vld _ _ _ _ | .vst _ _ _ _ | .vldg _ _ _ _ _ _ _ | .vsts _ _ _ _ _ _ => some .vector
  | .ldB _ _ _ _ | .ldBz _ _ _ _ | .ldH _ _ _ _ | .ldHz _ _ _ _ | .ldW _ _ _ _ | .ldWz _ _ _ _ | .ldD _ _ _ _
  | .stB _ _ _ _ | .stH _ _ _ _ | .stW _ _ _ _ | .stD _ _ _ _ | .mwait _ _ _ _ _ _ | .cpytRd _ _ _ _ _ _
  | .cpytWr _ _ _ _ _ _ | .bari _ _ _ _ _ | .barw _ _ _ _ _ => some .scalar
  | .owr _ _ _ _ _ => some .operand
  | .vperm _ _ _ _ _ _ _ | .vzip _ _ _ _ _ _ | .vunzip _ _ _ _ _ _ | .vred _ _ _ _ _ _ | .vscan _ _ _ _ _ _ _
  | .vslide _ _ _ _ _ _ => some .permute
  | _ => none

/-- Uses that need kernel privilege (R55). -/
def needsKernel : Instr → Bool
  | .rte _ | .tlbiVa _ _ _ _ _ _ | .tlbiRng _ _ _ _ _ _ _ | .tlbiAll _ _ _ _ _ => true
  | .sput _ r _ => sysKernel r
  | _ => false

/-- Uses that need conductor privilege (R55, R287). -/
def needsConductor : Instr → Bool
  | .lnch _ _ _ _ _ | .lnchPh _ _ _ _ | .join _ _ _ _ | .cancel _ _ _ => true
  | _ => false

/-- Instructions that a service handler may not use (R235). -/
def handlerBars : Instr → Bool
  | .sleepto _ _ | .mwait _ _ _ _ _ _ | .svc _ _ _ _ _ _ | .trap _ _ | .brk _ _ | .rte _ | .lnch _ _ _ _ _ | .lnchPh _ _ _ _
  | .lnchSelf _ _ _ | .join _ _ _ _ | .cancel _ _ _ | .eget _ _ _ => true
  | _ => false

/-- The order in which the instructions of a bundle take effect: reads and results, stores (R76), the barrier object and `mdpc`, what ends
or turns the stream (`loop` and `loopb` change the predicates after every read of them, R85, R86), and writes that the next cycle
sees (R95). Of a `sput` to `MPC` beside an `mdpc` or an `mmas` the value of the `sput` remains (DESIGN CHOICE, log 58: all change `MPC` for
the next cycle). -/
def rankOf : Instr → Nat
  | .stB _ _ _ _ | .stH _ _ _ _ | .stW _ _ _ _ | .stD _ _ _ _ | .vst _ _ _ _ | .vsts _ _ _ _ _ _ => 1
  | .bari _ _ _ _ _ | .mdpc _ _ => 2
  | .loop _ _ _ _ | .loopb _ _ | .svc _ _ _ _ _ _ | .exit _ => 3
  | .sput _ _ _ | .rte _ => 4
  | _ => 0

end Sys2Proof.Machine
end

