-- ==== Sys2Proof/Machine/Bundle.lean ====
section
/-! DEFINITION. Bundles (spec/03 R39 to R55, spec/05 R77 to R79, spec/09 R173): the checks of a bundle, its commit, and the end of
its cycle; landings. -/

namespace Sys2Proof.Machine

/-! ### Decoding -/

/-- An instruction in its slot. -/
structure InSlot where
  slot : Nat
  i    : Instr
  deriving DecidableEq

/-- A mask of slots. -/
def slotMask (l : List Nat) : Nat := (List.range 6).foldl (fun m i => if l.contains i then m + 2 ^ i else m) 0

/-- A stop of decode (R225, R226). -/
def decStop (cause : Cause) (slots : List Nat) : Stop := { cause := cause, smask := slotMask slots, engine := 1 }

/-- The present slots of a bundle decoded, with what fails (R55). -/
def decodeSlots (s : State) (ws : List (Nat × Word)) : List (Nat × Except DecErr Instr) :=
  ws.map fun x => (x.1, decodeSlot (feature s 0) (feature s 2) x.1 x.2)

/-- The slots that fail in one way. -/
def failing (e : DecErr) (l : List (Nat × Except DecErr Instr)) : List Nat :=
  (l.filter fun x => match x.2 with | .error f => f == e | .ok _ => false).map (·.1)

/-- The instructions that decoded. -/
def decoded (l : List (Nat × Except DecErr Instr)) : List InSlot :=
  l.filterMap fun x => match x.2 with | .ok i => some ⟨x.1, i⟩ | .error _ => none

/-- The first decode condition of R55 that holds: `BADOPC`, `BADFLD`, `BADOPND`. -/
def decodeStop (l : List (Nat × Except DecErr Instr)) : Option Stop :=
  if failing .badOpc l ≠ [] then some (decStop .badopc (failing .badOpc l))
  else if failing .badFld l ≠ [] then some (decStop .badfld (failing .badFld l))
  else if failing .badOpnd l ≠ [] then some (decStop .badopnd (failing .badOpnd l))
  else none

/-! ### Checks -/

/-- Registers that the group record keeps (R47). -/
inductive RegName where
  | k (i : Fin 32)
  | w (i : Fin 16)
  | p (i : Fin 16)
  deriving DecidableEq, Repr

/-- The keep register or predicate that an instruction names as its destination; `p0` is never recorded (R47). -/
def writesReg (i : Instr) : List RegName :=
  match namesOf i with
  | none => []
  | some n =>
    (match n.ds with | some (.k r) => [.k r] | _ => []) ++ (match n.dv with | some (.w r) => [.w r] | _ => []) ++
    (match n.dp with | some r => if r.val = 0 then [] else [.p r] | none => [])

/-- The keep registers and predicates that an instruction reads with its guard reading `on` (R47). -/
def readsReg (on : Bool) (i : Instr) : List RegName :=
  match namesOf i with
  | none => []
  | some n =>
    let preds := n.g.p :: (if on then n.rp else [])
    ((preds.filter fun r => r.val != 0).map RegName.p) ++
    (if on then
      (n.rs.filterMap fun o => match o with | .k r => some (RegName.k r) | _ => none) ++
      (n.rv.filterMap fun o => match o with | .w r => some (RegName.w r) | _ => none)
    else [])

/-- Whether a context's group has named a register (R47). -/
def inGroup (c : Ctx) : RegName → Bool
  | .k r => c.grpK.getLsbD r.val
  | .w r => c.grpW.getLsbD r.val
  | .p r => c.grpP.getLsbD r.val

/-- Records a destination in the group. -/
def addGroup (c : Ctx) : RegName → Ctx
  | .k r => { c with grpK := c.grpK ||| BitVec.ofNat 32 (2 ^ r.val) }
  | .w r => { c with grpW := c.grpW ||| BitVec.ofNat 16 (2 ^ r.val) }
  | .p r => { c with grpP := c.grpP ||| BitVec.ofNat 16 (2 ^ r.val) }

/-- Whether an instruction's guard reads 1. -/
def onNow (c : Ctx) (i : Instr) : Bool :=
  match namesOf i with
  | some n => guardOn c n.g
  | none => true

/-- Whether a register name is a keep register (R30). -/
def isKeep : RegName → Bool
  | .p _ => false
  | _ => true

/-- Slots that share a keep destination with another slot (R30, R54). -/
def clashing (b : List InSlot) : List Nat :=
  (b.filter fun x => b.any fun y => x.slot != y.slot && (writesReg x.i).any fun r => isKeep r && (writesReg y.i).contains r).map (·.slot)

/-- Slots that use a port beyond its capacity (R54). -/
def oversubscribed (b : List InSlot) : List Nat :=
  [Port.vector, .scalar, .operand, .permute].flatMap fun p =>
    let users := (b.filter fun x => portOf x.i == some p).map (·.slot)
    if portCap p < users.length then users else []

/-- Slots that read a register which another instruction of the group names (R47). -/
def dependent (c : Ctx) (b : List InSlot) : List Nat :=
  (b.filter fun x => (readsReg (onNow c x.i) x.i).any fun r =>
    inGroup c r || b.any fun y => x.slot != y.slot && (writesReg y.i).contains r).map (·.slot)

/-- Slots whose use lacks its privilege (R55). -/
def unprivileged (k : Core) (b : List InSlot) : List Nat :=
  (b.filter fun x => (needsKernel x.i && !coreKern k) || (needsConductor x.i && !coreConductor k)).map (·.slot)

/-- Slots that a service handler may not use (R235). -/
def barred (k : Core) (b : List InSlot) : List Nat :=
  if k.svc.isSome then (b.filter fun x => handlerBars x.i || (decide (1 ≤ x.slot) && decide (x.slot ≤ 3))).map (·.slot) else []

/-- The checks of R55 after decode, in table order: the first that fails. -/
def legalStop (k : Core) (b : List InSlot) : Option Stop :=
  if barred k b ≠ [] then some (decStop .badopc (barred k b))
  else if clashing b ++ oversubscribed b ≠ [] then some (decStop .bundle (clashing b ++ oversubscribed b))
  else if dependent k.ctx b ≠ [] then some (decStop .groupdep (dependent k.ctx b))
  else if unprivileged k b ≠ [] then some (decStop .priv (unprivileged k b))
  else none

/-- The core in issue with a slot. -/
def atSlot (n : Nat) (s : State) : State := { s with sched := { s.sched with slot := n } }

/-- What an instruction does in its slot. -/
def runSlot (x : InSlot) (s : State) : Except Stop State :=
  match slotIssue x.i with
  | some f => f (atSlot x.slot s)
  | none => .ok s

/-- The first execution trap, slot by slot, on the state before the bundle (R55). -/
def trapStop (s : State) : List InSlot → Option Stop
  | [] => none
  | x :: xs =>
    match runSlot x s with
    | .error e => some e
    | .ok _ => trapStop s xs

/-- Vector results of a list that land two cycles or more after the issue cycle (R173). -/
def lateVecs (c : Ctx) (l : List Landing) : Nat := l.countP fun (x : Landing) => isVecRes x.res && decide (c.bc + 2 ≤ x.due)

/-- Vector results that a bundle would add. -/
def addedVecs (s : State) (b : List InSlot) : Nat :=
  let c := curCtx s
  (b.map fun x =>
    match runSlot x s with
    | .ok t => lateVecs c ((getCore t s.sched.cur).ctx.inflight.drop c.inflight.length)
    | .error _ => 0).sum

/-- `INFLIGHT` (R173). -/
def inflightStop (s : State) (b : List InSlot) : Option Stop :=
  let vec := (b.filter fun x => ((namesOf x.i).bind (·.dv)).isSome && x.i != .nop).map (·.slot)
  if vec ≠ [] ∧ 16 < lateVecs (curCtx s) (curCtx s).inflight + addedVecs s b then
    some { cause := .inflight, smask := slotMask vec }
  else none

/-- The first condition that stops a decoded bundle (R55, R173). -/
def bundleStop (s : State) (b : List InSlot) : Option Stop :=
  match legalStop (cur s) b with
  | some e => some e
  | none =>
    match trapStop s b with
    | some e => some e
    | none => inflightStop s b

/-! ### Commit -/

/-- Runs one instruction of a bundle that no check stops. A copy slot sees the slots that were claimed before the bundle
(R195). -/
def commitSlot (claimed : BitVec 24) (s : State) (x : InSlot) : State :=
  let k := cur s
  let before := if 4 ≤ x.slot then setCur s { k with mx := { k.mx with claimed := claimed } } else s
  match runSlot x before with
  | .ok t =>
    if 4 ≤ x.slot then
      let k1 := getCore t s.sched.cur
      setCore t s.sched.cur { k1 with mx := { k1.mx with claimed := k.mx.claimed } }
    else t
  | .error _ => s

/-- All instructions, by the order in which they take effect. The S slot comes first, so that an `sget FLAGS` does not see the flags
that an access-port write or a void read of another slot sets in its own cycle (log 54). -/
def commitAll (s : State) (b : List InSlot) : State :=
  let claimed := (cur s).mx.claimed
  (List.range 5).foldl (fun s n => (b.filter fun x => rankOf x.i == n).foldl (commitSlot claimed) s) s

/-- `PC`, `NPC1` and `NPC2` for the next cycle (R77), with what an `sput` sets after the shift (R95). -/
def shiftNpc (len : Nat) (c : Ctx) : Ctx :=
  { c with
    pc := if c.npc1.valid then c.npc1.target else c.pc + BitVec.ofNat 32 len
    npc1 := c.npc1Set.getD c.npc2
    npc2 := c.npc2Set.getD c.entry
    entry := {}, npc1Set := none, npc2Set := none }

/-- One bundle less before a pending return address; its value is fixed with the second delay bundle (R84). -/
def countRet (pc : Pc) (len : Nat) (r : RetPend) : RetPend :=
  if r.left = 1 ∧ r.addr then
    { r with left := 0, val := (pc + BitVec.ofNat 32 len).setWidth 64 }
  else { r with left := r.left - 1 }

/-- `DEADLINE` after a bundle or a waiting cycle (R77, R87, R237): a bundle with `YIELD` set loads it, a handler's too; it does not
count in handlers. -/
def countDeadline (yields : Bool) (k : Core) : Core :=
  match k.ctx.dlPut with
  | some v => { k with deadline := v, dlSet := true, dlHold := true, ctx := { k.ctx with dlPut := none } }
  | none =>
    if yields then { k with deadline := k.dlreload }
    else if k.svc.isSome then k
    else if k.dlen ∧ k.deadline ≠ 0 then { k with deadline := k.deadline - 1 }
    else k

/-- `STOP` ends the group (R46). -/
def endGroup (stops : Bool) (c : Ctx) : Ctx := if stops then { c with grpK := 0, grpW := 0, grpP := 0 } else c


/-- The end of a bundle's issue cycle on its core (R77). -/
def endIssue (tpl : Unit16) (len : Nat) (s : State) : State :=
  let k := cur s
  let c := endGroup (tplStop tpl) (shiftNpc len { k.ctx with rets := k.ctx.rets.map (countRet k.ctx.pc len) })
  let k1 := countDeadline (tplYield tpl) { k with ctx := c }
  setCur s { k1 with ran := true }

/-- The state in which a bundle issues: what lands with it has landed (R84). -/
def withRets (s : State) : State := setCtx s (landRets (curCtx s))

/-- Whether a stop names a word of the core's own scratchpad, slots or tiles (R295, R307): not one of the dictionary, of a buffer, or a
line of code or metadata. -/
def ownData (e : Stop) : Bool := e.cause == .dataerr && (e.engine == 0 || e.engine == 2 || e.engine == 3)

/-- Takes a stop before the bundle due: nothing of it commits; a failing word of the core's own data may make its block run again
(R295). -/
def stopFor (c : Nat) (e : Stop) (s : State) : State :=
  let t := takeStop c e s
  if ownData e then dataErrRetry c t else t
def stopBundle (e : Stop) (s : State) : State := stopFor s.sched.cur e s

/-- Issues a bundle: its checks, then its commit (R55, R77). -/
def issueBundle (tpl : Unit16) (ws : List (Nat × Word)) (len : Nat) (s : State) : State :=
  let dec := decodeSlots s ws
  let s0 := withRets s
  let b := decoded dec
  match decodeStop dec with
  | some e => stopBundle e s
  | none =>
    match bundleStop s0 b with
    | some e => stopBundle e s
    | none =>
      let s1 := commitAll s0 b
      let named := fun (c : Ctx) => (b.flatMap fun x => writesReg x.i).foldl addGroup c
      let s2 := setCtx s1 (named (curCtx s1))
      endIssue tpl len s2

/-- `BADTPL` (R43). -/
def tplStopOf (tpl : Unit16) (escaped : Bool) : Option Stop :=
  if !tplOk tpl || (escaped && tpl.toNat % 64 == 0) then some (decStop .badtpl []) else none

/-- `ISSUE_DICTIONARY_BUNDLE` (R39, R43, R45, R235, R307). -/
def execIssueDictionaryBundle (idx : Nat) (s : State) : Out :=
  let k := cur s
  if k.svc.isSome then .next (stopBundle (decStop .invcu []) s)
  else if dictBad k idx true then .next (stopBundle (sramStop 1 0 none) s)
  else
    match tplStopOf (dictTpl k idx) false with
    | some e => .next (stopBundle e s)
    | none => .next (issueBundle (dictTpl k idx) (dictWords k idx) 1 s)

/-- `ISSUE_LITERAL_BUNDLE` (R39, R40, R43). -/
def execIssueLiteralBundle (tpl : Unit16) (words : List Word) (s : State) : Out :=
  match tplStopOf tpl true with
  | some e => .next (stopBundle e s)
  | none => .next (issueBundle tpl (slotWords tpl words) (2 + 4 * presCount tpl) s)

/-- `EMPTY_BUNDLE` (R39, R44). -/
def execEmptyBundle (s : State) : Out := .next (issueBundle 0 [] 1 s)

/-- `ANNULLED_BUNDLE` (R79): no slot commits. -/
def execAnnulledBundle (u : AnnulUnit) (s : State) : Out :=
  match u with
  | .dict idx =>
    if (cur s).svc.isSome then .next (stopBundle (decStop .invcu []) s)
    else if dictBad (cur s) idx false then .next (stopBundle (sramStop 1 0 none) s)
    else
      match tplStopOf (dictTpl (cur s) idx) false with
      | some e => .next (stopBundle e s)
      | none => .next (endIssue (dictTpl (cur s) idx) 1 (withRets s))
  | .literal tpl =>
    match tplStopOf tpl true with
    | some e => .next (stopBundle e s)
    | none => .next (endIssue tpl (2 + 4 * presCount tpl) (withRets s))
  | .empty => .next (endIssue 0 1 (withRets s))

/-- `RESULT_LANDING` (R27 to R31): every result due in the cycle lands. -/
def execResultLanding (core : Nat) (s : State) : Out :=
  let k := getCore s core
  .next (setCore s core { k with ctx := landAll k.ctx })

end Sys2Proof.Machine
end

