-- ==== Sys2Proof/Machine/Dispatch.lean ====
section
/-! DEFINITION. One arm per row of the table: a direct call of its meaning. -/

namespace Sys2Proof.Machine

def exec (i : Instr) (s : State) : Host.Outcome State Fault Refusal :=
  match i with
  | .issueDictionaryBundle idx => Sys2Proof.Machine.execIssueDictionaryBundle idx s
  | .issueLiteralBundle tpl words => Sys2Proof.Machine.execIssueLiteralBundle tpl words s
  | .emptyBundle => Sys2Proof.Machine.execEmptyBundle s
  | .annulledBundle u => Sys2Proof.Machine.execAnnulledBundle u s
  | .resultLanding core => Sys2Proof.Machine.execResultLanding core s
  | .nop => Sys2Proof.Machine.execNop s
  | .add g d a b => Sys2Proof.Machine.execAdd g d a b s
  | .sub g d a b => Sys2Proof.Machine.execSub g d a b s
  | .neg g d a => Sys2Proof.Machine.execNeg g d a s
  | .mul g d a b => Sys2Proof.Machine.execMul g d a b s
  | .mulh g d a b => Sys2Proof.Machine.execMulh g d a b s
  | .mulhz g d a b => Sys2Proof.Machine.execMulhz g d a b s
  | .div g d a b => Sys2Proof.Machine.execDiv g d a b s
  | .divz g d a b => Sys2Proof.Machine.execDivz g d a b s
  | .rem g d a b => Sys2Proof.Machine.execRem g d a b s
  | .remz g d a b => Sys2Proof.Machine.execRemz g d a b s
  | .min g d a b => Sys2Proof.Machine.execMin g d a b s
  | .max g d a b => Sys2Proof.Machine.execMax g d a b s
  | .minz g d a b => Sys2Proof.Machine.execMinz g d a b s
  | .maxz g d a b => Sys2Proof.Machine.execMaxz g d a b s
  | .abs g d a => Sys2Proof.Machine.execAbs g d a s
  | .and g d a b => Sys2Proof.Machine.execAnd g d a b s
  | .or g d a b => Sys2Proof.Machine.execOr g d a b s
  | .xor g d a b => Sys2Proof.Machine.execXor g d a b s
  | .andn g d a b => Sys2Proof.Machine.execAndn g d a b s
  | .orn g d a b => Sys2Proof.Machine.execOrn g d a b s
  | .shl g d a n => Sys2Proof.Machine.execShl g d a n s
  | .shr g d a n => Sys2Proof.Machine.execShr g d a n s
  | .sar g d a n => Sys2Proof.Machine.execSar g d a n s
  | .rotl g d a n => Sys2Proof.Machine.execRotl g d a n s
  | .clz g d a => Sys2Proof.Machine.execClz g d a s
  | .ctz g d a => Sys2Proof.Machine.execCtz g d a s
  | .popc g d a => Sys2Proof.Machine.execPopc g d a s
  | .bswap g d a => Sys2Proof.Machine.execBswap g d a s
  | .sext g d a n => Sys2Proof.Machine.execSext g d a n s
  | .zext g d a n => Sys2Proof.Machine.execZext g d a n s
  | .bfx g d a pos w => Sys2Proof.Machine.execBfx g d a pos w s
  | .bfi g d a b pos w => Sys2Proof.Machine.execBfi g d a b pos w s
  | .sel g d p a b => Sys2Proof.Machine.execSel g d p a b s
  | .mov g d a => Sys2Proof.Machine.execMov g d a s
  | .lea g d a disp => Sys2Proof.Machine.execLea g d a disp s
  | .addi g d a imm => Sys2Proof.Machine.execAddi g d a imm s
  | .li g d imm => Sys2Proof.Machine.execLi g d imm s
  | .lih g d a imm => Sys2Proof.Machine.execLih g d a imm s
  | .cmp g cc pd a b => Sys2Proof.Machine.execCmp g cc pd a b s
  | .cmpi g cc pd a imm => Sys2Proof.Machine.execCmpi g cc pd a imm s
  | .pand g pd pa na pb nb => Sys2Proof.Machine.execPand g pd pa na pb nb s
  | .por g pd pa na pb nb => Sys2Proof.Machine.execPor g pd pa na pb nb s
  | .pxor g pd pa na pb nb => Sys2Proof.Machine.execPxor g pd pa na pb nb s
  | .pnot g pd pa na => Sys2Proof.Machine.execPnot g pd pa na s
  | .ldB g d a disp => Sys2Proof.Machine.execLdB g d a disp s
  | .ldBz g d a disp => Sys2Proof.Machine.execLdBz g d a disp s
  | .ldH g d a disp => Sys2Proof.Machine.execLdH g d a disp s
  | .ldHz g d a disp => Sys2Proof.Machine.execLdHz g d a disp s
  | .ldW g d a disp => Sys2Proof.Machine.execLdW g d a disp s
  | .ldWz g d a disp => Sys2Proof.Machine.execLdWz g d a disp s
  | .ldD g d a disp => Sys2Proof.Machine.execLdD g d a disp s
  | .stB g b a disp => Sys2Proof.Machine.execStB g b a disp s
  | .stH g b a disp => Sys2Proof.Machine.execStH g b a disp s
  | .stW g b a disp => Sys2Proof.Machine.execStW g b a disp s
  | .stD g b a disp => Sys2Proof.Machine.execStD g b a disp s
  | .br g an imm => Sys2Proof.Machine.execBr g an imm s
  | .bri g an a imm => Sys2Proof.Machine.execBri g an a imm s
  | .call g an d imm => Sys2Proof.Machine.execCall g an d imm s
  | .ret g an a => Sys2Proof.Machine.execRet g an a s
  | .loop g a imm stg => Sys2Proof.Machine.execLoop g a imm stg s
  | .loopb g imm => Sys2Proof.Machine.execLoopb g imm s
  | .sleepto g a => Sys2Proof.Machine.execSleepto g a s
  | .sleeptoWake core => Sys2Proof.Machine.execSleeptoWake core s
  | .mwait g d cc a b c => Sys2Proof.Machine.execMwait g d cc a b c s
  | .mwaitEnd core => Sys2Proof.Machine.execMwaitEnd core s
  | .trig g => Sys2Proof.Machine.execTrig g s
  | .exit g => Sys2Proof.Machine.execExit g s
  | .svc g d n a b c => Sys2Proof.Machine.execSvc g d n a b c s
  | .svcResume core outcome => Sys2Proof.Machine.execSvcResume core outcome s
  | .serviceRestart n => Sys2Proof.Machine.execServiceRestart n s
  | .trap g n => Sys2Proof.Machine.execTrap g n s
  | .rte g => Sys2Proof.Machine.execRte g s
  | .sget g d r => Sys2Proof.Machine.execSget g d r s
  | .sput g r a => Sys2Proof.Machine.execSput g r a s
  | .brk g n => Sys2Proof.Machine.execBrk g n s
  | .lnch g d a b c => Sys2Proof.Machine.execLnch g d a b c s
  | .lnchPh g d a b => Sys2Proof.Machine.execLnchPh g d a b s
  | .lnchSelf g d lvl => Sys2Proof.Machine.execLnchSelf g d lvl s
  | .join g d a b => Sys2Proof.Machine.execJoin g d a b s
  | .joinEnd core => Sys2Proof.Machine.execJoinEnd core s
  | .cancel g d a => Sys2Proof.Machine.execCancel g d a s
  | .killTaken core => Sys2Proof.Machine.execKillTaken core s
  | .eget g d idx => Sys2Proof.Machine.execEget g d idx s
  | .vadd g d lt a b => Sys2Proof.Machine.execVadd g d lt a b s
  | .vsub g d lt a b => Sys2Proof.Machine.execVsub g d lt a b s
  | .vmul g d lt a b => Sys2Proof.Machine.execVmul g d lt a b s
  | .vmulh g d lt u a b => Sys2Proof.Machine.execVmulh g d lt u a b s
  | .vmac g d lt a b c => Sys2Proof.Machine.execVmac g d lt a b c s
  | .vwmul g d lt hi u a b => Sys2Proof.Machine.execVwmul g d lt hi u a b s
  | .vwmac g d lt hi u sat a b c => Sys2Proof.Machine.execVwmac g d lt hi u sat a b c s
  | .vnarrow g d lt n u rnd sat a b => Sys2Proof.Machine.execVnarrow g d lt n u rnd sat a b s
  | .vadds g d lt u a b => Sys2Proof.Machine.execVadds g d lt u a b s
  | .vsubs g d lt u a b => Sys2Proof.Machine.execVsubs g d lt u a b s
  | .vabs g d lt a => Sys2Proof.Machine.execVabs g d lt a s
  | .vneg g d lt a => Sys2Proof.Machine.execVneg g d lt a s
  | .vmin g d lt a b => Sys2Proof.Machine.execVmin g d lt a b s
  | .vmax g d lt a b => Sys2Proof.Machine.execVmax g d lt a b s
  | .vminz g d lt a b => Sys2Proof.Machine.execVminz g d lt a b s
  | .vmaxz g d lt a b => Sys2Proof.Machine.execVmaxz g d lt a b s
  | .vand g d lt a b => Sys2Proof.Machine.execVand g d lt a b s
  | .vor g d lt a b => Sys2Proof.Machine.execVor g d lt a b s
  | .vxor g d lt a b => Sys2Proof.Machine.execVxor g d lt a b s
  | .vandn g d lt a b => Sys2Proof.Machine.execVandn g d lt a b s
  | .vshl g d lt a n => Sys2Proof.Machine.execVshl g d lt a n s
  | .vshr g d lt a n => Sys2Proof.Machine.execVshr g d lt a n s
  | .vsar g d lt a n => Sys2Proof.Machine.execVsar g d lt a n s
  | .vcmp g d cc lt a b => Sys2Proof.Machine.execVcmp g d cc lt a b s
  | .vsel g d lt a b c => Sys2Proof.Machine.execVsel g d lt a b c s
  | .vclz g d lt a => Sys2Proof.Machine.execVclz g d lt a s
  | .vpopc g d lt a => Sys2Proof.Machine.execVpopc g d lt a s
  | .vfadd g d lt rnd a b => Sys2Proof.Machine.execVfadd g d lt rnd a b s
  | .vfsub g d lt rnd a b => Sys2Proof.Machine.execVfsub g d lt rnd a b s
  | .vfmul g d lt rnd a b => Sys2Proof.Machine.execVfmul g d lt rnd a b s
  | .vfma g d lt rnd a b c => Sys2Proof.Machine.execVfma g d lt rnd a b c s
  | .vfmin g d lt a b => Sys2Proof.Machine.execVfmin g d lt a b s
  | .vfmax g d lt a b => Sys2Proof.Machine.execVfmax g d lt a b s
  | .vfabs g d lt a => Sys2Proof.Machine.execVfabs g d lt a s
  | .vfneg g d lt a => Sys2Proof.Machine.execVfneg g d lt a s
  | .vfcmp g d cc lt a b => Sys2Proof.Machine.execVfcmp g d cc lt a b s
  | .vrcp g d lt rnd a => Sys2Proof.Machine.execVrcp g d lt rnd a s
  | .vrsqrt g d lt rnd a => Sys2Proof.Machine.execVrsqrt g d lt rnd a s
  | .vexp2 g d lt rnd a => Sys2Proof.Machine.execVexp2 g d lt rnd a s
  | .vlog2 g d lt rnd a => Sys2Proof.Machine.execVlog2 g d lt rnd a s
  | .vsigm g d lt rnd a => Sys2Proof.Machine.execVsigm g d lt rnd a s
  | .vtanh g d lt rnd a => Sys2Proof.Machine.execVtanh g d lt rnd a s
  | .vfcvt g d lt src u p rnd sat a => Sys2Proof.Machine.execVfcvt g d lt src u p rnd sat a s
  | .vamax g d lt a => Sys2Proof.Machine.execVamax g d lt a s
  | .vqmx g d lt src a => Sys2Proof.Machine.execVqmx g d lt src a s
  | .vdqmx g d lt src rnd sat a => Sys2Proof.Machine.execVdqmx g d lt src rnd sat a s
  | .vperm g d lt z a b c => Sys2Proof.Machine.execVperm g d lt z a b c s
  | .vslide g d lt n a b => Sys2Proof.Machine.execVslide g d lt n a b s
  | .vbcastScalar g d lt a => Sys2Proof.Machine.execVbcastScalar g d lt a s
  | .vbcastImm g d lt imm => Sys2Proof.Machine.execVbcastImm g d lt imm s
  | .vins g d lt a b ix => Sys2Proof.Machine.execVins g d lt a b ix s
  | .vext g d lt a ix => Sys2Proof.Machine.execVext g d lt a ix s
  | .vzip g d lt hi a b => Sys2Proof.Machine.execVzip g d lt hi a b s
  | .vunzip g d lt hi a b => Sys2Proof.Machine.execVunzip g d lt hi a b s
  | .vred g d op lt rnd a => Sys2Proof.Machine.execVred g d op lt rnd a s
  | .vscan g d op lt rnd a b => Sys2Proof.Machine.execVscan g d op lt rnd a b s
  | .vld g d a disp => Sys2Proof.Machine.execVld g d a disp s
  | .vst g b a disp => Sys2Proof.Machine.execVst g b a disp s
  | .vldg g d lt a disp b c => Sys2Proof.Machine.execVldg g d lt a disp b c s
  | .vsts g lt b a disp c => Sys2Proof.Machine.execVsts g lt b a disp c s
  | .xinL g d n => Sys2Proof.Machine.execXinL g d n s
  | .xinX g d c => Sys2Proof.Machine.execXinX g d c s
  | .xoutD g a m => Sys2Proof.Machine.execXoutD g a m s
  | .xoutW g a => Sys2Proof.Machine.execXoutW g a s
  | .xoutCfg g a => Sys2Proof.Machine.execXoutCfg g a s
  | .xstatL g d n => Sys2Proof.Machine.execXstatL g d n s
  | .xstatX g d c => Sys2Proof.Machine.execXstatX g d c s
  | .oclm g o => Sys2Proof.Machine.execOclm g o s
  | .orls g o => Sys2Proof.Machine.execOrls g o s
  | .owr g part o row a => Sys2Proof.Machine.execOwr g part o row a s
  | .ordv g d part o row => Sys2Proof.Machine.execOrdv g d part o row s
  | .mzero g f64 acc => Sys2Proof.Machine.execMzero g f64 acc s
  | .mma g ef acc oa ob row0 nrow => Sys2Proof.Machine.execMma g ef acc oa ob row0 nrow s
  | .mmab g ef pp oa ob kb => Sys2Proof.Machine.execMmab g ef pp oa ob kb s
  | .mmas g ef dst oa ob => Sys2Proof.Machine.execMmas g ef dst oa ob s
  | .scacc g ef acc pp oa ob kb => Sys2Proof.Machine.execScacc g ef acc pp oa ob kb s
  | .acrd g d part acc row => Sys2Proof.Machine.execAcrd g d part acc row s
  | .acwr g part acc row a => Sys2Proof.Machine.execAcwr g part acc row a s
  | .acexpRd g d acc => Sys2Proof.Machine.execAcexpRd g d acc s
  | .acexpWr g acc a => Sys2Proof.Machine.execAcexpWr g acc a s
  | .acnorm g acc => Sys2Proof.Machine.execAcnorm g acc s
  | .mdpc g b => Sys2Proof.Machine.execMdpc g b s
  | .afgainSet g acc row a => Sys2Proof.Machine.execAfgainSet g acc row a s
  | .afgainMul g acc row a => Sys2Proof.Machine.execAfgainMul g acc row a s
  | .afgainMix g acc row a => Sys2Proof.Machine.execAfgainMix g acc row a s
  | .afgainAdd g acc row a => Sys2Proof.Machine.execAfgainAdd g acc row a s
  | .afscan g acc n => Sys2Proof.Machine.execAfscan g acc n s
  | .afcomp g acc n => Sys2Proof.Machine.execAfcomp g acc n s
  | .afcarryRd g d part acc => Sys2Proof.Machine.execAfcarryRd g d part acc s
  | .afcarryWr g part acc a => Sys2Proof.Machine.execAfcarryWr g part acc a s
  | .afcarryWrH g acc a => Sys2Proof.Machine.execAfcarryWrH g acc a s
  | .productStart core => Sys2Proof.Machine.execProductStart core s
  | .productRowLanding core => Sys2Proof.Machine.execProductRowLanding core s
  | .foldStart core => Sys2Proof.Machine.execFoldStart core s
  | .foldRowLanding core => Sys2Proof.Machine.execFoldRowLanding core s
  | .scanStart core => Sys2Proof.Machine.execScanStart core s
  | .scanLanding core => Sys2Proof.Machine.execScanLanding core s
  | .cpyRd g d pol bar a b c => Sys2Proof.Machine.execCpyRd g d pol bar a b c s
  | .cpyWr g d pol bar a b c => Sys2Proof.Machine.execCpyWr g d pol bar a b c s
  | .cpytRd g d pol bar a b => Sys2Proof.Machine.execCpytRd g d pol bar a b s
  | .cpytWr g d pol bar a b => Sys2Proof.Machine.execCpytWr g d pol bar a b s
  | .cpyo g d pol bar a b c => Sys2Proof.Machine.execCpyo g d pol bar a b c s
  | .cpya g d pol bar a b c => Sys2Proof.Machine.execCpya g d pol bar a b c s
  | .mcast g d pol bar a b c => Sys2Proof.Machine.execMcast g d pol bar a b c s
  | .mcastOps g d pol bar a b c => Sys2Proof.Machine.execMcastOps g d pol bar a b c s
  | .gath g d pol bar a b c => Sys2Proof.Machine.execGath g d pol bar a b c s
  | .scat g d pol bar a b c => Sys2Proof.Machine.execScat g d pol bar a b c s
  | .cpys g d pol a b => Sys2Proof.Machine.execCpys g d pol a b s
  | .bari g d pol a b => Sys2Proof.Machine.execBari g d pol a b s
  | .barw g d pol a b => Sys2Proof.Machine.execBarw g d pol a b s
  | .barwEnd core => Sys2Proof.Machine.execBarwEnd core s
  | .drain g d pol sc => Sys2Proof.Machine.execDrain g d pol sc s
  | .drainEnd core => Sys2Proof.Machine.execDrainEnd core s
  | .permit g d pol a b => Sys2Proof.Machine.execPermit g d pol a b s
  | .twopen g d pol a b => Sys2Proof.Machine.execTwopen g d pol a b s
  | .twclose g d pol a => Sys2Proof.Machine.execTwclose g d pol a s
  | .aadd g d pol sz a b c => Sys2Proof.Machine.execAadd g d pol sz a b c s
  | .amin g d pol sz a b c => Sys2Proof.Machine.execAmin g d pol sz a b c s
  | .amax g d pol sz a b c => Sys2Proof.Machine.execAmax g d pol sz a b c s
  | .aand g d pol sz a b c => Sys2Proof.Machine.execAand g d pol sz a b c s
  | .aor g d pol sz a b c => Sys2Proof.Machine.execAor g d pol sz a b c s
  | .axor g d pol sz a b c => Sys2Proof.Machine.execAxor g d pol sz a b c s
  | .aswp g d pol sz a b c => Sys2Proof.Machine.execAswp g d pol sz a b c s
  | .acas g d pol sz a b c => Sys2Proof.Machine.execAcas g d pol sz a b c s
  | .tlbiVa g d pol sc a c => Sys2Proof.Machine.execTlbiVa g d pol sc a c s
  | .tlbiRng g d pol sc a b c => Sys2Proof.Machine.execTlbiRng g d pol sc a b c s
  | .tlbiAll g d pol sc c => Sys2Proof.Machine.execTlbiAll g d pol sc c s
  | .rdc g d pol op len a b c => Sys2Proof.Machine.execRdc g d pol op len a b c s
  | .fsend g d pol tag a b c => Sys2Proof.Machine.execFsend g d pol tag a b c s
  | .frecv g d pol a b c => Sys2Proof.Machine.execFrecv g d pol a b c s
  | .frecvEnd core => Sys2Proof.Machine.execFrecvEnd core s
  | .fdone g d pol a b => Sys2Proof.Machine.execFdone g d pol a b s
  | .quiet g d pol a b => Sys2Proof.Machine.execQuiet g d pol a b s
  | .quietEnd core => Sys2Proof.Machine.execQuietEnd core s
  | .fstat g d pol a b => Sys2Proof.Machine.execFstat g d pol a b s
  | .fstatRecordLanding core => Sys2Proof.Machine.execFstatRecordLanding core s
  | .copySegmentLanding req seg => Sys2Proof.Machine.execCopySegmentLanding req seg s
  | .bytePerform req piece => Sys2Proof.Machine.execBytePerform req piece s
  | .atomicPerform req => Sys2Proof.Machine.execAtomicPerform req s
  | .tweFaultReport req => Sys2Proof.Machine.execTweFaultReport req s
  | .requestComplete req => Sys2Proof.Machine.execRequestComplete req s
  | .promise core => Sys2Proof.Machine.execPromise core s
  | .tableWalk cluster part va => Sys2Proof.Machine.execTableWalk cluster part va s
  | .tlbiPerform op => Sys2Proof.Machine.execTlbiPerform op s
  | .descriptorFetch cluster stream => Sys2Proof.Machine.execDescriptorFetch cluster stream s
  | .streamStepStart cluster stream => Sys2Proof.Machine.execStreamStepStart cluster stream s
  | .codeLineFetch core line => Sys2Proof.Machine.execCodeLineFetch core line s
  | .metadataFetch core record => Sys2Proof.Machine.execMetadataFetch core record s
  | .deadlineExpiry core => Sys2Proof.Machine.execDeadlineExpiry core s
  | .handlerEnd core => Sys2Proof.Machine.execHandlerEnd core s
  | .svreqWrite core v => Sys2Proof.Machine.execSvreqWrite core v s
  | .preemptRequest core => Sys2Proof.Machine.execPreemptRequest core s
  | .debugHaltRequest core => Sys2Proof.Machine.execDebugHaltRequest core s
  | .debugRelease core => Sys2Proof.Machine.execDebugRelease core s
  | .snapshotComplete core => Sys2Proof.Machine.execSnapshotComplete core s
  | .contextSave core => Sys2Proof.Machine.execContextSave core s
  | .contextRestore core => Sys2Proof.Machine.execContextRestore core s
  | .sourceEdge source samples => Sys2Proof.Machine.execSourceEdge source samples s
  | .slotWindowClose region => Sys2Proof.Machine.execSlotWindowClose region s
  | .latchPresentation region => Sys2Proof.Machine.execLatchPresentation region s
  | .sourceLoss source => Sys2Proof.Machine.execSourceLoss source s
  | .regionStop region => Sys2Proof.Machine.execRegionStop region s
  | .regionRestart region => Sys2Proof.Machine.execRegionRestart region s
  | .frameBoundary region => Sys2Proof.Machine.execFrameBoundary region s
  | .historySlotAdvance xing => Sys2Proof.Machine.execHistorySlotAdvance xing s
  | .crossingCompute xing => Sys2Proof.Machine.execCrossingCompute xing s
  | .timetableRelease region => Sys2Proof.Machine.execTimetableRelease region s
  | .stallEndRelease region => Sys2Proof.Machine.execStallEndRelease region s
  | .entrySkip region => Sys2Proof.Machine.execEntrySkip region s
  | .slip region => Sys2Proof.Machine.execSlip region s
  | .launchRelease obj => Sys2Proof.Machine.execLaunchRelease obj s
  | .triggerCount core => Sys2Proof.Machine.execTriggerCount core s
  | .unitCount core => Sys2Proof.Machine.execUnitCount core s
  | .completionCounterUpdate obj => Sys2Proof.Machine.execCompletionCounterUpdate obj s
  | .launchComplete obj => Sys2Proof.Machine.execLaunchComplete obj s
  | .graphComplete obj => Sys2Proof.Machine.execGraphComplete obj s
  | .phaseComplete obj => Sys2Proof.Machine.execPhaseComplete obj s
  | .jobComplete obj => Sys2Proof.Machine.execJobComplete obj s
  | .watchdogPreempt obj => Sys2Proof.Machine.execWatchdogPreempt obj s
  | .watchdogKill obj => Sys2Proof.Machine.execWatchdogKill obj s
  | .watchdogFence obj => Sys2Proof.Machine.execWatchdogFence obj s
  | .reexecutionRelease obj => Sys2Proof.Machine.execReexecutionRelease obj s
  | .wheelSlot chan => Sys2Proof.Machine.execWheelSlot chan s
  | .wheelRevolution chan => Sys2Proof.Machine.execWheelRevolution chan s
  | .kilnMapWrite chan bank v => Sys2Proof.Machine.execKilnMapWrite chan bank v s
  | .kilnChstWrite chan woff => Sys2Proof.Machine.execKilnChstWrite chan woff s
  | .reducerContribution req => Sys2Proof.Machine.execReducerContribution req s
  | .reducerResultWrite round => Sys2Proof.Machine.execReducerResultWrite round s
  | .rdcownWrite reducer v => Sys2Proof.Machine.execRdcownWrite reducer v s
  | .partdescWrite part desc => Sys2Proof.Machine.execPartdescWrite part desc s
  | .ptrootWrite part v => Sys2Proof.Machine.execPtrootWrite part v s
  | .groupSweepDone part => Sys2Proof.Machine.execGroupSweepDone part s
  | .keyload slot pair => Sys2Proof.Machine.execKeyload slot pair s
  | .keyRevoke slot => Sys2Proof.Machine.execKeyRevoke slot s
  | .patrolScrub w err => Sys2Proof.Machine.execPatrolScrub w err s
  | .loadqBind entry => Sys2Proof.Machine.execLoadqBind entry s
  | .loadqUnbind entry => Sys2Proof.Machine.execLoadqUnbind entry s
  | .loadqReservedOp entry => Sys2Proof.Machine.execLoadqReservedOp entry s
  | .attqRequest v => Sys2Proof.Machine.execAttqRequest v s
  | .featAcceptWrite v => Sys2Proof.Machine.execFeatAcceptWrite v s
  | .packageReset => Sys2Proof.Machine.execPackageReset s
  | .energyMicrosecond => Sys2Proof.Machine.execEnergyMicrosecond s
  | .energyWindowEnd => Sys2Proof.Machine.execEnergyWindowEnd s
  | .ebudgetWrite part v => Sys2Proof.Machine.execEbudgetWrite part v s
  | .fwlWrite die wl v => Sys2Proof.Machine.execFwlWrite die wl v s
  | .jobSlotWrite die slot record => Sys2Proof.Machine.execJobSlotWrite die slot record s
  | .messageDelivery msg => Sys2Proof.Machine.execMessageDelivery msg s
  | .messageLoss msg => Sys2Proof.Machine.execMessageLoss msg s
  | .lossNoticeArrival msg => Sys2Proof.Machine.execLossNoticeArrival msg s
  | .partialMessageDiscard msg => Sys2Proof.Machine.execPartialMessageDiscard msg s
  | .linkLoss link => Sys2Proof.Machine.execLinkLoss link s
  | .waveStart job => Sys2Proof.Machine.execWaveStart job s
  | .waveDownFlit job die => Sys2Proof.Machine.execWaveDownFlit job die s
  | .wavePass2Start job => Sys2Proof.Machine.execWavePass2Start job s
  | .waveResultArrival job die => Sys2Proof.Machine.execWaveResultArrival job die s
  | .managementRegisterWrite reg v => Sys2Proof.Machine.execManagementRegisterWrite reg v s
  | .fencedCoreReset core => Sys2Proof.Machine.execFencedCoreReset core s
  | .waveResultSend job => Sys2Proof.Machine.execWaveResultSend job s

end Sys2Proof.Machine
end

