-- ==== Sys2Proof/Machine/Turn.lean ====
section
/-! DEFINITION. The order of the model's steps: which row is due, in a core's cycle (spec/05 R77, R87, spec/09 R169, R170, spec/12
R231, R232, spec/13 R235, R236), in a region's cycle (spec/14, spec/16), in a house tick (spec/01 R13, spec/15, spec/19), and among the
engines that work by themselves (log 6, 7). One step performs at most one row of the table. -/

namespace Sys2Proof.Machine

/-- The meaning of a row that the package makes happen. -/
def runEvent (e : Event) (s : State) : Out :=
  match e with
  | .resultLanding core => execResultLanding core s
  | .sleeptoWake core => execSleeptoWake core s
  | .mwaitEnd core => execMwaitEnd core s
  | .joinEnd core => execJoinEnd core s
  | .barwEnd core => execBarwEnd core s
  | .drainEnd core => execDrainEnd core s
  | .frecvEnd core => execFrecvEnd core s
  | .quietEnd core => execQuietEnd core s
  | .fstatRecordLanding core => execFstatRecordLanding core s
  | .killTaken core => execKillTaken core s
  | .productStart core => execProductStart core s
  | .productRowLanding core => execProductRowLanding core s
  | .foldStart core => execFoldStart core s
  | .foldRowLanding core => execFoldRowLanding core s
  | .scanStart core => execScanStart core s
  | .scanLanding core => execScanLanding core s
  | .promise core => execPromise core s
  | .deadlineExpiry core => execDeadlineExpiry core s
  | .handlerEnd core => execHandlerEnd core s
  | .snapshotComplete core => execSnapshotComplete core s
  | .contextSave core => execContextSave core s
  | .codeLineFetch core line => execCodeLineFetch core line s
  | .metadataFetch core record => execMetadataFetch core record s
  | .triggerCount core => execTriggerCount core s
  | .unitCount core => execUnitCount core s
  | .copySegmentLanding req seg => execCopySegmentLanding req seg s
  | .bytePerform req piece => execBytePerform req piece s
  | .atomicPerform req => execAtomicPerform req s
  | .tweFaultReport req => execTweFaultReport req s
  | .requestComplete req => execRequestComplete req s
  | .tableWalk cluster part va => execTableWalk cluster part va s
  | .tlbiPerform op => execTlbiPerform op s
  | .descriptorFetch cluster stream => execDescriptorFetch cluster stream s
  | .streamStepStart cluster stream => execStreamStepStart cluster stream s
  | .slotWindowClose region => execSlotWindowClose region s
  | .latchPresentation region => execLatchPresentation region s
  | .sourceLoss source => execSourceLoss source s
  | .regionStop region => execRegionStop region s
  | .regionRestart region => execRegionRestart region s
  | .frameBoundary region => execFrameBoundary region s
  | .historySlotAdvance xing => execHistorySlotAdvance xing s
  | .crossingCompute xing => execCrossingCompute xing s
  | .timetableRelease region => execTimetableRelease region s
  | .stallEndRelease region => execStallEndRelease region s
  | .entrySkip region => execEntrySkip region s
  | .slip region => execSlip region s
  | .launchRelease obj => execLaunchRelease obj s
  | .completionCounterUpdate obj => execCompletionCounterUpdate obj s
  | .launchComplete obj => execLaunchComplete obj s
  | .graphComplete obj => execGraphComplete obj s
  | .phaseComplete obj => execPhaseComplete obj s
  | .jobComplete obj => execJobComplete obj s
  | .watchdogPreempt obj => execWatchdogPreempt obj s
  | .watchdogKill obj => execWatchdogKill obj s
  | .watchdogFence obj => execWatchdogFence obj s
  | .reexecutionRelease obj => execReexecutionRelease obj s
  | .wheelSlot chan => execWheelSlot chan s
  | .wheelRevolution chan => execWheelRevolution chan s
  | .reducerContribution req => execReducerContribution req s
  | .reducerResultWrite round => execReducerResultWrite round s
  | .groupSweepDone part => execGroupSweepDone part s
  | .packageReset => execPackageReset s
  | .energyMicrosecond => execEnergyMicrosecond s
  | .energyWindowEnd => execEnergyWindowEnd s
  | .loadqBind entry => execLoadqBind entry s
  | .loadqUnbind entry => execLoadqUnbind entry s
  | .loadqReservedOp entry => execLoadqReservedOp entry s
  | .messageDelivery msg => execMessageDelivery msg s
  | .lossNoticeArrival msg => execLossNoticeArrival msg s
  | .messageLoss msg => execMessageLoss msg s
  | .partialMessageDiscard msg => execPartialMessageDiscard msg s
  | .waveStart job => execWaveStart job s
  | .waveDownFlit job die => execWaveDownFlit job die s
  | .wavePass2Start job => execWavePass2Start job s
  | .waveResultSend job => execWaveResultSend job s
  | .waveResultArrival job die => execWaveResultArrival job die s

/-- Puts tasks in front of what is still to do. -/
def push (ts : List Task) (s : State) : State := { s with sched := { s.sched with tasks := ts ++ s.sched.tasks } }

/-- Rows in front of a task. -/
def rowsThen (es : List Event) (t : Task) (s : State) : State := push (es.map Task.ev ++ [t]) s

/-! ### Finding the bundle -/

/-- What stands at `PC`. -/
inductive AtPc where
  | dict (idx : Nat)
  | literal (tpl : Unit16) (words : List Word)
  | empty
  | reserved
  deriving DecidableEq, Repr


/-- Reads the bundle at `PC` (R39, R40); of an annulled one only what gives its length (R79). -/
def atPc (s : State) (c : Nat) (annulled : Bool) : Except Miss AtPc :=
  let a := pcAddr (getCore s c)
  match codeUnit s c a with
  | .error m => .error m
  | .ok u =>
    match unitKind u with
    | .dict idx => .ok (.dict idx)
    | .empty => .ok .empty
    | .reserved => .ok .reserved
    | .escape =>
      match codeUnit s c (a + 2) with
      | .error m => .error m
      | .ok tpl =>
        if annulled || !tplOk tpl then .ok (.literal tpl [])
        else
          match codeUnits s c (a + 4) (4 * presCount tpl) with
          | .error m => .error m
          | .ok us => .ok (.literal tpl (((takeWords (presCount tpl) us).map (·.1)).getD []))


/-- Whether the bundle due is annulled (R79). -/
def annulledNow (k : Core) : Bool := k.ctx.npc1.annul || k.ctx.npc2.annul

/-- The metadata record that a bundle needs (R161), and the same where the buffer lacks it. -/
def needsMeta (s : State) (k : Core) (b : AtPc) : Option Nat :=
  let ws := match b with
    | .dict idx => dictWords k idx
    | .literal tpl words => slotWords tpl words
    | _ => []
  (decoded (decodeSlots s ws)).findSome? fun x =>
    match x.i with
    | .mmas g _ _ _ _ => if guardOn k.ctx g then some k.ctx.mpc.toNat else none
    | _ => none
def wantsMeta (s : State) (k : Core) (b : AtPc) : Option Nat := (needsMeta s k b).filter fun n => (smGet k.metas n).isNone

/-- Bytes of what stands at `PC`; of a literal bundle whose template R43 rejects, escape and template. -/
def atPcBytes : AtPc → Nat
  | .literal tpl _ => if tplOk tpl then 4 + 8 * presCount tpl else 4
  | _ => 2

/-- Whether packets of a line or record that the bundle due needs still wait for their slots: its units are absent, and it stalls
(R33, R231, R265). -/
def bundleWaits (s : State) (c : Nat) (annulled : Bool) (b : AtPc) : Bool :=
  let k := getCore s c
  let a := pcAddr k
  k.svc.isNone && s.chans != [] &&
  (ownWaits s c (fun l => decide (a / 256 ≤ l) && decide (l ≤ (a + atPcBytes b - 1) / 256)) ||
   (!annulled && match needsMeta s k b with
     | some n => ownWaits s c fun l => l / 4 == metaVa s k n / 1024
     | none => false))

/-! ### A core's cycle -/

/-- Whether a pending fault concerns what runs: that of a request goes to the context that issued it, any other to the core's context. -/
def faultHere (s : State) (k : Core) (f : PendFault) : Bool :=
  if f.rank = 0 then (getReq s f.req).service == k.svc.isSome else k.svc.isNone

/-- The fault of item 5 of R170 that comes first among those of what runs: rank, then issue order. -/
def firstFault (s : State) (k : Core) : Option PendFault :=
  (k.faults.filter (faultHere s k)).foldl (fun best f =>
    match best with
    | none => some f
    | some b => if f.rank < b.rank ∨ (f.rank = b.rank ∧ f.req < b.req) then some f else best) none

/-- Takes a pending fault; one of the core's own data may make its block run again (R295). -/
def takeFault (c : Nat) (f : PendFault) (s : State) : State :=
  let k := getCore s c
  let t := takeStop c f.stop (setCore s c { k with faults := k.faults.erase f })
  if f.own then dataErrRetry c t else t

/-- The row that ends a wait in the current cycle (R87, R89, R202, R208, R290, R343). `lands` is the free choice whether an
`fstat` record lands. -/
def waitRow (s : State) (c : Nat) (lands : Bool) (w : Wait) : Option Event :=
  let tick := coreTick s c
  match w.kind with
  | .sleepto _ => none
  | .mwait cc ea y z => if (mwaitSample s c cc ea y z).2 then some (.mwaitEnd c) else none
  | .barw n z => if (barwSample s c n z).isSome then some (.barwEnd c) else none
  | .drain sc upto => if drained s c sc.code upto then some (.drainEnd c) else none
  | .join h z => if (joinProbe s c h z).isSome then some (.joinEnd c) else none
  | .frecv _ _ _ (some n) => if frecvDone s n.1 then some (.frecvEnd c) else none
  | .frecv key y z none => if z.toNat ≤ tick ∨ (takeCell c key y s).isSome then some (.frecvEnd c) else none
  | .quiet _ _ z got => if got.isSome ∨ z.toNat ≤ tick then some (.quietEnd c) else none
  | .fstat _ _ => if lands then some (.fstatRecordLanding c) else none

/-- A waiting cycle (R87): it counts as a cycle, and waits whose condition holds end. -/
def waitCycle (c : Nat) (s : State) : State :=
  let k := getCore s c
  let free := k.ctx.waits.any fun w => match w.kind with | .fstat _ _ => true | _ => false
  let lands := Config.pick s.sched.choice % 2 == 0
  let rows := (k.ctx.waits.filterMap (waitRow s c lands)).dedup
  let k1 := countDeadline false k
  let s1 := setCore s c { k1 with ran := true }
  due rows { s1 with sched := { s1.sched with choice := if free then s1.sched.choice + 1 else s1.sched.choice } }

/-- Issues what stands at `PC`. -/
def issueAt (c : Nat) (annulled : Bool) (b : AtPc) (s : State) : Out :=
  match b with
  | .reserved => .next (stopBundle (decStop .invcu []) s)
  | .dict idx => if annulled then execAnnulledBundle (.dict idx) s
      else match wantsMeta s (getCore s c) b with
        | some n => .next (rowsThen [.metadataFetch c n] (.act c) s)
        | none => execIssueDictionaryBundle idx s
  | .literal tpl words => if annulled then execAnnulledBundle (.literal tpl) s
      else match wantsMeta s (getCore s c) b with
        | some n => .next (rowsThen [.metadataFetch c n] (.act c) s)
        | none => execIssueLiteralBundle tpl words s
  | .empty => if annulled then execAnnulledBundle .empty s else execEmptyBundle s

/-- The stop of a bundle that needs a unit of a failed line (R227, R232): its address is that of the first byte needed, or of the
line when the walk itself met bad data. -/
def fetchStop (addr : Nat) (cause : Cause) (reason : Nat) : Stop :=
  { cause := cause, engine := 4, reason := reason, va := some (if reason = 14 then addr / 256 * 256 else addr) }

/-- The bundle due, once nothing else holds the core: causes 4 to 6 of R170. `YIELD` counts as soon as the template can be read, also
before a bundle whose other units cannot, or whose template R43 rejects (log 54). A bundle whose lines or record still travel stalls
(R33). -/
def dueBundle (c : Nat) (s : State) : Out :=
  let k := getCore s c
  let ann := annulledNow k
  let found := atPc s c ann
  match found with
  | .error (.absent line) => .next (rowsThen [.codeLineFetch c line] (.act c) s)
  | _ =>
    let stalls : Bool := match found with
      | .ok b => bundleWaits s c ann b
      | .error _ => false
    match if !stalls && !k.yielded && k.svc.isNone && yieldHere s c then nextHandler s c else none with
    | some n => .next (push [.act c] (yieldStop c n s))
    | none =>
      match firstFault s k with
      | some f => .next (takeFault c f s)
      | none =>
        if (broken s c).isSome then .next (rowsThen [.promise c] (.act c) s)
        else if stalls then .next s
        else
          match found with
          | .error (.failed addr cause reason) => .next (stopBundle (fetchStop addr cause reason) s)
          | .error .rotten => .next (stopBundle (sramStop 4 0 none) s)
          | .error _ => .next (stopBundle (decStop .invcu []) s)
          | .ok b => issueAt c ann b s

/-- A core with waits (R87), or its bundle. -/
def waitOrBundle (c : Nat) (s : State) : Out :=
  let k := getCore s c
  if k.ctx.waits = [] then dueBundle c s
  else
    match firstFault s k with
    | some f => .next (takeFault c f s)
    | none =>
      if k.ctx.waits.any (sleepDone (coreTick s c)) then .next (rowsThen [.sleeptoWake c] (.act c) s)
      else .next (waitCycle c s)

/-- The cycle of a context that is no handler: causes 1 to 3 of R170, and a service call (R92). R170 does not order the stop of `svc`,
which R92 puts before the next bundle: it comes before `DEBUG`, `PREEMPT` and `DEADLINE`, which stay pending. A context that still
holds a call, because it was saved and restored or resumed by `rte`, stops with `SVC` again (log 54). -/
def hostCycle (c : Nat) (s : State) : Out :=
  let k := getCore s c
  if k.ctx.svc.isSome then .next (takeStop c { cause := .svc } s)
  else if k.pendDbg then .next (takeStop c { cause := .debug } (setCore s c { k with pendDbg := false }))
  else if k.pendPre then .next (takeStop c { cause := .preempt } (setCore s c { k with pendPre := false }))
  else if k.ctx.waits = [] ∧ !k.yielded ∧ k.dlen ∧ k.deadline = 0 then .next (push [.ev (.deadlineExpiry c), .land c, .act c] s)
  else waitOrBundle c s

/-- The cycle of a handler (R235, R236): charged in full, even after its `exit`. A fault of its request after the `exit` is a trap of the
handler as well. Where its requests have not performed at package scope at c + HLEN, the core waits for them, uncharged, before the next
handler or the resume (DESIGN CHOICE, log 58: R235 and R236 together leave it open). -/
def handlerCycle (c : Nat) (h : Service) (s : State) : Out :=
  match if h.exited then firstFault s (getCore s c) else none with
  | some f => .next (takeFault c f s)
  | none =>
    if h.left = 0 then
      if h.exited && !handlerPerformed s c then .next s else .next (push [.ev (.handlerEnd c), .land c, .act c] s)
    else if h.exited then .next s
    else waitOrBundle c s

/-- Whether a restored context has still to come: packets of its area wait for their slots (R176, R265). -/
def areaComing (s : State) (c : Nat) : Bool := (getCore s c).blk.any fun b => s.chans != [] && areaWaits s c b.area

/-- The cycle of a core: a kill first (R291), then what runs. -/
def coreCycle (c : Nat) (s0 : State) : Out :=
  let s := { s0 with sched := { s0.sched with cur := c, slot := 0 } }
  let k := getCore s c
  let dead : Bool := match k.killAt with
    | some t => decide (t ≤ (coreRegion s c).clk)
    | none => false
  if dead then execKillTaken c s
  else if k.run ≠ .running ∨ k.resumed ∨ areaComing s c then .next s
  else
    match k.svc with
    | some h => handlerCycle c h s
    | none => hostCycle c s

/-- Landings of a core's cycle, before its bundle (R27, R77, R152, R153, R184). -/
def landRows (s : State) (c : Nat) : List Event :=
  let k := getCore s c
  if k.run ≠ .running then []
  else
    (if k.ctx.inflight.any fun l => decide (l.due ≤ k.ctx.bc) then [.resultLanding c] else []) ++
    (if k.svc.isSome then [] else mxLandings c k)

/-- Rows of the matrix engine after the bundle of a cycle in which the core ran. -/
def readRows (s : State) (c : Nat) : List Event :=
  let k := getCore s c
  if k.ran && k.svc.isNone then mxReads c k else []

/-- The end of a core's cycle (R33, R151). What landed in a cycle whose bundle did not issue, for a stop or a stall, stays in the order of
R29 for what lands with that bundle (R84, R174). -/
def closeCore (c : Nat) (s : State) : State :=
  let k := getCore s c
  let m := if k.ran && k.svc.isNone then mxEnd k.ctx.bc k.mx else { k.mx with now := k.mx.next.getD k.mx.now, next := none }
  setCore s c { k with
    mx := m
    ctx := { k.ctx with bc := if k.ran then k.ctx.bc + 1 else k.ctx.bc, landed := if k.ran then [] else k.ctx.landed }
    ran := false, yielded := false, resumed := false, mxWas := none }

/-! ### A region's cycle -/

/-- Whether a region's clock runs (R242, R247). -/
def clockRuns (s : State) (x : Region) : Bool :=
  let p := sourcePeriod s x.src
  x.ren && (x.st == .locked || x.st == .holdover) && x.m != 0 && x.d != 0 && x.den != 0 && p.1 != 0

/-- Tasks of other regions only. -/
def dropRegion (r : Nat) (s : State) : State :=
  let mine := fun (t : Task) => t == .begin r || t == .release r || t == .force r || t == .cores r || t == .xings r || t == .done r
  { s with sched := { s.sched with tasks := s.sched.tasks.filter fun t => !mine t } }

/-- Rows that a region's clock has due, and crossings whose upstream slot has changed (R254). -/
def clockRows (s : State) (r : Nat) : List Event :=
  let x := getRegion s r
  let cls := regionClusters s r
  ((x.timers.filter fun t => decide (t.1 ≤ x.clk)).map (·.2)) ++
    ((s.xings.filter fun y => cls.contains y.1 && y.2.run && y.2.slotS != slotIndex x).map fun y => .historySlotAdvance y.1)

/-- The start of a region's cycle: a realignment (R284), a frame boundary (R243), a stop (R247), then what its clock has due. -/
def beginRegion (r : Nat) (s : State) : State :=
  let x := getRegion s r
  if x.st = .stopped then dropRegion r s
  else if x.slipDue ∧ !x.stalled ∧ x.srcTick % x.m = 0 then rowsThen [.slip r] (.begin r) s
  else if x.newFrame then rowsThen [.frameBoundary r] (.begin r) s
  else
    let y := { x with began := x.frame * x.m + x.cyf, timers := x.timers.filter fun t => !decide (t.1 ≤ x.clk) }
    due (clockRows s r) (admitHeld r (setRegion s r y))

/-- Cores of a region that hold something. -/
def busyCores (s : State) (r : Nat) : List Nat :=
  (s.cores.filter fun k => smGet s.clusterRegion (k.1 / 16) == some r && k.2.run != .idle).map (·.1)

/-- Cores of a region with a block that is still to be counted. -/
def blockCores (s : State) (r : Nat) : List Nat :=
  ((allBlocks s).map (·.1)).dedup.filter fun c => smGet s.clusterRegion (c / 16) == some r

/-- Counts that fall due one cycle after they are ready (R281, R285). -/
def readyCounts (r : Nat) (s : State) : State :=
  (blockCores s r).foldl (fun s c =>
    let t := coreTick s c
    let s1 := if (blocksAt s c).any (trigReady s t) then addTimer r 1 (.triggerCount c) s else s
    if (blocksAt s1 c).any (unitReady s1 t) then addTimer r 1 (.unitCount c) s1 else s1) s

/-- Whether a core holds a context: stopped, or behind its service handlers (R169). -/
def holdsCtx (k : Core) : Bool := k.svc.isSome || match k.run with | .held _ => true | _ => false

/-- Counts in a core at the end of its region's cycle: the snapshot (R171), a handler's charge (R236). -/
def countCore (c : Nat) (s : State) : State :=
  let k := getCore s c
  let svc := k.svc.map fun h => { h with left := h.left - 1 }
  setCore s c { k with snapLeft := if holdsCtx k && decide (1 < k.snapLeft) then k.snapLeft - 1 else k.snapLeft, svc := svc }

/-- Rows of a held core at the end of its region's cycle (R171). -/
def heldRows (s : State) (c : Nat) : List Event :=
  let k := getCore s c
  if holdsCtx k then
    (if k.snapLeft = 1 then [.snapshotComplete c] else []) ++
    (if k.saveDue && k.svc.isNone && decide (k.snapLeft ≤ 1) && copiesLanded s c &&
        !(k.saveAsked && k.blk.any fun b => areaWaits s c b.area) then [.contextSave c] else [])
  else []

/-- Rows of the source at the end of a region's cycle (R245, R246). -/
def sourceRows (x : Region) (r : Nat) : List Event :=
  if x.stalled || x.src == 0 then []
  else
    (if (slotBefore x (slotHalf x)).isSome then [.slotWindowClose r] else []) ++
    (if (slotBefore x x.ioff).isSome then [.latchPresentation r] else [])

/-- Requests of a region's cores that are over for every purpose leave the list. -/
def pruneReqs (r : Nat) (s : State) : State :=
  let t := regTick (getRegion s r)
  let over' := fun (x : Nat × Req) => x.2.complete && regionOf s x.2.core == r &&
    (match x.2.promise with | some p => decide (p < t) | none => true) &&
    !((getCore s x.2.core).faults.any fun f => f.req == x.1)
  { s with reqs := s.reqs.filter fun x => !over' x }

/-- The crossings of a region's clusters at the end of its cycle (R261). -/
def endXings (r : Nat) (s : State) : State :=
  let cls := regionClusters s r
  { s with xings := s.xings.map fun x => if cls.contains x.1 then (x.1, applyCfg x.2) else x }

/-- The end of a region's cycle. -/
def doneRegion (r : Nat) (s0 : State) : State :=
  let s := endXings r s0
  let cs := busyCores s r
  let rows := cs.flatMap (heldRows s) ++ sourceRows (getRegion s r) r ++ wdRows r s
  rowsThen rows (.tick r) (pruneReqs r (readyCounts r (cs.foldl (fun s c => countCore c s) s)))

/-- The counts of a region's clock (R242, R243, R246, R283, R284): during a stall the tick stands. -/
def tickRegion (r : Nat) (s : State) : State :=
  let x := getRegion s r
  let x1 := { x with srcTick := x.srcTick + 1, clk := x.clk + 1, num := x.num + cycleStep s x }
  setRegion s r (if x.stalled then x1
    else if x.cyf + 1 < x.m then { x1 with cyf := x.cyf + 1 }
    else { x1 with frame := x.frame + 1, cyf := 0, newFrame := true })

/-! ### House ticks and wheels -/

/-- Whether one region's next cycle comes before another's. -/
def earlier (a b : Region) : Bool := decide (a.num * b.den < b.num * a.den)

/-- The regions whose next cycle begins first, within the current house tick. -/
def regionsNext (s : State) : List Nat :=
  let rs := s.regions.filter fun (x : Nat × Region) => clockRuns s x.2 && decide (x.2.num < (s.tick + 1) * x.2.den)
  (rs.filter fun (x : Nat × Region) => rs.all fun (y : Nat × Region) => !earlier y.2 x.2).map (·.1)

/-- The cycle of regions that begin theirs together. -/
def groupTasks (rs : List Nat) : List Task :=
  rs.map Task.begin ++ rs.map Task.release ++ rs.map Task.force ++ rs.map Task.cores ++ rs.map Task.xings ++ rs.map Task.done

/-- Rows of the cores that a stopped region holds: what a save ordered before the stop waited for (R248). -/
def stoppedRows (s : State) : List Event :=
  ((s.regions.filter fun x => x.2.st == .stopped).flatMap fun x => busyCores s x.1).flatMap (heldRows s)

/-- Rows due at a house tick: the energy window and the microsecond (R328), lost sources (R246), saves in stopped regions (R248),
discards (R340), waves (R350). -/
def tickRows (s : State) : List Event :=
  let us := s.tick % 100 == 0
  (if us && s.mgmt.us % s.mgmt.ewin == 0 then [.energyWindowEnd] else []) ++ (if us then [.energyMicrosecond] else []) ++
  (((s.regions.filter fun x => lossDue s x.1).map (·.2.src)).dedup.map Event.sourceLoss) ++
  stoppedRows s ++
  ((s.msgs.filter fun x => discardDue s x.2).map fun x => .partialMessageDiscard x.1) ++
  ((s.jobs.filter fun x => x.2.en && x.2.origin && waveDue s x.2.job).map fun x => .waveStart x.2.job)

/-- The next house tick: five slots of the wheels (R265), samples of the monitors (R275), and the rows due. -/
def nextTick (s : State) : State :=
  let t := s.tick + 1
  let s1 := { s with tick := t, mon := t, mgmt := { s.mgmt with us := if t % 100 = 0 then s.mgmt.us + 1 else s.mgmt.us } }
  push ((tickRows s1).map Task.ev ++ List.replicate 5 Task.wheel) s1

/-- Channels with a written map or wavelength setting that has still to take effect (R275, R278). -/
def changedChans (s : State) : List Nat :=
  let maps : List (Nat × BitVec 256) := (s.rmap.filter fun (x : Nat × BitVec 256) => smGetD s.rmapNow x.1 rmapReset != x.2) ++
    s.rmapNow.filter fun (x : Nat × BitVec 256) => smGetD s.rmap x.1 rmapReset != x.2
  let chans : List (Nat × Channel) := s.chans.filter fun x => x.2.woff != x.2.woffNow
  let keys : List Nat := List.map (fun (x : Nat × BitVec 256) => x.1 / 18) maps ++ List.map (fun (x : Nat × Channel) => x.1) chans
  keys.dedup

/-- One slot of every wheel (R265, R266); a channel with nothing to send does nothing. -/
def wheelSlots (s : State) : State :=
  let s1 := { s with wheel := s.wheel + 1 }
  let revs := if s1.wheel % 64 = 0 then (changedChans s1).map Event.wheelRevolution else []
  let live := s1.chans.filter fun (c : Nat × Channel) => c.2.ready != [] || c.2.busy != 0
  due (revs ++ live.map fun c => .wheelSlot c.1) s1

/-! ### Engines that work by themselves -/

/-- Whether a TLB has no place for one more leaf: every one that it holds is resident (R220). -/
def tlbFull (s : State) (cl : Nat) : Bool :=
  decide (2048 ≤ (getTwe s cl).tlb.length) && (getTwe s cl).tlb.all fun l => entPin l.e.toNat

/-- A row of a request at a virtual address, once its leaf is cached; the walk before that (R220). -/
def afterWalk (s : State) (r : Req) (l : Loc) (e : Event) : Event :=
  match l with
  | .virt va => if (tlbFind s (r.core / 16) r.part va).isSome || tlbFull s (r.core / 16) then e else .tableWalk (r.core / 16) r.part va
  | _ => e

/-- The row that a piece of a request has open. -/
def pieceRow (s : State) (n : Nat) (r : Req) (i : Nat) : Option Event :=
  let p := pieceAtIx r i
  if mayTake s n r i then some (afterWalk s r p.src (.bytePerform n i))
  else if p.stage = 1 ∧ mayPut s n r i then some (afterWalk s r p.dst (.bytePerform n i))
  else if mayLand s n r i then some (.copySegmentLanding n i)
  else none

/-- The rows that a request has open. -/
def reqRows (s : State) (n : Nat) (r : Req) : List Event :=
  if r.complete then []
  else
    (List.range r.pieces.length).filterMap (pieceRow s n r) ++
    (if mayAtomic s n r then [.atomicPerform n] else []) ++
    (if mayContribute s n r then [.reducerContribution n] else []) ++
    (if (reqFault s r).isSome then [.tweFaultReport n] else []) ++
    (if mayComplete r then [.requestComplete n] else [])

/-- The rows that the streams of a cluster have open. -/
def streamRows (s : State) (cl : Nat) (t : Twe) : List Event :=
  t.streams.flatMap fun x =>
    (if mayFetchDesc s cl x.1 then [.descriptorFetch cl x.1] else []) ++
    (if mayStep s cl x.1 then [.streamStepStart cl x.1] else [])

/-- Messages that can be on their way here: those of this package, and the next ones from outside, as long as a slot of their job is
enabled (log 16). -/
def liveMsgs (s : State) : List Nat :=
  let outside := (List.range (s.msgs.length + 8)).map fun i => 2 * i + 1
  (s.msgs.filter fun x => ownMsg x.1 && (decide (x.2.st < 2) || x.2.notice)).map (·.1) ++ outside.filter fun n =>
    match msgOf s n with
    | some m => m.st == 0 && (decide (0 < m.packets) || (jobOn s m.ddie m.job).isSome)
    | none => false

/-- The rows that messages and notices have open (R337 to R341). -/
def msgRows (s : State) : List Event :=
  (liveMsgs s).flatMap fun n =>
    (if deliveryMoves s n then [.messageDelivery n] else []) ++
    (if msgLostHere s n then [.messageLoss n] else []) ++
    (if mayNotice s n then [.lossNoticeArrival n] else [])

/-- The rows that the waves have open (R350). -/
def waveRows (s : State) : List Event :=
  ((s.jobs.filter fun x => x.2.en).map (·.2.job)).dedup.flatMap fun job =>
    (if waveDue s job then [.waveStart job] else []) ++
    ((List.range 4).filter (flitDue s job)).map (fun d => .waveDownFlit job d) ++
    (if pass2Due s job then [.wavePass2Start job] else []) ++
    (if resultDue s job then [.waveResultSend job] else []) ++
    ((List.range 4).filter (arrivalDue s job)).map (fun d => .waveResultArrival job d)

/-- Lines that the fetch channel may read ahead for a running block (R231): the next line after that of `PC` that the buffer lacks, and
the lines of a branch's target; records from `MPC` on. -/
def aheadRows (s : State) (c : Nat) (k : Core) : List Event :=
  if k.run ≠ .running ∨ k.svc.isSome then []
  else
    let here := pcAddr k / 256
    let next := ((List.range 127).map fun i => here + 1 + i).find? fun l => (smGet k.code l).isNone
    let target := fun (n : Npc) => if n.valid then [(k.codeBase + 2 * n.target.toNat) / 256] else []
    let lines := next.toList ++ (target k.ctx.npc1 ++ target k.ctx.npc2).filter fun l => (smGet k.code l).isNone
    let metas := (k.blk.map fun b => (getInst s b.inst).metas).getD 0
    let recs := ((List.range 4).map fun i => k.ctx.mpc.toNat + i).filter fun n => decide (n < metas) && (smGet k.metas n).isNone
    lines.map (fun l => .codeLineFetch c l) ++ recs.map fun n => .metadataFetch c n

/-- Every row that is open by itself (log 7). -/
def openRows (s : State) : List Event :=
  s.reqs.flatMap (fun x => reqRows s x.1 x.2) ++
  (s.rounds.filter fun x => mayWriteRound s x.2).map (fun x => .reducerResultWrite x.1) ++
  (s.tlbis.filter fun x => mayTlbi s x.2).map (fun x => .tlbiPerform x.1) ++
  s.cores.flatMap (fun x => aheadRows s x.1 x.2) ++
  s.twes.flatMap (fun x => streamRows s x.1 x.2) ++ msgRows s ++ waveRows s ++
  (s.parts.filter fun x => x.2.sweep != []).map (fun x => .groupSweepDone x.1) ++ (loadqRow s).toList

/-- Steps that are open and have no row of their own: bytes that enter a bridge lane (R298), packets that arrive (R334). -/
def openSteps (s : State) : List Task :=
  (s.reqs.flatMap fun x => ((List.range x.2.pieces.length).filter (mayEnterLane s x.1 x.2)).map fun i => .lane x.1 i) ++
  ((liveMsgs s).filter fun n => packetOpen s n || deliveryAsks s n).map fun n => .packet n

/-- Everything that is open by itself. -/
def openTasks (s : State) : List Task := (openRows s).map Task.ev ++ openSteps s

/-- Goes on to the next region cycles of the house tick, or to the next house tick. -/
def goOn (s : State) : State :=
  match regionsNext s with
  | [] => nextTick s
  | rs => push (groupTasks rs) s

/-- What comes when nothing is due: one of the open rows, or none of them (log 7). -/
def plan (s : State) : State :=
  let ts := openTasks s
  let s1 := { s with sched := { s.sched with choice := s.sched.choice + 1 } }
  match ts[Config.pick s.sched.choice % (ts.length + 1)]? with
  | some t => push [t] s1
  | none => goOn s1

/-- Whether a request stands in the way of request `n`: an earlier one of the cluster that has still to touch a run of it, or one with bytes
ahead of it in the bridge lane (R298, R299). -/
def inTheWay (s : State) (n : Nat) (r : Req) (x : Nat × Req) : Bool :=
  x.1 != n && !x.2.complete && !x.2.told && r.pieces.any fun p =>
    (decide (x.1 < n) && x.2.core / 16 == r.core / 16 && x.2.pieces.any fun q =>
      stillTouches s x.2 q r.part p.src p.len || stillTouches s x.2 q r.part p.dst p.len) ||
    match p.dst, p.src with
    | .virt va, _ => (homeDie s r r.wrBit va).any fun d => d != r.core / 256 && laneHolds s n r.part (r.core / 256) d x.2
    | _, .virt va => (homeDie s r r.rdBit va).any fun d => d != r.core / 256 && laneHolds s n r.part (r.core / 256) d x.2
    | _, _ => false

/-- The row by which a request goes on now, its packets sent on every channel that is not degraded; where it has none, one of a request
that stands in its way. -/
def forcedOf (s : State) : Nat → Nat → Req → Option (Nat × Event)
  | 0, _, _ => none
  | fuel + 1, n, r =>
    match (reqRows (flushPackets n s) n r).head? with
    | some e => some (n, e)
    | none => s.reqs.findSome? fun x => if inTheWay s n r x then forcedOf s fuel x.1 x.2 else none

/-- The row by which a request whose promise is due in a region goes on (R195, R269, log 7). -/
def forcedRow (r : Nat) (s : State) : Option (Nat × Event) :=
  s.reqs.findSome? fun x =>
    if regionOf s x.2.core == r && !x.2.told && urgent s x.2 then forcedOf s 8 x.1 x.2 else none

/-- Requests whose promise is due go on until they have no row left in this cycle. -/
def forceRegion (r : Nat) (s : State) : State :=
  match forcedRow r s with
  | none => s
  | some (n, e) => push [.ev e, .force r] (flushPackets n s)

/-- A line or record of the entry of a block, read before the block issues; the reading ends at the first one whose translation fails
(R231). Its packets have had their slots before the release. -/
def fillBuffer (c : Nat) (isMeta : Bool) (n left : Nat) (s0 : State) : State :=
  let s := flushOwn c s0
  let k := getCore s c
  let before := if n = 0 then none else smGet (if isMeta then k.metas else k.code) (n - 1)
  let stop : Bool := match before with
    | some (.bad _ e) => e != 13
    | _ => false
  if left = 0 ∨ stop ∨ k.run ≠ .running then s
  else push [.ev (if isMeta then .metadataFetch c n else .codeLineFetch c n), .fill c isMeta (n + 1) (left - 1)] s

/-- One task. -/
def runTask (t : Task) (s : State) : Out :=
  match t with
  | .ev e => runEvent e s
  | .begin r => .next (beginRegion r s)
  | .release r => .next (releaseRows r s)
  | .cores r =>
    let cs := busyCores s r
    .next (push (cs.map Task.land ++ cs.map Task.act ++ cs.map Task.fin) s)
  | .land c => .next (due (landRows s c) s)
  | .act c => coreCycle c s
  | .fin c => .next (rowsThen (readRows s c) (.close c) s)
  | .close c => .next (closeCore c s)
  | .xings r => .next (due ((s.xings.filter fun x => x.2.down == r && xingDue s x.1).map fun x => .crossingCompute x.1) s)
  | .done r => .next (doneRegion r s)
  | .tick r => .next (tickRegion r s)
  | .wheel => .next (wheelSlots s)
  | .lane n i => .next (enterLane n i s)
  | .packet n => .next (if packetOpen s n then packetArrives n s else askDelivery n s)
  | .force r => .next (forceRegion r s)
  | .fill c isMeta n left => .next (fillBuffer c isMeta n left s)

end Sys2Proof.Machine
end

