-- ==== Sys2Proof/Machine/Step.lean ====
section
/-! DEFINITION. One step of the package: the first task that is due, else the first row that comes from outside, else the plan of
what comes next (log 6, 7). -/

namespace Sys2Proof.Machine

/-- One step. -/
def step (s : State) : Host.Outcome State Fault Refusal :=
  match s.sched.tasks with
  | t :: ts => runTask t { s with sched := { s.sched with tasks := ts } }
  | [] =>
    match s.sched.inbox with
    | i :: is => exec i { s with sched := { s.sched with inbox := is } }
    | [] => .next (plan s)

/-- The state with a bundle placed where the next step fetches (log 1): in line 0 of the code stream buffer of core 0x010, which runs
at `PC` 0 in region 0 of die 0 (`M` = 4, `D` = 1, the house source), and whose cycle is due. Metadata record 0 is in its buffer, so
that no fetch comes first. -/
def State.withFetchWord (s : State) (nbits w : Nat) : State :=
  let k := getCore s 0x010
  let k1 := { k with run := .running, ctx := { k.ctx with pc := 0 }, codeBase := 0,
                     code := smPut k.code 0 (.bytes (leBytes 256 (w % 2 ^ nbits))),
                     metas := smPut k.metas 0 (.bytes (List.replicate 1024 0)) }
  let x := { getRegion s 0 with m := 4, d := 1, ren := true, st := .locked, den := clockDen s 4 0 }
  let s1 := setRegion (setCore s 0x010 k1) 0 x
  { s1 with clusterRegion := smPut s1.clusterRegion 1 0, sched := { s1.sched with tasks := [.act 0x010] } }

end Sys2Proof.Machine
end

