-- ==== Sys2Proof/Certificates/Slice0/Obligations.lean ====
section
/-! DEFINITION. The statements for the provers, in the order of the spec's chapters, each over every state and every operand. How a
statement says that an instruction completes: `Spec.flies` and its relatives give the whole next state, so that they also say what does
not change. -/

open Sys2Proof Sys2Proof.Machine

namespace Sys2Proof.Spec

/-! ### How the statements say that an instruction of a slot completes -/

/-- The context `c` with `fl` in `FLAGS` and one more result in flight: due `lat` bundles later, from a slot. -/
def withResult (c : Ctx) (fl : Flags) (slot lat : Nat) (r : Res) (f : Flags) : Ctx :=
  { c with flags := fl, inflight := c.inflight ++ [⟨c.bc + lat, slot, c.bc, r, f⟩] }

/-- What reading does to `FLAGS`: it sets `VOIDRD` when a void entry is read (R35), in the issue cycle (log 4). -/
def readFlags (c : Ctx) (void : Bool) (fl : Flags) : Prop := fl = if void = true then c.flags ||| fVOIDRD else c.flags

/-- The instruction answers a next state in which nothing has changed but the context of the core in issue: its flags by what
was read, and one result in flight. -/
def flies (i : Instr) (s : State) (void : Bool) (slot lat : Nat) (r : Res) (f : Flags) : Prop :=
  ∃ fl, readFlags (curCtx s) void fl ∧ exec i s = .next (setCtx s (withResult (curCtx s) fl slot lat r f))

/-- The instruction answers a next state in which nothing but `VOIDRD` has changed. -/
def onlyReads (i : Instr) (s : State) (void : Bool) : Prop :=
  ∃ fl, readFlags (curCtx s) void fl ∧ exec i s = .next (setCtx s { curCtx s with flags := fl })

/-- The instruction answers a next state in which the context of the core in issue is `c`, but for what reading does to its
flags. -/
def setsCtx (i : Instr) (s : State) (void : Bool) (c : Ctx) : Prop :=
  ∃ fl, readFlags (curCtx s) void fl ∧ exec i s = .next (setCtx s { c with flags := fl })

/-- An instruction with a scalar result: under a guard of 1 the value lands with its flags; under a guard of 0 a zero lands on the
belt and nothing elsewhere, and no operand is read (R32, R63). -/
def resultS (g : Guard) (i : Instr) (s : State) (void : Bool) (slot lat : Nat) (d : SDst) (v : Word) (f : Flags) : Prop :=
  if guardOn (curCtx s) g then
    flies i s (voidP (curCtx s) g.p || void) slot lat
      (match d with | .belt => .sbelt v | .k n => .k n v | .discard => .drop false) f
  else
    flies i s (voidP (curCtx s) g.p) slot lat (match d with | .belt => .sbelt 0 | _ => .drop false) 0

/-- The same with a vector result. -/
def resultV (g : Guard) (i : Instr) (s : State) (void : Bool) (slot lat : Nat) (d : VDst) (v : VWord) (f : Flags) : Prop :=
  if guardOn (curCtx s) g then
    flies i s (voidP (curCtx s) g.p || void) slot lat
      (match d with | .belt => .vbelt v | .w n => .w n v | .discard => .drop true) f
  else
    flies i s (voidP (curCtx s) g.p) slot lat (match d with | .belt => .vbelt 0 | _ => .drop true) 0

/-- An instruction with a predicate result: under a guard of 0 the predicate keeps its value (R32). -/
def resultP (g : Guard) (i : Instr) (s : State) (void : Bool) (lat : Nat) (pd : Fin 16) (v : Bool) : Prop :=
  if guardOn (curCtx s) g then flies i s (voidP (curCtx s) g.p || void) 0 lat (.pred pd v) 0
  else onlyReads i s (voidP (curCtx s) g.p)

end Sys2Proof.Spec

/-! ## Scalar instructions -/

/-- R65: what `add`, `sub`, `neg`, `mul`, `mulh`, `mulhz`, the minima and maxima and `abs` land, with the latencies of the table. -/
def Obligations.ScalarArithmetic : Prop :=
  ∀ (g : Guard) (d : SDst) (a b : SOp) (s : State),
    let x := valS (curCtx s) a
    let y := valS (curCtx s) b
    let two := fun (i : Instr) (lat : Nat) (v : Word) =>
      Spec.resultS g i s (voidS (curCtx s) a || voidS (curCtx s) b) 0 lat d v 0
    let one := fun (i : Instr) (v : Word) => Spec.resultS g i s (voidS (curCtx s) a) 0 1 d v 0
    two (.add g d a b) 1 (BitVec.ofInt 64 (x.toInt + y.toInt)) ∧
    two (.sub g d a b) 1 (BitVec.ofInt 64 (x.toInt - y.toInt)) ∧
    one (.neg g d a) (BitVec.ofInt 64 (0 - x.toInt)) ∧
    two (.mul g d a b) 3 (BitVec.ofInt 64 (x.toInt * y.toInt)) ∧
    two (.mulh g d a b) 4 (BitVec.ofInt 64 (Int.fdiv (x.toInt * y.toInt) (2 ^ 64))) ∧
    two (.mulhz g d a b) 4 (BitVec.ofNat 64 (x.toNat * y.toNat / 2 ^ 64)) ∧
    two (.min g d a b) 1 (if x.toInt ≤ y.toInt then x else y) ∧
    two (.max g d a b) 1 (if x.toInt ≥ y.toInt then x else y) ∧
    two (.minz g d a b) 1 (if x.toNat ≤ y.toNat then x else y) ∧
    two (.maxz g d a b) 1 (if x.toNat ≥ y.toNat then x else y) ∧
    one (.abs g d a) (BitVec.ofInt 64 |x.toInt|)

/-- R66: the quotients and remainders, with `DZ` in the landing cycle when the divisor is 0. -/
def Obligations.ScalarDivision : Prop :=
  ∀ (g : Guard) (d : SDst) (a b : SOp) (s : State),
    let x := valS (curCtx s) a
    let y := valS (curCtx s) b
    let lands := fun (i : Instr) (v : Word) =>
      Spec.resultS g i s (voidS (curCtx s) a || voidS (curCtx s) b) 0 24 d v (if y = 0 then fDZ else 0)
    let q : Int := if y = 0 then -1 else Int.tdiv x.toInt y.toInt
    let r : Int := if y = 0 then x.toInt else x.toInt - Int.tdiv x.toInt y.toInt * y.toInt
    let qz : Nat := if y = 0 then 2 ^ 64 - 1 else x.toNat / y.toNat
    let rz : Nat := if y = 0 then x.toNat else x.toNat - x.toNat / y.toNat * y.toNat
    lands (.div g d a b) (BitVec.ofInt 64 q) ∧ lands (.rem g d a b) (BitVec.ofInt 64 r) ∧
    lands (.divz g d a b) (BitVec.ofNat 64 qz) ∧ lands (.remz g d a b) (BitVec.ofNat 64 rz)

/-- R67, R68: logic, and the shifts in both forms by any amount.
R69: the bit operations, each by what its bits are.
R70: selection, moves, addresses and immediates. -/
def Obligations.LogicBitsAndMoves : Prop :=
  (∀ (g : Guard) (d : SDst) (a b : SOp) (s : State),
    let x := valS (curCtx s) a
    let y := valS (curCtx s) b
    let two := fun (i : Instr) (v : Word) => Spec.resultS g i s (voidS (curCtx s) a || voidS (curCtx s) b) 0 1 d v 0
    two (.and g d a b) (BitVec.and x y) ∧ two (.or g d a b) (BitVec.or x y) ∧ two (.xor g d a b) (BitVec.xor x y) ∧
    two (.andn g d a b) (BitVec.and x (BitVec.not y)) ∧ two (.orn g d a b) (BitVec.or x (BitVec.not y)) ∧
    ∀ (amt : Amt),
      let n : Nat := match amt with | .reg o => (valS (curCtx s) o).toNat | .imm m => m.val
      let void := match amt with | .reg o => voidS (curCtx s) a || voidS (curCtx s) o | .imm _ => voidS (curCtx s) a
      let sh := fun (i : Instr) (v : Word) => Spec.resultS g i s void 0 1 d v 0
      sh (.shl g d a amt) (if 64 ≤ n then 0 else BitVec.ofNat 64 (x.toNat * 2 ^ n)) ∧
      sh (.shr g d a amt) (BitVec.ofNat 64 (x.toNat / 2 ^ n)) ∧
      sh (.sar g d a amt) (BitVec.ofInt 64 (Int.fdiv x.toInt (2 ^ min n 63))) ∧
      sh (.rotl g d a amt) (x.rotateLeft n)) ∧
  (∀ (g : Guard) (d : SDst) (a b : SOp) (s : State),
    let x := valS (curCtx s) a
    let y := valS (curCtx s) b
    let one := fun (i : Instr) (v : Word) => Spec.resultS g i s (voidS (curCtx s) a) 0 1 d v 0
    (∃ n : Nat, n ≤ 64 ∧ x.toNat < 2 ^ (64 - n) ∧ (n < 64 → 2 ^ (63 - n) ≤ x.toNat) ∧ one (.clz g d a) (BitVec.ofNat 64 n)) ∧
    (∃ n : Nat, n ≤ 64 ∧ 2 ^ n ∣ x.toNat ∧ (n < 64 → ¬ 2 ^ (n + 1) ∣ x.toNat) ∧ one (.ctz g d a) (BitVec.ofNat 64 n)) ∧
    one (.popc g d a) (BitVec.ofNat 64 (∑ i ∈ Finset.range 64, (x.getLsbD i).toNat)) ∧
    (∃ v : Word, (∀ j < 8, v.extractLsb' (8 * j) 8 = x.extractLsb' (8 * (7 - j)) 8) ∧ one (.bswap g d a) v) ∧
    (∀ n, 1 ≤ n → n ≤ 64 →
      one (.sext g d a n) ((x.setWidth n).signExtend 64) ∧ one (.zext g d a n) ((x.setWidth n).setWidth 64)) ∧
    (∀ pos w, pos < 64 → 1 ≤ w → pos + w ≤ 64 →
      one (.bfx g d a pos w) ((x.extractLsb' pos w).setWidth 64) ∧
      ∃ v : Word, (∀ i < 64, v.getLsbD i = if pos ≤ i ∧ i < pos + w then y.getLsbD (i - pos) else x.getLsbD i) ∧
        Spec.resultS g (.bfi g d a b pos w) s (voidS (curCtx s) a || voidS (curCtx s) b) 0 1 d v 0)) ∧
  (∀ (g : Guard) (d : SDst) (p : Fin 16) (a b : SOp) (disp : BitVec 20) (imm : BitVec 32) (s : State),
    let x := valS (curCtx s) a
    let y := valS (curCtx s) b
    let one := fun (i : Instr) (v : Word) => Spec.resultS g i s (voidS (curCtx s) a) 0 1 d v 0
    Spec.resultS g (.sel g d p a b) s (voidP (curCtx s) p || voidS (curCtx s) a || voidS (curCtx s) b) 0 1 d
      (if valP (curCtx s) p then x else y) 0 ∧
    one (.mov g d a) x ∧
    one (.lea g d a disp) (BitVec.ofInt 64 (x.toInt + disp.toInt)) ∧
    one (.addi g d a imm) (BitVec.ofInt 64 (x.toInt + imm.toInt)) ∧
    Spec.resultS g (.li g d imm) s false 0 1 d (BitVec.ofInt 64 imm.toInt) 0 ∧
    one (.lih g d a imm) (imm ++ x.extractLsb' 0 32))

/-- R72, R73: compares and predicate logic; a result for `p0` is landed and discarded there. -/
def Obligations.ComparesAndPredicates : Prop :=
  ∀ (g : Guard) (cc : CC) (pd pa pb : Fin 16) (na nb : Bool) (a b : SOp) (imm : BitVec 32) (s : State), cc.isInt →
    let x := valS (curCtx s) a
    let holds := fun (y : Word) => match cc with
      | .eq => decide (x = y) | .ne => decide (x ≠ y)
      | .lt => decide (x.toInt < y.toInt) | .le => decide (x.toInt ≤ y.toInt)
      | .gt => decide (y.toInt < x.toInt) | .ge => decide (y.toInt ≤ x.toInt)
      | .ltz => decide (x.toNat < y.toNat) | .lez => decide (x.toNat ≤ y.toNat)
      | .gtz => decide (y.toNat < x.toNat) | .gez => decide (y.toNat ≤ x.toNat)
      | .uo => false
    let p := xor (valP (curCtx s) pa) na
    let q := xor (valP (curCtx s) pb) nb
    let void2 := voidP (curCtx s) pa || voidP (curCtx s) pb
    Spec.resultP g (.cmp g cc pd a b) s (voidS (curCtx s) a || voidS (curCtx s) b) 1 pd (holds (valS (curCtx s) b)) ∧
    Spec.resultP g (.cmpi g cc pd a imm) s (voidS (curCtx s) a) 1 pd (holds (BitVec.ofInt 64 imm.toInt)) ∧
    Spec.resultP g (.pand g pd pa na pb nb) s void2 1 pd (p && q) ∧
    Spec.resultP g (.por g pd pa na pb nb) s void2 1 pd (p || q) ∧
    Spec.resultP g (.pxor g pd pa na pb nb) s void2 1 pd (xor p q) ∧
    Spec.resultP g (.pnot g pd pa na) s (voidP (curCtx s) pa) 1 pd (!p)

/-- R74 to R76: the loads, of a core's scratchpad or, in a service handler, of its data window (R235): what they land, and the trap
of an access that leaves the range.
R74, R75: the stores. The bytes of the range hold the low bytes of the operand, every other byte of the scratchpad and everything
else is as before; outside the range the store traps, and under a guard of 0 it writes nothing. In a handler the store writes the
data window of its core (R235) and nothing else. -/
def Obligations.ScalarMemory : Prop :=
  (∀ (g : Guard) (d : SDst) (a : SOp) (disp : BitVec 20) (s : State),
    let c := curCtx s
    let ea := (valS c a + disp.signExtend 64).toNat
    let bytes := fun n => leNat (viewRead s s.sched.cur ea n)
    let fits := fun n => if (cur s).svc.isSome then ea + n ≤ 0x400 else ea + n ≤ 0x40000 ∧ spadBad (cur s) ea n = false
    let ld := fun (i : Instr) (n : Nat) (v : Word) =>
      (guardOn c g = true → fits n → Spec.resultS g i s (voidS c a) 0 4 d v 0) ∧
      (guardOn c g = false → Spec.resultS g i s (voidS c a) 0 4 d v 0) ∧
      (guardOn c g = true → (cur s).svc = none → 0x40000 < ea + n →
        exec i s = .next (takeStop s.sched.cur { cause := .xlate, smask := 1, engine := 2, reason := 4, va := some ea } s))
    ld (.ldB g d a disp) 1 (BitVec.ofInt 64 (BitVec.ofNat 8 (bytes 1)).toInt) ∧ ld (.ldBz g d a disp) 1 (BitVec.ofNat 64 (bytes 1)) ∧
    ld (.ldH g d a disp) 2 (BitVec.ofInt 64 (BitVec.ofNat 16 (bytes 2)).toInt) ∧ ld (.ldHz g d a disp) 2 (BitVec.ofNat 64 (bytes 2)) ∧
    ld (.ldW g d a disp) 4 (BitVec.ofInt 64 (BitVec.ofNat 32 (bytes 4)).toInt) ∧ ld (.ldWz g d a disp) 4 (BitVec.ofNat 64 (bytes 4)) ∧
    ld (.ldD g d a disp) 8 (BitVec.ofNat 64 (bytes 8))) ∧
  (∀ (g : Guard) (b a : SOp) (disp : BitVec 20) (s : State),
    let c := curCtx s
    let y := valS c b
    let ea := (valS c a + disp.signExtend 64).toNat
    let st := fun (i : Instr) (n : Nat) =>
      (guardOn c g = true → (cur s).svc = none → ea + n ≤ 0x40000 →
        ∃ (k : Core) (fl : Flags), Spec.readFlags c (voidP c g.p || voidS c a || voidS c b) fl ∧
          exec i s = .next (setCur s { k with ctx := { c with flags := fl } }) ∧
          k = { cur s with spad := k.spad, badWords := k.badWords } ∧
          (∀ p, mRead k.spad p = if ea ≤ p ∧ p < ea + n then y.extractLsb' (8 * (p - ea)) 8 else mRead (cur s).spad p) ∧
          (∀ m w, (m, w) ∈ k.badWords ↔ (m, w) ∈ (cur s).badWords ∧ ¬ (m = .spad ∧ ea ≤ 8 * w ∧ 8 * w + 8 ≤ ea + n))) ∧
      (guardOn c g = true → (cur s).svc.isSome → ea + n ≤ 0x400 →
        ∃ (m : SMap Byte) (fl : Flags), Spec.readFlags c (voidP c g.p || voidS c a || voidS c b) fl ∧
          exec i s = .next { setCtx s { c with flags := fl } with store := m } ∧
          ∀ p, mRead m p = if windowAt s.sched.cur + ea ≤ p ∧ p < windowAt s.sched.cur + ea + n
            then y.extractLsb' (8 * (p - (windowAt s.sched.cur + ea))) 8 else mRead s.store p) ∧
      (guardOn c g = true → (cur s).svc = none → 0x40000 < ea + n →
        exec i s = .next (takeStop s.sched.cur { cause := .xlate, smask := 1, engine := 2, reason := 4, va := some ea } s)) ∧
      (guardOn c g = false → Spec.onlyReads i s (voidP c g.p))
    st (.stB g b a disp) 1 ∧ st (.stH g b a disp) 2 ∧ st (.stW g b a disp) 4 ∧ st (.stD g b a disp) 8)

/-! ## Control flow and system instructions -/

/-- R78, R84: the entries that the branches make, taken and not taken, in their three forms; a branch changes nothing else but for
the return address of a call, which is pending for the bundle after its second delay bundle. -/
def Obligations.Branches : Prop :=
  ∀ (g : Guard) (an : An) (d : SDst) (a : SOp) (imm : BitVec 32) (s : State),
    let c := curCtx s
    let x := valS c a
    let taken := guardOn c g
    let entry := fun (t : Int) => if taken then Npc.mk (BitVec.ofInt 32 t) (an == .tk) true else ⟨0, an == .nt, false⟩
    let voidA := voidP c g.p || (taken && voidS c a)
    Spec.setsCtx (.br g an imm) s (voidP c g.p) { c with entry := entry (c.pc.toNat + imm.toInt) } ∧
    Spec.setsCtx (.bri g an a imm) s voidA { c with entry := entry (x.toNat + imm.toInt) } ∧
    Spec.setsCtx (.ret g an a) s voidA { c with entry := entry x.toNat } ∧
    (taken = true → Spec.setsCtx (.call g an d imm) s (voidP c g.p)
      { c with entry := entry (c.pc.toNat + imm.toInt),
               rets := c.rets ++ [{ left := 3, slot := 0, seq := c.bc, dst := d, addr := true, val := 0 }] }) ∧
    (taken = false → ∃ d', (d = .belt → d' = .belt) ∧ (d ≠ .belt → d' = .discard) ∧
      Spec.setsCtx (.call g an d imm) s (voidP c g.p)
        { c with entry := entry (c.pc.toNat + imm.toInt),
                 rets := c.rets ++ [{ left := 3, slot := 0, seq := c.bc, dst := d', addr := false, val := 0 }] })

/-- R85, R86: `loop` sets the count, the stages and the stage predicates; `loopb` counts, rotates and branches. -/
def Obligations.Loops : Prop :=
  ∀ (g : Guard) (a : SOp) (imm : BitVec 32) (stg : Fin 8) (s : State),
    let c := curCtx s
    let rotates := fun (new8 : Bool) (p v : BitVec 16) => ∀ i < 16,
      p.getLsbD i = (if i < 8 then c.preds.getLsbD i else if i = 8 then new8
        else c.preds.getLsbD (i - 1) && !c.pvoid.getLsbD (i - 1)) ∧
      v.getLsbD i = (decide (i < 8) && c.pvoid.getLsbD i)
    let back := Npc.mk (BitVec.ofInt 32 (c.pc.toNat + imm.toInt)) false true
    (guardOn c g = true → ∃ p v,
      (∀ i < 16, p.getLsbD i = (if i < 8 then c.preds.getLsbD i else decide (i = 8)) ∧
        v.getLsbD i = (decide (i < 8) && c.pvoid.getLsbD i)) ∧
      Spec.setsCtx (.loop g a imm stg) s (voidP c g.p || voidS c a)
        { c with lc := BitVec.ofInt 64 ((valS c a).toNat + imm.toInt), stages := BitVec.ofNat 4 (stg.val + 1),
                 preds := p, pvoid := v }) ∧
    (guardOn c g = false → Spec.onlyReads (.loop g a imm stg) s (voidP c g.p)) ∧
    (guardOn c g = true → c.stages = 0 → Spec.setsCtx (.loopb g imm) s (voidP c g.p) { c with entry := {} }) ∧
    (guardOn c g = true → c.stages ≠ 0 → 0 < c.lc.toNat → ∃ p v, rotates true p v ∧
      Spec.setsCtx (.loopb g imm) s (voidP c g.p) { c with lc := c.lc - 1, preds := p, pvoid := v, entry := back }) ∧
    (guardOn c g = true → 1 < c.stages.toNat → c.lc = 0 → ∃ p v, rotates false p v ∧
      Spec.setsCtx (.loopb g imm) s (voidP c g.p) { c with stages := c.stages - 1, preds := p, pvoid := v, entry := back }) ∧
    (guardOn c g = true → c.stages = 1 → c.lc = 0 → ∃ p v, rotates false p v ∧
      Spec.setsCtx (.loopb g imm) s (voidP c g.p) { c with stages := 0, preds := p, pvoid := v, entry := {} }) ∧
    (guardOn c g = false → Spec.setsCtx (.loopb g imm) s (voidP c g.p) { c with entry := {} })

/-- R88, R89: `sleepto` and `mwait` begin their waits, or an `mwait` whose condition holds lands its sample at once; the wake and the
end of a wait, in a cycle of waiting. -/
def Obligations.Waits : Prop :=
  ∀ (g : Guard) (d : SDst) (cc : CC) (a b e : SOp) (core : Nat) (s : State), cc.isInt →
    let c := curCtx s
    let tick := fun n => ((coreRegion s n).frame * (coreRegion s n).m + (coreRegion s n).cyf) % 2 ^ 64
    let word := fun n ea => BitVec.ofNat 64 (leNat (viewRead s n ea 8))
    let ea := (valS c a).toNat
    let y := valS c b
    let z := valS c e
    let void := voidP c g.p || voidS c a || voidS c b || voidS c e
    let holds := fun n ea (y z : Word) => ccHolds cc (word n ea) y = true ∨ z.toNat ≤ tick n
    (guardOn c g = true → Spec.setsCtx (.sleepto g a) s (voidP c g.p || voidS c a)
      { c with waits := c.waits ++ [{ kind := .sleepto (valS c a), slot := 0, seq := c.bc, dst := .discard }] }) ∧
    (guardOn c g = false → Spec.onlyReads (.sleepto g a) s (voidP c g.p)) ∧
    (guardOn c g = true → viewStop (cur s) 2 1 ea 8 true = none → holds s.sched.cur ea y z →
      Spec.flies (.mwait g d cc a b e) s void 0 1 (resS d (word s.sched.cur ea)) 0) ∧
    (guardOn c g = true → viewStop (cur s) 2 1 ea 8 true = none → ¬ holds s.sched.cur ea y z →
      Spec.setsCtx (.mwait g d cc a b e) s void
        { c with waits := c.waits ++ [{ kind := .mwait cc ea y z, slot := 0, seq := c.bc, dst := d }] }) ∧
    (guardOn c g = false →
      Spec.flies (.mwait g d cc a b e) s (voidP c g.p) 0 1 (match d with | .belt => .sbelt 0 | _ => .drop false) 0) ∧
    (guardOn c g = true → (cur s).svc = none → 0x40000 < ea + 8 → exec (.mwait g d cc a b e) s =
      .next (takeStop s.sched.cur { cause := .xlate, smask := 1, engine := 2, reason := 4, va := some ea } s)) ∧
    (let k := getCore s core
     exec (.sleeptoWake core) s = .next (setCore s core { k with ctx := { k.ctx with
       waits := k.ctx.waits.filter fun w => match w.kind with | .sleepto t => decide (tick core < t.toNat) | _ => true } })) ∧
    (let k := getCore s core
     ∀ at_ slot seq y z, k.ctx.waits = [{ kind := .mwait cc at_ y z, slot := slot, seq := seq, dst := d }] →
       exec (.mwaitEnd core) s = .next (setCore s core (if holds core at_ y z then
         { k with ctx := { k.ctx with
             waits := []
             inflight := k.ctx.inflight ++ [⟨k.ctx.bc + 1, slot, seq, resS d (word core at_), 0⟩] } } else k)))

/-- R91, R92: `trig` records the trigger of its block once, and `svc` records its call; under a guard of 0 neither does anything but
land the zero of `svc`. In a service handler, which changes nothing of the held context, `trig` records nothing (R235, log 54).
R91, R235: `exit` ends the block of the core: its pending entries and results in flight go, it counts as a trigger when none has
issued, the crossings that it owns stop and lose their owner (R252), and no other core, request or byte of memory changes; in a handler
it marks the handler's end. -/
def Obligations.TriggersCallsAndExit : Prop :=
  (∀ (g : Guard) (d : SDst) (n : BitVec 8) (a b e : SOp) (s : State),
    let c := curCtx s
    let x := valS c a
    (guardOn c g = true → (cur s).svc = none → ∀ blk, (cur s).blk = some blk → ∃ fl, Spec.readFlags c (voidP c g.p) fl ∧
      exec (.trig g) s = .next (setCur s { cur s with
        ctx := { c with flags := fl },
        blk := some { blk with trig := if blk.trig.isSome then blk.trig else some s.nextReq } })) ∧
    (guardOn c g = false ∨ (cur s).svc.isSome → Spec.onlyReads (.trig g) s (voidP c g.p)) ∧
    (guardOn c g = true → Spec.setsCtx (.svc g d n a b e) s (voidP c g.p || voidS c a || voidS c b || voidS c e)
      { c with svc := some { n := n, tag := x, y := valS c b, z := valS c e, dst := d, seq := c.bc } }) ∧
    (guardOn c g = false →
      Spec.flies (.svc g d n a b e) s (voidP c g.p) 0 1 (match d with | .belt => .sbelt 0 | _ => .drop false) 0)) ∧
  (∀ (g : Guard) (s : State),
    let c := curCtx s
    let n := s.sched.cur
    (guardOn c g = false → Spec.onlyReads (.exit g) s (voidP c g.p)) ∧
    (guardOn c g = true → ∀ h, (cur s).svc = some h → ∃ fl, Spec.readFlags c (voidP c g.p) fl ∧
      exec (.exit g) s = .next (setCur s { cur s with ctx := { c with flags := fl }, svc := some { h with exited := true } })) ∧
    (guardOn c g = true → (cur s).svc = none → ∀ blk, (cur s).blk = some blk →
      ∃ t, exec (.exit g) s = .next t ∧
        t = { s with cores := t.cores, xings := t.xings, twes := t.twes, jobs := t.jobs } ∧
        (∀ m, m ≠ n → getCore t m = getCore s m) ∧
        (getCore t n).run = .idle ∧
        (getCore t n).ctx = { c with
          flags := (getCore t n).ctx.flags, npc1 := {}, npc2 := {}, entry := {}, npc1Set := none, npc2Set := none
          dlPut := none, inflight := [], latch := [], rets := [], waits := [], svc := none } ∧
        Spec.readFlags c (voidP c g.p) (getCore t n).ctx.flags ∧
        (getCore t n).spad = (cur s).spad ∧ (getCore t n).mx.now = (cur s).mx.now ∧ (getCore t n).mx.claimed = 0 ∧
        (∃ b, (getCore t n).blk = some b ∧ b.exited = true ∧ b.trig = some (blk.trig.getD s.nextReq) ∧ b.bid = blk.bid ∧
          b.part = blk.part ∧ b.launch = blk.launch) ∧
        t.xings = s.xings.map fun x => if x.2.owner.isSome = true ∧ x.2.ownerBid = blk.bid then
          (x.1, { x.2 with owner := none, run := false, cfg := none }) else x))

namespace Sys2Proof.Spec

/-- A status word (R194): bit 63, a value in [47:16] and a code. -/
def status (code val : Nat) : Word := BitVec.ofNat 64 (2 ^ 63 + val % 2 ^ 32 * 2 ^ 16 + code)

/-- The instruction answers a next state whose context of the core in issue has one more result in flight, the word `w`, and which
is `t` otherwise; under a guard of 0 it lands a zero on a belt destination and does nothing else. `t` keeps the context in issue. -/
def resultW (g : Guard) (i : Instr) (s : State) (void : Bool) (slot lat : Nat) (d : SDst) (w : Word) (t : State) : Prop :=
  if guardOn (curCtx s) g then
    curCtx t = curCtx s ∧ ∃ fl, readFlags (curCtx s) (voidP (curCtx s) g.p || void) fl ∧
      exec i s = .next (setCtx t (withResult (curCtx s) fl slot lat
        (match d with | .belt => .sbelt w | .k n => .k n w | .discard => .drop false) 0))
  else flies i s (voidP (curCtx s) g.p) slot lat (match d with | .belt => .sbelt 0 | _ => .drop false) 0

/-- A stop for want of privilege, of an instruction in the S slot (R55). -/
def privilegeStop (i : Instr) (s : State) : Prop :=
  exec i s = .next (takeStop s.sched.cur { cause := .priv, smask := 1, engine := 1 } s)

end Sys2Proof.Spec

/-- R82, R171, R177, R224: taking a stop outside a handler, when the page of the trap record can be written. The core is held before the
bundle at `PC`, with `PC`, `NPC1` and `NPC2` as they stood; results in flight are in the latch bank with their offsets, complete after 24
cycles, or at once at a `YIELD` bundle with nothing in flight; the 128 bytes of the record hold the cause, the slot mask, the engine, the
reason, those registers, the low 55 bits of the address (log 54), `FRAME`, `CYF`, the core and `RCOUNT`; no other core changes.
R228, R235: a stop whose record cannot be written, and any stop in a service handler, fences the core: a double fault with the reason and
the address that failed. -/
def Obligations.StopsAndDoubleFaults : Prop :=
  (∀ (c : Nat) (e : Stop) (s u : State) (x : Xlat), (getCore s c).svc = none → (getCore s c).mxWas = none → e.cause ≠ .dataerr →
    pinnedAt (freeze c e.cause s) c 2 (getCore s c).ctx.traprec.toNat 128 = (u, .ok x) →
    x.pa % 128 = 0 → (∀ die off, ∀ i < 128, paKind (x.pa + i) ≠ .kiln die off) →
    let t := takeStop c e s
    let k := getCore s c
    let r := coreRegion s c
    let record := leNat (bytesUnder t (some x.key) x.pa 128)
    (getCore t c).run = .held e.cause ∧
    (getCore t c).snapLeft = (if nothingInFlight k = true ∧ yieldHere s c = true then 0 else 24) ∧
    (getCore t c).ctx = { k.ctx with
      latch := k.ctx.latch ++ k.ctx.inflight.map fun l => { l with due := l.due - k.ctx.bc }
      inflight := []
      rcount := k.ctx.rcount + 1 } ∧
    (∀ m, m ≠ c → getCore t m = getCore s m) ∧
    bits record 0 8 = causeCode e.cause ∧ bits record 8 6 = e.smask % 64 ∧
    (e.engine < 256 → e.reason < 256 → bits record 16 8 = e.engine ∧ bits record 24 8 = e.reason) ∧
    (e.engine < 256 → e.reason < 256 → c < 1024 →
      bits record 32 32 = k.ctx.pc.toNat ∧ bits record 64 34 = npcBits k.ctx.npc1 ∧ bits record 128 34 = npcBits k.ctx.npc2 ∧
      bits record 192 55 = e.va.getD 0 % 2 ^ 55 ∧ bits record 255 1 = e.va.isSome.toNat ∧
      bits record 256 64 = r.frame % 2 ^ 64 ∧ bits record 320 24 = r.cyf % 2 ^ 24 ∧ bits record 352 10 = c ∧
      bits record 368 20 = regionId s c ∧ bits record 448 64 = s.tick % 2 ^ 64 ∧ bits record 512 32 = (k.ctx.rcount + 1).toNat)) ∧
  (∀ (c : Nat) (e : Stop) (s : State),
    ((getCore s c).svc.isSome → (getCore (takeStop c e s) c).run = .fenced ∧
      (getCore (takeStop c e s) c).ctx = ((getCore s c).svc.map (·.host)).getD {} ∧ (getCore (takeStop c e s) c).svc = none ∧
      takeStop c e s = doubleFault c e.cause 0x01 e.reason e.va s) ∧
    ((getCore s c).svc = none → e.cause ≠ .dataerr → ∀ u r,
      pinnedAt (freeze c e.cause s) c 2 (takeBackRows (getCore s c)).ctx.traprec.toNat 128 = (u, .error r) →
      (getCore (takeStop c e s) c).run = .fenced ∧ (getCore (takeStop c e s) c).faults = [] ∧
      Task.ev (.unitCount c) ∈ (takeStop c e s).sched.tasks) ∧
    (∀ m, m ≠ c → getCore (takeStop c e s) m = getCore s m))

/-- R94, R174: `rte` ends the kernel's stream and resumes the context that `TRAPREC` names: `PC`, `NPC1` and `NPC2` from its record, the
results of the latch bank at their offsets from the resumed bundle. Without kernel privilege it takes `PRIV`. Which core's context that
is (`heldWith`: one held with that register, but none that a debugger holds), and that nothing resumes when there is none, is the
model's reading (log 12); that the core of the kernel's stream then idles with its block still in it is the model's choice (log 54). -/
def Obligations.ReturnFromTrap : Prop :=
  ∀ (g : Guard) (s : State), (s.cores.map (·.1)).Nodup →
    let c := curCtx s
    let n := s.sched.cur
    (c.kern = false → Spec.privilegeStop (.rte g) s) ∧
    (c.kern = true → guardOn c g = false → Spec.onlyReads (.rte g) s (voidP c g.p)) ∧
    (c.kern = true → guardOn c g = true → heldWith s c.traprec n = none → ∃ fl, Spec.readFlags c (voidP c g.p) fl ∧
      exec (.rte g) s = .next (setCur s { cur s with
        run := .idle
        ctx := { c with flags := fl, npc1 := {}, npc2 := {}, entry := {}, inflight := [], rets := [], waits := [] } })) ∧
    (c.kern = true → guardOn c g = true → ∀ m, heldWith s c.traprec n = some m →
      ∃ t, exec (.rte g) s = .next t ∧ (getCore t n).run = .idle ∧ (getCore t n).ctx.npc1 = {} ∧ (getCore t n).ctx.npc2 = {} ∧
        (getCore t n).ctx.inflight = [] ∧ (getCore t n).ctx.sb = c.sb ∧ (getCore t n).ctx.sk = c.sk ∧
        (∀ j, j ≠ n → j ≠ m → getCore t j = getCore s j) ∧
        ∀ u x, pinnedAt (setCur s (getCore t n)) m 1 c.traprec.toNat 128 = (u, .ok x) →
          let k := (getCore s m).ctx
          let record := leNat (bytesUnder u (some x.key) x.pa 128)
          (getCore t m).run = .running ∧
          (getCore t m).ctx = { k with
            pc := BitVec.ofNat 32 (bits record 32 32)
            npc1 := ⟨BitVec.ofNat 32 (bits record 64 32), bits record 96 1 == 1, bits record 97 1 == 1⟩
            npc2 := ⟨BitVec.ofNat 32 (bits record 128 32), bits record 160 1 == 1, bits record 161 1 == 1⟩
            inflight := k.inflight ++ k.latch.map fun l => { l with due := l.due + k.bc }
            latch := [], grpK := 0, grpW := 0, grpP := 0 })

/-- R92, R238, R239: the answers of the kernel to a call that a core waits in. Each answer lands with the next bundle, and the core
resumes; a call that changes something writes its journal entry with its effect, a call of a restarted tag that has none is answered
`NOTTAKEN` and journalled so, and every later call with such a tag is answered `NOTTAKEN` again. That the outcome of dropping an entry
(n = 15) is what the service gives is the model's choice (log 39). What `CALL_UNMAP` waits for is no part of this statement.
R239: a restart of the services resumes every core that waits in a call with `RESTARTED`, whose result lands with the next bundle,
and no other core changes. -/
def Obligations.ServiceCallsAndRestart : Prop :=
  (∀ (core : Nat) (outcome : Word) (c : SvcCall) (s : State),
    let k := getCore s core
    let n := c.n.toNat
    let journal := (k.blk.map (·.journal)).getD []
    let answersWith := fun (w : Word) (entries : List JEntry) => ∃ t, exec (.svcResume core outcome) s = .next t ∧
      (getCore t core).run = .running ∧ (getCore t core).ctx.svc = none ∧
      (getCore t core).ctx.rets = k.ctx.rets ++ [{ left := 0, slot := 0, seq := c.seq, dst := c.dst, addr := false, val := w }] ∧
      (getCore t core).ctx.inflight = k.ctx.inflight ++ k.ctx.latch.map (fun l => { l with due := l.due + k.ctx.bc }) ∧
      (getCore t core).ctx.sb = k.ctx.sb ∧ (getCore t core).ctx.sk = k.ctx.sk ∧ (getCore t core).spad = k.spad ∧
      (∀ m, m ≠ core → getCore t m = getCore s m) ∧
      (getCore t core).blk = k.blk.map fun b => { b with journal := entries }
    let answers := fun (w : Word) => answersWith w journal
    let entry := fun (w : Word) => JEntry.mk c.tag c.n c.y c.z w
    let notTaken : Word := BitVec.ofNat 64 (2 ^ 63 + 1)
    k.run = .held .svc → k.ctx.svc = some c →
      ((5 < n ∧ n ≠ 15) → answers (BitVec.ofNat 64 (2 ^ 63 + 2))) ∧
      (n = 0 → answers (BitVec.ofNat 64 (c.y.toNat % 2 ^ 63))) ∧
      (n = 15 → answersWith (BitVec.ofNat 64 (outcome.toNat % 2 ^ 63)) (journal.filter fun j => j.tag != c.y)) ∧
      ((n = 1 ∨ n = 3 ∨ n = 4) → c.tag = 0 → answers (BitVec.ofNat 64 (2 ^ 63 + 6))) ∧
      ((n = 1 ∨ n = 3 ∨ n = 4) → c.tag ≠ 0 → ∀ j, journal.find? (fun j => j.tag == c.tag) = some j →
        answers (if j.outcome = notTaken then notTaken
          else if j.n = c.n ∧ j.y = c.y ∧ j.z = c.z then j.outcome else BitVec.ofNat 64 (2 ^ 63 + 4))) ∧
      ((n = 1 ∨ n = 3 ∨ n = 4) → c.tag ≠ 0 → (∀ j ∈ journal, j.tag ≠ c.tag) →
        ((k.blk.map (·.restarted)).getD []).contains c.tag = true →
        answersWith notTaken (if 64 ≤ journal.length then journal else journal ++ [entry notTaken])) ∧
      ((n = 1 ∨ n = 3 ∨ n = 4) → c.tag ≠ 0 → (∀ j ∈ journal, j.tag ≠ c.tag) →
        ((k.blk.map (·.restarted)).getD []).contains c.tag = false → 64 ≤ journal.length →
        answers (BitVec.ofNat 64 (2 ^ 63 + 5))) ∧
      ((n = 1 ∨ n = 3 ∨ n = 4) → c.tag ≠ 0 → (∀ j ∈ journal, j.tag ≠ c.tag) →
        ((k.blk.map (·.restarted)).getD []).contains c.tag = false → journal.length < 64 →
        let w := BitVec.ofNat 64 ((callDo s (corePart s core) ((k.blk.map (·.inst)).getD 0) c).2 % 2 ^ 63)
        answersWith w (journal ++ [entry w]))) ∧
  (∀ (s : State), (s.cores.map (·.1)).Nodup → ∃ t, exec (.serviceRestart 0) s = .next t ∧
    ∀ n k, (n, k) ∈ s.cores →
      (∀ c, k.run = .held .svc → k.ctx.svc = some c →
        (getCore t n).run = .running ∧ (getCore t n).ctx.svc = none ∧
        (getCore t n).ctx.rets = k.ctx.rets ++
          [{ left := 0, slot := 0, seq := c.seq, dst := c.dst, addr := false, val := BitVec.ofNat 64 (2 ^ 63 + 3) }] ∧
        (∀ blk, k.blk = some blk → ∃ b, (getCore t n).blk = some b ∧ b.journal = blk.journal ∧
          b.restarted = if c.n = 0 ∨ c.n = 5 ∨ c.n = 15 then blk.restarted else c.tag :: blk.restarted)) ∧
      ((k.run ≠ .held .svc ∨ k.ctx.svc = none) → getCore t n = k))

/-- R280, R287, R288: `lnch`: its checks in their order, the launch object with the release tick of R289, the reservation of the named
cores, and the handle; only a conductor may issue it. R329: a launch that the account does not cover is held and records `EHOLD`, and it is
admitted in the first cycle of its region whose start covers it. -/
def Obligations.Launches : Prop :=
  ∀ (g : Guard) (d : SDst) (a b e : SOp) (s : State),
    let c := curCtx s
    let i := Instr.lnch g d a b e
    let x := (valS c a).toNat
    let y := (valS c b).toNat
    let z := (valS c e).toNat
    let n := s.sched.cur
    let void := voidS c a || voidS c b || voidS c e
    let conductor := ∃ blk, (cur s).blk = some blk ∧ blk.conductor = true
    (¬ conductor → Spec.privilegeStop i s) ∧
    (∀ blk, (cur s).blk = some blk → blk.conductor = true →
      let inst := getInst s blk.inst
      let named := maskCores inst y
      let bad := x / 2 ^ 33 % 8 ≠ 0 ∨ x / 2 ^ 48 ≠ 0 ∨ y = 0 ∨ 2 ^ inst.cores.length ≤ y ∨
        (∃ m ∈ named, regionOf s m ≠ regionOf s n ∨ m = n) ∨ (z ≠ 0 ∧ (z / 2 ^ 10 % 8 ≠ 1 ∨ readHandle s blk z = .bad))
      let free := fun m => (getCore s m).blk = none ∧ (getCore s m).run = .idle ∧ (getCore s m).resv = none
      (guardOn c g = false → Spec.resultW g i s void 0 1 d 0 s) ∧
      (bad → Spec.resultW g i s void 0 1 d (Spec.status 4 0) s) ∧
      (¬ bad → (∃ m ∈ named, ¬ free m) → Spec.resultW g i s void 0 1 d (Spec.status 3 0) s) ∧
      (¬ bad → (∀ m ∈ named, free m) → freeObj s 1 blk.part (n / 256) = none → Spec.resultW g i s void 0 1 d (Spec.status 3 0) s) ∧
      (guardOn c g = true → ¬ bad → (∀ m ∈ named, free m) → ∀ key, freeObj s 1 blk.part (n / 256) = some key →
        graphOf s blk ≠ some key →
        ∃ t, Spec.resultW g i s void 0 1 d (BitVec.ofNat 64 (objHandle key ((getObj s key).gen + 1))) t ∧
          let o := getObj t key
          o.live = true ∧ o.gen = (getObj s key).gen + 1 ∧ o.cores = named ∧ o.units = named ∧ o.trigs = named ∧
          o.entry = BitVec.ofNat 32 x ∧ o.rst = x.testBit 32 ∧ o.budget = x / 2 ^ 36 % 2 ^ 12 ∧ o.kernel = blk.kernel ∧
          o.due = coreTick s n + 32 + 2 * ceilDiv (kernelOf inst blk.kernel).size 256 ∧ o.after = (blk.bid, s.nextReq) ∧
          (∀ m ∈ named, getCore t m = { getCore s m with resv := some key }) ∧
          (∀ m, m ∉ named → getCore t m = getCore s m) ∧ t.reqs = s.reqs ∧ t.regions = s.regions ∧
          let short := ((inst.energy + 1023) / 1024 : Nat) - (getPart s blk.part).acct
          o.held = decide (0 < short) ∧
          (short ≤ 0 → t.mem = s.mem ∧ t.parts = s.parts) ∧
          (0 < short →
            let u := eventRecord blk.part 0x45 (regionOf s n) (getRegion s (regionOf s n)).frame
              (objHandle key ((getObj s key).gen + 1) + min short.toNat (2 ^ 32 - 1) * 2 ^ 32) s
            t.mem = u.mem ∧ t.parts = u.parts))) ∧
    ∀ (r key : Nat) (ts : List Task), s.sched.tasks = Task.begin r :: ts → (getRegion s r).st ≠ .stopped →
      (getRegion s r).newFrame = false → (getRegion s r).slipDue = false →
      ∃ t, step s = .next t ∧ let o := getObj s key
        getObj t key = if o.live ∧ o.held ∧ o.region = r ∧
            (((getInst s o.inst).energy + 1023) / 1024 : Nat) ≤ (getPart s o.part).acct
          then { o with held := false } else o

/-- R280, R282, R288: `lnch.ph` opens a phase for its range of frames, and `lnch.self` lands the handles of the block's own objects.
R290: `join` lands its result at once when the handle already has one, and waits otherwise; a waiting join ends with the first
cycle in which there is a result.
R291: `cancel` of a handle that is bad, of the block's own, or over; of a unit that runs, which is killed from the fourth cycle on;
and the kill as it is taken, which discards the context. -/
def Obligations.PhasesJoinsAndCancels : Prop :=
  (∀ (g : Guard) (d : SDst) (a b : SOp) (lvl : Nat) (s : State),
    let c := curCtx s
    let lo := (valS c a).toNat
    let hi := (valS c b).toNat
    let void := voidS c a || voidS c b
    let n := s.sched.cur
    ((¬ ∃ blk, (cur s).blk = some blk ∧ blk.conductor = true) → Spec.privilegeStop (.lnchPh g d a b) s) ∧
    (∀ blk, (cur s).blk = some blk → blk.conductor = true →
      (hi ≤ lo → Spec.resultW g (.lnchPh g d a b) s void 0 1 d (Spec.status 4 0) s) ∧
      (lo < hi → freeObj s 3 blk.part (n / 256) = none → Spec.resultW g (.lnchPh g d a b) s void 0 1 d (Spec.status 3 0) s) ∧
      (guardOn c g = true → lo < hi → ∀ key, freeObj s 3 blk.part (n / 256) = some key →
        ∃ t, Spec.resultW g (.lnchPh g d a b) s void 0 1 d (BitVec.ofNat 64 (objHandle key ((getObj s key).gen + 1))) t ∧
          let o := getObj t key
          o.live = true ∧ o.gen = (getObj s key).gen + 1 ∧ o.lo = lo ∧ o.hi = hi ∧ o.region = regionOf s n ∧ o.members = [] ∧
          (∀ k, k ≠ key → getObj t k = getObj s k) ∧ t.cores = s.cores ∧ t.mem = s.mem)) ∧
    (∀ blk, (cur s).blk = some blk →
      let graph := match blk.launch with | some key => (getObj s key).graph | none => blk.graph
      let named := fun (k : Option Nat) => match k with
        | some key => BitVec.ofNat 64 (objHandle key (getObj s key).gen)
        | none => Spec.status 4 0
      Spec.resultW g (.lnchSelf g d 0) s false 0 1 d (BitVec.ofNat 64 (blk.home + blk.gen % 2 ^ 16 * 2 ^ 16)) s ∧
      Spec.resultW g (.lnchSelf g d 1) s false 0 1 d (named blk.launch) s ∧
      Spec.resultW g (.lnchSelf g d 2) s false 0 1 d (named graph) s ∧
      Spec.resultW g (.lnchSelf g d 4) s false 0 1 d (named (some (getInst s blk.inst).job)) s ∧
      (graph.bind (newestPhase s) = none → Spec.resultW g (.lnchSelf g d 3) s false 0 1 d (Spec.status 4 0) s) ∧
      (∀ key, graph.bind (newestPhase s) = some key → Spec.resultW g (.lnchSelf g d 3) s false 0 1 d (named (some key)) s)) ∧
    ((cur s).blk = none → Spec.resultW g (.lnchSelf g d lvl) s false 0 1 d (Spec.status 4 0) s)) ∧
  (∀ (g : Guard) (d : SDst) (a b : SOp) (core : Nat) (s : State),
    let c := curCtx s
    let i := Instr.join g d a b
    let void := voidS c a || voidS c b
    let out := fun (n : Nat) (blk : Block) (h z : Word) => match readHandle s blk h.toNat with
      | .bad => some (Spec.status 4 0)
      | .mine => some (Spec.status 2 0)
      | .over byCancel => some (Spec.status 0 byCancel.toNat)
      | _ => if z.toNat ≤ coreTick s n then some (Spec.status 5 0) else none
    ((¬ ∃ blk, (cur s).blk = some blk ∧ blk.conductor = true) → Spec.privilegeStop i s) ∧
    (∀ blk, (cur s).blk = some blk → blk.conductor = true →
      (∀ w, out s.sched.cur blk (valS c a) (valS c b) = some w → w ≠ Spec.status 5 0 → Spec.resultW g i s void 0 1 d w s) ∧
      (guardOn c g = true → out s.sched.cur blk (valS c a) (valS c b) = some (Spec.status 5 0) →
        Spec.setsCtx i s (voidP c g.p || void) { c with rets := c.rets ++ [⟨1, 0, c.bc, d, false, Spec.status 5 0⟩] }) ∧
      (guardOn c g = false → Spec.resultW g i s void 0 1 d 0 s) ∧
      (guardOn c g = true → out s.sched.cur blk (valS c a) (valS c b) = none → Spec.setsCtx i s (voidP c g.p || void)
        { c with waits := c.waits ++ [{ kind := .join (valS c a) (valS c b), slot := 0, seq := c.bc, dst := d }] })) ∧
    (let k := getCore s core
     ∀ blk h z slot seq, k.blk = some blk → k.ctx.waits = [{ kind := .join h z, slot := slot, seq := seq, dst := d }] →
       (out core blk h z = none → ∃ t, exec (.joinEnd core) s = .next t ∧ getCore t core = k) ∧
       (∀ w, out core blk h z = some w → ∃ t, exec (.joinEnd core) s = .next t ∧ getCore t core =
         { k with ctx := { k.ctx with
             waits := []
             inflight := k.ctx.inflight ++ [⟨k.ctx.bc + 1, slot, seq, resS d w, 0⟩] } }))) ∧
  (∀ (g : Guard) (d : SDst) (a : SOp) (core : Nat) (s : State),
    let c := curCtx s
    let i := Instr.cancel g d a
    let h := (valS c a).toNat
    ((¬ ∃ blk, (cur s).blk = some blk ∧ blk.conductor = true) → Spec.privilegeStop i s) ∧
    (∀ blk, (cur s).blk = some blk → blk.conductor = true →
      (guardOn c g = false → Spec.resultW g i s (voidS c a) 0 1 d 0 s) ∧
      (readHandle s blk h = .bad → Spec.resultW g i s (voidS c a) 0 1 d (Spec.status 4 0) s) ∧
      (readHandle s blk h = .mine → Spec.resultW g i s (voidS c a) 0 1 d (Spec.status 2 0) s) ∧
      (∀ k, readHandle s blk h = .over k → Spec.resultW g i s (voidS c a) 0 1 d (Spec.status 0 k.toNat) s) ∧
      (∀ m b, guardOn c g = true → readHandle s blk h = .unit m b.bid → (getCore s m).blk = some b →
        (allBlocks s).filter (fun x => x.1 == m && x.2.bid == b.bid) = [(m, b)] → b.exited = false →
        (getCore s m).run = .running → (getCore s m).ctx.waits = [] → (getCore s m).svc = none →
        (coreRegion s m).st ≠ .stopped → ∃ t, Spec.resultW g i s (voidS c a) 0 1 d (Spec.status 0 1) t ∧
          (getCore t m).killAt = some (min ((coreRegion s m).clk + 4) ((getCore s m).killAt.getD ((coreRegion s m).clk + 4))) ∧
          (getCore t m).run = .running ∧
          (getCore t m).ctx = (getCore s m).ctx ∧ t.reqs = s.reqs ∧ t.mem = s.mem) ∧
      (∀ key, guardOn c g = true → readHandle s blk h = .obj key →
        ∃ fl, Spec.readFlags (curCtx (cancelObj key s).1) (voidP c g.p || voidS c a) fl ∧
          exec i s = .next (setCtx (cancelObj key s).1 (Spec.withResult (curCtx (cancelObj key s).1) fl 0 1
            (resS d (Spec.status 0 (cancelObj key s).2)) 0)))) ∧
    (∀ t, (getCore s core).killAt = some t → (coreRegion s core).clk < t → exec (.killTaken core) s = .next s) ∧
    (∀ t blk, (getCore s core).killAt = some t → t ≤ (coreRegion s core).clk → (getCore s core).blk = some blk →
      ∃ u, exec (.killTaken core) s = .next u ∧ (getCore u core).run = .idle ∧ (getCore u core).killAt = none ∧
        (getCore u core).ctx.inflight = [] ∧ (getCore u core).ctx.latch = [] ∧ (getCore u core).ctx.waits = [] ∧
        (getCore u core).mx.claimed = 0 ∧ (getCore u core).spad = (getCore s core).spad ∧
        (∃ b, (getCore u core).blk = some b ∧ b.exited = true ∧ b.killed = blk.doomed ∧ b.bid = blk.bid) ∧
        u.reqs = s.reqs ∧ u.mem = s.mem ∧
        (∀ m, m ≠ core → getCore u m = getCore s m)))

/-- R93, R96: `trap` and `brk` take their stops, of causes `SWTRAP` and `DEBUG` with the S slot in the mask; under a guard of 0 they do
nothing.
R36, R37, R95: what `sget` lands and `sput` writes, for every system register; a reserved code is refused with `BADFLD`, and a
kernel register with `PRIV`.
R332: the energy registers that `eget` lands. -/
def Obligations.TrapsAndSystemRegisters : Prop :=
  (∀ (g : Guard) (n : BitVec 8) (s : State),
    let c := curCtx s
    (guardOn c g = true → exec (.trap g n) s = .next (takeStop s.sched.cur { cause := .swtrap, smask := 1 } s)) ∧
    (guardOn c g = true → exec (.brk g n) s = .next (takeStop s.sched.cur { cause := .debug, smask := 1 } s)) ∧
    (guardOn c g = false → Spec.onlyReads (.trap g n) s (voidP c g.p) ∧ Spec.onlyReads (.brk g n) s (voidP c g.p))) ∧
  (∀ (g : Guard) (d : SDst) (r : SysReg) (a : SOp) (s : State),
    let c := curCtx s
    let n := s.sched.cur
    let rg := coreRegion s n
    let x := valS c a
    let v := x.toNat
    let npc := fun (e : Npc) => e.target.toNat + 2 ^ 32 * e.annul.toNat + 2 ^ 33 * e.valid.toNat
    let reads : Nat := match r with
      | .flags => c.flags.toNat | .mempol => c.mempol.toNat | .poltabl => c.poltabl.toNat | .poltabh => c.poltabh.toNat
      | .traprec => c.traprec.toNat | .frame => rg.frame % 2 ^ 64 | .cyf => rg.cyf % 2 ^ 24 | .tick => s.tick % 2 ^ 64
      | .deadline => (cur s).deadline.toNat | .lc => c.lc.toNat | .stages => c.stages.toNat | .npc1 => npc c.npc1
      | .npc2 => npc c.npc2 | .coreId => n
      | .regionId => regionOf s n % 8 + 2 ^ 8 * (n / 256 % 4) + 2 ^ 16 * (corePart s n % 16) | .mpc => c.mpc.toNat
    let entryBad := fun e => 4 < e / 4 % 8 ∨ 1 < e / 32 % 8 ∨ 2 < e / 256 % 4
    let bad : Prop := match r with
      | .mempol => entryBad v
      | .poltabl => ∃ i < 4, entryBad (v / 2 ^ (16 * i))
      | .poltabh => ∃ i < 3, entryBad (v / 2 ^ (16 * i))
      | .stages => 9 ≤ v % 16
      | _ => False
    let kernel : Prop := r = .traprec ∨ r = .deadline ∨ r = .npc1 ∨ r = .npc2
    let entries := fun n => (List.range n).foldr (fun i m => v / 2 ^ (16 * i) % 2 ^ 10 * 2 ^ (16 * i) + m) 0
    let npcIn := Npc.mk (BitVec.ofNat 32 v) (v / 2 ^ 32 % 2 == 1) (v / 2 ^ 33 % 2 == 1)
    let written : Ctx := match r with
      | .mempol => { c with mempol := BitVec.ofNat 16 (entries 1) }
      | .poltabl => { c with poltabl := BitVec.ofNat 64 (entries 4) }
      | .poltabh => { c with poltabh := BitVec.ofNat 48 (entries 3) }
      | .traprec => { c with traprec := BitVec.ofNat 55 (v - v % 128) }
      | .deadline => { c with dlPut := some (BitVec.ofNat 32 v) }
      | .lc => { c with lc := x }
      | .stages => { c with stages := BitVec.ofNat 4 v }
      | .npc1 => { c with npc1Set := some npcIn }
      | .npc2 => { c with npc2Set := some npcIn }
      | .mpc => { c with mpc := BitVec.ofNat 32 v }
      | _ => c
    Spec.resultS g (.sget g d r) s false 0 1 d (BitVec.ofNat 64 reads) 0 ∧
    (kernel → c.kern = false →
      exec (.sput g r a) s = .next (takeStop n { cause := .priv, smask := 1, engine := 1 } s)) ∧
    ((kernel → c.kern = true) → guardOn c g = false → Spec.onlyReads (.sput g r a) s (voidP c g.p)) ∧
    (guardOn c g = true → bad →
      exec (.sput g r a) s = .next (takeStop n { cause := .badfld, smask := 1, engine := 1 } s)) ∧
    (guardOn c g = true → (kernel → c.kern = true) → ¬ bad → r ≠ .flags →
      Spec.setsCtx (.sput g r a) s (voidP c g.p || voidS c a) written) ∧
    (guardOn c g = true → r = .flags → voidP c g.p = false → voidS c a = false → ∃ fl : Flags,
      (∀ i < 10, fl.getLsbD i = (c.flags.getLsbD i && !x.getLsbD i)) ∧
      exec (.sput g r a) s = .next (setCtx s { c with flags := fl }))) ∧
  (∀ (g : Guard) (d : SDst) (s : State),
    let p := getPart s (corePart s s.sched.cur)
    Spec.resultS g (.eget g d 0) s false 0 1 d (BitVec.ofInt 64 p.acct) 0 ∧
    Spec.resultS g (.eget g d 1) s false 0 1 d (BitVec.ofNat 64 p.credit) 0 ∧
    Spec.resultS g (.eget g d 2) s false 0 1 d (BitVec.ofNat 64 p.low) 0 ∧
    Spec.resultS g (.eget g d 3) s false 0 1 d (BitVec.ofNat 64 s.mgmt.ewin) 0 ∧
    Spec.resultS g (.eget g d 4) s false 0 1 d (BitVec.ofNat 64 (coreRegion s s.sched.cur).leanOn.toNat) 0)

/-! ## Vector instructions -/

namespace Sys2Proof.Spec

/-- Lane `j` of width `w`: bits `w·j + w − 1` to `w·j` (R98, R116). -/
def lane (w : Nat) (v : VWord) (j : Nat) : Nat := v.toNat / 2 ^ (w * j) % 2 ^ w

/-- The vector whose lanes of width `w`, `n` of them, are the low `w` bits of the integers `h j`; every bit above them is 0. -/
def vec (w n : Nat) (h : Nat → Int) : VWord := BitVec.ofNat 2048 (∑ j ∈ Finset.range n, (h j % 2 ^ w).toNat * 2 ^ (w * j))

/-- The flags of `n` lanes together (R118). -/
def flagsOf (n : Nat) (f : Nat → Flags) : Flags := (List.range n).foldr (fun j m => f j ||| m) 0

/-- A lane as the integer it stands for: unsigned, or two's complement. -/
def num (w : Nat) (u : Bool) (x : Nat) : Int := if u = true ∨ 2 * x < 2 ^ w then x else (x : Int) - 2 ^ w

/-- The bounds of R98. -/
def lo (w : Nat) (u : Bool) : Int := if u then 0 else -2 ^ (w - 1)
def hi (w : Nat) (u : Bool) : Int := if u then 2 ^ w - 1 else 2 ^ (w - 1) - 1

/-- `Sat` (R21): the value clamped, and `SAT` when that changes it. -/
def sat (w : Nat) (u : Bool) (x : Int) : Int := max (lo w u) (min x (hi w u))
def satFlag (w : Nat) (u : Bool) (x : Int) : Flags := if sat w u x = x then 0 else fSAT

/-- A lane result of an instruction of a V slot, with its flags. -/
def lanes (g : Guard) (i : Instr) (s : State) (void : Bool) (lat : Nat) (d : VDst) (w n : Nat) (h : Nat → Int)
    (f : Nat → Flags) : Prop :=
  resultV g i s void (if s.sched.slot = 2 then 2 else 1) lat d (vec w n h) (flagsOf n f)

/-- The same from lanes given with their flags. -/
def codes (g : Guard) (i : Instr) (s : State) (void : Bool) (lat : Nat) (d : VDst) (w n : Nat) (h : Nat → Nat × Flags) : Prop :=
  lanes g i s void lat d w n (fun j => ((h j).1 : Int)) fun j => (h j).2

end Sys2Proof.Spec

/-- R121: the integer lane operations that wrap.
R121, R123, R124: saturating sums and differences, widening products and narrowing. -/
def Obligations.VectorIntegerLanes : Prop :=
  (∀ (g : Guard) (d : VDst) (lt : LT) (u : Bool) (a b e : VOp) (s : State), lt.isInt →
    let c := curCtx s
    let w := lt.width
    let n := 2048 / w
    let x := Spec.lane w (valV c a)
    let y := Spec.lane w (valV c b)
    let z := Spec.lane w (valV c e)
    let S := fun q => Spec.num w false q
    let one := fun (i : Instr) (h : Nat → Int) => Spec.lanes g i s (voidV c a) 2 d w n h fun _ => 0
    let two := fun (i : Instr) (lat : Nat) (h : Nat → Int) => Spec.lanes g i s (voidV c a || voidV c b) lat d w n h fun _ => 0
    two (.vadd g d lt a b) 2 (fun j => x j + y j) ∧
    two (.vsub g d lt a b) 2 (fun j => (x j : Int) - y j) ∧
    two (.vmul g d lt a b) 3 (fun j => x j * y j) ∧
    two (.vmulh g d lt u a b) 3 (fun j => Int.fdiv (Spec.num w u (x j) * Spec.num w u (y j)) (2 ^ w)) ∧
    Spec.lanes g (.vmac g d lt a b e) s (voidV c a || voidV c b || voidV c e) 3 d w n (fun j => x j * y j + z j) (fun _ => 0) ∧
    one (.vabs g d lt a) (fun j => |S (x j)|) ∧
    one (.vneg g d lt a) (fun j => -(x j : Int)) ∧
    two (.vmin g d lt a b) 2 (fun j => min (S (x j)) (S (y j))) ∧
    two (.vmax g d lt a b) 2 (fun j => max (S (x j)) (S (y j))) ∧
    two (.vminz g d lt a b) 2 (fun j => min (x j) (y j)) ∧
    two (.vmaxz g d lt a b) 2 (fun j => max (x j) (y j)) ∧
    two (.vand g d lt a b) 2 (fun j => x j &&& y j) ∧
    two (.vor g d lt a b) 2 (fun j => x j ||| y j) ∧
    two (.vxor g d lt a b) 2 (fun j => x j ^^^ y j) ∧
    two (.vandn g d lt a b) 2 (fun j => x j &&& (2 ^ w - 1 - y j)) ∧
    one (.vclz g d lt a) (fun j => if x j = 0 then w else w - 1 - Nat.log2 (x j)) ∧
    one (.vpopc g d lt a) (fun j => ∑ i ∈ Finset.range w, ((x j).testBit i).toNat)) ∧
  (∀ (g : Guard) (d : VDst) (lt : LT) (u hi sat : Bool) (sh : Nat) (rnd : Rnd) (a b e : VOp) (s : State),
    let c := curCtx s
    let w := lt.width
    let n := 2048 / w
    let x := fun j => Spec.num w u (Spec.lane w (valV c a) j)
    let y := fun j => Spec.num w u (Spec.lane w (valV c b) j)
    let void := voidV c a || voidV c b
    let at_ := fun i => (if hi then n / 2 else 0) + i
    let clamped := fun (i : Instr) (void : Bool) (lat W N : Nat) (h : Nat → Int) =>
      if sat then Spec.lanes g i s void lat d W N (fun j => Spec.sat W u (h j)) (fun j => Spec.satFlag W u (h j))
      else Spec.lanes g i s void lat d W N h fun _ => 0
    (lt.isInt →
      Spec.lanes g (.vadds g d lt u a b) s void 2 d w n (fun j => Spec.sat w u (x j + y j)) (fun j => Spec.satFlag w u (x j + y j)) ∧
      Spec.lanes g (.vsubs g d lt u a b) s void 2 d w n (fun j => Spec.sat w u (x j - y j)) (fun j => Spec.satFlag w u (x j - y j))) ∧
    (lt.isInt3 →
      Spec.lanes g (.vwmul g d lt hi u a b) s void 3 d (2 * w) (n / 2) (fun i => x (at_ i) * y (at_ i)) (fun _ => 0) ∧
      clamped (.vwmac g d lt hi u sat a b e) (void || voidV c e) 3 (2 * w) (n / 2) (fun i =>
        Spec.num (2 * w) u (Spec.lane (2 * w) (valV c e) i) + x (at_ i) * y (at_ i)) ∧
      (sh < 2 * w → clamped (.vnarrow g d lt sh u rnd sat a b) void 2 w n (fun i =>
        let v := Spec.num (2 * w) u (if i < n / 2 then Spec.lane (2 * w) (valV c a) i else Spec.lane (2 * w) (valV c b) (i - n / 2))
        let q := Int.fdiv v (2 ^ sh)
        let r := v - q * 2 ^ sh
        if rnd = .tz then Int.tdiv v (2 ^ sh)
        else if 2 * r < 2 ^ sh ∨ (2 * r = 2 ^ sh ∧ q % 2 = 0) then q else q + 1))))

/-- R122, R125: shifts of lanes in both forms, compares to masks, and selection. -/
def Obligations.VectorShiftsAndSelects : Prop :=
  ∀ (g : Guard) (d : VDst) (lt : LT) (cc : CC) (a b e : VOp) (amt : VAmt) (s : State),
    let c := curCtx s
    let w := lt.width
    let n := 2048 / w
    let x := Spec.lane w (valV c a)
    let y := Spec.lane w (valV c b)
    let S := fun q => Spec.num w false q
    let k := fun j => match amt with | .reg o => Spec.lane w (valV c o) j | .imm m => m
    let void := voidV c a || match amt with | .reg o => voidV c o | .imm _ => false
    let sh := fun (i : Instr) (h : Nat → Int) => Spec.lanes g i s void 2 d w n h fun _ => 0
    let holds := fun j => match cc with
      | .eq => decide (x j = y j) | .ne => decide (x j ≠ y j)
      | .lt => decide (S (x j) < S (y j)) | .le => decide (S (x j) ≤ S (y j))
      | .gt => decide (S (y j) < S (x j)) | .ge => decide (S (y j) ≤ S (x j))
      | .ltz => decide (x j < y j) | .lez => decide (x j ≤ y j) | .gtz => decide (y j < x j) | .gez => decide (y j ≤ x j)
      | .uo => false
    (lt.isInt →
      sh (.vshl g d lt a amt) (fun j => if w ≤ k j then 0 else x j * 2 ^ k j) ∧
      sh (.vshr g d lt a amt) (fun j => if w ≤ k j then 0 else x j / 2 ^ k j) ∧
      sh (.vsar g d lt a amt) (fun j => Int.fdiv (S (x j)) (2 ^ min (k j) (w - 1)))) ∧
    (lt.isInt → cc.isInt →
      Spec.lanes g (.vcmp g d cc lt a b) s (voidV c a || voidV c b) 2 d w n (fun j => if holds j then 2 ^ w - 1 else 0) (fun _ => 0)) ∧
    (lt.isWidth →
      Spec.lanes g (.vsel g d lt a b e) s (voidV c a || voidV c b || voidV c e) 2 d w n
        (fun j => if Spec.lane w (valV c e) j = 0 then y j else x j) (fun _ => 0))

/-- The model's reading of R100 and R126 to R128 lane by lane: sums, products, the fused form, minima and maxima, sign changes and
compares, from the decoded operands with one rounding, and the flags of all lanes together. -/
def Obligations.VectorFloats : Prop :=
  ∀ (g : Guard) (d : VDst) (lt : LT) (rnd : Rnd) (cc : CC) (a b e : VOp) (s : State), lt.isFloat →
    let c := curCtx s
    let w := lt.width
    let n := 2048 / w
    let x := Spec.lane w (valV c a)
    let y := Spec.lane w (valV c b)
    let X := fun j => decodeF lt (x j)
    let Y := fun j => decodeF lt (y j)
    let Z := fun j => decodeF lt (Spec.lane w (valV c e) j)
    let one := fun (i : Instr) (h : Nat → Nat × Flags) => Spec.codes g i s (voidV c a) 4 d w n h
    let two := fun (i : Instr) (h : Nat → Nat × Flags) => Spec.codes g i s (voidV c a || voidV c b) 4 d w n h
    two (.vfadd g d lt rnd a b) (fun j => addF lt rnd (X j) (Y j)) ∧
    two (.vfsub g d lt rnd a b) (fun j => addF lt rnd (X j) (Y j).negate) ∧
    two (.vfmul g d lt rnd a b) (fun j => mulF lt rnd (X j) (Y j)) ∧
    Spec.codes g (.vfma g d lt rnd a b e) s (voidV c a || voidV c b || voidV c e) 4 d w n (fun j => fmaF lt rnd (X j) (Y j) (Z j)) ∧
    two (.vfmin g d lt a b) (fun j => minmaxF lt false (x j) (y j)) ∧
    two (.vfmax g d lt a b) (fun j => minmaxF lt true (x j) (y j)) ∧
    one (.vfabs g d lt a) (fun j => if isNan lt (x j) then nanF lt (isSig lt (x j)) else (x j % 2 ^ (w - 1), 0)) ∧
    one (.vfneg g d lt a) (fun j => if isNan lt (x j) then nanF lt (isSig lt (x j)) else ((x j + 2 ^ (w - 1)) % 2 ^ w, 0)) ∧
    (cc.isFloat → two (.vfcmp g d cc lt a b) (fun j =>
      let r := cmpF lt cc (x j) (y j)
      (if r.1 then 2 ^ w - 1 else 0, r.2)))

namespace Sys2Proof.Spec

/-- The number that a decoded value is, if it is one. -/
def rat : FVal → Option ℚ
  | .fin n m e => some ((if n then -1 else 1) * (m : ℚ) * (2 : ℚ) ^ e)
  | _ => none

/-- The sign of a decoded value. -/
def negative : FVal → Bool
  | .fin n _ _ | .inf n => n
  | .nan _ => false

/-- Fraction bits, bias, and the exponent of the largest finite value (R99, R104 to R106). -/
def fmt : LT → Nat × Int × Int
  | .bf16 => (7, 127, 127) | .f16 => (10, 15, 15) | .f32 => (23, 127, 127) | .f64 => (52, 1023, 1023)
  | .e4m3 => (3, 7, 8) | .e5m2 => (2, 15, 15) | .e2m1 => (1, 1, 2)
  | _ => (0, 0, 0)

/-- The largest finite value, and its code (R99). -/
def largest (lt : LT) : ℚ := if lt = .e4m3 then 448 else (2 - 2 ^ (-((fmt lt).1 : Int))) * 2 ^ (fmt lt).2.2
def largestCode (lt : LT) : Nat :=
  if lt = .e4m3 then 0x7E else if lt = .e2m1 then 7 else 2 ^ (lt.width - 1) - 2 ^ (fmt lt).1 - 1

/-- R101, R102: `r` is the nonzero number `x` rounded once into a format, with its flags. -/
def rounded (lt : LT) (rnd : Rnd) (sat : Bool) (x : ℚ) (r : Nat × Flags) : Prop :=
  let fb : Int := (fmt lt).1
  let bias := (fmt lt).2.1
  let ulp : ℚ := 2 ^ ((fmt lt).2.2 - fb)
  let beyond := match rnd with
    | .tz => largest lt + ulp ≤ |x|
    | .ne => if lt = .e4m3 then largest lt + ulp / 2 < |x| else largest lt + ulp / 2 ≤ |x|
  let tiny := |x| < 2 ^ (1 - bias) - (if rnd = .ne then 2 ^ (-1 - bias - fb) else 0)
  let sgn := fun (c : Nat) => if x < 0 then 2 ^ (lt.width - 1) + c else c
  (¬beyond → ∃ v, rat (decodeF lt r.1) = some v ∧ r.1 < 2 ^ lt.width ∧ 0 ≤ v * x ∧
    (lt ≠ .e2m1 → r.1.testBit (lt.width - 1) = decide (x < 0)) ∧
    (rnd = .ne →
      (∀ q v', rat (decodeF lt q) = some v' → |v - x| ≤ |v' - x|) ∧
      (∀ q v', rat (decodeF lt q) = some v' → |v - x| = |v' - x| → v' ≠ v → r.1 % 2 = 0)) ∧
    (rnd = .tz → |v| ≤ |x| ∧ ∀ q v', rat (decodeF lt q) = some v' → |v'| ≤ |x| → |v'| ≤ |v|) ∧
    r.2 = if v = x then 0 else if tiny then fINX ||| fUNF else fINX) ∧
  (beyond → r = if sat = true ∨ lt = .e2m1 then (sgn (largestCode lt), fSAT ||| fINX)
    else if rnd = .tz then (sgn (largestCode lt), fOVF ||| fINX)
    else if lt = .e4m3 then (0x7F, fOVF ||| fINX) else (sgn (largestCode lt + 1), fOVF ||| fINX))

/-- A zero of a sign in a format; E2M1 has no negative one (R102). -/
def zeroOf (lt : LT) (neg : Bool) : Nat × Flags := (if neg = true ∧ lt ≠ .e2m1 then 2 ^ (lt.width - 1) else 0, 0)

/-- `n` is the integer nearest to `x`, ties to even. -/
def nearest (x : ℚ) (n : Int) : Prop := |x - n| ≤ 1 / 2 ∧ (|x - n| = 1 / 2 → n % 2 = 0)

/-- Order by value, of values that are no NaN (R128). -/
def less : FVal → FVal → Prop
  | .inf true, .inf b => b = false
  | .inf true, .fin _ _ _ => True
  | .fin _ _ _, .inf b => b = false
  | x, y => ∃ a b, rat x = some a ∧ rat y = some b ∧ a < b

end Sys2Proof.Spec

/-- R101, R102 as the model rounds, in every format: a finite nonzero value becomes the nearest value of the format, ties to even, or the
nearest toward zero, of its sign, with `INX` and `UNF` exactly when they are due; beyond the largest finite value the table of R102
applies; and a zero keeps its sign. -/
def Obligations.RoundingIsCorrect : Prop :=
  ∀ (lt : LT) (rnd : Rnd) (sat neg : Bool) (m : Nat) (e : Int), lt.isFloat = true ∨ lt.isNarrow = true →
    (m ≠ 0 → Spec.rounded lt rnd sat ((if neg then -1 else 1) * (m : ℚ) * (2 : ℚ) ^ e) (roundF lt rnd sat neg m e)) ∧
    (m = 0 → roundF lt rnd sat neg m e = Spec.zeroOf lt neg)

/-- R99, R100, R104 to R106: what the codes of the formats stand for.
R101, R126: sums, products and fused products are their exact values rounded once, with the signs of zeros and the special cases.
R127, R128: minima, maxima and compares by value.
R102, R103: conversions between formats and to integers. R129: the reciprocal, as its exact value rounded once.
R109: the scale of a block, and its elements rounded under it. -/
def Obligations.FloatsAreExact : Prop :=
  (∀ (lt : LT) (q : Nat), lt.isFloat = true ∨ lt.isNarrow = true → q < 2 ^ lt.width →
    let fb := (Spec.fmt lt).1
    let bias := (Spec.fmt lt).2.1
    let E := q / 2 ^ fb % 2 ^ (lt.width - 1 - fb)
    let F := q % 2 ^ fb
    let S := q.testBit (lt.width - 1)
    let ieee := lt ≠ .e4m3 ∧ lt ≠ .e2m1
    let top := 2 ^ (lt.width - 1 - fb) - 1
    (ieee → E = top → decodeF lt q = if F = 0 then .inf S else .nan (decide (F < 2 ^ (fb - 1)))) ∧
    (lt = .e4m3 → q % 128 = 127 → decodeF lt q = .nan false) ∧
    ((ieee → E ≠ top) → (lt = .e4m3 → q % 128 ≠ 127) → Spec.rat (decodeF lt q) = some ((if S then -1 else 1) *
      (if E = 0 then (F : ℚ) * 2 ^ (1 - bias - fb) else (2 ^ fb + F : ℚ) * 2 ^ ((E : Int) - bias - fb)))) ∧
    (lt = .e2m1 → q = 8 → decodeF lt q = .fin false 0 0)) ∧
  (∀ (lt : LT) (rnd : Rnd) (x y z : FVal), lt.isFloat = true →
    let sig := fun (v : FVal) => decide (v = .nan true)
    let isNan := fun (v : FVal) => v = .nan true ∨ v = .nan false
    let nan := fun (bad : Bool) => ((codeNan lt, if bad then fINVALID else 0) : Nat × Flags)
    let inf := fun (s : Bool) => ((if s then 2 ^ (lt.width - 1) + codeInf lt else codeInf lt, 0) : Nat × Flags)
    let s := xor (Spec.negative x) (Spec.negative y)
    let infinite := fun (v : FVal) => v = .inf true ∨ v = .inf false
    let zero := fun (v : FVal) => Spec.rat v = some 0
    (∀ a b, Spec.rat x = some a → Spec.rat y = some b →
      (a + b ≠ 0 → Spec.rounded lt rnd false (a + b) (addF lt rnd x y)) ∧
      (a + b = 0 → addF lt rnd x y = Spec.zeroOf lt (Spec.negative x && Spec.negative y)) ∧
      (a * b ≠ 0 → Spec.rounded lt rnd false (a * b) (mulF lt rnd x y)) ∧
      (a * b = 0 → mulF lt rnd x y = Spec.zeroOf lt s) ∧
      (∀ c, Spec.rat z = some c →
        (a * b + c ≠ 0 → Spec.rounded lt rnd false (a * b + c) (fmaF lt rnd x y z)) ∧
        (a * b + c = 0 → fmaF lt rnd x y z = Spec.zeroOf lt (s && Spec.negative z))) ∧
      (∀ n, z = .inf n → fmaF lt rnd x y z = inf n) ∧ (∀ q, z = .nan q → fmaF lt rnd x y z = nan q)) ∧
    (isNan x ∨ isNan y → addF lt rnd x y = nan (sig x || sig y) ∧ mulF lt rnd x y = nan (sig x || sig y) ∧
      fmaF lt rnd x y z = nan (sig x || sig y || sig z)) ∧
    (∀ n, x = .inf n → (¬isNan y → y ≠ .inf (!n) → addF lt rnd x y = inf n) ∧ (y = .inf (!n) → addF lt rnd x y = nan true)) ∧
    (∀ n a, Spec.rat x = some a → y = .inf n → addF lt rnd x y = inf n) ∧
    ((zero x ∧ infinite y) ∨ (infinite x ∧ zero y) → mulF lt rnd x y = nan true ∧ fmaF lt rnd x y z = nan true) ∧
    ((infinite x ∧ ¬isNan y ∧ ¬zero y) ∨ (infinite y ∧ ¬isNan x ∧ ¬zero x) →
      mulF lt rnd x y = inf s ∧ (isNan z → fmaF lt rnd x y z = nan (sig z)) ∧ (z = .inf (!s) → fmaF lt rnd x y z = nan true) ∧
      (¬isNan z → z ≠ .inf (!s) → fmaF lt rnd x y z = inf s))) ∧
  (∀ (lt : LT) (x y : Nat) (cc : CC), lt.isFloat = true → x < 2 ^ lt.width → y < 2 ^ lt.width →
    let X := decodeF lt x
    let Y := decodeF lt y
    let nanX := X = .nan true ∨ X = .nan false
    let nanY := Y = .nan true ∨ Y = .nan false
    let loud := decide (X = .nan true ∨ Y = .nan true)
    let flag := fun (b : Bool) => if b then fINVALID else 0
    let below := Spec.less X Y ∨ (¬Spec.less Y X ∧ Spec.negative X = true ∧ Spec.negative Y = false)
    let above := Spec.less Y X ∨ (¬Spec.less X Y ∧ Spec.negative Y = true ∧ Spec.negative X = false)
    (nanX → nanY → ∀ b, minmaxF lt b x y = (codeNan lt, flag loud)) ∧
    (nanX → ¬nanY → ∀ b, minmaxF lt b x y = (y, flag loud)) ∧ (¬nanX → nanY → ∀ b, minmaxF lt b x y = (x, flag loud)) ∧
    (¬nanX → ¬nanY →
      (below → minmaxF lt true x y = (y, 0) ∧ minmaxF lt false x y = (x, 0)) ∧
      (above → minmaxF lt true x y = (x, 0) ∧ minmaxF lt false x y = (y, 0)) ∧
      (¬below → ¬above → x = y ∧ minmaxF lt true x y = (x, 0) ∧ minmaxF lt false x y = (x, 0)) ∧
      (cc.isFloat = true → (cmpF lt cc x y).2 = 0 ∧ ((cmpF lt cc x y).1 = true ↔ match cc with
        | .eq => ¬Spec.less X Y ∧ ¬Spec.less Y X
        | .ne => Spec.less X Y ∨ Spec.less Y X
        | .lt => Spec.less X Y
        | .le => ¬Spec.less Y X
        | .gt => Spec.less Y X
        | .ge => ¬Spec.less X Y
        | _ => False))) ∧
    (nanX ∨ nanY → cc.isFloat = true → cmpF lt cc x y = match cc with
      | .ne | .uo => (true, flag loud)
      | .eq => (false, flag loud)
      | _ => (false, fINVALID))) ∧
  (∀ (lt : LT) (rnd : Rnd) (sat : Bool) (x : FVal), lt.isFloat = true ∨ lt.isNarrow = true →
    let sgn := fun (n : Bool) (c : Nat) => if n then 2 ^ (lt.width - 1) + c else c
    (∀ a, Spec.rat x = some a →
      (a ≠ 0 → Spec.rounded lt rnd sat a (convertF lt rnd sat x)) ∧ (a = 0 → convertF lt rnd sat x = Spec.zeroOf lt (Spec.negative x))) ∧
    (∀ n, x = .inf n → convertF lt rnd sat x = if sat = true ∨ lt = .e2m1 then (sgn n (Spec.largestCode lt), fSAT)
      else if lt = .e4m3 then (0x7F, fOVF) else (sgn n (Spec.largestCode lt + 1), 0)) ∧
    (∀ q, x = .nan q → convertF lt rnd sat x =
      if lt = .e2m1 then (0, fINVALID) else (codeNan lt, if q = true then fINVALID else 0))) ∧
  (∀ (w : Nat) (u : Bool) (rnd : Rnd) (sat : Bool) (x : FVal), w ∈ [8, 16, 32, 64] →
    let code := fun (v : Int) => (v % 2 ^ w).toNat
    let low := Spec.lo w u
    let high := Spec.hi w u
    let out := fun (down : Bool) =>
      if sat = true then (code (if down then low else high), fSAT) else (code low, fINVALID)
    (∀ a, Spec.rat x = some a → ∃ n : Int, (rnd = .ne → Spec.nearest a n) ∧
      (rnd = .tz → |(n : ℚ)| ≤ |a| ∧ |a| < |(n : ℚ)| + 1 ∧ 0 ≤ n * a) ∧
      toIntF w u rnd sat x = if n < low then out true else if high < n then out false
        else (code n, if (n : ℚ) = a then 0 else fINX)) ∧
    (∀ n, x = .inf n → toIntF w u rnd sat x = out n) ∧
    (∀ q, x = .nan q → toIntF w u rnd sat x = (if sat = true then 0 else code low, fINVALID))) ∧
  (∀ (lt : LT) (rnd : Rnd) (q : Nat) (a : ℚ), lt.isFloat3 = true → Spec.rat (decodeF lt q) = some a → a ≠ 0 →
    Spec.rounded lt rnd false (1 / a) (transF .rcp lt rnd q)) ∧
  (∀ (dst src : LT) (xs : List Nat), dst.isNarrow = true → src.isFloat3 = true → (∀ x ∈ xs, x < 2 ^ src.width) →
    let r := quantBlock dst src xs
    let zeros := xs.map fun _ => 0
    let value := fun (x : Nat) => (Spec.rat (decodeF src x)).getD 0
    let emax : Int := (Spec.fmt dst).2.2
    ((∃ x ∈ xs, Spec.rat (decodeF src x) = none) → r = (0xFF, zeros, fINVALID)) ∧
    ((∀ x ∈ xs, Spec.rat (decodeF src x) = some 0) → r = (0, zeros, 0)) ∧
    ((∀ x ∈ xs, Spec.rat (decodeF src x) ≠ none) → ∀ a ∈ xs, value a ≠ 0 → (∀ x ∈ xs, |value x| ≤ |value a|) → ∃ c0 : Int,
      (2 : ℚ) ^ (c0 - 127 + emax) ≤ |value a| ∧ |value a| < 2 ^ (c0 - 127 + emax + 1) ∧
      (let c := max 0 (min c0 254)
       r.1 = c.toNat ∧ r.2.1.length = xs.length ∧
       ∃ fs : List Flags, fs.length = xs.length ∧
        r.2.2 = fs.foldl (· ||| ·) ((if c0 < 0 then fSCLO else 0) ||| if 254 < c0 then fOVF else 0) ∧
        ∀ (n : Nat) (x q : Nat) (f : Flags), xs[n]? = some x → r.2.1[n]? = some q → fs[n]? = some f →
          (value x ≠ 0 → Spec.rounded dst .ne true (value x / 2 ^ (c - 127)) (q, f)) ∧
          (value x = 0 → (q, f) = Spec.zeroOf dst (Spec.negative (decodeF src x))))))

/-- R129: the functions of one lane: their special inputs by the table, and any other input rounded as the model rounds it. What is beyond
a fixed bound rounds as any value beyond it does (log 27). -/
def Obligations.VectorFunctions : Prop :=
  ∀ (g : Guard) (d : VDst) (lt : LT) (rnd : Rnd) (a : VOp) (s : State), lt.isFloat3 →
    let c := curCtx s
    let w := lt.width
    let n := 2048 / w
    let x := Spec.lane w (valV c a)
    let inf := codeInf lt
    let minus := 2 ^ (w - 1)
    let one := expBias lt * 2 ^ fracBits lt
    let half := (expBias lt - 1) * 2 ^ fracBits lt
    let bad : Nat × Flags := (codeNan lt, fINVALID)
    let fn := fun (i : Instr) (zero mzero pinf minf : Nat × Flags) (negBad : Bool) (t : Trans) =>
      Spec.codes g i s (voidV c a) 10 d w n fun j =>
        if isNan lt (x j) then (codeNan lt, if isSig lt (x j) then fINVALID else 0)
        else if x j = 0 then zero else if x j = minus then mzero else if x j = inf then pinf else if x j = minus + inf then minf
        else if negBad ∧ minus ≤ x j then bad
        else transF t lt rnd (x j)
    fn (.vrcp g d lt rnd a) (inf, 0) (minus + inf, 0) (0, 0) (minus, 0) false .rcp ∧
    fn (.vrsqrt g d lt rnd a) (inf, 0) (minus + inf, 0) (0, 0) bad true .rsqrt ∧
    fn (.vexp2 g d lt rnd a) (one, 0) (one, 0) (inf, 0) (0, 0) false .exp2 ∧
    fn (.vlog2 g d lt rnd a) (minus + inf, 0) (minus + inf, 0) (inf, 0) bad true .log2 ∧
    fn (.vsigm g d lt rnd a) (half, 0) (half, 0) (one, 0) (0, 0) false .sigm ∧
    fn (.vtanh g d lt rnd a) (0, 0) (minus, 0) (one, 0) (minus + one, 0) false .tanh

/-- R130: `vfcvt` for every accepted pair: which source lane each result lane converts, by the conversions of R102 and R103, and zero in
the lanes beyond; in the model's terms. -/
def Obligations.VectorConversions : Prop :=
  ∀ (g : Guard) (d : VDst) (dst src : LT) (u : Bool) (p : Nat) (rnd : Rnd) (sat : Bool) (a : VOp) (s : State),
    (Instr.vfcvt g d dst src u p rnd sat a).wf →
    let c := curCtx s
    let N := 2048 / max src.width dst.width
    let x := fun j => Spec.lane src.width (valV c a) (p * N + j)
    let value := fun j => if src.isInt then
        let v := Spec.num src.width u (x j)
        FVal.fin (decide (v < 0)) v.natAbs 0
      else decodeF src (x j)
    Spec.codes g (.vfcvt g d dst src u p rnd sat a) s (voidV c a) 4 d dst.width N fun j =>
      if dst.isInt then toIntF dst.width u rnd sat (value j) else convertF dst rnd sat (value j)

/-- R131 to R134: the block instructions: the largest magnitude of each block, the quantised elements with their scale, and their
expansion. That a quiet NaN expands without `INVALID` is what R134 says in words, against its pseudocode (log 55). -/
def Obligations.VectorBlocks : Prop :=
  ∀ (g : Guard) (d : VDst) (lt src : LT) (rnd : Rnd) (sat : Bool) (a : VOp) (s : State),
    let c := curCtx s
    let v := valV c a
    let slot := if s.sched.slot = 2 then 2 else 1
    (lt.isFloat3 →
      let w := lt.width
      let mag := fun b j => Spec.lane w v (32 * b + j) % 2 ^ (w - 1)
      ∃ q : Nat → Nat × Flags, Spec.codes g (.vamax g d lt a) s (voidV c a) 4 d 32 (2048 / w / 32) q ∧
        ∀ b < 2048 / w / 32,
          ((∃ j < 32, isSig lt (mag b j)) → q b = (codeNan .f32, fINVALID)) ∧
          ((∃ j < 32, isNan lt (mag b j)) → (∀ j < 32, ¬ isSig lt (mag b j)) → q b = (codeNan .f32, 0)) ∧
          ((∀ j < 32, ¬ isNan lt (mag b j)) → ∃ j < 32, (∀ i < 32, mag b i ≤ mag b j) ∧
            q b = convertF .f32 .ne false (decodeF lt (mag b j)))) ∧
    (lt.isNarrow → src.isFloat3 →
      let B := 2048 / src.width / 32
      let block := fun b => (List.range 32).map fun j => Spec.lane src.width v (32 * b + j)
      let q := fun b => quantBlock lt src (block b)
      Spec.resultV g (.vqmx g d lt src a) s (voidV c a) slot 4 d
        (BitVec.ofNat 2048 ((∑ b ∈ Finset.range B, ∑ j ∈ Finset.range 32,
            (q b).2.1.getD j 0 % 2 ^ lt.width * 2 ^ (lt.width * (32 * b + j))) +
          ∑ b ∈ Finset.range B, (q b).1 % 2 ^ 8 * 2 ^ (8 * (128 + b))))
        (Spec.flagsOf B fun b => (q b).2.2)) ∧
    (lt.isFloat3 → src.isNarrow →
      Spec.codes g (.vdqmx g d lt src rnd sat a) s (voidV c a) 4 d lt.width (2048 / lt.width) fun i =>
        let scale := Spec.lane 8 v (128 + i / 32)
        let alt := Spec.num 8 false (Spec.lane 8 v (132 + i / 32))
        let code := Spec.lane src.width v i
        let value := if src = .e2m1 ∧ code = 8 then FVal.fin (decide (alt < 0)) alt.natAbs (-1) else decodeF src code
        if scale = 0xFF then (codeNan lt, fINVALID)
        else match value with
          | .nan sig => (codeNan lt, if sig then fINVALID else 0)
          | .inf neg => infF lt sat neg
          | .fin neg m e => roundF lt rnd sat neg m (e + scale - 127))

/-- R135 to R139: lane movement. T is the lanes of A and then those of B. -/
def Obligations.LaneMovement : Prop :=
  ∀ (g : Guard) (d : VDst) (lt : LT) (z hi : Bool) (n : Nat) (a b e : VOp) (x : SOp) (imm : BitVec 32) (ix : LaneIx) (s : State),
    let c := curCtx s
    let w := lt.width
    let N := 2048 / w
    let A := Spec.lane w (valV c a)
    let B := Spec.lane w (valV c b)
    let T := fun k => if k < N then A k else B (k - N)
    let H := fun i => (if hi then N / 2 else 0) + i
    let k := match ix with | .imm m => m | .reg o => (valS c o).toNat % N
    let voidK := match ix with | .imm _ => false | .reg o => voidS c o
    let moves := fun (i : Instr) (void : Bool) (lat : Nat) (h : Nat → Int) => Spec.lanes g i s void lat d w N h fun _ => 0
    let void2 := voidV c a || voidV c b
    (lt.isInt →
      moves (.vperm g d lt z a b e) (void2 || voidV c e) 3 (fun i =>
        let k := Spec.lane w (valV c e) i
        if k < 2 * N then T k else if z then 0 else T (k % (2 * N))) ∧
      (n < N → moves (.vslide g d lt n a b) void2 3 fun i => T (i + n)) ∧
      moves (.vzip g d lt hi a b) void2 3 (fun i => if i % 2 = 0 then A (H (i / 2)) else B (H (i / 2))) ∧
      moves (.vunzip g d lt hi a b) void2 3 (fun i => T (2 * i + hi.toNat))) ∧
    (lt.isWidth → moves (.vbcastScalar g d lt x) (voidS c x) 2 fun _ => (valS c x).toNat) ∧
    (lt.isWidth → (∀ m, ix = .imm m → m < N) →
      moves (.vins g d lt a x ix) (voidV c a || voidS c x || voidK) 2 (fun i => if i = k then (valS c x).toNat else A i) ∧
      moves (.vext g d lt a ix) (voidV c a || voidK) 2 (fun i => if i = 0 then A k else 0)) ∧
    ((Instr.vbcastImm g d lt imm).wf →
      (lt ≠ .f64 → moves (.vbcastImm g d lt imm) false 2 fun _ => imm.toInt) ∧
      (lt = .f64 → Spec.codes g (.vbcastImm g d lt imm) s false 2 d w N fun _ => convertF .f64 .ne false (decodeF .f32 imm.toNat)))

namespace Sys2Proof.Spec

/-- R141: lane `i` of `t` after `l` levels, each of which combines the lower half of what is left with the upper half. -/
def halved (op : Nat → Nat → Nat × Flags) (n : Nat) (t : Nat → Nat) : Nat → Nat → Nat
  | 0, i => t i
  | l + 1, i => (op (halved op n t l i) (halved op n t l (i + n / 2 ^ (l + 1)))).1

/-- The flags of every combination of the tree. -/
def halvedFlags (op : Nat → Nat → Nat × Flags) (n : Nat) (t : Nat → Nat) : Flags :=
  (List.range (Nat.log2 n)).foldr (fun l m => flagsOf (n / 2 ^ (l + 1)) (fun i =>
    (op (halved op n t l i) (halved op n t l (i + n / 2 ^ (l + 1)))).2) ||| m) 0

/-- R142: lane `i` of `t` after `l` levels of the prefix, level `l` combining with the lane 2^l below. -/
def scanned (op : Nat → Nat → Nat × Flags) (t : Nat → Nat) : Nat → Nat → Nat
  | 0, i => t i
  | l + 1, i => if i < 2 ^ l then scanned op t l i else (op (scanned op t l (i - 2 ^ l)) (scanned op t l i)).1

/-- The flags of every combination of the prefix. -/
def scannedFlags (op : Nat → Nat → Nat × Flags) (n : Nat) (t : Nat → Nat) : Flags :=
  (List.range (Nat.log2 n)).foldr (fun l m => flagsOf n (fun i =>
    if i < 2 ^ l then 0 else (op (scanned op t l (i - 2 ^ l)) (scanned op t l i)).2) ||| m) 0

end Sys2Proof.Spec

/-- R140 to R142: reductions and scans: over integer lanes the fold of the operation; over lanes of floats the tree of R141 and the levels
of R142, in which every combination rounds once, in that order. -/
def Obligations.ReductionsAndScans : Prop :=
  ∀ (g : Guard) (d : VDst) (op : RedOp) (lt : LT) (rnd : Rnd) (a : VOp) (b : Option VOp) (s : State),
    let c := curCtx s
    let w := lt.width
    let N := 2048 / w
    let A := Spec.lane w (valV c a)
    let slot := if s.sched.slot = 2 then 2 else 1
    let S := fun q => Spec.num w false q
    let F := fun (x y : Nat) => match op with
      | .add => (x + y) % 2 ^ w
      | .min => if S x ≤ S y then x else y | .max => if S y ≤ S x then x else y
      | .minz => min x y | .maxz => max x y | .and => x &&& y | .or => x ||| y | .xor => x ^^^ y
    let prefix_ := fun i => (List.range i).foldl (fun m j => F m (A (j + 1))) (A 0)
    let voidB := match b with | some o => voidV c o | none => false
    (lt.isInt →
      Spec.lanes g (.vred g d op lt .ne a) s (voidV c a) 6 d w 1 (fun _ => prefix_ (N - 1)) (fun _ => 0) ∧
      Spec.lanes g (.vscan g d op lt .ne a b) s (voidV c a || voidB) 6 d w N (fun i =>
        match b with | some o => F (Spec.lane w (valV c o) 0) (prefix_ i) | none => prefix_ i) (fun _ => 0)) ∧
    (lt.isFloat → op.accepts lt → op.rndOk lt rnd →
      let P := fun (x y : Nat) => match op with
        | .add => addF lt rnd (decodeF lt x) (decodeF lt y)
        | _ => minmaxF lt (op == .max) x y
      let t := Spec.scanned P A (Nat.log2 N)
      Spec.resultV g (.vred g d op lt rnd a) s (voidV c a) slot 6 d (Spec.vec w 1 fun _ => Spec.halved P N A (Nat.log2 N) 0)
        (Spec.halvedFlags P N A) ∧
      (match b with
        | none => Spec.resultV g (.vscan g d op lt rnd a none) s (voidV c a) slot 6 d (Spec.vec w N fun i => t i)
            (Spec.scannedFlags P N A)
        | some o =>
          let q := Spec.lane w (valV c o) 0
          Spec.resultV g (.vscan g d op lt rnd a (some o)) s (voidV c a || voidV c o) slot 6 d (Spec.vec w N fun i => (P q (t i)).1)
            (Spec.scannedFlags P N A ||| Spec.flagsOf N fun i => (P q (t i)).2)))

/-- R143 to R145: vector accesses of the scratchpad outside handlers: the bytes they read and write, lane by lane, and the trap of an
access that leaves it. -/
def Obligations.VectorMemory : Prop :=
  ∀ (g : Guard) (d : VDst) (lt : LT) (a z : SOp) (disp : BitVec 20) (b : VOp) (s : State),
    (cur s).svc = none → lt.isWidth →
    let c := curCtx s
    let k := cur s
    let w := lt.width
    let n := w / 8
    let ea := (valS c a + disp.signExtend 64).toNat
    let slot := if s.sched.slot = 2 then 2 else 1
    let at_ := fun j => (ea + Spec.lane w (valV c b) j * (valS c z).toNat) % 2 ^ 64
    let to_ := fun j => (ea + j * (valS c z).toNat) % 2 ^ 64
    let fits := fun p m => p + m ≤ 0x40000
    let traps := fun (i : Instr) p =>
      exec i s = .next (takeStop s.sched.cur { cause := .xlate, smask := 2 ^ slot, engine := 3, reason := 4, va := some p } s)
    let stores := fun (i : Instr) (void : Bool) (byte : Nat → Byte) => ∃ (m : Core) (fl : Flags),
      Spec.readFlags c (voidP c g.p || void) fl ∧ exec i s = .next (setCur s { m with ctx := { c with flags := fl } }) ∧
      m = { k with spad := m.spad, badWords := m.badWords } ∧ ∀ p, mRead m.spad p = byte p
    (guardOn c g = false →
      Spec.resultV g (.vld g d a disp) s (voidS c a) slot 5 d 0 0 ∧
      Spec.resultV g (.vldg g d lt a disp b z) s (voidS c a || voidV c b || voidS c z) slot 5 d 0 0 ∧
      Spec.onlyReads (.vst g b a disp) s (voidP c g.p) ∧ Spec.onlyReads (.vsts g lt b a disp z) s (voidP c g.p)) ∧
    (guardOn c g = true →
      (fits ea 256 → spadBad k ea 256 = false → Spec.resultV g (.vld g d a disp) s (voidS c a) slot 5 d
        (BitVec.ofNat 2048 (∑ p ∈ Finset.range 256, (mRead k.spad (ea + p)).toNat * 256 ^ p)) 0) ∧
      (¬ fits ea 256 → traps (.vld g d a disp) ea) ∧
      (fits ea 256 → stores (.vst g b a disp) (voidS c a || voidV c b) fun p =>
        if ea ≤ p ∧ p < ea + 256 then (valV c b).extractLsb' (8 * (p - ea)) 8 else mRead k.spad p) ∧
      (¬ fits ea 256 → traps (.vst g b a disp) ea) ∧
      ((∀ j < 2048 / w, fits (at_ j) n ∧ spadBad k (at_ j) n = false) →
        Spec.resultV g (.vldg g d lt a disp b z) s (voidS c a || voidV c b || voidS c z) slot 5 d
          (Spec.vec w (2048 / w) fun j => ∑ p ∈ Finset.range n, (mRead k.spad (at_ j + p)).toNat * 256 ^ p) 0) ∧
      (∀ j < 2048 / w, ¬ fits (at_ j) n → (∀ i < j, fits (at_ i) n) → traps (.vldg g d lt a disp b z) (at_ j)) ∧
      ((∀ j < 2048 / w, fits (to_ j) n) → ∃ byte : Nat → Byte,
        stores (.vsts g lt b a disp z) (voidS c a || voidV c b || voidS c z) byte ∧
        (∀ p, (∀ j < 2048 / w, ¬ (to_ j ≤ p ∧ p < to_ j + n)) → byte p = mRead k.spad p) ∧
        (∀ p, ∀ j < 2048 / w, to_ j ≤ p → p < to_ j + n → (∀ i < 2048 / w, j < i → ¬ (to_ i ≤ p ∧ p < to_ i + n)) →
          byte p = BitVec.ofNat 8 (Spec.lane w (valV c b) j / 256 ^ (p - to_ j)))) ∧
      (∀ j < 2048 / w, ¬ fits (to_ j) n → (∀ i < j, fits (to_ i) n) → traps (.vsts g lt b a disp z) (to_ j)))

/-! ## Latches and crossings as a core sees them -/

/-- R260, R262, R263: what `xin` and `xstat` land, and the trap `XPORT` of a latch that is not bound or a crossing that is not the
core's to read.
R252 to R254, R261, R263: `xout` writes the history, the weights or the configuration of the crossing of the core's own cluster, and
takes it over; a crossing that another core owns is not written. A configuration takes effect at the end of its cycle, that is of the
region's. That a configured crossing stays readable by `xstat` after its owner has exited is the model's reading (log 32). -/
def Obligations.CrossingAccess : Prop :=
  (∀ (g : Guard) (d : VDst) (n : Fin 4) (x : BitVec 8) (s : State),
    let c := curCtx s
    let core := s.sched.cur
    let cl := core / 16
    let l := getLatch s cl n.val
    let stops := fun (i : Instr) => guardOn c g = true →
      exec i s = .next (takeStop core { cause := .xport, smask := 2 } s)
    let words := fun (i : Instr) (h : Nat → Int) (f : Flags) => Spec.resultV g i s false 1 1 d (Spec.vec 32 64 h) f
    (guardOn c g = false → words (.xinL g d n) (fun _ => 0) 0 ∧ words (.xinX g d x) (fun _ => 0) 0 ∧
      words (.xstatL g d n) (fun _ => 0) 0 ∧ words (.xstatX g d x) (fun _ => 0) 0) ∧
    (latchBound s cl n.val = false → stops (.xinL g d n) ∧ stops (.xstatL g d n)) ∧
    (latchBound s cl n.val = true →
      words (.xinL g d n) (fun j => if j = 0 then l.value.toNat else 0) 0 ∧
      words (.xstatL g d n) (fun j =>
        if j = 0 then 1 + 2 * l.stale.toNat else if j = 1 then l.miss else if j = 2 then l.lost else if j = 3 then l.snp else 0) 0) ∧
    (imageCore s (cur s) x.toNat = none → stops (.xinX g d x) ∧ stops (.xstatX g d x)) ∧
    (∀ up, imageCore s (cur s) x.toNat = some up →
      let z := getXing s (up / 16)
      (z.run = false ∨ regionOf s core ≠ z.down → stops (.xinX g d x)) ∧
      (z.run = true → regionOf s core = z.down → z.xfmt.length = 8 → z.out.length = 8 →
        words (.xinX g d x) (fun j => if j < 8 then
          (if z.xfmt.getD j 0 = 0 then ((z.out.getD j 0).setWidth 16).toInt else (z.out.getD j 0).toNat) else 0) z.marks) ∧
      (z.owner ≠ some core → (z.xfmt = [] ∨ regionOf s core ≠ z.down) → stops (.xstatX g d x)) ∧
      (z.owner = some core ∨ (z.xfmt ≠ [] ∧ regionOf s core = z.down) →
        words (.xstatX g d x) (fun j =>
          if j = 0 then z.run.toNat + 2 * z.upstop.toNat + 4 * z.pherr.toNat + 2 ^ 8 * z.stale.toNat
          else if j = 1 then z.held else if j = 2 then z.p % 2 ^ 32 else if j = 3 then z.p / 2 ^ 32
          else if j = 4 then z.xadj else if j = 5 then z.slast else 0) 0))) ∧
  (∀ (g : Guard) (a : VOp) (m : BitVec 8) (s : State),
    let c := curCtx s
    let core := s.sched.cur
    let cl := core / 16
    let x := getXing s cl
    let v := valV c a
    let stops := fun (i : Instr) => exec i s = .next (takeStop core { cause := .xport, smask := 2 } s)
    let writes := fun (i : Instr) (y : Crossing) => ∃ fl, Spec.readFlags c (voidP c g.p || voidV c a) fl ∧
      exec i s = .next (setCtx (setXing s cl y) { c with flags := fl })
    let mine := x.owner = none ∨ x.owner = some core
    let bid := if (cur s).svc.isSome then 0 else match (cur s).blk with | some b => b.bid | none => 0
    let own := fun (y : Crossing) => if x.owner = none then { y with owner := some core, ownerBid := bid } else y
    (guardOn c g = false → Spec.onlyReads (.xoutD g a m) s (voidP c g.p) ∧ Spec.onlyReads (.xoutW g a) s (voidP c g.p) ∧
      Spec.onlyReads (.xoutCfg g a) s (voidP c g.p)) ∧
    (guardOn c g = true → (x.run = false ∨ ¬ mine) → stops (.xoutD g a m)) ∧
    (guardOn c g = true → ¬ mine → stops (.xoutW g a) ∧ stops (.xoutCfg g a)) ∧
    (guardOn c g = true → x.run = true → mine → ∃ h, writes (.xoutD g a m) (own { x with hist := h }) ∧
      (∀ l < 8, smGetD h (65536 * l + x.slotS % 65536) 0 =
        if m.getLsbD l then
          (if x.xfmt.getD l 0 = 0 then (v.extractLsb' (32 * l) 16).setWidth 32 else v.extractLsb' (32 * l) 32)
        else smGetD x.hist (65536 * l + x.slotS % 65536) 0) ∧
      ∀ k, (∀ l < 8, m.getLsbD l = true → k ≠ 65536 * l + x.slotS % 65536) → smGetD h k 0 = smGetD x.hist k 0) ∧
    (guardOn c g = true → mine → ∃ w, writes (.xoutW g a) (own { x with xw := w }) ∧
      (∀ i < 128, smGetD w i 0 = v.extractLsb' (16 * i) 16) ∧ ∀ k, 128 ≤ k → smGetD w k 0 = smGetD x.xw k 0) ∧
    (let start := v.getLsbD 238
     let stop := v.getLsbD 239
     guardOn c g = true → mine →
      (start = stop ∨ cfgReserved v.toNat = false → stops (.xoutCfg g a)) ∧
      (start = false → stop = true → cfgReserved v.toNat = true → ∃ f, writes (.xoutCfg g a) (own { x with cfg := some f }) ∧
        applyCfg (own { x with cfg := some f }) = { own x with run := false, owner := none, cfg := none }) ∧
      (start = true → stop = false → cfgReserved v.toNat = true →
        (imageCore s (cur s) (v.extractLsb' 240 8).toNat = none → stops (.xoutCfg g a)) ∧
        ∀ dn, imageCore s (cur s) (v.extractLsb' 240 8).toNat = some dn →
          let r := getRegion s (regionOf s dn)
          (x.run = true ∨ cfgRanges v.toNat (r.m / r.d) = false → stops (.xoutCfg g a)) ∧
          (x.run = false → cfgRanges v.toNat (r.m / r.d) = true → ∃ f, writes (.xoutCfg g a) (own { x with cfg := some f }) ∧
            let y := applyCfg (own { x with cfg := some f })
            y.cfg = none ∧ y.owner = some core ∧ y.run = true ∧ y.down = regionOf s dn ∧ y.xstep = (v.extractLsb' 0 48).toNat ∧
            y.xadjmax = (v.extractLsb' 64 32).toNat ∧ y.xksh = (v.extractLsb' 96 6).toNat ∧
            y.xlag = (v.extractLsb' 128 48).toNat ∧ (∀ l < 8, y.xfmt.getD l 0 = (v.extractLsb' (192 + 2 * l) 2).toNat) ∧
            y.xntap = (v.extractLsb' 208 4).toNat ∧ y.xstoppol = (v.extractLsb' 212 2).toNat ∧
            y.xdoff = (v.extractLsb' 214 24).toNat ∧ y.hist = [] ∧ y.out = List.replicate 8 0 ∧ y.held = 0 ∧ y.pherr = false ∧
            y.marks = 0 ∧ y.fresh = true ∧ y.xw = x.xw)))) ∧
  (∀ (r : Nat) (s : State), ∃ t, runTask (.done r) s = .next t ∧
    t.xings = s.xings.map fun x => if x.1 ∈ regionClusters s r then (x.1, applyCfg x.2) else x)

/-! ## The matrix engine and the affine instructions -/

namespace Sys2Proof.Spec

/-- An instruction of the M slot leaves the core in issue as `k` but for its flags: what reading does to them, and `f`. Under a guard
of 0 it does nothing (R32). -/
def engine (g : Guard) (i : Instr) (s : State) (void : Bool) (k : Core) (f : Flags) : Prop :=
  if guardOn (curCtx s) g then ∃ fl, readFlags (curCtx s) (voidP (curCtx s) g.p || void) fl ∧
    exec i s = .next (setCur s { k with ctx := { k.ctx with flags := fl ||| f } })
  else onlyReads i s (voidP (curCtx s) g.p)

/-- An instruction of the M slot takes a stop. -/
def engineStop (g : Guard) (i : Instr) (s : State) (cause : Cause) : Prop :=
  guardOn (curCtx s) g = true → exec i s = .next (takeStop s.sched.cur { cause := cause, smask := 8 } s)

/-- The core with the writes of this cycle taken as far as `d` (R151). -/
def wrote (k : Core) (d : MxData) : Core := { k with mx := { k.mx with next := some d } }

/-- The data that the writes of this cycle have made so far. -/
def made (k : Core) : MxData := k.mx.next.getD k.mx.now

/-- One of `n` bytes of a memory of the core, from byte `lo`, lies in a word that cannot be corrected (R307). -/
def rotten (k : Core) (m : Sram) (lo n : Nat) : Prop := ∃ w, (m, w) ∈ k.badWords ∧ 8 * w < lo + n ∧ lo < 8 * w + 8

/-- The core after a write of these bytes: a word that they cover is good again (R307). -/
def covers (m : Sram) (lo n : Nat) (k : Core) : Core :=
  { k with badWords := k.badWords.filter fun w => decide (¬(w.1 = m ∧ lo ≤ 8 * w.2 ∧ 8 * w.2 + 8 ≤ lo + n)) }

/-- A reader of such a word through the M slot takes `DATAERR` before its bundle (R227, R307). -/
def engineBad (g : Guard) (i : Instr) (s : State) : Prop :=
  guardOn (curCtx s) g = true →
    exec i s = .next (takeStop s.sched.cur { cause := .dataerr, smask := 8, engine := 0, reason := 13 } s)

/-- Such a word lies in a row, in the exponents or in the carry of a tile, or anywhere in it: the tiles stand as in the context area
(R176). -/
def rottenRow (k : Core) (acc row : Nat) : Prop := rotten k .tile (49152 * acc + 768 * row) 768
def rottenEx (k : Core) (acc : Nat) : Prop := rotten k .tile (199680 + 256 * acc) 256
def rottenCy (k : Core) (acc : Nat) : Prop := rotten k .tile (196608 + 768 * acc) 768
def rottenTile (k : Core) (acc : Nat) : Prop := (∃ row < 64, rottenRow k acc row) ∨ rottenEx k acc ∨ rottenCy k acc

end Sys2Proof.Spec

namespace Sys2Proof.Spec

/-- The table of R152: rows that a product instruction covers, rows of a beat, and beats of a row. -/
def rate : ProdKind → Nat × Nat × Nat
  | .mma ef _ _ nrow => (nrow + 1, 1, if ef = .f64 then 4 else 1)
  | .mmab ef _ _ => (64, if ef = .e2m1 then 8 else 4, 1)
  | .mmas ef (.tile _ _ nrow) _ => (nrow + 1, if ef = .i8 then 2 else 1, 1)
  | .mmas ef (.plane _ _) _ => (64, if ef = .e2m1 then 16 else 8, 1)

/-- The beats of a product, the first beat of relative row `r`, and the cycle in which the row lands when the product starts in `start`. -/
def beats (k : ProdKind) : Nat := ((rate k).1 + (rate k).2.1 - 1) / (rate k).2.1 * (rate k).2.2
def firstBeat (k : ProdKind) (r : Nat) : Nat := r / (rate k).2.1 * (rate k).2.2
def landsIn (k : ProdKind) (start r : Nat) : Nat := start + 3 + firstBeat k r + ((rate k).2.2 - 1)

/-- The tile with its first row, or the plane, that a product writes; the plane that a fold instruction reads, its tile, and the cycles in
which it lands (R153). -/
def tileOf : ProdKind → Option (Fin 4 × Nat)
  | .mma _ acc row0 _ | .mmas _ (.tile acc row0 _) _ => some (acc, row0)
  | _ => none
def planeOf : ProdKind → Option (Fin 2)
  | .mmab _ pp _ | .mmas _ (.plane pp _) _ => some pp
  | _ => none
def foldPlane : FoldKind → Option (Fin 2)
  | .scacc _ _ pp _ _ _ => some pp
  | .acnorm _ => none
def foldTile : FoldKind → Fin 4
  | .scacc _ acc _ _ _ _ => acc
  | .acnorm acc => acc
def foldLands (k : FoldKind) (start : Nat) : List Nat :=
  match k with
  | .scacc _ _ _ _ _ _ => [start + 2, start + 3, start + 4, start + 5]
  | .acnorm _ => [start + 1]

/-- A cycle lies in no scan window on a tile: the cycles from the one after the issue to the landing (R180). -/
def outsideScans (m : Mx) (acc : Fin 4) (t : Nat) : Prop := ∀ x ∈ m.scans, x.acc = acc → ¬(x.issue + 1 ≤ t ∧ t ≤ x.start + 7)

/-- R198: a pending landing whose promise is earlier than the region tick of cycle `t`. -/
def landed (s : State) (promise : Option Nat) (t : Nat) : Prop :=
  promise.isSome = true ∧ promise.getD 0 < coreTick s s.sched.cur + (t - (curCtx s).bc)

/-- R156, R181, R198: nothing refuses a product issued now that starts in cycle `start`: no earlier one has still to start; it lands on no
row of a plane before an earlier `scacc` reads it, and on no tile inside a scan window; and what is pending on the rows that it reads has
landed by then, by its promise. -/
def productClear (s : State) (k : ProdKind) (oa ob : Fin 24) (start : Nat) : Prop :=
  (∀ p ∈ (cur s).mx.prods, p.start ≤ (curCtx s).bc) ∧
  (∀ f ∈ (cur s).mx.folds, foldPlane f.kind ≠ none → foldPlane f.kind = planeOf k →
    ∀ r < 64, f.start + r / 16 ≤ landsIn k start r) ∧
  (∀ x ∈ (tileOf k).toList, ∀ r < (rate k).1, outsideScans (cur s).mx x.1 (landsIn k start r)) ∧
  (∀ w ∈ pendingRows s s.sched.cur oa, ∀ r < (rate k).1, ((tileOf k).map (·.2)).getD 0 + r ∈ w.2 →
    landed s w.1 (start + firstBeat k r)) ∧
  ∀ o ∈ prodBs k ob, ∀ w ∈ pendingRows s s.sched.cur o, ∀ r < 64, r ∈ w.2 → landed s w.1 start

/-- R156, R181: nothing refuses a fold instruction: no earlier one has still to start; every row of the plane that it reads has landed; and
it lands on no tile inside a scan window. -/
def foldClear (s : State) (k : FoldKind) (start : Nat) : Prop :=
  (∀ f ∈ (cur s).mx.folds, f.start ≤ (curCtx s).bc) ∧
  (∀ p ∈ (cur s).mx.prods, foldPlane k ≠ none → planeOf p.kind = foldPlane k → ∀ r < 64, landsIn p.kind p.start r < start + r / 16) ∧
  ∀ t ∈ foldLands k start, outsideScans (cur s).mx (foldTile k) t

/-- R181: nothing refuses a scan: no earlier one has still to start, and no product or fold instruction lands on its tile from its start
on. -/
def scanClear (s : State) (acc : Fin 4) (start : Nat) : Prop :=
  (∀ x ∈ (cur s).mx.scans, x.start ≤ (curCtx s).bc) ∧
  (∀ p ∈ (cur s).mx.prods, (tileOf p.kind).map (·.1) = some acc → ∀ r < (rate p.kind).1, landsIn p.kind p.start r < start) ∧
  ∀ f ∈ (cur s).mx.folds, foldTile f.kind = acc → ∀ t ∈ foldLands f.kind f.start, t < start

end Sys2Proof.Spec

/-- R148, R149: claiming, releasing, writing and reading operand slots; the misuse of each traps `OSLOT`. A read of a word that cannot be
corrected, of a slot or of the metadata, traps `DATAERR`, and a write that covers one makes it good (R307).
R148, R152, R156, R157, R158, R160, R181, R198: a product instruction is queued to start in the next cycle, or when the one before it
ends; slots that are not claimed and a tile of the wrong mode trap `OSLOT`, and a schedule that conflicts traps `TIMING`: the windows of
R156 and R181, and a landing pending on a row that it reads, whose promise is not earlier than the read (R198).
R153, R156, R159, R167, R180, R181, R187, R188: the fold unit's and the scan unit's instructions are queued in order, or trap.
That an `orls` in the very cycle of a product's last read releases the slot is the model's choice (log 58). -/
def Obligations.MatrixIssue : Prop :=
  (∀ (core : Nat) (o : Fin 24) (promise : Option Nat) (rows : List Nat) (s : State),
    let line := fun (b : Nat) => if b < 8192 then b / 128 else (b - 8192) / 16
    (promise, rows) ∈ pendingRows s core o → ∃ n r, (n, r) ∈ s.reqs ∧ r.core = core ∧ r.complete = false ∧ r.promise = promise ∧
      ∀ row, row ∈ rows ↔ ∃ q ∈ r.pieces, q.stage < 2 ∧ ∃ off, q.dst = .slot core o.val off ∧
        line off ≤ row ∧ row ≤ max (line off) (line (off + q.len - 1))) ∧
  (∀ (g : Guard) (d : VDst) (o : Fin 24) (part : OSel) (row : Nat) (a : VOp) (s : State),
    let k := cur s
    let c := curCtx s
    let held := k.mx.claimed.getLsbD o.val
    let v := valV c a
    let limit := match k.blk with | some b => (getInst s b.inst).oslots | none => 24
    let at_ := fun (p : OSel) => match p with
      | .side => (9216 * o.val + 8192 + 16 * row, 256)
      | _ => (9216 * o.val + 128 * row, 128)
    let was := Spec.made k
    let others := fun (D : MxData) => (∀ p r, p ≠ o.val → r < 64 → dataRow D p r = dataRow was p r ∧ sideRow D p r = sideRow was p r) ∧
      D.tiles = was.tiles ∧ D.planes = was.planes
    (guardOn c g = false → (∀ i ∈ [Instr.oclm g o, .orls g o, .owr g part o row a], Spec.onlyReads i s (voidP c g.p)) ∧
      Spec.resultV g (.ordv g d part o row) s false 3 6 d 0 0) ∧
    (held = true ∨ limit ≤ o.val → Spec.engineStop g (.oclm g o) s .oslot) ∧
    (held = false → o.val < limit → ∃ (D : MxData) (cl : BitVec 24),
      Spec.engine g (.oclm g o) s false
        (Spec.covers .slot (9216 * o.val) 9216 { Spec.wrote k D with mx := { (Spec.wrote k D).mx with claimed := cl } }) 0 ∧
      (∀ j < 24, cl.getLsbD j = (k.mx.claimed.getLsbD j || decide (j = o.val))) ∧
      (∀ r < 64, dataRow D o.val r = 0 ∧ sideRow D o.val r = 0) ∧ others D) ∧
    (held = false ∨ limit ≤ o.val ∨ stillReads k.mx c.bc o = true ∨ pendingRows s s.sched.cur o ≠ [] →
      Spec.engineStop g (.orls g o) s .oslot) ∧
    (held = true → o.val < limit → stillReads k.mx c.bc o = false → pendingRows s s.sched.cur o = [] → ∃ cl : BitVec 24,
      Spec.engine g (.orls g o) s false { k with mx := { k.mx with claimed := cl } } 0 ∧
      ∀ j < 24, cl.getLsbD j = (k.mx.claimed.getLsbD j && decide (j ≠ o.val))) ∧
    (held = false → Spec.engineStop g (.owr g part o row a) s .oslot ∧ Spec.engineStop g (.ordv g d part o row) s .oslot) ∧
    (held = true → (Instr.owr g part o row a).wf → ∃ D : MxData, Spec.engine g (.owr g part o row a) s (voidV c a)
        (Spec.covers .slot (at_ part).1 (at_ part).2 (Spec.wrote k D)) 0 ∧
      others D ∧
      (∀ r < 64, dataRow D o.val r = if r = row ∧ part = .lo then v.extractLsb' 0 1024
        else if r = row ∧ part = .hi then v.extractLsb' 1024 1024 else dataRow was o.val r) ∧
      ∀ r < 64, sideRow D o.val r = if part = .side ∧ row ≤ r ∧ r < row + 16 then v.extractLsb' (128 * (r - row)) 128
        else sideRow was o.val r) ∧
    (held = true → Spec.rotten k .slot (at_ part).1 (at_ part).2 → Spec.engineBad g (.ordv g d part o row) s) ∧
    (held = true → (Instr.ordv g d part o row).wf → ¬Spec.rotten k .slot (at_ part).1 (at_ part).2 →
      Spec.resultV g (.ordv g d part o row) s false 3 6 d
      (match part with
        | .lo => (dataRow k.mx.now o.val row).setWidth 2048
        | .hi => BitVec.ofNat 2048 ((dataRow k.mx.now o.val row).toNat * 2 ^ 1024)
        | .side => Spec.vec 128 16 fun i => (sideRow k.mx.now o.val (row + i)).toNat) 0)) ∧
  (∀ (g : Guard) (ef : EF) (acc : Fin 4) (pp : Fin 2) (oa ob : Fin 24) (row0 nrow kb : Nat) (dst : MmasDst) (s : State),
    let k := cur s
    let c := curCtx s
    let held := fun (o : Fin 24) => k.mx.claimed.getLsbD o.val = true
    let start := max (c.bc + 1) ((k.mx.prods.getLast?.map fun p => p.start + Spec.beats p.kind).getD 0)
    let queued := fun (k : Core) (kind : ProdKind) =>
      { k with mx := { k.mx with prods := k.mx.prods ++ [{ kind := kind, oa := oa, ob := ob, start := start }] } }
    let clear := fun (kind : ProdKind) => Spec.productClear s kind oa ob start
    let f64 := (k.mx.now.tiles.getD acc.val {}).f64
    let mma := Instr.mma g ef acc oa ob row0 nrow
    let mmab := Instr.mmab g ef pp oa ob kb
    (¬ held oa ∨ ¬ held ob → Spec.engineStop g mma s .oslot ∧ Spec.engineStop g mmab s .oslot) ∧
    (f64 ≠ (ef == .f64) → Spec.engineStop g mma s .oslot) ∧
    (held oa → held ob → f64 = (ef == .f64) → ¬ clear (.mma ef acc row0 nrow) → Spec.engineStop g mma s .timing) ∧
    (held oa → held ob → f64 = (ef == .f64) → clear (.mma ef acc row0 nrow) →
      Spec.engine g mma s false (queued k (.mma ef acc row0 nrow)) 0) ∧
    (held oa → held ob → ¬ clear (.mmab ef pp kb) → Spec.engineStop g mmab s .timing) ∧
    (held oa → held ob → clear (.mmab ef pp kb) → Spec.engine g mmab s false (queued k (.mmab ef pp kb)) 0) ∧
    (guardOn c g = false → Spec.onlyReads (.mmas g ef dst oa ob) s (voidP c g.p)) ∧
    (guardOn c g = true → ∀ bs, smGet k.metas c.mpc.toNat = some (.bytes bs) → Spec.rotten k .metas (1024 * c.mpc.toNat) 1024 →
      exec (.mmas g ef dst oa ob) s =
        .next (takeStop s.sched.cur { cause := .dataerr, engine := 5, reason := 13 } s)) ∧
    (guardOn c g = true → ∀ bs, smGet k.metas c.mpc.toNat = some (.bytes bs) → ¬Spec.rotten k .metas (1024 * c.mpc.toNat) 1024 →
      let kind := ProdKind.mmas ef dst (BitVec.ofNat 8192 (leNat bs))
      let slots := held oa ∧ ∀ o ∈ prodBs kind ob, held o
      let mode := match dst with | .tile acc _ _ => (k.mx.now.tiles.getD acc.val {}).f64 = false | .plane _ _ => True
      (¬ slots ∨ ¬ mode → Spec.engineStop g (.mmas g ef dst oa ob) s .oslot) ∧
      (slots → mode → ¬ clear kind → Spec.engineStop g (.mmas g ef dst oa ob) s .timing) ∧
      (slots → mode → clear kind → Spec.engine g (.mmas g ef dst oa ob) s false
        (queued { k with ctx := { c with mpc := c.mpc + 1 } } kind) 0)) ∧
    (guardOn c g = true → ∀ cause reason, smGet k.metas c.mpc.toNat = some (.bad cause reason) → reason ≠ 13 →
      exec (.mmas g ef dst oa ob) s = .next (takeStop s.sched.cur
        { cause := cause, engine := 5, reason := reason, va := some (metaVa s k c.mpc.toNat) } s))) ∧
  (∀ (g : Guard) (ef : EF) (acc : Fin 4) (pp : Fin 2) (oa ob : Fin 24) (kb n : Nat) (s : State),
    let k := cur s
    let c := curCtx s
    let held := fun (o : Fin 24) => k.mx.claimed.getLsbD o.val = true
    let f64 := (k.mx.now.tiles.getD acc.val {}).f64
    let foldStart := max (c.bc + 1) ((k.mx.folds.getLast?.map fun f =>
      f.start + match f.kind with | .scacc _ _ _ _ _ _ => 4 | .acnorm _ => 1).getD 0)
    let scanStart := max (c.bc + 1) ((k.mx.scans.getLast?.map fun x => x.start + 8).getD 0)
    let folds := fun (kind : FoldKind) => { k with mx := { k.mx with folds := k.mx.folds ++ [{ kind := kind, start := foldStart }] } }
    let scans := fun (comp : Bool) => { k with mx := { k.mx with scans := k.mx.scans ++
      [{ comp := comp, acc := acc, n := n, issue := c.bc, start := scanStart }] } }
    let scacc := Instr.scacc g ef acc pp oa ob kb
    (¬ held oa ∨ ¬ held ob ∨ f64 = true → Spec.engineStop g scacc s .oslot) ∧
    (held oa → held ob → f64 = false → ¬Spec.foldClear s (.scacc ef acc pp oa ob kb) foldStart →
      Spec.engineStop g scacc s .timing) ∧
    (held oa → held ob → f64 = false → Spec.foldClear s (.scacc ef acc pp oa ob kb) foldStart →
      Spec.engine g scacc s false (folds (.scacc ef acc pp oa ob kb)) 0) ∧
    (f64 = true → Spec.engineStop g (.acnorm g acc) s .oslot ∧ Spec.engineStop g (.afscan g acc n) s .oslot ∧
      Spec.engineStop g (.afcomp g acc n) s .oslot) ∧
    (f64 = false → ¬Spec.foldClear s (.acnorm acc) foldStart → Spec.engineStop g (.acnorm g acc) s .timing) ∧
    (f64 = false → Spec.foldClear s (.acnorm acc) foldStart →
      Spec.engine g (.acnorm g acc) s false (folds (.acnorm acc)) 0) ∧
    (f64 = false → ¬Spec.scanClear s acc scanStart →
      Spec.engineStop g (.afscan g acc n) s .timing ∧ Spec.engineStop g (.afcomp g acc n) s .timing) ∧
    (f64 = false → Spec.scanClear s acc scanStart →
      Spec.engine g (.afscan g acc n) s false (scans false) 0 ∧ Spec.engine g (.afcomp g acc n) s false (scans true) 0))

/-- R163 to R166: clearing, reading and writing tiles through the access port, and the exponents; `MPC` (R162). Rows of tiles hold 64
entries: the gain mantissa above the offset mantissa, 48 bits each. An access that reads or merges with a word that cannot be corrected
traps `DATAERR`: only the column grids use the exponents, and an `F64` entry is written whole (R112, R307). That a write of `F64` rows stores the canonical NaN for any NaN is the model's reading (log 26). -/
def Obligations.TileAccess : Prop :=
  ∀ (g : Guard) (d : VDst) (acc : Fin 4) (row : Fin 64) (part : AcSel) (f64 : Bool) (a : VOp) (b : SOp) (s : State),
    let k := cur s
    let c := curCtx s
    let t := k.mx.now.tiles.getD acc.val {}
    let was := Spec.made k
    let u := was.tiles.getD acc.val {}
    let v := valV c a
    let R := fun j => (tileRow t row.val).getD j 0
    let B := fun (x : BitVec 96) => (x.setWidth 48).toInt
    let G := fun (x : BitVec 96) => (x.extractLsb' 48 48).toInt
    let EB := fun (x : BitVec 32) => (x.setWidth 16).toInt
    let EG := fun (x : BitVec 32) => (x.extractLsb' 16 16).toInt
    let put := fun (T : Tile) => Spec.wrote k { was with tiles := was.tiles.set acc.val { T with used := true } }
    let f32 := fun (m e : Int) => roundF .f32 .ne false (decide (m < 0)) m.natAbs e
    let mode := t.f64 = (part == .f64lo || part == .f64hi)
    let clash := landsOnTile k.mx acc c.bc || inWindow k.mx acc c.bc
    let isF64 := part = .f64lo ∨ part = .f64hi
    let bad := Spec.rottenRow k acc.val row.val ∨ ((part = .f32 ∨ part = .gf32) ∧ Spec.rottenEx k acc.val)
    let badW := ¬isF64 ∧ bad
    let keeps := fun (m : Core) =>
      if isF64 then Spec.covers .tile (49152 * acc.val + 768 * row.val + if part = .f64hi then 384 else 0) 384 m else m
    (clash = true → Spec.engineStop g (.mzero g f64 acc) s .timing) ∧
    (clash = false → Spec.engine g (.mzero g f64 acc) s false
      (Spec.covers .tile (49152 * acc.val) 49152 (Spec.covers .tile (196608 + 768 * acc.val) 768
        (Spec.covers .tile (199680 + 256 * acc.val) 256 (put { f64 := f64 })))) 0) ∧
    (¬ mode → Spec.engineStop g (.acrd g d part acc row) s .oslot ∧ Spec.engineStop g (.acwr g part acc row a) s .oslot) ∧
    (mode → inWindow k.mx acc c.bc = true → Spec.engineStop g (.acwr g part acc row a) s .timing) ∧
    (guardOn c g = false → Spec.resultV g (.acrd g d part acc row) s false 3 6 d 0 0 ∧
      Spec.resultV g (.acexpRd g d acc) s false 3 6 d 0 0 ∧ Spec.onlyReads (.acwr g part acc row a) s (voidP c g.p)) ∧
    (mode → bad → Spec.engineBad g (.acrd g d part acc row) s) ∧
    (mode → inWindow k.mx acc c.bc = false → badW → Spec.engineBad g (.acwr g part acc row a) s) ∧
    (Spec.rottenEx k acc.val → Spec.engineBad g (.acexpRd g d acc) s) ∧
    (mode → ¬bad → (tileRow t row.val).length = 64 → t.ex.length = 64 →
      let lands := fun (w n : Nat) (h : Nat → Int) (f : Flags) => Spec.resultV g (.acrd g d part acc row) s false 3 6 d (Spec.vec w n h) f
      let floats := fun (q : Nat → Nat × Flags) => lands 32 64 (fun j => (q j).1) (Spec.flagsOf 64 fun j => (q j).2)
      match part with
      | .bm0 => lands 64 32 (fun j => B (R j)) 0
      | .bm1 => lands 64 32 (fun j => B (R (32 + j))) 0
      | .gm0 => lands 64 32 (fun j => G (R j)) 0
      | .gm1 => lands 64 32 (fun j => G (R (32 + j))) 0
      | .f32 => floats fun j => f32 (B (R j)) (EB (t.ex.getD j 0))
      | .gf32 => floats fun j => f32 (G (R j)) (EG (t.ex.getD j 0))
      | .f64lo => lands 64 32 (fun j => (R j).toNat) 0
      | .f64hi => lands 64 32 (fun j => (R (32 + j)).toNat) 0) ∧
    (mode → inWindow k.mx acc c.bc = false → ¬badW → (tileRow u row.val).length = 64 →
      let S := fun j => (v.extractLsb' (64 * (j % 32)) 64).toInt
      let half := fun (j : Nat) => match part with | .bm0 | .gm0 | .f64lo => decide (j < 32) | _ => decide (32 ≤ j)
      let clamp := fun (x : Int) => max (-(2 ^ 47 - 1)) (min x (2 ^ 47 - 1))
      ∃ (T : Tile) (f : Flags), Spec.engine g (.acwr g part acc row a) s (voidV c a) (keeps (put T)) f ∧
        (part = .bm0 ∨ part = .bm1 ∨ part = .gm0 ∨ part = .gm1 →
          (∀ i < 64, i ≠ row.val → tileRow T i = tileRow u i) ∧ T.ex = u.ex ∧ T.cy = u.cy ∧
          (f = if (List.range 64).any (fun j => half j && clamp (S j) != S j) then fSAT else 0) ∧
          ∀ j : Nat, j < 64 →
            let x := (tileRow T row.val).getD j 0
            let y := (tileRow u row.val).getD j 0
            B x = (if half j ∧ (part = .bm0 ∨ part = .bm1) then clamp (S j) else B y) ∧
            G x = (if half j ∧ (part = .gm0 ∨ part = .gm1) then clamp (S j) else G y)) ∧
        (part = .f64lo ∨ part = .f64hi → (∀ i < 64, i ≠ row.val → tileRow T i = tileRow u i) ∧ T.ex = u.ex ∧ T.cy = u.cy ∧
          ∀ j : Nat, j < 64 →
            let q := Spec.lane 64 v (j % 32)
            (tileRow T row.val).getD j 0 = if half j then BitVec.ofNat 96 (if isNan .f64 q then codeNan .f64 else q)
              else (tileRow u row.val).getD j 0) ∧
        (part = .f32 ∨ part = .gf32 →
          let news := fun i j => if i = row.val then some ((dyOf (decodeF .f32 (Spec.lane 32 v j))).getD (0, 0)) else none
          T = (tileWrite (part == .gf32) news u).1 ∧
          f = (tileWrite (part == .gf32) news u).2 ||| (if (List.range 64).any fun j => dyOf (decodeF .f32 (Spec.lane 32 v j)) == none then fINVALID else 0))) ∧
    (¬Spec.rottenEx k acc.val →
      Spec.resultV g (.acexpRd g d acc) s false 3 6 d (BitVec.ofNat 2048 (ofLanes 32 (t.ex.map (·.toNat)))) 0) ∧
    (inWindow k.mx acc c.bc = true → Spec.engineStop g (.acexpWr g acc a) s .timing) ∧
    (inWindow k.mx acc c.bc = false → Spec.engine g (.acexpWr g acc a) s (voidV c a)
      (Spec.covers .tile (199680 + 256 * acc.val) 256 (put { u with ex := (List.range 64).map fun j => v.extractLsb' (32 * j) 32 })) 0) ∧
    Spec.engine g (.mdpc g b) s (voidS c b) { k with ctx := { c with mpc := (valS c b).setWidth 32 }, metas := [] } 0

/-- R189, R190: gains and offsets scaled, mixed, set and added, column by column under the rounding of R113 and R114; the carry read and
written. A gain that is not finite counts as zero and raises `INVALID`. An access of a tile, or of a carry, with a word that cannot be
corrected traps `DATAERR` (R307). -/
def Obligations.AffineAccess : Prop :=
  ∀ (g : Guard) (d : VDst) (acc : Fin 4) (row : Option (Fin 64)) (part : CySel) (a : VOp) (s : State),
    let k := cur s
    let c := curCtx s
    let t := k.mx.now.tiles.getD acc.val {}
    let was := Spec.made k
    let u := was.tiles.getD acc.val {}
    let v := valV c a
    let B := fun (x : BitVec 96) => (x.setWidth 48).toInt
    let G := fun (x : BitVec 96) => (x.extractLsb' 48 48).toInt
    let EB := fun j => ((u.ex.getD j 0).setWidth 16).toInt
    let EG := fun j => ((u.ex.getD j 0).extractLsb' 16 16).toInt
    let put := fun (T : Tile) => Spec.wrote k { was with tiles := was.tiles.set acc.val { T with used := true } }
    let lam := fun j => dyOf (decodeF .f32 (Spec.lane 32 v j))
    let lost : Flags := if (List.range 64).any fun j => lam j == none then fINVALID else 0
    let on := fun i => i < 64 ∧ ∀ r, row = some r → i = r.val
    let x := fun i j => (tileRow u i).getD j 0
    let Gv := fun i j => (G (x i j), EG j)
    let Bv := fun i j => (B (x i j), EB j)
    let writes := fun (i : Instr) (gains offsets : Nat → Nat → Option Dy) =>
      let p := tileWrite true (fun i j => if on i then gains i j else none) u
      let q := tileWrite false (fun i j => if on i then offsets i j else none) p.1
      Spec.engine g i s (voidV c a) (put q.1) (p.2 ||| q.2 ||| lost)
    let carry := fun (i : Instr) (gains offsets : Nat → Option Dy) =>
      let p := tileWrite true (fun i j => if i = 64 then gains j else none) u
      let q := tileWrite false (fun i j => if i = 64 then offsets j else none) p.1
      Spec.engine g i s (voidV c a) (put q.1) (p.2 ||| q.2 ||| lost)
    let zero : Dy := (0, 0)
    (t.f64 = true →
      Spec.engineStop g (.afgainSet g acc row a) s .oslot ∧ Spec.engineStop g (.afgainMul g acc row a) s .oslot ∧
      Spec.engineStop g (.afgainMix g acc row a) s .oslot ∧ Spec.engineStop g (.afgainAdd g acc row a) s .oslot ∧
      Spec.engineStop g (.afcarryRd g d part acc) s .oslot ∧ Spec.engineStop g (.afcarryWr g part acc a) s .oslot ∧
      Spec.engineStop g (.afcarryWrH g acc a) s .oslot) ∧
    (t.f64 = false → inWindow k.mx acc c.bc = true →
      Spec.engineStop g (.afgainSet g acc row a) s .timing ∧ Spec.engineStop g (.afgainMul g acc row a) s .timing ∧
      Spec.engineStop g (.afgainMix g acc row a) s .timing ∧ Spec.engineStop g (.afgainAdd g acc row a) s .timing ∧
      Spec.engineStop g (.afcarryWr g part acc a) s .timing ∧
      Spec.engineStop g (.afcarryWrH g acc a) s .timing) ∧
    (guardOn c g = false →
      (∀ i ∈ [Instr.afgainSet g acc row a, .afgainMul g acc row a, .afgainMix g acc row a, .afgainAdd g acc row a,
        .afcarryWr g part acc a, .afcarryWrH g acc a], Spec.onlyReads i s (voidP c g.p)) ∧
      Spec.resultV g (.afcarryRd g d part acc) s false 3 6 d 0 0) ∧
    (t.f64 = false → inWindow k.mx acc c.bc = false → Spec.rottenTile k acc.val →
      ∀ i ∈ [Instr.afgainSet g acc row a, .afgainMul g acc row a, .afgainMix g acc row a, .afgainAdd g acc row a,
        .afcarryWr g part acc a, .afcarryWrH g acc a], Spec.engineBad g i s) ∧
    (t.f64 = false → Spec.rottenCy k acc.val ∨ Spec.rottenEx k acc.val → Spec.engineBad g (.afcarryRd g d part acc) s) ∧
    (t.f64 = false → inWindow k.mx acc c.bc = false → ¬Spec.rottenTile k acc.val →
      writes (.afgainSet g acc row a) (fun _ j => some ((lam j).getD zero)) (fun _ _ => none) ∧
      writes (.afgainMul g acc row a) (fun i j => some ((lam j).elim zero fun l => dyMul l (Gv i j)))
        (fun i j => some ((lam j).elim zero fun l => dyMul l (Bv i j))) ∧
      writes (.afgainMix g acc row a) (fun _ j => some ((lam j).getD zero))
        (fun i j => some ((lam j).elim zero fun l => dyMul (dyAdd (1, 0) (-l.1, l.2)) (Bv i j))) ∧
      writes (.afgainAdd g acc row a) (fun _ _ => none) (fun i j => some ((lam j).elim zero fun l => dyAdd (Bv i j) l)) ∧
      carry (.afcarryWrH g acc a) (fun _ => some (1, 0)) (fun j => some ((lam j).getD zero)) ∧
      (part = .f32 → ∃ f, Spec.engine g (.afcarryWr g part acc a) s (voidV c a)
        (put (tileWrite false (fun i j => if i = 64 then some ((lam j).getD zero) else none) u).1) f) ∧
      (part = .gf32 → ∃ f, Spec.engine g (.afcarryWr g part acc a) s (voidV c a)
        (put (tileWrite true (fun i j => if i = 64 then some ((lam j).getD zero) else none) u).1) f) ∧
      (part ≠ .f32 → part ≠ .gf32 → u.cy.length = 64 → ∃ (cy : List (BitVec 96)) (f : Flags),
        Spec.engine g (.afcarryWr g part acc a) s (voidV c a) (put { u with cy := cy }) f ∧
        ∀ j < 64, let half := if part = .bm0 ∨ part = .gm0 then j < 32 else 32 ≤ j
          let S := (v.extractLsb' (64 * (j % 32)) 64).toInt
          let new := max (-(2 ^ 47 - 1)) (min S (2 ^ 47 - 1))
          B (cy.getD j 0) = (if half ∧ (part = .bm0 ∨ part = .bm1) then new else B (u.cy.getD j 0)) ∧
          G (cy.getD j 0) = (if half ∧ (part = .gm0 ∨ part = .gm1) then new else G (u.cy.getD j 0)))) ∧
    (t.f64 = false → ¬Spec.rottenCy k acc.val → ¬Spec.rottenEx k acc.val → t.cy.length = 64 → t.ex.length = 64 →
      let lands := fun (w n : Nat) (h : Nat → Int) (f : Flags) =>
        Spec.resultV g (.afcarryRd g d part acc) s false 3 6 d (Spec.vec w n h) f
      let floats := fun (q : Nat → Nat × Flags) => lands 32 64 (fun j => (q j).1) (Spec.flagsOf 64 fun j => (q j).2)
      let f32 := fun (m e : Int) => roundF .f32 .ne false (decide (m < 0)) m.natAbs e
      let y := fun j => t.cy.getD j 0
      match part with
      | .bm0 => lands 64 32 (fun j => B (y j)) 0
      | .bm1 => lands 64 32 (fun j => B (y (32 + j))) 0
      | .gm0 => lands 64 32 (fun j => G (y j)) 0
      | .gm1 => lands 64 32 (fun j => G (y (32 + j))) 0
      | .f32 => floats fun j => f32 (B (y j)) (((t.ex.getD j 0).setWidth 16).toInt)
      | .gf32 => floats fun j => f32 (G (y j)) (((t.ex.getD j 0).extractLsb' 16 16).toInt))

/-- R151, R152, R153, R180: what the units of the matrix engine read in a cycle: a product its rows of B at its start and the rows of A
at their first beats, a fold its side rows and the rows of the plane, a scan its rows, its carry and its exponents; nothing but the
units' own records changes. A unit that reads a word that cannot be corrected leaves the engine, and the core faults at its next bundle
(R227, R307); that its fault stands after those of the copy engine is the model's reading (log 56). -/
def Obligations.MatrixReads : Prop :=
  ∀ (core : Nat) (s : State),
    let k := getCore s core
    let d := k.mx.now
    let t := k.ctx.bc
    let badProd := fun (p : Sys2Proof.Machine.Prod) =>
      (p.start = t ∧ ∃ o ∈ prodBs p.kind p.ob, Spec.rotten k .slot (9216 * o.val) 9216) ∨
      ∃ r < prodRows p.kind, p.start + prodFirst p.kind r = t ∧
        let row := r + match prodTile p.kind with | some x => x.2 | none => 0
        (Spec.rotten k .slot (9216 * p.oa.val + 128 * row) 128 ∨ Spec.rotten k .slot (9216 * p.oa.val + 8192 + 16 * row) 16)
    let badSide := fun (f : Fold) => ∃ ef acc pp oa ob kb, f.kind = .scacc ef acc pp oa ob kb ∧
      ((f.start = t ∧ Spec.rotten k .slot (9216 * ob.val + 8192) 1024) ∨
        ∃ i < 64, f.start + i / 16 = t ∧ Spec.rotten k .slot (9216 * oa.val + 8192 + 16 * i) 16)
    let badPlane := fun (f : Fold) => ∃ ef acc pp oa ob kb, f.kind = .scacc ef acc pp oa ob kb ∧
      ∃ i < 64, f.start + i / 16 = t ∧ Spec.rotten k .plane (16384 * pp.val + 256 * i) 256
    let badScan := fun (x : Scan) => x.start = t ∧
      ((∃ r < x.n, Spec.rottenRow k x.acc.val r) ∨ Spec.rottenCy k x.acc.val ∨ Spec.rottenEx k x.acc.val)
    let fails := fun (i : Instr) (m : Mx) (own : Bool) => exec i s = .next (setCore s core { k with
      mx := m, faults := k.faults ++ [⟨3, s.nextReq, { cause := .dataerr, reason := 13 }, own⟩] })
    (∀ p, k.mx.prods = [p] → badProd p → fails (.productStart core) { k.mx with prods := [] } true) ∧
    (∀ f, k.mx.folds = [f] → (badSide f → fails (.foldStart core) { k.mx with folds := [] } true) ∧
      (¬badSide f → badPlane f → fails (.foldStart core) { k.mx with folds := [] } false)) ∧
    (∀ x, k.mx.scans = [x] → badScan x → fails (.scanStart core) { k.mx with scans := [] } true) ∧
    ((∀ p ∈ k.mx.prods, ¬badProd p) → ∃ ps : List Sys2Proof.Machine.Prod, exec (.productStart core) s = .next (setCore s core { k with mx := { k.mx with prods := ps } }) ∧
      ps.length = k.mx.prods.length ∧ ∀ (n : Nat) (p q : Sys2Proof.Machine.Prod), k.mx.prods[n]? = some p → ps[n]? = some q →
        q.kind = p.kind ∧ q.oa = p.oa ∧ q.ob = p.ob ∧ q.start = p.start ∧ q.next = p.next ∧
        (p.start = t → (∀ i < 64, q.bRows.getD i 0 = dataRow d p.ob.val i ∧ q.bSide.getD i 0 = sideRow d p.ob.val i)) ∧
        (p.start ≠ t → q.bRows = p.bRows ∧ q.bSide = p.bSide) ∧
        (∀ r < prodRows p.kind,
          let row := r + match prodTile p.kind with | some x => x.2 | none => 0
          smGet q.aRows r = if p.start + prodFirst p.kind r = t then some (dataRow d p.oa.val row, sideRow d p.oa.val row)
            else smGet p.aRows r)) ∧
    ((∀ f ∈ k.mx.folds, ¬badSide f ∧ ¬badPlane f) → ∃ fs : List Fold, exec (.foldStart core) s = .next (setCore s core { k with mx := { k.mx with folds := fs } }) ∧
      fs.length = k.mx.folds.length ∧ ∀ (n : Nat) (f q : Fold), k.mx.folds[n]? = some f → fs[n]? = some q →
        q.kind = f.kind ∧ q.start = f.start ∧ q.next = f.next ∧
        (∀ ef acc pp oa ob kb, f.kind = .scacc ef acc pp oa ob kb →
          (f.start = t → ∀ i < 64, q.bSide.getD i 0 = sideRow d ob.val i) ∧
          ∀ i < 64, smGet q.rows i = if f.start + i / 16 = t then some (planeRow d pp.val i, sideRow d oa.val i)
            else smGet f.rows i)) ∧
    ((∀ x ∈ k.mx.scans, ¬badScan x) → ∃ xs : List Scan, exec (.scanStart core) s = .next (setCore s core { k with mx := { k.mx with scans := xs } }) ∧
      xs.length = k.mx.scans.length ∧ ∀ (n : Nat) (x q : Scan), k.mx.scans[n]? = some x → xs[n]? = some q →
        q = { x with input := if x.start = t then
          (let a := d.tiles.getD x.acc.val {}
           some ((List.range x.n).map (tileRow a), a.cy, a.ex)) else x.input })

namespace Sys2Proof.Spec

/-- The number m · 2^e. -/
def dy (v : Dy) : ℚ := (v.1 : ℚ) * (2 : ℚ) ^ v.2

/-- An entry of a tile; row 64 is the carry (R179). -/
def ent (t : Tile) (i j : Nat) : BitVec 96 := if i = 64 then t.cy.getD j 0 else (tileRow t i).getD j 0

/-- A tile whose lists have the lengths of R111. -/
def tileWf (t : Tile) : Prop := t.ex.length = 64 ∧ t.cy.length = 64 ∧ ∀ i < 64, (tileRow t i).length = 64

/-- The format of the elements of a slot (R146). -/
def lanesIn : EF → LT
  | .i8 => .i8 | .e4m3 => .e4m3 | .e5m2 => .e5m2 | .e2m1 => .e2m1 | .bf16 => .bf16 | .f16 => .f16 | .f64 => .f64

/-- Element `k` of a data row under an alternate byte (R104 to R106, R157, R158): no number where it is a NaN or an infinity. -/
def elem (ef : EF) (alt : Nat) (row : BitVec 1024) (k : Nat) : Option ℚ :=
  let q := bits row.toNat ((lanesIn ef).width * k) (lanesIn ef).width
  if ef = .i8 then some (num 8 false q : ℚ)
  else if ef = .e2m1 ∧ q = 8 then some ((num 8 false alt : ℚ) / 2)
  else rat (decodeF (lanesIn ef) q)

/-- The terms of one row of a product along K: the element of A and the position of its partner in B (R157, R158, R160, R161); and
whether a group of the metadata is out of order. -/
def terms (kind : ProdKind) (i : Nat) : List (Nat × Nat) × Prop :=
  let group := fun (record : BitVec 8192) (g n : Nat) => bits record.toNat (128 * i + 4 * g + 2 * n) 2
  let kept := fun (record : BitVec 8192) (groups a b : Nat) => (List.range groups).flatMap fun g =>
    if group record g 1 ≤ group record g 0 then []
    else [(a + 2 * g, b + 4 * g + group record g 0), (a + 2 * g + 1, b + 4 * g + group record g 1)]
  match kind with
  | .mma ef _ _ _ => ((List.range (1024 / (lanesIn ef).width)).map fun k => (k, k), False)
  | .mmab _ _ kb => ((List.range 32).map fun k => (32 * kb + k, 32 * kb + k), False)
  | .mmas _ (.tile _ _ _) record => (kept record 32 0 0, ∃ g < 32, group record g 1 ≤ group record g 0)
  | .mmas _ (.plane _ kb) record => (kept record 8 (16 * kb) (32 * kb), ∃ g < 8, group record g 1 ≤ group record g 0)

/-- A product whose fields an encoding can hold (R157, R158, R160). -/
def kindWf : ProdKind → Prop
  | .mma ef _ _ _ => ef.isMma = true
  | .mmab ef _ kb | .mmas ef (.plane _ kb) _ => ef.isBlock = true ∧ kb < ef.kblocks
  | .mmas ef (.tile _ _ _) _ => ef = .i8 ∨ ef = .bf16 ∨ ef = .f16

/-- The exact sum of row `i` of A with column `j` of B, and whether a term is no number. -/
def dots (p : Prod) (i j : Nat) (a : BitVec 1024 × BitVec 128) : ℚ × Prop :=
  let ef := match p.kind with | .mma ef _ _ _ | .mmab ef _ _ | .mmas ef _ _ => ef
  let block := match p.kind with | .mmab _ _ kb | .mmas _ (.plane _ kb) _ => some kb | _ => none
  let alt := fun (side : BitVec 128) => match block with | some kb => bits side.toNat (8 * (8 + kb)) 8 | none => 0
  let per := 1024 / (lanesIn ef).width
  let x := fun (k : Nat) => elem ef (alt a.2) a.1 k
  let y := fun (k : Nat) => elem ef (alt (p.bSide.getD j 0)) (p.bRows.getD (64 * (k / per) + j) 0) (k % per)
  let ts := (terms p.kind i).1
  ((ts.map fun t => (x t.1).getD 0 * (y t.2).getD 0).sum, ∃ t ∈ ts, x t.1 = none ∨ y t.2 = none)

end Sys2Proof.Spec

/-- R152 to R155, R157, R159, R167, R183: what lands of the one instruction a unit holds, in the model's terms: the rows of a product that
are due, one beat of a fold, and a whole scan; the data go to the writes of the cycle, the flags are raised, and the engine as it stood
before is kept for a stop in the same cycle. A landing that merges with a word that cannot be corrected is not made, and its unit leaves
the engine with a fault (R307, log 56); the rows that a product lands in a plane make the words they cover good.
R112, R157, R158, R160, R161: the rows of a product that land together: each element of a tile gains its exact sum before it is written
under R113 and R114 (`tileWrite`), an F64 entry takes its products one after the other, and a plane entry is its exact sum rounded once.
R159: a beat of `scacc` adds the scaled plane entry exactly, and leaves the elements alone whose scale is 0xFF. -/
def Obligations.MatrixLandings : Prop :=
  (∀ (rs : List Nat) (p : Prod) (d : MxData), rs.Nodup → rs ≠ [] → d.tiles.length = 4 → p.bSide.length = 64 → 64 ≤ p.bRows.length →
    Spec.kindWf p.kind →
    let a := fun (r : Nat) => smGetD p.aRows r (0, 0)
    let r := landProd rs p d
    (∀ acc row0, prodTile p.kind = some (acc, row0) → (∀ nrow, p.kind ≠ .mma .f64 acc row0 nrow) → (∀ r ∈ rs, row0 + r < 64) →
      let t := d.tiles.getD acc.val {}
      let bad := ∃ r ∈ rs, (Spec.terms p.kind (row0 + r)).2 ∨ ∃ j < 64, (Spec.dots p (row0 + r) j (a r)).2
      ∃ news : Nat → Nat → Option Dy,
        (∀ r ∈ rs, ∀ j < 64, ∃ v, news (row0 + r) j = some v ∧
          Spec.dy v = Spec.dy (entBM (Spec.ent t (row0 + r) j), exB (t.ex.getD j 0)) + (Spec.dots p (row0 + r) j (a r)).1) ∧
        (∀ i j, (∀ r ∈ rs, i ≠ row0 + r) → news i j = none) ∧
        r.1 = { d with tiles := d.tiles.set acc.val { (tileWrite false news t).1 with used := true } } ∧
        (bad → r.2 = (tileWrite false news t).2 ||| fINVALID) ∧ (¬bad → r.2 = (tileWrite false news t).2)) ∧
    (∀ acc row0 nrow, p.kind = .mma .f64 acc row0 nrow → (∀ r ∈ rs, row0 + r < 64) → Spec.tileWf (d.tiles.getD acc.val {}) →
      let t := d.tiles.getD acc.val {}
      let u := r.1.tiles.getD acc.val {}
      let code := fun (row : BitVec 1024) (k : Nat) => decodeF .f64 (bits row.toNat (64 * k) 64)
      let entry := fun (r j : Nat) => (List.range 16).foldl (fun (x : Nat × Flags) k =>
        let y := fmaF .f64 .ne (code (a r).1 k) (code (p.bRows.getD j 0) k) (decodeF .f64 x.1)
        (y.1, x.2 ||| y.2)) ((Spec.ent t (row0 + r) j).toNat % 2 ^ 64, 0)
      r.1 = { d with tiles := d.tiles.set acc.val u } ∧ u = { t with rows := u.rows, used := true } ∧
      (∀ r ∈ rs, ∀ j < 64, Spec.ent u (row0 + r) j = BitVec.ofNat 96 (entry r j).1) ∧
      (∀ i < 64, (∀ r ∈ rs, i ≠ row0 + r) → tileRow u i = tileRow t i) ∧
      r.2 = rs.foldl (fun f r => f ||| Spec.flagsOf 64 fun j => (entry r j).2) 0) ∧
    (∀ pp, prodPlane p.kind = some pp → (∀ r ∈ rs, r < 64) →
      let bad := ∃ r ∈ rs, (Spec.terms p.kind r).2 ∨ ∃ j < 64, (Spec.dots p r j (a r)).2
      ∃ V : Nat → Nat → Dy, (∀ r ∈ rs, ∀ j < 64, Spec.dy (V r j) = (Spec.dots p r j (a r)).1) ∧
        (let out := fun (r j : Nat) => roundF .f32 .ne false (decide ((V r j).1 < 0)) (V r j).1.natAbs (V r j).2
         let fl := rs.foldl (fun f r => f ||| Spec.flagsOf 64 fun j => (out r j).2) 0
         r.1 = { d with planes := r.1.planes } ∧
         (∀ r' ∈ rs, planeRow r.1 pp.val r' = (List.range 64).map fun j => BitVec.ofNat 32 (out r' j).1) ∧
         (∀ (q : Fin 2) (i : Nat), i < 64 → (q ≠ pp ∨ i ∉ rs) → planeRow r.1 q.val i = planeRow d q.val i) ∧
         (bad → r.2 = fl ||| fINVALID) ∧ (¬bad → r.2 = fl)))) ∧
  (∀ (b kb : Nat) (f : Fold) (t : Tile), b < 4 → kb < 8 → f.bSide.length = 64 → (∀ i < 64, (smGetD f.rows i ([], 0)).1.length = 64) →
    let sA := fun (i : Nat) => bits (smGetD f.rows i ([], 0)).2.toNat (8 * kb) 8
    let sB := fun (j : Nat) => bits (f.bSide.getD j 0).toNat (8 * kb) 8
    let plane := fun (i j : Nat) => Spec.rat (decodeF .f32 ((smGetD f.rows i ([], 0)).1.getD j 0).toNat)
    let bad := ∃ i, 16 * b ≤ i ∧ i < 16 * b + 16 ∧ ∃ j < 64, sA i = 0xFF ∨ sB j = 0xFF
    ∃ news : Nat → Nat → Option Dy,
      (∀ i j, 16 * b ≤ i → i < 16 * b + 16 → j < 64 → sA i ≠ 0xFF → sB j ≠ 0xFF → ∀ v, plane i j = some v → ∃ n, news i j = some n ∧
        Spec.dy n = Spec.dy (entBM (Spec.ent t i j), exB (t.ex.getD j 0)) + v * 2 ^ ((sA i + sB j : Int) - 254)) ∧
      (∀ i j, i < 16 * b ∨ 16 * b + 16 ≤ i ∨ (j < 64 ∧ (sA i = 0xFF ∨ sB j = 0xFF ∨ plane i j = none)) → news i j = none) ∧
      (landScacc b kb f t).1 = { (tileWrite false news t).1 with used := true } ∧
      (bad → (landScacc b kb f t).2 = (tileWrite false news t).2 ||| fINVALID) ∧
      (¬bad → (landScacc b kb f t).2 = (tileWrite false news t).2)) ∧
  ∀ (core : Nat) (s : State),
    let k := getCore s core
    let d := Spec.made k
    let t := k.ctx.bc
    let was := fun (m : Mx) => some (k.mxWas.getD (m, k.ctx.flags))
    let lands := fun (i : Instr) (k : Core) (m : Mx) (f : Flags) => exec i s =
      .next (setCore s core { k with mx := m, mxWas := was k.mx, ctx := { k.ctx with flags := k.ctx.flags ||| f } })
    let fails := fun (i : Instr) (m : Mx) => exec i s = .next (setCore s core { k with
      mx := m, mxWas := was m, faults := k.faults ++ [⟨3, s.nextReq, { cause := .dataerr, reason := 13 }, true⟩] })
    (∀ p, k.mx.prods = [p] →
      let due := (List.range (prodRows p.kind)).filter fun r => decide (p.next ≤ r ∧ p.start + 3 + prodLast p.kind r ≤ t)
      let merges := ∃ x, prodTile p.kind = some x ∧ (((∀ acc r n, p.kind ≠ .mma .f64 acc r n) ∧ Spec.rottenEx k x.1.val) ∨
        ∃ r ∈ due, Spec.rottenRow k x.1.val (x.2 + r))
      let covered := match prodPlane p.kind with
        | none => k
        | some pp => due.foldl (fun k r => Spec.covers .plane (16384 * pp.val + 256 * r) 256 k) k
      (due ≠ [] → merges → fails (.productRowLanding core) { k.mx with prods := [] }) ∧
      (due ≠ [] → ¬merges → lands (.productRowLanding core) covered
        { k.mx with next := some (landProd due p d).1, prods := [{ p with next := p.next + due.length }] } (landProd due p d).2)) ∧
    (∀ f, k.mx.folds = [f] →
      (∀ ef acc pp oa ob kb, f.kind = .scacc ef acc pp oa ob kb → f.next < 4 → f.start + f.next + 2 ≤ t →
        let r := landScacc f.next kb f (d.tiles.getD acc.val {})
        (Spec.rottenTile k acc.val → fails (.foldRowLanding core) { k.mx with folds := [] }) ∧
        (¬Spec.rottenTile k acc.val → lands (.foldRowLanding core) k
          { k.mx with next := some { d with tiles := d.tiles.set acc.val r.1 }, folds := [{ f with next := f.next + 1 }] } r.2)) ∧
      (∀ acc, f.kind = .acnorm acc → f.next = 0 → f.start + 1 ≤ t →
        let r := tileNorm false (tileNorm true (d.tiles.getD acc.val {}))
        (Spec.rottenTile k acc.val → fails (.foldRowLanding core) { k.mx with folds := [] }) ∧
        (¬Spec.rottenTile k acc.val → lands (.foldRowLanding core) k
          { k.mx with next := some { d with tiles := d.tiles.set acc.val { r with used := true } }, folds := [{ f with next := 1 }] } 0))) ∧
    (∀ x rows cy ex, k.mx.scans = [x] → x.input = some (rows, cy, ex) → x.landed = false → x.start + 7 ≤ t →
      let r := tileScan x.comp x.n rows cy ex (d.tiles.getD x.acc.val {})
      lands (.scanLanding core) k
        { k.mx with
          next := some { d with tiles := d.tiles.set x.acc.val { r.1 with used := true } }
          scans := [{ x with landed := true }] } r.2)

/-- R111, R113, R114, R115 as the model writes a column: the new exponent is the smallest from the old one up at which every value, rounded
to the nearest integer with ties to even, fits, or 32,767 with the mantissas clamped and `OVF`; `INX` and `GUF` when they are due.
R114, R179: how a write of a tile uses that for each column with the carry as its 65th value; a column it does not write stays.
R167: `acnorm` lowers each grid as far as it can go without loss. R178, R183, R184: the scan network, composition by composition. -/
def Obligations.ColumnGrids : Prop :=
  (∀ (gain : Bool) (e : Int) (vs : List Dy), e ≤ 32767 →
    let r := renorm gain e vs
    let big : Int := 2 ^ 47 - 1
    let onGrid := fun (v : Dy) (g n : Int) => Spec.nearest (Spec.dy v / 2 ^ g) n
    ∃ k : Nat, (∀ v ∈ vs, ∃ n, onGrid v (e + k) n ∧ |n| ≤ big) ∧
      (∀ j : Nat, j < k → ∃ v ∈ vs, ∃ n, onGrid v (e + j) n ∧ big < |n|) ∧
      r.1 = min (e + k) 32767 ∧ r.2.1.length = vs.length ∧
      (∀ (n : Nat) (v : Dy) (m : Int), vs[n]? = some v → r.2.1[n]? = some m → ∃ q, onGrid v r.1 q ∧ m = max (-big) (min big q)) ∧
      (r.2.2 &&& fINX = 0 ↔ ∀ v ∈ vs, ∃ q : Int, Spec.dy v = Spec.dy (q, r.1)) ∧
      (r.2.2 &&& fGUF = 0 ↔ (gain = true → ∀ v ∈ vs, v.1 ≠ 0 → ¬onGrid v r.1 0)) ∧
      (r.2.2 &&& fOVF = 0 ↔ e + k ≤ 32767) ∧ r.2.2 &&& ~~~(fINX ||| fGUF ||| fOVF) = 0) ∧
  (∀ (gain : Bool) (news : Nat → Nat → Option Dy) (t : Tile), Spec.tileWf t →
    let r := tileWrite gain news t
    let e := fun (j : Nat) => exPart gain (t.ex.getD j 0)
    let col := fun (j : Nat) => renorm gain (e j) ((List.range 65).map fun i => (news i j).getD (entPart gain (Spec.ent t i j), e j))
    let written := fun (j : Nat) => ∃ i < 65, news i j ≠ none
    Spec.tileWf r.1 ∧ r.1.f64 = t.f64 ∧
    (∀ j < 64,
      exPart (!gain) (r.1.ex.getD j 0) = exPart (!gain) (t.ex.getD j 0) ∧
      (∀ i < 65, entPart (!gain) (Spec.ent r.1 i j) = entPart (!gain) (Spec.ent t i j)) ∧
      (written j → exPart gain (r.1.ex.getD j 0) = (col j).1 ∧ ∀ i < 65, entPart gain (Spec.ent r.1 i j) = (col j).2.1.getD i 0) ∧
      (¬written j → exPart gain (r.1.ex.getD j 0) = e j ∧ ∀ i < 65, entPart gain (Spec.ent r.1 i j) = entPart gain (Spec.ent t i j))) ∧
    ∀ n < 10, r.2.getLsbD n = true ↔ ∃ j < 64, written j ∧ (col j).2.2.getLsbD n = true) ∧
  (∀ (gain : Bool) (t : Tile), Spec.tileWf t → (∀ i < 65, ∀ j < 64, |entPart gain (Spec.ent t i j)| ≤ 2 ^ 47 - 1) →
    let u := tileNorm gain t
    Spec.tileWf u ∧ u.f64 = t.f64 ∧ ∀ j < 64,
      let e := exPart gain (t.ex.getD j 0)
      let e' := exPart gain (u.ex.getD j 0)
      let m := fun (i : Nat) => entPart gain (Spec.ent t i j)
      let m' := fun (i : Nat) => entPart gain (Spec.ent u i j)
      exPart (!gain) (u.ex.getD j 0) = exPart (!gain) (t.ex.getD j 0) ∧
      (∀ i < 65, entPart (!gain) (Spec.ent u i j) = entPart (!gain) (Spec.ent t i j)) ∧
      -32768 ≤ e' ∧ e' ≤ e ∧ (∀ i < 65, Spec.dy (m' i, e') = Spec.dy (m i, e) ∧ |m' i| ≤ 2 ^ 47 - 1) ∧
      (e' = -32768 ∨ ∃ i < 65, 2 ^ 47 - 1 < |2 * m' i|)) ∧
  (∀ (comp : Bool) (n : Nat) (rows : List (List (BitVec 96))) (cy : List (BitVec 96)) (ex : List (BitVec 32)) (t : Tile),
    1 ≤ n → n ≤ 64 → rows.length = n →
    let eg := fun (j : Nat) => exG (ex.getD j 0)
    let eb := fun (j : Nat) => exB (ex.getD j 0)
    let pair := fun (x : BitVec 96) => (entGM x, entBM x)
    let composed := fun (j : Nat) (x y r : Int × Int) =>
      Spec.nearest ((x.1 * y.1 : Int) * (2 : ℚ) ^ eg j) r.1 ∧ Spec.nearest ((x.1 * y.2 : Int) * (2 : ℚ) ^ eg j + x.2) r.2
    let lost := fun (x y r : Int × Int) => x.1 * y.1 ≠ 0 ∧ r.1 = 0
    let inexact := fun (j : Nat) (x y r : Int × Int) =>
      (x.1 * y.1 : Int) * (2 : ℚ) ^ eg j ≠ r.1 ∨ (x.1 * y.2 : Int) * (2 : ℚ) ^ eg j + x.2 ≠ r.2
    ∃ X : Nat → Nat → Nat → Int × Int,
      (∀ j < 64, ∀ i < n, X j 0 i = pair ((rows.getD i []).getD j 0)) ∧
      (∀ j < 64, ∀ l < 6, ∀ i < n, (i < 2 ^ l → X j (l + 1) i = X j l i) ∧
        (2 ^ l ≤ i → composed j (X j l i) (X j l (i - 2 ^ l)) (X j (l + 1) i))) ∧
      (∀ j < 64, ∀ i < n, composed j (X j 6 i) (pair (cy.getD j 0)) (X j 7 i)) ∧
      (let step := fun (P : Nat → Int × Int → Int × Int → Int × Int → Prop) => ∃ j < 64, ∃ i < n,
         (∃ l < 6, 2 ^ l ≤ i ∧ P j (X j l i) (X j l (i - 2 ^ l)) (X j (l + 1) i)) ∨ P j (X j 6 i) (pair (cy.getD j 0)) (X j 7 i)
       let news := fun (gain : Bool) (i j : Nat) =>
         let at_ := fun (i : Nat) => some ((if gain then ((X j 7 i).1, eg j) else ((X j 7 i).2, eb j)) : Dy)
         if i = 64 then at_ (n - 1) else if i < n ∧ comp = false then at_ i else none
       let a := tileWrite true (news true) t
       let b := tileWrite false (news false) a.1
       (tileScan comp n rows cy ex t).1 = b.1 ∧ ∃ f : Flags, (tileScan comp n rows cy ex t).2 = a.2 ||| b.2 ||| f ∧
         (f &&& fGUF ≠ 0 ↔ step fun _ x y r => lost x y r) ∧ (f &&& fINX ≠ 0 ↔ step inexact) ∧ f &&& ~~~(fINX ||| fGUF) = 0))

namespace Sys2Proof.Spec

/-! ### Requests of the tile-walk engine -/

/-- A copy-slot instruction under a guard of 1 answers the next state `t`, with its word in flight for one bundle. -/
def replies (g : Guard) (d : SDst) (i : Instr) (s : State) (void : Bool) (t : State) (w : Word) (f : Flags) : Prop :=
  ∃ fl, readFlags (curCtx s) (voidP (curCtx s) g.p || void) fl ∧
    exec i s = .next (setCtx t (withResult (curCtx s) fl (slotC s) 1
      (match d with | .belt => .sbelt w | .k n => .k n w | .discard => .drop false) f))

/-- Under a guard of 0 a copy-slot instruction reads nothing, does nothing, and lands a zero on the belt. -/
def offC (g : Guard) (d : SDst) (i : Instr) (s : State) : Prop :=
  guardOn (curCtx s) g = false →
    flies i s (voidP (curCtx s) g.p) (slotC s) 1 (match d with | .belt => .sbelt 0 | _ => .drop false) 0

/-- A copy-slot instruction takes a stop: a cause in its own slot, with an engine, a reason and an address. -/
def stopsC (i : Instr) (s : State) (cause : Cause) (engine reason : Nat) (va : Option Nat) : Prop :=
  exec i s = .next (takeStop s.sched.cur
    { cause := cause, smask := 2 ^ slotC s, engine := engine, reason := reason, va := va } s)

/-- Byte by byte, where the pieces of a request take bytes from and where they put them, the barrier that counts each, and
whether it is a void-bytes notice. -/
def bytesOf (ps : List Piece) : List (Loc × Loc × Option (Nat × Nat) × Bool) :=
  ps.flatMap fun p => (List.range p.len).map fun i => (locAt p.src i, locAt p.dst i, p.bar, p.voidn)

/-- R192, R195, R196: the request is refused with BUSY when no context is free, and is otherwise outstanding, with the bytes it is
to move all still to be taken, and answers its promise, or ACCEPTED where it has none. -/
def accepts (g : Guard) (d : SDst) (i : Instr) (s : State) (void : Bool) (fb : Bool) (r : Req)
    (bytes : List (Loc × Loc × Option (Nat × Nat) × Bool)) (t : Option Nat) : Prop :=
  let f := if fb then fMODFB else 0
  (contextFree s s.sched.cur (cur s).svc.isSome = false → replies g d i s void s stBusy f) ∧
  (contextFree s s.sched.cur (cur s).svc.isSome = true →
    ∃ ps, bytesOf ps = bytes ∧ (∀ p ∈ ps, p.stage = 0 ∧ p.buf = [] ∧ 0 < p.len) ∧
      replies g d i s void (addReq s { r with promise := t, pieces := ps })
        (match t with | some t => BitVec.ofNat 64 (t % 2 ^ 63) | none => stAccepted) f)

end Sys2Proof.Spec

/-! ## The copy slots -/

/-- R192, R195, R196, R203: `cpy.rd`, `cpy.wr`, `cpyo` and `cpya`: the bytes each moves, its results DONE, BADARG, BUSY, a promise or
ACCEPTED, and the stop of a run outside the core's own scratchpad. The promise is the model's reading of R196 (log 30); a length beyond
262,144 answers BADARG before its range is looked at (log 33), and both sides of `cpya` count for its bound (log 34). -/
def Obligations.CopyTransfers : Prop :=
  ∀ (g : Guard) (d : SDst) (pol : Fin 8) (bar : Option (Fin 64)) (a b e : SOp) (s : State),
    let me := s.sched.cur
    let x := valN s a
    let y := valN s b
    let n := valN s e
    let void := voidS (curCtx s) a || voidS (curCtx s) b || voidS (curCtx s) e
    let handler := (cur s).svc.isSome
    let barred := handler = true ∧ bar ≠ none
    let at_ := fun (home : Nat) => bar.map fun n => (home, n.val)
    let mine := Loc.spad (selfSpad (cur s) me) y
    let moves := fun (src dst : Loc) (home : Nat) => (List.range n).map fun i => (locAt src i, locAt dst i, at_ home, false)
    let bound := fun (bit va : Nat) => boundNs s me (reqPart s me) bit [(va, n)] 57
    let promise := fun (q : Pol) (lines : Nat) (ns : Option Nat) => promiseTick s me q.ord lines ns
    let rd := Instr.cpyRd g d pol bar a b e
    let wr := Instr.cpyWr g d pol bar a b e
    let os := Instr.cpyo g d pol bar a b e
    let vv := Instr.cpya g d pol bar a b e
    Spec.offC g d rd s ∧ Spec.offC g d wr s ∧ Spec.offC g d os s ∧ Spec.offC g d vv s ∧
    (guardOn (curCtx s) g = true →
      (0 < n → n ≤ 262144 → viewOk (cur s) y n = false →
        Spec.stopsC rd s .xlate 6 4 (some y) ∧ Spec.stopsC wr s .xlate 7 4 (some y)) ∧
      ((0 < n → n ≤ 262144 → viewOk (cur s) y n = true) → (polNow s pol).space = 1 → inPart s (peerCore x) = false →
        Spec.stopsC rd s .mcastpart 0 0 none ∧ Spec.stopsC wr s .mcastpart 0 0 none) ∧
      (∀ q fb, fallback true false false (polNow s pol) = (some q, fb) →
        (0 < n → n ≤ 262144 → viewOk (cur s) y n = true) →
        (q.space = 1 → inPart s (peerCore x) = true) →
        let f := if fb then fMODFB else 0
        let bad := 262144 < n ∨ (q.space = 1 ∧ ¬(peerWell x = true ∧ peerAddr x + n ≤ 0x40000))
        let far := if q.space = 1 then Loc.spad (peerCore x) (peerAddr x) else .virt x
        let near := if q.space = 1 then peerAddr x else x
        let ns := fun (bit : Nat) =>
          if q.space = 1 then some (if me / 256 = peerCore x / 256 then 57 else 107) else bound bit x
        (barred → Spec.replies g d rd s void s stBadarg f ∧ Spec.replies g d wr s void s stBadarg f) ∧
        (¬barred → n = 0 → Spec.replies g d rd s void s stDone f ∧ Spec.replies g d wr s void s stDone f) ∧
        (¬barred → 0 < n → bad → Spec.replies g d rd s void s stBadarg f ∧ Spec.replies g d wr s void s stBadarg f) ∧
        (¬barred → 0 < n → ¬bad →
          Spec.accepts g d rd s void fb { blankReq s me .copy q with wrEng := 6 } (moves far mine me)
            (promise q (linesOf near n) (ns 1)) ∧
          Spec.accepts g d wr s void fb (blankReq s me .copy q)
            (moves mine far (if q.space = 1 then peerCore x else me)) (promise q (linesOf near n) (ns 2)))) ∧
      (¬(handler = false ∧ (cur s).mx.claimed.getLsbD (bits y 0 5) = true ∧ bits y 0 5 < 24) → Spec.stopsC os s .oslot 0 0 none) ∧
      ((polNow s pol).space = 1 → Spec.replies g d vv s void s stRefused fMODFB ∧
        (handler = false → (cur s).mx.claimed.getLsbD (bits y 0 5) = true → bits y 0 5 < 24 →
          Spec.replies g d os s void s stRefused fMODFB)) ∧
      (∀ q fb, fallback false false false (polNow s pol) = (some q, fb) →
        let f := if fb then fMODFB else 0
        let slot := bits y 0 5
        let off := if y.testBit 5 then 8192 + 16 * bits y 6 6 else 128 * bits y 6 6
        let room := (if y.testBit 5 then 16 else 128) * (64 - bits y 6 6)
        (handler = false → (cur s).mx.claimed.getLsbD slot = true → slot < 24 →
          (n = 0 → Spec.replies g d os s void s stDone f) ∧
          (0 < n → (2 ^ 12 ≤ y ∨ room < n) → Spec.replies g d os s void s stBadarg f) ∧
          (0 < n → y < 2 ^ 12 → n ≤ room →
            Spec.accepts g d os s void fb { blankReq s me .copy q with rdEng := 8, wrEng := 8, rdBit := 3 }
              (moves (.virt x) (.slot me slot off) me) (promise q (linesOf x n) (bound 3 x)))) ∧
        (barred → Spec.replies g d vv s void s stBadarg f) ∧
        (¬barred → n = 0 → Spec.replies g d vv s void s stDone f) ∧
        (2 ^ 24 ≤ n → Spec.replies g d vv s void s stBadarg f) ∧
        (0 < n → n < 2 ^ 24 → ¬barred →
          Spec.accepts g d vv s void fb (blankReq s me .walk q) (moves (.virt y) (.virt x) me)
            (promise q (linesOf x n + linesOf y n)
              (match bound 1 y, bound 2 x with | some i, some j => some (i + j) | _, _ => none)))))

/-- R203 to R206: `gath`, `scat`, the walks and the multicasts: which bytes each moves, element by element, row by row and member by
member, clipped bytes included, with their results and their stops. The index list is read at issue (log 28); the promise is the model's
reading of R196, R205, R206 (log 30); that an illegal length comes before a member mask of 0 is its choice (log 58). -/
def Obligations.WalksAndMulticasts : Prop :=
  ∀ (g : Guard) (d : SDst) (pol : Fin 8) (bar : Option (Fin 64)) (a b e : SOp) (s : State),
    let me := s.sched.cur
    let x := valN s a
    let y := valN s b
    let z := valN s e
    let void2 := voidS (curCtx s) a || voidS (curCtx s) b
    let void3 := void2 || voidS (curCtx s) e
    let barred := (cur s).svc.isSome = true ∧ bar ≠ none
    let at_ := fun (home : Nat) => bar.map fun n => (home, n.val)
    let mem := selfSpad (cur s) me
    let gat := Instr.gath g d pol bar a b e
    let sca := Instr.scat g d pol bar a b e
    let wrd := Instr.cpytRd g d pol bar a b
    let wwr := Instr.cpytWr g d pol bar a b
    let mc := Instr.mcast g d pol bar a b e
    let mo := Instr.mcastOps g d pol bar a b e
    (∀ i ∈ [gat, sca, wrd, wwr, mc, mo], Spec.offC g d i s) ∧
    (guardOn (curCtx s) g = true →
      (let base := bits z 0 18
       let count := bits z 18 12 + 1
       let size := 2 ^ bits z 30 4
       let runs := viewOk (cur s) y (4 * count) = true ∧ viewOk (cur s) base (count * size) = true
       (viewOk (cur s) y (4 * count) = false → Spec.stopsC gat s .xlate 6 4 (some y) ∧ Spec.stopsC sca s .xlate 7 4 (some y)) ∧
       (viewOk (cur s) y (4 * count) = true → viewOk (cur s) base (count * size) = false →
         Spec.stopsC gat s .xlate 6 4 (some base) ∧ Spec.stopsC sca s .xlate 7 4 (some base)) ∧
       ((polNow s pol).space = 1 → runs →
         Spec.replies g d gat s void3 s stRefused fMODFB ∧ Spec.replies g d sca s void3 s stRefused fMODFB)) ∧
      (∀ q fb, fallback false false false (polNow s pol) = (some q, fb) →
        let f := if fb then fMODFB else 0
        let base := bits z 0 18
        let count := bits z 18 12 + 1
        let size := 2 ^ bits z 30 4
        let runs := viewOk (cur s) y (4 * count) = true ∧ viewOk (cur s) base (count * size) = true
        let legal := z < 2 ^ 34 ∧ bits z 30 4 ≤ 8
        let idx := fun (k : Nat) => leNat (spadBytes s mem (y + 4 * k) 4)
        let el := fun (k j : Nat) => (Loc.virt (x + idx k * size + j), Loc.spad mem (base + k * size + j))
        let all := (List.range count).flatMap fun k => (List.range size).map fun j => el k j
        let far := (List.range count).map fun k => (x + idx k * size, size)
        let lines := (far.map fun r => linesOf r.1 r.2).sum
        let promise := fun (bit : Nat) => promiseTick s me q.ord lines (boundNs s me (reqPart s me) bit far 57)
        (runs → ¬legal ∨ barred → Spec.replies g d gat s void3 s stBadarg f ∧ Spec.replies g d sca s void3 s stBadarg f) ∧
        (runs → legal → ¬barred →
          Spec.accepts g d gat s void3 fb (blankReq s me .copy q) (all.map fun p => (p.1, p.2, at_ me, false)) (promise 1) ∧
          Spec.accepts g d sca s void3 fb (blankReq s me .walk q) (all.map fun p => (p.2, p.1, at_ me, false)) (promise 2))) ∧
      (viewOk (cur s) x 32 = false → Spec.stopsC wrd s .xlate 6 4 (some x) ∧ Spec.stopsC wwr s .xlate 7 4 (some x)) ∧
      (viewOk (cur s) x 32 = true → (cur s).svc = none → spadBad (cur s) x 32 = true →
        Spec.stopsC wrd s .dataerr 2 13 (some x) ∧ Spec.stopsC wwr s .dataerr 2 13 (some x)) ∧
      (viewOk (cur s) x 32 = true → ((cur s).svc = none → spadBad (cur s) x 32 = false) →
        let v := leNat (viewRead s me x 32)
        let span := if bits v 64 16 = 0 ∨ bits v 80 16 = 0 then 0 else (bits v 64 16 - 1) * bits v 160 32 + bits v 80 16
        (0 < span → viewOk (cur s) y span = false →
          Spec.stopsC wrd s .xlate 6 4 (some y) ∧ Spec.stopsC wwr s .xlate 7 4 (some y)) ∧
        ((polNow s pol).space = 1 → (0 < span → viewOk (cur s) y span = true) →
          Spec.replies g d wrd s void2 s stRefused fMODFB ∧ Spec.replies g d wwr s void2 s stRefused fMODFB)) ∧
      (∀ q fb, fallback false false false (polNow s pol) = (some q, fb) → viewOk (cur s) x 32 = true →
        ((cur s).svc = none → spadBad (cur s) x 32 = false) →
        let f := if fb then fMODFB else 0
        let v := leNat (viewRead s me x 32)
        let nrows := bits v 64 16
        let rowb := bits v 80 16
        let step := bits v 160 32
        let span := if nrows = 0 ∨ rowb = 0 then 0 else (nrows - 1) * step + rowb
        let live := fun (i : Nat) => if bits v 128 16 ≤ i then 0 else min rowb (bits v 144 16)
        let va := fun (i : Nat) => wrap 64 ((bits v 0 55 : Int) + i * sInt 32 (bits v 96 32))
        let legal := bits v 55 9 = 0 ∧ bits v 193 63 = 0 ∧ 1 ≤ nrows ∧ nrows ≤ 4096 ∧ 1 ≤ rowb ∧ rowb ≤ 16384 ∧ step ≤ 0x3FFFF
        let here := fun (i j : Nat) => Loc.spad mem (y + i * step + j)
        let each := fun (h : Nat → Nat → Loc × Loc × Bool) => (List.range nrows).flatMap fun i => (List.range rowb).map fun j =>
          let p := h i j; (p.1, p.2.1, at_ me, p.2.2)
        let loads := each fun i j =>
          if j < live i then (.virt (va i + j), here i j, false)
          else if v.testBit 192 then (.zero, .none, true) else (.zero, here i j, false)
        let stores := each fun i j => if j < live i then (here i j, .virt (va i + j), false) else (.zero, .none, false)
        let promise := fun (bit : Nat) =>
          if ∀ i < nrows, live i = 0 then (promiseBase s me q.ord).map (· + 1)
          else promiseTick s me q.ord (walkLines (walkOf v)) (boundNs s me (reqPart s me) bit
            ((List.range nrows).map fun i => (va i, live i)) 57)
        ((0 < span → viewOk (cur s) y span = true) → ¬legal ∨ barred →
          Spec.replies g d wrd s void2 s stBadarg f ∧ Spec.replies g d wwr s void2 s stBadarg f) ∧
        (legal → viewOk (cur s) y span = true → ¬barred →
          Spec.accepts g d wrd s void2 fb (blankReq s me .walk q) loads (promise 1) ∧
          Spec.accepts g d wwr s void2 fb (blankReq s me .walk q) stores (promise 2))) ∧
      (∀ q fb, fallback true false false (polNow s pol) = (some q, fb) →
        let f := if fb then fMODFB else 0
        let n := bits y 32 19
        let who := (List.range 16).filter fun i => z.testBit i
        let core := fun (i : Nat) => bits z 20 2 * 256 + bits z 16 4 * 16 + i
        let src := if q.space = 1 then Loc.spad mem x else .virt x
        let least := (who.map core).foldl (fun b m => max b (if me / 256 = m / 256 then 57 else 107)) 57
        let promise := fun (bit : Nat) => promiseTick s me q.ord (linesOf x n)
          (if q.space = 1 then some least else boundNs s me (reqPart s me) bit [(x, n)] least)
        let moves := fun (to_ : Nat → Loc) => who.flatMap fun i => (List.range n).map fun j =>
          (locAt src j, locAt (to_ (core i)) j, at_ (core i), false)
        let good := z < 2 ^ 22 ∧ 1 ≤ n ∧ n ≤ 262144 ∧ ¬barred
        let inside := ∀ i ∈ who, inPart s (core i) = true
        let source := q.space = 1 → who ≠ [] → 1 ≤ n → n ≤ 262144 → viewOk (cur s) x n = true
        (inside → source → me ∉ who.map core →
          (good → y = bits y 0 18 + n * 2 ^ 32 → who = [] → Spec.replies g d mc s void3 s stDone f) ∧
          (good → y = bits y 0 18 + n * 2 ^ 32 → who ≠ [] → 0x40000 < bits y 0 18 + n → Spec.replies g d mc s void3 s stBadarg f) ∧
          (¬(good ∧ y = bits y 0 18 + n * 2 ^ 32) → Spec.replies g d mc s void3 s stBadarg f)) ∧
        (inside → source → (me ∈ who.map core → bits y 0 18 + n ≤ 0x40000) → good → y = bits y 0 18 + n * 2 ^ 32 →
          who ≠ [] → bits y 0 18 + n ≤ 0x40000 →
          Spec.accepts g d mc s void3 fb { blankReq s me .copy q with rdEng := 6, wrEng := 6, rdBit := 1 }
            (moves fun m => .spad m (bits y 0 18)) (promise 1)) ∧
        (source → (∀ i ∈ who, core i ≠ me) → (∃ i ∈ who, inPart s (core i) = false) →
          Spec.stopsC mc s .mcastpart 0 0 none ∧ Spec.stopsC mo s .mcastpart 0 0 none) ∧
        (inside → source → (me ∈ who.map core →
            (cur s).svc = none ∧ (cur s).mx.claimed.getLsbD (bits y 0 5) = true ∧ bits y 0 5 < 24) →
          (¬(good ∧ y = bits y 0 12 + n * 2 ^ 32) → Spec.replies g d mo s void3 s stBadarg f) ∧
          (good → y = bits y 0 12 + n * 2 ^ 32 → who = [] → Spec.replies g d mo s void3 s stDone f) ∧
          (good → y = bits y 0 12 + n * 2 ^ 32 → who ≠ [] →
            let room := (if y.testBit 5 then 16 else 128) * (64 - bits y 6 6)
            (room < n → Spec.replies g d mo s void3 s stBadarg f) ∧
            (n ≤ room → Spec.accepts g d mo s void3 fb { blankReq s me .copy q with rdEng := 8, wrEng := 8, rdBit := 3 }
              (moves fun m => .slot m (bits y 0 5) (if y.testBit 5 then 8192 + 16 * bits y 6 6 else 128 * bits y 6 6))
              (promise 3))))))

/-- R207, R209, R61: `cpys` takes its eight bytes at issue and is a release; the atomics are requests for one word of the virtual
space and for the landing of its old value; an entry for the peer space is refused to an atomic. That `cpys` takes its operand at issue
is log 28; the promise is the model's reading of R196 (log 30). -/
def Obligations.StampsAndAtomics : Prop :=
  ∀ (g : Guard) (d : SDst) (pol : Fin 8) (sz : Sz) (a b e : SOp) (s : State),
    let me := s.sched.cur
    let x := valN s a
    let z := valN s e
    let void := voidS (curCtx s) a || voidS (curCtx s) b
    let st := Instr.cpys g d pol a b
    let n := match sz with | .i32 | .u32 => 4 | .i64 | .u64 => 8
    let mem := selfSpad (cur s) me
    let ats := [Instr.aadd g d pol sz a b e, .amin g d pol sz a b e, .amax g d pol sz a b e, .aand g d pol sz a b e,
      .aor g d pol sz a b e, .axor g d pol sz a b e, .aswp g d pol sz a b e, .acas g d pol sz a b e]
    (∀ i ∈ st :: ats, Spec.offC g d i s) ∧
    (guardOn (curCtx s) g = true →
      ((polNow s pol).space = 1 → inPart s (peerCore x) = false → Spec.stopsC st s .mcastpart 0 0 none) ∧
      (∀ q fb, fallback true false true (polNow s pol) = (some q, fb) →
        (q.space = 1 → inPart s (peerCore x) = true) →
        let f := if fb then fMODFB else 0
        let bad := x % 8 ≠ 0 ∨ (q.space = 1 ∧ peerWell x = false)
        let dst := if q.space = 1 then Loc.spad (peerCore x) (peerAddr x) else .virt x
        let ns := if q.space = 1 then some (if me / 256 = peerCore x / 256 then 57 else 107)
          else boundNs s me (reqPart s me) 7 [(x, 8)] 57
        let t := promiseTick s me q.ord 1 ns
        2 ≤ q.ord ∧
        (bad → Spec.replies g d st s void s stBadarg f) ∧
        (¬bad → contextFree s me (cur s).svc.isSome = false → Spec.replies g d st s void s stBusy f) ∧
        (¬bad → contextFree s me (cur s).svc.isSome = true →
          Spec.replies g d st s void
            (addReq s { blankReq s me .stamp q with
              wrEng := 0xC
              wrBit := 7
              promise := t
              pieces := [{ src := .none, dst := dst, len := 8, stage := 1, buf := leBytes 8 (valN s b) }] })
            (match t with | some t => BitVec.ofNat 64 (t % 2 ^ 63) | none => stAccepted) f)) ∧
      ∀ (k : Nat) (i : Instr), ats[k]? = some i →
        (viewOk (cur s) z 8 = false → Spec.stopsC i s .xlate 9 4 (some z)) ∧
        (viewOk (cur s) z 8 = true →
          ((polNow s pol).space = 1 → Spec.replies g d i s (void || voidS (curCtx s) e) s stRefused fMODFB) ∧
          ∀ q fb, fallback false true false (polNow s pol) = (some q, fb) →
            let f := if fb then fMODFB else 0
            q.cache ≠ 1 ∧
            (x % n ≠ 0 → Spec.replies g d i s (void || voidS (curCtx s) e) s stBadarg f) ∧
            (x % n = 0 → Spec.accepts g d i s (void || voidS (curCtx s) e) fb
              { blankReq s me (.atomic k sz x (BitVec.ofNat 64 (valN s b % 2 ^ (8 * n))) z) q with
                rdEng := 9
                wrEng := 9
                rdBit := 4
                wrBit := 4 }
              ((List.range n).map (fun j => (.virt (x + j), .none, none, false)) ++
                (List.range 8).map fun j => (.none, .spad mem (z + j), none, false))
              (promiseTick s me q.ord 1 (boundNs s me (reqPart s me) 4 [(x, n)] 57)))))

/-! ## Barriers, drains, streams, invalidation -/

/-- R202, R208 with the waits of R87: `bari` arms a barrier object in the core's scratchpad, `barw` waits until it is not live or a tick
comes, `drain` until everything issued earlier has performed at a scope; and the end of each wait. A wait that ends at once lands its
word with the next bundle. When a request has performed at a scope is the model's `reqAt`, of which no statement here says more: at core
scope what leaves the core's own memory has been read, at cluster scope the engine holds the bytes, at die scope they stand in the bridge
lane, and a landing has performed once it has landed (logs 14, 19). -/
def Obligations.BarriersAndDrains : Prop :=
  ∀ (g : Guard) (d : SDst) (pol : Fin 8) (a b : SOp) (sc : Scope) (core : Nat) (s : State),
    let c := curCtx s
    let me := s.sched.cur
    let n := valN s a
    let total := valN s b
    let z := valS c b
    let void := voidS c a || voidS c b
    let arm := Instr.bari g d pol a b
    let wait := Instr.barw g d pol a b
    let dr := Instr.drain g d pol sc
    let at_ := fun (n : Nat) => 0x3FE00 + 8 * n
    let object := fun (m n : Nat) => leNat (mReadN (getCore s m).spad (at_ n) 8)
    let done := fun (m upto : Nat) (sc : Scope) =>
      (∀ q ∈ s.reqs, q.1 < upto → q.2.core = m → (∀ cl n k, q.2.kind ≠ .step cl n k) → reqAt s q.1 q.2 sc.code = true) ∧
        ∀ q ∈ s.tlbis, q.1 < upto → q.2.core = m → sc.code < q.2.scope
    let atOnce := fun (i : Instr) (void : Bool) (w : Word) => Spec.setsCtx i s (voidP c g.p || void)
      { c with rets := c.rets ++ [⟨1, slotC s, c.bc, d, false, w⟩] }
    let waits := fun (i : Instr) (void : Bool) (w : WaitKind) => Spec.setsCtx i s (voidP c g.p || void)
      { c with waits := c.waits ++ [{ kind := w, slot := slotC s, seq := c.bc, dst := d }] }
    let ended := fun (i : Instr) (k : Core) (slot seq : Nat) (w : Word) => exec i s = .next (setCore s core { k with ctx :=
      { k.ctx with
        waits := []
        inflight := k.ctx.inflight ++ [⟨k.ctx.bc + 1, slot, seq, resS d w, 0⟩] } })
    Spec.offC g d arm s ∧ Spec.offC g d wait s ∧ Spec.offC g d dr s ∧
    (guardOn c g = true →
      (63 < n ∨ 2 ^ 24 ≤ total → Spec.replies g d arm s void s stBadarg 0) ∧
      (63 < n → Spec.replies g d wait s void s stBadarg 0) ∧
      (n ≤ 63 → total < 2 ^ 24 → (cur s).svc.isSome = true → Spec.stopsC arm s .xlate 2 4 (some (at_ n))) ∧
      (n ≤ 63 → total < 2 ^ 24 → (cur s).svc = none →
        ∃ v, v < 2 ^ 64 ∧ Spec.replies g d arm s void (setCur s (spadWrite (cur s) (at_ n) (leBytes 8 v))) stDone 0 ∧
          bits v 0 24 = total ∧ v.testBit 25 = decide (total ≠ 0) ∧ v.testBit 26 = false ∧ v.testBit 27 = false ∧
          v.testBit 24 = ((object me n).testBit 24 != decide (total = 0)) ∧ bits v 28 36 = bits (object me n) 28 36) ∧
      (n ≤ 63 → (cur s).svc.isSome = true → Spec.stopsC wait s .xlate 2 4 (some (at_ n))) ∧
      (n ≤ 63 → (cur s).svc = none → spadBad (cur s) (at_ n) 8 = true → Spec.stopsC wait s .dataerr 2 13 (some (at_ n))) ∧
      (n ≤ 63 → (cur s).svc = none → spadBad (cur s) (at_ n) 8 = false →
        let v := object me n
        (v.testBit 25 = false → atOnce wait void (statusW 0 v)) ∧
        (v.testBit 25 = true → z.toNat ≤ coreTick s me → atOnce wait void (statusW 5 v)) ∧
        (v.testBit 25 = true → coreTick s me < z.toNat → waits wait void (.barw n z))) ∧
      (done me s.nextReq sc → atOnce dr false stDone) ∧
      (¬ done me s.nextReq sc → waits dr false (.drain sc s.nextReq))) ∧
    (let k := getCore s core
     ∀ slot seq,
      (∀ n z, k.svc = none → k.ctx.waits = [{ kind := .barw n z, slot := slot, seq := seq, dst := d }] →
        let v := object core n
        (v.testBit 25 = false → ended (.barwEnd core) k slot seq (statusW 0 v)) ∧
        (v.testBit 25 = true → z.toNat ≤ coreTick s core → ended (.barwEnd core) k slot seq (statusW 5 v)) ∧
        (v.testBit 25 = true → coreTick s core < z.toNat → exec (.barwEnd core) s = .next (setCore s core k))) ∧
      (∀ upto, k.ctx.waits = [{ kind := .drain sc upto, slot := slot, seq := seq, dst := d }] →
        (done core upto sc → ended (.drainEnd core) k slot seq stDone) ∧
        (¬ done core upto sc → exec (.drainEnd core) s = .next (setCore s core k))))

/-- R210, R211, R222, R223: opening a stream, permits, closing, the reading of a descriptor, the start of a step; and `tlbi`, which only
kernel privilege may issue, with what its performing leaves in the engines: no matching leaf but what was walked back, every removed leaf
that still passes R217 with `PIN` walked back, and the operation itself outstanding until every request that had used such a leaf is over.
A permit for a descriptor not read yet reads it (log 35). The descriptor's read is an access of engine copy read, ordered by the number it
takes at `twopen`, and sees what the engine holds ahead of it (log 59); these instructions take no policy (log 58); which requests had
translated through a leaf is the model's reading (log 45); that a row which is not due leaves the state as it is is its choice (log 20). -/
def Obligations.StreamsAndInvalidation : Prop :=
  ∀ (g : Guard) (d : SDst) (pol : Fin 8) (sc : Scope) (a b e : SOp) (cl n : Nat) (s : State),
    let c := curCtx s
    let me := s.sched.cur
    let x := valN s a
    let y := valN s b
    let z := valN s e
    let here := me / 16
    let str := getStream s here x
    let busy := str.isOpen = true ∧ (str.closing = false ∨ ∃ r ∈ s.reqs, stepOf here x r.2 = true)
    let op := Instr.twopen g d pol a b
    let pm := Instr.permit g d pol a b
    let cs := Instr.twclose g d pol a
    let void := voidS c a || voidS c b
    let legal := fun (v : Nat) => walkOk (bits v 0 256) = true ∧ 1 ≤ bits v 320 32 ∧ 1 ≤ bits v 352 8 ∧ bits v 352 8 ≤ 16 ∧
      bits v 361 23 = 0 ∧ bits v 402 14 = 0 ∧ bits v 470 1 = 0 ∧ bits v 472 40 = 0 ∧
      (v.testBit 360 = true → ∃ m < 16, bits v 448 16 = 2 ^ m)
    let closed := exec (.descriptorFetch cl n) s
    let seen := fun (bs bs0 : List Byte) => bs.length = bs0.length ∧ ((∀ q ∈ s.reqs, ∀ p ∈ q.2.pieces, p.stage ≠ 1) → bs = bs0)
    let lost := fun (home : Nat) (str : Stream) (r : Nat × Nat) (t : State) => if r.1 < 13 then t else
      postFault (errorRecord str.part 1 0x30 0 6 r.1 str.owner (errSector s home str.part 1 r.1 str.descVa) (some r.2) t) str.num
        (descReq str) { cause := .dataerr, engine := 6, reason := r.1, va := some r.2 }
    Spec.offC g d op s ∧ Spec.offC g d pm s ∧ Spec.offC g d cs s ∧
    (guardOn c g = true →
      (15 < x ∨ y % 64 ≠ 0 → Spec.replies g d op s void s stBadarg 0) ∧
      (x ≤ 15 → y % 64 = 0 → busy → Spec.replies g d op s void s stBusy 0) ∧
      (x ≤ 15 → y % 64 = 0 → ¬busy → ∃ chans, Spec.replies g d op s void
        { setStream s here x { isOpen := true, owner := me, ownerBid := reqBid (cur s), part := reqPart s me, descVa := y, num := s.nextReq }
          with nextReq := s.nextReq + 1, chans := chans }
        stAccepted 0) ∧
      (15 < x ∨ y = 0 ∨ 65535 < y → Spec.replies g d pm s void s stBadarg 0) ∧
      (x ≤ 15 → 0 < y → y ≤ 65535 → str.isOpen = false → str.desc = none → Spec.replies g d pm s void s stRefused 0) ∧
      (x ≤ 15 → 0 < y → y ≤ 65535 → ∀ v, str.desc = some v →
        let sum := smGetD str.permits (me % 16) 0 + y
        let good := str.isOpen = true ∧ str.failed = false ∧ str.closing = false ∧
          (bits v.toNat 448 16).testBit (me % 16) = true ∧ sum ≤ bits v.toNat 320 32
        (good → Spec.replies g d pm s void (setStream s here x { str with permits := smPut str.permits (me % 16) sum }) stDone 0) ∧
        (¬good → Spec.replies g d pm s void s stRefused 0)) ∧
      (x ≤ 15 → 0 < y → y ≤ 65535 → str.isOpen = true → str.failed = true → str.desc = none →
        Spec.replies g d pm s void s stRefused 0) ∧
      (x ≤ 15 → 0 < y → y ≤ 65535 → str.isOpen = true → str.failed = false → str.desc = none →
        (∀ t r, readVirt s here str.part 1 str.descVa 64 = (t, .error r) →
          Spec.replies g d pm s void (lost here str r (setStream t here x { str with failed := true })) stRefused 0) ∧
        ∀ t bs0, readVirt s here str.part 1 str.descVa 64 = (t, .ok bs0) → bs0.length = 64 → ∃ bs, seen bs bs0 ∧
          let v := BitVec.ofNat 512 (leNat bs)
          let sum := smGetD str.permits (me % 16) 0 + y
          (¬legal (leNat bs) → Spec.replies g d pm s void (setStream t here x { str with failed := true }) stRefused 0) ∧
          let good := str.closing = false ∧ (bits v.toNat 448 16).testBit (me % 16) = true ∧ sum ≤ bits v.toNat 320 32
          (legal (leNat bs) → ¬good → Spec.replies g d pm s void (setStream t here x { str with desc := some v }) stRefused 0) ∧
          (legal (leNat bs) → good → Spec.replies g d pm s void
            (setStream t here x { str with desc := some v, permits := smPut str.permits (me % 16) sum }) stDone 0)) ∧
      (15 < x → Spec.replies g d cs s (voidS c a) s stBadarg 0) ∧
      (x ≤ 15 → ¬(busy ∧ str.owner = me) → Spec.replies g d cs s (voidS c a) s stRefused 0) ∧
      (x ≤ 15 → busy → str.owner = me →
        Spec.replies g d cs s (voidS c a) (setStream s here x { str with closing := true })
          (statusW (if str.failed then 4 else 0) str.started) 0)) ∧
    (let str := getStream s cl n
     (str.isOpen = false ∨ str.desc ≠ none ∨ str.failed = true → closed = .next s) ∧
     (mayFetchDesc s cl n = false → closed = .next s) ∧
     (mayFetchDesc s cl n = true →
       (∀ t r, readVirt s cl str.part 1 str.descVa 64 = (t, .error r) →
         closed = .next (lost cl str r (setStream t cl n { str with failed := true }))) ∧
       (∀ t bs0, readVirt s cl str.part 1 str.descVa 64 = (t, .ok bs0) → bs0.length = 64 → ∃ bs, seen bs bs0 ∧
         (legal (leNat bs) → closed = .next (setStream t cl n { str with desc := some (BitVec.ofNat 512 (leNat bs)) })) ∧
         (¬legal (leNat bs) → closed = .next (setStream t cl n { str with failed := true }))))) ∧
    (let str := getStream s cl n
     ∀ v, str.desc = some v → str.isOpen = true → str.closing = false → str.failed = false →
      let u := v.toNat
      let k := str.started
      let who := (List.range 16).filter fun i => (bits u 448 16).testBit i
      let rowb := bits u 80 16
      let live := fun (i : Nat) => if bits u 128 16 ≤ i then 0 else min rowb (bits u 144 16)
      let va := fun (i : Nat) => wrap 64 ((bits u 0 55 : Int) + k * sInt 64 (bits u 256 64) + i * sInt 32 (bits u 96 32))
      let buf := bits u 384 18 + k % bits u 352 8 * bits u 416 32
      let row := fun (i : Nat) => buf + i * bits u 160 32
      let span := if bits u 64 16 = 0 ∨ rowb = 0 then 0 else (bits u 64 16 - 1) * bits u 160 32 + rowb
      let step := exec (.streamStepStart cl n) s
      let go := k < bits u 320 32 ∧ ∀ i ∈ who, k < smGetD str.permits i 0
      (¬go → step = .next s) ∧
      (go → buf + span ≤ 0x40000 → ∃ ps,
        step = .next (addReq (setStream s cl n { str with started := k + 1 })
          { core := str.owner, bid := str.ownerBid, part := str.part, kind := .step cl n k, rdEng := 0xF, wrEng := 0xF
            tick := coreTick s str.owner, pieces := ps, context := false }) ∧
        Spec.bytesOf ps = who.flatMap fun m => (List.range (bits u 64 16)).flatMap fun i => (List.range rowb).map fun j =>
          let spad := Loc.spad (cl * 16 + m) (row i + j)
          let bar := if u.testBit 471 then some (cl * 16 + m, bits u 464 6) else none
          if j < live i then
            (if u.testBit 360 then (spad, .virt (va i + j), bar, false) else (.virt (va i + j), spad, bar, false))
          else if u.testBit 360 then (.zero, .none, bar, false)
          else if u.testBit 192 then (.zero, .none, bar, true) else (.zero, spad, bar, false)) ∧
      (go → 0x40000 < buf + span → ∃ t, step = .next t ∧
        getStream t cl n = { str with started := k + 1, failed := true } ∧ t.reqs = s.reqs ∧ t.mem = s.mem)) ∧
    (let va := Instr.tlbiVa g d pol sc a e
     let rng := Instr.tlbiRng g d pol sc a b e
     let all := Instr.tlbiAll g d pol sc e
     let stop := takeStop me { cause := .priv, smask := 2 ^ slotC s, engine := 1 } s
     let rngVoid := void || voidS c e
     let vaVoid := voidS c a || voidS c e
     let sent := fun (lo hi : Nat) => { s with
       tlbis := smPut s.tlbis s.nextReq { core := me, bid := reqBid (cur s), part := z, scope := sc.code, lo := lo, hi := hi }
       nextReq := s.nextReq + 1 }
     (c.kern = false → exec va s = .next stop ∧ exec rng s = .next stop ∧ exec all s = .next stop) ∧
     (c.kern = true → Spec.offC g d va s ∧ Spec.offC g d rng s ∧ Spec.offC g d all s ∧ (guardOn c g = true →
       (16 ≤ z ∨ 2 ^ 55 ≤ x → Spec.replies g d va s vaVoid s stBadarg 0) ∧
       (z < 16 → x < 2 ^ 55 → Spec.replies g d va s vaVoid (sent x (x + 1)) stAccepted 0) ∧
       (16 ≤ z ∨ 2 ^ 55 ≤ x ∨ 2 ^ 55 < y → Spec.replies g d rng s rngVoid s stBadarg 0) ∧
       (z < 16 → x < 2 ^ 55 → y = 0 → Spec.replies g d rng s rngVoid s stDone 0) ∧
       (z < 16 → x < 2 ^ 55 → 0 < y → y ≤ 2 ^ 55 → Spec.replies g d rng s rngVoid (sent x (x + y)) stAccepted 0) ∧
       (16 ≤ z → Spec.replies g d all s (voidS c e) s stBadarg 0) ∧
       (z < 16 → Spec.replies g d all s (voidS c e) (sent 0 (2 ^ 55)) stAccepted 0)))) ∧
    (∀ x, smGet s.tlbis n = some x →
      let reached := fun (m : Nat) => m < 64 ∧ partHasCluster (getPart s x.part) m = true ∧ (x.scope = 2 → m / 16 = x.core / 256)
      let over_ := fun (r : Req) => r.complete = true ∨ r.told = true
      let walked := fun (l : Leaf) (lvl e : Nat) => walk s l.va [0, 1, 2] (partRoot (getPart s x.part)) = .ok (lvl, e) ∧
        entPin e = true ∧ ∃ bit < 8, leafCheck s x.part bit lvl e l.va = none
      let hits := fun (l : Leaf) => l.part = x.part ∧ l.va < x.hi ∧ x.lo < l.va + leafSize l.lvl
      (x.removed = true → (∃ m ∈ x.users, ¬over_ (getReq s m)) →
        ∃ ops, exec (.tlbiPerform n) s = .next { s with tlbis := ops } ∧ ∀ m, smGet ops m = smGet s.tlbis m) ∧
      (x.removed = true → (∀ m ∈ x.users, over_ (getReq s m)) →
        exec (.tlbiPerform n) s = .next { s with tlbis := smDel s.tlbis n }) ∧
      (x.removed = false → ∃ (twes : SMap Twe) (users : List Nat) (ops : SMap TlbiOp) (chans : SMap Channel),
        exec (.tlbiPerform n) s = .next { s with twes := twes, tlbis := ops, chans := chans } ∧
        (∀ m, m ∈ users ↔ ∃ r, (m, r) ∈ s.reqs ∧ ¬over_ r ∧ usedLeaf s x r = true) ∧
        ((∀ m ∈ users, over_ (getReq s m)) → ops = smDel s.tlbis n) ∧
        ((∃ m ∈ users, ¬over_ (getReq s m)) → ops = smPut s.tlbis n { x with removed := true, users := users }) ∧
        ∀ m, let t := smGetD twes m {}
          t.streams = (getTwe s m).streams ∧ (¬reached m → t.tlb = (getTwe s m).tlb) ∧
          (reached m →
            (∀ l ∈ t.tlb, hits l → ∃ l0 ∈ (getTwe s m).tlb, hits l0 ∧ ∃ lvl e, walked l0 lvl e ∧
              l = ⟨x.part, l0.va - l0.va % leafSize lvl, lvl, BitVec.ofNat 64 e⟩) ∧
            (∀ l ∈ (getTwe s m).tlb, ¬hits l → (getTwe s m).tlb.length ≤ 2048 →
              (∀ k ∈ (getTwe s m).tlb, hits k → ∀ lvl e, walked k lvl e →
                ¬(l.part = x.part ∧ l.va = k.va - k.va % leafSize lvl ∧ l.lvl = lvl)) → l ∈ t.tlb) ∧
            (∀ l ∈ (getTwe s m).tlb, hits l → (getTwe s m).tlb.length ≤ 2048 → ∀ lvl e, walked l lvl e →
              ∃ k ∈ t.tlb, k.part = x.part ∧ k.va = l.va - l.va % leafSize lvl ∧ k.lvl = lvl))))

/-! ## Reductions -/

namespace Sys2Proof.Spec

/-- `u` is `s` with the bytes `bs` written at the home `x`, outside the aperture: under the key slot of `x` every other byte reads as
before (R312), and the bytes of every 64-byte unit that the write does not touch are the same. -/
def puts (s u : State) (x : Xlat) (bs : List Byte) : Prop :=
  (∀ a, (∀ die off, paKind a ≠ .kiln die off) → byteUnder u (some x.key) a =
    if x.pa ≤ a ∧ a < x.pa + bs.length then bs.getD (a - x.pa) 0 else byteUnder s (some x.key) a) ∧
  ∀ a, (a / 64 < x.pa / 64 ∨ (x.pa + bs.length - 1) / 64 < a / 64) → mRead u.mem a = mRead s.mem a

/-- The combining tree of a reducer (R272): what t(q) holds before level `l`, from what the slots hold. -/
def tree (op : Nat → Nat → Nat) (t : Nat → Option Nat) : Nat → Nat → Option Nat
  | 0, q => t q
  | l + 1, q => match tree op t l q, tree op t l (q + 2 ^ l) with
    | a, none => a
    | none, b => b
    | some a, some b => some (op a b)

/-- The operation of a combine on two lanes (R271), and the width of a lane. -/
def comb (op : RdcOp) (a b : Nat) : Nat :=
  let f := fun (lt : LT) (x : Nat) => decodeF lt x
  let i := fun (x : Nat) => (BitVec.ofNat 32 x).toInt
  match op with
  | .addI32 => (a + b) % 2 ^ 32
  | .addF32 | .addBf16 => (addF .f32 .ne (f .f32 a) (f .f32 b)).1
  | .addF64 => (addF .f64 .ne (f .f64 a) (f .f64 b)).1
  | .maxI32 => if i b ≤ i a then a else b
  | .minI32 => if i a ≤ i b then a else b
  | .maxF32 => (minmaxF .f32 true a b).1
  | .minF32 => (minmaxF .f32 false a b).1
  | .and => a &&& b
  | .or => a ||| b
  | .xor => a ^^^ b
  | .mxrE4m3 | .mxrE2m1 => a

end Sys2Proof.Spec

/-- R271: `rdc` as a request: its results, its stop, and what it asks for; a group that is not assigned to the partition refuses it.
R270, R272, R273: a contribution opens a round of its group or joins the one that is open, and one that differs or comes twice fails it;
the result of a closed round is written where its destination translates, nothing else of memory changes, and every contribution is
complete; an ownership register reassigned fails the open rounds of its groups.
R272, R274: the result, lane by lane, by the tree of the slots, for every operation; and the packed vectors of the `.mxr` forms.
What the completions count in the barriers of other requests is the model's `countAllPerformed`; that a row which is not due leaves the
state as it is is the model's choice (log 20). -/
def Obligations.Reductions : Prop :=
  (∀ (g : Guard) (d : SDst) (pol : Fin 8) (op : RdcOp) (len : BitVec 16) (a b e : SOp) (s : State),
    let me := s.sched.cur
    let x := valN s a
    let y := valN s b
    let z := valN s e
    let n := len.toNat
    let void := voidS (curCtx s) a || voidS (curCtx s) b || voidS (curCtx s) e
    let i := Instr.rdc g d pol op len a b e
    let unit := match op with
      | .addI32 | .addF32 | .maxI32 | .minI32 | .maxF32 | .minF32 | .and | .or | .xor => 4
      | .addBf16 => 2 | .addF64 => 8 | .mxrE4m3 | .mxrE2m1 => 256
    let align := match op with | .addF64 | .mxrE4m3 | .mxrE2m1 => 8 | _ => 4
    let legal := unit ≤ n ∧ n ≤ 256 ∧ n % unit = 0 ∧ z = bits z 0 6 + bits z 8 4 * 2 ^ 8 ∧ x % align = 0
    let own := (smGetD s.rdcown (me / 256 * 4 + me / 16 % 4) 0)
    let mine := own.getLsbD (64 + bits z 8 4) = true ∧ bits own.toNat (4 * bits z 8 4) 4 = reqPart s me
    let writes := match op with | .addBf16 => 2 * n | .mxrE4m3 | .mxrE2m1 => 256 * (bits z 0 6 + 1) | _ => n
    Spec.offC g d i s ∧
    (guardOn (curCtx s) g = true →
      (0 < n → viewOk (cur s) y n = false → Spec.stopsC i s .xlate 0xA 4 (some y)) ∧
      ((0 < n → viewOk (cur s) y n = true) →
        ((polNow s pol).space = 1 → Spec.replies g d i s void s stRefused fMODFB) ∧
        ∀ q fb, fallback false false false (polNow s pol) = (some q, fb) →
          let f := if fb then fMODFB else 0
          (¬legal → Spec.replies g d i s void s stBadarg f) ∧
          (legal → ¬mine → Spec.replies g d i s void s stRefused f) ∧
          (legal → mine → Spec.accepts g d i s void fb
            { blankReq s me (.rdc op n (bits z 0 6 + 1) (bits z 8 4) x y) q with rdEng := 0xA, wrEng := 0xA, rdBit := 5, wrBit := 5 }
            ((List.range n).map (fun j => (.spad (selfSpad (cur s) me) (y + j), .none, none, false)) ++
              (List.range writes).map fun j => (.none, .virt (x + j), none, false))
            none)))) ∧
  (∀ (n key : Nat) (v : BitVec 128) (s : State), (s.rounds.map (·.1)).Nodup →
    let r := getReq s n
    let isOpen := fun (x : Round) => x.got.length < x.n
    (∀ op len cnt grp dst src, r.kind = .rdc op len cnt grp dst src → smGet s.reqs n = some r → mayContribute s n r = true →
      ∀ own at_ rest, r.pieces = { src := .spad own at_, dst := .none, len := len } :: rest → own < 1024 →
      let group := 16 * (r.core / 256 * 4 + r.core / 16 % 4) + grp
      let slot := r.core / 64 % 4 * 16 + r.core % 16
      let bytes := mReadN (getCore s own).spad src len
      let t := setReq (setCore s own { getCore s own with readAt := some (portCycle s own) }) n { r with
        mid := true
        pieces := { src := .spad own at_, dst := .none, len := len, stage := 2 } :: rest }
      let i := exec (.reducerContribution n) s
      ((∀ q ∈ s.rounds, q.2.group = group → ¬isOpen q.2) →
        let x : Round := { group := group, n := cnt, op := op, len := len, dst := dst, part := r.part, opener := n
                           got := [(slot, (n, bytes))] }
        i = .next { t with rounds := smPut s.rounds s.nextRound x, nextRound := s.nextRound + 1 }) ∧
      (∀ k x, s.rounds.filter (fun q => decide (q.2.group = group ∧ isOpen q.2)) = [(k, x)] →
        (smGet x.got slot = none → x.n = cnt → x.op = op → x.len = len → x.dst = dst →
          i = .next { t with rounds := smPut s.rounds k { x with got := smPut x.got slot (n, bytes) } }) ∧
        (¬(smGet x.got slot = none ∧ x.n = cnt ∧ x.op = op ∧ x.len = len ∧ x.dst = dst) →
          ∃ u, i = .next u ∧ u.rounds = smDel s.rounds k ∧ u.mem = s.mem ∧
            (getReq u n).complete = true ∧ (∀ m ∈ x.got, (getReq u m.2.1).complete = true) ∧
            (r.service = false → r.bid = 0 → (getCore s r.core).blk = none → (getCore s r.core).run ≠ .fenced →
              (∀ m ∈ x.got, (getReq s m.2.1).core ≠ r.core) →
              (getCore u r.core).faults = (getCore s r.core).faults ++
                [⟨0, n, { cause := .rdcerr, engine := 0xA, va := some dst }, false⟩])))) ∧
    (∀ x, smGet s.rounds key = some x → mayWriteRound s x = false → exec (.reducerResultWrite key) s = .next s) ∧
    (∀ x, smGet s.rounds key = some x → mayWriteRound s x = true →
      ∃ u, exec (.reducerResultWrite key) s = .next (countAllPerformed u) ∧
      u.rounds = smDel s.rounds key ∧ (∀ m ∈ x.got, (getReq u m.2.1).complete = true) ∧
      (∀ m, (∀ c ∈ x.got, c.2.1 ≠ m) → getReq u m = getReq s m) ∧ u.cores = s.cores ∧
      (let o := getReq s x.opener
       let bs := roundResult x
       let room := 65536 - x.dst % 65536
       o.wrBit = 5 → bs ≠ [] →
        (bs.length ≤ room → ∀ t y, virtAccess s o 5 x.dst bs.length false = (t, .ok y) →
          ((∀ i < bs.length, ∀ die off, paKind (y.pa + i) ≠ .kiln die off) → Spec.puts s u y bs) ∧
          ((∃ die off, paKind y.pa = .kiln die off) → u.mem = s.mem)) ∧
        (room < bs.length → bs.length ≤ room + 65536 → ∀ t y, virtAccess s o 5 x.dst room false = (t, .ok y) →
          (∀ i < room, ∀ die off, paKind (y.pa + i) ≠ .kiln die off) → ∃ w, Spec.puts s w y (bs.take room) ∧
          ∀ t z, virtAccess w o 5 (x.dst + room) (bs.length - room) false = (t, .ok z) →
            (∀ i < bs.length - room, ∀ die off, paKind (z.pa + i) ≠ .kiln die off) → Spec.puts w u z (bs.drop room)))) ∧
    (smGet s.rounds key = none → exec (.reducerResultWrite key) s = .next s) ∧
    (let old := smGetD s.rdcown key 0
     let owner := fun (w : BitVec 128) (g : Nat) =>
       (w.getLsbD (64 + g), w.getLsbD (64 + g) && decide (bits w.toNat (4 * g) 4 = bits v.toNat (4 * g) 4))
     ∃ t, exec (.rdcownWrite key v) s = .next t ∧ t.rdcown = smPut s.rdcown key (BitVec.ofNat 128 (v.toNat % 2 ^ 80)) ∧ t.mem = s.mem ∧
      (∀ m x, smGet s.rounds m = some x →
        (¬isOpen x ∨ (∀ g < 16, x.group = 16 * key + g → owner old g = owner v g) → smGet t.rounds m = some x) ∧
        ∀ g < 16, x.group = 16 * key + g → isOpen x → owner old g ≠ owner v g →
          s.rounds.filter (fun q => decide (q.2.group = x.group ∧ isOpen q.2)) = [(m, x)] →
          smGet t.rounds m = none ∧ ∀ c ∈ x.got, (getReq t c.2.1).complete = true))) ∧
  (∀ (x : Round), (∀ m ∈ x.got, m.1 < 64 ∧ m.2.2.length = x.len) → (x.got.map (·.1)).Pairwise (· < ·) → x.got ≠ [] →
    let v := leNat (roundResult x)
    (x.op ≠ .mxrE4m3 → x.op ≠ .mxrE2m1 →
      let w := if x.op = .addF64 then 64 else 32
      let n := if x.op = .addBf16 then x.len / 2 else 8 * x.len / w
      let lane := fun (j : Nat) (m : Nat × List Byte) =>
        if x.op = .addBf16 then (convertF .f32 .ne false (decodeF .bf16 (bits (leNat m.2) (16 * j) 16))).1 else bits (leNat m.2) (w * j) w
      (if x.op = .addBf16 then x.len % 2 = 0 else x.len % (w / 8) = 0) →
        (roundResult x).length = n * (w / 8) ∧ ∀ j < n, ∃ y, Spec.tree (Spec.comb x.op) (fun q => (smGet x.got q).map (lane j)) 6 0 = some y ∧
          bits v (w * j) w = y % 2 ^ w) ∧
    (∀ lt, (x.op = .mxrE4m3 ∧ lt = .e4m3) ∨ (x.op = .mxrE2m1 ∧ lt = .e2m1) →
      (roundResult x).length = 256 * x.got.length ∧ ∀ (k : Nat) (m : Nat × Nat × List Byte) (b : Nat), x.got[k]? = some m → b < 4 →
        let u := leNat m.2.2
        let top := (x.got.map fun m => bits (leNat m.2.2) (8 * (128 + b)) 8).foldr max 0
        let alt := Spec.num 8 false (bits u (8 * (132 + b)) 8)
        bits v (2048 * k + 8 * (128 + b)) 8 = top ∧ bits v (2048 * k + 8 * (132 + b)) 8 = 0 ∧
        ∀ i, 32 * b ≤ i → i < 32 * b + 32 →
          let q := bits u (lt.width * i) lt.width
          let value := if lt = .e2m1 ∧ q = 8 then FVal.fin (decide (alt < 0)) alt.natAbs (-1) else decodeF lt q
          bits v (2048 * k + lt.width * i) lt.width = if top = 255 then 0 else match value with
            | .nan _ => codeNan lt
            | .inf neg => (infF lt true neg).1
            | .fin neg m e => (roundF lt .ne true neg m (e + (bits u (8 * (128 + b)) 8 : Nat) - top)).1))

/-! ## The engine at work -/

/-- R199, R200, R201, R296, R297: the bytes of a piece are taken from the virtual space and put there, and a segment lands in a scratchpad
and counts in its barrier; a request whose bytes have all performed is complete. Stated for requests of one piece between the virtual
space and a scratchpad: operand slots, requests of several pieces and notices of void bytes are left out. When each of these happens is
free within the order that the model's `srcReady`, `dstReady` and `mayLand` keep (log 7); what a row counts in the barriers of the core's
other requests is the model's `countCorePerformed`; that a row which is not due leaves the state as it is is the model's choice (log 20).
R209: an atomic performs as one step at its word, with the operation of the table, and its old value is bound for the scratchpad,
sign-extended for `i32`. -/
def Obligations.MovingBytesAndAtomics : Prop :=
  (∀ (n c a va b : Nat) (bs : List Byte) (p : Piece) (s : State),
    let r := getReq s n
    r.pieces = [p] → r.kind = .copy →
    let holds := fun (t : State) (q : Piece) => getReq t n = { r with pieces := [q] } ∧ ∀ m, m ≠ n → getReq t m = getReq s m
    (p.src = .virt va → p.dst = .spad c a → p.stage = 0 → srcReady s n r p = false → exec (.bytePerform n 0) s = .next s) ∧
    (p.src = .virt va → p.dst = .spad c a → p.stage = 0 → srcReady s n r p = true →
      ∀ t x, virtAccess s r r.rdBit va p.len true = (t, .ok x) →
      ∃ u, exec (.bytePerform n 0) s = .next (countCorePerformed r.core u) ∧ u.mem = s.mem ∧ u.cores = s.cores ∧
        holds u { p with stage := 1, buf := bytesUnder s (some x.key) x.pa p.len }) ∧
    (p.src = .spad c a → c = r.core → c < 1024 → p.dst = .virt va → p.stage = 0 → srcReady s n r p = true →
      ∃ u, exec (.bytePerform n 0) s = .next (countCorePerformed r.core u) ∧ u.mem = s.mem ∧
        (∀ m, m ≠ c → getCore u m = getCore s m) ∧ getCore u c = { getCore s c with readAt := some (portCycle s c) } ∧
        holds u { p with stage := 1, buf := mReadN (getCore s c).spad a p.len }) ∧
    (p.dst = .virt va → p.stage = 1 → dstReady s n r [0] 0 = false → exec (.bytePerform n 0) s = .next s) ∧
    (p.dst = .virt va → p.stage = 1 → dstReady s n r [0] 0 = true → p.buf.length = p.len → 0 < p.len →
      ∀ t x, virtAccess s r r.wrBit va p.len false = (t, .ok x) → x.pa % 64 + p.len ≤ 64 →
      (∀ i < p.len, ∀ die off, paKind (x.pa + i) ≠ .kiln die off) →
      ∃ u, exec (.bytePerform n 0) s = .next (countCorePerformed r.core u) ∧ Spec.puts s u x p.buf ∧ u.cores = s.cores ∧
        holds u { p with stage := 2, buf := [] }) ∧
    (p.dst = .spad c a → c < 1024 → p.stage = 1 → p.buf = bs → bs.length = p.len →
      let k := getCore s c
      let land := exec (.copySegmentLanding n 0) s
      (k.portAt = some (portCycle s c) ∨ k.readAt = some (portCycle s c) ∨ mayLand s n r 0 = false → land = .next s) ∧
      (mayLand s n r 0 = true → (∀ x, p.bar = some x → x.1 = c) →
        ∃ u, land = .next (countCorePerformed r.core u) ∧ holds u { p with stage := 2, buf := [] } ∧
        ((∀ x, p.bar = some x → spadBad k (0x3FE00 + 8 * x.2) 8 = false) → u.mem = s.mem) ∧
        (∀ m, m ≠ c → getCore u m = getCore s m) ∧ (getCore u c).portAt = some (portCycle s c) ∧
        (p.bar = none → (getCore u c).spad = mWriteN k.spad a bs ∧ (getCore u c).ctx = k.ctx ∧ (getCore u c).faults = k.faults) ∧
        (p.bar = some (c, b) → b < 64 → a + p.len ≤ 0x3FE00 → p.voidn = false → spadBad k (0x3FE00 + 8 * b) 8 = true →
          mReadN (getCore u c).spad (0x3FE00 + 8 * b) 8 = mReadN k.spad (0x3FE00 + 8 * b) 8 ∧
          (getCore u c).faults = k.faults ++
            [⟨3, n, { cause := .dataerr, engine := barEngine r p, reason := 13, va := some (0x3FE00 + 8 * b) }, true⟩]) ∧
        (p.bar = some (c, b) → b < 64 → a + p.len ≤ 0x3FE00 → p.voidn = false → spadBad k (0x3FE00 + 8 * b) 8 = false →
          let object := fun (k : Core) => leNat (mReadN k.spad (0x3FE00 + 8 * b) 8)
          let old := object k
          let new := object (getCore u c)
          mReadN (getCore u c).spad a p.len = bs ∧ bits new 28 36 = bits old 28 36 ∧ new.testBit 26 = old.testBit 26 ∧
          (old.testBit 25 = true → p.len < bits old 0 24 →
            bits new 0 24 = bits old 0 24 - p.len ∧ bits new 24 4 = bits old 24 4 ∧ (getCore u c).faults = k.faults) ∧
          (old.testBit 25 = true → p.len = bits old 0 24 → bits new 0 24 = 0 ∧ new.testBit 25 = false ∧
            new.testBit 24 = !old.testBit 24 ∧ new.testBit 27 = old.testBit 27 ∧ (getCore u c).faults = k.faults) ∧
          (old.testBit 25 = false ∨ bits old 0 24 < p.len → bits new 0 24 = 0 ∧ new.testBit 25 = false ∧ new.testBit 27 = true ∧
            new.testBit 24 = old.testBit 24 ∧ ∃ e, (getCore u c).faults = k.faults ++ [e] ∧ e.stop.cause = .barovf ∧
              e.stop.smask = 0 ∧ e.stop.reason = 0 ∧ e.stop.va = some (0x3FE00 + 8 * b))))) ∧
    (let end_ := exec (.requestComplete n) s
     (p.stage = 2 → r.complete = false → r.told = false → end_ = .next (countCorePerformed r.core
       (setReq s n { r with complete := true, pieces := [{ p with buf := [] }] }))) ∧
     (p.stage ≠ 2 ∨ r.complete = true ∨ r.told = true → end_ = .next s))) ∧
  (∀ (n opc ea z own : Nat) (sz : Sz) (v : Word) (s t : State) (x : Xlat) (p0 : Piece) (ps : List Piece),
    let r := getReq s n
    let w := match sz with | .i32 | .u32 => 4 | .i64 | .u64 => 8
    r.kind = .atomic opc sz ea v z → r.pieces = p0 :: ps → ps ≠ [] → (∀ p ∈ ps, ∃ a, p.dst = .spad own a) → own < 1024 → opc < 8 →
    v.toNat < 2 ^ (8 * w) →
    mayAtomic s n r = true → virtAccess s r r.wrBit ea w true = (t, .ok x) →
    (∀ i < w, ∀ die off, paKind (x.pa + i) ≠ .kiln die off) → x.pa % w = 0 →
    let old := leNat (bytesUnder s (some x.key) x.pa w)
    let y := v.toNat
    let swap := leNat (mReadN (getCore s own).spad z w)
    let num := fun (q : Nat) => match sz with
      | .i32 => ((BitVec.ofNat 32 q).toInt : Int)
      | .i64 => (BitVec.ofNat 64 q).toInt
      | .u32 | .u64 => q
    let new := match opc with
      | 0 => (old + y) % 2 ^ (8 * w)
      | 1 => if num y < num old then y else old
      | 2 => if num old < num y then y else old
      | 3 => Nat.land old y
      | 4 => Nat.lor old y
      | 5 => Nat.xor old y
      | 6 => y
      | _ => if old = y then swap else old
    let back := leBytes 8 (match sz with | .i32 => ((BitVec.ofNat 32 old).signExtend 64).toNat | _ => old)
    ∃ u, exec (.atomicPerform n) s = .next (countCorePerformed r.core u) ∧ Spec.puts s u x (leBytes w new) ∧
      (∀ m, m ≠ own ∨ opc ≠ 7 → getCore u m = getCore s m) ∧
      (opc = 7 → getCore u own = { getCore s own with readAt := some (portCycle s own) }) ∧
      getReq u n = { r with
        mid := true
        pieces := { p0 with stage := 2 } :: ps.map fun p => { p with
          stage := 1
          buf := match p.dst with | .spad _ a => (back.drop (a - z)).take p.len | _ => [] } })

/-- R195, R197, R220, R227, R231: a fault reported to the core of its request, a broken promise, a walk that brings a leaf in, and the
fetches of a code line and of a metadata record. Whether a request has performed at its scope is the model's `reqAt` (log 19); that a
row which is not due leaves the state as it is is the model's choice (log 20). -/
def Obligations.FaultsAndFetches : Prop :=
  ∀ (n core line rec_ cl part va : Nat) (s : State),
    let r := getReq s n
    let k := getCore s core
    let report := exec (.tweFaultReport n) s
    (reqFault s r = none → report = .next s) ∧
    (∀ e, reqFault s r = some e → r.told = false → r.kind = .copy → e.cause ≠ .dataerr →
      (∀ x ∈ s.rounds, ∀ c ∈ x.2.got, c.2.1 ≠ n) →
      ∃ u, report = .next u ∧ (getReq u n).told = true ∧ (getReq u n).complete = r.complete ∧ u.mem = s.mem ∧
        (∀ m, m ≠ n → getReq u m = getReq s m) ∧ (∀ m, m ≠ r.core → getCore u m = getCore s m) ∧
        (∀ b, (getCore s r.core).blk = some b → r.service = false → b.bid = r.bid → b.exited = false →
          (getCore s r.core).run ≠ .fenced →
          getCore u r.core = { getCore s r.core with faults := (getCore s r.core).faults ++ [⟨0, n, e, false⟩] })) ∧
    (let mine := fun (q : Req) => q.core = core ∧ q.service = k.svc.isSome ∧ q.bid = reqBid k ∧ q.told = false ∧ q.complete = false
     let late := fun (q : Req) => ∃ t, q.promise = some t ∧ t ≤ coreTick s core
     ((∀ q ∈ s.reqs, mine q.2 → late q.2 → reqAt s q.1 q.2 q.2.scope = true) → exec (.promise core) s = .next s) ∧
     ((∃ q ∈ s.reqs, mine q.2 ∧ late q.2 ∧ reqAt s q.1 q.2 q.2.scope = false) → (∀ q ∈ s.reqs, reqFault s q.2 = none) →
       exec (.promise core) s = .next (takeStop core { cause := .promise } s))) ∧
    (let fill := exec (.tableWalk cl part va) s
     let root := partRoot (getPart s part)
     (2 ^ 55 ≤ va → fill = .next s) ∧
     (va < 2 ^ 55 → ∀ e, walk s va [0, 1, 2] root = .error e → ∃ chans, fill = .next { s with chans := chans }) ∧
     (va < 2 ^ 55 → ∀ lvl e, walk s va [0, 1, 2] root = .ok (lvl, e) → (∀ bit < 8, leafCheck s part bit lvl e va ≠ none) →
       ∃ chans, fill = .next { s with chans := chans }) ∧
     (va < 2 ^ 55 → ∀ lvl e, walk s va [0, 1, 2] root = .ok (lvl, e) → (∃ bit < 8, leafCheck s part bit lvl e va = none) →
       ∃ chans tlb, fill = .next (setTwe { s with chans := chans } cl { getTwe s cl with tlb := tlb }) ∧
         tlb.length ≤ max 2048 (getTwe s cl).tlb.length ∧
         ((getTwe s cl).tlb.length ≤ 2048 → ∀ l ∈ (getTwe s cl).tlb, entPin l.e.toNat = true →
           l ∈ tlb ∨ (l.part = part ∧ l.va = va - va % leafSize lvl ∧ l.lvl = lvl)) ∧
         (∀ l ∈ tlb, l ∈ (getTwe s cl).tlb ∨ l = ⟨part, va - va % leafSize lvl, lvl, BitVec.ofNat 64 e⟩) ∧
         ((getTwe s cl).tlb.length < 2048 →
           tlb.head? = some ⟨part, va - va % leafSize lvl, lvl, BitVec.ofNat 64 e⟩))) ∧
    (let fetch := exec (.codeLineFetch core line) s
     k.code.length < 128 → ∀ (t : State) (q : Except Nat (List Byte)), readLine s core line = (t, q) →
       ∃ m : SMap CodeLine, fetch = .next (setCore t core { (match q with
         | .ok _ => Spec.covers .code (256 * line) 256 (getCore t core)
         | .error _ => getCore t core) with code := m }) ∧
      smGet m line = some (match q with
        | .ok bs => .bytes bs
        | .error e => .bad (reasonFetch e) e)) ∧
    (let fetch := exec (.metadataFetch core rec_) s
     ∀ (t : State) (q : Except (Nat × Nat) (List Byte)), readMeta s core rec_ = (t, q) →
       ∃ m : SMap CodeLine, fetch = .next (setCore t core { Spec.covers .metas (1024 * rec_) 1024 (getCore t core) with metas := m }) ∧
      smGet m rec_ = some (match q with
        | .ok bs => .bytes bs
        | .error e => .bad (reasonFetch e.1) e.1))

namespace Sys2Proof.Spec

/-- R279, R35, R37, R148, R150, R237: a block of an instance's kernel stands on a core as it is released. That a block of partition 0 has
kernel privilege is the model's choice (log 13). -/
def started (s t : State) (c inst kernel : Nat) (entry : Pc) : Prop :=
  let i := getInst s inst
  let kn := i.kernels.getD kernel {}
  let k := getCore t c
  let entries := fun (n v : Nat) => (List.range n).foldr (fun j m => v / 2 ^ (16 * j) % 2 ^ 10 * 2 ^ (16 * j) + m) 0
  t.mem = s.mem ∧ t.reqs = s.reqs ∧
  k.run = .running ∧ k.mx = {} ∧ k.spad = kn.scratch ∧ k.dict = kn.dict ∧ k.codeBase = kn.origin ∧ k.badWords = [] ∧
  k.ctx = { pc := entry, mempol := BitVec.ofNat 16 (entries 1 i.mempol.toNat)
            poltabl := BitVec.ofNat 64 (entries 4 i.poltabl.toNat), poltabh := BitVec.ofNat 48 (entries 3 i.poltabh.toNat)
            traprec := BitVec.ofNat 55 (i.areas.getD (i.cores.idxOf c) 0 + 0xBF000), kern := i.part == 0 } ∧
  k.deadline = (if (getCore s c).dlSet then (getCore s c).deadline else (getCore s c).dlreload) ∧
  k.svreq = (getCore s c).svreq ∧ k.dlen = (getCore s c).dlen ∧ k.dbghold = (getCore s c).dbghold

/-- R282: what becomes of the job of an instance when an entry or an object of it is over: it completes 2 cycles later, by the clock of
`region`, once every entry is released or skipped and every other object of the instance has completed. -/
def jobEnds (inst region : Nat) (u t : State) : Prop :=
  let i := getInst u inst
  let o := getObj u i.job
  let x := getRegion u region
  let last := o.live = true ∧ o.gen = i.jobGen ∧ o.ending = false ∧
    (∀ r ∈ i.regions, ∀ e ∈ (getRegion u r).table ++ (getRegion u r).lean, e.done ≠ 0) ∧
    (∀ c ∈ u.cores, ∀ b, c.2.blk = some b → b.inst ≠ inst) ∧ (∀ v ∈ u.saved, v.blk.inst ≠ inst) ∧
    ∀ q ∈ u.objs, q.2.live = true → q.2.inst = inst → keyLevel q.1 ∉ [1, 2, 3]
  (last → t = setRegion (setObj u i.job { o with ending := true }) region
    { x with timers := x.timers ++ [(x.clk + 2, .jobComplete i.job)] }) ∧
  (¬last → t = u)

end Sys2Proof.Spec

/-! ## Regions and crossings -/

/-- R243, R245 to R249, R236, R330: an edge of a source as a locked region captures it, with the rate that the clock then has, its loss,
stop and restart of the region, the window that closes without an edge, the presentation of a slot, also under a clamp, and what a frame
boundary does: the event `SRCOVER`, the phases of R282 that end and the job. How the clock follows its source within the bounds and that a
source's frames are counted from the edge with which it returned are the model's reading (log 8), and so are the cases in which a region
is under a clamp, and an edge in the first 16 only by its window (log 41). That a row which is not due leaves the state as it is is the
model's choice (log 20). -/
def Obligations.SourcesAndFrames : Prop :=
  ∀ (src region : Nat) (s : State),
    let x := getRegion s region
    let y := getSource s src
    let ls := regionLatches s region
    let latch := fun (t : State) (l : Nat) => smGetD t.latches l {}
    let event := fun (code value : Nat) (u : State) => eventRecord x.part code region x.frame value u
    let oneEach := (s.clusterRegion.map (·.1)).Nodup
    (0 < x.d → x.d ≤ x.m → ∀ off n, slotBefore x off = some n ↔
      n / x.d = x.frame ∧ n / x.d * x.m + n % x.d * x.m / x.d + off = x.frame * x.m + x.cyf) ∧
    (∀ samples,
      let lane := streamLane s src 0
      let nominal := x.d * (sourcePeriod s x.src).1 * clockScale
      let edge := exec (.sourceEdge src samples) s
      let active := src ≠ 0 ∧ y.sen = true ∧ lane ≠ none ∧ regionsOf s src = [region] ∧ x.src = src
      (src = 0 ∨ y.sen = false ∨ lane = none → edge = .next s) ∧
      (active → x.st = .locked → ((∀ b, y.times[15]? = some b → x.goodN < 16) → x.clamp = false) →
        (∀ b, y.times[15]? = some b → 16 ≤ x.goodN →
          1600 * y.pnum ≤ (s.tick - b) * 101 * y.pden ∧ (s.tick - b) * 9 * y.pden ≤ 160 * y.pnum) →
        ∃ t step, edge = .next t ∧ 100 * nominal ≤ 101 * step ∧ 9 * step ≤ 10 * nominal ∧
          getSource t src = { y with times := (s.tick :: y.times).take 17 } ∧ t.mem = s.mem ∧ t.cores = s.cores ∧
          (∀ l, l ∉ ls → latch t l = latch s l) ∧
          (slotHere x = none →
            t.latches = s.latches ∧ getRegion t region = { x with goodN := x.goodN + 1, step := step, clamp := false }) ∧
          (∀ n, slotHere x = some n →
            getRegion t region = { x with goodN := x.goodN + 1, step := step, clamp := false, edges := n :: x.edges.take 7 } ∧
            ∀ l ∈ ls, (∀ v, samples = [(l % 4, v)] →
              latch t l = { latch s l with cap := (laneSample s src (l % 4) v, n) :: (latch s l).cap.filter fun c => c.2 != n }) ∧
              ((∀ q ∈ samples, q.1 ≠ l % 4) → latch t l = latch s l))) ∧
      (active → x.st = .locked → ∀ b, y.times[15]? = some b → 16 ≤ x.goodN → 160 * y.pnum < (s.tick - b) * 9 * y.pden →
        ∃ t, edge = .next t ∧ t.latches = s.latches ∧ getRegion t region =
          { x with st := .holdover, declT := s.tick, goodT := none, goodN := 0, relock := false }) ∧
      (active → x.st = .locked → oneEach → ((∀ b, y.times[15]? = some b → x.goodN < 16) → x.clamp = true) →
        (∀ b, y.times[15]? = some b → 16 ≤ x.goodN →
          (s.tick - b) * 101 * y.pden < 1600 * y.pnum ∧ (s.tick - b) * 9 * y.pden ≤ 160 * y.pnum) →
        let n := if x.m = 0 then 0 else x.frame * x.d + ((x.cyf + 1) * x.d - 1) / x.m
        let over_ := ∃ l ∈ ls, l % 4 = 0 ∧ (latch s l).cap ≠ []
        ∃ t step, edge = .next t ∧ 101 * step = 100 * nominal ∧ t.mem = s.mem ∧ t.cores = s.cores ∧
          getRegion t region = { x with
            goodN := x.goodN + 1
            step := step
            clamp := true
            edges := n :: x.edges.take 7
            overN := if over_ then x.overN + 1 else x.overN
            losts := if over_ then (x.losts + 1) % 2 ^ 32 else x.losts } ∧
          (∀ l, l ∉ ls → latch t l = latch s l) ∧
          ∀ l ∈ ls, (∀ v, samples = [(l % 4, v)] → latch t l = { latch s l with
              cap := [(laneSample s src (l % 4) v, n)]
              lost := if (latch s l).cap = [] then (latch s l).lost else ((latch s l).lost + 1) % 2 ^ 32 }) ∧
            ((∀ q ∈ samples, q.1 ≠ l % 4) → latch t l = latch s l)) ∧
      (active → x.st = .stopped → ∀ g last, x.goodT = some g → y.times.head? = some last →
        let n := if inLock y (s.tick - last) = true then x.goodN + 1 else 1
        let good := if inLock y (s.tick - last) = true then g else s.tick
        let restarts := good + 2000 < s.tick ∧ x.stopT < s.tick ∧ (n - 1) % max 1 x.d = 0
        ∃ t, edge = .next t ∧ t.mem = s.mem ∧ t.cores = s.cores ∧ (∀ l, l ∉ ls → latch t l = latch s l) ∧
          (¬restarts → t.sched = s.sched ∧ t.latches = s.latches ∧
            getRegion t region = { x with relock := true, goodT := some good, goodN := n }) ∧
          (restarts → t.sched = { s.sched with tasks := Task.ev (.regionRestart region) :: s.sched.tasks } ∧
            getRegion t region =
              { x with relock := true, goodT := some good, goodN := n, clamp := false, edges := [x.frame * x.d] } ∧
            ∀ l ∈ ls, (∀ v, samples = [(l % 4, v)] →
              latch t l = { latch s l with cap := [(laneSample s src (l % 4) v, x.frame * x.d)] }) ∧
              ((∀ q ∈ samples, q.1 ≠ l % 4) → latch t l = { latch s l with cap := [] })))) ∧
    (∀ last, regionsOf s src = [region] → x.src = src → src ≠ 0 → x.st = .locked → y.times.head? = some last →
      (s.tick - last) * y.pden < (if x.losn = 0 then 4 else x.losn) * y.pnum → exec (.sourceLoss src) s = .next s) ∧
    (∀ last, regionsOf s src = [region] → x.src = src → src ≠ 0 → x.st = .locked → y.times.head? = some last →
      (if x.losn = 0 then 4 else x.losn) * y.pnum ≤ (s.tick - last) * y.pden → y.pnum ≠ 0 → y.pden ≠ 0 →
      exec (.sourceLoss src) s = .next (setRegion s region
        { x with st := .holdover, declT := s.tick, goodT := none, goodN := 0, relock := false })) ∧
    (¬(x.st = .holdover ∧ x.cyf = 0) → exec (.regionStop region) s = .next s) ∧
    (x.st = .holdover → x.cyf = 0 → ∃ u, exec (.regionStop region) s = .next (event 0x41 x.declT u) ∧
      u = { setRegion s region { x with st := .stopped, stopT := s.tick, edges := [] } with xings := u.xings, cores := u.cores } ∧
      (∀ c, getCore u c = if c / 16 ∈ regionClusters s region ∧ (getCore s c).saveDue = true ∧ 1 < (getCore s c).snapLeft
        then { getCore s c with snapLeft := 1 } else getCore s c) ∧
      ∀ c, smGet u.xings c = (smGet s.xings c).map fun z => if c ∈ regionClusters s region then { z with upstop := true } else z) ∧
    (let due := x.st = .stopped ∧ x.stopT < s.tick ∧ (x.goodN - 1) % max 1 x.d = 0 ∧ ∃ g, x.goodT = some g ∧ g + 2000 < s.tick
     (¬due → exec (.regionRestart region) s = .next s) ∧
     (due → ∃ u, exec (.regionRestart region) s = .next (event 0x44 (s.tick - x.stopT) u) ∧
       getRegion u region = { x with st := .locked, relock := false, goodT := none, num := s.tick * x.den, step := 0 } ∧
       u.cores = s.cores ∧ (∀ l, latch u l = if l ∈ ls then { latch s l with stale := true } else latch s l) ∧
       ∀ c, smGet u.xings c = (smGet s.xings c).map fun z =>
         if c ∈ regionClusters s region then { z with upstop := false, fresh := true }
         else if z.down = region then { z with fresh := true } else z)) ∧
    (let close := exec (.slotWindowClose region) s
     let off := x.m / (4 * x.d)
     (slotBefore x off = none → close = .next s) ∧
     (∀ n, slotBefore x off = some n →
       (x.src = 0 ∨ (x.st ≠ .locked ∧ x.st ≠ .holdover) ∨ (x.st = .locked ∧ x.clamp = true) ∨ n ∈ x.edges) → close = .next s) ∧
     (∀ n, slotBefore x off = some n → x.src ≠ 0 → (x.st = .locked ∧ x.clamp = false) ∨ x.st = .holdover → n ∉ x.edges → oneEach →
       ∃ u, close = .next (if x.st = .locked then event 0x43 n u else u) ∧ u = { s with latches := u.latches } ∧
         ∀ l, latch u l = if l ∈ ls then { latch s l with miss := ((latch s l).miss + 1) % 2 ^ 32 } else latch s l)) ∧
    (let shows := exec (.latchPresentation region) s
     (slotBefore x x.ioff = none ∨ x.src = 0 → shows = .next s) ∧
     (∀ n, slotBefore x x.ioff = some n → x.src ≠ 0 → x.clamp = true → oneEach →
       ∃ u, shows = .next u ∧ u = { s with latches := u.latches } ∧ (∀ l, l ∉ ls → latch u l = latch s l) ∧
         ∀ l ∈ ls, ((latch s l).cap = [] → latch u l = { latch s l with stale := true }) ∧
          ∀ v m rest, (latch s l).cap = (v, m) :: rest →
            latch u l = { latch s l with value := v, stale := false, snp := m % 2 ^ 32, cap := [] }) ∧
     (∀ n, slotBefore x x.ioff = some n → x.src ≠ 0 → x.clamp = false → oneEach →
       ∃ u, shows = .next u ∧ u = { s with latches := u.latches } ∧ (∀ l, l ∉ ls → latch u l = latch s l) ∧
         ∀ l ∈ ls,
          let rest := (latch s l).cap.filter fun c => decide (n < c.2)
          ((∀ c ∈ (latch s l).cap, c.2 ≠ n) → latch u l = { latch s l with stale := true, cap := rest }) ∧
          (∀ v, (latch s l).cap.find? (fun c => c.2 == n) = some (v, n) →
            latch u l = { latch s l with value := v, stale := false, snp := n % 2 ^ 32, cap := rest }))) ∧
    ((s.objs.map (·.1)).Nodup →
      let p := getPart s x.part
      let need := (getInst s (x.inst.getD 0)).energy
      let over_ := fun (e : TEntry) => if e.done = 0 ∧ e.frame < x.frame then { e with done := 2 } else e
      let ends := fun (q : Nat × Obj) => keyLevel q.1 = 3 ∧ q.2.region = region ∧ q.2.live = true ∧ q.2.ending = false ∧
        q.2.hi ≤ x.frame ∧ q.2.members = []
      let told := if x.overN = 0 then s else eventRecord x.part 0x42 region (x.frame - 1) x.overN s
      ∃ u t, exec (.frameBoundary region) s = .next (if x.st = .holdover
          then { t with sched := { t.sched with tasks := Task.ev (.regionStop region) :: t.sched.tasks } } else t) ∧
        Spec.jobEnds (x.inst.getD 0) region u t ∧
        u = { told with cores := u.cores, regions := u.regions, objs := u.objs } ∧
        getRegion u region = { x with
          newFrame := false
          overN := 0
          leanOn := x.hasLean && (decide (p.acct < p.low) || (x.leanOn && decide (p.acct < (p.low + (need + 1023) / 1024 : Nat))))
          table := x.table.map over_
          lean := x.lean.map over_
          timers := x.timers ++ (s.objs.filter fun q => decide (ends q)).map fun q => (x.clk + 2, .phaseComplete q.1) } ∧
        (∀ r, r ≠ region → getRegion u r = getRegion s r) ∧
        (∀ q ∈ s.objs, getObj u q.1 = if ends q then { q.2 with ending := true } else q.2) ∧
        ∀ c, getCore u c = if c ∈ regionCores s region then { getCore s c with svused := 0 } else getCore s c)

/-- R254 to R258, R279, R282 to R284: a crossing's history and its computation, with integer lanes spelled out; the release of a timetable
entry, a stall from its start to the realignment, and the job whose last entry is skipped. When the tracking term is computed is the model's reading (log 43), as is a history
after a realignment (log 42), the kernel privilege of a block of partition 0 (log 13), and the frame in the record of a realignment that
debugging holds back (log 51); that a row which is not due leaves the state as it is is the model's choice (log 20). Left out: lanes of
binary32, a crossing that ramps to zero, its first slot, releases on the conductor's core, and lean tables. -/
def Obligations.CrossingsAndStalls : Prop :=
  ∀ (xing region : Nat) (s : State),
    let up := getRegion s (smGetD s.clusterRegion xing (xing / 16 * 8))
    let z := getXing s xing
    let down := getRegion s z.down
    let x := getRegion s region
    let nearest := fun (num : Int) (den : Nat) (q : Int) =>
      2 * |q * den - num| ≤ den ∧ (2 * |q * den - num| = den → q % 2 = 0)
    let wrap48 := fun (v : Int) => (v % 2 ^ 48).toNat
    let slot := if up.m = 0 then 0 else up.frame * up.d + ((up.cyf + 1) * up.d - 1) / up.m
    let hist := fun (h : Crossing) (l n : Nat) => smGetD h.hist (65536 * l + n % 65536) 0
    let inst := x.inst.getD 0
    (z.run = false ∨ z.slotS = slot → exec (.historySlotAdvance xing) s = .next s) ∧
    (z.run = true → z.slotS + 1 = slot → ∃ t, exec (.historySlotAdvance xing) s = .next (setXing s xing t) ∧
      t = { z with hist := t.hist, slotS := slot } ∧
      ∀ l < 8, hist t l slot = hist z l z.slotS ∧
        ∀ k, 1 ≤ k → k < 18 → hist t l (slot + 65536 - k) = hist z l (slot + 65536 - k)) ∧
    (let run := exec (.crossingCompute xing) s
     let go := z.run = true ∧ down.stalled = false ∧ down.st ≠ .stopped ∧ down.st ≠ .idle ∧ slotBefore down z.xdoff ≠ none
     let later := ¬(slotBefore down z.xdoff = some (down.frame * down.d) ∧ 0 < down.frame)
     let pos : Int := (up.began * up.d * 2 ^ 32 : Nat)
     let sN : Nat := up.began * up.d / up.m
     (¬go → run = .next s) ∧
     (go → up.st = .stopped → ∃ t, run = .next (setXing s xing t) ∧ t.stale = 0xFF ∧ t.held = (z.held + 1) % 2 ^ 32 ∧
       t.heldK = z.heldK + 1 ∧ t.upstop = true ∧ t.p = z.p ∧ t.last = z.last ∧
       (z.xstoppol = 0 → t.out = z.last ∧ t.marks = z.lastMk) ∧ (z.xstoppol = 1 → t.out = List.replicate 8 0 ∧ t.marks = 0)) ∧
     (go → up.st ≠ .stopped → z.fresh = true → 0 < up.m → ∃ (q : Int) (t : Crossing), run = .next (setXing s xing t) ∧
       nearest (pos - z.xlag * up.m) up.m q ∧ t.p = wrap48 (wrap48 q + z.xstep) ∧ t.fresh = false ∧ t.xadj = 0) ∧
     (go → up.st ≠ .stopped → z.fresh = false → later →
       let n : Nat := z.p / 2 ^ 32
       let behind : Int := ((sN : Int) - 1 - n) % 65536
       ∃ t, run = .next (setXing s xing t) ∧ t.p = wrap48 (z.p + z.xstep + z.xadj) ∧ t.xadj = z.xadj ∧ t.slast = sN % 2 ^ 32 ∧
        t.hist = z.hist ∧
        ((15 - z.xntap : Nat) < behind → t.pherr = true ∧ t.stale = 0xFF ∧ t.held = (z.held + 1) % 2 ^ 32 ∧ t.out = z.out) ∧
        (behind ≤ (15 - z.xntap : Nat) → t.stale = 0 ∧ t.held = z.held ∧ t.heldK = 0 ∧ t.pherr = z.pherr ∧ t.last = t.out ∧
          t.out.length = 8 ∧
          ∀ l < 8, z.xfmt.getD l 0 < 2 →
            let w := if z.xfmt.getD l 0 = 0 then 16 else 32
            let phi : Nat := z.p / 2 ^ 28 % 16
            let sample := fun (i : Nat) => (smGetD z.hist (65536 * l + (((n : Int) - (i : Nat)) % (65536 : Int)).toNat) 0).toNat
            let sum : Int := ((List.range (z.xntap + 1)).map fun i =>
              (smGetD z.xw (8 * phi + i) 0).toInt * (BitVec.ofNat w (sample i)).toInt).sum
            ∃ r : Int, nearest sum (2 ^ 14) r ∧
              t.out.getD l 0 = BitVec.ofNat 32 (BitVec.ofInt w (max (-(2 ^ (w - 1))) (min r (2 ^ (w - 1) - 1)))).toNat))) ∧
    (let release := exec (.timetableRelease region) s
     let dueNow := fun (e : TEntry) => e.done = 0 ∧ e.frame = x.frame ∧ e.cyf = x.cyf
     let free := fun (e : TEntry) => (getCore s e.core).blk = none ∧ (getCore s e.core).run = .idle
     x.leanOn = false →
      ((∃ e ∈ x.table, dueNow e ∧ ¬free e) → release = .next (setRegion s region { x with stalled := true, stallN := 1 })) ∧
      (∀ e, x.table.filter (fun e => decide (dueNow e)) = [e] → free e →
        (getInst s (x.inst.getD 0)).cores.head? ≠ some e.core → ∃ t, release = .next t ∧
          (∀ c, c ≠ e.core → getCore t c = getCore s c) ∧
          getRegion t region = { x with table := x.table.map fun y => if y = e then { y with done := 1 } else y } ∧
          Spec.started s t e.core (x.inst.getD 0) e.kernel e.entry ∧
          ∃ b, (getCore t e.core).blk = some b ∧ b.exited = false ∧ b.entry = e.entry ∧ b.budget = e.budget ∧ b.conductor = false ∧
            b.launch = none ∧ b.gen = (getCore s e.core).gen + 1) ∧
      (x.stalled = false ∨ x.relNext = false → exec (.stallEndRelease region) s = .next s) ∧
      (x.stalled = true → x.relNext = true → (∀ e ∈ x.table, dueNow e → free e) →
        exec (.stallEndRelease region) s = exec (.timetableRelease region)
          (setRegion s region { x with stalled := false, stallN := 0, relNext := false, slipDue := true })) ∧
      (x.stalled = false ∨ x.stallN < x.m → exec (.entrySkip region) s = .next s) ∧
      (x.stalled = true → x.m ≤ x.stallN →
        let late := fun (e : TEntry) => dueNow e ∧ ¬free e
        let v := setRegion s region { x with
          table := x.table.map fun e => if late e then { e with done := 2 } else e
          skipE := x.skipE + x.table.countP (fun e => decide (late e))
          stalled := false
          stallN := 0
          relNext := false
          slipDue := true }
        ∃ u t, exec (.entrySkip region) s = .next t ∧ Spec.jobEnds inst region u t ∧ exec (.timetableRelease region) v = .next u ∧
          ((∀ e ∈ x.table, dueNow e → ¬free e) → u = v)) ∧
      (let slip := exec (.slip region) s
       let f := x.srcTick / x.m
       let skipf := if x.cyf = 0 then f - x.frame else f - x.frame - 1
       let cut := if x.cyf = 0 then 0 else x.m - x.cyf
       let gone := fun (e : TEntry) => e.done = 0 ∧ x.frame * x.m + x.cyf ≤ e.frame * x.m + e.cyf ∧ e.frame < f
       let skipped := x.skipE + x.table.countP fun e => decide (gone e)
       let value := skipf % 2 ^ 32 + cut % 2 ^ 24 * 2 ^ 32 + min skipped 255 * 2 ^ 56
       let now := x.slipDue = true ∧ x.stalled = false ∧ x.m ≠ 0 ∧ x.srcTick % x.m = 0
       let debug := ∃ c ∈ regionCores s region, (getCore s c).dbghold = true ∨
         ∃ q ∈ s.cores, q.2.dbghold = true ∧ ∃ p, ownerPart s c = some p ∧ ownerPart s q.1 = some p
       (¬now → slip = .next s) ∧
       (now → debug →
         slip = .next (eventRecord x.part 0x40 region x.frame value (setRegion s region { x with slipDue := false, skipE := 0 }))) ∧
       (now → ¬debug →
         ∃ u t, slip = .next t ∧ Spec.jobEnds inst region (eventRecord x.part 0x40 region f value u) t ∧
           u = { setRegion s region { x with
             table := x.table.map fun e => if gone e then { e with done := 2 } else e
             slipDue := false
             skipE := 0
             frame := f
             cyf := 0
             newFrame := true } with xings := u.xings } ∧
           ∀ c, smGet u.xings c = (smGet s.xings c).map fun z =>
             if c ∈ regionClusters s region ∨ z.down = region then { z with fresh := true } else z)))

/-! ## Objects, watchdog, re-execution -/

/-- R281 to R285, R279, R289, R293 to R295: launches as they are released, every block of one in one cycle, triggers and units as they are
counted, the counters above them, the completions, the three steps of the watchdog, and a block that runs again. The model's readings: a
promise that has passed before its request performs does not count, and the watchdog's limits run from the release in ticks (log 6); a
launch that is due while one of its cores holds a block stays unreleased, and a block that is to run again and whose core another block has
by then is killed, with a record `WDKILL` (log 40); the core of a re-execution is reserved until its release (log 37); when a request has
performed is `reqAt` (log 19); a row which is not due leaves the state as it is (log 20). Stated of the watchdog for launches with no saved
context. -/
def Obligations.CompletionAndWatchdog : Prop :=
  ∀ (key core : Nat) (s : State),
    let o := getObj s key
    let x := getRegion s o.region
    let tick := regTick x
    let k := getCore s core
    let finished := { o with live := false, cancelled := o.killing, killing := false, ending := false }
    let alone := ∀ v ∈ s.saved, v.core = core → v.blk.exited = false
    let performed := fun (bid upto tick : Nat) => (∀ q ∈ s.reqs, q.2.bid = bid → q.2.service = false →
      (∀ cl n k, q.2.kind ≠ .step cl n k) → q.1 < upto → reqAt s q.1 q.2 3 = true ∧ ∀ p, q.2.promise = some p → p ≤ tick) ∧
      ∀ q ∈ s.tlbis, q.2.bid = bid → upto ≤ q.1
    let counted := fun (b : Block) (upto : Nat) => performed b.bid upto (coreTick s core)
    let timed := fun (t : State) (e : Event) => ∃ u, (getRegion t o.region).timers = x.timers ++ (x.clk + 2, e) :: u
    (let release := exec (.launchRelease key) s
     let ready := o.live = true ∧ o.released = false ∧ o.units ≠ [] ∧ o.due ≤ tick ∧ o.held = false ∧ o.predWait = false ∧
       (∀ p, o.predT = some p → p + 4 ≤ tick) ∧ performed o.after.1 o.after.2 tick ∧
       (∀ q ∈ s.reqs, q.2.bid = o.after.1 → q.2.service = false → (∀ cl n k, q.2.kind ≠ .step cl n k) → q.1 < o.after.2 →
         q.2.promise ≠ some tick) ∧
       ∀ c ∈ o.cores, (getCore s c).blk = none ∧ (getCore s c).run = .idle
     (¬ready → release = .next s) ∧
     (ready → o.cores.Nodup → ∃ t, release = .next t ∧ (∀ m, m ∉ o.cores → getCore t m = getCore s m) ∧
       getObj t key = { o with released := true, wdTick := tick } ∧ ∀ c ∈ o.cores,
         (o.part = (getInst s o.inst).part → Spec.started s t c o.inst o.kernel o.entry) ∧
         ∃ b, (getCore t c).blk = some b ∧ b.launch = some key ∧ b.member = c ∧ b.entry = o.entry ∧ b.budget = o.budget ∧
           b.exited = false)) ∧
    (∀ b, k.blk = some b → alone →
      let count := exec (.triggerCount core) s
      (b.trigDone = true ∨ b.trig = none ∨ (∃ n, b.trig = some n ∧ ¬counted b n) → count = .next s) ∧
      (∀ n, b.trigDone = false → b.trig = some n → counted b n → ∃ t, count = .next t ∧
        getCore t core = { k with blk := some { b with trigDone := true } } ∧ t.mem = s.mem ∧
        (b.launch = none → t.objs = s.objs) ∧
        (b.launch = some key → (getObj t key).trigs = o.trigs.erase b.member ∧
          (∀ m, m ≠ key → o.trigs.erase b.member ≠ [] ∨ (getObj s m).live = false ∨ (getObj s m).pred ≠ some key ∨
            (getObj s m).predWait = false → getObj t m = getObj s m) ∧
          (o.trigs.erase b.member = [] → ∀ m, m ≠ key → (getObj s m).live = true → (getObj s m).pred = some key →
            (getObj s m).predWait = true →
            getObj t m = { getObj s m with predWait := false, predT := some (coreTick s core) })))) ∧
    (∀ b, k.blk = some b → k.run ≠ .fenced → alone →
      let count := exec (.unitCount core) s
      (b.exited = false ∨ ¬counted b s.nextReq → count = .next s) ∧
      (b.exited = true → counted b s.nextReq →
        let marked := fun (m : Nat) (k : Core) =>
          { k with cancelled := if m = b.home ∧ (getCore s m).gen = b.gen then b.killed else k.cancelled }
        ∃ t, count = .next t ∧
        getCore t core = marked core { k with blk := none } ∧ (∀ m, m ≠ core → getCore t m = marked m (getCore s m)) ∧
        t.mem = s.mem ∧ (b.launch = some key → b.member ∈ o.units → (getObj t key).units = o.units.erase b.member ∧
          (getObj t key).pend = o.pend ++ [b.member] ∧ timed t (.completionCounterUpdate key)))) ∧
    (∀ b, k.blk = some b → k.run = .fenced → b.launch = none → b.graph = none →
      ∃ t, exec (.unitCount core) s = .next t ∧ (getCore t core).run = .fenced ∧ (getCore t core).blk = none) ∧
    (let update := exec (.completionCounterUpdate key) s
     (o.pend = [] → update = .next s) ∧
     (∀ m rest, o.pend = m :: rest → m < 1024 →
       let n := smGetD o.cluN (m / 16) 0 - 1
       (n ≠ 0 → update = .next (setObj s key { o with cluN := smPut o.cluN (m / 16) n, pend := rest })) ∧
       (n = 0 → ∃ t, update = .next t ∧ timed t (.completionCounterUpdate key) ∧
         getObj t key = { o with cluN := smPut o.cluN (m / 16) 0, pend := rest ++ [1024 + m / 16] })) ∧
     (∀ m rest, o.pend = m :: rest → 1024 ≤ m → 1 < o.dieN →
       update = .next (setObj s key { o with dieN := o.dieN - 1, pend := rest })) ∧
     (∀ m rest, o.pend = m :: rest → 1024 ≤ m → o.dieN ≤ 1 → key / 4096 = 1 →
       let t := setObj s key { o with dieN := 0, pend := rest }
       update = .next { t with sched := { s.sched with tasks := Task.ev (.launchComplete key) :: s.sched.tasks } }) ∧
     (∀ m rest, o.pend = m :: rest → 1024 ≤ m → o.dieN ≤ 1 → key / 4096 = 2 → o.live = true → o.ending = false → o.members = [] →
       ∃ t, update = .next t ∧ timed t (.graphComplete key) ∧
         getObj t key = { o with dieN := 0, pend := rest, ownerIn := false, ending := true })) ∧
    (o.live = true → key / 4096 = 1 → o.dieN = 0 → o.graph = none →
      ∃ t, exec (.launchComplete key) s = .next t ∧ getObj t key = finished ∧ t.cores = s.cores ∧ t.mem = s.mem) ∧
    (o.live = true → o.ending = true → key / 4096 = 2 → o.phases = [] →
      ∃ t, exec (.graphComplete key) s = .next t ∧ getObj t key = finished ∧ t.cores = s.cores ∧ t.mem = s.mem) ∧
    (o.live = true → o.ending = true → key / 4096 = 3 →
      ∃ t, exec (.phaseComplete key) s = .next t ∧ getObj t key = finished ∧ t.cores = s.cores ∧ t.mem = s.mem) ∧
    (o.live = true → o.ending = true → key / 4096 = 4 → exec (.jobComplete key) s = .next (setObj s key finished)) ∧
    (o.live = false → exec (.launchComplete key) s = .next s ∧ exec (.graphComplete key) s = .next s ∧
      exec (.phaseComplete key) s = .next s ∧ exec (.jobComplete key) s = .next s) ∧
    (let step := o.wdStep
     let limits := [x.wd1, x.wd2, x.wd3]
     let overdue := o.live = true ∧ o.released = true ∧ (∀ n ∈ limits.take (step + 1), n ≠ 0) ∧
       o.wdTick + limits.getD step 0 * x.m ≤ tick
     let has := fun (k : Core) => k.blk.any fun b => b.launch == some key
     let live := fun (k : Core) => k.blk.any fun b => b.launch == some key && !b.exited
     let awake := fun (k : Core) => match k.run with
       | .running | .held _ => true
       | _ => false
     let record := fun (code n : Nat) => eventRecord o.part code o.region x.frame (objHandle key o.gen + n * 2 ^ 32)
     (¬(overdue ∧ step = 0) → exec (.watchdogPreempt key) s = .next s) ∧
     (¬(overdue ∧ step = 1) → exec (.watchdogKill key) s = .next s) ∧
     (¬(overdue ∧ step = 2) → exec (.watchdogFence key) s = .next s) ∧
     (overdue → (s.cores.map (·.1)).Nodup → (∀ v ∈ s.saved, v.blk.launch ≠ some key) →
       (step = 0 → ∃ t, exec (.watchdogPreempt key) s = .next t ∧ t.mem = s.mem ∧
         getObj t key = { o with wdStep := 1, wdTick := tick } ∧
         ∀ c, getCore t c = if live (getCore s c) && awake (getCore s c) then { getCore s c with pendPre := true }
           else getCore s c) ∧
       (step = 1 → o.redo = [] → (∀ q ∈ s.cores, live q.2 →
           q.2.run = .running ∧ q.2.ctx.waits = [] ∧ q.2.svc = none ∧ (coreRegion s q.1).st ≠ .stopped) →
         ∃ u, exec (.watchdogKill key) s = .next (record 0x46 (s.cores.countP (fun q => live q.2) % 2 ^ 16) u) ∧ u.mem = s.mem ∧
           getObj u key = { o with wdStep := 2, wdTick := tick } ∧
           ∀ c, let k := getCore s c
             let at_ := (coreRegion s c).clk + 4
             getCore u c = if live k then { k with killAt := some (min at_ (k.killAt.getD at_)) } else k) ∧
       (step = 2 → ∃ t, exec (.watchdogFence key) s = .next t ∧
         let fenced := (s.cores.filter fun q => has q.2).map (·.1)
         t.sched.tasks = (fenced.map fun c => Task.ev (.unitCount c)).reverse ++ s.sched.tasks ∧
         t.mem = (fenced.foldl (fun u c => record 0x47 c u) s).mem ∧ getObj t key = { o with wdStep := 3, wdTick := tick } ∧
         ∀ c, getCore t c = if has (getCore s c)
           then { getCore s c with run := .fenced, faults := [], pendPre := false, pendDbg := false, killAt := none, saveDue := false }
           else getCore s c))) ∧
    (∀ due c m, o.redo = [(due, c, m)] → o.part = (getInst s o.inst).part →
      (tick < due → exec (.reexecutionRelease key) s = .next s) ∧
      (due ≤ tick → (getCore s c).blk ≠ none ∨ (getCore s c).run ≠ .idle → ∃ u t,
        exec (.reexecutionRelease key) s = .next t ∧ u = eventRecord o.part 0x46 o.region x.frame (objHandle key o.gen + 2 ^ 32) s ∧
        t.mem = u.mem ∧ (getObj t key).redo = [] ∧ (getObj t key).trigs = o.trigs.erase m ∧
        (m ∈ o.units → (getObj t key).units = o.units.erase m ∧ (getObj t key).pend = o.pend ++ [m]) ∧
        (∀ n, n ≠ c → getCore t n = getCore s n) ∧ (getCore t c).blk = (getCore s c).blk) ∧
      (due ≤ tick → (getCore s c).blk = none → (getCore s c).run = .idle →
        ∃ t, exec (.reexecutionRelease key) s = .next t ∧ Spec.started s t c o.inst o.kernel o.entry ∧
        getObj t key = { o with redo := [] } ∧ (∀ n, n ≠ c → getCore t n = getCore s n) ∧
        ∃ b, (getCore t c).blk = some b ∧ b.launch = some key ∧ b.member = m ∧ b.retried = true ∧ b.budget = o.budget ∧
          b.trigDone = !o.trigs.contains m)) ∧
    (k.run ≠ .fenced → exec (.fencedCoreReset core) s = .next s) ∧
    (k.run = .fenced → ∃ t, exec (.fencedCoreReset core) s = .next (setCore s core t) ∧ t.run = .idle ∧ t.blk = none ∧ t.ctx = {} ∧
      t.resv = k.resv ∧ t.gen = k.gen)

/-! ## Stops from outside, saved contexts, handlers -/

/-- R169 to R171, R174, R176, R234 to R237, R240: requests to stop, the snapshot, saving and restoring a context, and the running of
handlers at `DEADLINE` and their end. A save writes the image of the context to its area and a restore reads it back, by the model's
`areaWrite` and `areaRead`; what R176 places in the image stands where it says, and the order of the rest is the model's (log 21). The
model's readings and choices: a save that is ordered while handlers run is kept, and leaves the context held at their end (log 23); a save
moves its bytes when the packets of its area have been sent (log 22); which saved context a restore takes (log 38); a context that a kill
awaits is not saved (log 58); the policy registers with which a handler begins (log 54); a row which is not due leaves the state as it is
(log 20). -/
def Obligations.StopsAndHandlers : Prop :=
  ∀ (core : Nat) (v : BitVec 16) (s : State),
    let k := getCore s core
    let others := fun (t : State) => ∀ m, m ≠ core → getCore t m = getCore s m
    let resumed := fun (c : Ctx) => { c with
      inflight := c.inflight ++ c.latch.map fun l => { l with due := l.due + c.bc }
      latch := [], grpK := 0, grpW := 0, grpP := 0 }
    let frozen := fun (c : Ctx) => { c with
      latch := c.latch ++ c.inflight.map fun l => { l with due := l.due - c.bc }
      inflight := [] }
    let entry := fun (n : Nat) => bits (smGetD s.svents (16 * (core / 16) + n) 0).toNat 0 16
    let len := fun (n : Nat) => bits (smGetD s.svents (16 * (core / 16) + n) 0).toNat 16 12
    let fits := fun (n : Nat) => n < 16 ∧ k.svreq.getLsbD n = true ∧ len n ≠ 0 ∧
      len n + k.svused.toNat ≤ ((k.blk.map (·.budget)).getD 0)
    let lowest := fun (n : Nat) => fits n ∧ ∀ m < n, ¬fits m
    let begins := fun (n : Nat) (cause : Cause) (host : Ctx) (t : Core) => t.run = .running ∧
      t.ctx = { kern := true, pc := BitVec.ofNat 32 (entry n) } ∧
      t.svc = some { host := host, cause := cause, handler := n, left := len n } ∧
      t.svused = k.svused + BitVec.ofNat 24 (len n) ∧
      ∀ m < 16, t.svreq.getLsbD m = (k.svreq.getLsbD m && decide (m ≠ n))
    let debug := k.dbghold = true ∨ ∃ q ∈ s.cores, q.2.dbghold = true ∧ ∃ p, ownerPart s core = some p ∧ ownerPart s q.1 = some p
    ((k.run = .running ∨ ∃ e, k.run = .held e) →
      exec (.preemptRequest core) s = .next (setCore s core { k with pendPre := true }) ∧
      (debug → exec (.debugHaltRequest core) s = .next (setCore s core { k with pendDbg := true }))) ∧
    (k.run = .idle ∨ k.run = .fenced → exec (.preemptRequest core) s = .next s ∧ exec (.debugHaltRequest core) s = .next s) ∧
    (¬debug → exec (.debugHaltRequest core) s = .next s ∧ exec (.debugRelease core) s = .next s) ∧
    (debug → k.run ≠ .held .debug → exec (.debugRelease core) s = .next s) ∧
    (debug → k.run = .held .debug → ∃ t, exec (.debugRelease core) s = .next (setCore s core t) ∧
      t.run = .running ∧ t.ctx = resumed k.ctx ∧ t.spad = k.spad ∧ t.mx = k.mx ∧ t.deadline = k.deadline ∧ t.blk = k.blk) ∧
    exec (.snapshotComplete core) s = .next (setCore s core { k with snapLeft := 0 }) ∧
    (let save := exec (.contextSave core) s
     let mine := fun (q : Req) => q.core = core ∧ q.bid = reqBid k ∧ q.service = false
     let ready := k.snapLeft = 0 ∧ ∀ q ∈ s.reqs, mine q.2 → q.2.complete = true ∨ q.2.told = true
     let latch := !nothingInFlight k
     let parts := areaRanges k.mx latch
     (k.run = .idle ∨ (k.run = .running ∧ k.svc = none) ∨ k.run = .fenced ∨ k.blk = none → save = .next s) ∧
     (k.run = .running → k.svc ≠ none → k.blk ≠ none → save = .next (setCore s core { k with saveDue := true })) ∧
     (∀ e b, k.run = .held e → k.blk = some b → k.killAt ≠ none → (coreRegion s core).st ≠ .stopped →
       save = .next (setCore s core { k with saveDue := true })) ∧
     (∀ e b, k.run = .held e → k.blk = some b → k.killAt ≠ none → (coreRegion s core).st = .stopped →
       ∃ u, save = .next u ∧ others u ∧ (getCore u core).run = .idle ∧ u.saved = s.saved ∧ u.mem = s.mem ∧
         ∃ d, (getCore u core).blk = some d ∧ d.bid = b.bid ∧ d.exited = true ∧ d.killed = b.doomed) ∧
     (∀ e b, k.run = .held e → k.blk = some b → k.killAt = none → ¬ready → save = .next (setCore s core { k with saveDue := true })) ∧
     (∀ e b t xs, k.run = .held e → k.blk = some b → k.killAt = none → ready →
       areaWalk core 2 b.area parts (List.range 12) s = (t, .ok xs) →
       (∀ va, saveBad k = some va → save = .next (doubleFault core e 0x0E 13 va t)) ∧
       (saveBad k = none → k.saveAsked = false → ∃ chans, save = .next
         { setCore t core { k with saveDue := true, saveAsked := true } with chans := chans }) ∧
       (saveBad k = none → k.saveAsked = true → areaWaits s core b.area = true →
         save = .next (setCore t core { k with saveDue := true })) ∧
       (saveBad k = none → k.saveAsked = true → areaWaits s core b.area = false →
         ∃ u, save = .next u ∧ others u ∧ (getCore u core).run = .idle ∧ (getCore u core).blk = none ∧
           (getCore u core).ctx = {} ∧ (getCore u core).spad = [] ∧
           u.mem = (areaWrite parts (areaImage s.sched.choice e k.ctx k.mx k.spad latch) xs (nextChoice t)).mem ∧
           u.saved = s.saved ++ [{ codeBase := k.codeBase, ctx := k.ctx, mx := k.mx, spad := k.spad, dict := k.dict, blk := b,
                                   core := core, cause := e, faults := k.faults, dlHold := k.dlHold }])) ∧
     (∀ e b t er, k.run = .held e → k.blk = some b → k.killAt = none → ready →
       areaWalk core 2 b.area parts (List.range 12) s = (t, .error er) →
       save = .next (doubleFault core e 0x0E er.1 (some er.2) t))) ∧
    (∀ (orig : Cause) (engine reason : Nat) (va : Option Nat), let u := doubleFault core orig engine reason va s
      (getCore u core).run = .fenced ∧ (getCore u core).svc = none ∧ (getCore u core).blk = k.blk ∧ others u ∧ u.saved = s.saved ∧
      u.sched.tasks = Task.ev (.unitCount core) :: s.sched.tasks) ∧
    (∀ (n : Nat) (e : Cause) (c : Ctx) (m : Mx) (spad : SMap Byte) (latch : Bool), Memory.wf spad = true → (∀ q ∈ spad, q.1 < 0x40000) →
      (m.now.data.map (·.1)).Nodup → (m.now.side.map (·.1)).Nodup → (∀ q ∈ m.now.planes, q.1 < 128) →
      let at_ := fun (a : Nat) => mRead (areaImage n e c m spad latch) a
      (∀ p < 0x40000, at_ (0x7F000 + p) = mRead spad p) ∧
      (∀ i < 16, ∀ p < 256, (c.vb.getD i {}).void = false →
        at_ (0x400 + 256 * i + p) = BitVec.ofNat 8 ((c.vb.getD i {}).v.toNat / 256 ^ p)) ∧
      (∀ o < 24, m.claimed.getLsbD o = true → ∀ r < 64,
        (∀ p < 128, at_ (0x49000 + 9216 * o + 128 * r + p) = BitVec.ofNat 8 ((dataRow m.now o r).toNat / 256 ^ p)) ∧
        ∀ p < 16, at_ (0x49000 + 9216 * o + 8192 + 16 * r + p) = BitVec.ofNat 8 ((sideRow m.now o r).toNat / 256 ^ p)) ∧
      (∀ t < 4, let x := m.now.tiles.getD t {}
        x.used = true → x.cy.length = 64 → x.ex.length = 64 → (∀ i < 64, (tileRow x i).length = 64) →
        ∀ j < 64, (∀ p < 12, at_ (0x10000 + 768 * t + 12 * j + p) = BitVec.ofNat 8 ((x.cy.getD j 0).toNat / 256 ^ p)) ∧
          (∀ p < 4, at_ (0x10C00 + 256 * t + 4 * j + p) = BitVec.ofNat 8 ((x.ex.getD j 0).toNat / 256 ^ p)) ∧
          ∀ i < 64, ∀ p < 12,
            at_ (0x11000 + 49152 * t + 768 * i + 12 * j + p) = BitVec.ofNat 8 (((tileRow x i).getD j 0).toNat / 256 ^ p))) ∧
    (let restore := exec (.contextRestore core) s
     let bare := k.run = .idle ∧ k.blk = none ∧ k.resv = none
     (¬bare ∨ savedFor s core = none → restore = .next s) ∧
     (∀ w, bare → savedFor s core = some w →
       let first := (getInst s w.blk.inst).cores.head? == some core
       let k1 := { k with
         run := .held w.cause, codeBase := w.codeBase, ctx := w.ctx, mx := w.mx, spad := w.spad, dict := w.dict, code := [], metas := []
         blk := some { w.blk with conductor := first }, faults := w.faults, badWords := [], dlHold := w.dlHold }
       let latch := !nothingInFlight k1
       let parts := areaRanges w.mx latch
       let reads := areaWalk core 1 w.blk.area parts (List.range 12) { setCore s core k1 with saved := s.saved.erase w }
       (∀ t xs, reads = (t, .ok xs) →
         let back := withArea latch (areaRead parts xs t) k1
         ∃ u, restore = .next u ∧ others u ∧ u.mem = s.mem ∧ u.saved = s.saved.erase w ∧
           (getCore u core).run = .running ∧ (getCore u core).ctx = resumed back.ctx ∧ (getCore u core).mx = back.mx ∧
           (getCore u core).spad = back.spad ∧ (getCore u core).dict = w.dict ∧ (getCore u core).blk = k1.blk ∧
           (getCore u core).faults = w.faults ∧ (getCore u core).codeBase = w.codeBase) ∧
       (∀ t er, reads = (t, .error er) → restore = .next (doubleFault core w.cause 0x0E er.1 (some er.2) t)))) ∧
    (∃ w, exec (.svreqWrite core v) s = .next (setCore s core { k with svreq := w }) ∧
      ∀ n < 16, w.getLsbD n = (v.getLsbD n && decide (len n ≠ 0))) ∧
    (let end_ := exec (.handlerEnd core) s
     (k.svc = none → end_ = .next s) ∧
     (∀ h, k.svc = some h →
       let performed := ∀ q ∈ s.reqs, q.2.core = core → q.2.service = true → q.2.told = true ∨ reqAt s q.1 q.2 3 = true
       let yields := h.cause = .yieldsvc ∨ h.cause = .deadline
       (h.left ≠ 0 → end_ = .next s) ∧
       (h.left = 0 → h.exited = false → ∃ u, end_ = .next u ∧ (getCore u core).run = .fenced ∧ (getCore u core).svc = none ∧
         (getCore u core).ctx = h.host ∧ others u) ∧
       (h.left = 0 → h.exited = true → ¬performed → end_ = .next s) ∧
       (h.left = 0 → h.exited = true → performed → ∀ n, lowest n →
         ∃ t, end_ = .next (setCore s core t) ∧ begins n h.cause h.host t ∧ t.spad = k.spad) ∧
       (h.left = 0 → h.exited = true → performed → (∀ n, ¬fits n) → k.saveDue = true → ∃ u, end_ = .next u ∧ others u ∧
         u.mem = s.mem ∧ getCore u core = { k with run := .held h.cause, ctx := h.host, svc := none }) ∧
       (h.left = 0 → h.exited = true → performed → (∀ n, ¬fits n) → k.saveDue = false → ∃ u, end_ = .next u ∧ others u ∧
         u.mem = s.mem ∧
         (getCore u core).run = .running ∧ (getCore u core).svc = none ∧ (getCore u core).ctx = resumed h.host ∧
         (getCore u core).spad = k.spad ∧
         (yields → (getCore u core).deadline = if k.dlHold then k.deadline else k.dlreload) ∧
         (¬yields → (getCore u core).deadline = k.deadline)))) ∧
    (let expire := exec (.deadlineExpiry core) s
     let now := k.run = .running ∧ k.svc = none ∧ k.dlen = true ∧ k.deadline = 0
     (¬now → expire = .next s) ∧
     (now → (∀ n, ¬fits n) → k.mxWas = none → ∃ u, expire = .next u ∧ others u ∧ u.mem = s.mem ∧
       (getCore u core).run = .running ∧ (getCore u core).ctx = resumed (frozen k.ctx) ∧
       (getCore u core).deadline = k.dlreload ∧ (getCore u core).spad = k.spad) ∧
     (now → ∀ n, lowest n → (getCore (takeStop core { cause := .deadline } s) core).run = .held .deadline →
       ∃ u, expire = .next u ∧ u.mem = (takeStop core { cause := .deadline } s).mem ∧
         begins n .deadline (getCore (takeStop core { cause := .deadline } s) core).ctx (getCore u core)))

/-! ## Fabric -/

/-- R338, R339, R343 to R348: the five fabric instructions and the ends of their waits: the job operand, the stops, the statuses, what a
send takes up, which cell a receive takes, the return of a cell, and the record of a slot. A wait that ends in its issue cycle lands its
word with the next bundle, also when another wait of the bundle goes on (log 14). That a receive waits while no context is free is the
model's reading (log 16). -/
def Obligations.FabricCalls : Prop :=
  ∀ (g : Guard) (d : SDst) (pol : Fin 8) (tag : BitVec 16) (a b e : SOp) (core : Nat) (s : State),
    let c := curCtx s
    let me := s.sched.cur
    let x := valN s a
    let y := valN s b
    let z := valN s e
    let two := voidS c a || voidS c b
    let three := two || voidS c e
    let send := Instr.fsend g d pol tag a b e
    let recv := Instr.frecv g d pol a b e
    let done := Instr.fdone g d pol a b
    let quiet := Instr.quiet g d pol a b
    let stat := Instr.fstat g d pol a b
    let mem := selfSpad (cur s) me
    let named := fun (x key : Nat) => jobOn s (me / 256) x = some key ∧ (getJob s key).part = reqPart s me
    let foreign := fun (x : Nat) => ∀ key, ¬named x key
    let room := contextFree s me (cur s).svc.isSome = true
    let waits := fun (i : Instr) (void : Bool) (t : State) (w : WaitKind) => ∃ fl, Spec.readFlags c (voidP c g.p || void) fl ∧
      exec i s = .next (setCtx t { c with
        flags := fl, waits := c.waits ++ [{ kind := w, slot := slotC s, seq := c.bc, dst := d }] })
    let atOnce := fun (i : Instr) (void : Bool) (t : State) (w : Word) => ∃ fl, Spec.readFlags c (voidP c g.p || void) fl ∧
      exec i s = .next (setCtx t { c with flags := fl, rets := c.rets ++ [⟨1, slotC s, c.bc, d, false, w⟩] })
    let first := fun (j : JobSlot) (cell len : Nat) => ∃ o, (cell, CellSt.full o len) ∈ j.cells ∧
      ∀ q ∈ j.cells, ∀ o' len', q.2 = .full o' len' → q = (cell, .full o len) ∨ o < o'
    let emptyPool := fun (j : JobSlot) => ∀ q ∈ j.cells, ∀ o len, q.2 ≠ CellSt.full o len
    let copies := fun (core key cell : Nat) (ps : List Piece) => ({ blankReq s core (.frecv key cell) ⟨0, 3, 0, 0⟩ with
      pieces := ps, part := (getJob s key).part, rdEng := 0xB, wrEng := 6, rdBit := 6 } : Req)
    let cellBytes := fun (mem key cell y len : Nat) => (List.range (32 + len)).map fun i =>
      (Loc.virt ((getJob s key).pool + 8192 * cell + i), Loc.spad mem (y + i), (none : Option (Nat × Nat)), false)
    let takes := fun (bid key cell len : Nat) => setJob s key { getJob s key with
      cells := smPut (getJob s key).cells cell (.taken bid len) }
    (∀ i ∈ [send, recv, done, quiet, stat], Spec.offC g d i s) ∧
    (guardOn c g = true →
      (1 ≤ z → z ≤ 4096 → viewOk (cur s) y z = false → Spec.stopsC send s .xlate 7 4 (some y)) ∧
      ((1 ≤ z → z ≤ 4096 → viewOk (cur s) y z = true) →
        let job := bits x 16 16
        let legal := x = bits x 0 14 + job * 2 ^ 16 ∧ 1 ≤ z ∧ z ≤ 4096
        ((polNow s pol).space = 1 → Spec.replies g d send s three s stRefused fMODFB) ∧
        ((polNow s pol).space ≠ 1 →
          (¬legal → Spec.replies g d send s three s stBadarg 0) ∧
          (legal → foreign job → Spec.replies g d send s three s stRefused 0) ∧
          (legal → ∀ key, named job key →
            (32 ≤ unsentOf s (me / 256) job ∨ ¬room → Spec.replies g d send s three s stBusy 0) ∧
            (unsentOf s (me / 256) job < 32 → room → ∃ ps,
              Spec.bytesOf ps = (List.range z).map (fun i => (.spad mem (y + i), .none, none, false)) ∧
              let m : Msg := { spkg := s.mgmt.fpkg, sdie := me / 256, spart := (getJob s key).part, score := me, tag := tag.toNat, job := job
                               seq := (getJob s key).inj % 2 ^ 32, inj := (getJob s key).inj, len := z, dpkg := bits x 0 12
                               ddie := bits x 12 2, bytes := [], req := s.nextReq, ordered := decide (2 ≤ (polNow s pol).ord) }
              let t := setJob { s with msgs := smPut s.msgs (2 * s.nextMsg) m, nextMsg := s.nextMsg + 1 } key
                { getJob s key with inj := (getJob s key).inj + 1 }
              Spec.replies g d send s three
                (addReq t { blankReq s me (.fsend (2 * s.nextMsg)) { polNow s pol with ord := 0 } with pieces := ps, wrEng := 7 })
                (statusW 1 ((getJob s key).inj % 2 ^ 32)) 0)))) ∧
      (viewOk (cur s) y 4128 = false → Spec.stopsC recv s .xlate 6 4 (some y)) ∧
      (viewOk (cur s) y 64 = false → Spec.stopsC stat s .xlate 6 4 (some y)) ∧
      (0xFFFF < x → Spec.replies g d done s two s stBadarg 0 ∧ Spec.replies g d quiet s two s stBadarg 0 ∧
        (viewOk (cur s) y 4128 = true → Spec.replies g d recv s three s stBadarg 0) ∧
        (viewOk (cur s) y 64 = true → Spec.replies g d stat s two s stBadarg 0)) ∧
      (x ≤ 0xFFFF → foreign x → Spec.replies g d done s two s stRefused 0 ∧ Spec.replies g d quiet s two s stRefused 0 ∧
        (viewOk (cur s) y 4128 = true → Spec.replies g d recv s three s stRefused 0) ∧
        (viewOk (cur s) y 64 = true → Spec.replies g d stat s two s stRefused 0)) ∧
      (x ≤ 0xFFFF → ∀ key, named x key →
        let j := getJob s key
        (viewOk (cur s) y 4128 = true →
          (z ≤ coreTick s me → atOnce recv three s (statusW 5 0)) ∧
          (coreTick s me < z → emptyPool j ∨ j.en = false ∨ ¬room → waits recv three s (.frecv key y (valS c e) none)) ∧
          (coreTick s me < z → j.en = true → room → ∀ cell len, first j cell len → ∃ ps,
            Spec.bytesOf ps = cellBytes mem key cell y len ∧
            waits recv three (addReq (takes (reqBid (cur s)) key cell len) (copies me key cell ps))
              (.frecv key y (valS c e) (some (s.nextReq, len))))) ∧
        (j.ncell ≤ y → Spec.replies g d done s two s stBadarg 0) ∧
        (y < j.ncell → ∀ len, smGet j.cells y = some (.taken (reqBid (cur s)) len) →
          atOnce done two (setJob s key { j with cells := smDel j.cells y, con := j.con + 1 }) stDone) ∧
        (y < j.ncell → (∀ len, smGet j.cells y ≠ some (.taken (reqBid (cur s)) len)) → Spec.replies g d done s two s stRefused 0) ∧
        (y ≤ coreTick s me → atOnce quiet two s (statusW 5 0)) ∧
        (coreTick s me < y → waits quiet two s (.quiet key (getWave s j.job).begun (valS c b) none)) ∧
        (viewOk (cur s) y 64 = true → y % 8 ≠ 0 → Spec.replies g d stat s two s stBadarg 0) ∧
        (viewOk (cur s) y 64 = true → y % 8 = 0 → waits stat two s (.fstat key y)))) ∧
    (let k := getCore s core
     let tick := coreTick s core
     ∀ slot seq key,
      let wait := fun (w : WaitKind) => k.ctx.waits = [{ kind := w, slot := slot, seq := seq, dst := d }]
      let ended := fun (k : Core) (w : Word) => { k with ctx := { k.ctx with
        waits := [], inflight := k.ctx.inflight ++ [⟨k.ctx.bc + 1, slot, seq, resS d w, 0⟩] } }
      let recv := exec (.frecvEnd core) s
      let calm := exec (.quietEnd core) s
      (∀ y z n len, wait (.frecv key y z (some (n, len))) →
        ((∀ p ∈ (getReq s n).pieces, p.stage = 2) → recv = .next (setCore s core (ended k (statusW 0 len)))) ∧
        ((∃ p ∈ (getReq s n).pieces, p.stage ≠ 2) → recv = .next s)) ∧
      (∀ y z, wait (.frecv key y z none) →
        (z.toNat ≤ tick → recv = .next (setCore s core (ended k (statusW 5 0)))) ∧
        (tick < z.toNat → emptyPool (getJob s key) → recv = .next s) ∧
        (tick < z.toNat → (getJob s key).en = true → contextFree s core k.svc.isSome = true →
          ∀ cell len, first (getJob s key) cell len → ∃ ps, Spec.bytesOf ps = cellBytes (selfSpad k core) key cell y len ∧
          recv = .next (setCore (addReq (takes (reqBid k) key cell len) (copies core key cell ps)) core
            { k with ctx := { k.ctx with
              waits := [{ kind := .frecv key y z (some (s.nextReq, len)), slot := slot, seq := seq, dst := d }] } }))) ∧
      (∀ after z w, wait (.quiet key after z (some w)) → calm = .next (setCore s core (ended k w))) ∧
      (∀ after z, wait (.quiet key after z none) →
        (z.toNat ≤ tick → calm = .next (setCore s core (ended k (statusW 5 0)))) ∧
        (tick < z.toNat → calm = .next (setCore s core k))) ∧
      (∀ y, wait (.fstat key y) → k.svc = none → core < 1024 →
        let j := getJob s key
        let b := fun (q : Bool) => if q then 1 else 0
        let record := j.inj % 2 ^ 64 + j.con % 2 ^ 64 * 2 ^ 64 + j.loss % 2 ^ 64 * 2 ^ 128 + j.wave % 2 ^ 32 * 2 ^ 192 +
          b j.wq * 2 ^ 224 + b j.winc * 2 ^ 225 + j.sinj % 2 ^ 64 * 2 ^ 256 + j.scon % 2 ^ 64 * 2 ^ 320 +
          j.sloss % 2 ^ 64 * 2 ^ 384 + j.lseen % 2 ^ 64 * 2 ^ 448
        exec (.fstatRecordLanding core) s =
          .next (setCore s core (ended (spadWrite k y (leBytes 64 record)) (statusW 0 j.wave)))))

/-- R333 to R341, R353: the writes of wavelengths and job slots, the packets of a message, its delivery, its loss, the notice of a loss,
the discarding of a partial message, and a lost link. What arrives from other packages, in what order it may be delivered, and which
partition owns a job slot are the model's environment (log 16); that a row which is not due leaves the state as it is is the model's choice
(log 20). -/
def Obligations.FabricMessages : Prop :=
  ∀ (die n m : Nat) (v : Word) (record : BitVec 256) (s : State),
    (let key := die % 4 * 1024 + n % 1024
     let x := v.toNat % 2 ^ 14
     let taken := ∃ q ∈ s.fwl, q.1 ≠ key ∧ q.2.getLsbD 5 = true ∧ bits q.2.toNat 6 5 = bits x 6 5 ∧ bits q.2.toNat 12 2 = bits x 12 2
     let bad := x.testBit 5 = true ∧ (n % 1024 < 512 ∨ bits x 6 5 = 0 ∨ taken)
     (bad → exec (.fwlWrite die n v) s = .next s) ∧
     (¬bad → exec (.fwlWrite die n v) s = .next { s with fwl := smPut s.fwl key (BitVec.ofNat 32 x) })) ∧
    (let key := die % 4 * 64 + n % 64
     let old := getJob s key
     let r := record.toNat
     let new := { old with
       job := bits r 0 16, part := bits r 16 4, origin := r.testBit 21, spgper := bits r 32 32, pool := bits r 64 55, ncell := bits r 128 13 }
     let en := r.testBit 20
     let legal := 100 ≤ new.spgper ∧ new.pool % 65536 = 0 ∧ 1 ≤ new.ncell ∧ new.ncell ≤ 4096 ∧
       new.part = Config.slotOwner key s.tick % 16
     let write := exec (.jobSlotWrite die n record) s
     (¬legal ∨ (old.en = true ∧ new ≠ old) → write = .next s) ∧
     (legal → (old.en = true → new = old) → en = false → write = .next (setJob s key { new with en := false })) ∧
     (legal → old.en = true → new = old → en = true → write = .next (setJob s key old)) ∧
     (legal → old.en = false → en = true → jobOn s (die % 4) new.job ≠ none → write = .next s) ∧
     (legal → old.en = false → en = true → jobOn s (die % 4) new.job = none →
       let t := setJob s key { new with en := true, inj := 0, con := 0, loss := 0, lseen := 0, enTick := s.tick, seen := [] }
       write = .next (if new.origin then setWave t new.job { begun := (getWave s new.job).begun } else t))) ∧
    (let deliver := exec (.messageDelivery m) s
     (mayDeliver s m = none → deliver = .next s) ∧
     (∀ key cell x msg, mayDeliver s m = some (key, cell, x) → msgOf s m = some msg →
       let j := getJob s key
       let header := msg.spkg + msg.sdie * 2 ^ 12 + msg.tag * 2 ^ 16 + msg.len * 2 ^ 32 + cell * 2 ^ 48 + msg.seq * 2 ^ 64 +
         msg.job * 2 ^ 96 + msg.score * 2 ^ 128
       jobOn s msg.ddie msg.job = some key ∧ cell < j.ncell ∧ smGet j.cells cell = none ∧ (∀ i < cell, smGet j.cells i ≠ none) ∧
       msg.st = 0 ∧ msg.bytes.length = msg.len ∧ 512 * (msg.packets - 1) < 32 + msg.len ∧ 32 + msg.len ≤ 512 * msg.packets ∧
       (∀ n y, smGet s.msgs n = some y → n ≠ m → n % 2 = m % 2 → y.spkg = msg.spkg → y.sdie = msg.sdie → y.job = msg.job →
         y.dpkg = msg.dpkg → y.ddie = msg.ddie →
         if m % 2 = 0 then y.st = 0 → m < n else (y.st = 0 → msg.inj ≤ y.inj) ∧ (y.st = 2 → y.inj < msg.inj)) ∧
       ∃ u, deliver = .next u ∧
         ((∀ i < 32 + msg.len, ∀ d off, paKind (x.pa + i) ≠ .kiln d off) → Spec.puts s u x (leBytes 32 header ++ msg.bytes)) ∧
         getJob u key = { j with cells := smPut j.cells cell (.full j.order msg.len), order := j.order + 1 } ∧
         smGet u.msgs m = some { msg with st := 2, bytes := [] } ∧ u.cores = s.cores ∧ u.reqs = s.reqs)) ∧
    (∀ msg, msgOf s m = some msg →
      let sent := msg.st = 0 ∧ msgSent s msg = true
      (¬sent → exec (.messageLoss m) s = .next s) ∧
      (sent → ∃ u, exec (.messageLoss m) s = .next { u with msgs := smPut s.msgs m { msg with
          st := if (m % 2 = 1 ∨ msg.dpkg = s.mgmt.fpkg) ∧ 0 < msg.packets then 1 else 3
          bytes := []
          notice := m % 2 == 0 } } ∧
        let at_ := fun (key c : Nat) => jobOn s msg.ddie msg.job = some key ∧ freeCell (getJob s key) = some c ∧ msgIn s m msg = true ∧
          cellWalk s (getJob s key) c = .error 14
        ((∀ key c, ¬at_ key c) → u = s) ∧
        ∀ key c, at_ key c → ∃ pa, u = errorRecord (getJob s key).part 1 0x30 0 0xB 14 0 pa (some ((getJob s key).pool + 8192 * c)) s)) ∧
    (∀ msg, msgOf s m = some msg → packetOpen s m = true →
      packetArrives m s = { s with msgs := smPut s.msgs m { msg with packets := msg.packets + 1, last := s.tick } } ∧
      512 * msg.packets < 32 + msg.len ∧
      (m % 2 = 0 → msg.sdie ≠ msg.ddie → ∃ w v, (w, v) ∈ s.fwl ∧ w / 1024 = msg.sdie ∧ w % 1024 < 512 ∧
        v.getLsbD 4 = true ∧ v.getLsbD 5 = false ∧ bits v.toNat 0 4 = msg.spart)) ∧
    (∀ msg, smGet s.msgs m = some msg →
      let notice := exec (.lossNoticeArrival m) s
      let comes := m % 2 = 0 ∧ (msg.notice = true ∨ (msg.st = 0 ∧ msgSent s msg = true ∧ msg.dpkg ≠ s.mgmt.fpkg))
      let t := { s with msgs := smPut s.msgs m { msg with st := if msg.st = 0 then 3 else msg.st, notice := false, bytes := [] } }
      (¬comes → notice = .next s) ∧
      (comes → jobOn s msg.sdie msg.job = none → notice = .next t) ∧
      (comes → ∀ key, jobOn s msg.sdie msg.job = some key → notice = .next (if msg.seq ∈ (getJob s key).seen then t else
        setJob t key { getJob s key with loss := (getJob s key).loss + 1, seen := msg.seq :: (getJob s key).seen })) ∧
      (let due := msg.st = 1 ∧ msg.last + 10000 ≤ s.tick
       (¬due → exec (.partialMessageDiscard m) s = .next s) ∧
       (due → exec (.partialMessageDiscard m) s = .next { s with msgs := smPut s.msgs m { msg with st := 3 } }))) ∧
    (n ∈ s.links → exec (.linkLoss n) s = .next s) ∧
    (n ∉ s.links → exec (.linkLoss n) s = .next { s with links := n :: s.links })

/-- R350 to R353, R347: the sparge wave: its start, the reply of a leaf, the second pass, the result, and its arrival, which gives a job
that is quiet to the waits that began before the wave did, and changes `LSEEN` only where there is one; of a job whose interfaces are all in
this package, a wave is quiet on the sums of its leaves alone. That a quiet wave settles the messages to other packages, of which no notice
comes later, is the model's reading of R352 (log 16). Sums of leaves in other packages, and starts and numbers of a wave whose origin is elsewhere, are the model's
environment, bound by R352 only (log 16); that a row which is not due leaves the state as it is is the model's choice (log 20). -/
def Obligations.SpargeWaves : Prop :=
  ∀ (job die : Nat) (s : State),
    let w := getWave s job
    let leaves := (List.range 4).filter fun d => (jobOn s d job).isSome
    let cut := fun (d : Nat) => ∃ l ∈ s.links, Config.linkTree l job = true ∧ Config.linkLeaf l job d = true
    let broken := s.links.any fun l => Config.linkTree l job
    let replied := ∀ d ∈ leaves, cut d ∨ ∃ q ∈ w.got, q.1 = d
    let far := if Config.jobElsewhere job = true then Config.remoteSums job w.begun w.pass else (0, 0, 0)
    let sums := ((far.1 + (w.got.map (·.2.1)).sum) % 2 ^ 64, (far.2.1 + (w.got.map (·.2.2.1)).sum) % 2 ^ 64,
      (far.2.2 + (w.got.map (·.2.2.2)).sum) % 2 ^ 64)
    let balanced := fun (x : Nat × Nat × Nat) => x.1 = (x.2.1 + x.2.2) % 2 ^ 64
    let outstanding := (∃ q ∈ s.msgs, q.2.job = job ∧ (q.2.notice = true ∨
        (q.2.st = 0 ∧ (q.1 % 2 = 1 ∨ q.2.dpkg = s.mgmt.fpkg ∨ msgSent s q.2 = false)))) ∨
      ∃ q ∈ s.jobs, q.2.en = true ∧ q.2.job = job ∧ q.2.cells ≠ []
    let runs := w.running = true ∧ (w.sent = false ∨ ∃ d ∈ leaves, ¬cut d ∧ d ∉ w.told)
    (runs → exec (.waveStart job) s = .next s) ∧
    (∀ j, waveOrigin s job = some j → ¬runs →
      (s.tick < j.enTick + (w.num + 1) * j.spgper → exec (.waveStart job) s = .next s) ∧
      (j.enTick + (w.num + 1) * j.spgper ≤ s.tick →
        exec (.waveStart job) s = .next (setWave s job { num := w.num + 1, begun := w.begun + 1, running := true }))) ∧
    (waveOrigin s job = none → ¬runs →
      (Config.jobElsewhere job = false ∨ leaves = [] ∨ (∃ q ∈ s.jobs, q.2.origin = true ∧ q.2.job = job) →
        exec (.waveStart job) s = .next s) ∧
      (Config.jobElsewhere job = true → leaves ≠ [] → (∀ q ∈ s.jobs, q.2.origin = true → q.2.job ≠ job) →
        ∃ n, w.num < n ∧ exec (.waveStart job) s = .next (setWave s job { num := n, begun := w.begun + 1, running := true }))) ∧
    (∀ key, jobOn s die job = some key →
      let asked := w.running = true ∧ w.sent = false ∧ die ∈ leaves ∧ ¬cut die ∧ ∀ q ∈ w.got, q.1 ≠ die
      let j := getJob s key
      (¬asked → exec (.waveDownFlit job die) s = .next s) ∧
      (asked → exec (.waveDownFlit job die) s = .next (setWave s job { w with got := w.got ++ [(die, j.inj, j.con, j.loss)] }))) ∧
    (let due := w.running = true ∧ w.pass = 1 ∧ replied
     (¬due → exec (.wavePass2Start job) s = .next s) ∧
     (due → ∃ b away, (b = true ↔ outstanding) ∧
       (∀ n, n ∈ away ↔ ∃ q ∈ s.msgs, q.1 = n ∧ n % 2 = 0 ∧ q.2.job = job ∧ q.2.st = 0 ∧ q.2.dpkg ≠ s.mgmt.fpkg) ∧
       exec (.wavePass2Start job) s = .next
         (setWave s job { w with pass := 2, s1 := sums, got := [], inc := broken, held := b, away := away }))) ∧
    (let due := w.running = true ∧ w.pass = 2 ∧ w.sent = false ∧ replied
     (¬due → exec (.waveResultSend job) s = .next s) ∧
     (due → ∃ t msgs, exec (.waveResultSend job) s = .next { setWave s job t with msgs := msgs } ∧ t.inc = (w.inc || broken) ∧
       t.sent = true ∧ (t.quiet = false → msgs = s.msgs) ∧
       (t.quiet = true → msgs = s.msgs.map fun q => if q.1 ∈ w.away ∧ q.2.st = 0 then (q.1, { q.2 with st := 2, bytes := [] }) else q) ∧
       t.num = w.num ∧ (t.running = true ↔ ∃ d ∈ leaves, ¬cut d) ∧
       (t.quiet = true ↔ t.inc = false ∧ w.s1 = t.s2 ∧ balanced t.s2) ∧
       (Config.jobElsewhere job = false ∨ w.held = false → t.s2 = sums) ∧
       (Config.jobElsewhere job = true → w.held = true → t.quiet = false))) ∧
    (∀ key, jobOn s die job = some key →
      let comes := w.running = true ∧ w.sent = true ∧ die ∈ leaves ∧ ¬cut die ∧ die ∉ w.told
      let arrive := exec (.waveResultArrival job die) s
      let j := getJob s key
      let kept := { j with wave := w.num, wq := w.quiet, winc := w.inc, sinj := w.s2.1, scon := w.s2.2.1, sloss := w.s2.2.2 }
      (¬comes → arrive = .next s) ∧
      (comes → ∃ t, arrive = .next t ∧ (getWave t job).told = die :: w.told ∧ (getWave t job).num = w.num ∧ t.mem = s.mem ∧
        ((getWave t job).running = true ↔ ∃ d ∈ leaves, ¬cut d ∧ d ≠ die ∧ d ∉ w.told) ∧
        (w.quiet = false → getJob t key = kept ∧ t.cores = s.cores) ∧
        (let awaits := fun (c : Ctx) => ∃ x ∈ c.waits, ∃ after z, x.kind = .quiet key after z none ∧ after < w.begun
         w.quiet = true → (∀ q ∈ s.cores, ¬awaits q.2.ctx ∧ ∀ h, q.2.svc = some h → ¬awaits h.host) → (∀ v ∈ s.saved, ¬awaits v.ctx) →
           getJob t key = kept ∧ t.cores = s.cores) ∧
        (∀ c slot seq dst after z,
          (getCore s c).ctx.waits = [{ kind := .quiet key after z none, slot := slot, seq := seq, dst := dst }] → w.begun ≤ after →
          (getCore t c).ctx = (getCore s c).ctx) ∧
        (w.quiet = true → ∀ c slot seq dst after z,
          (getCore s c).ctx.waits = [{ kind := .quiet key after z none, slot := slot, seq := seq, dst := dst }] → after < w.begun →
          getJob t key = { kept with lseen := w.s2.2.2 } ∧
          (getCore t c).ctx.waits = [{ kind := .quiet key after z
                                         (some (statusW (if j.lseen < w.s2.2.2 then 7 else 6) w.num)), slot := slot, seq := seq
                                       dst := dst }])))

/-! ## Crossbar, partitions, loader, energy -/

/-- R265, R266, R267, R275, R278: which packet a slot of the wheel carries, what a revolution puts in force, and the writes of ring maps
and of unused wavelengths. That every packet counts as 256 bytes on a channel with unused wavelengths, where R265 says no more than that it
has at most 512, and so takes ⌈256 ∕ 16w⌉ slots of R278, is the model's choice (log 22). -/
def Obligations.WheelsAndRings : Prop :=
  ∀ (chan bank : Nat) (v : BitVec 256) (woff : BitVec 32) (s : State),
    let c := getChan s chan
    let slot := exec (.wheelSlot chan) s
    let waves := 32 - ((List.range 32).filter fun i => c.woffNow.getLsbD i).length
    let slots := (256 + 16 * waves - 1) / (16 * waves)
    let owner := smGet c.octets (s.wheel % 64 % 8)
    let cyclic := fun (p : Packet) => (p.site + 17 - (c.lastFree + 1) % 17) % 17
    let free := fun (p : Packet) => p ∈ c.ready ∧ (p.cls = 1 ∨ p.cls = 2)
    let owned := fun (p : Packet) => p ∈ c.ready ∧ p.cls = 0 ∧ owner = some p.part
    (c.busy ≠ 0 → slot = .next (setChan s chan { c with busy := c.busy - 1 })) ∧
    (c.busy = 0 → waves = 0 ∨ (∀ p ∈ c.ready, ¬free p ∧ ¬owned p) → slot = .next (setChan s chan c)) ∧
    (c.busy = 0 → waves ≠ 0 → (∃ p, owned p) → ∃ p, owned p ∧
      slot = .next (setChan s chan { c with ready := c.ready.erase p, busy := slots - 1 })) ∧
    (c.busy = 0 → waves ≠ 0 → (∀ p, ¬owned p) → (∀ p ∈ c.ready, p.site < 17) → (∃ p, free p) → ∃ p, free p ∧
      (∀ q, free q → cyclic p ≤ cyclic q ∧ (q.site = p.site → p.cls ≤ q.cls)) ∧
      slot = .next (setChan s chan { c with ready := c.ready.erase p, lastFree := p.site, busy := slots - 1 })) ∧
    (∃ t, exec (.wheelRevolution chan) s = .next t ∧ t = { s with chans := t.chans, rmapNow := t.rmapNow } ∧
      getChan t chan = { c with woffNow := c.woff } ∧ (∀ m, m ≠ chan → getChan t m = getChan s m) ∧
      (∀ b < 18, smGetD t.rmapNow (chan * 18 + b) rmapReset = smGetD s.rmap (chan * 18 + b) rmapReset) ∧
      ∀ n, (∀ b < 18, n ≠ chan * 18 + b) → smGetD t.rmapNow n rmapReset = smGetD s.rmapNow n rmapReset) ∧
    (let rings := (List.range 32).map fun l => bits v.toNat (6 * l) 6
     let write := exec (.kilnMapWrite chan bank v) s
     ((∃ r ∈ rings, 35 < r) ∨ ¬rings.Nodup → write = .next s) ∧
     ((∀ r ∈ rings, r ≤ 35) → rings.Nodup → ∃ m, write = .next { s with rmap := m } ∧
       ∀ n, smGetD m n rmapReset = if n = chan * 18 + bank then BitVec.ofNat 256 (v.toNat % 2 ^ 192) else smGetD s.rmap n rmapReset)) ∧
    (let t := setChan s chan { c with woff := woff }
     let first := c.woff = 0 ∧ woff ≠ 0
     (¬first → exec (.kilnChstWrite chan woff) s = .next t) ∧
     (first → ∃ pa, exec (.kilnChstWrite chan woff) s = .next (errorRecord 0 3 0 0 0 0 0 pa none t)))

/-- R215, R250, R305, R306, R307, R310 to R315: event and error records in their rings, the writes of a partition's descriptor, with each
ground on which one is refused, and of its root, the sweep of groups, the loading and revoking of a key, and an error that the scrubber or
another reader finds. The model's choices: that the row `patrolScrub` stands for every reader, and for words of a core's own memory
(log 57), and that the lines which a cache drops without write-back, when a quad passes on or a key is revoked, are any of those that it
could hold, HBM holding any bytes there (log 60): the statement says of which bytes they are none. -/
def Obligations.PartitionsAndKeys : Prop :=
  ∀ (part slot pa core word : Nat) (m : Sram) (desc : BitVec 1024) (v : Word) (pair : BitVec 512) (err : Fin 3) (s : State),
    let x := getPart s part
    let old := x.desc.toNat
    let new := desc.toNat
    (∀ code region frame value,
      let full := (x.evHead + 2 ^ 32 - x.evTail) % 2 ^ 32 = 2048
      let record := code + region % 8 * 2 ^ 8 + region / 8 * 2 ^ 11 + part * 2 ^ 16 + frame % 2 ^ 64 * 2 ^ 64 +
        s.tick % 2 ^ 64 * 2 ^ 128 + value % 2 ^ 64 * 2 ^ 192
      (full → eventRecord part code region frame value s = setPart s part { x with evLost := (x.evLost + 1) % 2 ^ 32 }) ∧
      (¬full → eventRecord part code region frame value s =
        setPart { s with mem := mWriteN s.mem (bits old 448 48 + x.evHead % 2048 * 32) (leBytes 32 record) } part
          { x with evHead := (x.evHead + 1) % 2 ^ 32 })) ∧
    (∀ kind cause orig engine reason id paddr va,
      let full := (x.erHead + 2 ^ 32 - x.erTail) % 2 ^ 32 = 1024
      let at_ := bits old 512 48 + x.erHead % 1024 * 64
      let address := match va with
        | some a => a % 2 ^ 55 + 2 ^ 63
        | none => 0
      let record := kind + cause * 2 ^ 8 + orig * 2 ^ 16 + engine * 2 ^ 24 + reason * 2 ^ 32 + id * 2 ^ 40 + paddr * 2 ^ 64 +
        address * 2 ^ 128 + s.tick % 2 ^ 64 * 2 ^ 192 + x.cecnt % 2 ^ 32 * 2 ^ 256
      let write := errorRecord part kind cause orig engine reason id paddr va s
      (full → write = setPart s part { x with erLost := (x.erLost + 1) % 2 ^ 32 }) ∧
      (¬full → write = setPart
        { s with mem := mWriteN s.mem at_ (leBytes 64 record), poison := s.poison.filter fun q => decide (q * 64 ≠ at_) } part
        { x with erHead := (x.erHead + 1) % 2 ^ 32 })) ∧
    (let write := exec (.partdescWrite part desc) s
     let fixed := bits new 324 60 = 0 ∧ bits new 432 16 = 0 ∧ bits new 496 16 = 0 ∧ bits new 560 16 = 0 ∧ bits new 887 137 = 0
     let claims := fun (d i : Nat) => (i < 320 ∧ d.testBit i = true) ∨ (320 ≤ i ∧ i < 576 ∧ d.testBit (256 + i) = true)
     let gained := fun (i : Nat) => new.testBit i = true ∧ old.testBit i = false
     let resplit := bits old 320 3 ≠ bits new 320 3
     let active := old.testBit 323 = true
     let refused := ¬fixed ∨ 5 ≤ bits new 320 3 ∨
       (active ∧ (bits old 0 323 ≠ bits new 0 323 ∨ bits old 832 55 ≠ bits new 832 55)) ∨
       (∃ q ∈ s.parts, q.1 ≠ part ∧ ∃ i, claims q.2.desc.toNat i ∧ claims new i) ∨
       (∃ st < 12, bits new (128 + 16 * st) 16 ≠ 0 ∧ bits new (64 + 16 * (st / 3)) 16 = 0) ∨
       (new.testBit 323 = true ∧ x.sweep ≠ []) ∨
       (active ∧ ∃ k < 256, old.testBit (576 + k) = true ∧ new.testBit (576 + k) = false ∧ (getKey s k).revoked = false)
     let cached := fun (a : Nat) => ∃ st g, paKind (a / 64 * 64) = .hbm st g ∧ ∃ q ∈ s.parts, q.1 = part ∧
       q.2.desc.toNat.testBit (128 + 16 * st + g) = true
     let leaves := ∃ q < 64, old.testBit (64 + q) = true ∧ new.testBit (64 + q) = false
     (refused → write = .next s) ∧
     (¬refused → ∃ t, write = .next t ∧ t.regions = s.regions ∧
       (∀ r, (∀ n < 64, gained n → (getReq s r).core / 16 ≠ n ∧ ∀ p ∈ (getReq s r).pieces, ∀ c, landCore p.dst = some c → c / 16 ≠ n) →
         getReq t r = getReq s r) ∧
       (∀ r n, n < 64 → gained n → smGet s.reqs r ≠ none →
         ((getReq s r).core / 16 = n → (getReq t r).complete = true) ∧
         ∀ p ∈ (getReq t r).pieces, ∀ c, landCore p.dst = some c → c / 16 = n → 2 ≤ p.stage) ∧
       (getPart t part).sweep = (x.sweep.filter fun g => new.testBit (128 + 16 * g.1 + g.2)) ++
         ((List.range 192).filter fun i => decide (gained (128 + i))).map (fun i => (i / 16, i % 16)) ∧
       bits (getPart t part).desc.toNat 0 324 = bits new 0 324 ∧ bits (getPart t part).desc.toNat 576 256 = bits new 576 256 ∧
       (∀ a, (∃ die k off, paKind a = .slice die k off ∧ new.testBit (64 + 16 * die + k / 4) = true ∧
           (resplit ∨ old.testBit (64 + 16 * die + k / 4) = false) ∧ die < 4 ∧ k < 64) → mRead t.mem a = 0) ∧
       (∀ a, (∀ die k off, paKind a ≠ .slice die k off) → ¬(leaves ∧ cached a) → mRead t.mem a = mRead s.mem a) ∧
       (∀ n, n / 16 < 64 → gained (n / 16) → (getCore t n).run = .idle ∧ (getCore t n).spad = [] ∧ (getCore t n).ctx = {} ∧
         (getCore t n).blk = none ∧ (getCore t n).mx = {}) ∧
       (∀ n, n / 16 < 64 → ¬gained (n / 16) → getCore t n = getCore s n) ∧
       (∀ n, n < 64 → gained n → getXing t n = {} ∧ getTwe t n = {}))) ∧
    (let root := bits v.toNat 16 32
     ∃ t, exec (.ptrootWrite part v) s = .next t ∧ t.mem = s.mem ∧ t.cores = s.cores ∧
      bits (getPart t part).desc.toNat 384 48 = root * 2 ^ 16 ∧ bits (getPart t part).desc.toNat 0 384 = bits old 0 384 ∧
      bits (getPart t part).desc.toNat 432 592 = bits old 432 592 ∧
      t.tlbis = smPut s.tlbis s.nextReq { core := 0, part := part, scope := 3, lo := 0, hi := 2 ^ 55 }) ∧
    (∃ t, exec (.groupSweepDone part) s = .next t ∧ getPart t part = { x with sweep := [] } ∧ t.cores = s.cores ∧
      ∀ a, mRead t.mem a = match paKind a with
        | .hbm st g => if (st, g) ∈ x.sweep then 0 else mRead s.mem a
        | _ => mRead s.mem a) ∧
    (let k := getKey s slot
     let bad := (k.valid = true ∧ k.revoked = false) ∨ bits pair.toNat 0 256 = bits pair.toNat 256 256
     (bad → exec (.keyload slot pair) s = .next s) ∧
     (¬bad → exec (.keyload slot pair) s =
       .next { s with keys := smPut s.keys slot { valid := true, revoked := false, pair := pair, loads := k.loads + 1 } }) ∧
     ∃ t, exec (.keyRevoke slot) s = .next t ∧
       t = { s with
         keys := smPut s.keys slot { k with revoked := true }
         mem := t.mem
         sched := { s.sched with choice := s.sched.choice + 1 } } ∧
       ∀ a, (∀ st g, paKind (64 * (a / 64)) ≠ .hbm st g) ∨ (smGet s.tags (a / 64)).or (smGet s.ftags (a / 64 / 1024)) ≠ some k.pair →
         mRead t.mem a = mRead s.mem a) ∧
    (let scrub := exec (.patrolScrub (.sram core m word) err) s
     let p := (ownerPart s core).getD 0
     let n := ((getPart s p).cecnt + 1) % 2 ^ 32
     let t := setPart s p { getPart s p with cecnt := n }
     (err = 0 → scrub = .next s) ∧
     (err = 1 → scrub = .next (if n % 4096 = 0 then errorRecord p 5 0 0 0 0 0 0 none t else t)) ∧
     (err = 2 → ∃ l, scrub = .next (setCore s core { getCore s core with badWords := l }) ∧
       ∀ q, q ∈ l ↔ q ∈ (getCore s core).badWords ∨ q = (m, word))) ∧
    (let scrub := exec (.patrolScrub (.mem pa) err) s
     let read := exec (.patrolScrub (.read pa) err) s
     let corrected := fun (p : Nat) =>
       let n := ((getPart s p).cecnt + 1) % 2 ^ 32
       let t := setPart s p { getPart s p with cecnt := n }
       if err ≠ 1 then s else if n % 4096 = 0 then errorRecord p 5 0 0 0 0 0 (pa / 64 * 64) none t else t
     let bad := err = 2 ∨ ∃ q ∈ s.poison, pa / 256 * 4 ≤ q ∧ q < pa / 256 * 4 + 4
     (paOwner s pa = none → scrub = .next s ∧ read = .next s) ∧
     ∀ p, paOwner s pa = some p →
       (¬bad → scrub = .next (corrected p)) ∧
       (err ≠ 2 → read = .next (corrected p)) ∧
       (err = 2 → ∃ u, read = .next u ∧ u = { s with poison := u.poison } ∧ ∀ q, q ∈ u.poison ↔ q ∈ s.poison ∨ q = pa / 64) ∧
       ((∃ q ∈ (corrected p).poison, pa / 256 * 4 ≤ q ∧ q < pa / 256 * 4 + 4) ∨ err = 2 →
         ∃ u, scrub = .next (errorRecord p 4 0 0 0 0 0 (pa / 64 * 64) none u) ∧
         u = { corrected p with poison := u.poison } ∧
         ∀ q, q ∈ u.poison ↔ q ∈ (corrected p).poison ∨ (pa / 256 * 4 ≤ q ∧ q < pa / 256 * 4 + 4)))

/-- R319, R320, R323 to R327: the load queue, with the record of a request that is rejected, of a bind and of an unbind; attestation,
accepted features and package reset. Layouts that the spec names without fixing are those of log 10; a bind places things as log 11 says,
and is stated here by what it answers; the digest of `MEAS` and the signature are the model's functions of other standards (log 53). That a row which is not due leaves the state as it is is the model's choice (log 20). -/
def Obligations.LoaderQueue : Prop :=
  ∀ (entry : Nat) (v : Word) (feat : BitVec 128) (s : State),
    let bind := exec (.loadqBind entry) s
    let unbind := exec (.loadqUnbind entry) s
    let other := exec (.loadqReservedOp entry) s
    let recordAt := fun (ring : Word) (w : Word) (t : State) (n : Nat) => ∀ i < 128,
      hostByte t (ring.toNat + 128 * (w.toNat % 32) + i) = BitVec.ofNat 8 (n / 256 ^ i)
    let record := recordAt s.mgmt.loadring
    let bound := fun (ring : Word) (w : Word) (t : State) (part handle : Nat) (i : Inst) (base : Nat) => ∃ o,
      (∀ j k, i.kernels[j]? = some k → bits o (32 * j) 32 = (k.origin - base) % 2 ^ 32) ∧
      recordAt ring w t (handle % 2 ^ 32 * 2 ^ 32 + part * 2 ^ 64 + i.meas.toNat * 2 ^ 128 + o * 2 ^ 384 +
        (if i.metas = 0 then 0 else i.metaBase) * 2 ^ 640)
    let live := fun (i : Inst) => (getObj s i.job).live = true ∧ (getObj s i.job).gen = i.jobGen
    let popped := fun (t : State) => t.mgmt = { s.mgmt with loadq := s.mgmt.loadq.drop 1, busy := false }
    let part := fun (w : Word) => bits w.toNat 52 4
    (entry ≠ 0 ∨ s.mgmt.loadq = [] → bind = .next s ∧ unbind = .next s ∧ other = .next s) ∧
    (∀ w rest, s.mgmt.loadq = w :: rest → entry = 0 →
      (bits w.toNat 56 2 ≠ 0 → bind = .next s) ∧ (bits w.toNat 56 2 ≠ 1 → unbind = .next s) ∧
      (bits w.toNat 56 2 < 2 → other = .next s) ∧
      (2 ≤ bits w.toNat 56 2 → ∃ t, other = .next t ∧ popped t ∧ record w t (1 + part w * 2 ^ 64) ∧ t.cores = s.cores ∧
        t.regions = s.regions) ∧
      (bits w.toNat 56 2 = 0 →
        let image := fun (i : Nat) => hostByte s (bits w.toNat 6 46 * 64 + i)
        (∀ st ix, bindTry s (part w) image false = .error (st, ix) → st < 2 ^ 8 → ix < 2 ^ 24 → ∃ t, bind = .next t ∧ popped t ∧
          record w t (st + ix * 2 ^ 8 + part w * 2 ^ 64 + leNat (sha256 ((List.range (imgLen image)).map image)) % 2 ^ 256 * 2 ^ 128) ∧
          t.cores = s.cores ∧ t.regions = s.regions ∧ t.insts = s.insts) ∧
        (imgNat image 0 4 ≠ 0x31564B49 → bindTry s (part w) image false = .error (1, 0)) ∧
        (partActive (getPart s (part w)) = false → bindTry s (part w) image false = .error (1, 0)) ∧
        (∀ u n, bindTry s (part w) image false = .ok (u, n) → ∃ t, bind = .next t ∧ t.insts = u.insts ∧
          (let i := getInst u n
           bound u.mgmt.loadring w t (part w) (objHandle i.job i.jobGen) i (partCodeBase (getPart u i.part))) ∧
          t.mgmt = { u.mgmt with loadq := u.mgmt.loadq.drop 1, busy := false } ∧
          t.cores = u.cores ∧ t.regions = u.regions ∧ t.parts = u.parts)) ∧
      (bits w.toNat 56 2 = 1 →
        let h := bits w.toNat 6 32
        (instOf s (part w) h = none → ∃ t, unbind = .next t ∧ popped t ∧ record w t (11 + part w * 2 ^ 64) ∧ t.cores = s.cores) ∧
        (∀ n i, instOf s (part w) h = some (n, i) → i.live = true ∧ i.part = part w ∧ objHandle i.job i.jobGen = h) ∧
        (∀ n i, instOf s (part w) h = some (n, i) → live i →
          (s.mgmt.busy = true → unbind = .next s) ∧
          (s.mgmt.busy = false → unbind = .next (cancelObj i.job { s with mgmt := { s.mgmt with busy := true } }).1)) ∧
        (∀ n i, instOf s (part w) h = some (n, i) → ¬live i → getInst s n = i →
          ∃ t, unbind = .next t ∧ popped t ∧ t.cores = s.cores ∧ getInst t n = { i with live := false } ∧
          bound s.mgmt.loadring w t (part w) h i (partCodeBase (getPart s i.part)) ∧
          (∀ r ∈ i.regions, getRegion t r = {}) ∧ (∀ q ∈ t.clusterRegion, q.2 ∉ i.regions)))) ∧
    (let at_ := v.toNat / 64 * 64
     let image := fun (i : Nat) => hostByte s (at_ + i)
     ∃ t, exec (.attqRequest v) s = .next t ∧ t = { s with mem := t.mem, host := t.host } ∧
      ((∀ i ∈ s.insts, i.2.live = false ∨ objHandle i.2.job i.2.jobGen ≠ imgNat image 0 4) → ∀ i < 128, hostByte t (at_ + 64 + i) = 0) ∧
      (∀ n inst, s.insts.find? (fun i => i.2.live && objHandle i.2.job i.2.jobGen == imgNat image 0 4) = some (n, inst) →
        ∀ i < 32, hostByte t (at_ + 64 + i) = BitVec.ofNat 8 (inst.meas.toNat / 256 ^ i) ∧
          (inst.part < 16 → hostByte t (at_ + 64 + 56 + i) = image (32 + i)))) ∧
    ((∃ q ∈ s.parts, q.1 ≠ 0 ∧ partActive q.2 = true) → exec (.featAcceptWrite feat) s = .next s) ∧
    ((∀ q ∈ s.parts, q.1 = 0 ∨ partActive q.2 = false) →
      exec (.featAcceptWrite feat) s = .next { s with mgmt := { s.mgmt with featAccept := feat &&& s.mgmt.featOffer } }) ∧
    (s.mgmt.state ≠ 1 → exec .packageReset s = .next
      { sched := { tasks := [.ev .packageReset], inbox := s.sched.inbox, choice := s.sched.choice }
        host := s.host, mgmt := { state := 1 } }) ∧
    (s.mgmt.state = 1 → imgSigned Config.vendorKey Config.flashImage = false →
      exec .packageReset s = .next { s with mgmt := { s.mgmt with state := 3 } }) ∧
    (s.mgmt.state = 1 → imgSigned Config.vendorKey Config.flashImage = true →
      ∃ t, exec .packageReset s = .next t ∧ t.mgmt.state = 2 ∧ t.mgmt.featOffer = 0x1F)

/-- R23, R234, R237, R240, R241, R244, R293, R309, R319, R320, R328, R335, R276: the energy account of a partition by the microsecond and
by the window, its budget, the management registers, each with what a write keeps of its value, and what the window reads. The model's choices:
the request at the head of the queue is the one being processed (log 10); a write of `REGCFG` that changes what it names locks the region at
once and starts its clock at this tick at the nominal rate, a source that has given no edge counts as having given one then, and a source's
new period holds from the next cycle of its regions on (log 8); an `EWIN` outside its range is ignored and `LOADRING` drops its low bits
(log 61). -/
def Obligations.EnergyAndManagement : Prop :=
  ∀ (n m k : Nat) (v : BitVec 128) (w : Word) (s : State),
    let u := v.toNat
    let limit := fun (win : Nat) => 3300 * win * 2 ^ 20 / 10 ^ 6
    let write := fun (r : MgmtReg) => exec (.managementRegisterWrite r v) s
    let others := ((s.parts.filter fun x => x.1 != n).map fun x => x.2.credit).sum
    (∃ t, exec .energyWindowEnd s = .next { s with parts := t } ∧ ∀ p, smGet t p = (smGet s.parts p).map fun x =>
      { x with acct := min (x.acct + x.credit) x.cap }) ∧
    (∃ t, exec .energyMicrosecond s = .next { s with parts := t } ∧ ∀ p, smGet t p = (smGet s.parts p).map fun x =>
      { x with acct := max (x.acct - Config.energyDebit p s.mgmt.us) (-(2 ^ 63)) }) ∧
    (limit s.mgmt.ewin < others + w.toNat % 2 ^ 48 → exec (.ebudgetWrite n w) s = .next s) ∧
    (others + w.toNat % 2 ^ 48 ≤ limit s.mgmt.ewin →
      exec (.ebudgetWrite n w) s = .next (setPart s n { getPart s n with credit := w.toNat % 2 ^ 48 })) ∧
    (bits u 16 12 ≠ 0 → write (.svent n m) = .next { s with svents := smPut s.svents (16 * n + m) (BitVec.ofNat 32 (u % 2 ^ 28)) }) ∧
    (bits u 16 12 = 0 → ∃ t, write (.svent n m) = .next { s with
        svents := smPut s.svents (16 * n + m) (BitVec.ofNat 32 (u % 2 ^ 28)), cores := t } ∧
      ∀ c, smGet t c = (smGet s.cores c).map fun k => if c / 16 = n then
        { k with svreq := k.svreq &&& ~~~BitVec.ofNat 16 (2 ^ m) } else k) ∧
    write (.svctl n) = .next (setCore s n { getCore s n with
      dlreload := BitVec.ofNat 32 u
      dlen := u.testBit 32
      dbghold := if s.mgmt.featAccept.getLsbD 3 then u.testBit 33 else (getCore s n).dbghold }) ∧
    ((∃ c ∈ s.cores, c.1 / 16 = n ∧ c.2.svc ≠ none) → write (.svstore n m) = .next s) ∧
    ((∀ c ∈ s.cores, c.1 / 16 = n → c.2.svc = none) →
      write (.svstore n m) = .next { s with store := mWriteN s.store (65536 * n + m % 65536 / 8 * 8) (leBytes 8 u) }) ∧
    (let old := getSource s n
     let pnum := u % 2 ^ 24
     let pden := bits u 24 12
     let started := old.pnum = 0 ∨ old.pden = 0
     let now := if started ∧ old.times ≠ [] then [s.tick] else old.times
     let moved := fun (x : Region) => x.src = n ∧ x.ren = true ∧ x.st ≠ .idle ∧ ¬(old.pnum = pnum ∧ old.pden = pden)
     ((s.regions.map (·.1)).Nodup → ∃ t, write (.source n) = .next t ∧
       t = { setSource s n { old with pnum := pnum, pden := pden, sen := u.testBit 36, times := now } with regions := t.regions } ∧
       ∀ r, let x := getRegion s r
         let den := x.m * (if n = 0 then 1 else pden) * (909 * 2 ^ 12)
         let scaled := fun (q : Nat) => if x.den = 0 then 0 else (q * den + x.den - 1) / x.den
         getRegion t r = if moved x then
           { x with den := den, num := max (scaled x.num) (s.tick * den), step := if x.st = .holdover then scaled x.step else 0 } else x)) ∧
    (let x := getRegion s n
     let p := sourcePeriod s (bits u 36 5)
     let y := { x with
       m := u % 2 ^ 24, d := bits u 24 12, src := bits u 36 5, regbw := bits u 41 2, losn := bits u 43 8
       ioff := bits u 64 24, ren := u.testBit 51 }
     let same := x.m = y.m ∧ x.d = y.d ∧ x.src = y.src ∧ x.ren = y.ren
     let den := y.m * p.2 * (909 * 2 ^ 12)
     let t := setRegion s n (if same then y else if u.testBit 51 = false then { y with st := .idle }
       else { y with st := .locked, num := s.tick * den, den := den, step := 0 })
     let q := getSource s y.src
     write (.regcfg n) = .next (if u.testBit 51 = true ∧ y.src ≠ 0 ∧ q.times = [] then setSource t y.src { q with times := [s.tick] }
       else t)) ∧
    (let reads := fun (off : Nat) => windowRead s off
     let b := fun (q : Bool) => if q then 1 else 0
     reads 0x0008 = BitVec.ofNat 128 (s.mgmt.loadq.length + 2 ^ 5 * b s.mgmt.qfull + 2 ^ 6 * b (s.mgmt.loadq != [])) ∧
     reads 0x0010 = BitVec.ofNat 128 s.mgmt.loadring.toNat ∧ reads 0x0020 = s.mgmt.featOffer ∧ reads 0x0030 = s.mgmt.featAccept ∧
     reads 0x0040 = BitVec.ofNat 128 s.mgmt.state ∧ ∀ off, off ∉ [0x0008, 0x0010, 0x0020, 0x0030, 0x0040] → reads off = 0) ∧
    write (.wdcfg n) = .next (setRegion s n { getRegion s n with wd1 := u % 2 ^ 16, wd2 := bits u 16 16, wd3 := bits u 32 16 }) ∧
    write (.evtail n) = .next (setPart s n { getPart s n with evTail := u % 2 ^ 32 }) ∧
    write (.ertail n) = .next (setPart s n { getPart s n with erTail := u % 2 ^ 32 }) ∧
    write (.elow n) = .next (setPart s n { getPart s n with low := u % 2 ^ 48 }) ∧
    write (.ecap n) = .next (setPart s n { getPart s n with cap := u % 2 ^ 48 }) ∧
    (let win := u % 2 ^ 20
     let all := (s.parts.map fun x => x.2.credit).sum
     ((∀ x ∈ s.parts, x.1 < 16) → (win < 100 ∨ 1000000 < win ∨ limit win < all → write .ewin = .next s) ∧
      (100 ≤ win → win ≤ 1000000 → all ≤ limit win → write .ewin = .next { s with mgmt := { s.mgmt with ewin := win } }))) ∧
    write .fpkg = .next { s with mgmt := { s.mgmt with fpkg := u % 2 ^ 12 } } ∧
    (∃ h, write (.heat n m k) = .next { s with heat := h } ∧
      ∀ i, smGetD h i 2048 = if i = (n * 18 + m) * 36 + k then BitVec.ofNat 12 u else smGetD s.heat i 2048) ∧
    (s.mgmt.state ≠ 2 → write (.host 0x0000) = .next s) ∧
    (s.mgmt.state = 2 → s.mgmt.loadq.length < 16 →
      write (.host 0x0000) = .next { s with mgmt := { s.mgmt with loadq := s.mgmt.loadq ++ [BitVec.ofNat 64 u] } }) ∧
    (s.mgmt.state = 2 → 16 ≤ s.mgmt.loadq.length → write (.host 0x0000) = .next { s with mgmt := { s.mgmt with qfull := true } }) ∧
    (u.testBit 5 = true → write (.host 0x0008) = .next { s with mgmt := { s.mgmt with qfull := false } }) ∧
    (u.testBit 5 = false → write (.host 0x0008) = .next s) ∧
    write (.host 0x0010) = .next { s with mgmt := { s.mgmt with loadring := BitVec.ofNat 64 (u / 4096 * 4096) } } ∧
    write (.host 0x0030) = exec (.featAcceptWrite v) s ∧ write (.host 0x0048) = exec (.attqRequest (BitVec.ofNat 64 u)) s ∧
    (n ≠ 0x0000 → n ≠ 0x0008 → n ≠ 0x0010 → n ≠ 0x0030 → n ≠ 0x0048 → write (.host n) = .next s)

namespace Sys2Proof.Spec

/-- The end of a bundle's issue cycle on its core, as the sequence of R77 writes it: the pc goes to the pending target or past the
bundle, `NPC2` moves up, the entry of the bundle (or what an `sput` set, R95) takes its place, `STOP` ends the group (R46), return
addresses come one bundle nearer (R84), and `DEADLINE` is reloaded at a yield, a handler's too (R237), counted down otherwise. -/
def advance (stops yields : Bool) (len : Nat) (k : Core) : Core :=
  let c := k.ctx
  let past := c.pc + BitVec.ofNat 32 len
  { k with
    ran := true
    deadline := match c.dlPut with
      | some v => v
      | none => if yields then k.dlreload else if k.svc.isSome then k.deadline
          else if k.dlen = true ∧ k.deadline ≠ 0 then k.deadline - 1 else k.deadline
    dlSet := k.dlSet || c.dlPut.isSome
    dlHold := k.dlHold || c.dlPut.isSome
    ctx := { c with
      pc := if c.npc1.valid then c.npc1.target else past
      npc1 := c.npc1Set.getD c.npc2
      npc2 := c.npc2Set.getD c.entry
      entry := {}
      npc1Set := none
      npc2Set := none
      dlPut := none
      rets := c.rets.map fun r =>
        if r.left = 1 ∧ r.addr = true then { r with left := 0, val := past.setWidth 64 } else { r with left := r.left - 1 }
      grpK := if stops then 0 else c.grpK
      grpW := if stops then 0 else c.grpW
      grpP := if stops then 0 else c.grpP } }

/-- The context with the destination of an instruction in its group's record (R47). -/
def recorded (i : Instr) (c : Ctx) : Ctx :=
  (writesReg i).foldl (fun c r => match r with
    | .k n => { c with grpK := c.grpK ||| BitVec.ofNat 32 (2 ^ n.val) }
    | .w n => { c with grpW := c.grpW ||| BitVec.ofNat 16 (2 ^ n.val) }
    | .p n => { c with grpP := c.grpP ||| BitVec.ofNat 16 (2 ^ n.val) }) c

/-- A mask of slots. -/
def maskOf (l : List Nat) : Nat := ((List.range 6).map fun n => if n ∈ l then 2 ^ n else 0).sum

/-- The slots of a bundle whose word fails to decode in a given way, with both optional features of the package or without. -/
def failingSlots (s : State) (e : DecErr) (ws : List (Nat × Word)) : List Nat :=
  (ws.filter fun x => decide (decodeSlot (feature s 0) (feature s 2) x.1 x.2 = .error e)).map (·.1)

/-- The instructions of a list issue one after the other, each in its slot; those of the copy slots find the slots of the operand
memories claimed as they were before the bundle (R195). -/
def runs (claimed : BitVec 24) : List InSlot → State → State → Prop
  | [], s, t => t = s
  | x :: xs, s, t =>
    let before := if 4 ≤ x.slot then setCur s { cur s with mx := { (cur s).mx with claimed := claimed } } else s
    ∃ u, runSlot x before = .ok u ∧
      runs claimed xs (if 4 ≤ x.slot then setCore u s.sched.cur { getCore u s.sched.cur with
        mx := { (getCore u s.sched.cur).mx with claimed := (cur s).mx.claimed } } else u) t

/-- What the bundle of a legal template does, `ws` being the words of its present slots and `done` the outcome: the first decode
condition of R55 is taken with the mask of every slot that has it; of the decoded instructions `b`, on the state in which what waits for
the bundle has landed, a use that a handler may not make (R235), a clash of destinations or an oversubscribed port, a group dependence
(`writesReg` and `readsReg` being the registers that the fields of an instruction name), a use without privilege, then the first
execution trap by slot, then `INFLIGHT`; else the instructions have their effects, in the order of `rankOf` (R76, R95; that the S slot
reads first is log 54), their destinations are recorded, and the cycle ends. -/
def bundleDoes (tpl : Unit16) (ws : List (Nat × Word)) (len : Nat) (s : State) (done : Host.Outcome State Fault Refusal) : Prop :=
  let stop := fun (cause : Cause) (e : DecErr) =>
    takeStop s.sched.cur { cause := cause, smask := maskOf (failingSlots s e ws), engine := 1 } s
  let k := cur s
  let s0 := setCtx s (landRets (curCtx s))
  let c := curCtx s0
  (failingSlots s .badOpc ws ≠ [] → done = .next (stop .badopc .badOpc)) ∧
  (failingSlots s .badOpc ws = [] → failingSlots s .badFld ws ≠ [] → done = .next (stop .badfld .badFld)) ∧
  (failingSlots s .badOpc ws = [] → failingSlots s .badFld ws = [] → failingSlots s .badOpnd ws ≠ [] →
    done = .next (stop .badopnd .badOpnd)) ∧
  (∀ b : List InSlot, ws.map (fun x => (x.1, decodeSlot (feature s 0) (feature s 2) x.1 x.2)) = b.map (fun x => (x.slot, .ok x.i)) →
    let takes := fun (P : InSlot → Prop) (cause : Cause) (engine : Nat) => ∃ m < 64,
      (∀ n < 6, m.testBit n = true ↔ ∃ x ∈ b, x.slot = n ∧ P x) ∧
      done = .next (takeStop s.sched.cur { cause := cause, smask := m, engine := engine } s)
    let none_ := fun (P : InSlot → Prop) => ∀ x ∈ b, ¬P x
    let bars := fun (x : InSlot) => k.svc.isSome = true ∧ (handlerBars x.i = true ∨ (1 ≤ x.slot ∧ x.slot ≤ 3))
    let clash := fun (x : InSlot) =>
      (∃ y ∈ b, y.slot ≠ x.slot ∧ ∃ r, isKeep r = true ∧ r ∈ writesReg x.i ∧ r ∈ writesReg y.i) ∨
      ∃ p, portOf x.i = some p ∧ (if p = .vector then 2 else 1) < (b.filter fun y => decide (portOf y.i = some p)).length
    let depends := fun (x : InSlot) => ∃ r ∈ readsReg (onNow c x.i) x.i, inGroup c r = true ∨ ∃ y ∈ b, y.slot ≠ x.slot ∧ r ∈ writesReg y.i
    let lacks := fun (x : InSlot) => (needsKernel x.i = true ∧ coreKern k = false) ∨ (needsConductor x.i = true ∧ coreConductor k = false)
    let fine := none_ bars ∧ none_ clash ∧ none_ depends ∧ none_ lacks
    let vec := fun (x : InSlot) => ((namesOf x.i).bind (·.dv)).isSome = true ∧ x.i ≠ .nop
    let full := 16 < (c.inflight.filter fun l => isVecRes l.res && decide (c.bc + 2 ≤ l.due)).length + addedVecs s0 b ∧ ∃ x ∈ b, vec x
    let goes := fine ∧ (∀ x ∈ b, ∃ t, runSlot x s0 = .ok t) ∧ ¬full
    let ends := fun (u : State) => .next (setCur u (advance (tpl.getLsbD 6) (tpl.getLsbD 7) len
      { cur u with ctx := b.foldl (fun c x => recorded x.i c) (curCtx u) }))
    (∀ x ∈ b, ∀ t u, runSlot x t = .ok u → exec x.i (atSlot x.slot t) = .next u) ∧
    ((∃ x ∈ b, bars x) → takes bars .badopc 1) ∧
    (none_ bars → (∃ x ∈ b, clash x) → takes clash .bundle 1) ∧
    (none_ bars → none_ clash → (∃ x ∈ b, depends x) → takes depends .groupdep 1) ∧
    (none_ bars → none_ clash → none_ depends → (∃ x ∈ b, lacks x) → takes lacks .priv 1) ∧
    (fine → ∀ before x after e, b = before ++ x :: after → (∀ y ∈ before, ∃ t, runSlot y s0 = .ok t) → runSlot x s0 = .error e →
      (e.cause ≠ .dataerr → done = .next (takeStop s.sched.cur e s)) ∧
      (e.cause = .dataerr → e.engine = 0 ∨ e.engine = 2 ∨ e.engine = 3 →
        done = .next (dataErrRetry s.sched.cur (takeStop s.sched.cur e s)))) ∧
    (fine → (∀ x ∈ b, ∃ t, runSlot x s0 = .ok t) → full → takes vec .inflight 0) ∧
    (goes → ∀ u, runs k.mx.claimed ((List.range 5).flatMap fun n => b.filter fun x => rankOf x.i == n) s0 u → done = ends u) ∧
    (goes → ∀ x, b = [x] → ∃ u, exec x.i (atSlot x.slot s0) = .next u ∧
      done = ends (if x.slot < 4 then u else setCore u s.sched.cur { getCore u s.sched.cur with
        mx := { (getCore u s.sched.cur).mx with claimed := k.mx.claimed } })) ∧
    (b = [] → done = ends s0))

end Sys2Proof.Spec

/-! ## Bundles, landings, reset, the step -/

/-- R30, R39, R43 to R47, R54, R55, R77, R79, R173, R235, R307: a bundle of the dictionary, a literal bundle, the empty bundle and an
annulled bundle, with the checks of each and the effects of its instructions together. The model's readings: which operands count for
`GROUPDEP` when a guard reads 0 (log 5), that a use barred to a handler stops with `BADOPC` before the checks of its group (log 48), that
the `YIELD` of an annulled bundle reloads `DEADLINE` (log 49), the order of the effects where two slots change one register (logs 54 and
58), and what a word of a failing dictionary entry stops with (log 56). -/
def Obligations.Bundles : Prop :=
  ∀ (s : State),
    let k := cur s
    let bad : Stop := { cause := .badtpl, smask := 0, engine := 1 }
    let invcu : Stop := { cause := .invcu, smask := 0, engine := 1 }
    let legal := fun (tpl : Unit16) => tpl.toNat / 2 ^ 12 = 0xA ∧ tpl.toNat / 2 ^ 9 % 8 = 0
    let entryTpl := fun (idx : Nat) => BitVec.ofNat 16 (leNat (mReadN k.dict (50 * idx) 2))
    let entryWord := fun (idx n : Nat) => BitVec.ofNat 64 (leNat (mReadN k.dict (50 * idx + 2 + 8 * n) 8))
    let count := fun (tpl : Unit16) => ((List.range 6).filter fun n => tpl.toNat.testBit n).length
    let badTpl := fun (idx : Nat) => Spec.rotten k .dict (50 * idx) 2
    let badWord := fun (idx : Nat) => ∃ n < 6, (entryTpl idx).toNat.testBit n = true ∧ Spec.rotten k .dict (50 * idx + 2 + 8 * n) 8
    let dataerr : Stop := { cause := .dataerr, smask := 0, engine := 1, reason := 13 }
    let s0 := setCtx s (landRets (curCtx s))
    let ends := fun (tpl : Unit16) (len : Nat) => .next (setCur s0 (Spec.advance (tpl.getLsbD 6) (tpl.getLsbD 7) len (cur s0)))
    (∀ tpl words, (¬ legal tpl ∨ tpl.toNat % 64 = 0) →
      exec (.issueLiteralBundle tpl words) s = .next (takeStop s.sched.cur bad s) ∧
      exec (.annulledBundle (.literal tpl)) s = .next (takeStop s.sched.cur bad s)) ∧
    (∀ tpl words, legal tpl → tpl.toNat % 64 ≠ 0 →
      Spec.bundleDoes tpl (((List.range 6).filter fun n => tpl.toNat.testBit n).zip words) (2 + 4 * count tpl) s
        (exec (.issueLiteralBundle tpl words) s)) ∧
    (∀ idx, k.svc = none →
      (badTpl idx ∨ badWord idx → exec (.issueDictionaryBundle idx) s = .next (takeStop s.sched.cur dataerr s)) ∧
      (badTpl idx → exec (.annulledBundle (.dict idx)) s = .next (takeStop s.sched.cur dataerr s))) ∧
    (∀ idx, k.svc = none → ¬badTpl idx → ¬ legal (entryTpl idx) →
      (¬badWord idx → exec (.issueDictionaryBundle idx) s = .next (takeStop s.sched.cur bad s)) ∧
      exec (.annulledBundle (.dict idx)) s = .next (takeStop s.sched.cur bad s)) ∧
    (∀ idx, k.svc ≠ none →
      exec (.issueDictionaryBundle idx) s = .next (takeStop s.sched.cur invcu s) ∧
      exec (.annulledBundle (.dict idx)) s = .next (takeStop s.sched.cur invcu s)) ∧
    (∀ idx, k.svc = none → ¬badTpl idx → ¬badWord idx → legal (entryTpl idx) →
      Spec.bundleDoes (entryTpl idx)
        (((List.range 6).filter fun n => (entryTpl idx).toNat.testBit n).map fun n => (n, entryWord idx n)) 1 s
        (exec (.issueDictionaryBundle idx) s)) ∧
    exec .emptyBundle s = ends 0 1 ∧
    exec (.annulledBundle .empty) s = ends 0 1 ∧
    (∀ tpl, legal tpl → tpl.toNat % 64 ≠ 0 → exec (.annulledBundle (.literal tpl)) s = ends tpl (2 + 4 * count tpl)) ∧
    (∀ idx, k.svc = none → ¬badTpl idx → legal (entryTpl idx) → exec (.annulledBundle (.dict idx)) s = ends (entryTpl idx) 1) ∧
    exec .nop s = .next s

/-- R27 to R31, R84: the results that are due land where their destinations send them, with their flags: all of them in the order of their
slots, of one slot in the order of issue, so that the last of them is the newest of its belt and what its register holds; a return address
or another result that waits for the bundle takes its place among those of its cycle.
R26, R28, R34, R35, R49: what a scalar, vector or predicate operand reads of a context, and when it reads a void entry. -/
def Obligations.Landings : Prop :=
  (∀ (c : Ctx),
    let sval := fun (x : SVal) => if x.void = true then 0 else x.v
    let vval := fun (x : VVal) => if x.void = true then 0 else x.v
    (∀ n : Fin 16, let x := c.sb.getD n.val ⟨0, true⟩
      valS c (.b n) = sval x ∧ voidS c (.b n) = x.void) ∧
    (∀ n : Fin 32, let x := (smGet c.sk n.val).getD ⟨0, true⟩
      valS c (.k n) = sval x ∧ voidS c (.k n) = x.void) ∧
    (∀ n : Fin 16, let x := c.vb.getD n.val ⟨0, true⟩
      valV c (.vb n) = vval x ∧ voidV c (.vb n) = x.void) ∧
    (∀ n : Fin 16, let x := (smGet c.vk n.val).getD ⟨0, true⟩
      valV c (.w n) = vval x ∧ voidV c (.w n) = x.void) ∧
    valS c .zero = 0 ∧ valS c .one = 1 ∧ valS c .minus1 = BitVec.allOnes 64 ∧ valV c .vzero = 0 ∧
    (∀ o ∈ [SOp.zero, .one, .minus1], voidS c o = false) ∧ voidV c .vzero = false ∧
    valP c 0 = true ∧ voidP c 0 = false ∧
    (∀ n : Fin 16, n ≠ 0 → valP c n = (c.preds.getLsbD n.val && !c.pvoid.getLsbD n.val) ∧ voidP c n = c.pvoid.getLsbD n.val) ∧
    (∀ g : Guard, guardOn c g = xor (valP c g.p) g.neg)) ∧
  (∀ (c : Ctx) (r : RetPend), c.rets.filter (fun q => decide (q.left = 0)) = [r] →
    let later := fun (m : Landing) => r.slot < m.slot ∨ (m.slot = r.slot ∧ r.seq < m.seq)
    let l : Landing := ⟨0, r.slot, r.seq, resS r.dst r.val, 0⟩
    let base := { c with rets := c.rets.filter fun q => decide (q.left ≠ 0), landed := c.landed ++ [l] }
    (r.dst = .discard → landRets c = base) ∧
    (r.dst = .belt →
      let n := (c.landed.filter fun m => decide (later m) && match m.res with | .sbelt _ => true | _ => false).length
      landRets c = { base with sb := (c.sb.take n ++ ⟨r.val, false⟩ :: c.sb.drop n).take 16 }) ∧
    (∀ i, r.dst = .k i →
      ((∃ m ∈ c.landed, later m ∧ ∃ v, m.res = .k i v) → landRets c = base) ∧
      ((∀ m ∈ c.landed, later m → ∀ v, m.res ≠ .k i v) → landRets c = { base with sk := smPut c.sk i.val ⟨r.val, false⟩ }))) ∧
  ∀ (core : Nat) (s : State),
    let k := getCore s core
    let c := k.ctx
    let now := c.inflight.filter fun l => decide (l.due ≤ c.bc)
    let rest := c.inflight.filter fun l => decide (c.bc < l.due)
    let lands := fun (c' : Ctx) => exec (.resultLanding core) s = .next (setCore s core { k with ctx := c' })
    (∀ l, now = [l] →
      lands (match l.res with
        | .sbelt v => { c with inflight := rest, landed := [l], flags := c.flags ||| l.flags, sb := (⟨v, false⟩ :: c.sb).take 16 }
        | .vbelt v => { c with inflight := rest, landed := [l], flags := c.flags ||| l.flags, vb := (⟨v, false⟩ :: c.vb).take 16 }
        | .k i v => { c with inflight := rest, landed := [l], flags := c.flags ||| l.flags, sk := smPut c.sk i.val ⟨v, false⟩ }
        | .w i v => { c with inflight := rest, landed := [l], flags := c.flags ||| l.flags, vk := smPut c.vk i.val ⟨v, false⟩ }
        | .pred i v =>
          if i.val = 0 then { c with inflight := rest, landed := [l], flags := c.flags ||| l.flags }
          else
            let m : BitVec 16 := BitVec.ofNat 16 (2 ^ i.val)
            { c with inflight := rest, landed := [l], flags := c.flags ||| l.flags,
                     preds := if v then c.preds ||| m else c.preds &&& ~~~m, pvoid := c.pvoid &&& ~~~m }
        | .drop _ => { c with inflight := rest, landed := [l], flags := c.flags ||| l.flags })) ∧
    (now = [] → lands { c with landed := [] }) ∧
    (let order := now.insertionSort fun a b => a.slot < b.slot ∨ (a.slot = b.slot ∧ a.seq ≤ b.seq)
     let scalars := order.filterMap fun l => match l.res with | .sbelt v => some (⟨v, false⟩ : SVal) | _ => none
     let vectors := order.filterMap fun l => match l.res with | .vbelt v => some (⟨v, false⟩ : VVal) | _ => none
     let toK := fun (i : Fin 32) => order.filterMap fun l => match l.res with | .k j v => if j = i then some v else none | _ => none
     let toW := fun (i : Fin 16) => order.filterMap fun l => match l.res with | .w j v => if j = i then some v else none | _ => none
     let toP := fun (i : Fin 16) => order.filterMap fun l => match l.res with | .pred j v => if j = i then some v else none | _ => none
     c.sb.length ≤ 16 → c.vb.length ≤ 16 → ∃ c' : Ctx, lands c' ∧
       c' = { c with
         inflight := rest, landed := order, flags := order.foldl (fun f l => f ||| l.flags) c.flags
         sb := (scalars.reverse ++ c.sb).take 16, vb := (vectors.reverse ++ c.vb).take 16
         sk := c'.sk, vk := c'.vk, preds := c'.preds, pvoid := c'.pvoid } ∧
       (∀ i : Fin 32, smGet c'.sk i.val = match (toK i).getLast? with | some v => some ⟨v, false⟩ | none => smGet c.sk i.val) ∧
       (∀ i : Fin 16, smGet c'.vk i.val = match (toW i).getLast? with | some v => some ⟨v, false⟩ | none => smGet c.vk i.val) ∧
       ∀ i : Fin 16, (c'.preds.getLsbD i.val, c'.pvoid.getLsbD i.val) =
         match (if i = 0 then none else (toP i).getLast?) with
           | some v => (v, false)
           | none => (c.preds.getLsbD i.val, c.pvoid.getLsbD i.val))

namespace Sys2Proof.Spec

/-- The code unit `u` stands at byte address `a` in the code stream buffer of a core (R39, R231), in no word that cannot be corrected
(R307): low byte first. -/
def unitAt (k : Core) (a : Nat) (u : Unit16) : Prop :=
  ¬rotten k .code a 2 ∧ ∃ bs, smGet k.code (a / 256) = some (.bytes bs) ∧
    u = BitVec.ofNat 16 ((bs.getD (a % 256) 0).toNat + 256 * (bs.getD (a % 256 + 1) 0).toNat)

/-- The words of a literal bundle stand from byte address `a` up, four units each, bits [15:0] first (R40). -/
def wordsAt (k : Core) (a : Nat) (words : List Word) : Prop :=
  ∀ (n j : Nat), n < words.length → j < 4 →
    unitAt k (a + 8 * n + 2 * j) (BitVec.extractLsb' (16 * j) 16 (words.getD n 0))

/-- Nothing but a bundle is due on a core: it runs and has not resumed in this cycle (log 12), no kill, service call, debug halt,
pre-emption, forced yield, wait or fault is pending (R170), no promise is broken (R197), and no branch annuls the bundle (R79). -/
def bundleDue (s : State) (c : Nat) : Prop :=
  let k := getCore s c
  k.run = .running ∧ k.resumed = false ∧ k.killAt = none ∧ k.svc = none ∧ k.ctx.svc = none ∧ k.pendDbg = false ∧ k.pendPre = false ∧
  k.ctx.waits = [] ∧ ¬ (k.dlen = true ∧ k.deadline = 0) ∧ k.ctx.npc1.annul = false ∧ k.ctx.npc2.annul = false ∧
  k.faults = [] ∧ broken s c = none

/-- A template without `YIELD` whose bundle has no `mmas`, the one instruction whose metadata is fetched first (R161). -/
def plainTpl (s : State) (tpl : Unit16) (ws : List (Nat × Word)) : Prop :=
  tpl.getLsbD 7 = false ∧
  ∀ x ∈ ws, ∀ g ef d oa ob, decodeSlot (feature s 0) (feature s 2) x.1 x.2 ≠ .ok (.mmas g ef d oa ob)

end Sys2Proof.Spec

namespace Sys2Proof.Spec

/-- The canonical form of the matrix engine's data (R146, R150, R163): sorted rows, four tiles. -/
def rowsWf (m : Mx) : Prop :=
  ∀ d, d = m.now ∨ m.next = some d →
    smRising none d.data = true ∧ smRising none d.side = true ∧ smRising none d.planes = true ∧ d.tiles.length = 4

/-- The canonical form of a context: belts of 16 entries (R26), sorted keep registers, `p0` as 1 and never void (R34). -/
def ctxWf (c : Ctx) : Prop :=
  c.sb.length = 16 ∧ c.vb.length = 16 ∧ smRising none c.sk = true ∧ smRising none c.vk = true ∧
  c.preds.getLsbD 0 = true ∧ c.pvoid.getLsbD 0 = false

/-- The canonical form of a core: its scratchpad and dictionary (R75, R45), the contexts in it, and the matrix engine. -/
def coreWf (k : Core) : Prop :=
  Memory.wf k.spad = true ∧ Memory.wf k.dict = true ∧ ctxWf k.ctx ∧ (∀ v, k.svc = some v → ctxWf v.host) ∧
  rowsWf k.mx ∧ ∀ x, k.mxWas = some x → rowsWf x.1

/-- The canonical form of the whole state: physical memory (R302), host memory (R319), the service stores (R233); every core, saved
context and bound kernel; and the maps of units, sorted by their numbers. -/
def canonical (s : State) : Prop :=
  Memory.wf s.mem = true ∧ Memory.wf s.host = true ∧ Memory.wf s.store = true ∧
  (∀ x ∈ s.cores, coreWf x.2) ∧
  (∀ v ∈ s.saved, Memory.wf v.spad = true ∧ Memory.wf v.dict = true ∧ ctxWf v.ctx ∧ rowsWf v.mx) ∧
  (∀ x ∈ s.insts, ∀ kn ∈ x.2.kernels, Memory.wf kn.dict = true ∧ Memory.wf kn.scratch = true) ∧
  smRising none s.cores = true ∧ smRising none s.reqs = true ∧ smRising none s.rounds = true ∧
  smRising none s.clusterRegion = true ∧ smRising none s.regions = true ∧ smRising none s.xings = true ∧
  smRising none s.objs = true ∧ smRising none s.insts = true ∧ smRising none s.parts = true

end Sys2Proof.Spec

/-- What reset leaves (R1, R26, R34, R35, R37, R234, R244, R270, R275, R309, R313, R320, R328): every core idle, every context void
but `p0`, the system registers at the values of R35 and R37, and the registers of the management block at the values of their maps.
That a byte of memory which nothing has written reads 0 is the model's choice (log 2). -/
def Obligations.ResetState : Prop :=
  let s := State.reset
  (∀ c, let k := getCore s c
    k.run = .idle ∧ k.blk = none ∧ k.svreq = 0 ∧ k.dlreload = 0 ∧ k.dlen = false ∧ k.dbghold = false ∧ k.svused = 0 ∧
    (∀ n, n < 16 → (k.ctx.sb.getD n ⟨0, false⟩).void = true ∧ (k.ctx.vb.getD n ⟨0, false⟩).void = true) ∧
    k.ctx.sk = [] ∧ k.ctx.vk = [] ∧
    (∀ n, k.ctx.preds.getLsbD n = decide (n = 0)) ∧ (∀ n, n < 16 → k.ctx.pvoid.getLsbD n = decide (n ≠ 0)) ∧
    k.ctx.flags = 0 ∧ k.ctx.lc = 0 ∧ k.ctx.stages = 0 ∧ k.ctx.mpc = 0 ∧ k.ctx.npc1.valid = false ∧ k.ctx.npc2.valid = false ∧
    k.ctx.mempol = 0x000C ∧ k.ctx.poltabl = 0x000C000C000C000C ∧ k.ctx.poltabh = 0x000C000C000C ∧
    (∀ a, mRead k.spad a = 0)) ∧
  s.tick = 0 ∧
  (∀ r, let x := getRegion s r
    x.m = 0 ∧ x.d = 0 ∧ x.src = 0 ∧ x.regbw = 1 ∧ x.losn = 4 ∧ x.ren = false ∧ x.ioff = 0 ∧ x.st = .idle ∧ x.clamp = false ∧
    x.relock = false ∧ x.losts = 0) ∧
  (∀ p, let x := getPart s p
    x.desc = BitVec.ofNat 1024 (4 * 2 ^ 320) ∧ x.sweep = [] ∧ x.cecnt = 0 ∧ x.evHead = 0 ∧ x.evTail = 0 ∧ x.evLost = 0 ∧
    x.erHead = 0 ∧ x.erTail = 0 ∧ x.erLost = 0 ∧ x.acct = 0 ∧ x.credit = 0 ∧ x.low = 0 ∧ x.cap = 0) ∧
  s.mgmt.ewin = 1000 ∧ s.mgmt.state = 0 ∧ s.mgmt.loadq = [] ∧ s.mgmt.qfull = false ∧ s.mgmt.busy = false ∧
  (∀ n, (getKey s n).valid = false ∧ (getKey s n).revoked = false) ∧
  (∀ n, smGetD s.svents n 0 = 0) ∧ (∀ n, smGetD s.rdcown n 0 = 0) ∧
  (∀ n, smGetD s.heat n 2048 = 2048) ∧ (∀ n l, l < 32 → (rmapRings (smGetD s.rmap n rmapReset)).getD l 0 = l) ∧
  (∀ n, (getChan s n).woff = 0) ∧ (∀ ring, kilnMon s ring = 0) ∧
  Spec.canonical s ∧
  (∀ a, mRead s.mem a = 0 ∧ mRead s.host a = 0 ∧ mRead s.store a = 0) ∧
  s.sched.tasks = [.ev .packageReset]

/-- Slot words of the spec's examples, and what fails (R48, R49, R53, R55, R84, R145, R203, R205, R259, R347): the decoder reads
them as the instructions that they stand for. -/
def Obligations.DecodeWords : Prop :=
  let on : Guard := ⟨0, false⟩
  decodeSlot true true 0 0x4102400000000180 = .ok (.li on (.k 2) 3) ∧
  decodeSlot true true 0 0x5100800000001920 = .ok (.cmpi on .gt 1 (.b 0) 50) ∧
  decodeSlot true true 0 0x8010000000000440 = .ok (.br ⟨1, false⟩ .tk 8) ∧
  decodeSlot true true 0 0x8400180000001F84 = .ok (.loop on .zero 63 1) ∧
  decodeSlot true true 1 0x0102282001000000 = .ok (.vadd on (.w 1) .i32 (.w 0) (.w 0)) ∧
  decodeSlot true true 1 0x6100080000880000 = .ok (.xoutW on (.w 0)) ∧
  decodeSlot true true 3 0x11000106827E0000 = .ok (.mma on .bf16 1 2 3 0 63) ∧
  decodeSlot true true 4 0x01000A2AB2860000 = .ok (.cpyRd on .belt 2 (some 3) (.k 4) (.k 5) (.k 6)) ∧
  decodeSlot true true 4 0x4010092AB0000000 = .ok (.fsend ⟨1, false⟩ .belt 0 0 (.k 2) (.k 5) (.k 6)) ∧
  decodeSlot true true 0 0 = .ok .nop ∧
  decodeSlot true true 3 1 = .error .badFld ∧
  decodeSlot true true 1 0xFF00000000000000 = .error .badOpc ∧
  decodeSlot true true 0 0x0100198000000000 = .error .badOpnd

/-- Encoding and decoding agree (R39, R40, R42, R48 to R59): the code units of every well-formed instruction of a slot are a literal
bundle with that slot alone, whose word every slot of its class reads as the instruction; the bundle rows read back as
themselves. -/
def Obligations.DecodeEncode : Prop :=
  (∀ (i : Instr) (slot : Nat), i.wf = true → slotClass i = some slot →
    ∃ tpl word, decodeUnits (encode i) = some (.issueLiteralBundle tpl [word], []) ∧
      slotWords tpl [word] = [(slot, word)] ∧ decodeSlot true true slot word = .ok i ∧
      (slot = 4 → decodeSlot true true 5 word = .ok i)) ∧
  (∀ (idx : Nat) (us : List Unit16), (Instr.issueDictionaryBundle idx).wf = true →
    decodeUnits (encode (.issueDictionaryBundle idx) ++ us) = some (.issueDictionaryBundle idx, us)) ∧
  (∀ (us : List Unit16), decodeUnits (encode .emptyBundle ++ us) = some (.emptyBundle, us)) ∧
  (∀ (tpl : Unit16) (words : List Word) (us : List Unit16), (Instr.issueLiteralBundle tpl words).wf = true →
    tpl.toNat / 2 ^ 12 = 0xA → tpl.toNat / 2 ^ 9 % 8 = 0 → tpl.toNat % 64 ≠ 0 →
    decodeUnits (encode (.issueLiteralBundle tpl words) ++ us) = some (.issueLiteralBundle tpl words, us))


/-- Every row of the table has a next state in every state, and so has every step: nothing stops the package (R21, R55, R169 to R171
and R228 stop a core and say what its state is then). -/
def Obligations.NothingStopsThePackage : Prop :=
  (∀ (i : Instr) (s : State), ∃ t, exec i s = .next t) ∧ ∀ s : State, ∃ t, step s = .next t

/-- R26, R34, R75, R233, R302 with log 2: every row, and so every step, keeps the canonical form of the state: of every memory, which is
the model's own form, of the belts, of `p0`, and of the sorted maps of units. -/
def Obligations.MemoriesStayCanonical : Prop :=
  (∀ (i : Instr) (s t : State), Spec.canonical s → exec i s = .next t → Spec.canonical t) ∧
  ∀ (s t : State), Spec.canonical s → step s = .next t → Spec.canonical t

/-- R39, R40, R77: when a core's bundle is due and the bytes at its `PC` are a dictionary index, an escape with a template and its
slot words, or the empty bundle, the step is that row on the core, in the S slot first. The order of the tasks is the model's
(log 6).
The rows that the package makes happen (R13, R22): a step whose next task is one of them is the row itself, at the state without
the task; so is a step at a row that comes from outside, when no task is due. That these rows run one per step is the model's order
(log 6). -/
def Obligations.StepRunsDecoded : Prop :=
  (∀ (s : State) (c : Nat) (ts : List Task), s.sched.tasks = .act c :: ts →
    let s1 := { s with sched := { s.sched with tasks := ts, cur := c, slot := 0 } }
    let k := getCore s c
    let a := k.codeBase + 2 * k.ctx.pc.toNat
    Spec.bundleDue s1 c →
      (∀ idx, idx < 0x800 → Spec.unitAt k a (BitVec.ofNat 16 idx) → Spec.plainTpl s1 (dictTpl k idx) (dictWords k idx) →
        step s = exec (.issueDictionaryBundle idx) s1) ∧
      (∀ tpl words, Spec.unitAt k a 0xFFF0 → Spec.unitAt k (a + 2) tpl →
        tpl.toNat / 2 ^ 12 = 0xA → tpl.toNat / 2 ^ 9 % 8 = 0 → words.length = presCount tpl → Spec.wordsAt k (a + 4) words →
        Spec.plainTpl s1 tpl (slotWords tpl words) → step s = exec (.issueLiteralBundle tpl words) s1) ∧
      (Spec.unitAt k a 0xFFFE → step s = exec .emptyBundle s1) ∧
      (∀ u, Spec.unitAt k a u → 0x800 ≤ u.toNat → u.toNat ≠ 0xFFF0 → u.toNat ≠ 0xFFFE →
        step s = .next (takeStop c { cause := .invcu, smask := 0, engine := 1 } s1))) ∧
  ((∀ (i : Instr) (is : List Instr) (s : State), s.sched.tasks = [] →
    step { s with sched := { s.sched with inbox := i :: is } } = exec i { s with sched := { s.sched with inbox := is } }) ∧
  ∀ (s : State) (ts : List Task), s.sched.tasks = ts →
    let at_ := fun (e : Event) => { s with sched := { s.sched with tasks := .ev e :: ts } }
    (∀ core, step (at_ (.resultLanding core)) = exec (.resultLanding core) s) ∧
    (∀ core, step (at_ (.sleeptoWake core)) = exec (.sleeptoWake core) s) ∧
    (∀ core, step (at_ (.mwaitEnd core)) = exec (.mwaitEnd core) s) ∧
    (∀ core, step (at_ (.joinEnd core)) = exec (.joinEnd core) s) ∧
    (∀ core, step (at_ (.barwEnd core)) = exec (.barwEnd core) s) ∧
    (∀ core, step (at_ (.drainEnd core)) = exec (.drainEnd core) s) ∧
    (∀ core, step (at_ (.frecvEnd core)) = exec (.frecvEnd core) s) ∧
    (∀ core, step (at_ (.quietEnd core)) = exec (.quietEnd core) s) ∧
    (∀ core, step (at_ (.fstatRecordLanding core)) = exec (.fstatRecordLanding core) s) ∧
    (∀ core, step (at_ (.killTaken core)) = exec (.killTaken core) s) ∧
    (∀ core, step (at_ (.productStart core)) = exec (.productStart core) s) ∧
    (∀ core, step (at_ (.productRowLanding core)) = exec (.productRowLanding core) s) ∧
    (∀ core, step (at_ (.foldStart core)) = exec (.foldStart core) s) ∧
    (∀ core, step (at_ (.foldRowLanding core)) = exec (.foldRowLanding core) s) ∧
    (∀ core, step (at_ (.scanStart core)) = exec (.scanStart core) s) ∧
    (∀ core, step (at_ (.scanLanding core)) = exec (.scanLanding core) s) ∧
    (∀ core, step (at_ (.promise core)) = exec (.promise core) s) ∧
    (∀ core, step (at_ (.deadlineExpiry core)) = exec (.deadlineExpiry core) s) ∧
    (∀ core, step (at_ (.handlerEnd core)) = exec (.handlerEnd core) s) ∧
    (∀ core, step (at_ (.snapshotComplete core)) = exec (.snapshotComplete core) s) ∧
    (∀ core, step (at_ (.contextSave core)) = exec (.contextSave core) s) ∧
    (∀ core line, step (at_ (.codeLineFetch core line)) = exec (.codeLineFetch core line) s) ∧
    (∀ core record, step (at_ (.metadataFetch core record)) = exec (.metadataFetch core record) s) ∧
    (∀ core, step (at_ (.triggerCount core)) = exec (.triggerCount core) s) ∧
    (∀ core, step (at_ (.unitCount core)) = exec (.unitCount core) s) ∧
    (∀ req seg, step (at_ (.copySegmentLanding req seg)) = exec (.copySegmentLanding req seg) s) ∧
    (∀ req piece, step (at_ (.bytePerform req piece)) = exec (.bytePerform req piece) s) ∧
    (∀ req, step (at_ (.atomicPerform req)) = exec (.atomicPerform req) s) ∧
    (∀ req, step (at_ (.tweFaultReport req)) = exec (.tweFaultReport req) s) ∧
    (∀ req, step (at_ (.requestComplete req)) = exec (.requestComplete req) s) ∧
    (∀ cluster part va, step (at_ (.tableWalk cluster part va)) = exec (.tableWalk cluster part va) s) ∧
    (∀ op, step (at_ (.tlbiPerform op)) = exec (.tlbiPerform op) s) ∧
    (∀ cluster stream, step (at_ (.descriptorFetch cluster stream)) = exec (.descriptorFetch cluster stream) s) ∧
    (∀ cluster stream, step (at_ (.streamStepStart cluster stream)) = exec (.streamStepStart cluster stream) s) ∧
    (∀ region, step (at_ (.slotWindowClose region)) = exec (.slotWindowClose region) s) ∧
    (∀ region, step (at_ (.latchPresentation region)) = exec (.latchPresentation region) s) ∧
    (∀ source, step (at_ (.sourceLoss source)) = exec (.sourceLoss source) s) ∧
    (∀ region, step (at_ (.regionStop region)) = exec (.regionStop region) s) ∧
    (∀ region, step (at_ (.regionRestart region)) = exec (.regionRestart region) s) ∧
    (∀ region, step (at_ (.frameBoundary region)) = exec (.frameBoundary region) s) ∧
    (∀ xing, step (at_ (.historySlotAdvance xing)) = exec (.historySlotAdvance xing) s) ∧
    (∀ xing, step (at_ (.crossingCompute xing)) = exec (.crossingCompute xing) s) ∧
    (∀ region, step (at_ (.timetableRelease region)) = exec (.timetableRelease region) s) ∧
    (∀ region, step (at_ (.stallEndRelease region)) = exec (.stallEndRelease region) s) ∧
    (∀ region, step (at_ (.entrySkip region)) = exec (.entrySkip region) s) ∧
    (∀ region, step (at_ (.slip region)) = exec (.slip region) s) ∧
    (∀ obj, step (at_ (.launchRelease obj)) = exec (.launchRelease obj) s) ∧
    (∀ obj, step (at_ (.completionCounterUpdate obj)) = exec (.completionCounterUpdate obj) s) ∧
    (∀ obj, step (at_ (.launchComplete obj)) = exec (.launchComplete obj) s) ∧
    (∀ obj, step (at_ (.graphComplete obj)) = exec (.graphComplete obj) s) ∧
    (∀ obj, step (at_ (.phaseComplete obj)) = exec (.phaseComplete obj) s) ∧
    (∀ obj, step (at_ (.jobComplete obj)) = exec (.jobComplete obj) s) ∧
    (∀ obj, step (at_ (.watchdogPreempt obj)) = exec (.watchdogPreempt obj) s) ∧
    (∀ obj, step (at_ (.watchdogKill obj)) = exec (.watchdogKill obj) s) ∧
    (∀ obj, step (at_ (.watchdogFence obj)) = exec (.watchdogFence obj) s) ∧
    (∀ obj, step (at_ (.reexecutionRelease obj)) = exec (.reexecutionRelease obj) s) ∧
    (∀ chan, step (at_ (.wheelSlot chan)) = exec (.wheelSlot chan) s) ∧
    (∀ chan, step (at_ (.wheelRevolution chan)) = exec (.wheelRevolution chan) s) ∧
    (∀ req, step (at_ (.reducerContribution req)) = exec (.reducerContribution req) s) ∧
    (∀ round, step (at_ (.reducerResultWrite round)) = exec (.reducerResultWrite round) s) ∧
    (∀ part, step (at_ (.groupSweepDone part)) = exec (.groupSweepDone part) s) ∧
    step (at_ .packageReset) = exec .packageReset s ∧
    step (at_ .energyMicrosecond) = exec .energyMicrosecond s ∧
    step (at_ .energyWindowEnd) = exec .energyWindowEnd s ∧
    (∀ entry, step (at_ (.loadqBind entry)) = exec (.loadqBind entry) s) ∧
    (∀ entry, step (at_ (.loadqUnbind entry)) = exec (.loadqUnbind entry) s) ∧
    (∀ entry, step (at_ (.loadqReservedOp entry)) = exec (.loadqReservedOp entry) s) ∧
    (∀ msg, step (at_ (.messageDelivery msg)) = exec (.messageDelivery msg) s) ∧
    (∀ msg, step (at_ (.lossNoticeArrival msg)) = exec (.lossNoticeArrival msg) s) ∧
    (∀ msg, step (at_ (.messageLoss msg)) = exec (.messageLoss msg) s) ∧
    (∀ msg, step (at_ (.partialMessageDiscard msg)) = exec (.partialMessageDiscard msg) s) ∧
    (∀ job, step (at_ (.waveStart job)) = exec (.waveStart job) s) ∧
    (∀ job die, step (at_ (.waveDownFlit job die)) = exec (.waveDownFlit job die) s) ∧
    (∀ job, step (at_ (.wavePass2Start job)) = exec (.wavePass2Start job) s) ∧
    (∀ job, step (at_ (.waveResultSend job)) = exec (.waveResultSend job) s) ∧
    (∀ job die, step (at_ (.waveResultArrival job die)) = exec (.waveResultArrival job die) s))
end

