-- ==== Sys2Proof/Laws/Memory.lean ====
section
/-! SUPPORT. Sparse maps and byte memories: what is read after a write, and that every operation keeps the canonical form. -/

namespace Sys2Proof.Machine

variable {α : Type}

/-! ### Reading back -/

@[simp] theorem smGet_smPut (m : SMap α) (k : Nat) (x : α) : smGet (smPut m k x) k = some x := by
  induction m with
  | nil => simp [smPut, smGet]
  | cons e m ih =>
    obtain ⟨j, y⟩ := e
    by_cases h1 : k < j
    · simp [smPut, h1, smGet]
    · by_cases h2 : k = j
      · simp [smPut, h2, smGet]
      · simpa [smPut, h1, h2, smGet, Ne.symm h2] using ih

theorem smGet_smPut_ne (m : SMap α) {k i : Nat} (x : α) (h : i ≠ k) : smGet (smPut m k x) i = smGet m i := by
  induction m with
  | nil => simp [smPut, smGet, Ne.symm h]
  | cons e m ih =>
    obtain ⟨j, y⟩ := e
    by_cases h1 : k < j
    · simp [smPut, h1, smGet, Ne.symm h]
    · by_cases h2 : k = j
      · subst h2; simp [smPut, smGet, Ne.symm h]
      · simp [smPut, h1, h2, smGet, ih]

@[simp] theorem smPut_smPut (m : SMap α) (k : Nat) (x y : α) : smPut (smPut m k x) k y = smPut m k y := by
  induction m with
  | nil => simp [smPut]
  | cons e m ih =>
    obtain ⟨j, z⟩ := e
    by_cases h1 : k < j
    · simp [smPut, h1]
    · by_cases h2 : k = j
      · simp [smPut, h2]
      · simp [smPut, h1, h2, ih]

@[simp] theorem smGet_smDel (m : SMap α) (k : Nat) : smGet (smDel m k) k = none := by
  induction m with
  | nil => rfl
  | cons e m ih =>
    obtain ⟨j, y⟩ := e
    by_cases h : j = k <;> simp [smDel, h, smGet, ih]

theorem smGet_smDel_ne (m : SMap α) {k i : Nat} (h : i ≠ k) : smGet (smDel m k) i = smGet m i := by
  induction m with
  | nil => rfl
  | cons e m ih =>
    obtain ⟨j, y⟩ := e
    by_cases h1 : j = k
    · subst h1; simp [smDel, smGet, Ne.symm h, ih]
    · simp [smDel, h1, smGet, ih]

/-- Reading a byte that was just written. -/
@[simp] theorem mRead_mWrite (m : SMap Byte) (a : Nat) (b : Byte) : mRead (mWrite m a b) a = b := by
  unfold mRead mWrite smSet smGetD
  split
  · rename_i h; simp [h]
  · simp

/-- A write of a byte leaves every other byte. -/
theorem mRead_mWrite_ne (m : SMap Byte) {a i : Nat} (b : Byte) (h : i ≠ a) : mRead (mWrite m a b) i = mRead m i := by
  unfold mRead mWrite smSet smGetD
  split
  · rw [smGet_smDel_ne _ h]
  · rw [smGet_smPut_ne _ _ h]

/-- Bytes below a run that is written. -/
theorem mRead_mWriteN_lt (bs : List Byte) : ∀ (m : SMap Byte) (a : Nat) {i : Nat}, i < a → mRead (mWriteN m a bs) i = mRead m i := by
  induction bs with
  | nil => intros; rfl
  | cons b bs ih =>
    intro m a i h
    rw [mWriteN, ih _ _ (by omega), mRead_mWrite_ne _ _ (by omega)]

/-- Every byte after a run is written: the run's own bytes inside it, what was there outside. -/
theorem mRead_mWriteN (bs : List Byte) : ∀ (m : SMap Byte) (a i : Nat),
    mRead (mWriteN m a bs) i = if a ≤ i ∧ i < a + bs.length then bs.getD (i - a) 0 else mRead m i := by
  induction bs with
  | nil => intro m a i; simp only [mWriteN, List.length_nil]; rw [if_neg]; omega
  | cons b bs ih =>
    intro m a i
    rw [mWriteN, ih]
    simp only [List.length_cons]
    by_cases h : i = a
    · subst h; simp
    · by_cases h1 : a + 1 ≤ i ∧ i < a + 1 + bs.length
      · rw [if_pos h1, if_pos (by omega)]
        obtain ⟨n, rfl⟩ : ∃ n, i = a + 1 + n := ⟨i - (a + 1), by omega⟩
        have : a + 1 + n - a = n + 1 := by omega
        simp [this]
      · rw [if_neg h1, if_neg (by omega), mRead_mWrite_ne _ _ h]

@[simp] theorem mReadN_length (m : SMap Byte) (a n : Nat) : (mReadN m a n).length = n := by
  induction n generalizing a with
  | zero => rfl
  | succ n ih => simp [mReadN, ih]

/-- A byte of a run that is read. -/
theorem mReadN_getD (m : SMap Byte) (a n i : Nat) (h : i < n) : (mReadN m a n).getD i 0 = mRead m (a + i) := by
  induction n generalizing a i with
  | zero => omega
  | succ n ih =>
    cases i with
    | zero => simp [mReadN]
    | succ i => simp only [mReadN, List.getD_cons_succ]; rw [ih _ _ (by omega)]; congr 1; omega

/-! ### The canonical form -/

theorem smRising_mono {b b' : Nat} {m : SMap α} (h : smRising (some b') m = true) (hb : b ≤ b') : smRising (some b) m = true := by
  cases m with
  | nil => rfl
  | cons e m => simp only [smRising, Bool.and_eq_true, decide_eq_true_eq] at *; exact ⟨by omega, h.2⟩

theorem smRising_none_iff {m : SMap α} : smRising none m = true ↔ m = [] ∨ ∃ k x l, m = (k, x) :: l ∧ smRising (some k) l = true := by
  cases m with
  | nil => simp [smRising]
  | cons e m => obtain ⟨k, x⟩ := e; simp [smRising]

theorem smRising_some_put {m : SMap α} {b k : Nat} {x : α} (h : smRising (some b) m = true) (hk : b < k) :
    smRising (some b) (smPut m k x) = true := by
  induction m generalizing b with
  | nil => simpa [smPut, smRising] using hk
  | cons e m ih =>
    obtain ⟨j, y⟩ := e
    simp only [smRising, Bool.and_eq_true, decide_eq_true_eq] at h
    by_cases h1 : k < j
    · simp [smPut, h1, smRising, hk, h.2]
    · by_cases h2 : k = j
      · subst h2; simp [smPut, smRising, h.1, h.2]
      · simp only [smPut, h1, h2, if_false, smRising, Bool.and_eq_true, decide_eq_true_eq]
        exact ⟨h.1, ih h.2 (by omega)⟩

theorem smRising_put {m : SMap α} {k : Nat} {x : α} (h : smRising none m = true) : smRising none (smPut m k x) = true := by
  cases m with
  | nil => rfl
  | cons e m =>
    obtain ⟨j, y⟩ := e
    simp only [smRising] at h
    by_cases h1 : k < j
    · simp [smPut, h1, smRising, h]
    · by_cases h2 : k = j
      · subst h2; simpa [smPut, smRising] using h
      · simp only [smPut, h1, h2, if_false, smRising]
        exact smRising_some_put h (by omega)

theorem smRising_some_sub {m : SMap α} {b : Nat} (p : Nat × α → Bool) (h : smRising (some b) m = true) :
    smRising (some b) (m.filter p) = true := by
  induction m generalizing b with
  | nil => rfl
  | cons e m ih =>
    obtain ⟨j, y⟩ := e
    simp only [smRising, Bool.and_eq_true, decide_eq_true_eq] at h
    by_cases hp : p (j, y)
    · simp only [List.filter_cons, hp, if_true, smRising, Bool.and_eq_true, decide_eq_true_eq]; exact ⟨h.1, ih h.2⟩
    · simp only [List.filter_cons, hp]; exact ih (smRising_mono h.2 (by omega))

theorem smRising_filter {m : SMap α} (p : Nat × α → Bool) (h : smRising none m = true) : smRising none (m.filter p) = true := by
  induction m with
  | nil => rfl
  | cons e m ih =>
    obtain ⟨j, y⟩ := e
    simp only [smRising] at h
    by_cases hp : p (j, y)
    · simp only [List.filter_cons, hp, if_true, smRising]; exact smRising_some_sub p h
    · simp only [List.filter_cons, hp]
      refine ih ?_
      cases m with
      | nil => rfl
      | cons e m => simp only [smRising, Bool.and_eq_true] at *; exact h.2

theorem smDel_eq_filter (m : SMap α) (k : Nat) : smDel m k = m.filter fun e => !decide (e.1 = k) := by
  induction m with
  | nil => rfl
  | cons e m ih => obtain ⟨j, y⟩ := e; by_cases h : j = k <;> simp [smDel, h, ih]

theorem mem_smPut {m : SMap α} {k : Nat} {x : α} {e : Nat × α} (h : e ∈ smPut m k x) : e = (k, x) ∨ e ∈ m := by
  induction m with
  | nil => simpa [smPut] using h
  | cons f m ih =>
    obtain ⟨j, y⟩ := f
    by_cases h1 : k < j
    · simpa [smPut, h1] using h
    · by_cases h2 : k = j
      · subst h2
        simp only [smPut, h1, if_false, if_true, List.mem_cons] at h
        rcases h with h | h
        · exact .inl h
        · exact .inr (List.mem_cons_of_mem _ h)
      · simp only [smPut, h1, h2, if_false, List.mem_cons] at h
        rcases h with h | h
        · exact .inr (by simp [h])
        · rcases ih h with h | h
          · exact .inl h
          · exact .inr (List.mem_cons_of_mem _ h)

/-- The empty memory is canonical. -/
@[simp] theorem Memory.wf_nil : Memory.wf [] = true := rfl

/-- Dropping bytes keeps the canonical form. -/
theorem Memory.wf_filter {m : SMap Byte} (p : Nat × Byte → Bool) (h : Memory.wf m = true) : Memory.wf (m.filter p) = true := by
  simp only [Memory.wf, Bool.and_eq_true, List.all_eq_true] at *
  exact ⟨smRising_filter p h.1, fun e he => h.2 e (List.mem_of_mem_filter he)⟩

/-- A write of one byte keeps the canonical form. -/
theorem Memory.wf_mWrite {m : SMap Byte} (a : Nat) (b : Byte) (h : Memory.wf m = true) : Memory.wf (mWrite m a b) = true := by
  by_cases h0 : b = 0
  · simp only [mWrite, smSet, h0, if_true]; rw [smDel_eq_filter]; exact Memory.wf_filter _ h
  · simp only [mWrite, smSet, h0, if_false]
    simp only [Memory.wf, Bool.and_eq_true, List.all_eq_true] at *
    refine ⟨smRising_put h.1, fun e he => ?_⟩
    rcases mem_smPut he with rfl | he
    · simpa using h0
    · exact h.2 e he

/-- A write of a run of bytes keeps the canonical form. -/
theorem Memory.wf_mWriteN (bs : List Byte) : ∀ {m : SMap Byte} (a : Nat), Memory.wf m = true → Memory.wf (mWriteN m a bs) = true := by
  induction bs with
  | nil => intro m a h; exact h
  | cons b bs ih => intro m a h; exact ih _ (Memory.wf_mWrite a b h)

/-- A memory made of a list of cells is canonical. -/
theorem Memory.wf_cellsIn (lo n : Nat) (m : SMap Byte) : Memory.wf (cellsIn lo n m) = true := by
  unfold cellsIn
  induction (m.filter fun c => decide (lo ≤ c.1) && decide (c.1 < lo + n)) with
  | nil => rfl
  | cons c l ih => exact Memory.wf_mWrite c.1 c.2 ih

/-- What a list of cells gives a memory outside its range, and at the address of each first cell inside. -/
theorem mRead_cellsIn (lo n : Nat) (m : SMap Byte) (a : Nat) :
    mRead (cellsIn lo n m) a = if lo ≤ a ∧ a < lo + n then mRead m a else 0 := by
  unfold cellsIn
  induction m with
  | nil => simp [mRead, smGetD, smGet]
  | cons c m ih =>
    obtain ⟨k, b⟩ := c
    rw [List.filter_cons]
    by_cases hk : lo ≤ k ∧ k < lo + n
    · rw [if_pos (by simpa using hk), List.foldr_cons]
      by_cases ha : a = k
      · subst ha; rw [mRead_mWrite, if_pos hk]; simp [mRead, smGetD, smGet]
      · rw [mRead_mWrite_ne _ _ ha, ih]; simp [mRead, smGetD, smGet, Ne.symm ha]
    · rw [if_neg (by simpa using hk), ih]
      by_cases ha : lo ≤ a ∧ a < lo + n
      · have : k ≠ a := by rintro rfl; exact hk ha
        rw [if_pos ha, if_pos ha]; simp [mRead, smGetD, smGet, this]
      · rw [if_neg ha, if_neg ha]

theorem smRising_some_iff {b : Nat} {m : SMap α} : smRising (some b) m = true ↔ (b :: m.map (·.1)).Pairwise (· < ·) := by
  induction m generalizing b with
  | nil => simp [smRising]
  | cons e m ih =>
    simp only [smRising, Bool.and_eq_true, decide_eq_true_eq, ih, List.map_cons, List.pairwise_cons, List.mem_cons]
    refine ⟨fun ⟨h, h1, h2⟩ => ⟨?_, h1, h2⟩, fun ⟨h, h1, h2⟩ => ⟨h _ (.inl rfl), h1, h2⟩⟩
    rintro x (rfl | hx)
    · exact h
    · exact h.trans (h1 x hx)

/-- The canonical order of a map: keys strictly rising. -/
theorem smRising_iff {m : SMap α} : smRising none m = true ↔ (m.map (·.1)).Pairwise (· < ·) := by
  cases m with
  | nil => simp [smRising]
  | cons e m => simp only [smRising, List.map_cons, smRising_some_iff]

theorem smRising_nodup {m : SMap α} (h : smRising none m = true) : (m.map (·.1)).Nodup :=
  (smRising_iff.1 h).imp fun h => Nat.ne_of_lt h

/-- A range of a sorted map replaced by other entries of that range. -/
theorem smRising_splice {m new : SMap α} {lo n : Nat} (h : smRising none m = true) (hn : smRising none new = true)
    (hr : ∀ x ∈ new, lo ≤ x.1 ∧ x.1 < lo + n) : smRising none (splice m lo n new) = true := by
  have h1 := smRising_iff.1 (smRising_filter (fun c => decide (c.1 < lo)) h)
  have h2 := smRising_iff.1 (smRising_filter (fun c => decide (lo + n ≤ c.1)) h)
  have key : ∀ {l : SMap α} {p : Nat × α → Bool} {a : Nat}, a ∈ (l.filter p).map (·.1) → ∃ x, x.1 = a ∧ p x = true := by
    intro l p a ha
    obtain ⟨x, hx, rfl⟩ := List.mem_map.1 ha
    exact ⟨x, rfl, (List.mem_filter.1 hx).2⟩
  rw [smRising_iff, splice, List.map_append, List.map_append, List.append_assoc, List.pairwise_append, List.pairwise_append]
  refine ⟨h1, ⟨smRising_iff.1 hn, h2, ?_⟩, ?_⟩
  · intro a ha b hb
    obtain ⟨x, hx, rfl⟩ := List.mem_map.1 ha
    obtain ⟨y, rfl, hy⟩ := key hb
    have := hr x hx
    simp at hy; omega
  · intro a ha b hb
    obtain ⟨x, rfl, hx⟩ := key ha
    simp at hx
    rcases List.mem_append.1 hb with hb | hb
    · obtain ⟨y, hy, rfl⟩ := List.mem_map.1 hb
      have := hr y hy; omega
    · obtain ⟨y, rfl, hy⟩ := key hb
      simp at hy; omega

theorem mem_cellsIn {lo n : Nat} {m : SMap Byte} {x : Nat × Byte} (h : x ∈ cellsIn lo n m) : lo ≤ x.1 ∧ x.1 < lo + n := by
  have : ∀ l : SMap Byte, (∀ y ∈ l, lo ≤ y.1 ∧ y.1 < lo + n) →
      ∀ x ∈ l.foldr (fun c m => mWrite m c.1 c.2) [], lo ≤ x.1 ∧ x.1 < lo + n := by
    intro l
    induction l with
    | nil => simp
    | cons c l ih =>
      intro hl x hx
      have ih := ih fun y hy => hl y (List.mem_cons_of_mem _ hy)
      simp only [List.foldr_cons, mWrite, smSet] at hx
      split at hx
      · rw [smDel_eq_filter] at hx; exact ih x (List.mem_of_mem_filter hx)
      · rcases mem_smPut hx with rfl | hx
        · exact hl c (by simp)
        · exact ih x hx
  exact this _ (fun y hy => by simpa using (List.mem_filter.1 hy).2) x h

/-- A range of a memory replaced keeps the canonical form. -/
theorem Memory.wf_splice {m : SMap Byte} (lo n : Nat) (new : SMap Byte) (h : Memory.wf m = true) :
    Memory.wf (splice m lo n (cellsIn lo n new)) = true := by
  have hc := Memory.wf_cellsIn lo n new
  simp only [Memory.wf, Bool.and_eq_true, List.all_eq_true] at *
  refine ⟨smRising_splice h.1 hc.1 fun _ => mem_cellsIn, fun e he => ?_⟩
  simp only [splice, List.mem_append] at he
  rcases he with (he | he) | he
  · exact h.2 e (List.mem_of_mem_filter he)
  · exact hc.2 e he
  · exact h.2 e (List.mem_of_mem_filter he)

/-! ### Bytes and numbers -/

@[simp] theorem leBytes_length (n v : Nat) : (leBytes n v).length = n := by
  induction n generalizing v with
  | zero => rfl
  | succ n ih => simp [leBytes, ih]

theorem leNat_lt (bs : List Byte) : leNat bs < 256 ^ bs.length := by
  induction bs with
  | nil => simp [leNat]
  | cons b bs ih =>
    simp only [leNat, List.length_cons, Nat.pow_succ]
    have := b.isLt
    omega

/-- The bytes of a number give it back, modulo their width. -/
theorem leNat_leBytes (n v : Nat) : leNat (leBytes n v) = v % 256 ^ n := by
  induction n generalizing v with
  | zero => simp [leBytes, leNat, Nat.mod_one]
  | succ n ih =>
    have h : 256 ^ (n + 1) = 256 * 256 ^ n := by rw [Nat.pow_succ, Nat.mul_comm]
    have h8 : (BitVec.ofNat 8 v).toNat = v % 256 := rfl
    rw [leBytes, leNat, ih, h, h8, Nat.mod_mul]

/-- The bytes of the number that bytes hold are those bytes. -/
theorem leBytes_leNat (bs : List Byte) : leBytes bs.length (leNat bs) = bs := by
  induction bs with
  | nil => rfl
  | cons b bs ih =>
    have h1 : (b.toNat + 256 * leNat bs) / 256 = leNat bs := by have := b.isLt; omega
    have h2 : BitVec.ofNat 8 (b.toNat + 256 * leNat bs) = b := by
      apply BitVec.eq_of_toNat_eq; simp only [BitVec.toNat_ofNat]; have := b.isLt; omega
    simp only [leBytes, leNat, List.length_cons, h1, h2, ih]

end Sys2Proof.Machine
end

