-- ==== Sys2Proof/Laws/State.lean ====
section
/-! SUPPORT. What each update of the state leaves alone, one lemma per field; what is read back of what was put. -/

namespace Sys2Proof.Machine

/-! ### `setCore` -/

@[simp] theorem setCore_sched (s : State) (c : Nat) (k : Core) : (setCore s c k).sched = s.sched := rfl
@[simp] theorem setCore_tick (s : State) (c : Nat) (k : Core) : (setCore s c k).tick = s.tick := rfl
@[simp] theorem setCore_twes (s : State) (c : Nat) (k : Core) : (setCore s c k).twes = s.twes := rfl
@[simp] theorem setCore_reqs (s : State) (c : Nat) (k : Core) : (setCore s c k).reqs = s.reqs := rfl
@[simp] theorem setCore_nextReq (s : State) (c : Nat) (k : Core) : (setCore s c k).nextReq = s.nextReq := rfl
@[simp] theorem setCore_nextBid (s : State) (c : Nat) (k : Core) : (setCore s c k).nextBid = s.nextBid := rfl
@[simp] theorem setCore_tlbis (s : State) (c : Nat) (k : Core) : (setCore s c k).tlbis = s.tlbis := rfl
@[simp] theorem setCore_regions (s : State) (c : Nat) (k : Core) : (setCore s c k).regions = s.regions := rfl
@[simp] theorem setCore_clusterRegion (s : State) (c : Nat) (k : Core) : (setCore s c k).clusterRegion = s.clusterRegion := rfl
@[simp] theorem setCore_sources (s : State) (c : Nat) (k : Core) : (setCore s c k).sources = s.sources := rfl
@[simp] theorem setCore_latches (s : State) (c : Nat) (k : Core) : (setCore s c k).latches = s.latches := rfl
@[simp] theorem setCore_xings (s : State) (c : Nat) (k : Core) : (setCore s c k).xings = s.xings := rfl
@[simp] theorem setCore_rdcown (s : State) (c : Nat) (k : Core) : (setCore s c k).rdcown = s.rdcown := rfl
@[simp] theorem setCore_rounds (s : State) (c : Nat) (k : Core) : (setCore s c k).rounds = s.rounds := rfl
@[simp] theorem setCore_nextRound (s : State) (c : Nat) (k : Core) : (setCore s c k).nextRound = s.nextRound := rfl
@[simp] theorem setCore_chans (s : State) (c : Nat) (k : Core) : (setCore s c k).chans = s.chans := rfl
@[simp] theorem setCore_wheel (s : State) (c : Nat) (k : Core) : (setCore s c k).wheel = s.wheel := rfl
@[simp] theorem setCore_mon (s : State) (c : Nat) (k : Core) : (setCore s c k).mon = s.mon := rfl
@[simp] theorem setCore_heat (s : State) (c : Nat) (k : Core) : (setCore s c k).heat = s.heat := rfl
@[simp] theorem setCore_rmap (s : State) (c : Nat) (k : Core) : (setCore s c k).rmap = s.rmap := rfl
@[simp] theorem setCore_rmapNow (s : State) (c : Nat) (k : Core) : (setCore s c k).rmapNow = s.rmapNow := rfl
@[simp] theorem setCore_objs (s : State) (c : Nat) (k : Core) : (setCore s c k).objs = s.objs := rfl
@[simp] theorem setCore_saved (s : State) (c : Nat) (k : Core) : (setCore s c k).saved = s.saved := rfl
@[simp] theorem setCore_insts (s : State) (c : Nat) (k : Core) : (setCore s c k).insts = s.insts := rfl
@[simp] theorem setCore_parts (s : State) (c : Nat) (k : Core) : (setCore s c k).parts = s.parts := rfl
@[simp] theorem setCore_keys (s : State) (c : Nat) (k : Core) : (setCore s c k).keys = s.keys := rfl
@[simp] theorem setCore_ftags (s : State) (c : Nat) (k : Core) : (setCore s c k).ftags = s.ftags := rfl
@[simp] theorem setCore_tags (s : State) (c : Nat) (k : Core) : (setCore s c k).tags = s.tags := rfl
@[simp] theorem setCore_poison (s : State) (c : Nat) (k : Core) : (setCore s c k).poison = s.poison := rfl
@[simp] theorem setCore_mem (s : State) (c : Nat) (k : Core) : (setCore s c k).mem = s.mem := rfl
@[simp] theorem setCore_mgmt (s : State) (c : Nat) (k : Core) : (setCore s c k).mgmt = s.mgmt := rfl
@[simp] theorem setCore_store (s : State) (c : Nat) (k : Core) : (setCore s c k).store = s.store := rfl
@[simp] theorem setCore_svents (s : State) (c : Nat) (k : Core) : (setCore s c k).svents = s.svents := rfl
@[simp] theorem setCore_fwl (s : State) (c : Nat) (k : Core) : (setCore s c k).fwl = s.fwl := rfl
@[simp] theorem setCore_jobs (s : State) (c : Nat) (k : Core) : (setCore s c k).jobs = s.jobs := rfl
@[simp] theorem setCore_msgs (s : State) (c : Nat) (k : Core) : (setCore s c k).msgs = s.msgs := rfl
@[simp] theorem setCore_nextMsg (s : State) (c : Nat) (k : Core) : (setCore s c k).nextMsg = s.nextMsg := rfl
@[simp] theorem setCore_waves (s : State) (c : Nat) (k : Core) : (setCore s c k).waves = s.waves := rfl
@[simp] theorem setCore_links (s : State) (c : Nat) (k : Core) : (setCore s c k).links = s.links := rfl
@[simp] theorem setCore_host (s : State) (c : Nat) (k : Core) : (setCore s c k).host = s.host := rfl

/-! ### `setCur` -/

@[simp] theorem setCur_sched (s : State) (k : Core) : (setCur s k).sched = s.sched := rfl
@[simp] theorem setCur_tick (s : State) (k : Core) : (setCur s k).tick = s.tick := rfl
@[simp] theorem setCur_twes (s : State) (k : Core) : (setCur s k).twes = s.twes := rfl
@[simp] theorem setCur_reqs (s : State) (k : Core) : (setCur s k).reqs = s.reqs := rfl
@[simp] theorem setCur_nextReq (s : State) (k : Core) : (setCur s k).nextReq = s.nextReq := rfl
@[simp] theorem setCur_nextBid (s : State) (k : Core) : (setCur s k).nextBid = s.nextBid := rfl
@[simp] theorem setCur_tlbis (s : State) (k : Core) : (setCur s k).tlbis = s.tlbis := rfl
@[simp] theorem setCur_regions (s : State) (k : Core) : (setCur s k).regions = s.regions := rfl
@[simp] theorem setCur_clusterRegion (s : State) (k : Core) : (setCur s k).clusterRegion = s.clusterRegion := rfl
@[simp] theorem setCur_sources (s : State) (k : Core) : (setCur s k).sources = s.sources := rfl
@[simp] theorem setCur_latches (s : State) (k : Core) : (setCur s k).latches = s.latches := rfl
@[simp] theorem setCur_xings (s : State) (k : Core) : (setCur s k).xings = s.xings := rfl
@[simp] theorem setCur_rdcown (s : State) (k : Core) : (setCur s k).rdcown = s.rdcown := rfl
@[simp] theorem setCur_rounds (s : State) (k : Core) : (setCur s k).rounds = s.rounds := rfl
@[simp] theorem setCur_nextRound (s : State) (k : Core) : (setCur s k).nextRound = s.nextRound := rfl
@[simp] theorem setCur_chans (s : State) (k : Core) : (setCur s k).chans = s.chans := rfl
@[simp] theorem setCur_wheel (s : State) (k : Core) : (setCur s k).wheel = s.wheel := rfl
@[simp] theorem setCur_mon (s : State) (k : Core) : (setCur s k).mon = s.mon := rfl
@[simp] theorem setCur_heat (s : State) (k : Core) : (setCur s k).heat = s.heat := rfl
@[simp] theorem setCur_rmap (s : State) (k : Core) : (setCur s k).rmap = s.rmap := rfl
@[simp] theorem setCur_rmapNow (s : State) (k : Core) : (setCur s k).rmapNow = s.rmapNow := rfl
@[simp] theorem setCur_objs (s : State) (k : Core) : (setCur s k).objs = s.objs := rfl
@[simp] theorem setCur_saved (s : State) (k : Core) : (setCur s k).saved = s.saved := rfl
@[simp] theorem setCur_insts (s : State) (k : Core) : (setCur s k).insts = s.insts := rfl
@[simp] theorem setCur_parts (s : State) (k : Core) : (setCur s k).parts = s.parts := rfl
@[simp] theorem setCur_keys (s : State) (k : Core) : (setCur s k).keys = s.keys := rfl
@[simp] theorem setCur_ftags (s : State) (k : Core) : (setCur s k).ftags = s.ftags := rfl
@[simp] theorem setCur_tags (s : State) (k : Core) : (setCur s k).tags = s.tags := rfl
@[simp] theorem setCur_poison (s : State) (k : Core) : (setCur s k).poison = s.poison := rfl
@[simp] theorem setCur_mem (s : State) (k : Core) : (setCur s k).mem = s.mem := rfl
@[simp] theorem setCur_mgmt (s : State) (k : Core) : (setCur s k).mgmt = s.mgmt := rfl
@[simp] theorem setCur_store (s : State) (k : Core) : (setCur s k).store = s.store := rfl
@[simp] theorem setCur_svents (s : State) (k : Core) : (setCur s k).svents = s.svents := rfl
@[simp] theorem setCur_fwl (s : State) (k : Core) : (setCur s k).fwl = s.fwl := rfl
@[simp] theorem setCur_jobs (s : State) (k : Core) : (setCur s k).jobs = s.jobs := rfl
@[simp] theorem setCur_msgs (s : State) (k : Core) : (setCur s k).msgs = s.msgs := rfl
@[simp] theorem setCur_nextMsg (s : State) (k : Core) : (setCur s k).nextMsg = s.nextMsg := rfl
@[simp] theorem setCur_waves (s : State) (k : Core) : (setCur s k).waves = s.waves := rfl
@[simp] theorem setCur_links (s : State) (k : Core) : (setCur s k).links = s.links := rfl
@[simp] theorem setCur_host (s : State) (k : Core) : (setCur s k).host = s.host := rfl

/-! ### `setCtx` -/

@[simp] theorem setCtx_sched (s : State) (c : Ctx) : (setCtx s c).sched = s.sched := rfl
@[simp] theorem setCtx_tick (s : State) (c : Ctx) : (setCtx s c).tick = s.tick := rfl
@[simp] theorem setCtx_twes (s : State) (c : Ctx) : (setCtx s c).twes = s.twes := rfl
@[simp] theorem setCtx_reqs (s : State) (c : Ctx) : (setCtx s c).reqs = s.reqs := rfl
@[simp] theorem setCtx_nextReq (s : State) (c : Ctx) : (setCtx s c).nextReq = s.nextReq := rfl
@[simp] theorem setCtx_nextBid (s : State) (c : Ctx) : (setCtx s c).nextBid = s.nextBid := rfl
@[simp] theorem setCtx_tlbis (s : State) (c : Ctx) : (setCtx s c).tlbis = s.tlbis := rfl
@[simp] theorem setCtx_regions (s : State) (c : Ctx) : (setCtx s c).regions = s.regions := rfl
@[simp] theorem setCtx_clusterRegion (s : State) (c : Ctx) : (setCtx s c).clusterRegion = s.clusterRegion := rfl
@[simp] theorem setCtx_sources (s : State) (c : Ctx) : (setCtx s c).sources = s.sources := rfl
@[simp] theorem setCtx_latches (s : State) (c : Ctx) : (setCtx s c).latches = s.latches := rfl
@[simp] theorem setCtx_xings (s : State) (c : Ctx) : (setCtx s c).xings = s.xings := rfl
@[simp] theorem setCtx_rdcown (s : State) (c : Ctx) : (setCtx s c).rdcown = s.rdcown := rfl
@[simp] theorem setCtx_rounds (s : State) (c : Ctx) : (setCtx s c).rounds = s.rounds := rfl
@[simp] theorem setCtx_nextRound (s : State) (c : Ctx) : (setCtx s c).nextRound = s.nextRound := rfl
@[simp] theorem setCtx_chans (s : State) (c : Ctx) : (setCtx s c).chans = s.chans := rfl
@[simp] theorem setCtx_wheel (s : State) (c : Ctx) : (setCtx s c).wheel = s.wheel := rfl
@[simp] theorem setCtx_mon (s : State) (c : Ctx) : (setCtx s c).mon = s.mon := rfl
@[simp] theorem setCtx_heat (s : State) (c : Ctx) : (setCtx s c).heat = s.heat := rfl
@[simp] theorem setCtx_rmap (s : State) (c : Ctx) : (setCtx s c).rmap = s.rmap := rfl
@[simp] theorem setCtx_rmapNow (s : State) (c : Ctx) : (setCtx s c).rmapNow = s.rmapNow := rfl
@[simp] theorem setCtx_objs (s : State) (c : Ctx) : (setCtx s c).objs = s.objs := rfl
@[simp] theorem setCtx_saved (s : State) (c : Ctx) : (setCtx s c).saved = s.saved := rfl
@[simp] theorem setCtx_insts (s : State) (c : Ctx) : (setCtx s c).insts = s.insts := rfl
@[simp] theorem setCtx_parts (s : State) (c : Ctx) : (setCtx s c).parts = s.parts := rfl
@[simp] theorem setCtx_keys (s : State) (c : Ctx) : (setCtx s c).keys = s.keys := rfl
@[simp] theorem setCtx_ftags (s : State) (c : Ctx) : (setCtx s c).ftags = s.ftags := rfl
@[simp] theorem setCtx_tags (s : State) (c : Ctx) : (setCtx s c).tags = s.tags := rfl
@[simp] theorem setCtx_poison (s : State) (c : Ctx) : (setCtx s c).poison = s.poison := rfl
@[simp] theorem setCtx_mem (s : State) (c : Ctx) : (setCtx s c).mem = s.mem := rfl
@[simp] theorem setCtx_mgmt (s : State) (c : Ctx) : (setCtx s c).mgmt = s.mgmt := rfl
@[simp] theorem setCtx_store (s : State) (c : Ctx) : (setCtx s c).store = s.store := rfl
@[simp] theorem setCtx_svents (s : State) (c : Ctx) : (setCtx s c).svents = s.svents := rfl
@[simp] theorem setCtx_fwl (s : State) (c : Ctx) : (setCtx s c).fwl = s.fwl := rfl
@[simp] theorem setCtx_jobs (s : State) (c : Ctx) : (setCtx s c).jobs = s.jobs := rfl
@[simp] theorem setCtx_msgs (s : State) (c : Ctx) : (setCtx s c).msgs = s.msgs := rfl
@[simp] theorem setCtx_nextMsg (s : State) (c : Ctx) : (setCtx s c).nextMsg = s.nextMsg := rfl
@[simp] theorem setCtx_waves (s : State) (c : Ctx) : (setCtx s c).waves = s.waves := rfl
@[simp] theorem setCtx_links (s : State) (c : Ctx) : (setCtx s c).links = s.links := rfl
@[simp] theorem setCtx_host (s : State) (c : Ctx) : (setCtx s c).host = s.host := rfl

/-! ### `setRegion` -/

@[simp] theorem setRegion_sched (s : State) (r : Nat) (x : Region) : (setRegion s r x).sched = s.sched := rfl
@[simp] theorem setRegion_tick (s : State) (r : Nat) (x : Region) : (setRegion s r x).tick = s.tick := rfl
@[simp] theorem setRegion_cores (s : State) (r : Nat) (x : Region) : (setRegion s r x).cores = s.cores := rfl
@[simp] theorem setRegion_twes (s : State) (r : Nat) (x : Region) : (setRegion s r x).twes = s.twes := rfl
@[simp] theorem setRegion_reqs (s : State) (r : Nat) (x : Region) : (setRegion s r x).reqs = s.reqs := rfl
@[simp] theorem setRegion_nextReq (s : State) (r : Nat) (x : Region) : (setRegion s r x).nextReq = s.nextReq := rfl
@[simp] theorem setRegion_nextBid (s : State) (r : Nat) (x : Region) : (setRegion s r x).nextBid = s.nextBid := rfl
@[simp] theorem setRegion_tlbis (s : State) (r : Nat) (x : Region) : (setRegion s r x).tlbis = s.tlbis := rfl
@[simp] theorem setRegion_clusterRegion (s : State) (r : Nat) (x : Region) : (setRegion s r x).clusterRegion = s.clusterRegion := rfl
@[simp] theorem setRegion_sources (s : State) (r : Nat) (x : Region) : (setRegion s r x).sources = s.sources := rfl
@[simp] theorem setRegion_latches (s : State) (r : Nat) (x : Region) : (setRegion s r x).latches = s.latches := rfl
@[simp] theorem setRegion_xings (s : State) (r : Nat) (x : Region) : (setRegion s r x).xings = s.xings := rfl
@[simp] theorem setRegion_rdcown (s : State) (r : Nat) (x : Region) : (setRegion s r x).rdcown = s.rdcown := rfl
@[simp] theorem setRegion_rounds (s : State) (r : Nat) (x : Region) : (setRegion s r x).rounds = s.rounds := rfl
@[simp] theorem setRegion_nextRound (s : State) (r : Nat) (x : Region) : (setRegion s r x).nextRound = s.nextRound := rfl
@[simp] theorem setRegion_chans (s : State) (r : Nat) (x : Region) : (setRegion s r x).chans = s.chans := rfl
@[simp] theorem setRegion_wheel (s : State) (r : Nat) (x : Region) : (setRegion s r x).wheel = s.wheel := rfl
@[simp] theorem setRegion_mon (s : State) (r : Nat) (x : Region) : (setRegion s r x).mon = s.mon := rfl
@[simp] theorem setRegion_heat (s : State) (r : Nat) (x : Region) : (setRegion s r x).heat = s.heat := rfl
@[simp] theorem setRegion_rmap (s : State) (r : Nat) (x : Region) : (setRegion s r x).rmap = s.rmap := rfl
@[simp] theorem setRegion_rmapNow (s : State) (r : Nat) (x : Region) : (setRegion s r x).rmapNow = s.rmapNow := rfl
@[simp] theorem setRegion_objs (s : State) (r : Nat) (x : Region) : (setRegion s r x).objs = s.objs := rfl
@[simp] theorem setRegion_saved (s : State) (r : Nat) (x : Region) : (setRegion s r x).saved = s.saved := rfl
@[simp] theorem setRegion_insts (s : State) (r : Nat) (x : Region) : (setRegion s r x).insts = s.insts := rfl
@[simp] theorem setRegion_parts (s : State) (r : Nat) (x : Region) : (setRegion s r x).parts = s.parts := rfl
@[simp] theorem setRegion_keys (s : State) (r : Nat) (x : Region) : (setRegion s r x).keys = s.keys := rfl
@[simp] theorem setRegion_ftags (s : State) (r : Nat) (x : Region) : (setRegion s r x).ftags = s.ftags := rfl
@[simp] theorem setRegion_tags (s : State) (r : Nat) (x : Region) : (setRegion s r x).tags = s.tags := rfl
@[simp] theorem setRegion_poison (s : State) (r : Nat) (x : Region) : (setRegion s r x).poison = s.poison := rfl
@[simp] theorem setRegion_mem (s : State) (r : Nat) (x : Region) : (setRegion s r x).mem = s.mem := rfl
@[simp] theorem setRegion_mgmt (s : State) (r : Nat) (x : Region) : (setRegion s r x).mgmt = s.mgmt := rfl
@[simp] theorem setRegion_store (s : State) (r : Nat) (x : Region) : (setRegion s r x).store = s.store := rfl
@[simp] theorem setRegion_svents (s : State) (r : Nat) (x : Region) : (setRegion s r x).svents = s.svents := rfl
@[simp] theorem setRegion_fwl (s : State) (r : Nat) (x : Region) : (setRegion s r x).fwl = s.fwl := rfl
@[simp] theorem setRegion_jobs (s : State) (r : Nat) (x : Region) : (setRegion s r x).jobs = s.jobs := rfl
@[simp] theorem setRegion_msgs (s : State) (r : Nat) (x : Region) : (setRegion s r x).msgs = s.msgs := rfl
@[simp] theorem setRegion_nextMsg (s : State) (r : Nat) (x : Region) : (setRegion s r x).nextMsg = s.nextMsg := rfl
@[simp] theorem setRegion_waves (s : State) (r : Nat) (x : Region) : (setRegion s r x).waves = s.waves := rfl
@[simp] theorem setRegion_links (s : State) (r : Nat) (x : Region) : (setRegion s r x).links = s.links := rfl
@[simp] theorem setRegion_host (s : State) (r : Nat) (x : Region) : (setRegion s r x).host = s.host := rfl

/-! ### `setObj` -/

@[simp] theorem setObj_sched (s : State) (n : Nat) (x : Obj) : (setObj s n x).sched = s.sched := rfl
@[simp] theorem setObj_tick (s : State) (n : Nat) (x : Obj) : (setObj s n x).tick = s.tick := rfl
@[simp] theorem setObj_cores (s : State) (n : Nat) (x : Obj) : (setObj s n x).cores = s.cores := rfl
@[simp] theorem setObj_twes (s : State) (n : Nat) (x : Obj) : (setObj s n x).twes = s.twes := rfl
@[simp] theorem setObj_reqs (s : State) (n : Nat) (x : Obj) : (setObj s n x).reqs = s.reqs := rfl
@[simp] theorem setObj_nextReq (s : State) (n : Nat) (x : Obj) : (setObj s n x).nextReq = s.nextReq := rfl
@[simp] theorem setObj_nextBid (s : State) (n : Nat) (x : Obj) : (setObj s n x).nextBid = s.nextBid := rfl
@[simp] theorem setObj_tlbis (s : State) (n : Nat) (x : Obj) : (setObj s n x).tlbis = s.tlbis := rfl
@[simp] theorem setObj_regions (s : State) (n : Nat) (x : Obj) : (setObj s n x).regions = s.regions := rfl
@[simp] theorem setObj_clusterRegion (s : State) (n : Nat) (x : Obj) : (setObj s n x).clusterRegion = s.clusterRegion := rfl
@[simp] theorem setObj_sources (s : State) (n : Nat) (x : Obj) : (setObj s n x).sources = s.sources := rfl
@[simp] theorem setObj_latches (s : State) (n : Nat) (x : Obj) : (setObj s n x).latches = s.latches := rfl
@[simp] theorem setObj_xings (s : State) (n : Nat) (x : Obj) : (setObj s n x).xings = s.xings := rfl
@[simp] theorem setObj_rdcown (s : State) (n : Nat) (x : Obj) : (setObj s n x).rdcown = s.rdcown := rfl
@[simp] theorem setObj_rounds (s : State) (n : Nat) (x : Obj) : (setObj s n x).rounds = s.rounds := rfl
@[simp] theorem setObj_nextRound (s : State) (n : Nat) (x : Obj) : (setObj s n x).nextRound = s.nextRound := rfl
@[simp] theorem setObj_chans (s : State) (n : Nat) (x : Obj) : (setObj s n x).chans = s.chans := rfl
@[simp] theorem setObj_wheel (s : State) (n : Nat) (x : Obj) : (setObj s n x).wheel = s.wheel := rfl
@[simp] theorem setObj_mon (s : State) (n : Nat) (x : Obj) : (setObj s n x).mon = s.mon := rfl
@[simp] theorem setObj_heat (s : State) (n : Nat) (x : Obj) : (setObj s n x).heat = s.heat := rfl
@[simp] theorem setObj_rmap (s : State) (n : Nat) (x : Obj) : (setObj s n x).rmap = s.rmap := rfl
@[simp] theorem setObj_rmapNow (s : State) (n : Nat) (x : Obj) : (setObj s n x).rmapNow = s.rmapNow := rfl
@[simp] theorem setObj_saved (s : State) (n : Nat) (x : Obj) : (setObj s n x).saved = s.saved := rfl
@[simp] theorem setObj_insts (s : State) (n : Nat) (x : Obj) : (setObj s n x).insts = s.insts := rfl
@[simp] theorem setObj_parts (s : State) (n : Nat) (x : Obj) : (setObj s n x).parts = s.parts := rfl
@[simp] theorem setObj_keys (s : State) (n : Nat) (x : Obj) : (setObj s n x).keys = s.keys := rfl
@[simp] theorem setObj_ftags (s : State) (n : Nat) (x : Obj) : (setObj s n x).ftags = s.ftags := rfl
@[simp] theorem setObj_tags (s : State) (n : Nat) (x : Obj) : (setObj s n x).tags = s.tags := rfl
@[simp] theorem setObj_poison (s : State) (n : Nat) (x : Obj) : (setObj s n x).poison = s.poison := rfl
@[simp] theorem setObj_mem (s : State) (n : Nat) (x : Obj) : (setObj s n x).mem = s.mem := rfl
@[simp] theorem setObj_mgmt (s : State) (n : Nat) (x : Obj) : (setObj s n x).mgmt = s.mgmt := rfl
@[simp] theorem setObj_store (s : State) (n : Nat) (x : Obj) : (setObj s n x).store = s.store := rfl
@[simp] theorem setObj_svents (s : State) (n : Nat) (x : Obj) : (setObj s n x).svents = s.svents := rfl
@[simp] theorem setObj_fwl (s : State) (n : Nat) (x : Obj) : (setObj s n x).fwl = s.fwl := rfl
@[simp] theorem setObj_jobs (s : State) (n : Nat) (x : Obj) : (setObj s n x).jobs = s.jobs := rfl
@[simp] theorem setObj_msgs (s : State) (n : Nat) (x : Obj) : (setObj s n x).msgs = s.msgs := rfl
@[simp] theorem setObj_nextMsg (s : State) (n : Nat) (x : Obj) : (setObj s n x).nextMsg = s.nextMsg := rfl
@[simp] theorem setObj_waves (s : State) (n : Nat) (x : Obj) : (setObj s n x).waves = s.waves := rfl
@[simp] theorem setObj_links (s : State) (n : Nat) (x : Obj) : (setObj s n x).links = s.links := rfl
@[simp] theorem setObj_host (s : State) (n : Nat) (x : Obj) : (setObj s n x).host = s.host := rfl

/-! ### `setPart` -/

@[simp] theorem setPart_sched (s : State) (n : Nat) (x : Part) : (setPart s n x).sched = s.sched := rfl
@[simp] theorem setPart_tick (s : State) (n : Nat) (x : Part) : (setPart s n x).tick = s.tick := rfl
@[simp] theorem setPart_cores (s : State) (n : Nat) (x : Part) : (setPart s n x).cores = s.cores := rfl
@[simp] theorem setPart_twes (s : State) (n : Nat) (x : Part) : (setPart s n x).twes = s.twes := rfl
@[simp] theorem setPart_reqs (s : State) (n : Nat) (x : Part) : (setPart s n x).reqs = s.reqs := rfl
@[simp] theorem setPart_nextReq (s : State) (n : Nat) (x : Part) : (setPart s n x).nextReq = s.nextReq := rfl
@[simp] theorem setPart_nextBid (s : State) (n : Nat) (x : Part) : (setPart s n x).nextBid = s.nextBid := rfl
@[simp] theorem setPart_tlbis (s : State) (n : Nat) (x : Part) : (setPart s n x).tlbis = s.tlbis := rfl
@[simp] theorem setPart_regions (s : State) (n : Nat) (x : Part) : (setPart s n x).regions = s.regions := rfl
@[simp] theorem setPart_clusterRegion (s : State) (n : Nat) (x : Part) : (setPart s n x).clusterRegion = s.clusterRegion := rfl
@[simp] theorem setPart_sources (s : State) (n : Nat) (x : Part) : (setPart s n x).sources = s.sources := rfl
@[simp] theorem setPart_latches (s : State) (n : Nat) (x : Part) : (setPart s n x).latches = s.latches := rfl
@[simp] theorem setPart_xings (s : State) (n : Nat) (x : Part) : (setPart s n x).xings = s.xings := rfl
@[simp] theorem setPart_rdcown (s : State) (n : Nat) (x : Part) : (setPart s n x).rdcown = s.rdcown := rfl
@[simp] theorem setPart_rounds (s : State) (n : Nat) (x : Part) : (setPart s n x).rounds = s.rounds := rfl
@[simp] theorem setPart_nextRound (s : State) (n : Nat) (x : Part) : (setPart s n x).nextRound = s.nextRound := rfl
@[simp] theorem setPart_chans (s : State) (n : Nat) (x : Part) : (setPart s n x).chans = s.chans := rfl
@[simp] theorem setPart_wheel (s : State) (n : Nat) (x : Part) : (setPart s n x).wheel = s.wheel := rfl
@[simp] theorem setPart_mon (s : State) (n : Nat) (x : Part) : (setPart s n x).mon = s.mon := rfl
@[simp] theorem setPart_heat (s : State) (n : Nat) (x : Part) : (setPart s n x).heat = s.heat := rfl
@[simp] theorem setPart_rmap (s : State) (n : Nat) (x : Part) : (setPart s n x).rmap = s.rmap := rfl
@[simp] theorem setPart_rmapNow (s : State) (n : Nat) (x : Part) : (setPart s n x).rmapNow = s.rmapNow := rfl
@[simp] theorem setPart_objs (s : State) (n : Nat) (x : Part) : (setPart s n x).objs = s.objs := rfl
@[simp] theorem setPart_saved (s : State) (n : Nat) (x : Part) : (setPart s n x).saved = s.saved := rfl
@[simp] theorem setPart_insts (s : State) (n : Nat) (x : Part) : (setPart s n x).insts = s.insts := rfl
@[simp] theorem setPart_keys (s : State) (n : Nat) (x : Part) : (setPart s n x).keys = s.keys := rfl
@[simp] theorem setPart_ftags (s : State) (n : Nat) (x : Part) : (setPart s n x).ftags = s.ftags := rfl
@[simp] theorem setPart_tags (s : State) (n : Nat) (x : Part) : (setPart s n x).tags = s.tags := rfl
@[simp] theorem setPart_poison (s : State) (n : Nat) (x : Part) : (setPart s n x).poison = s.poison := rfl
@[simp] theorem setPart_mem (s : State) (n : Nat) (x : Part) : (setPart s n x).mem = s.mem := rfl
@[simp] theorem setPart_mgmt (s : State) (n : Nat) (x : Part) : (setPart s n x).mgmt = s.mgmt := rfl
@[simp] theorem setPart_store (s : State) (n : Nat) (x : Part) : (setPart s n x).store = s.store := rfl
@[simp] theorem setPart_svents (s : State) (n : Nat) (x : Part) : (setPart s n x).svents = s.svents := rfl
@[simp] theorem setPart_fwl (s : State) (n : Nat) (x : Part) : (setPart s n x).fwl = s.fwl := rfl
@[simp] theorem setPart_jobs (s : State) (n : Nat) (x : Part) : (setPart s n x).jobs = s.jobs := rfl
@[simp] theorem setPart_msgs (s : State) (n : Nat) (x : Part) : (setPart s n x).msgs = s.msgs := rfl
@[simp] theorem setPart_nextMsg (s : State) (n : Nat) (x : Part) : (setPart s n x).nextMsg = s.nextMsg := rfl
@[simp] theorem setPart_waves (s : State) (n : Nat) (x : Part) : (setPart s n x).waves = s.waves := rfl
@[simp] theorem setPart_links (s : State) (n : Nat) (x : Part) : (setPart s n x).links = s.links := rfl
@[simp] theorem setPart_host (s : State) (n : Nat) (x : Part) : (setPart s n x).host = s.host := rfl

/-! ### `setChan` -/

@[simp] theorem setChan_sched (s : State) (n : Nat) (x : Channel) : (setChan s n x).sched = s.sched := rfl
@[simp] theorem setChan_tick (s : State) (n : Nat) (x : Channel) : (setChan s n x).tick = s.tick := rfl
@[simp] theorem setChan_cores (s : State) (n : Nat) (x : Channel) : (setChan s n x).cores = s.cores := rfl
@[simp] theorem setChan_twes (s : State) (n : Nat) (x : Channel) : (setChan s n x).twes = s.twes := rfl
@[simp] theorem setChan_reqs (s : State) (n : Nat) (x : Channel) : (setChan s n x).reqs = s.reqs := rfl
@[simp] theorem setChan_nextReq (s : State) (n : Nat) (x : Channel) : (setChan s n x).nextReq = s.nextReq := rfl
@[simp] theorem setChan_nextBid (s : State) (n : Nat) (x : Channel) : (setChan s n x).nextBid = s.nextBid := rfl
@[simp] theorem setChan_tlbis (s : State) (n : Nat) (x : Channel) : (setChan s n x).tlbis = s.tlbis := rfl
@[simp] theorem setChan_regions (s : State) (n : Nat) (x : Channel) : (setChan s n x).regions = s.regions := rfl
@[simp] theorem setChan_clusterRegion (s : State) (n : Nat) (x : Channel) : (setChan s n x).clusterRegion = s.clusterRegion := rfl
@[simp] theorem setChan_sources (s : State) (n : Nat) (x : Channel) : (setChan s n x).sources = s.sources := rfl
@[simp] theorem setChan_latches (s : State) (n : Nat) (x : Channel) : (setChan s n x).latches = s.latches := rfl
@[simp] theorem setChan_xings (s : State) (n : Nat) (x : Channel) : (setChan s n x).xings = s.xings := rfl
@[simp] theorem setChan_rdcown (s : State) (n : Nat) (x : Channel) : (setChan s n x).rdcown = s.rdcown := rfl
@[simp] theorem setChan_rounds (s : State) (n : Nat) (x : Channel) : (setChan s n x).rounds = s.rounds := rfl
@[simp] theorem setChan_nextRound (s : State) (n : Nat) (x : Channel) : (setChan s n x).nextRound = s.nextRound := rfl
@[simp] theorem setChan_wheel (s : State) (n : Nat) (x : Channel) : (setChan s n x).wheel = s.wheel := rfl
@[simp] theorem setChan_mon (s : State) (n : Nat) (x : Channel) : (setChan s n x).mon = s.mon := rfl
@[simp] theorem setChan_heat (s : State) (n : Nat) (x : Channel) : (setChan s n x).heat = s.heat := rfl
@[simp] theorem setChan_rmap (s : State) (n : Nat) (x : Channel) : (setChan s n x).rmap = s.rmap := rfl
@[simp] theorem setChan_rmapNow (s : State) (n : Nat) (x : Channel) : (setChan s n x).rmapNow = s.rmapNow := rfl
@[simp] theorem setChan_objs (s : State) (n : Nat) (x : Channel) : (setChan s n x).objs = s.objs := rfl
@[simp] theorem setChan_saved (s : State) (n : Nat) (x : Channel) : (setChan s n x).saved = s.saved := rfl
@[simp] theorem setChan_insts (s : State) (n : Nat) (x : Channel) : (setChan s n x).insts = s.insts := rfl
@[simp] theorem setChan_parts (s : State) (n : Nat) (x : Channel) : (setChan s n x).parts = s.parts := rfl
@[simp] theorem setChan_keys (s : State) (n : Nat) (x : Channel) : (setChan s n x).keys = s.keys := rfl
@[simp] theorem setChan_ftags (s : State) (n : Nat) (x : Channel) : (setChan s n x).ftags = s.ftags := rfl
@[simp] theorem setChan_tags (s : State) (n : Nat) (x : Channel) : (setChan s n x).tags = s.tags := rfl
@[simp] theorem setChan_poison (s : State) (n : Nat) (x : Channel) : (setChan s n x).poison = s.poison := rfl
@[simp] theorem setChan_mem (s : State) (n : Nat) (x : Channel) : (setChan s n x).mem = s.mem := rfl
@[simp] theorem setChan_mgmt (s : State) (n : Nat) (x : Channel) : (setChan s n x).mgmt = s.mgmt := rfl
@[simp] theorem setChan_store (s : State) (n : Nat) (x : Channel) : (setChan s n x).store = s.store := rfl
@[simp] theorem setChan_svents (s : State) (n : Nat) (x : Channel) : (setChan s n x).svents = s.svents := rfl
@[simp] theorem setChan_fwl (s : State) (n : Nat) (x : Channel) : (setChan s n x).fwl = s.fwl := rfl
@[simp] theorem setChan_jobs (s : State) (n : Nat) (x : Channel) : (setChan s n x).jobs = s.jobs := rfl
@[simp] theorem setChan_msgs (s : State) (n : Nat) (x : Channel) : (setChan s n x).msgs = s.msgs := rfl
@[simp] theorem setChan_nextMsg (s : State) (n : Nat) (x : Channel) : (setChan s n x).nextMsg = s.nextMsg := rfl
@[simp] theorem setChan_waves (s : State) (n : Nat) (x : Channel) : (setChan s n x).waves = s.waves := rfl
@[simp] theorem setChan_links (s : State) (n : Nat) (x : Channel) : (setChan s n x).links = s.links := rfl
@[simp] theorem setChan_host (s : State) (n : Nat) (x : Channel) : (setChan s n x).host = s.host := rfl

/-! ### `setSource` -/

@[simp] theorem setSource_sched (s : State) (n : Nat) (x : Source) : (setSource s n x).sched = s.sched := rfl
@[simp] theorem setSource_tick (s : State) (n : Nat) (x : Source) : (setSource s n x).tick = s.tick := rfl
@[simp] theorem setSource_cores (s : State) (n : Nat) (x : Source) : (setSource s n x).cores = s.cores := rfl
@[simp] theorem setSource_twes (s : State) (n : Nat) (x : Source) : (setSource s n x).twes = s.twes := rfl
@[simp] theorem setSource_reqs (s : State) (n : Nat) (x : Source) : (setSource s n x).reqs = s.reqs := rfl
@[simp] theorem setSource_nextReq (s : State) (n : Nat) (x : Source) : (setSource s n x).nextReq = s.nextReq := rfl
@[simp] theorem setSource_nextBid (s : State) (n : Nat) (x : Source) : (setSource s n x).nextBid = s.nextBid := rfl
@[simp] theorem setSource_tlbis (s : State) (n : Nat) (x : Source) : (setSource s n x).tlbis = s.tlbis := rfl
@[simp] theorem setSource_regions (s : State) (n : Nat) (x : Source) : (setSource s n x).regions = s.regions := rfl
@[simp] theorem setSource_clusterRegion (s : State) (n : Nat) (x : Source) : (setSource s n x).clusterRegion = s.clusterRegion := rfl
@[simp] theorem setSource_latches (s : State) (n : Nat) (x : Source) : (setSource s n x).latches = s.latches := rfl
@[simp] theorem setSource_xings (s : State) (n : Nat) (x : Source) : (setSource s n x).xings = s.xings := rfl
@[simp] theorem setSource_rdcown (s : State) (n : Nat) (x : Source) : (setSource s n x).rdcown = s.rdcown := rfl
@[simp] theorem setSource_rounds (s : State) (n : Nat) (x : Source) : (setSource s n x).rounds = s.rounds := rfl
@[simp] theorem setSource_nextRound (s : State) (n : Nat) (x : Source) : (setSource s n x).nextRound = s.nextRound := rfl
@[simp] theorem setSource_chans (s : State) (n : Nat) (x : Source) : (setSource s n x).chans = s.chans := rfl
@[simp] theorem setSource_wheel (s : State) (n : Nat) (x : Source) : (setSource s n x).wheel = s.wheel := rfl
@[simp] theorem setSource_mon (s : State) (n : Nat) (x : Source) : (setSource s n x).mon = s.mon := rfl
@[simp] theorem setSource_heat (s : State) (n : Nat) (x : Source) : (setSource s n x).heat = s.heat := rfl
@[simp] theorem setSource_rmap (s : State) (n : Nat) (x : Source) : (setSource s n x).rmap = s.rmap := rfl
@[simp] theorem setSource_rmapNow (s : State) (n : Nat) (x : Source) : (setSource s n x).rmapNow = s.rmapNow := rfl
@[simp] theorem setSource_objs (s : State) (n : Nat) (x : Source) : (setSource s n x).objs = s.objs := rfl
@[simp] theorem setSource_saved (s : State) (n : Nat) (x : Source) : (setSource s n x).saved = s.saved := rfl
@[simp] theorem setSource_insts (s : State) (n : Nat) (x : Source) : (setSource s n x).insts = s.insts := rfl
@[simp] theorem setSource_parts (s : State) (n : Nat) (x : Source) : (setSource s n x).parts = s.parts := rfl
@[simp] theorem setSource_keys (s : State) (n : Nat) (x : Source) : (setSource s n x).keys = s.keys := rfl
@[simp] theorem setSource_ftags (s : State) (n : Nat) (x : Source) : (setSource s n x).ftags = s.ftags := rfl
@[simp] theorem setSource_tags (s : State) (n : Nat) (x : Source) : (setSource s n x).tags = s.tags := rfl
@[simp] theorem setSource_poison (s : State) (n : Nat) (x : Source) : (setSource s n x).poison = s.poison := rfl
@[simp] theorem setSource_mem (s : State) (n : Nat) (x : Source) : (setSource s n x).mem = s.mem := rfl
@[simp] theorem setSource_mgmt (s : State) (n : Nat) (x : Source) : (setSource s n x).mgmt = s.mgmt := rfl
@[simp] theorem setSource_store (s : State) (n : Nat) (x : Source) : (setSource s n x).store = s.store := rfl
@[simp] theorem setSource_svents (s : State) (n : Nat) (x : Source) : (setSource s n x).svents = s.svents := rfl
@[simp] theorem setSource_fwl (s : State) (n : Nat) (x : Source) : (setSource s n x).fwl = s.fwl := rfl
@[simp] theorem setSource_jobs (s : State) (n : Nat) (x : Source) : (setSource s n x).jobs = s.jobs := rfl
@[simp] theorem setSource_msgs (s : State) (n : Nat) (x : Source) : (setSource s n x).msgs = s.msgs := rfl
@[simp] theorem setSource_nextMsg (s : State) (n : Nat) (x : Source) : (setSource s n x).nextMsg = s.nextMsg := rfl
@[simp] theorem setSource_waves (s : State) (n : Nat) (x : Source) : (setSource s n x).waves = s.waves := rfl
@[simp] theorem setSource_links (s : State) (n : Nat) (x : Source) : (setSource s n x).links = s.links := rfl
@[simp] theorem setSource_host (s : State) (n : Nat) (x : Source) : (setSource s n x).host = s.host := rfl

/-! ### `setReq` -/

@[simp] theorem setReq_sched (s : State) (n : Nat) (x : Req) : (setReq s n x).sched = s.sched := rfl
@[simp] theorem setReq_tick (s : State) (n : Nat) (x : Req) : (setReq s n x).tick = s.tick := rfl
@[simp] theorem setReq_cores (s : State) (n : Nat) (x : Req) : (setReq s n x).cores = s.cores := rfl
@[simp] theorem setReq_twes (s : State) (n : Nat) (x : Req) : (setReq s n x).twes = s.twes := rfl
@[simp] theorem setReq_nextReq (s : State) (n : Nat) (x : Req) : (setReq s n x).nextReq = s.nextReq := rfl
@[simp] theorem setReq_nextBid (s : State) (n : Nat) (x : Req) : (setReq s n x).nextBid = s.nextBid := rfl
@[simp] theorem setReq_tlbis (s : State) (n : Nat) (x : Req) : (setReq s n x).tlbis = s.tlbis := rfl
@[simp] theorem setReq_regions (s : State) (n : Nat) (x : Req) : (setReq s n x).regions = s.regions := rfl
@[simp] theorem setReq_clusterRegion (s : State) (n : Nat) (x : Req) : (setReq s n x).clusterRegion = s.clusterRegion := rfl
@[simp] theorem setReq_sources (s : State) (n : Nat) (x : Req) : (setReq s n x).sources = s.sources := rfl
@[simp] theorem setReq_latches (s : State) (n : Nat) (x : Req) : (setReq s n x).latches = s.latches := rfl
@[simp] theorem setReq_xings (s : State) (n : Nat) (x : Req) : (setReq s n x).xings = s.xings := rfl
@[simp] theorem setReq_rdcown (s : State) (n : Nat) (x : Req) : (setReq s n x).rdcown = s.rdcown := rfl
@[simp] theorem setReq_rounds (s : State) (n : Nat) (x : Req) : (setReq s n x).rounds = s.rounds := rfl
@[simp] theorem setReq_nextRound (s : State) (n : Nat) (x : Req) : (setReq s n x).nextRound = s.nextRound := rfl
@[simp] theorem setReq_chans (s : State) (n : Nat) (x : Req) : (setReq s n x).chans = s.chans := rfl
@[simp] theorem setReq_wheel (s : State) (n : Nat) (x : Req) : (setReq s n x).wheel = s.wheel := rfl
@[simp] theorem setReq_mon (s : State) (n : Nat) (x : Req) : (setReq s n x).mon = s.mon := rfl
@[simp] theorem setReq_heat (s : State) (n : Nat) (x : Req) : (setReq s n x).heat = s.heat := rfl
@[simp] theorem setReq_rmap (s : State) (n : Nat) (x : Req) : (setReq s n x).rmap = s.rmap := rfl
@[simp] theorem setReq_rmapNow (s : State) (n : Nat) (x : Req) : (setReq s n x).rmapNow = s.rmapNow := rfl
@[simp] theorem setReq_objs (s : State) (n : Nat) (x : Req) : (setReq s n x).objs = s.objs := rfl
@[simp] theorem setReq_saved (s : State) (n : Nat) (x : Req) : (setReq s n x).saved = s.saved := rfl
@[simp] theorem setReq_insts (s : State) (n : Nat) (x : Req) : (setReq s n x).insts = s.insts := rfl
@[simp] theorem setReq_parts (s : State) (n : Nat) (x : Req) : (setReq s n x).parts = s.parts := rfl
@[simp] theorem setReq_keys (s : State) (n : Nat) (x : Req) : (setReq s n x).keys = s.keys := rfl
@[simp] theorem setReq_ftags (s : State) (n : Nat) (x : Req) : (setReq s n x).ftags = s.ftags := rfl
@[simp] theorem setReq_tags (s : State) (n : Nat) (x : Req) : (setReq s n x).tags = s.tags := rfl
@[simp] theorem setReq_poison (s : State) (n : Nat) (x : Req) : (setReq s n x).poison = s.poison := rfl
@[simp] theorem setReq_mem (s : State) (n : Nat) (x : Req) : (setReq s n x).mem = s.mem := rfl
@[simp] theorem setReq_mgmt (s : State) (n : Nat) (x : Req) : (setReq s n x).mgmt = s.mgmt := rfl
@[simp] theorem setReq_store (s : State) (n : Nat) (x : Req) : (setReq s n x).store = s.store := rfl
@[simp] theorem setReq_svents (s : State) (n : Nat) (x : Req) : (setReq s n x).svents = s.svents := rfl
@[simp] theorem setReq_fwl (s : State) (n : Nat) (x : Req) : (setReq s n x).fwl = s.fwl := rfl
@[simp] theorem setReq_jobs (s : State) (n : Nat) (x : Req) : (setReq s n x).jobs = s.jobs := rfl
@[simp] theorem setReq_msgs (s : State) (n : Nat) (x : Req) : (setReq s n x).msgs = s.msgs := rfl
@[simp] theorem setReq_nextMsg (s : State) (n : Nat) (x : Req) : (setReq s n x).nextMsg = s.nextMsg := rfl
@[simp] theorem setReq_waves (s : State) (n : Nat) (x : Req) : (setReq s n x).waves = s.waves := rfl
@[simp] theorem setReq_links (s : State) (n : Nat) (x : Req) : (setReq s n x).links = s.links := rfl
@[simp] theorem setReq_host (s : State) (n : Nat) (x : Req) : (setReq s n x).host = s.host := rfl

/-! ### `setXing` -/

@[simp] theorem setXing_sched (s : State) (n : Nat) (x : Crossing) : (setXing s n x).sched = s.sched := rfl
@[simp] theorem setXing_tick (s : State) (n : Nat) (x : Crossing) : (setXing s n x).tick = s.tick := rfl
@[simp] theorem setXing_cores (s : State) (n : Nat) (x : Crossing) : (setXing s n x).cores = s.cores := rfl
@[simp] theorem setXing_twes (s : State) (n : Nat) (x : Crossing) : (setXing s n x).twes = s.twes := rfl
@[simp] theorem setXing_reqs (s : State) (n : Nat) (x : Crossing) : (setXing s n x).reqs = s.reqs := rfl
@[simp] theorem setXing_nextReq (s : State) (n : Nat) (x : Crossing) : (setXing s n x).nextReq = s.nextReq := rfl
@[simp] theorem setXing_nextBid (s : State) (n : Nat) (x : Crossing) : (setXing s n x).nextBid = s.nextBid := rfl
@[simp] theorem setXing_tlbis (s : State) (n : Nat) (x : Crossing) : (setXing s n x).tlbis = s.tlbis := rfl
@[simp] theorem setXing_regions (s : State) (n : Nat) (x : Crossing) : (setXing s n x).regions = s.regions := rfl
@[simp] theorem setXing_clusterRegion (s : State) (n : Nat) (x : Crossing) : (setXing s n x).clusterRegion = s.clusterRegion := rfl
@[simp] theorem setXing_sources (s : State) (n : Nat) (x : Crossing) : (setXing s n x).sources = s.sources := rfl
@[simp] theorem setXing_latches (s : State) (n : Nat) (x : Crossing) : (setXing s n x).latches = s.latches := rfl
@[simp] theorem setXing_rdcown (s : State) (n : Nat) (x : Crossing) : (setXing s n x).rdcown = s.rdcown := rfl
@[simp] theorem setXing_rounds (s : State) (n : Nat) (x : Crossing) : (setXing s n x).rounds = s.rounds := rfl
@[simp] theorem setXing_nextRound (s : State) (n : Nat) (x : Crossing) : (setXing s n x).nextRound = s.nextRound := rfl
@[simp] theorem setXing_chans (s : State) (n : Nat) (x : Crossing) : (setXing s n x).chans = s.chans := rfl
@[simp] theorem setXing_wheel (s : State) (n : Nat) (x : Crossing) : (setXing s n x).wheel = s.wheel := rfl
@[simp] theorem setXing_mon (s : State) (n : Nat) (x : Crossing) : (setXing s n x).mon = s.mon := rfl
@[simp] theorem setXing_heat (s : State) (n : Nat) (x : Crossing) : (setXing s n x).heat = s.heat := rfl
@[simp] theorem setXing_rmap (s : State) (n : Nat) (x : Crossing) : (setXing s n x).rmap = s.rmap := rfl
@[simp] theorem setXing_rmapNow (s : State) (n : Nat) (x : Crossing) : (setXing s n x).rmapNow = s.rmapNow := rfl
@[simp] theorem setXing_objs (s : State) (n : Nat) (x : Crossing) : (setXing s n x).objs = s.objs := rfl
@[simp] theorem setXing_saved (s : State) (n : Nat) (x : Crossing) : (setXing s n x).saved = s.saved := rfl
@[simp] theorem setXing_insts (s : State) (n : Nat) (x : Crossing) : (setXing s n x).insts = s.insts := rfl
@[simp] theorem setXing_parts (s : State) (n : Nat) (x : Crossing) : (setXing s n x).parts = s.parts := rfl
@[simp] theorem setXing_keys (s : State) (n : Nat) (x : Crossing) : (setXing s n x).keys = s.keys := rfl
@[simp] theorem setXing_ftags (s : State) (n : Nat) (x : Crossing) : (setXing s n x).ftags = s.ftags := rfl
@[simp] theorem setXing_tags (s : State) (n : Nat) (x : Crossing) : (setXing s n x).tags = s.tags := rfl
@[simp] theorem setXing_poison (s : State) (n : Nat) (x : Crossing) : (setXing s n x).poison = s.poison := rfl
@[simp] theorem setXing_mem (s : State) (n : Nat) (x : Crossing) : (setXing s n x).mem = s.mem := rfl
@[simp] theorem setXing_mgmt (s : State) (n : Nat) (x : Crossing) : (setXing s n x).mgmt = s.mgmt := rfl
@[simp] theorem setXing_store (s : State) (n : Nat) (x : Crossing) : (setXing s n x).store = s.store := rfl
@[simp] theorem setXing_svents (s : State) (n : Nat) (x : Crossing) : (setXing s n x).svents = s.svents := rfl
@[simp] theorem setXing_fwl (s : State) (n : Nat) (x : Crossing) : (setXing s n x).fwl = s.fwl := rfl
@[simp] theorem setXing_jobs (s : State) (n : Nat) (x : Crossing) : (setXing s n x).jobs = s.jobs := rfl
@[simp] theorem setXing_msgs (s : State) (n : Nat) (x : Crossing) : (setXing s n x).msgs = s.msgs := rfl
@[simp] theorem setXing_nextMsg (s : State) (n : Nat) (x : Crossing) : (setXing s n x).nextMsg = s.nextMsg := rfl
@[simp] theorem setXing_waves (s : State) (n : Nat) (x : Crossing) : (setXing s n x).waves = s.waves := rfl
@[simp] theorem setXing_links (s : State) (n : Nat) (x : Crossing) : (setXing s n x).links = s.links := rfl
@[simp] theorem setXing_host (s : State) (n : Nat) (x : Crossing) : (setXing s n x).host = s.host := rfl

/-! ### `setTwe` -/

@[simp] theorem setTwe_sched (s : State) (n : Nat) (x : Twe) : (setTwe s n x).sched = s.sched := rfl
@[simp] theorem setTwe_tick (s : State) (n : Nat) (x : Twe) : (setTwe s n x).tick = s.tick := rfl
@[simp] theorem setTwe_cores (s : State) (n : Nat) (x : Twe) : (setTwe s n x).cores = s.cores := rfl
@[simp] theorem setTwe_reqs (s : State) (n : Nat) (x : Twe) : (setTwe s n x).reqs = s.reqs := rfl
@[simp] theorem setTwe_nextReq (s : State) (n : Nat) (x : Twe) : (setTwe s n x).nextReq = s.nextReq := rfl
@[simp] theorem setTwe_nextBid (s : State) (n : Nat) (x : Twe) : (setTwe s n x).nextBid = s.nextBid := rfl
@[simp] theorem setTwe_tlbis (s : State) (n : Nat) (x : Twe) : (setTwe s n x).tlbis = s.tlbis := rfl
@[simp] theorem setTwe_regions (s : State) (n : Nat) (x : Twe) : (setTwe s n x).regions = s.regions := rfl
@[simp] theorem setTwe_clusterRegion (s : State) (n : Nat) (x : Twe) : (setTwe s n x).clusterRegion = s.clusterRegion := rfl
@[simp] theorem setTwe_sources (s : State) (n : Nat) (x : Twe) : (setTwe s n x).sources = s.sources := rfl
@[simp] theorem setTwe_latches (s : State) (n : Nat) (x : Twe) : (setTwe s n x).latches = s.latches := rfl
@[simp] theorem setTwe_xings (s : State) (n : Nat) (x : Twe) : (setTwe s n x).xings = s.xings := rfl
@[simp] theorem setTwe_rdcown (s : State) (n : Nat) (x : Twe) : (setTwe s n x).rdcown = s.rdcown := rfl
@[simp] theorem setTwe_rounds (s : State) (n : Nat) (x : Twe) : (setTwe s n x).rounds = s.rounds := rfl
@[simp] theorem setTwe_nextRound (s : State) (n : Nat) (x : Twe) : (setTwe s n x).nextRound = s.nextRound := rfl
@[simp] theorem setTwe_chans (s : State) (n : Nat) (x : Twe) : (setTwe s n x).chans = s.chans := rfl
@[simp] theorem setTwe_wheel (s : State) (n : Nat) (x : Twe) : (setTwe s n x).wheel = s.wheel := rfl
@[simp] theorem setTwe_mon (s : State) (n : Nat) (x : Twe) : (setTwe s n x).mon = s.mon := rfl
@[simp] theorem setTwe_heat (s : State) (n : Nat) (x : Twe) : (setTwe s n x).heat = s.heat := rfl
@[simp] theorem setTwe_rmap (s : State) (n : Nat) (x : Twe) : (setTwe s n x).rmap = s.rmap := rfl
@[simp] theorem setTwe_rmapNow (s : State) (n : Nat) (x : Twe) : (setTwe s n x).rmapNow = s.rmapNow := rfl
@[simp] theorem setTwe_objs (s : State) (n : Nat) (x : Twe) : (setTwe s n x).objs = s.objs := rfl
@[simp] theorem setTwe_saved (s : State) (n : Nat) (x : Twe) : (setTwe s n x).saved = s.saved := rfl
@[simp] theorem setTwe_insts (s : State) (n : Nat) (x : Twe) : (setTwe s n x).insts = s.insts := rfl
@[simp] theorem setTwe_parts (s : State) (n : Nat) (x : Twe) : (setTwe s n x).parts = s.parts := rfl
@[simp] theorem setTwe_keys (s : State) (n : Nat) (x : Twe) : (setTwe s n x).keys = s.keys := rfl
@[simp] theorem setTwe_ftags (s : State) (n : Nat) (x : Twe) : (setTwe s n x).ftags = s.ftags := rfl
@[simp] theorem setTwe_tags (s : State) (n : Nat) (x : Twe) : (setTwe s n x).tags = s.tags := rfl
@[simp] theorem setTwe_poison (s : State) (n : Nat) (x : Twe) : (setTwe s n x).poison = s.poison := rfl
@[simp] theorem setTwe_mem (s : State) (n : Nat) (x : Twe) : (setTwe s n x).mem = s.mem := rfl
@[simp] theorem setTwe_mgmt (s : State) (n : Nat) (x : Twe) : (setTwe s n x).mgmt = s.mgmt := rfl
@[simp] theorem setTwe_store (s : State) (n : Nat) (x : Twe) : (setTwe s n x).store = s.store := rfl
@[simp] theorem setTwe_svents (s : State) (n : Nat) (x : Twe) : (setTwe s n x).svents = s.svents := rfl
@[simp] theorem setTwe_fwl (s : State) (n : Nat) (x : Twe) : (setTwe s n x).fwl = s.fwl := rfl
@[simp] theorem setTwe_jobs (s : State) (n : Nat) (x : Twe) : (setTwe s n x).jobs = s.jobs := rfl
@[simp] theorem setTwe_msgs (s : State) (n : Nat) (x : Twe) : (setTwe s n x).msgs = s.msgs := rfl
@[simp] theorem setTwe_nextMsg (s : State) (n : Nat) (x : Twe) : (setTwe s n x).nextMsg = s.nextMsg := rfl
@[simp] theorem setTwe_waves (s : State) (n : Nat) (x : Twe) : (setTwe s n x).waves = s.waves := rfl
@[simp] theorem setTwe_links (s : State) (n : Nat) (x : Twe) : (setTwe s n x).links = s.links := rfl
@[simp] theorem setTwe_host (s : State) (n : Nat) (x : Twe) : (setTwe s n x).host = s.host := rfl

/-! ### `setInst` -/

@[simp] theorem setInst_sched (s : State) (n : Nat) (x : Inst) : (setInst s n x).sched = s.sched := rfl
@[simp] theorem setInst_tick (s : State) (n : Nat) (x : Inst) : (setInst s n x).tick = s.tick := rfl
@[simp] theorem setInst_cores (s : State) (n : Nat) (x : Inst) : (setInst s n x).cores = s.cores := rfl
@[simp] theorem setInst_twes (s : State) (n : Nat) (x : Inst) : (setInst s n x).twes = s.twes := rfl
@[simp] theorem setInst_reqs (s : State) (n : Nat) (x : Inst) : (setInst s n x).reqs = s.reqs := rfl
@[simp] theorem setInst_nextReq (s : State) (n : Nat) (x : Inst) : (setInst s n x).nextReq = s.nextReq := rfl
@[simp] theorem setInst_nextBid (s : State) (n : Nat) (x : Inst) : (setInst s n x).nextBid = s.nextBid := rfl
@[simp] theorem setInst_tlbis (s : State) (n : Nat) (x : Inst) : (setInst s n x).tlbis = s.tlbis := rfl
@[simp] theorem setInst_regions (s : State) (n : Nat) (x : Inst) : (setInst s n x).regions = s.regions := rfl
@[simp] theorem setInst_clusterRegion (s : State) (n : Nat) (x : Inst) : (setInst s n x).clusterRegion = s.clusterRegion := rfl
@[simp] theorem setInst_sources (s : State) (n : Nat) (x : Inst) : (setInst s n x).sources = s.sources := rfl
@[simp] theorem setInst_latches (s : State) (n : Nat) (x : Inst) : (setInst s n x).latches = s.latches := rfl
@[simp] theorem setInst_xings (s : State) (n : Nat) (x : Inst) : (setInst s n x).xings = s.xings := rfl
@[simp] theorem setInst_rdcown (s : State) (n : Nat) (x : Inst) : (setInst s n x).rdcown = s.rdcown := rfl
@[simp] theorem setInst_rounds (s : State) (n : Nat) (x : Inst) : (setInst s n x).rounds = s.rounds := rfl
@[simp] theorem setInst_nextRound (s : State) (n : Nat) (x : Inst) : (setInst s n x).nextRound = s.nextRound := rfl
@[simp] theorem setInst_chans (s : State) (n : Nat) (x : Inst) : (setInst s n x).chans = s.chans := rfl
@[simp] theorem setInst_wheel (s : State) (n : Nat) (x : Inst) : (setInst s n x).wheel = s.wheel := rfl
@[simp] theorem setInst_mon (s : State) (n : Nat) (x : Inst) : (setInst s n x).mon = s.mon := rfl
@[simp] theorem setInst_heat (s : State) (n : Nat) (x : Inst) : (setInst s n x).heat = s.heat := rfl
@[simp] theorem setInst_rmap (s : State) (n : Nat) (x : Inst) : (setInst s n x).rmap = s.rmap := rfl
@[simp] theorem setInst_rmapNow (s : State) (n : Nat) (x : Inst) : (setInst s n x).rmapNow = s.rmapNow := rfl
@[simp] theorem setInst_objs (s : State) (n : Nat) (x : Inst) : (setInst s n x).objs = s.objs := rfl
@[simp] theorem setInst_saved (s : State) (n : Nat) (x : Inst) : (setInst s n x).saved = s.saved := rfl
@[simp] theorem setInst_parts (s : State) (n : Nat) (x : Inst) : (setInst s n x).parts = s.parts := rfl
@[simp] theorem setInst_keys (s : State) (n : Nat) (x : Inst) : (setInst s n x).keys = s.keys := rfl
@[simp] theorem setInst_ftags (s : State) (n : Nat) (x : Inst) : (setInst s n x).ftags = s.ftags := rfl
@[simp] theorem setInst_tags (s : State) (n : Nat) (x : Inst) : (setInst s n x).tags = s.tags := rfl
@[simp] theorem setInst_poison (s : State) (n : Nat) (x : Inst) : (setInst s n x).poison = s.poison := rfl
@[simp] theorem setInst_mem (s : State) (n : Nat) (x : Inst) : (setInst s n x).mem = s.mem := rfl
@[simp] theorem setInst_mgmt (s : State) (n : Nat) (x : Inst) : (setInst s n x).mgmt = s.mgmt := rfl
@[simp] theorem setInst_store (s : State) (n : Nat) (x : Inst) : (setInst s n x).store = s.store := rfl
@[simp] theorem setInst_svents (s : State) (n : Nat) (x : Inst) : (setInst s n x).svents = s.svents := rfl
@[simp] theorem setInst_fwl (s : State) (n : Nat) (x : Inst) : (setInst s n x).fwl = s.fwl := rfl
@[simp] theorem setInst_jobs (s : State) (n : Nat) (x : Inst) : (setInst s n x).jobs = s.jobs := rfl
@[simp] theorem setInst_msgs (s : State) (n : Nat) (x : Inst) : (setInst s n x).msgs = s.msgs := rfl
@[simp] theorem setInst_nextMsg (s : State) (n : Nat) (x : Inst) : (setInst s n x).nextMsg = s.nextMsg := rfl
@[simp] theorem setInst_waves (s : State) (n : Nat) (x : Inst) : (setInst s n x).waves = s.waves := rfl
@[simp] theorem setInst_links (s : State) (n : Nat) (x : Inst) : (setInst s n x).links = s.links := rfl
@[simp] theorem setInst_host (s : State) (n : Nat) (x : Inst) : (setInst s n x).host = s.host := rfl

/-! ### `setJob` -/

@[simp] theorem setJob_sched (s : State) (n : Nat) (x : JobSlot) : (setJob s n x).sched = s.sched := rfl
@[simp] theorem setJob_tick (s : State) (n : Nat) (x : JobSlot) : (setJob s n x).tick = s.tick := rfl
@[simp] theorem setJob_cores (s : State) (n : Nat) (x : JobSlot) : (setJob s n x).cores = s.cores := rfl
@[simp] theorem setJob_twes (s : State) (n : Nat) (x : JobSlot) : (setJob s n x).twes = s.twes := rfl
@[simp] theorem setJob_reqs (s : State) (n : Nat) (x : JobSlot) : (setJob s n x).reqs = s.reqs := rfl
@[simp] theorem setJob_nextReq (s : State) (n : Nat) (x : JobSlot) : (setJob s n x).nextReq = s.nextReq := rfl
@[simp] theorem setJob_nextBid (s : State) (n : Nat) (x : JobSlot) : (setJob s n x).nextBid = s.nextBid := rfl
@[simp] theorem setJob_tlbis (s : State) (n : Nat) (x : JobSlot) : (setJob s n x).tlbis = s.tlbis := rfl
@[simp] theorem setJob_regions (s : State) (n : Nat) (x : JobSlot) : (setJob s n x).regions = s.regions := rfl
@[simp] theorem setJob_clusterRegion (s : State) (n : Nat) (x : JobSlot) : (setJob s n x).clusterRegion = s.clusterRegion := rfl
@[simp] theorem setJob_sources (s : State) (n : Nat) (x : JobSlot) : (setJob s n x).sources = s.sources := rfl
@[simp] theorem setJob_latches (s : State) (n : Nat) (x : JobSlot) : (setJob s n x).latches = s.latches := rfl
@[simp] theorem setJob_xings (s : State) (n : Nat) (x : JobSlot) : (setJob s n x).xings = s.xings := rfl
@[simp] theorem setJob_rdcown (s : State) (n : Nat) (x : JobSlot) : (setJob s n x).rdcown = s.rdcown := rfl
@[simp] theorem setJob_rounds (s : State) (n : Nat) (x : JobSlot) : (setJob s n x).rounds = s.rounds := rfl
@[simp] theorem setJob_nextRound (s : State) (n : Nat) (x : JobSlot) : (setJob s n x).nextRound = s.nextRound := rfl
@[simp] theorem setJob_chans (s : State) (n : Nat) (x : JobSlot) : (setJob s n x).chans = s.chans := rfl
@[simp] theorem setJob_wheel (s : State) (n : Nat) (x : JobSlot) : (setJob s n x).wheel = s.wheel := rfl
@[simp] theorem setJob_mon (s : State) (n : Nat) (x : JobSlot) : (setJob s n x).mon = s.mon := rfl
@[simp] theorem setJob_heat (s : State) (n : Nat) (x : JobSlot) : (setJob s n x).heat = s.heat := rfl
@[simp] theorem setJob_rmap (s : State) (n : Nat) (x : JobSlot) : (setJob s n x).rmap = s.rmap := rfl
@[simp] theorem setJob_rmapNow (s : State) (n : Nat) (x : JobSlot) : (setJob s n x).rmapNow = s.rmapNow := rfl
@[simp] theorem setJob_objs (s : State) (n : Nat) (x : JobSlot) : (setJob s n x).objs = s.objs := rfl
@[simp] theorem setJob_saved (s : State) (n : Nat) (x : JobSlot) : (setJob s n x).saved = s.saved := rfl
@[simp] theorem setJob_insts (s : State) (n : Nat) (x : JobSlot) : (setJob s n x).insts = s.insts := rfl
@[simp] theorem setJob_parts (s : State) (n : Nat) (x : JobSlot) : (setJob s n x).parts = s.parts := rfl
@[simp] theorem setJob_keys (s : State) (n : Nat) (x : JobSlot) : (setJob s n x).keys = s.keys := rfl
@[simp] theorem setJob_ftags (s : State) (n : Nat) (x : JobSlot) : (setJob s n x).ftags = s.ftags := rfl
@[simp] theorem setJob_tags (s : State) (n : Nat) (x : JobSlot) : (setJob s n x).tags = s.tags := rfl
@[simp] theorem setJob_poison (s : State) (n : Nat) (x : JobSlot) : (setJob s n x).poison = s.poison := rfl
@[simp] theorem setJob_mem (s : State) (n : Nat) (x : JobSlot) : (setJob s n x).mem = s.mem := rfl
@[simp] theorem setJob_mgmt (s : State) (n : Nat) (x : JobSlot) : (setJob s n x).mgmt = s.mgmt := rfl
@[simp] theorem setJob_store (s : State) (n : Nat) (x : JobSlot) : (setJob s n x).store = s.store := rfl
@[simp] theorem setJob_svents (s : State) (n : Nat) (x : JobSlot) : (setJob s n x).svents = s.svents := rfl
@[simp] theorem setJob_fwl (s : State) (n : Nat) (x : JobSlot) : (setJob s n x).fwl = s.fwl := rfl
@[simp] theorem setJob_msgs (s : State) (n : Nat) (x : JobSlot) : (setJob s n x).msgs = s.msgs := rfl
@[simp] theorem setJob_nextMsg (s : State) (n : Nat) (x : JobSlot) : (setJob s n x).nextMsg = s.nextMsg := rfl
@[simp] theorem setJob_waves (s : State) (n : Nat) (x : JobSlot) : (setJob s n x).waves = s.waves := rfl
@[simp] theorem setJob_links (s : State) (n : Nat) (x : JobSlot) : (setJob s n x).links = s.links := rfl
@[simp] theorem setJob_host (s : State) (n : Nat) (x : JobSlot) : (setJob s n x).host = s.host := rfl

/-! ### `setWave` -/

@[simp] theorem setWave_sched (s : State) (n : Nat) (x : Wave) : (setWave s n x).sched = s.sched := rfl
@[simp] theorem setWave_tick (s : State) (n : Nat) (x : Wave) : (setWave s n x).tick = s.tick := rfl
@[simp] theorem setWave_cores (s : State) (n : Nat) (x : Wave) : (setWave s n x).cores = s.cores := rfl
@[simp] theorem setWave_twes (s : State) (n : Nat) (x : Wave) : (setWave s n x).twes = s.twes := rfl
@[simp] theorem setWave_reqs (s : State) (n : Nat) (x : Wave) : (setWave s n x).reqs = s.reqs := rfl
@[simp] theorem setWave_nextReq (s : State) (n : Nat) (x : Wave) : (setWave s n x).nextReq = s.nextReq := rfl
@[simp] theorem setWave_nextBid (s : State) (n : Nat) (x : Wave) : (setWave s n x).nextBid = s.nextBid := rfl
@[simp] theorem setWave_tlbis (s : State) (n : Nat) (x : Wave) : (setWave s n x).tlbis = s.tlbis := rfl
@[simp] theorem setWave_regions (s : State) (n : Nat) (x : Wave) : (setWave s n x).regions = s.regions := rfl
@[simp] theorem setWave_clusterRegion (s : State) (n : Nat) (x : Wave) : (setWave s n x).clusterRegion = s.clusterRegion := rfl
@[simp] theorem setWave_sources (s : State) (n : Nat) (x : Wave) : (setWave s n x).sources = s.sources := rfl
@[simp] theorem setWave_latches (s : State) (n : Nat) (x : Wave) : (setWave s n x).latches = s.latches := rfl
@[simp] theorem setWave_xings (s : State) (n : Nat) (x : Wave) : (setWave s n x).xings = s.xings := rfl
@[simp] theorem setWave_rdcown (s : State) (n : Nat) (x : Wave) : (setWave s n x).rdcown = s.rdcown := rfl
@[simp] theorem setWave_rounds (s : State) (n : Nat) (x : Wave) : (setWave s n x).rounds = s.rounds := rfl
@[simp] theorem setWave_nextRound (s : State) (n : Nat) (x : Wave) : (setWave s n x).nextRound = s.nextRound := rfl
@[simp] theorem setWave_chans (s : State) (n : Nat) (x : Wave) : (setWave s n x).chans = s.chans := rfl
@[simp] theorem setWave_wheel (s : State) (n : Nat) (x : Wave) : (setWave s n x).wheel = s.wheel := rfl
@[simp] theorem setWave_mon (s : State) (n : Nat) (x : Wave) : (setWave s n x).mon = s.mon := rfl
@[simp] theorem setWave_heat (s : State) (n : Nat) (x : Wave) : (setWave s n x).heat = s.heat := rfl
@[simp] theorem setWave_rmap (s : State) (n : Nat) (x : Wave) : (setWave s n x).rmap = s.rmap := rfl
@[simp] theorem setWave_rmapNow (s : State) (n : Nat) (x : Wave) : (setWave s n x).rmapNow = s.rmapNow := rfl
@[simp] theorem setWave_objs (s : State) (n : Nat) (x : Wave) : (setWave s n x).objs = s.objs := rfl
@[simp] theorem setWave_saved (s : State) (n : Nat) (x : Wave) : (setWave s n x).saved = s.saved := rfl
@[simp] theorem setWave_insts (s : State) (n : Nat) (x : Wave) : (setWave s n x).insts = s.insts := rfl
@[simp] theorem setWave_parts (s : State) (n : Nat) (x : Wave) : (setWave s n x).parts = s.parts := rfl
@[simp] theorem setWave_keys (s : State) (n : Nat) (x : Wave) : (setWave s n x).keys = s.keys := rfl
@[simp] theorem setWave_ftags (s : State) (n : Nat) (x : Wave) : (setWave s n x).ftags = s.ftags := rfl
@[simp] theorem setWave_tags (s : State) (n : Nat) (x : Wave) : (setWave s n x).tags = s.tags := rfl
@[simp] theorem setWave_poison (s : State) (n : Nat) (x : Wave) : (setWave s n x).poison = s.poison := rfl
@[simp] theorem setWave_mem (s : State) (n : Nat) (x : Wave) : (setWave s n x).mem = s.mem := rfl
@[simp] theorem setWave_mgmt (s : State) (n : Nat) (x : Wave) : (setWave s n x).mgmt = s.mgmt := rfl
@[simp] theorem setWave_store (s : State) (n : Nat) (x : Wave) : (setWave s n x).store = s.store := rfl
@[simp] theorem setWave_svents (s : State) (n : Nat) (x : Wave) : (setWave s n x).svents = s.svents := rfl
@[simp] theorem setWave_fwl (s : State) (n : Nat) (x : Wave) : (setWave s n x).fwl = s.fwl := rfl
@[simp] theorem setWave_jobs (s : State) (n : Nat) (x : Wave) : (setWave s n x).jobs = s.jobs := rfl
@[simp] theorem setWave_msgs (s : State) (n : Nat) (x : Wave) : (setWave s n x).msgs = s.msgs := rfl
@[simp] theorem setWave_nextMsg (s : State) (n : Nat) (x : Wave) : (setWave s n x).nextMsg = s.nextMsg := rfl
@[simp] theorem setWave_links (s : State) (n : Nat) (x : Wave) : (setWave s n x).links = s.links := rfl
@[simp] theorem setWave_host (s : State) (n : Nat) (x : Wave) : (setWave s n x).host = s.host := rfl

/-! ### `due` -/

@[simp] theorem due_tick (s : State) (es : List Event) : (due es s).tick = s.tick := rfl
@[simp] theorem due_cores (s : State) (es : List Event) : (due es s).cores = s.cores := rfl
@[simp] theorem due_twes (s : State) (es : List Event) : (due es s).twes = s.twes := rfl
@[simp] theorem due_reqs (s : State) (es : List Event) : (due es s).reqs = s.reqs := rfl
@[simp] theorem due_nextReq (s : State) (es : List Event) : (due es s).nextReq = s.nextReq := rfl
@[simp] theorem due_nextBid (s : State) (es : List Event) : (due es s).nextBid = s.nextBid := rfl
@[simp] theorem due_tlbis (s : State) (es : List Event) : (due es s).tlbis = s.tlbis := rfl
@[simp] theorem due_regions (s : State) (es : List Event) : (due es s).regions = s.regions := rfl
@[simp] theorem due_clusterRegion (s : State) (es : List Event) : (due es s).clusterRegion = s.clusterRegion := rfl
@[simp] theorem due_sources (s : State) (es : List Event) : (due es s).sources = s.sources := rfl
@[simp] theorem due_latches (s : State) (es : List Event) : (due es s).latches = s.latches := rfl
@[simp] theorem due_xings (s : State) (es : List Event) : (due es s).xings = s.xings := rfl
@[simp] theorem due_rdcown (s : State) (es : List Event) : (due es s).rdcown = s.rdcown := rfl
@[simp] theorem due_rounds (s : State) (es : List Event) : (due es s).rounds = s.rounds := rfl
@[simp] theorem due_nextRound (s : State) (es : List Event) : (due es s).nextRound = s.nextRound := rfl
@[simp] theorem due_chans (s : State) (es : List Event) : (due es s).chans = s.chans := rfl
@[simp] theorem due_wheel (s : State) (es : List Event) : (due es s).wheel = s.wheel := rfl
@[simp] theorem due_mon (s : State) (es : List Event) : (due es s).mon = s.mon := rfl
@[simp] theorem due_heat (s : State) (es : List Event) : (due es s).heat = s.heat := rfl
@[simp] theorem due_rmap (s : State) (es : List Event) : (due es s).rmap = s.rmap := rfl
@[simp] theorem due_rmapNow (s : State) (es : List Event) : (due es s).rmapNow = s.rmapNow := rfl
@[simp] theorem due_objs (s : State) (es : List Event) : (due es s).objs = s.objs := rfl
@[simp] theorem due_saved (s : State) (es : List Event) : (due es s).saved = s.saved := rfl
@[simp] theorem due_insts (s : State) (es : List Event) : (due es s).insts = s.insts := rfl
@[simp] theorem due_parts (s : State) (es : List Event) : (due es s).parts = s.parts := rfl
@[simp] theorem due_keys (s : State) (es : List Event) : (due es s).keys = s.keys := rfl
@[simp] theorem due_ftags (s : State) (es : List Event) : (due es s).ftags = s.ftags := rfl
@[simp] theorem due_tags (s : State) (es : List Event) : (due es s).tags = s.tags := rfl
@[simp] theorem due_poison (s : State) (es : List Event) : (due es s).poison = s.poison := rfl
@[simp] theorem due_mem (s : State) (es : List Event) : (due es s).mem = s.mem := rfl
@[simp] theorem due_mgmt (s : State) (es : List Event) : (due es s).mgmt = s.mgmt := rfl
@[simp] theorem due_store (s : State) (es : List Event) : (due es s).store = s.store := rfl
@[simp] theorem due_svents (s : State) (es : List Event) : (due es s).svents = s.svents := rfl
@[simp] theorem due_fwl (s : State) (es : List Event) : (due es s).fwl = s.fwl := rfl
@[simp] theorem due_jobs (s : State) (es : List Event) : (due es s).jobs = s.jobs := rfl
@[simp] theorem due_msgs (s : State) (es : List Event) : (due es s).msgs = s.msgs := rfl
@[simp] theorem due_nextMsg (s : State) (es : List Event) : (due es s).nextMsg = s.nextMsg := rfl
@[simp] theorem due_waves (s : State) (es : List Event) : (due es s).waves = s.waves := rfl
@[simp] theorem due_links (s : State) (es : List Event) : (due es s).links = s.links := rfl
@[simp] theorem due_host (s : State) (es : List Event) : (due es s).host = s.host := rfl
@[simp] theorem due_cur (s : State) (es : List Event) : (due es s).sched.cur = s.sched.cur := rfl
@[simp] theorem due_tasks (s : State) (es : List Event) : (due es s).sched.tasks = es.map Task.ev ++ s.sched.tasks := rfl

/-! ### `push` -/

@[simp] theorem push_tick (s : State) (ts : List Task) : (push ts s).tick = s.tick := rfl
@[simp] theorem push_cores (s : State) (ts : List Task) : (push ts s).cores = s.cores := rfl
@[simp] theorem push_twes (s : State) (ts : List Task) : (push ts s).twes = s.twes := rfl
@[simp] theorem push_reqs (s : State) (ts : List Task) : (push ts s).reqs = s.reqs := rfl
@[simp] theorem push_nextReq (s : State) (ts : List Task) : (push ts s).nextReq = s.nextReq := rfl
@[simp] theorem push_nextBid (s : State) (ts : List Task) : (push ts s).nextBid = s.nextBid := rfl
@[simp] theorem push_tlbis (s : State) (ts : List Task) : (push ts s).tlbis = s.tlbis := rfl
@[simp] theorem push_regions (s : State) (ts : List Task) : (push ts s).regions = s.regions := rfl
@[simp] theorem push_clusterRegion (s : State) (ts : List Task) : (push ts s).clusterRegion = s.clusterRegion := rfl
@[simp] theorem push_sources (s : State) (ts : List Task) : (push ts s).sources = s.sources := rfl
@[simp] theorem push_latches (s : State) (ts : List Task) : (push ts s).latches = s.latches := rfl
@[simp] theorem push_xings (s : State) (ts : List Task) : (push ts s).xings = s.xings := rfl
@[simp] theorem push_rdcown (s : State) (ts : List Task) : (push ts s).rdcown = s.rdcown := rfl
@[simp] theorem push_rounds (s : State) (ts : List Task) : (push ts s).rounds = s.rounds := rfl
@[simp] theorem push_nextRound (s : State) (ts : List Task) : (push ts s).nextRound = s.nextRound := rfl
@[simp] theorem push_chans (s : State) (ts : List Task) : (push ts s).chans = s.chans := rfl
@[simp] theorem push_wheel (s : State) (ts : List Task) : (push ts s).wheel = s.wheel := rfl
@[simp] theorem push_mon (s : State) (ts : List Task) : (push ts s).mon = s.mon := rfl
@[simp] theorem push_heat (s : State) (ts : List Task) : (push ts s).heat = s.heat := rfl
@[simp] theorem push_rmap (s : State) (ts : List Task) : (push ts s).rmap = s.rmap := rfl
@[simp] theorem push_rmapNow (s : State) (ts : List Task) : (push ts s).rmapNow = s.rmapNow := rfl
@[simp] theorem push_objs (s : State) (ts : List Task) : (push ts s).objs = s.objs := rfl
@[simp] theorem push_saved (s : State) (ts : List Task) : (push ts s).saved = s.saved := rfl
@[simp] theorem push_insts (s : State) (ts : List Task) : (push ts s).insts = s.insts := rfl
@[simp] theorem push_parts (s : State) (ts : List Task) : (push ts s).parts = s.parts := rfl
@[simp] theorem push_keys (s : State) (ts : List Task) : (push ts s).keys = s.keys := rfl
@[simp] theorem push_ftags (s : State) (ts : List Task) : (push ts s).ftags = s.ftags := rfl
@[simp] theorem push_tags (s : State) (ts : List Task) : (push ts s).tags = s.tags := rfl
@[simp] theorem push_poison (s : State) (ts : List Task) : (push ts s).poison = s.poison := rfl
@[simp] theorem push_mem (s : State) (ts : List Task) : (push ts s).mem = s.mem := rfl
@[simp] theorem push_mgmt (s : State) (ts : List Task) : (push ts s).mgmt = s.mgmt := rfl
@[simp] theorem push_store (s : State) (ts : List Task) : (push ts s).store = s.store := rfl
@[simp] theorem push_svents (s : State) (ts : List Task) : (push ts s).svents = s.svents := rfl
@[simp] theorem push_fwl (s : State) (ts : List Task) : (push ts s).fwl = s.fwl := rfl
@[simp] theorem push_jobs (s : State) (ts : List Task) : (push ts s).jobs = s.jobs := rfl
@[simp] theorem push_msgs (s : State) (ts : List Task) : (push ts s).msgs = s.msgs := rfl
@[simp] theorem push_nextMsg (s : State) (ts : List Task) : (push ts s).nextMsg = s.nextMsg := rfl
@[simp] theorem push_waves (s : State) (ts : List Task) : (push ts s).waves = s.waves := rfl
@[simp] theorem push_links (s : State) (ts : List Task) : (push ts s).links = s.links := rfl
@[simp] theorem push_host (s : State) (ts : List Task) : (push ts s).host = s.host := rfl
@[simp] theorem push_cur (s : State) (ts : List Task) : (push ts s).sched.cur = s.sched.cur := rfl
@[simp] theorem push_tasks (s : State) (ts : List Task) : (push ts s).sched.tasks = ts ++ s.sched.tasks := rfl

/-! ### `atSlot` -/

@[simp] theorem atSlot_tick (s : State) (n : Nat) : (atSlot n s).tick = s.tick := rfl
@[simp] theorem atSlot_cores (s : State) (n : Nat) : (atSlot n s).cores = s.cores := rfl
@[simp] theorem atSlot_twes (s : State) (n : Nat) : (atSlot n s).twes = s.twes := rfl
@[simp] theorem atSlot_reqs (s : State) (n : Nat) : (atSlot n s).reqs = s.reqs := rfl
@[simp] theorem atSlot_nextReq (s : State) (n : Nat) : (atSlot n s).nextReq = s.nextReq := rfl
@[simp] theorem atSlot_nextBid (s : State) (n : Nat) : (atSlot n s).nextBid = s.nextBid := rfl
@[simp] theorem atSlot_tlbis (s : State) (n : Nat) : (atSlot n s).tlbis = s.tlbis := rfl
@[simp] theorem atSlot_regions (s : State) (n : Nat) : (atSlot n s).regions = s.regions := rfl
@[simp] theorem atSlot_clusterRegion (s : State) (n : Nat) : (atSlot n s).clusterRegion = s.clusterRegion := rfl
@[simp] theorem atSlot_sources (s : State) (n : Nat) : (atSlot n s).sources = s.sources := rfl
@[simp] theorem atSlot_latches (s : State) (n : Nat) : (atSlot n s).latches = s.latches := rfl
@[simp] theorem atSlot_xings (s : State) (n : Nat) : (atSlot n s).xings = s.xings := rfl
@[simp] theorem atSlot_rdcown (s : State) (n : Nat) : (atSlot n s).rdcown = s.rdcown := rfl
@[simp] theorem atSlot_rounds (s : State) (n : Nat) : (atSlot n s).rounds = s.rounds := rfl
@[simp] theorem atSlot_nextRound (s : State) (n : Nat) : (atSlot n s).nextRound = s.nextRound := rfl
@[simp] theorem atSlot_chans (s : State) (n : Nat) : (atSlot n s).chans = s.chans := rfl
@[simp] theorem atSlot_wheel (s : State) (n : Nat) : (atSlot n s).wheel = s.wheel := rfl
@[simp] theorem atSlot_mon (s : State) (n : Nat) : (atSlot n s).mon = s.mon := rfl
@[simp] theorem atSlot_heat (s : State) (n : Nat) : (atSlot n s).heat = s.heat := rfl
@[simp] theorem atSlot_rmap (s : State) (n : Nat) : (atSlot n s).rmap = s.rmap := rfl
@[simp] theorem atSlot_rmapNow (s : State) (n : Nat) : (atSlot n s).rmapNow = s.rmapNow := rfl
@[simp] theorem atSlot_objs (s : State) (n : Nat) : (atSlot n s).objs = s.objs := rfl
@[simp] theorem atSlot_saved (s : State) (n : Nat) : (atSlot n s).saved = s.saved := rfl
@[simp] theorem atSlot_insts (s : State) (n : Nat) : (atSlot n s).insts = s.insts := rfl
@[simp] theorem atSlot_parts (s : State) (n : Nat) : (atSlot n s).parts = s.parts := rfl
@[simp] theorem atSlot_keys (s : State) (n : Nat) : (atSlot n s).keys = s.keys := rfl
@[simp] theorem atSlot_ftags (s : State) (n : Nat) : (atSlot n s).ftags = s.ftags := rfl
@[simp] theorem atSlot_tags (s : State) (n : Nat) : (atSlot n s).tags = s.tags := rfl
@[simp] theorem atSlot_poison (s : State) (n : Nat) : (atSlot n s).poison = s.poison := rfl
@[simp] theorem atSlot_mem (s : State) (n : Nat) : (atSlot n s).mem = s.mem := rfl
@[simp] theorem atSlot_mgmt (s : State) (n : Nat) : (atSlot n s).mgmt = s.mgmt := rfl
@[simp] theorem atSlot_store (s : State) (n : Nat) : (atSlot n s).store = s.store := rfl
@[simp] theorem atSlot_svents (s : State) (n : Nat) : (atSlot n s).svents = s.svents := rfl
@[simp] theorem atSlot_fwl (s : State) (n : Nat) : (atSlot n s).fwl = s.fwl := rfl
@[simp] theorem atSlot_jobs (s : State) (n : Nat) : (atSlot n s).jobs = s.jobs := rfl
@[simp] theorem atSlot_msgs (s : State) (n : Nat) : (atSlot n s).msgs = s.msgs := rfl
@[simp] theorem atSlot_nextMsg (s : State) (n : Nat) : (atSlot n s).nextMsg = s.nextMsg := rfl
@[simp] theorem atSlot_waves (s : State) (n : Nat) : (atSlot n s).waves = s.waves := rfl
@[simp] theorem atSlot_links (s : State) (n : Nat) : (atSlot n s).links = s.links := rfl
@[simp] theorem atSlot_host (s : State) (n : Nat) : (atSlot n s).host = s.host := rfl
@[simp] theorem atSlot_cur (s : State) (n : Nat) : (atSlot n s).sched.cur = s.sched.cur := rfl

@[simp] theorem getCore_setCore (s : State) (n : Nat) (x : Core) : getCore (setCore s n x) n = x := by
  unfold getCore setCore smGetD; rw [smGet_smPut]; rfl
theorem getCore_setCore_ne (s : State) (n m : Nat) (x : Core) (h : m ≠ n) : getCore (setCore s n x) m = getCore s m := by
  unfold getCore setCore smGetD; rw [smGet_smPut_ne _ _ h]
@[simp] theorem setCore_setCore (s : State) (n : Nat) (x y : Core) : setCore (setCore s n x) n y = setCore s n y := by
  unfold setCore; rw [smPut_smPut]
@[simp] theorem getRegion_setRegion (s : State) (n : Nat) (x : Region) : getRegion (setRegion s n x) n = x := by
  unfold getRegion setRegion smGetD; rw [smGet_smPut]; rfl
theorem getRegion_setRegion_ne (s : State) (n m : Nat) (x : Region) (h : m ≠ n) : getRegion (setRegion s n x) m = getRegion s m := by
  unfold getRegion setRegion smGetD; rw [smGet_smPut_ne _ _ h]
@[simp] theorem setRegion_setRegion (s : State) (n : Nat) (x y : Region) : setRegion (setRegion s n x) n y = setRegion s n y := by
  unfold setRegion; rw [smPut_smPut]
@[simp] theorem getObj_setObj (s : State) (n : Nat) (x : Obj) : getObj (setObj s n x) n = x := by
  unfold getObj setObj smGetD; rw [smGet_smPut]; rfl
theorem getObj_setObj_ne (s : State) (n m : Nat) (x : Obj) (h : m ≠ n) : getObj (setObj s n x) m = getObj s m := by
  unfold getObj setObj smGetD; rw [smGet_smPut_ne _ _ h]
@[simp] theorem setObj_setObj (s : State) (n : Nat) (x y : Obj) : setObj (setObj s n x) n y = setObj s n y := by
  unfold setObj; rw [smPut_smPut]
@[simp] theorem getPart_setPart (s : State) (n : Nat) (x : Part) : getPart (setPart s n x) n = x := by
  unfold getPart setPart smGetD; rw [smGet_smPut]; rfl
theorem getPart_setPart_ne (s : State) (n m : Nat) (x : Part) (h : m ≠ n) : getPart (setPart s n x) m = getPart s m := by
  unfold getPart setPart smGetD; rw [smGet_smPut_ne _ _ h]
@[simp] theorem setPart_setPart (s : State) (n : Nat) (x y : Part) : setPart (setPart s n x) n y = setPart s n y := by
  unfold setPart; rw [smPut_smPut]
@[simp] theorem getChan_setChan (s : State) (n : Nat) (x : Channel) : getChan (setChan s n x) n = x := by
  unfold getChan setChan smGetD; rw [smGet_smPut]; rfl
theorem getChan_setChan_ne (s : State) (n m : Nat) (x : Channel) (h : m ≠ n) : getChan (setChan s n x) m = getChan s m := by
  unfold getChan setChan smGetD; rw [smGet_smPut_ne _ _ h]
@[simp] theorem setChan_setChan (s : State) (n : Nat) (x y : Channel) : setChan (setChan s n x) n y = setChan s n y := by
  unfold setChan; rw [smPut_smPut]
@[simp] theorem getJob_setJob (s : State) (n : Nat) (x : JobSlot) : getJob (setJob s n x) n = x := by
  unfold getJob setJob smGetD; rw [smGet_smPut]; rfl
theorem getJob_setJob_ne (s : State) (n m : Nat) (x : JobSlot) (h : m ≠ n) : getJob (setJob s n x) m = getJob s m := by
  unfold getJob setJob smGetD; rw [smGet_smPut_ne _ _ h]
@[simp] theorem setJob_setJob (s : State) (n : Nat) (x y : JobSlot) : setJob (setJob s n x) n y = setJob s n y := by
  unfold setJob; rw [smPut_smPut]
@[simp] theorem getInst_setInst (s : State) (n : Nat) (x : Inst) : getInst (setInst s n x) n = x := by
  unfold getInst setInst smGetD; rw [smGet_smPut]; rfl
theorem getInst_setInst_ne (s : State) (n m : Nat) (x : Inst) (h : m ≠ n) : getInst (setInst s n x) m = getInst s m := by
  unfold getInst setInst smGetD; rw [smGet_smPut_ne _ _ h]
@[simp] theorem setInst_setInst (s : State) (n : Nat) (x y : Inst) : setInst (setInst s n x) n y = setInst s n y := by
  unfold setInst; rw [smPut_smPut]
@[simp] theorem getReq_setReq (s : State) (n : Nat) (x : Req) : getReq (setReq s n x) n = x := by
  unfold getReq setReq smGetD; rw [smGet_smPut]; rfl
theorem getReq_setReq_ne (s : State) (n m : Nat) (x : Req) (h : m ≠ n) : getReq (setReq s n x) m = getReq s m := by
  unfold getReq setReq smGetD; rw [smGet_smPut_ne _ _ h]
@[simp] theorem setReq_setReq (s : State) (n : Nat) (x y : Req) : setReq (setReq s n x) n y = setReq s n y := by
  unfold setReq; rw [smPut_smPut]
@[simp] theorem getTwe_setTwe (s : State) (n : Nat) (x : Twe) : getTwe (setTwe s n x) n = x := by
  unfold getTwe setTwe smGetD; rw [smGet_smPut]; rfl
theorem getTwe_setTwe_ne (s : State) (n m : Nat) (x : Twe) (h : m ≠ n) : getTwe (setTwe s n x) m = getTwe s m := by
  unfold getTwe setTwe smGetD; rw [smGet_smPut_ne _ _ h]
@[simp] theorem setTwe_setTwe (s : State) (n : Nat) (x y : Twe) : setTwe (setTwe s n x) n y = setTwe s n y := by
  unfold setTwe; rw [smPut_smPut]
@[simp] theorem getSource_setSource (s : State) (n : Nat) (x : Source) : getSource (setSource s n x) n = x := by
  unfold getSource setSource smGetD; rw [smGet_smPut]; rfl
theorem getSource_setSource_ne (s : State) (n m : Nat) (x : Source) (h : m ≠ n) : getSource (setSource s n x) m = getSource s m := by
  unfold getSource setSource smGetD; rw [smGet_smPut_ne _ _ h]
@[simp] theorem setSource_setSource (s : State) (n : Nat) (x y : Source) : setSource (setSource s n x) n y = setSource s n y := by
  unfold setSource; rw [smPut_smPut]

@[simp] theorem cur_setCur (s : State) (k : Core) : cur (setCur s k) = k := getCore_setCore _ _ _
@[simp] theorem setCur_setCur (s : State) (k l : Core) : setCur (setCur s k) l = setCur s l := setCore_setCore _ _ _ _
@[simp] theorem curCtx_setCur (s : State) (k : Core) : curCtx (setCur s k) = k.ctx := congrArg Core.ctx (cur_setCur s k)
@[simp] theorem curCtx_setCtx (s : State) (c : Ctx) : curCtx (setCtx s c) = c := curCtx_setCur _ _
@[simp] theorem cur_setCtx (s : State) (c : Ctx) : cur (setCtx s c) = { cur s with ctx := c } := cur_setCur _ _
@[simp] theorem setCtx_setCtx (s : State) (c d : Ctx) : setCtx (setCtx s c) d = setCtx s d := by
  simp only [setCtx, setCur_setCur, cur_setCur]
@[simp] theorem setCtx_setCur (s : State) (k : Core) (c : Ctx) : setCtx (setCur s k) c = setCur s { k with ctx := c } := by
  simp only [setCtx, setCur_setCur, cur_setCur]
@[simp] theorem setCur_setCtx (s : State) (k : Core) (c : Ctx) : setCur (setCtx s c) k = setCur s k := setCur_setCur _ _ _
@[simp] theorem atSlot_slot (s : State) (n : Nat) : (atSlot n s).sched.slot = n := rfl
@[simp] theorem getCore_atSlot (s : State) (n c : Nat) : getCore (atSlot n s) c = getCore s c := rfl
@[simp] theorem cur_atSlot (s : State) (n : Nat) : cur (atSlot n s) = cur s := rfl
@[simp] theorem curCtx_atSlot (s : State) (n : Nat) : curCtx (atSlot n s) = curCtx s := rfl
@[simp] theorem getCore_due (s : State) (es : List Event) (c : Nat) : getCore (due es s) c = getCore s c := rfl
@[simp] theorem getRegion_setCore (s : State) (c r : Nat) (k : Core) : getRegion (setCore s c k) r = getRegion s r := rfl
@[simp] theorem regionOf_setCore (s : State) (c d : Nat) (k : Core) : regionOf (setCore s c k) d = regionOf s d := rfl
@[simp] theorem coreTick_setCore (s : State) (c d : Nat) (k : Core) : coreTick (setCore s c k) d = coreTick s d := rfl

end Sys2Proof.Machine
end

