-- ==== Sys2Proof/Laws/Issue.lean ====
section
/-! SUPPORT. What the shared operations of a slot do: notes of void reads, results in flight, issue under a guard, landing. -/

namespace Sys2Proof.Machine

/-! ### Void reads -/

/-- Noting a read changes nothing but the flags. -/
theorem noteVoid_eta (c : Ctx) (v : Bool) : noteVoid c v = { c with flags := (noteVoid c v).flags } := rfl

@[simp] theorem noteVoid_false (c : Ctx) : noteVoid c false = c := by
  simp [noteVoid, raise, voidFlag, fIf]

/-- Noting a read sets no flag but `VOIDRD` and clears none. -/
theorem noteVoid_flags (c : Ctx) (v : Bool) : (noteVoid c v).flags ||| fVOIDRD = c.flags ||| fVOIDRD := by
  cases v <;> simp [noteVoid, raise, voidFlag, fIf, fVOIDRD, BitVec.or_assoc]

theorem noteVoid_true_flags (c : Ctx) : (noteVoid c true).flags = c.flags ||| fVOIDRD := rfl

/-! ### Results in flight -/

/-- A result in flight changes nothing but the list of results in flight. -/
theorem fly_eta (c : Ctx) (slot lat : Nat) (r : Res) (f : Flags) :
    fly c slot lat r f = { c with inflight := c.inflight ++ [⟨c.bc + lat, slot, c.bc, r, f⟩] } := rfl

/-- An instruction with a scalar result, by its guard. -/
theorem issueS_on {c : Ctx} {g : Guard} (slot lat : Nat) (d : SDst) (void : Ctx → Bool) (f : Ctx → Word × Flags)
    (h : guardOn c g = true) :
    issueS slot lat g d void f c = fly (noteVoid c (voidP c g.p || void c)) slot lat (resS d (f c).1) (f c).2 := if_pos h

theorem issueS_off {c : Ctx} {g : Guard} (slot lat : Nat) (d : SDst) (void : Ctx → Bool) (f : Ctx → Word × Flags)
    (h : guardOn c g = false) :
    issueS slot lat g d void f c = fly (noteVoid c (voidP c g.p)) slot lat (offS d) 0 := if_neg (by simp [h])

/-- An instruction with a vector result, by its guard. -/
theorem issueV_on {c : Ctx} {g : Guard} (slot lat : Nat) (d : VDst) (void : Ctx → Bool) (f : Ctx → VWord × Flags)
    (h : guardOn c g = true) :
    issueV slot lat g d void f c = fly (noteVoid c (voidP c g.p || void c)) slot lat (resV d (f c).1) (f c).2 := if_pos h

theorem issueV_off {c : Ctx} {g : Guard} (slot lat : Nat) (d : VDst) (void : Ctx → Bool) (f : Ctx → VWord × Flags)
    (h : guardOn c g = false) :
    issueV slot lat g d void f c = fly (noteVoid c (voidP c g.p)) slot lat (offV d) 0 := if_neg (by simp [h])

/-- An instruction with a predicate result, by its guard. -/
theorem issueP_on {c : Ctx} {g : Guard} (lat : Nat) (p : Fin 16) (void : Ctx → Bool) (f : Ctx → Bool)
    (h : guardOn c g = true) :
    issueP lat g p void f c = fly (noteVoid c (voidP c g.p || void c)) 0 lat (.pred p (f c)) 0 := if_pos h

theorem issueP_off {c : Ctx} {g : Guard} (lat : Nat) (p : Fin 16) (void : Ctx → Bool) (f : Ctx → Bool)
    (h : guardOn c g = false) : issueP lat g p void f c = noteVoid c (voidP c g.p) := if_neg (by simp [h])

/-! ### Outcomes -/

@[simp] theorem settle_ok (s t : State) : settle s (.ok t) = .next t := rfl
@[simp] theorem settle_error (s : State) (e : Stop) : settle s (.error e) = .next (takeStop s.sched.cur e s) := rfl

/-- An instruction by itself always has a next state. -/
theorem settle_next (s : State) (r : Except Stop State) : ∃ t, settle s r = .next t := by cases r <;> exact ⟨_, rfl⟩

@[simp] theorem onCtx_ok (f : Ctx → Ctx) (s : State) : onCtx f s = .ok (setCtx s (f (curCtx s))) := rfl

/-! ### Landing -/

@[simp] theorem beltIns_zero {α : Type} (x : α) (l : List α) : beltIns 0 x l = (x :: l).take 16 := by simp [beltIns]

/-- A belt holds at most 16 entries (R26). -/
theorem beltIns_length {α : Type} (k : Nat) (x : α) (l : List α) : (beltIns k x l).length ≤ 16 := by
  simp only [beltIns, List.length_take]; omega

/-- The one result of a cycle (R27, R28). -/
theorem landAll_one {c : Ctx} {l : Landing} (h : (c.inflight.filter fun m => decide (m.due ≤ c.bc)) = [l]) :
    landAll c = land { c with inflight := c.inflight.filter fun m => decide (c.bc < m.due), landed := [] } l := by
  simp only [landAll, h, landSort, List.foldl_cons, List.foldl_nil, landInsert]

/-- Two results of a cycle, in the order of R29. -/
theorem landAll_two {c : Ctx} {a b : Landing} (h : (c.inflight.filter fun m => decide (m.due ≤ c.bc)) = [a, b]) :
    landAll c = (if landsBefore a b then [a, b] else [b, a]).foldl land
      { c with inflight := c.inflight.filter fun m => decide (c.bc < m.due), landed := [] } := by
  simp only [landAll, h, landSort, List.foldl_cons, List.foldl_nil, landInsert]

@[simp] theorem landRets_none {c : Ctx} (h : c.rets = []) : landRets c = c := by
  cases c; simp only at h; subst h; rfl

/-! ### Freeze and replay -/

/-- A stop and a return without a cycle between them leave every result at its offset (R171, R174). -/
theorem replay_freeze_inflight (c : Ctx) (h : c.latch = []) (hd : ∀ l ∈ c.inflight, c.bc ≤ l.due) :
    (replayCtx (freezeCtx c)).inflight = c.inflight := by
  simp only [replayCtx, freezeCtx, h, List.nil_append, List.map_map]
  conv_rhs => rw [← List.map_id c.inflight]
  refine List.map_congr_left fun l hl => ?_
  have := hd l hl
  cases l
  simp_all

end Sys2Proof.Machine
end

