-- ==== Sys2Proof/Laws/PerInstr.lean ====
section
/-! SUPPORT. Per instruction: the slot word of a well-formed row fits 64 bits (spec/03 R48, R51). -/

namespace Sys2Proof.Laws

set_option Elab.async false

/-! ### Bounds of the fields -/

@[simp] theorem sop_enc_lt (o : SOp) : o.enc < 64 := by cases o <;> simp only [SOp.enc] <;> omega
@[simp] theorem vop_enc_lt (o : VOp) : o.enc < 64 := by cases o <;> simp only [VOp.enc] <;> omega
@[simp] theorem sdst_enc_lt (o : SDst) : o.enc < 64 := by cases o <;> simp only [SDst.enc] <;> omega
@[simp] theorem vdst_enc_lt (o : VDst) : o.enc < 64 := by cases o <;> simp only [VDst.enc] <;> omega
@[simp] theorem bit_lt (b : Bool) : bit b < 2 := by cases b <;> simp [bit]
@[simp] theorem cc_code_lt (c : CC) : c.code < 16 := by cases c <;> simp [CC.code]
@[simp] theorem lt_code_lt (c : LT) : c.code < 16 := by cases c <;> simp [LT.code]
@[simp] theorem rnd_code_lt (c : Rnd) : c.code < 4 := by cases c <;> simp [Rnd.code]
@[simp] theorem ef_code_lt (c : EF) : c.code < 16 := by cases c <;> simp [EF.code]
@[simp] theorem an_code_lt (c : An) : c.code < 4 := by cases c <;> simp [An.code]
@[simp] theorem sz_code_lt (c : Sz) : c.code < 4 := by cases c <;> simp [Sz.code]
@[simp] theorem scope_code_lt (c : Scope) : c.code < 8 := by cases c <;> simp [Scope.code]
@[simp] theorem redOp_code_lt (c : RedOp) : c.code < 8 := by cases c <;> simp [RedOp.code]
@[simp] theorem sysReg_code_lt (c : SysReg) : c.code < 16 := by cases c <;> simp [SysReg.code]
@[simp] theorem oSel_code_lt (c : OSel) : c.code < 16 := by cases c <;> simp [OSel.code]
@[simp] theorem acSel_code_lt (c : AcSel) : c.code < 16 := by cases c <;> simp [AcSel.code]
@[simp] theorem cySel_code_lt (c : CySel) : c.code < 8 := by cases c <;> simp [CySel.code]
@[simp] theorem rdcOp_code_lt (c : RdcOp) : c.code < 16 := by cases c <;> simp [RdcOp.code]

/-- The head of a word: everything from bit 51 up (R48). -/
theorem encHead_le (opc : Nat) (g : Guard) (h : opc < 256) : encHead opc g + 2 ^ 51 ≤ 2 ^ 64 := by
  have h1 := g.p.isLt
  have h2 := bit_lt g.neg
  simp only [encHead]
  omega

/-- The four operand fields end below bit 51 and begin at bit 27 (R51). -/
theorem enc4_le (d a b c : Nat) (hd : d < 64) (ha : a < 64) (hb : b < 64) (hc : c < 64) : enc4 d a b c + 2 ^ 27 ≤ 2 ^ 51 := by
  simp only [enc4]
  omega

/-- A head, four operand fields, and less than bit 27: a word (R48, R51). -/
theorem word_lt {opc d a b c low : Nat} (g : Guard) (ho : opc < 256) (hd : d < 64) (ha : a < 64) (hb : b < 64) (hc : c < 64)
    (hl : low < 2 ^ 27) : encHead opc g + enc4 d a b c + low < 2 ^ 64 := by
  have h1 := encHead_le opc g ho
  have h2 := enc4_le d a b c hd ha hb hc
  omega

/-! ### The forms -/

theorem encSrr_lt {opc a b x6 y6 : Nat} (g : Guard) (d : SDst) (ho : opc < 256) (ha : a < 64) (hb : b < 64) (hx : x6 < 64)
    (hy : y6 < 64) : encSrr opc g d a b x6 y6 < 2 ^ 64 := by
  have := word_lt (low := x6 * 2 ^ 21 + y6 * 2 ^ 15) g ho (sdst_enc_lt d) ha hb (show 0 < 64 by decide) (by omega)
  simp only [encSrr]; omega

theorem encShift_lt {opc : Nat} (g : Guard) (d : SDst) (a : SOp) (n : Amt) (ho : opc < 256) : encShift opc g d a n < 2 ^ 64 := by
  cases n <;> exact encSrr_lt g d ho (by simp) (by simp) (by simp) (by simp)

theorem encSmem_lt {opc d a b : Nat} (g : Guard) (disp : BitVec 20) (ho : opc < 256) (hd : d < 64) (ha : a < 64) (hb : b < 64) :
    encSmem opc g d a b disp < 2 ^ 64 := by
  have hi := disp.isLt
  have := word_lt (low := disp.toNat * 2 ^ 7) g ho hd ha hb (show 0 < 64 by decide) (by omega)
  simp only [encSmem]; omega

theorem encImm_lt {opc d a low : Nat} (g : Guard) (imm : BitVec 32) (ho : opc < 256) (hd : d < 64) (ha : a < 64)
    (hl : low < 2 ^ 7) : encImm opc g d a imm low < 2 ^ 64 := by
  have hi := imm.isLt
  have h1 := encHead_le opc g ho
  simp only [encImm, enc4]; omega

theorem encPd_lt {opc rest : Nat} (g : Guard) (pd : Fin 16) (ho : opc < 256) (hr : rest < 2 ^ 47) : encPd opc g pd rest < 2 ^ 64 := by
  have hi := pd.isLt
  have h1 := encHead_le opc g ho
  simp only [encPd]; omega

theorem encPlog_lt {opc pb : Nat} (g : Guard) (pd pa : Fin 16) (na nb : Bool) (ho : opc < 256) (hb : pb < 16) :
    encPlog opc g pd pa na pb nb < 2 ^ 64 := by
  have h1 := pa.isLt
  have h2 := bit_lt na
  have h3 := bit_lt nb
  exact encPd_lt g pd ho (by omega)

theorem encSys_lt {opc d a b c idx : Nat} (g : Guard) (ho : opc < 256) (hd : d < 64) (ha : a < 64) (hb : b < 64) (hc : c < 64)
    (hi : idx < 256) : encSys opc g d a b c idx < 2 ^ 64 := by
  exact word_lt g ho hd ha hb hc (by omega)

theorem encVrr_lt {opc d a b c x8 : Nat} (g : Guard) (lt : LT) (rnd : Rnd) (sat : Bool) (ho : opc < 256) (hd : d < 64)
    (ha : a < 64) (hb : b < 64) (hc : c < 64) (hx : x8 < 256) : encVrr opc g d a b c lt rnd sat x8 < 2 ^ 64 := by
  have h1 := lt_code_lt lt
  have h2 := rnd_code_lt rnd
  have h3 := bit_lt sat
  have := word_lt (low := lt.code * 2 ^ 23 + rnd.code * 2 ^ 21 + bit sat * 2 ^ 20 + x8 * 2 ^ 12) g ho hd ha hb hc (by omega)
  simp only [encVrr]; omega

theorem encVshift_lt {opc : Nat} (g : Guard) (d : VDst) (lt : LT) (a : VOp) (n : VAmt) (ho : opc < 256)
    (h : ∀ m, n = .imm m → m < 128) : encVshift opc g d lt a n < 2 ^ 64 := by
  cases n with
  | reg b => exact encVrr_lt g lt .ne false ho (by simp) (by simp) (by simp) (by simp) (by simp)
  | imm m =>
    have := h m rfl
    exact encVrr_lt g lt .ne false ho (by simp) (by simp) (by simp) (by simp) (by omega)

theorem encVx_lt {opc d a b c lt lane x8 : Nat} (g : Guard) (ho : opc < 256) (hd : d < 64) (ha : a < 64) (hb : b < 64)
    (hc : c < 64) (ht : lt < 16) (hl : lane < 16) (hx : x8 < 256) : encVx opc g d a b c lt lane x8 < 2 ^ 64 := by
  have := word_lt (low := lt * 2 ^ 23 + lane * 2 ^ 19 + x8 * 2 ^ 11) g ho hd ha hb hc (by omega)
  simp only [encVx]; omega

theorem encVmem_lt {opc d a b c lt : Nat} (g : Guard) (disp : BitVec 20) (ho : opc < 256) (hd : d < 64) (ha : a < 64) (hb : b < 64)
    (hc : c < 64) (ht : lt < 16) : encVmem opc g d a b c disp lt < 2 ^ 64 := by
  have hi := disp.isLt
  have := word_lt (low := disp.toNat * 2 ^ 7 + lt * 2 ^ 3) g ho hd ha hb hc (by omega)
  simp only [encVmem]; omega

theorem encMt_lt {opc oa ob acc pp ef nrow row0 mode : Nat} (g : Guard) (ho : opc < 256) (ha : oa < 64) (hb : ob < 64)
    (hc : acc < 4) (hp : pp < 2) (he : ef < 16) (hn : nrow < 64) (hr : row0 < 64) (hm : mode < 4) :
    encMt opc g oa ob acc pp ef nrow row0 mode < 2 ^ 64 := by
  have h1 := encHead_le opc g ho
  simp only [encMt, enc4]; omega

theorem encMv_lt {opc d a b os acc row part : Nat} (g : Guard) (ho : opc < 256) (hd : d < 64) (ha : a < 64) (hb : b < 64)
    (hc : os < 64) (hac : acc < 4) (hr : row < 64) (hp : part < 16) : encMv opc g d a b os acc row part < 2 ^ 64 := by
  have := word_lt (low := acc * 2 ^ 25 + row * 2 ^ 19 + part * 2 ^ 15) g ho hd ha hb hc (by omega)
  simp only [encMv]; omega

theorem encGain_lt {op : Nat} (g : Guard) (acc : Fin 4) (a : VOp) (r : Option (Fin 64)) (h : op < 4) : encGain op g acc a r < 2 ^ 64 := by
  cases r with
  | none => exact encMv_lt g (by decide) (by decide) (by simp) (by decide) (by decide) acc.isLt (by decide) (by omega)
  | some r => exact encMv_lt g (by decide) (by decide) (by simp) (by decide) (by decide) acc.isLt r.isLt (by omega)

theorem encC_lt {opc a b c low : Nat} (g : Guard) (d : SDst) (pol : Fin 8) (ho : opc < 256) (ha : a < 64) (hb : b < 64) (hc : c < 64)
    (hl : low < 2 ^ 24) : encC opc g d a b c pol low < 2 ^ 64 := by
  have hp := pol.isLt
  have := word_lt (low := pol.val * 2 ^ 24 + low) g ho (sdst_enc_lt d) ha hb hc (by omega)
  simp only [encC]; omega

theorem encBar_lt (d : Nat) (b : Option (Fin 64)) (h : d < 2) : encBar d b * 2 ^ 16 < 2 ^ 24 := by
  cases b with
  | none => simp only [encBar]; omega
  | some n => have := n.isLt; simp only [encBar]; omega

end Sys2Proof.Laws

namespace Sys2Proof.Laws.WordFits

open Sys2Proof.Laws

/-- The slot word of a well-formed row fits 64 bits. -/
def Statement (i : Instr) : Prop := i.wf = true → encodeWord i < 2 ^ 64

theorem issueDictionaryBundle (idx : Nat) : Statement (.issueDictionaryBundle idx) := fun _ => Nat.two_pow_pos 64
theorem issueLiteralBundle (tpl : Unit16) (words : List Word) : Statement (.issueLiteralBundle tpl words) :=
  fun _ => Nat.two_pow_pos 64
theorem emptyBundle : Statement (.emptyBundle) := fun _ => Nat.two_pow_pos 64
theorem annulledBundle (u : AnnulUnit) : Statement (.annulledBundle u) := fun _ => Nat.two_pow_pos 64
theorem resultLanding (core : Nat) : Statement (.resultLanding core) := fun _ => Nat.two_pow_pos 64
theorem nop : Statement (.nop) := fun _ => Nat.two_pow_pos 64
theorem add (g : Guard) (d : SDst) (a b : SOp) : Statement (.add g d a b) :=
  fun _ => encSrr_lt g d (by decide) (by simp) (by simp) (by simp) (by simp)
theorem sub (g : Guard) (d : SDst) (a b : SOp) : Statement (.sub g d a b) :=
  fun _ => encSrr_lt g d (by decide) (by simp) (by simp) (by simp) (by simp)
theorem neg (g : Guard) (d : SDst) (a : SOp) : Statement (.neg g d a) :=
  fun _ => encSrr_lt g d (by decide) (by simp) (by simp) (by simp) (by simp)
theorem mul (g : Guard) (d : SDst) (a b : SOp) : Statement (.mul g d a b) :=
  fun _ => encSrr_lt g d (by decide) (by simp) (by simp) (by simp) (by simp)
theorem mulh (g : Guard) (d : SDst) (a b : SOp) : Statement (.mulh g d a b) :=
  fun _ => encSrr_lt g d (by decide) (by simp) (by simp) (by simp) (by simp)
theorem mulhz (g : Guard) (d : SDst) (a b : SOp) : Statement (.mulhz g d a b) :=
  fun _ => encSrr_lt g d (by decide) (by simp) (by simp) (by simp) (by simp)
theorem div (g : Guard) (d : SDst) (a b : SOp) : Statement (.div g d a b) :=
  fun _ => encSrr_lt g d (by decide) (by simp) (by simp) (by simp) (by simp)
theorem divz (g : Guard) (d : SDst) (a b : SOp) : Statement (.divz g d a b) :=
  fun _ => encSrr_lt g d (by decide) (by simp) (by simp) (by simp) (by simp)
theorem rem (g : Guard) (d : SDst) (a b : SOp) : Statement (.rem g d a b) :=
  fun _ => encSrr_lt g d (by decide) (by simp) (by simp) (by simp) (by simp)
theorem remz (g : Guard) (d : SDst) (a b : SOp) : Statement (.remz g d a b) :=
  fun _ => encSrr_lt g d (by decide) (by simp) (by simp) (by simp) (by simp)
theorem min (g : Guard) (d : SDst) (a b : SOp) : Statement (.min g d a b) :=
  fun _ => encSrr_lt g d (by decide) (by simp) (by simp) (by simp) (by simp)
theorem max (g : Guard) (d : SDst) (a b : SOp) : Statement (.max g d a b) :=
  fun _ => encSrr_lt g d (by decide) (by simp) (by simp) (by simp) (by simp)
theorem minz (g : Guard) (d : SDst) (a b : SOp) : Statement (.minz g d a b) :=
  fun _ => encSrr_lt g d (by decide) (by simp) (by simp) (by simp) (by simp)
theorem maxz (g : Guard) (d : SDst) (a b : SOp) : Statement (.maxz g d a b) :=
  fun _ => encSrr_lt g d (by decide) (by simp) (by simp) (by simp) (by simp)
theorem abs (g : Guard) (d : SDst) (a : SOp) : Statement (.abs g d a) :=
  fun _ => encSrr_lt g d (by decide) (by simp) (by simp) (by simp) (by simp)
theorem and (g : Guard) (d : SDst) (a b : SOp) : Statement (.and g d a b) :=
  fun _ => encSrr_lt g d (by decide) (by simp) (by simp) (by simp) (by simp)
theorem or (g : Guard) (d : SDst) (a b : SOp) : Statement (.or g d a b) :=
  fun _ => encSrr_lt g d (by decide) (by simp) (by simp) (by simp) (by simp)
theorem xor (g : Guard) (d : SDst) (a b : SOp) : Statement (.xor g d a b) :=
  fun _ => encSrr_lt g d (by decide) (by simp) (by simp) (by simp) (by simp)
theorem andn (g : Guard) (d : SDst) (a b : SOp) : Statement (.andn g d a b) :=
  fun _ => encSrr_lt g d (by decide) (by simp) (by simp) (by simp) (by simp)
theorem orn (g : Guard) (d : SDst) (a b : SOp) : Statement (.orn g d a b) :=
  fun _ => encSrr_lt g d (by decide) (by simp) (by simp) (by simp) (by simp)
theorem shl (g : Guard) (d : SDst) (a : SOp) (n : Amt) : Statement (.shl g d a n) := fun _ => encShift_lt g d a n (by decide)
theorem shr (g : Guard) (d : SDst) (a : SOp) (n : Amt) : Statement (.shr g d a n) := fun _ => encShift_lt g d a n (by decide)
theorem sar (g : Guard) (d : SDst) (a : SOp) (n : Amt) : Statement (.sar g d a n) := fun _ => encShift_lt g d a n (by decide)
theorem rotl (g : Guard) (d : SDst) (a : SOp) (n : Amt) : Statement (.rotl g d a n) := fun _ => encShift_lt g d a n (by decide)
theorem clz (g : Guard) (d : SDst) (a : SOp) : Statement (.clz g d a) :=
  fun _ => encSrr_lt g d (by decide) (by simp) (by simp) (by simp) (by simp)
theorem ctz (g : Guard) (d : SDst) (a : SOp) : Statement (.ctz g d a) :=
  fun _ => encSrr_lt g d (by decide) (by simp) (by simp) (by simp) (by simp)
theorem popc (g : Guard) (d : SDst) (a : SOp) : Statement (.popc g d a) :=
  fun _ => encSrr_lt g d (by decide) (by simp) (by simp) (by simp) (by simp)
theorem bswap (g : Guard) (d : SDst) (a : SOp) : Statement (.bswap g d a) :=
  fun _ => encSrr_lt g d (by decide) (by simp) (by simp) (by simp) (by simp)
theorem sext (g : Guard) (d : SDst) (a : SOp) (n : Nat) : Statement (.sext g d a n) :=
  fun h => by
  change decide _ = true at h; simp only [decide_eq_true_eq] at h; exact encSrr_lt g d (by decide) (by simp) (by simp) (by omega) (by simp)
theorem zext (g : Guard) (d : SDst) (a : SOp) (n : Nat) : Statement (.zext g d a n) :=
  fun h => by
  change decide _ = true at h; simp only [decide_eq_true_eq] at h; exact encSrr_lt g d (by decide) (by simp) (by simp) (by omega) (by simp)
theorem bfx (g : Guard) (d : SDst) (a : SOp) (pos w : Nat) : Statement (.bfx g d a pos w) :=
  fun h => by
  change decide _ = true at h; simp only [decide_eq_true_eq] at h; exact encSrr_lt g d (by decide) (by simp) (by simp) (by omega) (by omega)
theorem bfi (g : Guard) (d : SDst) (a b : SOp) (pos w : Nat) : Statement (.bfi g d a b pos w) :=
  fun h => by
  change decide _ = true at h; simp only [decide_eq_true_eq] at h; exact encSrr_lt g d (by decide) (by simp) (by simp) (by omega) (by omega)
theorem sel (g : Guard) (d : SDst) (p : Fin 16) (a b : SOp) : Statement (.sel g d p a b) :=
  fun _ => encSrr_lt g d (by decide) (by simp) (by simp) (by simp) (by omega)
theorem mov (g : Guard) (d : SDst) (a : SOp) : Statement (.mov g d a) :=
  fun _ => encSrr_lt g d (by decide) (by simp) (by simp) (by simp) (by simp)
theorem lea (g : Guard) (d : SDst) (a : SOp) (disp : BitVec 20) : Statement (.lea g d a disp) :=
  fun _ => encSmem_lt g disp (by decide) (by simp) (by simp) (by simp)
theorem addi (g : Guard) (d : SDst) (a : SOp) (imm : BitVec 32) : Statement (.addi g d a imm) :=
  fun _ => encImm_lt g imm (by decide) (by simp) (by simp) (by simp)
theorem li (g : Guard) (d : SDst) (imm : BitVec 32) : Statement (.li g d imm) :=
  fun _ => encImm_lt g imm (by decide) (by simp) (by simp) (by simp)
theorem lih (g : Guard) (d : SDst) (a : SOp) (imm : BitVec 32) : Statement (.lih g d a imm) :=
  fun _ => encImm_lt g imm (by decide) (by simp) (by simp) (by simp)
theorem cmp (g : Guard) (cc : CC) (pd : Fin 16) (a b : SOp) : Statement (.cmp g cc pd a b) :=
  fun _ => by
  have h1 := sop_enc_lt a; have h2 := sop_enc_lt b; have h3 := cc_code_lt cc
  exact encPd_lt g pd (by decide) (by simp only [enc4]; omega)
theorem cmpi (g : Guard) (cc : CC) (pd : Fin 16) (a : SOp) (imm : BitVec 32) : Statement (.cmpi g cc pd a imm) :=
  fun _ => by
  have h1 := sop_enc_lt a; have h2 := imm.isLt; have h3 := cc_code_lt cc
  exact encPd_lt g pd (by decide) (by simp only [enc4]; omega)
theorem pand (g : Guard) (pd pa : Fin 16) (na : Bool) (pb : Fin 16) (nb : Bool) : Statement (.pand g pd pa na pb nb) :=
  fun _ => encPlog_lt g pd pa na _ (by decide) (by omega)
theorem por (g : Guard) (pd pa : Fin 16) (na : Bool) (pb : Fin 16) (nb : Bool) : Statement (.por g pd pa na pb nb) :=
  fun _ => encPlog_lt g pd pa na _ (by decide) (by omega)
theorem pxor (g : Guard) (pd pa : Fin 16) (na : Bool) (pb : Fin 16) (nb : Bool) : Statement (.pxor g pd pa na pb nb) :=
  fun _ => encPlog_lt g pd pa na _ (by decide) (by omega)
theorem pnot (g : Guard) (pd pa : Fin 16) (na : Bool) : Statement (.pnot g pd pa na) :=
  fun _ => encPlog_lt g pd pa na _ (by decide) (by omega)
theorem ldB (g : Guard) (d : SDst) (a : SOp) (disp : BitVec 20) : Statement (.ldB g d a disp) :=
  fun _ => encSmem_lt g disp (by decide) (by simp) (by simp) (by simp)
theorem ldBz (g : Guard) (d : SDst) (a : SOp) (disp : BitVec 20) : Statement (.ldBz g d a disp) :=
  fun _ => encSmem_lt g disp (by decide) (by simp) (by simp) (by simp)
theorem ldH (g : Guard) (d : SDst) (a : SOp) (disp : BitVec 20) : Statement (.ldH g d a disp) :=
  fun _ => encSmem_lt g disp (by decide) (by simp) (by simp) (by simp)
theorem ldHz (g : Guard) (d : SDst) (a : SOp) (disp : BitVec 20) : Statement (.ldHz g d a disp) :=
  fun _ => encSmem_lt g disp (by decide) (by simp) (by simp) (by simp)
theorem ldW (g : Guard) (d : SDst) (a : SOp) (disp : BitVec 20) : Statement (.ldW g d a disp) :=
  fun _ => encSmem_lt g disp (by decide) (by simp) (by simp) (by simp)
theorem ldWz (g : Guard) (d : SDst) (a : SOp) (disp : BitVec 20) : Statement (.ldWz g d a disp) :=
  fun _ => encSmem_lt g disp (by decide) (by simp) (by simp) (by simp)
theorem ldD (g : Guard) (d : SDst) (a : SOp) (disp : BitVec 20) : Statement (.ldD g d a disp) :=
  fun _ => encSmem_lt g disp (by decide) (by simp) (by simp) (by simp)
theorem stB (g : Guard) (b a : SOp) (disp : BitVec 20) : Statement (.stB g b a disp) :=
  fun _ => encSmem_lt g disp (by decide) (by simp) (by simp) (by simp)
theorem stH (g : Guard) (b a : SOp) (disp : BitVec 20) : Statement (.stH g b a disp) :=
  fun _ => encSmem_lt g disp (by decide) (by simp) (by simp) (by simp)
theorem stW (g : Guard) (b a : SOp) (disp : BitVec 20) : Statement (.stW g b a disp) :=
  fun _ => encSmem_lt g disp (by decide) (by simp) (by simp) (by simp)
theorem stD (g : Guard) (b a : SOp) (disp : BitVec 20) : Statement (.stD g b a disp) :=
  fun _ => encSmem_lt g disp (by decide) (by simp) (by simp) (by simp)
theorem br (g : Guard) (an : An) (imm : BitVec 32) : Statement (.br g an imm) :=
  fun _ => by
  have := an_code_lt an; exact encImm_lt g imm (by decide) (by simp) (by simp) (by omega)
theorem bri (g : Guard) (an : An) (a : SOp) (imm : BitVec 32) : Statement (.bri g an a imm) :=
  fun _ => by
  have := an_code_lt an; exact encImm_lt g imm (by decide) (by simp) (by simp) (by omega)
theorem call (g : Guard) (an : An) (d : SDst) (imm : BitVec 32) : Statement (.call g an d imm) :=
  fun _ => by
  have := an_code_lt an; exact encImm_lt g imm (by decide) (by simp) (by simp) (by omega)
theorem ret (g : Guard) (an : An) (a : SOp) : Statement (.ret g an a) :=
  fun _ => by
  have := an_code_lt an; exact encImm_lt g 0 (by decide) (by simp) (by simp) (by omega)
theorem loop (g : Guard) (a : SOp) (imm : BitVec 32) (stg : Fin 8) : Statement (.loop g a imm stg) :=
  fun _ => by
  have := stg.isLt; exact encImm_lt g imm (by decide) (by simp) (by simp) (by omega)
theorem loopb (g : Guard) (imm : BitVec 32) : Statement (.loopb g imm) :=
  fun _ => encImm_lt g imm (by decide) (by simp) (by simp) (by simp)
theorem sleepto (g : Guard) (a : SOp) : Statement (.sleepto g a) :=
  fun _ => encSys_lt g (by decide) (by simp) (by simp) (by simp) (by simp) (by simp)
theorem sleeptoWake (core : Nat) : Statement (.sleeptoWake core) := fun _ => Nat.two_pow_pos 64
theorem mwait (g : Guard) (d : SDst) (cc : CC) (a b c : SOp) : Statement (.mwait g d cc a b c) :=
  fun _ => encSys_lt g (by decide) (by simp) (by simp) (by simp) (by simp) (Nat.lt_trans (cc_code_lt cc) (by decide))
theorem mwaitEnd (core : Nat) : Statement (.mwaitEnd core) := fun _ => Nat.two_pow_pos 64
theorem trig (g : Guard) : Statement (.trig g) :=
  fun _ => encSys_lt g (by decide) (by simp) (by simp) (by simp) (by simp) (by simp)
theorem exit (g : Guard) : Statement (.exit g) :=
  fun _ => encSys_lt g (by decide) (by simp) (by simp) (by simp) (by simp) (by simp)
theorem svc (g : Guard) (d : SDst) (n : BitVec 8) (a b c : SOp) : Statement (.svc g d n a b c) :=
  fun _ => encSys_lt g (by decide) (by simp) (by simp) (by simp) (by simp) n.isLt
theorem svcResume (core : Nat) (outcome : Word) : Statement (.svcResume core outcome) := fun _ => Nat.two_pow_pos 64
theorem serviceRestart (n : Nat) : Statement (.serviceRestart n) := fun _ => Nat.two_pow_pos 64
theorem trap (g : Guard) (n : BitVec 8) : Statement (.trap g n) :=
  fun _ => encSys_lt g (by decide) (by simp) (by simp) (by simp) (by simp) n.isLt
theorem rte (g : Guard) : Statement (.rte g) :=
  fun _ => encSys_lt g (by decide) (by simp) (by simp) (by simp) (by simp) (by simp)
theorem sget (g : Guard) (d : SDst) (r : SysReg) : Statement (.sget g d r) :=
  fun _ => encSys_lt g (by decide) (by simp) (by simp) (by simp) (by simp) (Nat.lt_trans (sysReg_code_lt r) (by decide))
theorem sput (g : Guard) (r : SysReg) (a : SOp) : Statement (.sput g r a) :=
  fun _ => encSys_lt g (by decide) (by simp) (by simp) (by simp) (by simp) (Nat.lt_trans (sysReg_code_lt r) (by decide))
theorem brk (g : Guard) (n : BitVec 8) : Statement (.brk g n) :=
  fun _ => encSys_lt g (by decide) (by simp) (by simp) (by simp) (by simp) n.isLt
theorem lnch (g : Guard) (d : SDst) (a b c : SOp) : Statement (.lnch g d a b c) :=
  fun _ => encSys_lt g (by decide) (by simp) (by simp) (by simp) (by simp) (by simp)
theorem lnchPh (g : Guard) (d : SDst) (a b : SOp) : Statement (.lnchPh g d a b) :=
  fun _ => encSys_lt g (by decide) (by simp) (by simp) (by simp) (by simp) (by simp)
theorem lnchSelf (g : Guard) (d : SDst) (lvl : Nat) : Statement (.lnchSelf g d lvl) :=
  fun h => by
  change decide _ = true at h; simp only [decide_eq_true_eq] at h; exact encSys_lt g (by decide) (by simp) (by simp) (by simp) (by simp) (by omega)
theorem join (g : Guard) (d : SDst) (a b : SOp) : Statement (.join g d a b) :=
  fun _ => encSys_lt g (by decide) (by simp) (by simp) (by simp) (by simp) (by simp)
theorem joinEnd (core : Nat) : Statement (.joinEnd core) := fun _ => Nat.two_pow_pos 64
theorem cancel (g : Guard) (d : SDst) (a : SOp) : Statement (.cancel g d a) :=
  fun _ => encSys_lt g (by decide) (by simp) (by simp) (by simp) (by simp) (by simp)
theorem killTaken (core : Nat) : Statement (.killTaken core) := fun _ => Nat.two_pow_pos 64
theorem eget (g : Guard) (d : SDst) (idx : Nat) : Statement (.eget g d idx) :=
  fun h => by
  change decide _ = true at h; simp only [decide_eq_true_eq] at h; exact encSys_lt g (by decide) (by simp) (by simp) (by simp) (by simp) (by omega)
theorem vadd (g : Guard) (d : VDst) (lt : LT) (a b : VOp) : Statement (.vadd g d lt a b) :=
  fun _ => encVrr_lt g lt _ _ (by decide) (by simp) (by simp) (by simp) (by simp) (by simp)
theorem vsub (g : Guard) (d : VDst) (lt : LT) (a b : VOp) : Statement (.vsub g d lt a b) :=
  fun _ => encVrr_lt g lt _ _ (by decide) (by simp) (by simp) (by simp) (by simp) (by simp)
theorem vmul (g : Guard) (d : VDst) (lt : LT) (a b : VOp) : Statement (.vmul g d lt a b) :=
  fun _ => encVrr_lt g lt _ _ (by decide) (by simp) (by simp) (by simp) (by simp) (by simp)
theorem vmulh (g : Guard) (d : VDst) (lt : LT) (u : Bool) (a b : VOp) : Statement (.vmulh g d lt u a b) :=
  fun _ => by
  have := bit_lt u; exact encVrr_lt g lt _ _ (by decide) (by simp) (by simp) (by simp) (by simp) (by omega)
theorem vmac (g : Guard) (d : VDst) (lt : LT) (a b c : VOp) : Statement (.vmac g d lt a b c) :=
  fun _ => encVrr_lt g lt _ _ (by decide) (by simp) (by simp) (by simp) (by simp) (by simp)
theorem vwmul (g : Guard) (d : VDst) (lt : LT) (hi u : Bool) (a b : VOp) : Statement (.vwmul g d lt hi u a b) :=
  fun _ => by
  have := bit_lt u; have := bit_lt hi; exact encVrr_lt g lt _ _ (by decide) (by simp) (by simp) (by simp) (by simp) (by omega)
theorem vwmac (g : Guard) (d : VDst) (lt : LT) (hi u sat : Bool) (a b c : VOp) : Statement (.vwmac g d lt hi u sat a b c) :=
  fun _ => by
  have := bit_lt u; have := bit_lt hi; exact encVrr_lt g lt _ _ (by decide) (by simp) (by simp) (by simp) (by simp) (by omega)
theorem vnarrow (g : Guard) (d : VDst) (lt : LT) (s : Nat) (u : Bool) (rnd : Rnd) (sat : Bool) (a b : VOp) :
    Statement (.vnarrow g d lt s u rnd sat a b) :=
  fun h => by
  have := bit_lt u
  have hw : lt.width ≤ 32 := by
    cases lt <;> simp [Instr.wf, LT.isInt3] at h ⊢ <;> decide
  change (_ && _) = true at h; simp only [Bool.and_eq_true, decide_eq_true_eq] at h
  exact encVrr_lt g lt _ _ (by decide) (by simp) (by simp) (by simp) (by simp) (by omega)
theorem vadds (g : Guard) (d : VDst) (lt : LT) (u : Bool) (a b : VOp) : Statement (.vadds g d lt u a b) :=
  fun _ => by
  have := bit_lt u; exact encVrr_lt g lt _ _ (by decide) (by simp) (by simp) (by simp) (by simp) (by omega)
theorem vsubs (g : Guard) (d : VDst) (lt : LT) (u : Bool) (a b : VOp) : Statement (.vsubs g d lt u a b) :=
  fun _ => by
  have := bit_lt u; exact encVrr_lt g lt _ _ (by decide) (by simp) (by simp) (by simp) (by simp) (by omega)
theorem vabs (g : Guard) (d : VDst) (lt : LT) (a : VOp) : Statement (.vabs g d lt a) :=
  fun _ => encVrr_lt g lt _ _ (by decide) (by simp) (by simp) (by simp) (by simp) (by simp)
theorem vneg (g : Guard) (d : VDst) (lt : LT) (a : VOp) : Statement (.vneg g d lt a) :=
  fun _ => encVrr_lt g lt _ _ (by decide) (by simp) (by simp) (by simp) (by simp) (by simp)
theorem vmin (g : Guard) (d : VDst) (lt : LT) (a b : VOp) : Statement (.vmin g d lt a b) :=
  fun _ => encVrr_lt g lt _ _ (by decide) (by simp) (by simp) (by simp) (by simp) (by simp)
theorem vmax (g : Guard) (d : VDst) (lt : LT) (a b : VOp) : Statement (.vmax g d lt a b) :=
  fun _ => encVrr_lt g lt _ _ (by decide) (by simp) (by simp) (by simp) (by simp) (by simp)
theorem vminz (g : Guard) (d : VDst) (lt : LT) (a b : VOp) : Statement (.vminz g d lt a b) :=
  fun _ => encVrr_lt g lt _ _ (by decide) (by simp) (by simp) (by simp) (by simp) (by simp)
theorem vmaxz (g : Guard) (d : VDst) (lt : LT) (a b : VOp) : Statement (.vmaxz g d lt a b) :=
  fun _ => encVrr_lt g lt _ _ (by decide) (by simp) (by simp) (by simp) (by simp) (by simp)
theorem vand (g : Guard) (d : VDst) (lt : LT) (a b : VOp) : Statement (.vand g d lt a b) :=
  fun _ => encVrr_lt g lt _ _ (by decide) (by simp) (by simp) (by simp) (by simp) (by simp)
theorem vor (g : Guard) (d : VDst) (lt : LT) (a b : VOp) : Statement (.vor g d lt a b) :=
  fun _ => encVrr_lt g lt _ _ (by decide) (by simp) (by simp) (by simp) (by simp) (by simp)
theorem vxor (g : Guard) (d : VDst) (lt : LT) (a b : VOp) : Statement (.vxor g d lt a b) :=
  fun _ => encVrr_lt g lt _ _ (by decide) (by simp) (by simp) (by simp) (by simp) (by simp)
theorem vandn (g : Guard) (d : VDst) (lt : LT) (a b : VOp) : Statement (.vandn g d lt a b) :=
  fun _ => encVrr_lt g lt _ _ (by decide) (by simp) (by simp) (by simp) (by simp) (by simp)
theorem vshl (g : Guard) (d : VDst) (lt : LT) (a : VOp) (n : VAmt) : Statement (.vshl g d lt a n) :=
  fun h => by
  refine encVshift_lt g d lt a n (by decide) fun m hm => ?_
  subst hm
  have hw : lt.width ≤ 64 := by cases lt <;> decide
  change (_ && _) = true at h; simp only [Bool.and_eq_true, decide_eq_true_eq] at h; omega
theorem vshr (g : Guard) (d : VDst) (lt : LT) (a : VOp) (n : VAmt) : Statement (.vshr g d lt a n) :=
  fun h => by
  refine encVshift_lt g d lt a n (by decide) fun m hm => ?_
  subst hm
  have hw : lt.width ≤ 64 := by cases lt <;> decide
  change (_ && _) = true at h; simp only [Bool.and_eq_true, decide_eq_true_eq] at h; omega
theorem vsar (g : Guard) (d : VDst) (lt : LT) (a : VOp) (n : VAmt) : Statement (.vsar g d lt a n) :=
  fun h => by
  refine encVshift_lt g d lt a n (by decide) fun m hm => ?_
  subst hm
  have hw : lt.width ≤ 64 := by cases lt <;> decide
  change (_ && _) = true at h; simp only [Bool.and_eq_true, decide_eq_true_eq] at h; omega
theorem vcmp (g : Guard) (d : VDst) (cc : CC) (lt : LT) (a b : VOp) : Statement (.vcmp g d cc lt a b) :=
  fun _ => by
  have := cc_code_lt cc; exact encVrr_lt g lt _ _ (by decide) (by simp) (by simp) (by simp) (by simp) (by omega)
theorem vsel (g : Guard) (d : VDst) (lt : LT) (a b c : VOp) : Statement (.vsel g d lt a b c) :=
  fun _ => encVrr_lt g lt _ _ (by decide) (by simp) (by simp) (by simp) (by simp) (by simp)
theorem vclz (g : Guard) (d : VDst) (lt : LT) (a : VOp) : Statement (.vclz g d lt a) :=
  fun _ => encVrr_lt g lt _ _ (by decide) (by simp) (by simp) (by simp) (by simp) (by simp)
theorem vpopc (g : Guard) (d : VDst) (lt : LT) (a : VOp) : Statement (.vpopc g d lt a) :=
  fun _ => encVrr_lt g lt _ _ (by decide) (by simp) (by simp) (by simp) (by simp) (by simp)
theorem vfadd (g : Guard) (d : VDst) (lt : LT) (rnd : Rnd) (a b : VOp) : Statement (.vfadd g d lt rnd a b) :=
  fun _ => encVrr_lt g lt _ _ (by decide) (by simp) (by simp) (by simp) (by simp) (by simp)
theorem vfsub (g : Guard) (d : VDst) (lt : LT) (rnd : Rnd) (a b : VOp) : Statement (.vfsub g d lt rnd a b) :=
  fun _ => encVrr_lt g lt _ _ (by decide) (by simp) (by simp) (by simp) (by simp) (by simp)
theorem vfmul (g : Guard) (d : VDst) (lt : LT) (rnd : Rnd) (a b : VOp) : Statement (.vfmul g d lt rnd a b) :=
  fun _ => encVrr_lt g lt _ _ (by decide) (by simp) (by simp) (by simp) (by simp) (by simp)
theorem vfma (g : Guard) (d : VDst) (lt : LT) (rnd : Rnd) (a b c : VOp) : Statement (.vfma g d lt rnd a b c) :=
  fun _ => encVrr_lt g lt _ _ (by decide) (by simp) (by simp) (by simp) (by simp) (by simp)
theorem vfmin (g : Guard) (d : VDst) (lt : LT) (a b : VOp) : Statement (.vfmin g d lt a b) :=
  fun _ => encVrr_lt g lt _ _ (by decide) (by simp) (by simp) (by simp) (by simp) (by simp)
theorem vfmax (g : Guard) (d : VDst) (lt : LT) (a b : VOp) : Statement (.vfmax g d lt a b) :=
  fun _ => encVrr_lt g lt _ _ (by decide) (by simp) (by simp) (by simp) (by simp) (by simp)
theorem vfabs (g : Guard) (d : VDst) (lt : LT) (a : VOp) : Statement (.vfabs g d lt a) :=
  fun _ => encVrr_lt g lt _ _ (by decide) (by simp) (by simp) (by simp) (by simp) (by simp)
theorem vfneg (g : Guard) (d : VDst) (lt : LT) (a : VOp) : Statement (.vfneg g d lt a) :=
  fun _ => encVrr_lt g lt _ _ (by decide) (by simp) (by simp) (by simp) (by simp) (by simp)
theorem vfcmp (g : Guard) (d : VDst) (cc : CC) (lt : LT) (a b : VOp) : Statement (.vfcmp g d cc lt a b) :=
  fun _ => by
  have := cc_code_lt cc; exact encVrr_lt g lt _ _ (by decide) (by simp) (by simp) (by simp) (by simp) (by omega)
theorem vrcp (g : Guard) (d : VDst) (lt : LT) (rnd : Rnd) (a : VOp) : Statement (.vrcp g d lt rnd a) :=
  fun _ => encVrr_lt g lt _ _ (by decide) (by simp) (by simp) (by simp) (by simp) (by simp)
theorem vrsqrt (g : Guard) (d : VDst) (lt : LT) (rnd : Rnd) (a : VOp) : Statement (.vrsqrt g d lt rnd a) :=
  fun _ => encVrr_lt g lt _ _ (by decide) (by simp) (by simp) (by simp) (by simp) (by simp)
theorem vexp2 (g : Guard) (d : VDst) (lt : LT) (rnd : Rnd) (a : VOp) : Statement (.vexp2 g d lt rnd a) :=
  fun _ => encVrr_lt g lt _ _ (by decide) (by simp) (by simp) (by simp) (by simp) (by simp)
theorem vlog2 (g : Guard) (d : VDst) (lt : LT) (rnd : Rnd) (a : VOp) : Statement (.vlog2 g d lt rnd a) :=
  fun _ => encVrr_lt g lt _ _ (by decide) (by simp) (by simp) (by simp) (by simp) (by simp)
theorem vsigm (g : Guard) (d : VDst) (lt : LT) (rnd : Rnd) (a : VOp) : Statement (.vsigm g d lt rnd a) :=
  fun _ => encVrr_lt g lt _ _ (by decide) (by simp) (by simp) (by simp) (by simp) (by simp)
theorem vtanh (g : Guard) (d : VDst) (lt : LT) (rnd : Rnd) (a : VOp) : Statement (.vtanh g d lt rnd a) :=
  fun _ => encVrr_lt g lt _ _ (by decide) (by simp) (by simp) (by simp) (by simp) (by simp)
theorem vfcvt (g : Guard) (d : VDst) (lt src : LT) (u : Bool) (p : Nat) (rnd : Rnd) (sat : Bool) (a : VOp) :
    Statement (.vfcvt g d lt src u p rnd sat a) :=
  fun h => by
  have h1 := lt_code_lt src; have h2 := bit_lt u
  have hw : cvtPairOk lt src = true → lt.width / src.width ≤ 8 := by cases lt <;> cases src <;> decide
  have hp : p < 8 := by
    change (_ && _) = true at h; simp only [Bool.and_eq_true] at h
    have hw := hw h.1.1
    have := h.2
    unfold cvtPartOk at this
    split at this <;> simp only [decide_eq_true_eq, beq_iff_eq] at this <;> omega
  exact encVrr_lt g lt _ _ (by decide) (by simp) (by simp) (by simp) (by simp) (by omega)
theorem vamax (g : Guard) (d : VDst) (lt : LT) (a : VOp) : Statement (.vamax g d lt a) :=
  fun _ => encVrr_lt g lt _ _ (by decide) (by simp) (by simp) (by simp) (by simp) (by simp)
theorem vqmx (g : Guard) (d : VDst) (lt src : LT) (a : VOp) : Statement (.vqmx g d lt src a) :=
  fun _ => by
  have := lt_code_lt src; exact encVrr_lt g lt _ _ (by decide) (by simp) (by simp) (by simp) (by simp) (by omega)
theorem vdqmx (g : Guard) (d : VDst) (lt src : LT) (rnd : Rnd) (sat : Bool) (a : VOp) : Statement (.vdqmx g d lt src rnd sat a) :=
  fun _ => by
  have := lt_code_lt src; exact encVrr_lt g lt _ _ (by decide) (by simp) (by simp) (by simp) (by simp) (by omega)
theorem vperm (g : Guard) (d : VDst) (lt : LT) (z : Bool) (a b c : VOp) : Statement (.vperm g d lt z a b c) :=
  fun _ => by
  have := bit_lt z; exact encVrr_lt g lt _ _ (by decide) (by simp) (by simp) (by simp) (by simp) (by omega)
theorem vslide (g : Guard) (d : VDst) (lt : LT) (s : Nat) (a b : VOp) : Statement (.vslide g d lt s a b) :=
  fun h => by
  have hw : lt.isInt = true → lt.lanes ≤ 256 := by cases lt <;> decide
  change (_ && _) = true at h; simp only [Bool.and_eq_true, decide_eq_true_eq] at h
  have hw := hw h.1
  exact encVrr_lt g lt _ _ (by decide) (by simp) (by simp) (by simp) (by simp) (by omega)
theorem vbcastScalar (g : Guard) (d : VDst) (lt : LT) (a : SOp) : Statement (.vbcastScalar g d lt a) :=
  fun _ => encVx_lt g (by decide) (by simp) (by simp) (by simp) (by simp) (by simp) (by simp) (by simp)
theorem vbcastImm (g : Guard) (d : VDst) (lt : LT) (imm : BitVec 32) : Statement (.vbcastImm g d lt imm) :=
  fun _ => by
  have := lt_code_lt lt; exact encImm_lt g imm (by decide) (by simp) (by simp) (by omega)
theorem vins (g : Guard) (d : VDst) (lt : LT) (a : VOp) (b : SOp) (ix : LaneIx) : Statement (.vins g d lt a b ix) :=
  fun h => by
  have hw : lt.isWidth = true → lt.lanes ≤ 256 := by cases lt <;> decide
  cases ix with
  | reg c => exact encVx_lt g (by decide) (by simp) (by simp) (by simp) (by simp) (by simp) (by simp) (by simp)
  | imm n =>
    change (_ && _) = true at h; simp only [Bool.and_eq_true, decide_eq_true_eq] at h
    have hw := hw h.1
    exact encVx_lt g (by decide) (by simp) (by simp) (by simp) (by simp) (by simp) (by simp) (by omega)
theorem vext (g : Guard) (d : VDst) (lt : LT) (a : VOp) (ix : LaneIx) : Statement (.vext g d lt a ix) :=
  fun h => by
  have hw : lt.isWidth = true → lt.lanes ≤ 256 := by cases lt <;> decide
  cases ix with
  | reg c => exact encVx_lt g (by decide) (by simp) (by simp) (by simp) (by simp) (by simp) (by simp) (by simp)
  | imm n =>
    change (_ && _) = true at h; simp only [Bool.and_eq_true, decide_eq_true_eq] at h
    have hw := hw h.1
    exact encVx_lt g (by decide) (by simp) (by simp) (by simp) (by simp) (by simp) (by simp) (by omega)
theorem vzip (g : Guard) (d : VDst) (lt : LT) (hi : Bool) (a b : VOp) : Statement (.vzip g d lt hi a b) :=
  fun _ => by
  have := bit_lt hi; exact encVrr_lt g lt _ _ (by decide) (by simp) (by simp) (by simp) (by simp) (by omega)
theorem vunzip (g : Guard) (d : VDst) (lt : LT) (hi : Bool) (a b : VOp) : Statement (.vunzip g d lt hi a b) :=
  fun _ => by
  have := bit_lt hi; exact encVrr_lt g lt _ _ (by decide) (by simp) (by simp) (by simp) (by simp) (by omega)
theorem vred (g : Guard) (d : VDst) (op : RedOp) (lt : LT) (rnd : Rnd) (a : VOp) : Statement (.vred g d op lt rnd a) :=
  fun _ => by
  have := redOp_code_lt op; exact encVrr_lt g lt _ _ (by decide) (by simp) (by simp) (by simp) (by simp) (by omega)
theorem vscan (g : Guard) (d : VDst) (op : RedOp) (lt : LT) (rnd : Rnd) (a : VOp) (b : Option VOp) :
    Statement (.vscan g d op lt rnd a b) :=
  fun _ => by
  have := redOp_code_lt op
  cases b <;> exact encVrr_lt g lt _ _ (by decide) (by simp) (by simp) (by simp) (by simp) (by omega)
theorem vld (g : Guard) (d : VDst) (a : SOp) (disp : BitVec 20) : Statement (.vld g d a disp) :=
  fun _ => encVmem_lt g disp (by decide) (by simp) (by simp) (by simp) (by simp) (by simp)
theorem vst (g : Guard) (b : VOp) (a : SOp) (disp : BitVec 20) : Statement (.vst g b a disp) :=
  fun _ => encVmem_lt g disp (by decide) (by simp) (by simp) (by simp) (by simp) (by simp)
theorem vldg (g : Guard) (d : VDst) (lt : LT) (a : SOp) (disp : BitVec 20) (b : VOp) (c : SOp) :
    Statement (.vldg g d lt a disp b c) :=
  fun _ => encVmem_lt g disp (by decide) (by simp) (by simp) (by simp) (by simp) (by simp)
theorem vsts (g : Guard) (lt : LT) (b : VOp) (a : SOp) (disp : BitVec 20) (c : SOp) : Statement (.vsts g lt b a disp c) :=
  fun _ => encVmem_lt g disp (by decide) (by simp) (by simp) (by simp) (by simp) (by simp)
theorem xinL (g : Guard) (d : VDst) (n : Fin 4) : Statement (.xinL g d n) :=
  fun _ => by
  have := n.isLt; exact encVx_lt g (by decide) (by simp) (by decide) (by decide) (by decide) (by decide) (by omega) (by decide)
theorem xinX (g : Guard) (d : VDst) (c : BitVec 8) : Statement (.xinX g d c) :=
  fun _ => encVx_lt g (by decide) (by simp) (by simp) (by simp) (by simp) (by simp) (by simp) c.isLt
theorem xoutD (g : Guard) (a : VOp) (m : BitVec 8) : Statement (.xoutD g a m) :=
  fun _ => encVx_lt g (by decide) (by simp) (by simp) (by simp) (by simp) (by simp) (by simp) m.isLt
theorem xoutW (g : Guard) (a : VOp) : Statement (.xoutW g a) :=
  fun _ => encVx_lt g (by decide) (by simp) (by simp) (by simp) (by simp) (by simp) (by simp) (by simp)
theorem xoutCfg (g : Guard) (a : VOp) : Statement (.xoutCfg g a) :=
  fun _ => encVx_lt g (by decide) (by simp) (by simp) (by simp) (by simp) (by simp) (by simp) (by simp)
theorem xstatL (g : Guard) (d : VDst) (n : Fin 4) : Statement (.xstatL g d n) :=
  fun _ => by
  have := n.isLt; exact encVx_lt g (by decide) (by simp) (by decide) (by decide) (by decide) (by decide) (by omega) (by decide)
theorem xstatX (g : Guard) (d : VDst) (c : BitVec 8) : Statement (.xstatX g d c) :=
  fun _ => encVx_lt g (by decide) (by simp) (by simp) (by simp) (by simp) (by simp) (by simp) c.isLt
theorem oclm (g : Guard) (o : Fin 24) : Statement (.oclm g o) :=
  fun _ => by
  have := o.isLt; exact encMt_lt g (by decide) (by omega) (by omega) (by omega) (by omega) (by omega) (by omega) (by omega) (by omega)
theorem orls (g : Guard) (o : Fin 24) : Statement (.orls g o) :=
  fun _ => by
  have := o.isLt; exact encMt_lt g (by decide) (by omega) (by omega) (by omega) (by omega) (by omega) (by omega) (by omega) (by omega)
theorem owr (g : Guard) (sel : OSel) (o : Fin 24) (row : Nat) (a : VOp) : Statement (.owr g sel o row a) :=
  fun h => by
  have := o.isLt
  change oRowOk _ _ = true at h; simp only [oRowOk, Bool.and_eq_true, decide_eq_true_eq] at h
  exact encMv_lt g (by decide) (by simp) (by simp) (by simp) (by omega) (by simp) h.1 (by simp)
theorem ordv (g : Guard) (d : VDst) (sel : OSel) (o : Fin 24) (row : Nat) : Statement (.ordv g d sel o row) :=
  fun h => by
  have := o.isLt
  change oRowOk _ _ = true at h; simp only [oRowOk, Bool.and_eq_true, decide_eq_true_eq] at h
  exact encMv_lt g (by decide) (by simp) (by simp) (by simp) (by omega) (by simp) h.1 (by simp)
theorem mzero (g : Guard) (f64 : Bool) (acc : Fin 4) : Statement (.mzero g f64 acc) :=
  fun _ => by
  have := acc.isLt; have := bit_lt f64; exact encMt_lt g (by decide) (by omega) (by omega) (by omega) (by omega) (by omega) (by omega) (by omega) (by omega)
theorem mma (g : Guard) (ef : EF) (acc : Fin 4) (oa ob : Fin 24) (row0 nrow : Nat) : Statement (.mma g ef acc oa ob row0 nrow) :=
  fun h => by
  have := acc.isLt; have := oa.isLt; have := ob.isLt; have := ef_code_lt ef
  change (_ && _) = true at h; simp only [Bool.and_eq_true, decide_eq_true_eq] at h
  refine encMt_lt g (by decide) (by omega) (by omega) (by omega) (by omega) (by omega) (by omega) (by omega) ?_
  split <;> decide
theorem mmab (g : Guard) (ef : EF) (pp : Fin 2) (oa ob : Fin 24) (kb : Nat) : Statement (.mmab g ef pp oa ob kb) :=
  fun h => by
  have := pp.isLt; have := oa.isLt; have := ob.isLt; have := ef_code_lt ef
  have hk : ef.kblocks ≤ 16 := by cases ef <;> decide
  change (_ && _) = true at h; simp only [Bool.and_eq_true, decide_eq_true_eq] at h
  exact encMt_lt g (by decide) (by omega) (by omega) (by omega) (by omega) (by omega) (by omega) (by omega) (by omega)
theorem mmas (g : Guard) (ef : EF) (dst : MmasDst) (oa ob : Fin 24) : Statement (.mmas g ef dst oa ob) :=
  fun h => by
  have := oa.isLt; have := ob.isLt; have := ef_code_lt ef
  cases dst with
  | tile acc row0 nrow =>
    have := acc.isLt
    change (_ && _) = true at h; simp only [mmasFieldsOk, Bool.and_eq_true, decide_eq_true_eq] at h
    exact encMt_lt g (by decide) (by omega) (by omega) (by omega) (by omega) (by omega) (by omega) (by omega) (by omega)
  | plane pp kb =>
    have := pp.isLt
    have hk : ef.kblocks ≤ 16 := by cases ef <;> decide
    change (_ && _) = true at h; simp only [mmasFieldsOk, Bool.and_eq_true, decide_eq_true_eq] at h
    exact encMt_lt g (by decide) (by omega) (by omega) (by omega) (by omega) (by omega) (by omega) (by omega) (by omega)
theorem scacc (g : Guard) (ef : EF) (acc : Fin 4) (pp : Fin 2) (oa ob : Fin 24) (kb : Nat) :
    Statement (.scacc g ef acc pp oa ob kb) :=
  fun h => by
  have := acc.isLt; have := pp.isLt; have := oa.isLt; have := ob.isLt; have := ef_code_lt ef
  have hk : ef.kblocks ≤ 16 := by cases ef <;> decide
  change (_ && _) = true at h; simp only [Bool.and_eq_true, decide_eq_true_eq] at h
  exact encMt_lt g (by decide) (by omega) (by omega) (by omega) (by omega) (by omega) (by omega) (by omega) (by omega)
theorem acrd (g : Guard) (d : VDst) (sel : AcSel) (acc : Fin 4) (row : Fin 64) : Statement (.acrd g d sel acc row) :=
  fun _ => encMv_lt g (by decide) (by simp) (by simp) (by simp) (by simp) acc.isLt row.isLt (by simp)
theorem acwr (g : Guard) (sel : AcSel) (acc : Fin 4) (row : Fin 64) (a : VOp) : Statement (.acwr g sel acc row a) :=
  fun _ => encMv_lt g (by decide) (by simp) (by simp) (by simp) (by simp) acc.isLt row.isLt (by simp)
theorem acexpRd (g : Guard) (d : VDst) (acc : Fin 4) : Statement (.acexpRd g d acc) :=
  fun _ => encMv_lt g (by decide) (by simp) (by simp) (by simp) (by simp) acc.isLt (by simp) (by simp)
theorem acexpWr (g : Guard) (acc : Fin 4) (a : VOp) : Statement (.acexpWr g acc a) :=
  fun _ => encMv_lt g (by decide) (by simp) (by simp) (by simp) (by simp) acc.isLt (by simp) (by simp)
theorem acnorm (g : Guard) (acc : Fin 4) : Statement (.acnorm g acc) :=
  fun _ => by
  have := acc.isLt; exact encMt_lt g (by decide) (by omega) (by omega) (by omega) (by omega) (by omega) (by omega) (by omega) (by omega)
theorem mdpc (g : Guard) (b : SOp) : Statement (.mdpc g b) :=
  fun _ => encMv_lt g (by decide) (by simp) (by simp) (by simp) (by simp) (by simp) (by simp) (by simp)
theorem afscan (g : Guard) (acc : Fin 4) (n : Nat) : Statement (.afscan g acc n) :=
  fun h => by
  have := acc.isLt
  change decide _ = true at h; simp only [decide_eq_true_eq] at h
  exact encMt_lt g (by decide) (by omega) (by omega) (by omega) (by omega) (by omega) (by omega) (by omega) (by omega)
theorem afcomp (g : Guard) (acc : Fin 4) (n : Nat) : Statement (.afcomp g acc n) :=
  fun h => by
  have := acc.isLt
  change decide _ = true at h; simp only [decide_eq_true_eq] at h
  exact encMt_lt g (by decide) (by omega) (by omega) (by omega) (by omega) (by omega) (by omega) (by omega) (by omega)
theorem afcarryRd (g : Guard) (d : VDst) (sel : CySel) (acc : Fin 4) : Statement (.afcarryRd g d sel acc) :=
  fun _ => by
  have := cySel_code_lt sel; exact encMv_lt g (by decide) (by simp) (by simp) (by simp) (by simp) acc.isLt (by simp) (by omega)
theorem afcarryWr (g : Guard) (sel : CySel) (acc : Fin 4) (a : VOp) : Statement (.afcarryWr g sel acc a) :=
  fun _ => by
  have := cySel_code_lt sel; exact encMv_lt g (by decide) (by simp) (by simp) (by simp) (by simp) acc.isLt (by simp) (by omega)
theorem afcarryWrH (g : Guard) (acc : Fin 4) (a : VOp) : Statement (.afcarryWrH g acc a) :=
  fun _ => encMv_lt g (by decide) (by simp) (by simp) (by simp) (by simp) acc.isLt (by simp) (by simp)
theorem productStart (core : Nat) : Statement (.productStart core) := fun _ => Nat.two_pow_pos 64
theorem productRowLanding (core : Nat) : Statement (.productRowLanding core) := fun _ => Nat.two_pow_pos 64
theorem foldStart (core : Nat) : Statement (.foldStart core) := fun _ => Nat.two_pow_pos 64
theorem foldRowLanding (core : Nat) : Statement (.foldRowLanding core) := fun _ => Nat.two_pow_pos 64
theorem scanStart (core : Nat) : Statement (.scanStart core) := fun _ => Nat.two_pow_pos 64
theorem scanLanding (core : Nat) : Statement (.scanLanding core) := fun _ => Nat.two_pow_pos 64
theorem cpys (g : Guard) (d : SDst) (pol : Fin 8) (a b : SOp) : Statement (.cpys g d pol a b) :=
  fun _ => encC_lt g d pol (by decide) (by simp) (by simp) (by simp) (by simp)
theorem bari (g : Guard) (d : SDst) (pol : Fin 8) (a b : SOp) : Statement (.bari g d pol a b) :=
  fun _ => encC_lt g d pol (by decide) (by simp) (by simp) (by simp) (by simp)
theorem barw (g : Guard) (d : SDst) (pol : Fin 8) (a b : SOp) : Statement (.barw g d pol a b) :=
  fun _ => encC_lt g d pol (by decide) (by simp) (by simp) (by simp) (by simp)
theorem barwEnd (core : Nat) : Statement (.barwEnd core) := fun _ => Nat.two_pow_pos 64
theorem drain (g : Guard) (d : SDst) (pol : Fin 8) (sc : Scope) : Statement (.drain g d pol sc) :=
  fun _ => by
  have := scope_code_lt sc; exact encC_lt g d pol (by decide) (by simp) (by simp) (by simp) (by omega)
theorem drainEnd (core : Nat) : Statement (.drainEnd core) := fun _ => Nat.two_pow_pos 64
theorem permit (g : Guard) (d : SDst) (pol : Fin 8) (a b : SOp) : Statement (.permit g d pol a b) :=
  fun _ => encC_lt g d pol (by decide) (by simp) (by simp) (by simp) (by simp)
theorem twopen (g : Guard) (d : SDst) (pol : Fin 8) (a b : SOp) : Statement (.twopen g d pol a b) :=
  fun _ => encC_lt g d pol (by decide) (by simp) (by simp) (by simp) (by simp)
theorem twclose (g : Guard) (d : SDst) (pol : Fin 8) (a : SOp) : Statement (.twclose g d pol a) :=
  fun _ => encC_lt g d pol (by decide) (by simp) (by simp) (by simp) (by simp)
theorem aadd (g : Guard) (d : SDst) (pol : Fin 8) (sz : Sz) (a b c : SOp) : Statement (.aadd g d pol sz a b c) :=
  fun _ => by
  have := sz_code_lt sz; exact encC_lt g d pol (by decide) (by simp) (by simp) (by simp) (by omega)
theorem amin (g : Guard) (d : SDst) (pol : Fin 8) (sz : Sz) (a b c : SOp) : Statement (.amin g d pol sz a b c) :=
  fun _ => by
  have := sz_code_lt sz; exact encC_lt g d pol (by decide) (by simp) (by simp) (by simp) (by omega)
theorem amax (g : Guard) (d : SDst) (pol : Fin 8) (sz : Sz) (a b c : SOp) : Statement (.amax g d pol sz a b c) :=
  fun _ => by
  have := sz_code_lt sz; exact encC_lt g d pol (by decide) (by simp) (by simp) (by simp) (by omega)
theorem aand (g : Guard) (d : SDst) (pol : Fin 8) (sz : Sz) (a b c : SOp) : Statement (.aand g d pol sz a b c) :=
  fun _ => by
  have := sz_code_lt sz; exact encC_lt g d pol (by decide) (by simp) (by simp) (by simp) (by omega)
theorem aor (g : Guard) (d : SDst) (pol : Fin 8) (sz : Sz) (a b c : SOp) : Statement (.aor g d pol sz a b c) :=
  fun _ => by
  have := sz_code_lt sz; exact encC_lt g d pol (by decide) (by simp) (by simp) (by simp) (by omega)
theorem axor (g : Guard) (d : SDst) (pol : Fin 8) (sz : Sz) (a b c : SOp) : Statement (.axor g d pol sz a b c) :=
  fun _ => by
  have := sz_code_lt sz; exact encC_lt g d pol (by decide) (by simp) (by simp) (by simp) (by omega)
theorem aswp (g : Guard) (d : SDst) (pol : Fin 8) (sz : Sz) (a b c : SOp) : Statement (.aswp g d pol sz a b c) :=
  fun _ => by
  have := sz_code_lt sz; exact encC_lt g d pol (by decide) (by simp) (by simp) (by simp) (by omega)
theorem acas (g : Guard) (d : SDst) (pol : Fin 8) (sz : Sz) (a b c : SOp) : Statement (.acas g d pol sz a b c) :=
  fun _ => by
  have := sz_code_lt sz; exact encC_lt g d pol (by decide) (by simp) (by simp) (by simp) (by omega)
theorem tlbiVa (g : Guard) (d : SDst) (pol : Fin 8) (sc : Scope) (a c : SOp) : Statement (.tlbiVa g d pol sc a c) :=
  fun _ => by
  have := scope_code_lt sc; exact encC_lt g d pol (by decide) (by simp) (by simp) (by simp) (by omega)
theorem tlbiRng (g : Guard) (d : SDst) (pol : Fin 8) (sc : Scope) (a b c : SOp) : Statement (.tlbiRng g d pol sc a b c) :=
  fun _ => by
  have := scope_code_lt sc; exact encC_lt g d pol (by decide) (by simp) (by simp) (by simp) (by omega)
theorem tlbiAll (g : Guard) (d : SDst) (pol : Fin 8) (sc : Scope) (c : SOp) : Statement (.tlbiAll g d pol sc c) :=
  fun _ => by
  have := scope_code_lt sc; exact encC_lt g d pol (by decide) (by simp) (by simp) (by simp) (by omega)
theorem rdc (g : Guard) (d : SDst) (pol : Fin 8) (op : RdcOp) (len : BitVec 16) (a b c : SOp) :
    Statement (.rdc g d pol op len a b c) :=
  fun _ => by
  have := rdcOp_code_lt op; have := len.isLt; exact encC_lt g d pol (by decide) (by simp) (by simp) (by simp) (by omega)
theorem fsend (g : Guard) (d : SDst) (pol : Fin 8) (tag : BitVec 16) (a b c : SOp) : Statement (.fsend g d pol tag a b c) :=
  fun _ => by
  have := tag.isLt; exact encC_lt g d pol (by decide) (by simp) (by simp) (by simp) (by omega)
theorem frecv (g : Guard) (d : SDst) (pol : Fin 8) (a b c : SOp) : Statement (.frecv g d pol a b c) :=
  fun _ => encC_lt g d pol (by decide) (by simp) (by simp) (by simp) (by simp)
theorem frecvEnd (core : Nat) : Statement (.frecvEnd core) := fun _ => Nat.two_pow_pos 64
theorem fdone (g : Guard) (d : SDst) (pol : Fin 8) (a b : SOp) : Statement (.fdone g d pol a b) :=
  fun _ => encC_lt g d pol (by decide) (by simp) (by simp) (by simp) (by simp)
theorem quiet (g : Guard) (d : SDst) (pol : Fin 8) (a b : SOp) : Statement (.quiet g d pol a b) :=
  fun _ => encC_lt g d pol (by decide) (by simp) (by simp) (by simp) (by simp)
theorem quietEnd (core : Nat) : Statement (.quietEnd core) := fun _ => Nat.two_pow_pos 64
theorem fstat (g : Guard) (d : SDst) (pol : Fin 8) (a b : SOp) : Statement (.fstat g d pol a b) :=
  fun _ => encC_lt g d pol (by decide) (by simp) (by simp) (by simp) (by simp)
theorem fstatRecordLanding (core : Nat) : Statement (.fstatRecordLanding core) := fun _ => Nat.two_pow_pos 64
theorem copySegmentLanding (req : Nat) (seg : Nat) : Statement (.copySegmentLanding req seg) := fun _ => Nat.two_pow_pos 64
theorem bytePerform (req : Nat) (piece : Nat) : Statement (.bytePerform req piece) := fun _ => Nat.two_pow_pos 64
theorem atomicPerform (req : Nat) : Statement (.atomicPerform req) := fun _ => Nat.two_pow_pos 64
theorem tweFaultReport (req : Nat) : Statement (.tweFaultReport req) := fun _ => Nat.two_pow_pos 64
theorem requestComplete (req : Nat) : Statement (.requestComplete req) := fun _ => Nat.two_pow_pos 64
theorem promise (core : Nat) : Statement (.promise core) := fun _ => Nat.two_pow_pos 64
theorem tableWalk (cluster : Nat) (part : Nat) (va : Nat) : Statement (.tableWalk cluster part va) :=
  fun _ => Nat.two_pow_pos 64
theorem tlbiPerform (op : Nat) : Statement (.tlbiPerform op) := fun _ => Nat.two_pow_pos 64
theorem descriptorFetch (cluster : Nat) (stream : Nat) : Statement (.descriptorFetch cluster stream) :=
  fun _ => Nat.two_pow_pos 64
theorem streamStepStart (cluster : Nat) (stream : Nat) : Statement (.streamStepStart cluster stream) :=
  fun _ => Nat.two_pow_pos 64
theorem codeLineFetch (core : Nat) (line : Nat) : Statement (.codeLineFetch core line) := fun _ => Nat.two_pow_pos 64
theorem metadataFetch (core : Nat) (rec : Nat) : Statement (.metadataFetch core rec) := fun _ => Nat.two_pow_pos 64
theorem deadlineExpiry (core : Nat) : Statement (.deadlineExpiry core) := fun _ => Nat.two_pow_pos 64
theorem handlerEnd (core : Nat) : Statement (.handlerEnd core) := fun _ => Nat.two_pow_pos 64
theorem svreqWrite (core : Nat) (v : BitVec 16) : Statement (.svreqWrite core v) := fun _ => Nat.two_pow_pos 64
theorem preemptRequest (core : Nat) : Statement (.preemptRequest core) := fun _ => Nat.two_pow_pos 64
theorem debugHaltRequest (core : Nat) : Statement (.debugHaltRequest core) := fun _ => Nat.two_pow_pos 64
theorem debugRelease (core : Nat) : Statement (.debugRelease core) := fun _ => Nat.two_pow_pos 64
theorem snapshotComplete (core : Nat) : Statement (.snapshotComplete core) := fun _ => Nat.two_pow_pos 64
theorem contextSave (core : Nat) : Statement (.contextSave core) := fun _ => Nat.two_pow_pos 64
theorem contextRestore (core : Nat) : Statement (.contextRestore core) := fun _ => Nat.two_pow_pos 64
theorem slotWindowClose (region : Nat) : Statement (.slotWindowClose region) := fun _ => Nat.two_pow_pos 64
theorem latchPresentation (region : Nat) : Statement (.latchPresentation region) := fun _ => Nat.two_pow_pos 64
theorem sourceLoss (source : Nat) : Statement (.sourceLoss source) := fun _ => Nat.two_pow_pos 64
theorem regionStop (region : Nat) : Statement (.regionStop region) := fun _ => Nat.two_pow_pos 64
theorem regionRestart (region : Nat) : Statement (.regionRestart region) := fun _ => Nat.two_pow_pos 64
theorem frameBoundary (region : Nat) : Statement (.frameBoundary region) := fun _ => Nat.two_pow_pos 64
theorem historySlotAdvance (xing : Nat) : Statement (.historySlotAdvance xing) := fun _ => Nat.two_pow_pos 64
theorem crossingCompute (xing : Nat) : Statement (.crossingCompute xing) := fun _ => Nat.two_pow_pos 64
theorem timetableRelease (region : Nat) : Statement (.timetableRelease region) := fun _ => Nat.two_pow_pos 64
theorem stallEndRelease (region : Nat) : Statement (.stallEndRelease region) := fun _ => Nat.two_pow_pos 64
theorem entrySkip (region : Nat) : Statement (.entrySkip region) := fun _ => Nat.two_pow_pos 64
theorem slip (region : Nat) : Statement (.slip region) := fun _ => Nat.two_pow_pos 64
theorem launchRelease (obj : Nat) : Statement (.launchRelease obj) := fun _ => Nat.two_pow_pos 64
theorem triggerCount (core : Nat) : Statement (.triggerCount core) := fun _ => Nat.two_pow_pos 64
theorem unitCount (core : Nat) : Statement (.unitCount core) := fun _ => Nat.two_pow_pos 64
theorem completionCounterUpdate (obj : Nat) : Statement (.completionCounterUpdate obj) := fun _ => Nat.two_pow_pos 64
theorem launchComplete (obj : Nat) : Statement (.launchComplete obj) := fun _ => Nat.two_pow_pos 64
theorem graphComplete (obj : Nat) : Statement (.graphComplete obj) := fun _ => Nat.two_pow_pos 64
theorem phaseComplete (obj : Nat) : Statement (.phaseComplete obj) := fun _ => Nat.two_pow_pos 64
theorem jobComplete (obj : Nat) : Statement (.jobComplete obj) := fun _ => Nat.two_pow_pos 64
theorem watchdogPreempt (obj : Nat) : Statement (.watchdogPreempt obj) := fun _ => Nat.two_pow_pos 64
theorem watchdogKill (obj : Nat) : Statement (.watchdogKill obj) := fun _ => Nat.two_pow_pos 64
theorem watchdogFence (obj : Nat) : Statement (.watchdogFence obj) := fun _ => Nat.two_pow_pos 64
theorem reexecutionRelease (obj : Nat) : Statement (.reexecutionRelease obj) := fun _ => Nat.two_pow_pos 64
theorem wheelSlot (chan : Nat) : Statement (.wheelSlot chan) := fun _ => Nat.two_pow_pos 64
theorem wheelRevolution (chan : Nat) : Statement (.wheelRevolution chan) := fun _ => Nat.two_pow_pos 64
theorem kilnMapWrite (chan : Nat) (bank : Nat) (v : BitVec 256) : Statement (.kilnMapWrite chan bank v) :=
  fun _ => Nat.two_pow_pos 64
theorem kilnChstWrite (chan : Nat) (woff : BitVec 32) : Statement (.kilnChstWrite chan woff) := fun _ => Nat.two_pow_pos 64
theorem reducerContribution (req : Nat) : Statement (.reducerContribution req) := fun _ => Nat.two_pow_pos 64
theorem reducerResultWrite (round : Nat) : Statement (.reducerResultWrite round) := fun _ => Nat.two_pow_pos 64
theorem rdcownWrite (reducer : Nat) (v : BitVec 128) : Statement (.rdcownWrite reducer v) := fun _ => Nat.two_pow_pos 64
theorem partdescWrite (part : Nat) (desc : BitVec 1024) : Statement (.partdescWrite part desc) := fun _ => Nat.two_pow_pos 64
theorem ptrootWrite (part : Nat) (v : Word) : Statement (.ptrootWrite part v) := fun _ => Nat.two_pow_pos 64
theorem groupSweepDone (part : Nat) : Statement (.groupSweepDone part) := fun _ => Nat.two_pow_pos 64
theorem keyload (slot : Nat) (pair : BitVec 512) : Statement (.keyload slot pair) := fun _ => Nat.two_pow_pos 64
theorem keyRevoke (slot : Nat) : Statement (.keyRevoke slot) := fun _ => Nat.two_pow_pos 64
theorem patrolScrub (pa : ErrAt) (err : Fin 3) : Statement (.patrolScrub pa err) := fun _ => Nat.two_pow_pos 64
theorem loadqBind (entry : Nat) : Statement (.loadqBind entry) := fun _ => Nat.two_pow_pos 64
theorem loadqUnbind (entry : Nat) : Statement (.loadqUnbind entry) := fun _ => Nat.two_pow_pos 64
theorem loadqReservedOp (entry : Nat) : Statement (.loadqReservedOp entry) := fun _ => Nat.two_pow_pos 64
theorem attqRequest (v : Word) : Statement (.attqRequest v) := fun _ => Nat.two_pow_pos 64
theorem featAcceptWrite (v : BitVec 128) : Statement (.featAcceptWrite v) := fun _ => Nat.two_pow_pos 64
theorem packageReset : Statement (.packageReset) := fun _ => Nat.two_pow_pos 64
theorem energyMicrosecond : Statement (.energyMicrosecond) := fun _ => Nat.two_pow_pos 64
theorem energyWindowEnd : Statement (.energyWindowEnd) := fun _ => Nat.two_pow_pos 64
theorem ebudgetWrite (part : Nat) (v : Word) : Statement (.ebudgetWrite part v) := fun _ => Nat.two_pow_pos 64
theorem fwlWrite (die : Nat) (wl : Nat) (v : Word) : Statement (.fwlWrite die wl v) := fun _ => Nat.two_pow_pos 64
theorem jobSlotWrite (die : Nat) (slot : Nat) (rec : BitVec 256) : Statement (.jobSlotWrite die slot rec) :=
  fun _ => Nat.two_pow_pos 64
theorem messageDelivery (msg : Nat) : Statement (.messageDelivery msg) := fun _ => Nat.two_pow_pos 64
theorem messageLoss (msg : Nat) : Statement (.messageLoss msg) := fun _ => Nat.two_pow_pos 64
theorem lossNoticeArrival (msg : Nat) : Statement (.lossNoticeArrival msg) := fun _ => Nat.two_pow_pos 64
theorem partialMessageDiscard (msg : Nat) : Statement (.partialMessageDiscard msg) := fun _ => Nat.two_pow_pos 64
theorem linkLoss (link : Nat) : Statement (.linkLoss link) := fun _ => Nat.two_pow_pos 64
theorem waveStart (job : Nat) : Statement (.waveStart job) := fun _ => Nat.two_pow_pos 64
theorem waveDownFlit (job : Nat) (die : Nat) : Statement (.waveDownFlit job die) := fun _ => Nat.two_pow_pos 64
theorem wavePass2Start (job : Nat) : Statement (.wavePass2Start job) := fun _ => Nat.two_pow_pos 64
theorem waveResultArrival (job : Nat) (die : Nat) : Statement (.waveResultArrival job die) := fun _ => Nat.two_pow_pos 64
theorem managementRegisterWrite (reg : MgmtReg) (v : BitVec 128) : Statement (.managementRegisterWrite reg v) :=
  fun _ => Nat.two_pow_pos 64
theorem fencedCoreReset (core : Nat) : Statement (.fencedCoreReset core) := fun _ => Nat.two_pow_pos 64
theorem waveResultSend (job : Nat) : Statement (.waveResultSend job) := fun _ => Nat.two_pow_pos 64
theorem afgainSet (g : Guard) (acc : Fin 4) (row : Option (Fin 64)) (a : VOp) : Statement (.afgainSet g acc row a) :=
  fun _ => encGain_lt g acc a row (by decide)
theorem afgainMul (g : Guard) (acc : Fin 4) (row : Option (Fin 64)) (a : VOp) : Statement (.afgainMul g acc row a) :=
  fun _ => encGain_lt g acc a row (by decide)
theorem afgainMix (g : Guard) (acc : Fin 4) (row : Option (Fin 64)) (a : VOp) : Statement (.afgainMix g acc row a) :=
  fun _ => encGain_lt g acc a row (by decide)
theorem afgainAdd (g : Guard) (acc : Fin 4) (row : Option (Fin 64)) (a : VOp) : Statement (.afgainAdd g acc row a) :=
  fun _ => encGain_lt g acc a row (by decide)
theorem cpyRd (g : Guard) (d : SDst) (pol : Fin 8) (bar : Option (Fin 64)) (a b c : SOp) :
    Statement (.cpyRd g d pol bar a b c) :=
  fun _ => encC_lt g d pol (by decide) (by simp) (by simp) (by simp) (encBar_lt _ bar (by decide))
theorem cpyWr (g : Guard) (d : SDst) (pol : Fin 8) (bar : Option (Fin 64)) (a b c : SOp) :
    Statement (.cpyWr g d pol bar a b c) :=
  fun _ => encC_lt g d pol (by decide) (by simp) (by simp) (by simp) (encBar_lt _ bar (by decide))
theorem cpyo (g : Guard) (d : SDst) (pol : Fin 8) (bar : Option (Fin 64)) (a b c : SOp) :
    Statement (.cpyo g d pol bar a b c) :=
  fun _ => encC_lt g d pol (by decide) (by simp) (by simp) (by simp) (encBar_lt _ bar (by decide))
theorem cpya (g : Guard) (d : SDst) (pol : Fin 8) (bar : Option (Fin 64)) (a b c : SOp) :
    Statement (.cpya g d pol bar a b c) :=
  fun _ => encC_lt g d pol (by decide) (by simp) (by simp) (by simp) (encBar_lt _ bar (by decide))
theorem mcast (g : Guard) (d : SDst) (pol : Fin 8) (bar : Option (Fin 64)) (a b c : SOp) :
    Statement (.mcast g d pol bar a b c) :=
  fun _ => encC_lt g d pol (by decide) (by simp) (by simp) (by simp) (encBar_lt _ bar (by decide))
theorem mcastOps (g : Guard) (d : SDst) (pol : Fin 8) (bar : Option (Fin 64)) (a b c : SOp) :
    Statement (.mcastOps g d pol bar a b c) :=
  fun _ => encC_lt g d pol (by decide) (by simp) (by simp) (by simp) (encBar_lt _ bar (by decide))
theorem gath (g : Guard) (d : SDst) (pol : Fin 8) (bar : Option (Fin 64)) (a b c : SOp) :
    Statement (.gath g d pol bar a b c) :=
  fun _ => encC_lt g d pol (by decide) (by simp) (by simp) (by simp) (encBar_lt _ bar (by decide))
theorem scat (g : Guard) (d : SDst) (pol : Fin 8) (bar : Option (Fin 64)) (a b c : SOp) :
    Statement (.scat g d pol bar a b c) :=
  fun _ => encC_lt g d pol (by decide) (by simp) (by simp) (by simp) (encBar_lt _ bar (by decide))
theorem cpytRd (g : Guard) (d : SDst) (pol : Fin 8) (bar : Option (Fin 64)) (a b : SOp) :
    Statement (.cpytRd g d pol bar a b) :=
  fun _ => encC_lt g d pol (by decide) (by simp) (by simp) (by simp) (encBar_lt _ bar (by decide))
theorem cpytWr (g : Guard) (d : SDst) (pol : Fin 8) (bar : Option (Fin 64)) (a b : SOp) :
    Statement (.cpytWr g d pol bar a b) :=
  fun _ => encC_lt g d pol (by decide) (by simp) (by simp) (by simp) (encBar_lt _ bar (by decide))
theorem sourceEdge (source : Nat) (samples : List (Nat × BitVec 32)) :
    Statement (.sourceEdge source samples) := fun _ => Nat.two_pow_pos 64

end Sys2Proof.Laws.WordFits
end

