-- ==== Sys2Proof/Laws/Stops.lean ====
section
/-! SUPPORT. What taking a stop and returning from one can do, and the writes of physical memory and of the rings (spec/09 R171, R174;
spec/12 R224, R228; spec/18 R302, R315). -/

namespace Sys2Proof.Machine

/-! ### Physical memory -/

/-- What a write of physical memory may change of a state `s` that becomes `t`: memory with its tags and poison; canonical memory
stays canonical. -/
structure MemOnly (s t : State) : Prop where
  rest : t = { s with mem := t.mem, ftags := t.ftags, tags := t.tags, poison := t.poison }
  wf   : Memory.wf s.mem = true → Memory.wf t.mem = true

theorem MemOnly.refl (s : State) : MemOnly s s := ⟨rfl, id⟩

theorem MemOnly.trans {s t u : State} (h : MemOnly s t) (h' : MemOnly t u) : MemOnly s u where
  rest := h'.rest.trans
    (congrArg (fun x : State => { x with mem := u.mem, ftags := u.ftags, tags := u.tags, poison := u.poison }) h.rest)
  wf := h'.wf ∘ h.wf

theorem retag_frame (s : State) (k u : Nat) : MemOnly s (retag s k u) := by
  unfold retag
  dsimp only
  repeat' split
  · exact ⟨rfl, id⟩
  · exact .refl s
  · exact ⟨rfl, Memory.wf_mWriteN _ _⟩

/-- A write at a home changes memory, its tags and its poison only, and keeps the canonical form. -/
theorem physWrite_frame (s : State) (key : Option Nat) (pa : Nat) (bs : List Byte) (whole : Bool) :
    MemOnly s (physWrite s key pa bs whole) := by
  cases key with
  | none => exact ⟨rfl, Memory.wf_mWriteN _ _⟩
  | some k => exact (retag_frame s k (pa / 64)).trans ⟨rfl, Memory.wf_mWriteN _ _⟩

theorem physWritesN_frame (fuel : Nat) (s : State) (key : Option Nat) (pa : Nat) (bs : List Byte) :
    MemOnly s (physWritesN fuel s key pa bs) := by
  induction fuel generalizing s pa bs with
  | zero => exact .refl s
  | succ n ih =>
    unfold physWritesN
    split
    · exact .refl s
    · exact (physWrite_frame s key pa _ false).trans (ih ..)

/-- The same for a write of any length. -/
theorem physWriteN_frame (s : State) (key : Option Nat) (pa : Nat) (bs : List Byte) : MemOnly s (physWriteN s key pa bs) :=
  (physWritesN_frame _ s key pa bs).trans ⟨rfl, id⟩

/-- The same for a write of whole units (R176). -/
theorem physRange_frame (s : State) (k pa n : Nat) (new : SMap Byte) : MemOnly s (physRange s k pa n new) :=
  ⟨rfl, Memory.wf_splice pa n new⟩

/-! ### Cached lines that are lost -/

/-- Lost lines keep the canonical form of memory. -/
theorem dropCached_wf (f : Nat → Bool) (s : State) (h : Memory.wf s.mem = true) : Memory.wf (dropCached f s).mem = true := by
  unfold dropCached
  dsimp only
  generalize List.filter _ _ = us
  generalize s.mem = m at h
  induction us generalizing m with
  | nil => exact h
  | cons u us ih => exact ih _ (Memory.wf_mWriteN _ _ h)

/-! ### Packets -/

/-- What a packet of an engine may change: the channels. -/
def ChanOnly (s t : State) : Prop := t = { s with chans := t.chans }

theorem ChanOnly.trans {s t u : State} (h : ChanOnly s t) (h' : ChanOnly t u) : ChanOnly s u :=
  Eq.trans h' (congrArg (fun x : State => { x with chans := u.chans }) h)

theorem postPacket_frame (s : State) (ch : Nat) (p : Packet) : ChanOnly s (postPacket s ch p) := by
  unfold postPacket
  dsimp only
  split <;> rfl

/-- An engine's own packets change the channels only. -/
theorem postOwn_frame (s : State) (core part req line pa : Nat) : ChanOnly s (postOwn s core part req line pa) := by
  unfold postOwn
  split
  · rfl
  · exact (postPacket_frame ..).trans (postPacket_frame ..)

theorem postOwns_frame (f : Nat → Nat × Nat × Nat × Nat × Nat) (l : List Nat) (s : State) :
    ChanOnly s (l.foldl (fun s a => postOwn s (f a).1 (f a).2.1 (f a).2.2.1 (f a).2.2.2.1 (f a).2.2.2.2) s) := by
  induction l generalizing s with
  | nil => rfl
  | cons a l ih => exact (postOwn_frame ..).trans (ih _)

theorem postWalk_frame (cl p va : Nat) (s : State) : ChanOnly s (postWalk cl p va s) :=
  postOwns_frame (fun a => (16 * cl, p, 1024, a / 256, a)) _ s

/-! ### Rings -/

/-- What a record may change: memory with its tags and poison, and partitions; canonical memory stays canonical. -/
structure RecordOnly (s t : State) : Prop where
  rest : t = { s with mem := t.mem, ftags := t.ftags, tags := t.tags, poison := t.poison, parts := t.parts }
  wf   : Memory.wf s.mem = true → Memory.wf t.mem = true

theorem RecordOnly.trans {s t u : State} (h : RecordOnly s t) (h' : RecordOnly t u) : RecordOnly s u where
  rest := h'.rest.trans (congrArg (fun x : State =>
    { x with mem := u.mem, ftags := u.ftags, tags := u.tags, poison := u.poison, parts := u.parts }) h.rest)
  wf := h'.wf ∘ h.wf

theorem MemOnly.setPart {s t : State} (h : MemOnly s t) (n : Nat) (x : Part) : RecordOnly s (setPart t n x) where
  rest := (congrArg (fun y : State => { y with parts := smPut t.parts n x }) h.rest :)
  wf := h.wf

/-- A record changes memory and its partition only, and keeps the canonical form. -/
theorem eventRecord_frame (p code r f v : Nat) (s : State) :
    RecordOnly s (eventRecord p code r f v s) := by
  unfold eventRecord
  dsimp only
  split
  · exact ⟨rfl, id⟩
  · exact (physWriteN_frame ..).setPart _ _

theorem errorRecord_frame (p k c o e r n a : Nat) (va : Option Nat) (s : State) :
    RecordOnly s (errorRecord p k c o e r n a va s) := by
  unfold errorRecord
  dsimp only
  split
  · exact ⟨rfl, id⟩
  · exact (physWriteN_frame ..).setPart _ _

/-! ### Translation -/

/-- What a translation may change: the translation buffers and the channels. -/
def WalkOnly (s t : State) : Prop := t = { s with twes := t.twes, chans := t.chans }

theorem ChanOnly.walk {s t : State} (h : ChanOnly s t) (x : SMap Twe) : WalkOnly s { t with twes := x } :=
  (congrArg (fun y : State => { y with twes := x }) h :)

theorem walkFill_frame (s : State) (cl p bit va : Nat) : WalkOnly s (walkFill s cl p bit va).1 := by
  unfold walkFill
  dsimp only
  split <;> exact (postWalk_frame cl p va s).walk _

/-- A translation changes at most the translation buffer of the cluster's engine and the channels. -/
theorem translate_frame (s : State) (cl p bit va : Nat) : WalkOnly s (translate s cl p bit va).1 := by
  unfold translate
  repeat' split
  all_goals first | rfl | exact walkFill_frame ..

theorem pinnedAt_frame (s : State) (c bit va n : Nat) : WalkOnly s (pinnedAt s c bit va n).1 := by
  have h := translate_frame s (c / 16) (corePart s c) bit va
  unfold pinnedAt
  split <;> simp_all only

/-! ### Stops -/

/-- The freeze of R171 changes its core only. -/
theorem getCore_freeze_ne (s : State) (c m : Nat) (e : Cause) (h : m ≠ c) : getCore (freeze c e s) m = getCore s m :=
  getCore_setCore_ne _ _ _ _ h

@[simp] theorem freeze_run (s : State) (c : Nat) (e : Cause) : (getCore (freeze c e s) c).run = .held e := by
  unfold freeze; rw [getCore_setCore]

/-- What of a state no stop of core `c` touches; and its memory stays canonical. -/
structure StopOnly (c : Nat) (s t : State) : Prop where
  cores : ∀ n, n ≠ c → getCore t n = getCore s n
  wf    : Memory.wf s.mem = true → Memory.wf t.mem = true
  host  : t.host = s.host
  store : t.store = s.store

theorem StopOnly.trans {c : Nat} {s t u : State} (h : StopOnly c s t) (h' : StopOnly c t u) : StopOnly c s u :=
  ⟨fun n hn => (h'.cores n hn).trans (h.cores n hn), h'.wf ∘ h.wf, h'.host.trans h.host, h'.store.trans h.store⟩

theorem stopOnly_setCore (c : Nat) (s : State) (k : Core) : StopOnly c s (setCore s c k) :=
  ⟨fun n hn => getCore_setCore_ne s c n k hn, id, rfl, rfl⟩

theorem RecordOnly.stop {s t : State} (h : RecordOnly s t) (c : Nat) : StopOnly c s t :=
  ⟨fun n _ => (congrArg (fun x => getCore x n) h.rest :), h.wf, (congrArg State.host h.rest :), (congrArg State.store h.rest :)⟩

theorem MemOnly.stop {s t : State} (h : MemOnly s t) (c : Nat) : StopOnly c s t :=
  ⟨fun n _ => (congrArg (fun x => getCore x n) h.rest :), h.wf, (congrArg State.host h.rest :), (congrArg State.store h.rest :)⟩

theorem ChanOnly.stop {s t : State} (h : ChanOnly s t) (c : Nat) : StopOnly c s t where
  cores := fun n _ => (congrArg (fun x => getCore x n) h :)
  wf := fun hm => (congrArg (fun x : State => Memory.wf x.mem) h :).trans hm
  host := (congrArg State.host h :)
  store := (congrArg State.store h :)

theorem WalkOnly.stop {s t : State} (h : WalkOnly s t) (c : Nat) : StopOnly c s t where
  cores := fun n _ => (congrArg (fun x => getCore x n) h :)
  wf := fun hm => (congrArg (fun x : State => Memory.wf x.mem) h :).trans hm
  host := (congrArg State.host h :)
  store := (congrArg State.store h :)

theorem RecordOnly.core {s t : State} (h : RecordOnly s t) (c : Nat) : getCore t c = getCore s c :=
  (congrArg (fun x => getCore x c) h.rest :)
theorem MemOnly.core {s t : State} (h : MemOnly s t) (c : Nat) : getCore t c = getCore s c :=
  (congrArg (fun x => getCore x c) h.rest :)
theorem ChanOnly.core {s t : State} (h : ChanOnly s t) (c : Nat) : getCore t c = getCore s c :=
  (congrArg (fun x => getCore x c) h :)
theorem WalkOnly.core {s t : State} (h : WalkOnly s t) (c : Nat) : getCore t c = getCore s c :=
  (congrArg (fun x => getCore x c) h :)

/-- A double fault fences its core and writes two records (R228, R294). -/
theorem doubleFault_eq (c : Nat) (o : Cause) (e r : Nat) (va : Option Nat) (s : State) :
    ∃ k t, doubleFault c o e r va s = due [.unitCount c] t ∧ RecordOnly (setCore s c k) t ∧ k.run = .fenced := by
  unfold doubleFault
  dsimp only
  exact ⟨_, _, rfl, (errorRecord_frame ..).trans (eventRecord_frame ..), rfl⟩

/-- It changes no other core. -/
theorem doubleFault_frame (c : Nat) (o : Cause) (e r : Nat) (va : Option Nat) (s : State) :
    StopOnly c s (doubleFault c o e r va s) ∧ (getCore (doubleFault c o e r va s) c).run = .fenced := by
  obtain ⟨k, t, h, hr, hk⟩ := doubleFault_eq c o e r va s
  rw [h]
  have ht := (stopOnly_setCore c s k).trans (hr.stop c)
  refine ⟨⟨ht.cores, ht.wf, ht.host, ht.store⟩, ?_⟩
  show (getCore t c).run = _
  rw [hr.core, getCore_setCore, hk]

/-- The record of a stop, or the double fault that its failure is, changes no other core and keeps the canonical form of memory; the core
goes on as it was or is fenced. -/
theorem writeRecord_frame (c : Nat) (e : Stop) (s : State) :
    StopOnly c s (writeRecord c e s) ∧
    ((getCore (writeRecord c e s) c).run = (getCore s c).run ∨ (getCore (writeRecord c e s) c).run = .fenced) := by
  have h := pinnedAt_frame s c 2 (getCore s c).ctx.traprec.toNat 128
  unfold writeRecord
  dsimp only
  split
  · rename_i s1 r heq
    rw [show pinnedAt s c 2 (getCore s c).ctx.traprec.toNat 128 = _ from heq] at h
    exact ⟨(h.stop c).trans (doubleFault_frame ..).1, .inr (doubleFault_frame ..).2⟩
  · rename_i s1 x heq
    rw [show pinnedAt s c 2 (getCore s c).ctx.traprec.toNat 128 = _ from heq] at h
    have hw := physWriteN_frame (setCore s1 c { getCore s1 c with
      ctx := { (getCore s c).ctx with rcount := (getCore s c).ctx.rcount + 1 } }) (some x.key) x.pa
      (leBytes 128 (trapRecord s1 c { (getCore s c).ctx with rcount := (getCore s c).ctx.rcount + 1 } e))
    have hp := fun u => postOwn_frame u c (corePart s1 c) c ((getCore s c).ctx.traprec.toNat / 256) x.pa
    refine ⟨(h.stop c).trans ((stopOnly_setCore ..).trans ((hw.stop c).trans ((hp _).stop c))), .inl ?_⟩
    rw [(hp _).core, hw.core, getCore_setCore]
    exact (congrArg Core.run (h.core c) :)

/-- TAKING A STOP: it changes no other core, and keeps the canonical form of memory; the core is held with the cause of the stop, or
fenced. -/
theorem takeStop_frame (c : Nat) (e : Stop) (s : State) :
    StopOnly c s (takeStop c e s) ∧
    ((getCore (takeStop c e s) c).run = .held e.cause ∨ (getCore (takeStop c e s) c).run = .fenced) := by
  unfold takeStop
  split
  · exact ⟨(doubleFault_frame ..).1, .inr (doubleFault_frame ..).2⟩
  · have h := writeRecord_frame c e (freeze c e.cause s)
    rw [freeze_run] at h
    have hs : StopOnly c s (writeRecord c e (freeze c e.cause s)) := (stopOnly_setCore c s _).trans h.1
    dsimp only
    split
    · have hr := errorRecord_frame (corePart (writeRecord c e (freeze c e.cause s)) c) 1 0x30 0 e.engine e.reason
        c (if e.engine ≤ 3 ∨ e.va.isNone then 0 else errSector s (c / 16) (corePart s c) 0 e.reason (e.va.getD 0)) e.va
        (writeRecord c e (freeze c e.cause s))
      refine ⟨hs.trans (hr.stop c), ?_⟩
      rw [hr.core]
      exact h.2
    · exact ⟨hs, h.2⟩

/-- RETURNING FROM A STOP changes its core only, which runs. -/
theorem getCore_resume_ne (s : State) (c m : Nat) (h : m ≠ c) : getCore (resumeCore c s) m = getCore s m :=
  getCore_setCore_ne _ _ _ _ h

@[simp] theorem resume_run (s : State) (c : Nat) : (getCore (resumeCore c s) c).run = .running := by
  unfold resumeCore; rw [getCore_setCore]

@[simp] theorem resume_ctx (s : State) (c : Nat) : (getCore (resumeCore c s) c).ctx = replayCtx (getCore s c).ctx := by
  unfold resumeCore; rw [getCore_setCore]

@[simp] theorem resume_mem (s : State) (c : Nat) : (resumeCore c s).mem = s.mem := rfl

end Sys2Proof.Machine
end

