-- ==== Sys2Proof/Tests/Slice0.lean ====
section
/-! SUPPORT. Tests: what WellFormed refuses, words of every instruction, small steps, and witnesses for the statements. -/

namespace Sys2Proof.Tests

set_option Elab.async false

open Sys2Proof Sys2Proof.Machine

/-- The guard that always reads 1, and the negated guard of `p5`. -/
def on : Guard := ⟨0, false⟩
def off5 : Guard := ⟨5, true⟩

/-! ### WellFormed refuses -/

theorem test_wf_bundles :
    (Instr.issueDictionaryBundle 2048).wf = false ∧ (Instr.issueLiteralBundle 0xA003 [0]).wf = false ∧
    (Instr.annulledBundle (.dict 2048)).wf = false := by decide

theorem test_wf_scalar :
    (Instr.sext on .belt .one 0).wf = false ∧ (Instr.zext on .belt .one 65).wf = false ∧
    (Instr.bfx on .belt .one 40 25).wf = false ∧ (Instr.bfi on .belt .one .one 64 1).wf = false ∧
    (Instr.cmp on .uo 1 .one .one).wf = false ∧ (Instr.cmpi on .uo 1 .one 0).wf = false ∧
    (Instr.mwait on .belt .uo .one .one .one).wf = false ∧ (Instr.lnchSelf on .belt 5).wf = false ∧
    (Instr.eget on .belt 5).wf = false := by decide

theorem test_wf_vector :
    (Instr.vadd on .belt .f32 .vzero .vzero).wf = false ∧ (Instr.vwmul on .belt .i64 false false .vzero .vzero).wf = false ∧
    (Instr.vnarrow on .belt .i16 32 false .ne false .vzero .vzero).wf = false ∧
    (Instr.vshl on .belt .i16 .vzero (.imm 16)).wf = false ∧ (Instr.vshr on .belt .bf16 .vzero (.reg .vzero)).wf = false ∧
    (Instr.vcmp on .belt .uo .i8 .vzero .vzero).wf = false ∧ (Instr.vsel on .belt .e4m3 .vzero .vzero .vzero).wf = false ∧
    (Instr.vfadd on .belt .i8 .ne .vzero .vzero).wf = false ∧ (Instr.vfcmp on .belt .ltz .f32 .vzero .vzero).wf = false ∧
    (Instr.vrcp on .belt .f64 .ne .vzero).wf = false ∧ (Instr.vfcvt on .belt .i8 .i16 false 0 .ne false .vzero).wf = false ∧
    (Instr.vfcvt on .belt .f32 .bf16 true 0 .ne false .vzero).wf = false ∧
    (Instr.vfcvt on .belt .f32 .bf16 false 2 .ne false .vzero).wf = false ∧ (Instr.vqmx on .belt .f32 .f32 .vzero).wf = false ∧
    (Instr.vdqmx on .belt .f64 .e4m3 .ne false .vzero).wf = false := by decide

theorem test_wf_movement :
    (Instr.vperm on .belt .f32 false .vzero .vzero .vzero).wf = false ∧ (Instr.vslide on .belt .i16 128 .vzero .vzero).wf = false ∧
    (Instr.vbcastScalar on .belt .e2m1 .one).wf = false ∧ (Instr.vbcastImm on .belt .bf16 0x10000).wf = false ∧
    (Instr.vins on .belt .i32 .vzero .one (.imm 64)).wf = false ∧ (Instr.vext on .belt .e4m3 .vzero (.reg .one)).wf = false ∧
    (Instr.vred on .belt .xor .f32 .ne .vzero).wf = false ∧ (Instr.vscan on .belt .add .i32 .tz .vzero none).wf = false ∧
    (Instr.vldg on .belt .e2m1 .one 0 .vzero .one).wf = false := by decide

theorem test_wf_matrix :
    (Instr.owr on .side 0 17 .vzero).wf = false ∧ (Instr.ordv on .belt .lo 0 64).wf = false ∧
    (Instr.mma on .e4m3 0 0 0 0 0).wf = false ∧ (Instr.mma on .bf16 0 0 0 1 63).wf = false ∧
    (Instr.mmab on .e2m1 0 0 0 8).wf = false ∧ (Instr.scacc on .bf16 0 0 0 0 0).wf = false ∧
    (Instr.mmas on .e4m3 (.tile 0 0 0) 0 0).wf = false ∧ (Instr.mmas on .bf16 (.tile 0 0 0) 0 23).wf = false ∧
    (Instr.afscan on 0 0).wf = false ∧ (Instr.afcomp on 0 65).wf = false ∧
    (Instr.tlbiAll on .belt 0 .core .one).wf = false := by decide

theorem test_wf_units :
    (Instr.resultLanding 1024).wf = false ∧ (Instr.descriptorFetch 64 0).wf = false ∧ (Instr.streamStepStart 0 16).wf = false ∧
    (Instr.tableWalk 0 16 0).wf = false ∧ (Instr.sourceLoss 32).wf = false ∧ (Instr.regionStop 32).wf = false ∧
    (Instr.crossingCompute 64).wf = false ∧ (Instr.wheelSlot 512).wf = false ∧ (Instr.rdcownWrite 16 0).wf = false ∧
    (Instr.partdescWrite 16 0).wf = false ∧ (Instr.keyRevoke 256).wf = false ∧ (Instr.jobSlotWrite 4 0 0).wf = false ∧
    (Instr.waveDownFlit 0 4).wf = false := by decide

theorem test_words_arithmetic :
    decodeSlot true true 0 0x010240DE00000000 = .ok (.add on (.k 2) (.b 1) (.k 31)) ∧
    decodeSlot true true 0 0x020240DE00000000 = .ok (.sub on (.k 2) (.b 1) (.k 31)) ∧
    decodeSlot true true 0 0x040240DE00000000 = .ok (.mul on (.k 2) (.b 1) (.k 31)) ∧
    decodeSlot true true 0 0x050240DE00000000 = .ok (.mulh on (.k 2) (.b 1) (.k 31)) ∧
    decodeSlot true true 0 0x060240DE00000000 = .ok (.mulhz on (.k 2) (.b 1) (.k 31)) ∧
    decodeSlot true true 0 0x070240DE00000000 = .ok (.div on (.k 2) (.b 1) (.k 31)) ∧
    decodeSlot true true 0 0x080240DE00000000 = .ok (.divz on (.k 2) (.b 1) (.k 31)) ∧
    decodeSlot true true 0 0x090240DE00000000 = .ok (.rem on (.k 2) (.b 1) (.k 31)) ∧
    decodeSlot true true 0 0x0A0240DE00000000 = .ok (.remz on (.k 2) (.b 1) (.k 31)) ∧
    decodeSlot true true 0 0x0B0240DE00000000 = .ok (.min on (.k 2) (.b 1) (.k 31)) ∧
    decodeSlot true true 0 0x0C0240DE00000000 = .ok (.max on (.k 2) (.b 1) (.k 31)) ∧
    decodeSlot true true 0 0x0D0240DE00000000 = .ok (.minz on (.k 2) (.b 1) (.k 31)) ∧
    decodeSlot true true 0 0x0E0240DE00000000 = .ok (.maxz on (.k 2) (.b 1) (.k 31)) ∧
    decodeSlot true true 0 0x0307F90000000000 = .ok (.neg on .discard .minus1) ∧
    decodeSlot true true 0 0x0F07F90000000000 = .ok (.abs on .discard .minus1) := by decide

theorem test_words_logic :
    decodeSlot true true 0 0x105807E200000000 = .ok (.and off5 .belt (.b 15) .one) ∧
    decodeSlot true true 0 0x115807E200000000 = .ok (.or off5 .belt (.b 15) .one) ∧
    decodeSlot true true 0 0x125807E200000000 = .ok (.xor off5 .belt (.b 15) .one) ∧
    decodeSlot true true 0 0x135807E200000000 = .ok (.andn off5 .belt (.b 15) .one) ∧
    decodeSlot true true 0 0x145807E200000000 = .ok (.orn off5 .belt (.b 15) .one) ∧
    decodeSlot true true 0 0x1500012200000000 = .ok (.shl on .belt (.b 2) (.reg (.k 1))) ∧
    decodeSlot true true 0 0x1500010007E08000 = .ok (.shl on .belt (.b 2) (.imm 63)) ∧
    decodeSlot true true 0 0x1600012200000000 = .ok (.shr on .belt (.b 2) (.reg (.k 1))) ∧
    decodeSlot true true 0 0x1600010007E08000 = .ok (.shr on .belt (.b 2) (.imm 63)) ∧
    decodeSlot true true 0 0x1700012200000000 = .ok (.sar on .belt (.b 2) (.reg (.k 1))) ∧
    decodeSlot true true 0 0x1700010007E08000 = .ok (.sar on .belt (.b 2) (.imm 63)) ∧
    decodeSlot true true 0 0x1800012200000000 = .ok (.rotl on .belt (.b 2) (.reg (.k 1))) ∧
    decodeSlot true true 0 0x1800010007E08000 = .ok (.rotl on .belt (.b 2) (.imm 63)) := by decide

theorem test_words_bits :
    decodeSlot true true 0 0x2000098000000000 = .ok (.clz on .belt (.k 3)) ∧
    decodeSlot true true 0 0x2100098000000000 = .ok (.ctz on .belt (.k 3)) ∧
    decodeSlot true true 0 0x2200098000000000 = .ok (.popc on .belt (.k 3)) ∧
    decodeSlot true true 0 0x2300098000000000 = .ok (.bswap on .belt (.k 3)) ∧
    decodeSlot true true 0 0x2400000001E00000 = .ok (.sext on .belt (.b 0) 16) ∧
    decodeSlot true true 0 0x2500000007E00000 = .ok (.zext on .belt (.b 0) 64) ∧
    decodeSlot true true 0 0x2600000005038000 = .ok (.bfx on .belt (.b 0) 40 8) ∧
    decodeSlot true true 0 0x2702490000818000 = .ok (.bfi on (.k 2) (.k 2) (.b 0) 4 4) := by decide

theorem test_words_moves :
    decodeSlot true true 0 0x3000002800018000 = .ok (.sel on .belt 3 (.b 0) (.k 4)) ∧
    decodeSlot true true 0 0x3102028000000000 = .ok (.mov on (.k 0) (.b 5)) ∧
    decodeSlot true true 0 0x3200088000008000 = .ok (.lea on .belt (.k 1) 0x100) ∧
    decodeSlot true true 0 0x4000007FFFFFFF80 = .ok (.addi on .belt (.b 0) 0xFFFFFFFF) ∧
    decodeSlot true true 0 0x4102400000000180 = .ok (.li on (.k 2) 3) ∧
    decodeSlot true true 0 0x4200000091A2B380 = .ok (.lih on .belt (.b 0) 0x01234567) ∧
    decodeSlot true true 0 0x5001098203000000 = .ok (.cmp on .ltz 2 (.k 3) (.b 1)) ∧
    decodeSlot true true 0 0x5100800000001920 = .ok (.cmpi on .gt 1 (.b 0) 50) ∧
    decodeSlot true true 0 0x52018000008A0000 = .ok (.pand on 3 1 false 2 true) ∧
    decodeSlot true true 0 0x53018000008A0000 = .ok (.por on 3 1 false 2 true) ∧
    decodeSlot true true 0 0x54018000008A0000 = .ok (.pxor on 3 1 false 2 true) ∧
    decodeSlot true true 0 0x5503000003000000 = .ok (.pnot on 6 6 false) := by decide

theorem test_words_memory :
    decodeSlot true true 0 0x6000098007FFFC00 = .ok (.ldB on .belt (.k 3) 0xFFFF8) ∧
    decodeSlot true true 0 0x6100098007FFFC00 = .ok (.ldBz on .belt (.k 3) 0xFFFF8) ∧
    decodeSlot true true 0 0x6200098007FFFC00 = .ok (.ldH on .belt (.k 3) 0xFFFF8) ∧
    decodeSlot true true 0 0x6300098007FFFC00 = .ok (.ldHz on .belt (.k 3) 0xFFFF8) ∧
    decodeSlot true true 0 0x6400098007FFFC00 = .ok (.ldW on .belt (.k 3) 0xFFFF8) ∧
    decodeSlot true true 0 0x6500098007FFFC00 = .ok (.ldWz on .belt (.k 3) 0xFFFF8) ∧
    decodeSlot true true 0 0x6600098007FFFC00 = .ok (.ldD on .belt (.k 3) 0xFFFF8) ∧
    decodeSlot true true 0 0x6800182C00008200 = .ok (.stB on (.k 6) .zero 0x104) ∧
    decodeSlot true true 0 0x6900182C00008200 = .ok (.stH on (.k 6) .zero 0x104) ∧
    decodeSlot true true 0 0x6A00182C00008200 = .ok (.stW on (.k 6) .zero 0x104) ∧
    decodeSlot true true 0 0x6B00182C00008200 = .ok (.stD on (.k 6) .zero 0x104) := by decide

theorem test_words_control :
    decodeSlot true true 0 0x8010000000000440 = .ok (.br ⟨1, false⟩ .tk 8) ∧
    decodeSlot true true 0 0x81000100000002A0 = .ok (.bri on .nt (.b 2) 5) ∧
    decodeSlot true true 0 0x8205E00000008000 = .ok (.call on .plain (.k 31) 0x100) ∧
    decodeSlot true true 0 0x8300178000000000 = .ok (.ret on .plain (.k 31)) ∧
    decodeSlot true true 0 0x8400180000001F84 = .ok (.loop on .zero 63 1) ∧
    decodeSlot true true 0 0x8500007FFFFFF680 = .ok (.loopb on 0xFFFFFFED) ∧
    decodeSlot true true 0 0x9000000000000000 = .ok (.sleepto on (.b 0)) ∧
    decodeSlot true true 0 0x91000A2B90280000 = .ok (.mwait on .belt .ge (.k 4) (.k 5) .minus1) := by decide

theorem test_words_system :
    decodeSlot true true 0 0x9200000000000000 = .ok (.trig on) ∧
    decodeSlot true true 0 0x9300000000000000 = .ok (.exit on) ∧
    decodeSlot true true 0 0x94000BB0C8180000 = .ok (.svc on .belt 3 (.k 7) (.k 8) (.k 9)) ∧
    decodeSlot true true 0 0x9500000007F80000 = .ok (.trap on 0xFF) ∧
    decodeSlot true true 0 0x9600000000000000 = .ok (.rte on) ∧
    decodeSlot true true 0 0x9700000000380000 = .ok (.sget on .belt .tick) ∧
    decodeSlot true true 0 0x9800088000600000 = .ok (.sput on .npc2 (.k 1)) ∧
    decodeSlot true true 0 0x9900000000080000 = .ok (.brk on 1) ∧
    decodeSlot true true 0 0xA00008A780000000 = .ok (.lnch on .belt (.k 1) (.k 3) .zero) ∧
    decodeSlot true true 0 0xA00008A600080000 = .ok (.lnchPh on .belt (.k 1) (.k 3)) ∧
    decodeSlot true true 0 0xA000000000500000 = .ok (.lnchSelf on .belt 2) ∧
    decodeSlot true true 0 0xA100006400000000 = .ok (.join on .belt (.b 0) .minus1) ∧
    decodeSlot true true 0 0xA200008000000000 = .ok (.cancel on .belt (.b 1)) ∧
    decodeSlot true true 0 0xA302800000100000 = .ok (.eget on (.k 4) 2) := by decide

theorem test_words_lanes :
    decodeSlot true true 1 0x0102280601000000 = .ok (.vadd on (.w 1) .i32 (.w 0) (.vb 3)) ∧
    decodeSlot true true 1 0x0202280601000000 = .ok (.vsub on (.w 1) .i32 (.w 0) (.vb 3)) ∧
    decodeSlot true true 1 0x0302280601000000 = .ok (.vmul on (.w 1) .i32 (.w 0) (.vb 3)) ∧
    decodeSlot true true 1 0x0D02280601000000 = .ok (.vmin on (.w 1) .i32 (.w 0) (.vb 3)) ∧
    decodeSlot true true 1 0x0E02280601000000 = .ok (.vmax on (.w 1) .i32 (.w 0) (.vb 3)) ∧
    decodeSlot true true 1 0x0F02280601000000 = .ok (.vminz on (.w 1) .i32 (.w 0) (.vb 3)) ∧
    decodeSlot true true 1 0x1002280601000000 = .ok (.vmaxz on (.w 1) .i32 (.w 0) (.vb 3)) ∧
    decodeSlot true true 1 0x1102280601000000 = .ok (.vand on (.w 1) .i32 (.w 0) (.vb 3)) ∧
    decodeSlot true true 1 0x1202280601000000 = .ok (.vor on (.w 1) .i32 (.w 0) (.vb 3)) ∧
    decodeSlot true true 1 0x1302280601000000 = .ok (.vxor on (.w 1) .i32 (.w 0) (.vb 3)) ∧
    decodeSlot true true 1 0x1402280601000000 = .ok (.vandn on (.w 1) .i32 (.w 0) (.vb 3)) ∧
    decodeSlot true true 1 0x0400008401801000 = .ok (.vmulh on .belt .i64 true (.vb 1) (.vb 2)) ∧
    decodeSlot true true 2 0x0500008498800000 = .ok (.vmac on .belt .i16 (.vb 1) (.vb 2) (.w 3)) ∧
    decodeSlot true true 1 0x0600008400003000 = .ok (.vwmul on .belt .i8 true true (.vb 1) (.vb 2)) ∧
    decodeSlot true true 1 0x07028080A0800000 = .ok (.vwmac on (.w 4) .i16 false false false (.vb 1) (.vb 0) (.w 4)) ∧
    decodeSlot true true 1 0x08000A400090F000 = .ok (.vnarrow on .belt .i16 15 false .ne true (.w 4) .vzero) ∧
    decodeSlot true true 1 0x0900008400001000 = .ok (.vadds on .belt .i8 true (.vb 1) (.vb 2)) ∧
    decodeSlot true true 1 0x0A00008401800000 = .ok (.vsubs on .belt .i64 false (.vb 1) (.vb 2)) ∧
    decodeSlot true true 1 0x0B00008001800000 = .ok (.vabs on .belt .i64 (.vb 1)) ∧
    decodeSlot true true 1 0x0C00008001800000 = .ok (.vneg on .belt .i64 (.vb 1)) ∧
    decodeSlot true true 1 0x1500008401000000 = .ok (.vshl on .belt .i32 (.vb 1) (.reg (.vb 2))) ∧
    decodeSlot true true 1 0x150000800109F000 = .ok (.vshl on .belt .i32 (.vb 1) (.imm 31)) ∧
    decodeSlot true true 1 0x1600008401000000 = .ok (.vshr on .belt .i32 (.vb 1) (.reg (.vb 2))) ∧
    decodeSlot true true 1 0x160000800109F000 = .ok (.vshr on .belt .i32 (.vb 1) (.imm 31)) ∧
    decodeSlot true true 1 0x1700008401000000 = .ok (.vsar on .belt .i32 (.vb 1) (.reg (.vb 2))) ∧
    decodeSlot true true 1 0x170000800109F000 = .ok (.vsar on .belt .i32 (.vb 1) (.imm 31)) ∧
    decodeSlot true true 1 0x180000C001009000 = .ok (.vcmp on .belt .gez .i32 (.vb 1) .vzero) ∧
    decodeSlot true true 1 0x190000841B800000 = .ok (.vsel on .belt .f64 (.vb 1) (.vb 2) (.vb 3)) ∧
    decodeSlot true true 1 0x1A00008000000000 = .ok (.vclz on .belt .i8 (.vb 1)) ∧
    decodeSlot true true 1 0x1B00008000800000 = .ok (.vpopc on .belt .i16 (.vb 1)) := by decide

theorem test_words_floats :
    decodeSlot true true 1 0x2000008403200000 = .ok (.vfadd on .belt .f32 .tz (.vb 1) (.vb 2)) ∧
    decodeSlot true true 1 0x2100008403200000 = .ok (.vfsub on .belt .f32 .tz (.vb 1) (.vb 2)) ∧
    decodeSlot true true 1 0x2200008403200000 = .ok (.vfmul on .belt .f32 .tz (.vb 1) (.vb 2)) ∧
    decodeSlot true true 1 0x23000084FB800000 = .ok (.vfma on .belt .f64 .ne (.vb 1) (.vb 2) (.w 15)) ∧
    decodeSlot true true 1 0x2400008402000000 = .ok (.vfmin on .belt .bf16 (.vb 1) (.vb 2)) ∧
    decodeSlot true true 1 0x2500008402000000 = .ok (.vfmax on .belt .bf16 (.vb 1) (.vb 2)) ∧
    decodeSlot true true 1 0x2600008002800000 = .ok (.vfabs on .belt .f16 (.vb 1)) ∧
    decodeSlot true true 1 0x2700008002800000 = .ok (.vfneg on .belt .f16 (.vb 1)) ∧
    decodeSlot true true 1 0x280000840300A000 = .ok (.vfcmp on .belt .uo .f32 (.vb 1) (.vb 2)) ∧
    decodeSlot true true 1 0x2900008003000000 = .ok (.vrcp on .belt .f32 .ne (.vb 1)) ∧
    decodeSlot true true 1 0x2A00008003000000 = .ok (.vrsqrt on .belt .f32 .ne (.vb 1)) ∧
    decodeSlot true true 1 0x2B00008003000000 = .ok (.vexp2 on .belt .f32 .ne (.vb 1)) ∧
    decodeSlot true true 1 0x2C00008003000000 = .ok (.vlog2 on .belt .f32 .ne (.vb 1)) ∧
    decodeSlot true true 1 0x2D00008003000000 = .ok (.vsigm on .belt .f32 .ne (.vb 1)) ∧
    decodeSlot true true 1 0x2E00008003000000 = .ok (.vtanh on .belt .f32 .ne (.vb 1)) ∧
    decodeSlot true true 1 0x2F00000002006000 = .ok (.vfcvt on .belt .bf16 .f32 false 0 .ne false (.vb 0)) ∧
    decodeSlot true true 1 0x2F00000003024000 = .ok (.vfcvt on .belt .f32 .bf16 false 1 .ne false (.vb 0)) ∧
    decodeSlot true true 1 0x3000008002000000 = .ok (.vamax on .belt .bf16 (.vb 1)) ∧
    decodeSlot true true 1 0x3100008005006000 = .ok (.vqmx on .belt .e2m1 .f32 (.vb 1)) ∧
    decodeSlot true true 1 0x3200008003308000 = .ok (.vdqmx on .belt .f32 .e4m3 .tz true (.vb 1)) := by decide

theorem test_words_movement :
    decodeSlot true true 2 0x4000008418001000 = .ok (.vperm on .belt .i8 true (.vb 1) (.vb 2) (.vb 3)) ∧
    decodeSlot true true 1 0x410000840087F000 = .ok (.vslide on .belt .i16 127 (.vb 1) (.vb 2)) ∧
    decodeSlot true true 1 0x4202498001000000 = .ok (.vbcastScalar on (.w 2) .i32 (.k 3)) ∧
    decodeSlot true true 1 0x4900007FFFFFFE88 = .ok (.vbcastImm on .belt .i16 0xFFFFFFFD) ∧
    decodeSlot true true 1 0x430000800101F800 = .ok (.vins on .belt .i32 (.vb 1) (.b 0) (.imm 63)) ∧
    decodeSlot true true 1 0x4300008089080000 = .ok (.vins on .belt .i32 (.vb 1) (.b 0) (.reg (.k 1))) ∧
    decodeSlot true true 1 0x440000800101F800 = .ok (.vext on .belt .i32 (.vb 1) (.imm 63)) ∧
    decodeSlot true true 2 0x4500008400001000 = .ok (.vzip on .belt .i8 true (.vb 1) (.vb 2)) ∧
    decodeSlot true true 2 0x4600008400000000 = .ok (.vunzip on .belt .i8 false (.vb 1) (.vb 2)) ∧
    decodeSlot true true 2 0x4700008001007000 = .ok (.vred on .belt .xor .i32 .ne (.vb 1)) ∧
    decodeSlot true true 2 0x4800008401008000 = .ok (.vscan on .belt .add .i32 .ne (.vb 1) (some (.vb 2))) ∧
    decodeSlot true true 1 0x5002180000008000 = .ok (.vld on (.w 0) .zero 0x100) ∧
    decodeSlot true true 2 0x5100088207FFFF80 = .ok (.vst on (.vb 1) (.k 1) 0xFFFFF) ∧
    decodeSlot true true 1 0x5200088290000210 = .ok (.vldg on .belt .i32 (.k 1) 4 (.vb 1) (.k 2)) ∧
    decodeSlot true true 1 0x5300088290000218 = .ok (.vsts on .i64 (.vb 1) (.k 1) 4 (.k 2)) := by decide

theorem test_words_streams :
    decodeSlot true true 1 0x6000000001180000 = .ok (.xinL on .belt 3) ∧
    decodeSlot true true 1 0x600000000147F800 = .ok (.xinX on .belt 0xFF) ∧
    decodeSlot true true 1 0x6100000001000800 = .ok (.xoutD on (.vb 0) 1) ∧
    decodeSlot true true 1 0x6100080000880000 = .ok (.xoutW on (.w 0)) ∧
    decodeSlot true true 1 0x6100088001900000 = .ok (.xoutCfg on (.w 1)) ∧
    decodeSlot true true 1 0x6200000001180000 = .ok (.xstatL on .belt 3) ∧
    decodeSlot true true 1 0x6200000001400800 = .ok (.xstatX on .belt 1) := by decide

theorem test_words_matrix :
    decodeSlot true true 3 0x0100010000000000 = .ok (.oclm on 2) ∧
    decodeSlot true true 3 0x02000B8000000000 = .ok (.orls on 23) ∧
    decodeSlot true true 3 0x0300098010380000 = .ok (.owr on .lo 2 7 (.w 3)) ∧
    decodeSlot true true 3 0x0400000011810000 = .ok (.ordv on .belt .side 2 48) ∧
    decodeSlot true true 3 0x1000000180000200 = .ok (.mzero on true 3) ∧
    decodeSlot true true 3 0x11000106827E0000 = .ok (.mma on .bf16 1 2 3 0 63) ∧
    decodeSlot true true 3 0x110001068307E200 = .ok (.mma on .f64 1 2 3 60 3) ∧
    decodeSlot true true 3 0x1200020A41801000 = .ok (.mmab on .e2m1 1 4 5 2) ∧
    decodeSlot true true 3 0x13000107000E4000 = .ok (.mmas on .i8 (.tile 2 8 7) 2 3) ∧
    decodeSlot true true 3 0x1300010640801800 = .ok (.mmas on .e4m3 (.plane 1 3) 2 3) ∧
    decodeSlot true true 3 0x1400020AC1001800 = .ok (.scacc on .e5m2 1 1 4 5 3) ∧
    decodeSlot true true 3 0x20000000022A0000 = .ok (.acrd on .belt .f32 1 5) ∧
    decodeSlot true true 3 0x2100010003FB8000 = .ok (.acwr on .f64hi 1 63 (.vb 2)) ∧
    decodeSlot true true 3 0x2200000004000000 = .ok (.acexpRd on .belt 2) ∧
    decodeSlot true true 3 0x2200090004008000 = .ok (.acexpWr on 2 (.w 2)) ∧
    decodeSlot true true 3 0x2300000100000000 = .ok (.acnorm on 2) ∧
    decodeSlot true true 3 0x2800002400000000 = .ok (.mdpc on (.k 2)) ∧
    decodeSlot true true 3 0x3000090000020000 = .ok (.afgainSet on 0 none (.w 2)) ∧
    decodeSlot true true 3 0x3000100000028000 = .ok (.afgainMul on 0 none .vzero) ∧
    decodeSlot true true 3 0x3000008004290000 = .ok (.afgainMix on 2 (some 5) (.vb 1)) ∧
    decodeSlot true true 3 0x3000088000038000 = .ok (.afgainAdd on 0 none (.w 1)) ∧
    decodeSlot true true 3 0x31000000001E0000 = .ok (.afscan on 0 16) ∧
    decodeSlot true true 3 0x33000001804E0000 = .ok (.afcomp on 3 40) ∧
    decodeSlot true true 3 0x3200000000020000 = .ok (.afcarryRd on .belt .f32 0) ∧
    decodeSlot true true 3 0x3200098002058000 = .ok (.afcarryWr on .gm1 1 (.w 3)) ∧
    decodeSlot true true 3 0x3200098000070000 = .ok (.afcarryWrH on 0 (.w 3)) := by decide

theorem test_words_copies :
    decodeSlot true true 4 0x01000A2AB2860000 = .ok (.cpyRd on .belt 2 (some 3) (.k 4) (.k 5) (.k 6)) ∧
    decodeSlot true true 5 0x01000A2AB0010000 = .ok (.cpyWr on .belt 0 none (.k 4) (.k 5) (.k 6)) ∧
    decodeSlot true true 4 0x02000A2A07FE0000 = .ok (.cpytRd on .belt 7 (some 63) (.k 4) (.k 5)) ∧
    decodeSlot true true 4 0x02000A2A00010000 = .ok (.cpytWr on .belt 0 none (.k 4) (.k 5)) ∧
    decodeSlot true true 4 0x03000A2AB1800000 = .ok (.cpyo on .belt 1 (some 0) (.k 4) (.k 5) (.k 6)) ∧
    decodeSlot true true 4 0x04000A2AB1800000 = .ok (.cpya on .belt 1 (some 0) (.k 4) (.k 5) (.k 6)) ∧
    decodeSlot true true 4 0x06000A2AB1800000 = .ok (.gath on .belt 1 (some 0) (.k 4) (.k 5) (.k 6)) ∧
    decodeSlot true true 4 0x07000A2AB1800000 = .ok (.scat on .belt 1 (some 0) (.k 4) (.k 5) (.k 6)) ∧
    decodeSlot true true 4 0x05000A2AB0000000 = .ok (.mcast on .belt 0 none (.k 4) (.k 5) (.k 6)) ∧
    decodeSlot true true 4 0x05000A2AB0010000 = .ok (.mcastOps on .belt 0 none (.k 4) (.k 5) (.k 6)) ∧
    decodeSlot true true 4 0x10000A2A00000000 = .ok (.cpys on .belt 0 (.k 4) (.k 5)) ∧
    decodeSlot true true 4 0x11000A2A00000000 = .ok (.bari on .belt 0 (.k 4) (.k 5)) ∧
    decodeSlot true true 4 0x12000A2A00000000 = .ok (.barw on .belt 0 (.k 4) (.k 5)) ∧
    decodeSlot true true 4 0x14000A2A00000000 = .ok (.permit on .belt 0 (.k 4) (.k 5)) ∧
    decodeSlot true true 4 0x15000A2A00000000 = .ok (.twopen on .belt 0 (.k 4) (.k 5)) ∧
    decodeSlot true true 4 0x1300000000400000 = .ok (.drain on .belt 0 .die) ∧
    decodeSlot true true 4 0x16000A0000000000 = .ok (.twclose on .belt 0 (.k 4)) ∧
    decodeSlot true true 4 0x20000C00C8000000 = .ok (.aadd on .belt 0 .i32 (.k 8) (.b 0) (.k 9)) ∧
    decodeSlot true true 4 0x21000C00C8400000 = .ok (.amin on .belt 0 .i64 (.k 8) (.b 0) (.k 9)) ∧
    decodeSlot true true 4 0x22000C00C8800000 = .ok (.amax on .belt 0 .u32 (.k 8) (.b 0) (.k 9)) ∧
    decodeSlot true true 4 0x23000C00C8C00000 = .ok (.aand on .belt 0 .u64 (.k 8) (.b 0) (.k 9)) ∧
    decodeSlot true true 4 0x24000C00C8000000 = .ok (.aor on .belt 0 .i32 (.k 8) (.b 0) (.k 9)) ∧
    decodeSlot true true 4 0x25000C00C8400000 = .ok (.axor on .belt 0 .i64 (.k 8) (.b 0) (.k 9)) ∧
    decodeSlot true true 4 0x26000C00C8800000 = .ok (.aswp on .belt 0 .u32 (.k 8) (.b 0) (.k 9)) ∧
    decodeSlot true true 4 0x27000C00C8C00000 = .ok (.acas on .belt 0 .u64 (.k 8) (.b 0) (.k 9)) := by decide

theorem test_words_requests :
    decodeSlot true true 4 0x30000880980C0000 = .ok (.tlbiVa on .belt 0 .package (.k 1) (.k 3)) ∧
    decodeSlot true true 4 0x300008A4980D0000 = .ok (.tlbiRng on .belt 0 .package (.k 1) (.k 2) (.k 3)) ∧
    decodeSlot true true 4 0x30000000980A0000 = .ok (.tlbiAll on .belt 0 .die (.k 3)) ∧
    decodeSlot true true 4 0x310008A498050004 = .ok (.rdc on .belt 0 .maxF32 4 (.k 1) (.k 2) (.k 3)) ∧
    decodeSlot true true 4 0x400008AAB0000123 = .ok (.fsend on .belt 0 0x123 (.k 1) (.k 5) (.k 6)) ∧
    decodeSlot true true 4 0x410009E0C8000000 = .ok (.frecv on .belt 0 (.k 3) .zero (.k 9)) ∧
    decodeSlot true true 4 0x420009AE00000000 = .ok (.fdone on .belt 0 (.k 3) (.k 7)) ∧
    decodeSlot true true 4 0x430009E400000000 = .ok (.quiet on .belt 0 (.k 3) .minus1) ∧
    decodeSlot true true 4 0x440009AE00000000 = .ok (.fstat on .belt 0 (.k 3) (.k 7)) := by decide

/-! ## Small states -/

/-- A guard of 0. -/
def off : Guard := ⟨0, true⟩

/-- The state after reset with `k` as core 0, the core in issue. -/
def st (k : Core) : State := setCore State.reset 0 k

/-- The same, the core running with the context `c`. -/
def stC (c : Ctx) : State := st { run := .running, ctx := c }

/-- A context that holds scalars in `k1`, `k2` and `k3`. -/
def regs (a b e : Nat) : Ctx := { sk := [(1, ⟨BitVec.ofNat 64 a, false⟩), (2, ⟨BitVec.ofNat 64 b, false⟩), (3, ⟨BitVec.ofNat 64 e, false⟩)] }

/-- A block of instance 0 in partition 0, and one with conductor privilege. -/
def blk : Block := { bid := 1, inst := 0, kernel := 0, part := 0, entry := 0, budget := 100, gen := 1 }
def conductor : Block := { blk with conductor := true }

/-- A core that runs `blk`. -/
def busy : Core := { run := .running, blk := some blk, gen := 1 }

/-- A handler of event 3, with so many cycles left. -/
def handler (left : Nat) (exited : Bool) : Service := { host := { pc := 7 }, handler := 3, left := left, exited := exited }

/-- A leaf of level 2 for virtual page 1, pinned, in HBM, key 3, all permissions: page 1 of stack 0. -/
def pageE : Nat := 3 + 0xFF * 4 + 2 ^ 10 + 3 * 2 ^ 12 + 2 ^ 20 + 2 ^ 22
def page : Leaf := ⟨0, 0x10000, 2, BitVec.ofNat 64 pageE⟩

/-- A descriptor of an active partition with the groups of stack 0 and key 3. -/
def desc : BitVec 1024 := BitVec.ofNat 1024 ((2 ^ 16 - 1) * 2 ^ 128 + 4 * 2 ^ 320 + 2 ^ 323 + 2 ^ (576 + 3))

/-- `s` with page 1 of partition 0 in the TLB of cluster 0, and its first units of memory written under key 3. -/
def paged (s : State) : State :=
  { s with parts := [(0, { desc := desc })], twes := [(0, { tlb := [page] })], ftags := [(1, 0)] }

/-- Where the page's first byte goes. -/
def pageX : Xlat := ⟨0x10000, 3, 1, true⟩

/-- An address below the kiln aperture is not in it. -/
theorem not_kiln (pa : Nat) (h : pa < 12 * 2 ^ 37) : ∀ die off, paKind pa ≠ .kiln die off := by
  intro die off e
  unfold paKind at e
  rw [if_pos h] at e
  split at e <;> cases e

/-! ## Single steps, the expected values worked out by hand from the rules -/

/-- The results in flight on core 0 after a row. -/
def flight : Host.Outcome State Fault Refusal → List Landing
  | .next t => (getCore t 0).ctx.inflight
  | _ => []

/-- The outcome's core 0. -/
def after : Host.Outcome State Fault Refusal → Core
  | .next t => getCore t 0
  | _ => {}

/-- The pc of the core that fetches first (log 1). -/
def fetched : Host.Outcome State Fault Refusal → Pc
  | .next t => (getCore t 0x010).ctx.pc
  | _ => 0

/-- The first bytes of page 1 in memory. -/
def written (n : Nat) : Host.Outcome State Fault Refusal → List Byte
  | .next t => mReadN t.mem 0x10000 n
  | _ => []

/-- `s` with slot V0 in issue. -/
def inV (s : State) : State := { s with sched := { s.sched with slot := 1 } }

/-- A context with two vectors whose lane 0 is given. -/
def vecs (a b : Nat) : Ctx := { vk := [(1, ⟨BitVec.ofNat 2048 a, false⟩), (2, ⟨BitVec.ofNat 2048 b, false⟩)] }

/-- R65: sums wrap. -/
theorem test_add_wraps : flight (exec (.add on .belt (.k 1) (.k 2)) (stC (regs (2 ^ 64 - 1) 1 0))) = [⟨1, 0, 0, .sbelt 0, 0⟩] := by
  decide +kernel

/-- R65: the high half of (−1) · 1 is −1, and of the unsigned product 0. -/
theorem test_mulh_signs :
    flight (exec (.mulh on (.k 9) (.k 1) (.k 2)) (stC (regs (2 ^ 64 - 1) 1 0))) = [⟨4, 0, 0, .k 9 (BitVec.ofNat 64 (2 ^ 64 - 1)), 0⟩] ∧
    flight (exec (.mulhz on (.k 9) (.k 1) (.k 2)) (stC (regs (2 ^ 64 - 1) 1 0))) = [⟨4, 0, 0, .k 9 0, 0⟩] := by decide +kernel

/-- R66: a quotient truncates toward 0; a division by 0 gives −1 and `DZ`. -/
theorem test_div :
    flight (exec (.div on .belt (.k 1) (.k 2)) (stC (regs (2 ^ 64 - 7) 2 0))) = [⟨24, 0, 0, .sbelt (BitVec.ofNat 64 (2 ^ 64 - 3)), 0⟩] ∧
    flight (exec (.div on .belt (.k 1) (.k 2)) (stC (regs 5 0 0))) = [⟨24, 0, 0, .sbelt (BitVec.ofNat 64 (2 ^ 64 - 1)), fDZ⟩] := by decide +kernel

/-- R67, R68: a shift by 64 or more leaves nothing, or the sign. -/
theorem test_shifts :
    flight (exec (.shl on .belt (.k 1) (.reg (.k 2))) (stC (regs (2 ^ 63) 64 0))) = [⟨1, 0, 0, .sbelt 0, 0⟩] ∧
    flight (exec (.sar on .belt (.k 1) (.reg (.k 2))) (stC (regs (2 ^ 63) 99 0))) = [⟨1, 0, 0, .sbelt (BitVec.ofNat 64 (2 ^ 64 - 1)), 0⟩] := by
  decide +kernel

/-- R32: under a guard of 0 a zero lands on the belt. -/
theorem test_guard_off : flight (exec (.add off .belt (.k 1) (.k 2)) (stC (regs 3 4 0))) = [⟨1, 0, 0, .sbelt 0, 0⟩] ∧
    flight (exec (.add off (.k 9) (.k 1) (.k 2)) (stC (regs 3 4 0))) = [⟨1, 0, 0, .drop false, 0⟩] := by decide +kernel

/-- R75: bytes in little-endian order, sign-extended by `ld.b`. -/
theorem test_memory :
    flight (exec (.ldB on .belt (.k 1) 0xFFFFF) (st { busy with ctx := regs 9 0 0, spad := [(8, 0x80)] })) =
      [⟨4, 0, 0, .sbelt (BitVec.ofNat 64 (2 ^ 64 - 128)), 0⟩] ∧
    (after (exec (.stH on (.k 2) (.k 1) 0) (stC (regs 9 0x1234 0)))).spad = [(9, 0x34), (10, 0x12)] := by decide +kernel

/-- R72: the compares of −1 and 1. -/
theorem test_compare :
    flight (exec (.cmp on .lt 3 (.k 1) (.k 2)) (stC (regs (2 ^ 64 - 1) 1 0))) = [⟨1, 0, 0, .pred 3 true, 0⟩] ∧
    flight (exec (.cmp on .ltz 3 (.k 1) (.k 2)) (stC (regs (2 ^ 64 - 1) 1 0))) = [⟨1, 0, 0, .pred 3 false, 0⟩] := by decide +kernel

/-- R78: a taken branch is the entry of its bundle, relative to it. -/
theorem test_branch : (after (exec (.br on .tk 0xFFFFFFFE) (stC { pc := 8 }))).ctx.entry = ⟨6, true, true⟩ ∧
    (after (exec (.br off .nt 0xFFFFFFFE) (stC { pc := 8 }))).ctx.entry = ⟨0, true, false⟩ := by decide +kernel

/-- R121, R124: lanes of `i8` wrap in `vadd` and clamp in `vadds`, which marks `SAT`. -/
theorem test_vadd :
    flight (exec (.vadd on .belt .i8 (.w 1) (.w 2)) (inV (stC (vecs 0x7F 0x101)))) = [⟨2, 1, 0, .vbelt 0x180, 0⟩] ∧
    flight (exec (.vadds on .belt .i8 false (.w 1) (.w 2)) (inV (stC (vecs 0x7F 0x101)))) = [⟨2, 1, 0, .vbelt 0x17F, fSAT⟩] := by decide +kernel

/-- R100, R101: 1 + 2⁻²⁴ is a tie that goes to the even 1, and is inexact; toward zero it is 1 as well. -/
theorem test_vfadd : flight (exec (.vfadd on .belt .f32 .ne (.w 1) (.w 2)) (inV (stC (vecs 0x3F800000 0x33800000)))) =
    [⟨4, 1, 0, .vbelt 0x3F800000, fINX⟩] := by decide +kernel

/-- R31: a result for the belt becomes its newest entry, and the oldest leaves. -/
theorem test_landing :
    (after (exec (.resultLanding 0) (stC { inflight := [⟨0, 0, 0, .sbelt 5, fDZ⟩] }))).ctx.sb = ⟨5, false⟩ :: List.replicate 15 {} ∧
    (after (exec (.resultLanding 0) (stC { inflight := [⟨0, 0, 0, .sbelt 5, fDZ⟩] }))).ctx.flags = fDZ := by decide +kernel

/-- R224: `trap` writes cause `SWTRAP` (0x25) with the mask of the S slot, and the pc, into the record. -/
theorem test_trap :
    written 8 (exec (.trap on 0) (paged (stC { traprec := 0x10000, pc := 0x1234 }))) = [0x25, 0x01, 0, 0, 0x34, 0x12, 0, 0] := by decide +kernel

/-- R39, R40: an empty bundle takes one unit, a literal bundle of one slot six; each issues as the first instruction. -/
theorem test_fetch :
    fetched (step (State.reset.withFetchWord 16 0xFFFE)) = 1 ∧
    fetched (step (State.reset.withFetchWord 96 (0xFFF0 + 0xA001 * 2 ^ 16 + 0x4102400000000180 * 2 ^ 32))) = 6 := by decide +kernel
/-! ## Witnesses: for each statement, states and operands that meet the hypotheses of its clauses, at the ends of their ranges -/

theorem witness_LogicBitsAndMoves : (1 ≤ 1 ∧ 1 ≤ 64) ∧ (1 ≤ 64 ∧ 64 ≤ 64) ∧ (0 < 64 ∧ 1 ≤ 64 ∧ 0 + 64 ≤ 64) ∧
    (63 < 64 ∧ 1 ≤ 1 ∧ 63 + 1 ≤ 64) := by decide +kernel

theorem witness_ComparesAndPredicates : CC.isInt .eq = true ∧ CC.isInt .gez = true := by decide +kernel

theorem witness_ScalarMemory :
    (let s := stC (regs 0x3FFF8 0x40000 0x3F8)
     guardOn (curCtx s) on = true ∧ guardOn (curCtx s) off = false ∧ (cur s).svc = none ∧
     (valS (curCtx s) (.k 1)).toNat + 8 ≤ 0x40000 ∧ spadBad (cur s) (valS (curCtx s) (.k 1)).toNat 8 = false ∧
     0x40000 < (valS (curCtx s) (.k 2)).toNat + 1) ∧
    (let s := st { run := .running, ctx := regs 0 0 0x3F8, svc := some (handler 5 false) }
     guardOn (curCtx s) on = true ∧ (cur s).svc.isSome ∧ (valS (curCtx s) (.k 3)).toNat + 8 ≤ 0x400) := by decide +kernel

theorem witness_Branches : guardOn (curCtx (stC {})) on = true ∧ guardOn (curCtx (stC {})) off = false ∧
    SDst.belt = .belt ∧ SDst.discard ≠ .belt := by decide +kernel

theorem witness_Loops :
    let c := curCtx (stC {})
    let two := curCtx (stC { stages := 2 })
    let one := curCtx (stC { stages := 1 })
    let lc := curCtx (stC { stages := 8, lc := 1 })
    guardOn c on = true ∧ guardOn c off = false ∧ c.stages = 0 ∧ (guardOn lc on = true ∧ lc.stages ≠ 0 ∧ 0 < lc.lc.toNat) ∧
    (guardOn two on = true ∧ 1 < two.stages.toNat ∧ two.lc = 0) ∧ (guardOn one on = true ∧ one.stages = 1 ∧ one.lc = 0) := by
  decide +kernel

theorem witness_Waits :
    let s := stC (regs 0x3FFF8 0x40000 1)
    let ea := (valS (curCtx s) (.k 1)).toNat
    let word := BitVec.ofNat 64 (leNat (viewRead s 0 ea 8))
    let tick := ((coreRegion s 0).frame * (coreRegion s 0).m + (coreRegion s 0).cyf) % 2 ^ 64
    CC.isInt .eq = true ∧ guardOn (curCtx s) on = true ∧ guardOn (curCtx s) off = false ∧
    viewStop (cur s) 2 1 ea 8 true = none ∧ ccHolds .eq word 0 = true ∧
    (ccHolds .ne word 0 = false ∧ ¬ (valS (curCtx s) (.k 3)).toNat ≤ tick) ∧
    ((cur s).svc = none ∧ 0x40000 < (valS (curCtx s) (.k 2)).toNat + 8) ∧
    (getCore (stC { waits := [{ kind := .mwait .eq 0 0 0, slot := 0, seq := 0, dst := .belt }] }) 0).ctx.waits =
      [{ kind := .mwait .eq 0 0 0, slot := 0, seq := 0, dst := .belt }] := by decide +kernel

theorem witness_TriggersCallsAndExit :
    (guardOn (curCtx (st busy)) on = true ∧ guardOn (curCtx (st busy)) off = false ∧ (cur (st busy)).blk = some blk ∧
      (cur (st busy)).svc = none) ∧
    (let s := st { busy with svc := some (handler 5 false) }
     guardOn (curCtx s) on = true ∧ (cur s).svc = some (handler 5 false)) := by decide +kernel

/-- A stop whose record can be written: a core with its record in page 1. -/
theorem witness_StopsAndDoubleFaults :
    (let s := paged (stC { traprec := 0x10000 })
     (getCore s 0).svc = none ∧ (getCore s 0).mxWas = none ∧ Cause.swtrap ≠ .dataerr ∧
     pinnedAt (freeze 0 .swtrap s) 0 2 (getCore s 0).ctx.traprec.toNat 128 =
       ((pinnedAt (freeze 0 .swtrap s) 0 2 (getCore s 0).ctx.traprec.toNat 128).1, .ok pageX) ∧
     pageX.pa % 128 = 0 ∧ (0 : Nat) < 256 ∧ 0 < 1024) ∧
    (∀ die off, ∀ i < 128, paKind (pageX.pa + i) ≠ .kiln die off) ∧
    (getCore (st { busy with svc := some (handler 5 false) }) 0).svc.isSome ∧
    (let s := stC { traprec := 0x10000 }
     (getCore s 0).svc = none ∧ Cause.swtrap ≠ .dataerr ∧
     pinnedAt (freeze 0 .swtrap s) 0 2 (takeBackRows (getCore s 0)).ctx.traprec.toNat 128 =
       ((pinnedAt (freeze 0 .swtrap s) 0 2 (takeBackRows (getCore s 0)).ctx.traprec.toNat 128).1, .error 1)) := by
  refine ⟨by decide +kernel, fun die off i h => not_kiln _ (by simp only [pageX]; omega) die off, by decide +kernel, by decide +kernel⟩

theorem witness_ReturnFromTrap :
    let s := paged (setCore (stC { kern := true, traprec := 0x10000 }) 1 { run := .held .swtrap, ctx := { traprec := 0x10000 } })
    let alone := stC { kern := true, traprec := 0x10000 }
    (s.cores.map (·.1)).Nodup ∧ (curCtx s).kern = true ∧ guardOn (curCtx s) on = true ∧ guardOn (curCtx s) off = false ∧
    heldWith s (curCtx s).traprec s.sched.cur = some 1 ∧
    (let idle := setCur s { cur s with run := .idle }
     pinnedAt idle 1 1 (curCtx s).traprec.toNat 128 = ((pinnedAt idle 1 1 (curCtx s).traprec.toNat 128).1, .ok pageX)) ∧
    (alone.cores.map (·.1)).Nodup ∧ heldWith alone (curCtx alone).traprec alone.sched.cur = none ∧ (curCtx (stC {})).kern = false := by
  decide +kernel

theorem witness_ServiceCallsAndRestart :
    let call := fun (n : Nat) (tag : Word) => ({ n := BitVec.ofNat 8 n, tag := tag, y := 5, z := 6, dst := .belt, seq := 0 } : SvcCall)
    let held := fun (c : SvcCall) (b : Block) => st { busy with run := .held .svc, ctx := { svc := some c }, blk := some b }
    let entry := fun (tag : Word) => JEntry.mk tag 1 5 6 9
    let s := held (call 1 7) { blk with journal := [entry 7] }
    let full := (List.range 64).map fun i => entry (BitVec.ofNat 64 (i + 100))
    (∀ n ∈ [0, 1, 3, 4, 6, 15, 255], (getCore (held (call n 0) blk) 0).run = .held .svc ∧
      (getCore (held (call n 0) blk) 0).ctx.svc = some (call n 0)) ∧
    ((((getCore s 0).blk.map (·.journal)).getD []).find? (fun j => j.tag == 7) = some (entry 7)) ∧
    ((∀ j ∈ full, j.tag ≠ 7) ∧ 64 ≤ full.length) ∧ ((∀ j ∈ full.drop 1, j.tag ≠ 7) ∧ (full.drop 1).length < 64) ∧
    ([{ entry 7 with outcome := BitVec.ofNat 64 (2 ^ 63 + 1) }].find? (fun j => j.tag == 7)).map (·.outcome) = some (BitVec.ofNat 64 (2 ^ 63 + 1)) ∧
    (((some { blk with restarted := [7] }).map (·.restarted)).getD []).contains (7 : Word) = true ∧
    (((some blk).map (·.restarted)).getD []).contains (7 : Word) = false ∧ (call 1 0).tag = 0 ∧
    (s.cores.map (·.1)).Nodup ∧ ((0, getCore s 0) ∈ s.cores) := by decide +kernel

/-- A launch of core 1, and operands that are bad, or name a core that runs. -/
theorem witness_Launches :
    let i : Inst := { live := true, cores := [0, 1], regions := [0] }
    let s := { st { busy with blk := some conductor, ctx := regs (2 ^ 36 * 20) 2 0 } with insts := [(0, i)] }
    let s1 := setCore s 1 busy
    (cur s).blk = some conductor ∧ conductor.conductor = true ∧ guardOn (curCtx s) on = true ∧ guardOn (curCtx s) off = false ∧
    (cur (st busy)).blk = some blk ∧ blk.conductor = false ∧
    (let x := (valS (curCtx s) (.k 1)).toNat
     let y := (valS (curCtx s) (.k 2)).toNat
     let z := (valS (curCtx s) (.k 3)).toNat
     let named := maskCores (getInst s 0) y
     named = [1] ∧
     ¬(x / 2 ^ 33 % 8 ≠ 0 ∨ x / 2 ^ 48 ≠ 0 ∨ y = 0 ∨ 2 ^ (getInst s 0).cores.length ≤ y ∨
       (∃ m ∈ named, regionOf s m ≠ regionOf s 0 ∨ m = 0) ∨ (z ≠ 0 ∧ (z / 2 ^ 10 % 8 ≠ 1 ∨ readHandle s conductor z = .bad))) ∧
     (∀ m ∈ named, (getCore s m).blk = none ∧ (getCore s m).run = .idle ∧ (getCore s m).resv = none) ∧
     ¬(getCore s1 1).blk = none) ∧
    freeObj s 1 0 0 = some 4096 ∧ graphOf s conductor = none ∧
    (let full := { s with objs := (List.range 64).map fun n => (4096 + n, { live := true }) }
     freeObj full 1 0 0 = none) ∧
    (let two := maskCores (getInst s 0) 4
     2 ^ (getInst s 0).cores.length ≤ 4 ∧ two = []) := by decide +kernel

theorem witness_PhasesJoinsAndCancels :
    let i : Inst := { live := true, cores := [0, 1], regions := [0] }
    let unit : Block := { blk with bid := 2, home := 1, gen := 3, member := 1 }
    let s := { setCore (st { busy with blk := some conductor, ctx := regs 0 1 (1 + 3 * 2 ^ 16) }) 1 { busy with blk := some unit, gen := 3 } with
      insts := [(0, i)]
      objs := [(4096, { live := true, gen := 2 })] }
    let k := getCore s 0
    (cur s).blk = some conductor ∧ (cur (st { busy with blk := none })).blk = none ∧
    guardOn (curCtx s) on = true ∧ guardOn (curCtx s) off = false ∧
    ((valS (curCtx s) (.k 1)).toNat < (valS (curCtx s) (.k 2)).toNat) ∧ freeObj s 3 0 0 = some (objKey 3 0 0 0) ∧
    (freeObj { s with objs := (List.range 64).map fun n => (objKey 3 0 0 n, { live := true }) } 3 0 0 = none) ∧
    (let g := { s with objs := [(objKey 2 0 0 0, { live := true, phases := [objKey 3 0 0 0] }), (objKey 3 0 0 0, { live := true, opened := 1, members := [objKey 2 0 0 0] })] }
     (some (objKey 2 0 0 0)).bind (newestPhase g) = some (objKey 3 0 0 0) ∧ newestPhase g (objKey 2 0 0 1) = none) ∧
    readHandle s conductor 0x2000 = .bad ∧ readHandle s { conductor with home := 0, bid := 1 } (0 + 1 * 2 ^ 16) = .mine ∧
    readHandle s conductor (1 + 3 * 2 ^ 16) = .unit 1 2 ∧ (valS (curCtx s) (.k 1)).toNat ≤ coreTick s 0 ∧
    readHandle s conductor (1 + 2 * 2 ^ 16) = .over false ∧
    readHandle s conductor (objHandle 4096 2) = .obj 4096 ∧
    (getCore { s with cores := [(0, { k with ctx := { waits := [{ kind := .join 5 6, slot := 0, seq := 0, dst := .belt }] } })] } 0).ctx.waits =
      [{ kind := .join 5 6, slot := 0, seq := 0, dst := .belt }] ∧
    ((getCore s 1).blk = some unit ∧ (allBlocks s).filter (fun x => x.1 == 1 && x.2.bid == unit.bid) = [(1, unit)] ∧
      unit.exited = false ∧ (getCore s 1).run = .running ∧ (getCore s 1).ctx.waits = [] ∧ (getCore s 1).svc = none ∧
      (coreRegion s 1).st ≠ .stopped) ∧
    (let killed := fun t => setCore s 1 { getCore s 1 with killAt := some t }
     (getCore (killed 1) 1).killAt = some 1 ∧ (coreRegion (killed 1) 1).clk < 1 ∧ (getCore (killed 0) 1).killAt = some 0 ∧
     0 ≤ (coreRegion (killed 0) 1).clk ∧ (getCore (killed 0) 1).blk = some unit) := by decide +kernel

theorem witness_TrapsAndSystemRegisters :
    let s := stC (regs 0x0A2C (9 + 16) (4 * 2 ^ 2 + 2 ^ 5 + 2 * 2 ^ 8 + 2 ^ 48 * (5 * 4)))
    let k := stC { regs 7 8 9 with kern := true }
    let entryBad := fun e => 4 < e / 4 % 8 ∨ 1 < e / 32 % 8 ∨ 2 < e / 256 % 4
    guardOn (curCtx s) on = true ∧ guardOn (curCtx s) off = false ∧ (curCtx s).kern = false ∧ (curCtx k).kern = true ∧
    (9 ≤ (valS (curCtx s) (.k 2)).toNat % 16 ∧ ¬ 9 ≤ (8 : Nat) % 16) ∧
    (¬ entryBad (4 * 2 ^ 2 + 2 ^ 5 + 2 * 2 ^ 8) ∧ entryBad (5 * 4) ∧ entryBad (2 * 32) ∧ entryBad (3 * 256)) ∧
    (let v := (valS (curCtx s) (.k 3)).toNat
     (∃ i < 4, entryBad (v / 2 ^ (16 * i))) ∧ ¬ ∃ i < 3, entryBad (v / 2 ^ (16 * i))) ∧
    voidP (curCtx s) 0 = false ∧ voidS (curCtx s) (.k 1) = false := by decide +kernel

theorem witness_VectorIntegerLanes : LT.isInt .i8 = true ∧ LT.isInt .i64 = true ∧ LT.isInt3 .i8 = true ∧ LT.isInt3 .i32 = true ∧
    0 < 2 * LT.width .i8 ∧ 63 < 2 * LT.width .i32 := by decide +kernel

theorem witness_VectorShiftsAndSelects : LT.isInt .i8 = true ∧ CC.isInt .gez = true ∧ LT.isWidth .i64 = true := by decide +kernel

theorem witness_VectorFloats : LT.isFloat .bf16 = true ∧ LT.isFloat .f64 = true ∧ CC.isFloat .eq = true ∧ CC.isFloat .uo = true := by
  decide +kernel

theorem witness_RoundingIsCorrect :
    LT.isFloat .f32 = true ∧ LT.isNarrow .e2m1 = true ∧ (1 : Nat) ≠ 0 ∧ (roundF .f32 .ne false false 1 0).2 &&& fOVF = 0 ∧
    (roundF .f32 .tz false false (2 ^ 24 + 1) 0).2 &&& fOVF = 0 ∧ (roundF .f32 .ne false false 1 128).2 &&& fOVF = fOVF := by decide +kernel

/-- Codes of every class, and the sums and products that the clauses tell apart. -/
theorem witness_FloatsAreExact :
    (LT.isFloat .f32 = true ∧ LT.isFloat3 .bf16 = true ∧ LT.isNarrow .e4m3 = true ∧ 0xFF800000 < 2 ^ LT.width .f32 ∧
      decodeF .f32 0xFF800000 = .inf true ∧ decodeF .f32 0x7F800001 = .nan true ∧ decodeF .f32 0x7FC00000 = .nan false ∧
      decodeF .f32 0x3F800000 = .fin false (2 ^ 23) (-23) ∧ decodeF .e4m3 127 = .nan false ∧ decodeF .e2m1 8 = .fin false 0 0 ∧
      CC.isFloat .le = true ∧ 8 ∈ [8, 16, 32, 64] ∧ (∀ x ∈ [0x3F80, 0x7F7F], x < 2 ^ LT.width .bf16)) ∧
    Spec.rat (.fin false 1 0) = some 1 ∧ Spec.rat (.fin true 1 0) = some (-1) ∧ Spec.rat (.fin false 0 0) = some 0 ∧
    ((1 : ℚ) + (-1) = 0 ∧ (1 : ℚ) * (-1) ≠ 0 ∧ (1 : ℚ) * (-1) + 1 = 0 ∧ (1 : ℚ) * 0 = 0) ∧
    Spec.less (.fin true 1 0) (.fin false 1 0) ∧ ¬Spec.less (.fin false 1 0) (.fin true 1 0) := by
  refine ⟨by decide +kernel, by norm_num [Spec.rat], by norm_num [Spec.rat], by norm_num [Spec.rat], by norm_num, ?_, ?_⟩
  · exact ⟨-1, 1, by norm_num [Spec.rat], by norm_num [Spec.rat], by norm_num⟩
  · rintro ⟨a, b, ha, hb, h⟩
    simp only [Spec.rat, Option.some.injEq] at ha hb
    subst ha hb
    norm_num at h

theorem witness_VectorFunctions : LT.isFloat3 .f32 = true ∧ LT.isFloat3 .bf16 = true := by decide +kernel

theorem witness_VectorConversions :
    (Instr.vfcvt on .belt .f32 .i32 false 0 .ne false (.vb 0)).wf = true ∧
    (Instr.vfcvt on .belt .i32 .f32 true 0 .tz true (.vb 0)).wf = true ∧
    (Instr.vfcvt on .belt .f32 .e2m1 false 7 .ne false (.vb 0)).wf = true := by decide +kernel

theorem witness_VectorBlocks : LT.isFloat3 .f32 = true ∧ LT.isNarrow .e2m1 = true ∧
    (let s := st { run := .running, ctx := { vb := [⟨0x7F800001, false⟩] } }
     isSig .f32 (Spec.lane 32 (valV (curCtx s) (.vb 0)) 0 % 2 ^ 31) = true) ∧
    (isNan .f32 0x7FC00000 = true ∧ isSig .f32 0x7FC00000 = false) ∧ isNan .f32 0x7F800000 = false := by decide +kernel

theorem witness_LaneMovement : LT.isInt .i8 = true ∧ LT.isInt .i64 = true ∧ LT.isWidth .i8 = true ∧ 255 < 2048 / LT.width .i8 ∧
    (Instr.vbcastImm on .belt .f64 0).wf = true ∧ (Instr.vbcastImm on .belt .i8 127).wf = true ∧ LT.f32 ≠ .f64 := by decide +kernel

theorem witness_ReductionsAndScans : LT.isInt .i8 = true ∧
    (LT.isFloat .f64 = true ∧ RedOp.accepts .add .f64 = true ∧ RedOp.rndOk .add .f64 .tz = true) ∧
    (RedOp.accepts .max .bf16 = true ∧ RedOp.rndOk .max .bf16 .ne = true) := by decide +kernel

theorem witness_VectorMemory :
    let s := stC (regs 0x3FF00 0x3FF01 4)
    (cur s).svc = none ∧ LT.isWidth .f32 = true ∧ guardOn (curCtx s) on = true ∧ guardOn (curCtx s) off = false ∧
    (let a := (valS (curCtx s) (.k 1)).toNat
     a + 256 ≤ 0x40000 ∧ spadBad (cur s) a 256 = false ∧ ¬ (valS (curCtx s) (.k 2)).toNat + 256 ≤ 0x40000 ∧
     (∀ j < 64, (a + j * 4) % 2 ^ 64 + 4 ≤ 0x40000) ∧ (∀ j < 64, (a + 0 * 4) % 2 ^ 64 + 4 ≤ 0x40000 ∧ spadBad (cur s) (a + 0 * j) 4 = false) ∧
     (¬ (a + 64 + 48 * 4) % 2 ^ 64 + 4 ≤ 0x40000 ∧ ∀ i < 48, (a + 64 + i * 4) % 2 ^ 64 + 4 ≤ 0x40000)) := by decide +kernel

theorem witness_CrossingAccess :
    let reg : Region := { m := 100, d := 10, src := 1, ren := true, st := .locked }
    let i : Inst := { live := true, cores := [0, 16], regions := [0] }
    let cfg : Nat := 2 ^ 32 + 2 ^ 128 * 2 ^ 32 + 0 * 2 ^ 240
    let v := fun (x : Nat) => ({ vk := [(1, ⟨BitVec.ofNat 2048 x, false⟩)] } : Ctx)
    let base := fun (x : Nat) (z : Crossing) => { st { busy with ctx := v x } with
      regions := [(0, reg)], clusterRegion := [(0, 0), (1, 0)], insts := [(0, i)], xings := [(0, z)] }
    let started := cfg + 2 ^ 238
    let stopped := cfg + 2 ^ 239
    let run : Crossing := { run := true, owner := some 0, xfmt := List.replicate 8 0 }
    let s := base started {}
    guardOn (curCtx s) on = true ∧ guardOn (curCtx s) off = false ∧
    latchBound s 0 0 = true ∧ latchBound s 0 1 = false ∧ imageCore s (cur s) 1 = some 16 ∧ imageCore s (cur s) 2 = none ∧
    ((getXing s 0).run = false ∧ (getXing (base 0 run) 0).run = true ∧ regionOf (base 0 run) 0 = (getXing (base 0 run) 0).down ∧
      (getXing (base 0 run) 0).xfmt.length = 8 ∧ (getXing (base 0 run) 0).out.length = 8) ∧
    ((getXing s 0).owner ≠ some 0 ∧ (getXing s 0).xfmt = []) ∧ (getXing (base 0 run) 0).owner = some 0 ∧
    ((getXing s 0).owner = none ∧ ¬((getXing (base 0 { owner := some 1 }) 0).owner = none ∨ (getXing (base 0 { owner := some 1 }) 0).owner = some 0)) ∧
    (let w := valV (curCtx s) (.w 1)
     w.getLsbD 238 = true ∧ w.getLsbD 239 = false ∧ cfgReserved w.toNat = true ∧
     imageCore s (cur s) (w.extractLsb' 240 8).toNat = some 0 ∧ cfgRanges w.toNat (reg.m / reg.d) = true) ∧
    (let w := valV (curCtx (base stopped run)) (.w 1)
     w.getLsbD 238 = false ∧ w.getLsbD 239 = true ∧ cfgReserved w.toNat = true) ∧
    (let w := valV (curCtx (base cfg run)) (.w 1)
     w.getLsbD 238 = w.getLsbD 239) ∧
    cfgRanges (started + 10 * 2 ^ 214) (reg.m / reg.d) = false ∧ cfgRanges (started + 9 * 2 ^ 214) (reg.m / reg.d) = true ∧
    imageCore s (cur s) (BitVec.extractLsb' 240 8 (BitVec.ofNat 2048 (started + 2 * 2 ^ 240))).toNat = none := by decide +kernel

/-- A matrix engine with slots 0 to 2 claimed; busy with a product, a fold or a scan; with a tile of mode F64. -/
theorem witness_MatrixIssue :
    let s := fun (m : Mx) => st { busy with mx := m }
    let held : Mx := { claimed := 7 }
    let prod : Mx := { held with prods := [{ kind := .mma .i8 0 0 63, oa := 0, ob := 1, start := 1 }] }
    let ready := s held
    let i : Inst := { live := true, cores := [0], oslots := 24 }
    let c := curCtx ready
    let wide : Mx := { held with now := { tiles := [{ f64 := true }, {}, {}, {}] } }
    guardOn c on = true ∧ guardOn c off = false ∧
    (let t := { s held with insts := [(0, i)] }
     (cur t).mx.claimed.getLsbD 23 = false ∧ 23 < (getInst t 0).oslots ∧ (cur t).mx.claimed.getLsbD 2 = true) ∧
    (getInst ready 0).oslots ≤ 0 ∧
    (stillReads (cur ready).mx c.bc 0 = false ∧ pendingRows ready 0 0 = []) ∧ stillReads prod c.bc 0 = true ∧
    (Instr.owr on .side 2 48 (.vb 0)).wf = true ∧ (Instr.ordv on .belt .hi 2 63).wf = true ∧
    (prodConflict held c.bc (.mma .i8 0 0 63) = false ∧ fillBars ready (cur ready) (.mma .i8 0 0 63) 0 1 = false) ∧
    prodConflict prod c.bc (.mma .i8 0 0 63) = true ∧
    (prodConflict held c.bc (.mmab .e4m3 0 0) = false ∧ fillBars ready (cur ready) (.mmab .e4m3 0 0) 0 1 = false) ∧
    prodConflict prod c.bc (.mmab .e4m3 0 0) = true ∧
    ((held.now.tiles.getD 0 {}).f64 = false ∧ (wide.now.tiles.getD 0 {}).f64 = true) ∧
    (let k : Core := { cur ready with metas := [(0, .bytes (List.replicate 1024 0))] }
     smGet k.metas k.ctx.mpc.toNat = some (.bytes (List.replicate 1024 0)) ∧
     (∀ o ∈ prodBs (.mmas .bf16 (.tile 0 0 63) (BitVec.ofNat 8192 (leNat (List.replicate 1024 0)))) 1, k.mx.claimed.getLsbD o.val = true)) ∧
    (let k : Core := { cur ready with metas := [(0, .bad .fetch 1)] }
     smGet k.metas k.ctx.mpc.toNat = some (.bad .fetch 1) ∧ 1 ≠ 13) ∧
    foldConflict held c.bc (.scacc .e4m3 0 0 0 1 0) = false ∧
    foldConflict { held with folds := [{ kind := .acnorm 0, start := 1 }] } c.bc (.scacc .e4m3 0 0 0 1 0) = true ∧
    foldConflict held c.bc (.acnorm 0) = false ∧ foldConflict { held with folds := [{ kind := .acnorm 0, start := 1 }] } c.bc (.acnorm 0) = true ∧
    scanConflict held c.bc 0 = false ∧ scanConflict prod c.bc 0 = true := by decide +kernel

theorem witness_TileAccess :
    let s := fun (m : Mx) => st { busy with mx := m }
    let c := curCtx (s {})
    let wide : Tile := { f64 := true }
    guardOn c on = true ∧ guardOn c off = false ∧
    (landsOnTile {} 0 c.bc || inWindow {} 0 c.bc) = false ∧
    landsOnTile { prods := [{ kind := .mma .i8 0 0 63, oa := 0, ob := 1, start := 1 }] } 0 c.bc = true ∧
    inWindow { scans := [{ comp := false, acc := 0, n := 63, issue := 0, start := 1 }] } 0 (c.bc + 8) = true ∧
    inWindow { scans := [{ comp := false, acc := 0, n := 63, issue := 0, start := 1 }] } 0 (c.bc + 9) = false ∧
    ((({} : Tile).f64 = true) = ((AcSel.f32 == .f64lo || AcSel.f32 == .f64hi) = true)) ∧
    ((wide.f64 = true) = ((AcSel.f64hi == .f64lo || AcSel.f64hi == .f64hi) = true)) ∧
    ¬(wide.f64 = (AcSel.f32 == .f64lo || AcSel.f32 == .f64hi)) ∧
    (tileRow {} 63).length = 64 ∧ (tileRow wide 0).length = 64 ∧ ({} : Tile).ex.length = 64 := by
  simp only [show (AcSel.f32 == AcSel.f64lo || AcSel.f32 == .f64hi) = false from rfl,
    show (AcSel.f64hi == AcSel.f64lo || AcSel.f64hi == .f64hi) = true from rfl, Bool.false_eq_true, true_and]
  decide +kernel

theorem witness_AffineAccess :
    let scan : Mx := { scans := [{ comp := false, acc := 0, n := 63, issue := 0, start := 1 }] }
    let c := curCtx (st busy)
    guardOn c on = true ∧ guardOn c off = false ∧ ({ f64 := true } : Tile).f64 = true ∧ ({} : Tile).f64 = false ∧
    inWindow scan 0 8 = true ∧ inWindow {} 0 c.bc = false ∧ ({} : Tile).cy.length = 64 ∧ ({} : Tile).ex.length = 64 ∧
    CySel.gm1 ≠ .f32 ∧ CySel.gm1 ≠ .gf32 := by decide +kernel

theorem witness_MatrixReads :
    let p : Sys2Proof.Machine.Prod := { kind := .mma .i8 0 0 63, oa := 0, ob := 1, start := 0 }
    let k : Core := { busy with mx := { prods := [p], folds := [{ kind := .scacc .e4m3 0 0 0 1 0, start := 0 }], scans := [{ comp := false, acc := 0, n := 63, issue := 0, start := 0 }] } }
    (getCore (st k) 0).mx.prods[0]? = some p ∧ p.start = (getCore (st k) 0).ctx.bc ∧ 63 < prodRows p.kind ∧
    (getCore (st k) 0).mx.folds[0]? = some { kind := .scacc .e4m3 0 0 0 1 0, start := 0 } ∧
    (getCore (st k) 0).mx.scans[0]? = some { comp := false, acc := 0, n := 63, issue := 0, start := 0 } ∧
    (0 ∈ prodBs p.kind p.ob ∨ 1 ∈ prodBs p.kind p.ob) := by decide +kernel

/-- A word that a unit of the matrix engine cannot read: of row 0 of slot 0, of the plane, and of a tile. -/
theorem witness_MatrixReads_bad :
    Spec.rotten { badWords := [(.slot, 0)] } .slot (9216 * 0 + 128 * 0) 128 ∧ Spec.rotten { badWords := [(.plane, 2047)] } .plane (16384 * 0 + 256 * 63) 256 ∧
    Spec.rottenRow { badWords := [(.tile, 95)] } 0 0 ∧ Spec.rottenEx { badWords := [(.tile, 24960)] } 0 ∧ Spec.rottenCy { badWords := [(.tile, 24671)] } 0 ∧
    Spec.rottenTile { badWords := [(.tile, 24960)] } 0 :=
  ⟨⟨0, by decide, by decide, by decide⟩, ⟨2047, by decide, by decide, by decide⟩, ⟨95, by decide, by decide, by decide⟩,
    ⟨24960, by decide, by decide, by decide⟩, ⟨24671, by decide, by decide, by decide⟩,
    .inr (.inl ⟨24960, by decide, by decide, by decide⟩)⟩

theorem witness_MatrixLandings :
    let p : Sys2Proof.Machine.Prod := { kind := .mma .i8 0 0 63, oa := 0, ob := 1, start := 0 }
    let f : Fold := { kind := .scacc .e4m3 0 0 0 1 0, start := 0, next := 3 }
    let a : Fold := { kind := .acnorm 0, start := 0 }
    let x : Scan := { comp := false, acc := 0, n := 63, issue := 0, start := 0, input := some ([], [], []) }
    ((List.range (prodRows p.kind)).filter fun r => decide (p.next ≤ r ∧ p.start + 3 + prodLast p.kind r ≤ 3 + prodLast p.kind 0)) ≠ [] ∧
    (f.next < 4 ∧ f.start + f.next + 2 ≤ 5) ∧ (a.next = 0 ∧ a.start + 1 ≤ 1) ∧
    (x.input = some ([], [], []) ∧ x.landed = false ∧ x.start + 7 ≤ 7) := by decide +kernel

/-- A tile after reset has the lengths of R111. -/
theorem tileWf_reset : Spec.tileWf {} := ⟨by decide, by decide, by decide +kernel⟩

/-- The rows of a product for a tile, for an F64 tile and for a plane, and a beat of a fold. -/
theorem witness_MatrixLandings_rows :
    let p := fun (k : ProdKind) => ({ kind := k, oa := 0, ob := 1, start := 0, bRows := List.replicate 64 0, bSide := List.replicate 64 0 } : Sys2Proof.Machine.Prod)
    let f : Fold := { kind := .scacc .e4m3 0 0 0 1 0, start := 0, bSide := List.replicate 64 0, rows := (List.range 64).map fun i => (i, (List.replicate 64 0, 0)) }
    (([0, 63] : List Nat).Nodup ∧ [0, 63] ≠ [] ∧ ({} : MxData).tiles.length = 4 ∧ (∀ r ∈ [0, 63], 0 + r < 64) ∧
      ∀ k ∈ [ProdKind.mma .i8 0 0 63, .mma .f64 0 0 63, .mmab .e4m3 0 0], (p k).bSide.length = 64 ∧ 64 ≤ (p k).bRows.length) ∧
    (prodTile (.mma .i8 0 0 63) = some (0, 0) ∧ (∀ nrow, ProdKind.mma .i8 0 0 63 ≠ .mma .f64 0 0 nrow) ∧ Spec.kindWf (.mma .i8 0 0 63)) ∧
    ((p (.mma .f64 0 0 63)).kind = .mma .f64 0 0 63 ∧ Spec.kindWf (.mma .f64 0 0 63)) ∧
    (prodPlane (.mmab .e4m3 0 0) = some 0 ∧ Spec.kindWf (.mmab .e4m3 0 0)) ∧
    (f.bSide.length = 64 ∧ ∀ i < 64, (smGetD f.rows i ([], 0)).1.length = 64) := by
  refine ⟨by decide +kernel, ⟨rfl, ?_, rfl⟩, ⟨rfl, rfl⟩, ⟨rfl, rfl, by decide⟩, by decide +kernel⟩
  intro nrow h
  injection h with e
  cases e

theorem witness_ColumnGrids :
    (32767 : Int) ≤ 32767 ∧ Spec.tileWf {} ∧ (∀ i < 65, ∀ j < 64, |entPart true (Spec.ent {} i j)| ≤ 2 ^ 47 - 1) ∧
    (1 ≤ 64 ∧ 64 ≤ 64 ∧ ((List.range 64).map (tileRow {})).length = 64) := by
  refine ⟨by decide, tileWf_reset, by decide +kernel, by decide +kernel⟩

/-- A partition with cluster 0, its groups and key 3; operands for the copy slots. -/
def home (k : Core) : State := { paged (st k) with parts := [(0, { desc := desc ||| 1 })] }
def copyC (a b e : Nat) : State := home { busy with ctx := regs a b e, mx := { claimed := 1 } }

theorem witness_CopyTransfers :
    let s := copyC 0x10000 0x3FF00 256
    let peer := home { busy with ctx := { regs (2 ^ 32 + 0x3FF00) 0x3FF00 256 with mempol := 0x002C } }
    let h := home { busy with svc := some (handler 5 false), ctx := regs 0x10000 0x300 256 }
    guardOn (curCtx s) on = true ∧ guardOn (curCtx s) off = false ∧
    (viewOk (cur s) (valN s (.k 2)) (valN s (.k 3)) = true ∧ 0 < valN s (.k 3) ∧ valN s (.k 3) ≤ 262144) ∧
    viewOk (cur s) (valN s (.k 2) + 1) 256 = false ∧
    fallback true false false (polNow s 0) = (some ⟨0, 3, 0, 0⟩, false) ∧
    (fallback true false false (polNow peer 0) = (some ⟨0, 3, 1, 2⟩, true) ∧
      (let x := valN peer (.k 1)
       peerWell x = true ∧ inPart peer (peerCore x) = true ∧ peerAddr x + 256 ≤ 0x40000 ∧ ¬ peerAddr x + 257 ≤ 0x40000)) ∧
    ((cur h).svc.isSome = true ∧ some (0 : Fin 64) ≠ none ∧ viewOk (cur h) (valN h (.k 2)) 256 = true) ∧
    fallback false false false (polNow s 0) = (some ⟨0, 3, 0, 0⟩, false) ∧
    ((cur s).svc.isSome = false ∧ (cur s).mx.claimed.getLsbD 0 = true ∧ (cur s).mx.claimed.getLsbD 1 = false) ∧
    (let y : Nat := 63 * 2 ^ 6
     y < 2 ^ 12 ∧ (if y.testBit 5 then 16 else 128) * (64 - bits y 6 6) = 128) ∧
    (contextFree s 0 false = true ∧
      (let r : Req := { core := 0, bid := 1, part := 0, kind := .copy }
       contextFree { s with reqs := [(0, r), (1, r), (2, r), (3, r)] } 0 false = false)) := by decide +kernel

theorem witness_WalksAndMulticasts :
    let s := copyC 0x10000 0x3FFFC 0
    let z : Nat := 0x3FFFF + 0 * 2 ^ 18
    let v : Nat := 0x10000 + 4096 * 2 ^ 64 + 16384 * 2 ^ 80
    let m : Nat := 1 + 1 * 2 ^ 1
    let outside : Nat := 1 + 1 * 2 ^ 16
    guardOn (curCtx s) on = true ∧ guardOn (curCtx s) off = false ∧
    fallback false false false (polNow s 0) = (some ⟨0, 3, 0, 0⟩, false) ∧
    (z < 2 ^ 34 ∧ bits z 30 4 ≤ 8 ∧ ¬ bits (z + 9 * 2 ^ 30) 30 4 ≤ 8) ∧
    (viewOk (cur s) 0x3FFFC 4 = true ∧ viewOk (cur s) 0x3FFFC 8 = false ∧ viewOk (cur s) 0x3FFFF 1 = true ∧
      viewOk (cur s) 0x3FFFF 2 = false) ∧
    (viewOk (cur s) 0x3FFE0 32 = true ∧ (cur s).svc = none ∧ spadBad (cur s) 0x3FFE0 32 = false) ∧
    (bits v 55 9 = 0 ∧ bits v 193 63 = 0 ∧ bits v 64 16 ≤ 4096 ∧ bits v 80 16 ≤ 16384 ∧ bits v 160 32 ≤ 0x3FFFF) ∧
    (viewOk (cur s) 0x3C000 ((4096 - 1) * 0 + 16384) = true ∧ viewOk (cur s) 0x3C001 ((4096 - 1) * 0 + 16384) = false) ∧
    fallback true false false (polNow s 0) = (some ⟨0, 3, 0, 0⟩, false) ∧
    (let who := fun (z : Nat) => (List.range 16).filter fun i => z.testBit i
     let core := fun (z i : Nat) => bits z 20 2 * 256 + bits z 16 4 * 16 + i
     m < 2 ^ 22 ∧ who m = [0, 1] ∧ (∀ i ∈ who m, inPart s (core m i) = true) ∧ (who m).map (core m) = [0, 1] ∧ who 0 = [] ∧
     (∀ i ∈ who 2, core 2 i ≠ 0) ∧
     (∀ i ∈ who outside, core outside i ≠ 0) ∧ (∃ i ∈ who outside, inPart s (core outside i) = false) ∧
     (let y : Nat := 0x3FF00 + 256 * 2 ^ 32
      y = bits y 0 18 + bits y 32 19 * 2 ^ 32 ∧ bits y 0 18 + bits y 32 19 ≤ 0x40000 ∧ 0x40000 < 0x3FF01 + bits y 32 19) ∧
     (let y : Nat := 63 * 2 ^ 6 + 128 * 2 ^ 32
      y = bits y 0 12 + bits y 32 19 * 2 ^ 32 ∧ bits y 32 19 ≤ 128 * (64 - bits y 6 6) ∧ bits y 0 5 < 24 ∧
        (cur s).mx.claimed.getLsbD (bits y 0 5) = true)) := by decide +kernel

theorem witness_StampsAndAtomics :
    let s := copyC 0x10008 1 0x3FFF8
    let peer := home { busy with ctx := { regs (2 ^ 32 + 8) 1 0x3FFF8 with mempol := 0x002C } }
    guardOn (curCtx s) on = true ∧ guardOn (curCtx s) off = false ∧
    fallback true false true (polNow s 0) = (some ⟨2, 3, 0, 0⟩, true) ∧ fallback true false true (polNow peer 0) = (some ⟨2, 3, 1, 2⟩, true) ∧
    (peerWell (valN peer (.k 1)) = true ∧ inPart peer (peerCore (valN peer (.k 1))) = true) ∧
    (valN s (.k 1) % 8 = 0 ∧ (valN s (.k 1) + 1) % 8 ≠ 0) ∧ contextFree s 0 false = true ∧
    viewOk (cur s) (valN s (.k 3)) 8 = true ∧ viewOk (cur s) (valN s (.k 3) + 1) 8 = false ∧
    fallback false true false (polNow s 0) = (some ⟨0, 3, 0, 0⟩, false) ∧ (polNow peer 0).space = 1 ∧
    ([Instr.aadd on .belt 0 .i32 (.k 1) (.k 2) (.k 3)][0]? = some (.aadd on .belt 0 .i32 (.k 1) (.k 2) (.k 3))) := by decide +kernel

theorem witness_BarriersAndDrains :
    let s := copyC 63 (2 ^ 24 - 1) 0
    let armed : Core := spadWrite (cur s) 0x3FFF8 (leBytes 8 (2 ^ 25 + 7))
    let h := st { busy with svc := some (handler 5 false) }
    let req := fun (b : Bool) => { s with reqs := [(0, { core := 0, bid := 1, part := 0, kind := .atomic 0 .i32 0 0 0, complete := b })], nextReq := 1 }
    let object := fun (k : Core) => leNat (mReadN k.spad (0x3FE00 + 8 * 63) 8)
    let wait := fun (w : WaitKind) => (getCore (st { busy with ctx := { waits := [{ kind := w, slot := 4, seq := 0, dst := .belt }] } }) 0).ctx.waits
    guardOn (curCtx s) on = true ∧ guardOn (curCtx s) off = false ∧ (valN s (.k 1) ≤ 63 ∧ valN s (.k 2) < 2 ^ 24) ∧
    (cur s).svc = none ∧ (cur h).svc.isSome = true ∧ spadBad (cur s) 0x3FFF8 8 = false ∧
    ((object (cur s)).testBit 25 = false ∧ (object armed).testBit 25 = true) ∧ ((0 : Nat) ≤ coreTick s 0 ∧ coreTick s 0 < 1) ∧
    ((∀ q ∈ (req true).reqs, q.1 < 1 → q.2.core = 0 → reqAt (req true) q.1 q.2 3 = true) ∧
      (∀ q ∈ (req true).tlbis, q.1 < 1 → q.2.core = 0 → 3 < q.2.scope)) ∧
    ¬(∀ q ∈ (req false).reqs, q.1 < 1 → q.2.core = 0 → reqAt (req false) q.1 q.2 3 = true) ∧
    wait (.barw 63 1) = [{ kind := .barw 63 1, slot := 4, seq := 0, dst := .belt }] ∧
    wait (.drain .job 1) = [{ kind := .drain .job 1, slot := 4, seq := 0, dst := .belt }] := by
  decide +kernel

/-- A request that is no step of a stream. -/
theorem witness_BarriersAndDrains_kind : ∀ cl n k, ReqKind.atomic 0 .i32 0 0 0 ≠ .step cl n k := nofun

/-- The page table of partition 0: a root whose first entry maps the first 2^42 addresses to stack 0, pinned. -/
def rootE : Nat := 3 + 0xFF * 4 + 2 ^ 10 + 3 * 2 ^ 12 + 2 ^ 20
def rooted (s : State) : State :=
  { s with parts := [(0, { desc := desc ||| BitVec.ofNat 1024 (0x200000 * 2 ^ 384) })], mem := mWriteN [] 0x200000 (leBytes 8 rootE) }

/-- A descriptor of a stream of 65,535 steps with two consumers. -/
def streamD (nstep : Nat) : BitVec 512 :=
  BitVec.ofNat 512 (0x10000 + 2 ^ 64 + 8 * 2 ^ 80 + 2 ^ 128 + 8 * 2 ^ 144 + nstep * 2 ^ 320 + 2 ^ 352 + 3 * 2 ^ 448)

theorem witness_StreamsAndInvalidation :
    let s := copyC 15 65535 15
    let str : Stream := { isOpen := true, owner := 0, ownerBid := 1, part := 0, descVa := 0x10000, permits := [(0, 1), (1, 1)] }
    let on_ := fun (x : Stream) => setStream s 0 15 x
    let d := streamD 65535
    guardOn (curCtx s) on = true ∧ guardOn (curCtx s) off = false ∧ valN s (.k 1) ≤ 15 ∧ (0 : Nat) % 64 = 0 ∧ valN s (.k 2) ≤ 65535 ∧
    ((getStream s 0 15).isOpen = false ∧ (getStream s 0 15).desc = none) ∧
    ((getStream (on_ str) 0 15).isOpen = true ∧ (getStream (on_ str) 0 15).closing = false ∧ (getStream (on_ str) 0 15).owner = 0 ∧
      (getStream (on_ str) 0 15).ownerBid = reqBid (cur s) ∧ (getStream (on_ str) 0 15).desc = none ∧ (getStream (on_ str) 0 15).failed = false) ∧
    (let x := getStream (on_ { str with desc := some d }) 0 15
     x.desc = some d ∧ (bits d.toNat 448 16).testBit 0 = true ∧ smGetD x.permits 0 0 + 65534 ≤ bits d.toNat 320 32 ∧
     ¬ smGetD x.permits 0 0 + 65535 ≤ bits d.toNat 320 32) := by decide +kernel

theorem witness_StreamsAndInvalidation_step :
    let s := copyC 15 65535 15
    let str : Stream := { isOpen := true, owner := 0, ownerBid := 1, part := 0, descVa := 0x10000, permits := [(0, 1), (1, 1)] }
    let on_ := fun (x : Stream) => setStream s 0 15 x
    let d := streamD 65535
    let legal := fun (v : Nat) => walkOk (bits v 0 256) = true ∧ 1 ≤ bits v 320 32 ∧ 1 ≤ bits v 352 8 ∧ bits v 352 8 ≤ 16 ∧
      bits v 361 23 = 0 ∧ bits v 402 14 = 0 ∧ bits v 470 1 = 0 ∧ bits v 472 40 = 0 ∧
      (v.testBit 360 = true → ∃ m < 16, bits v 448 16 = 2 ^ m)
    (let r := readVirt (on_ str) 0 0 1 0x10000 64
     r = (r.1, .ok (List.replicate 64 0)) ∧ (List.replicate 64 (0 : Byte)).length = 64 ∧ ¬ legal (leNat (List.replicate 64 (0 : Byte)))) ∧
    legal d.toNat ∧
    (let r := readVirt (on_ { str with descVa := 0x20000 }) 0 0 1 0x20000 64
     r = (r.1, .error (1, 0x20000))) ∧
    (let u := d.toNat
     let x := { str with desc := some d }
     let who := (List.range 16).filter fun i => (bits u 448 16).testBit i
     (x.started < bits u 320 32 ∧ ∀ i ∈ who, x.started < smGetD x.permits i 0) ∧
     bits u 384 18 + x.started % bits u 352 8 * bits u 416 32 + (bits u 64 16 - 1) * bits u 160 32 + bits u 80 16 ≤ 0x40000 ∧
     (let w := u + 0x3FFFF * 2 ^ 384
      0x40000 < bits w 384 18 + x.started % bits w 352 8 * bits w 416 32 + (bits w 64 16 - 1) * bits w 160 32 + bits w 80 16) ∧
     ¬ ∀ i ∈ who, smGetD x.permits i 0 < smGetD x.permits i 0) := by decide +kernel

theorem witness_StreamsAndInvalidation_tlbi :
    let s := copyC 15 65535 15
    let op : TlbiOp := { core := 0, part := 0, scope := 2, lo := 0, hi := 2 ^ 55 }
    let gone : TlbiOp := { op with removed := true, users := [0] }
    let r : Req := { core := 0, bid := 1, part := 0, kind := .copy
                     pieces := [{ src := .none, dst := .virt 0x10000, len := 1, stage := 1, buf := [1] }] }
    let t := fun (op : TlbiOp) (over_ : Bool) => { s with tlbis := [(0, op)], reqs := [(0, { r with complete := over_ })] }
    let w := rooted (t op false)
    (curCtx s).kern = false ∧ (curCtx (stC { kern := true })).kern = true ∧ valN s (.k 3) < 16 ∧
    (smGet (t op false).tlbis 0 = some op ∧ op.removed = false ∧ usedLeaf (t op false) op r = true ∧ usedLeaf (t { op with lo := 0x20000 } false) { op with lo := 0x20000 } r = false) ∧
    (gone.removed = true ∧ (getReq (t gone false) 0).complete = false ∧ (getReq (t gone false) 0).told = false ∧
      (getReq (t gone true) 0).complete = true) ∧
    partHasCluster (getPart (t op false) 0) 0 = true ∧ partHasCluster (getPart (t op false) 0) 1 = false ∧
    (page ∈ (getTwe (t op false) 0).tlb ∧ page.part = op.part ∧ page.va < op.hi ∧ op.lo < page.va + leafSize page.lvl ∧
      (getTwe (t op false) 0).tlb.length ≤ 2048) ∧
    (walk w page.va [0, 1, 2] (partRoot (getPart w 0)) = .ok (0, rootE) ∧ entPin rootE = true ∧
      ∃ bit < 8, leafCheck w 0 bit 0 rootE page.va = none) := by
  decide +kernel

/-- A round of one contribution, with its opener as request 0 and its destination in pages 1 and 2. -/
def roundS (dst : Nat) (x : Round) : State :=
  { home {} with
    twes := [(0, { tlb := [page, { page with va := 0x20000 }, { page with va := 0x30000, e := BitVec.ofNat 64 (3 + 0xFF * 4 + 2 ^ 11 + 3 * 2 ^ 12 + 2 ^ 20 + 0xC0000001 * 2 ^ 22) }] })]
    reqs := [(0, { core := 0, bid := 0, part := 0, kind := .rdc .addI32 4 1 0 dst 8, mid := true, wrBit := 5
                   pieces := [{ src := .spad 0 8, dst := .none, len := 4, stage := 2 }, { src := .none, dst := .virt dst, len := 4 }] })]
    nextReq := 1
    rounds := [(7, x)] }

theorem witness_Reductions_result :
    let x := fun (dst : Nat) => ({ group := 0, n := 1, op := .addI32, len := 4, dst := dst, part := 0, opener := 0, got := [(0, (0, [1, 2, 3, 4]))] } : Round)
    let s := fun (dst : Nat) => roundS dst (x dst)
    let o := fun (dst : Nat) => getReq (s dst) 0
    (smGet (s 0x10000).rounds 7 = some (x 0x10000) ∧ mayWriteRound (s 0x10000) (x 0x10000) = true) ∧
    mayWriteRound (s 0x10000) { x 0x10000 with n := 2 } = false ∧
    ((o 0x10000).wrBit = 5 ∧ roundResult (x 0x10000) = [1, 2, 3, 4] ∧
      virtAccess (s 0x10000) (o 0x10000) 5 0x10000 4 false = ((virtAccess (s 0x10000) (o 0x10000) 5 0x10000 4 false).1, .ok pageX)) ∧
    (let a := 0x1FFFE
     65536 - a % 65536 < 4 ∧ mayWriteRound (s a) (x a) = true ∧
     virtAccess (s a) (o a) 5 a 2 false = ((virtAccess (s a) (o a) 5 a 2 false).1, .ok ⟨0x1FFFE, 3, 1, true⟩) ∧
     virtAccess (s a) (o a) 5 0x20000 2 false = ((virtAccess (s a) (o a) 5 0x20000 2 false).1, .ok pageX)) ∧
    (let r := (virtAccess (s 0x30000) (o 0x30000) 5 0x30000 4 false).2
     mayWriteRound (s 0x30000) (x 0x30000) = true ∧ r = .ok ⟨0xC00000010000, 3, 2, true⟩ ∧ paKind 0xC00000010000 = .kiln 0 0x10000) ∧
    (let y : Round := { x 0 with n := 2 }
     let old : BitVec 128 := 0
     let new : BitVec 128 := BitVec.ofNat 128 (2 ^ 64)
     let t := roundS 0 y
     smGet t.rounds 7 = some y ∧ y.group = 16 * 0 + 0 ∧ y.got.length < y.n ∧ (old.getLsbD 64 ≠ new.getLsbD 64) ∧ (t.rounds.map (·.1)).Nodup ∧
     t.rounds.filter (fun q => decide (q.2.group = y.group ∧ q.2.got.length < q.2.n)) = [(7, y)]) ∧
    (let m : Round := { x 0 with op := .mxrE2m1, len := 256, got := [(5, (0, List.replicate 256 0xFF))] }
     (∀ c ∈ m.got, c.1 < 64 ∧ c.2.2.length = m.len) ∧ (m.got.map (·.1)).Pairwise (· < ·) ∧ m.got ≠ [] ∧
     m.got[0]? = some (5, (0, List.replicate 256 0xFF))) ∧
    (let b : Round := { x 0 with op := .addBf16 }
     b.op ≠ .mxrE4m3 ∧ b.op ≠ .mxrE2m1 ∧ b.len % 2 = 0) ∧ (4 % (64 / 8) ≠ 0 ∧ 8 % (64 / 8) = 0) := by
  decide +kernel

theorem witness_Reductions :
    let own : BitVec 128 := BitVec.ofNat 128 (2 ^ 64)
    let s := { copyC 0x10000 0x3FF00 1 with rdcown := [(0, own)] }
    let r : Req := { core := 0, bid := 0, part := 0, kind := .rdc .addI32 4 2 0 0x10000 8
                     pieces := [{ src := .spad 0 8, dst := .none, len := 4 }, { src := .none, dst := .virt 0x10000, len := 4 }] }
    let t := { home {} with reqs := [(0, r)], nextReq := 1 }
    let x : Round := { group := 0, n := 2, op := .addI32, len := 4, dst := 0x10000, part := 0, opener := 1, got := [(1, (1, [1, 0, 0, 0]))] }
    let two : Round := { x with got := [(0, (0, [1, 0, 0, 0])), (1, (1, [255, 255, 255, 255]))] }
    guardOn (curCtx s) on = true ∧ guardOn (curCtx s) off = false ∧ viewOk (cur s) (valN s (.k 2)) 256 = true ∧
    viewOk (cur s) (valN s (.k 2) + 1) 256 = false ∧
    fallback false false false (polNow s 0) = (some ⟨0, 3, 0, 0⟩, false) ∧ (polNow (stC { mempol := 0x002C }) 0).space = 1 ∧
    (4 ≤ 256 ∧ 256 ≤ 256 ∧ 256 % 4 = 0 ∧ valN s (.k 3) = bits (valN s (.k 3)) 0 6 + bits (valN s (.k 3)) 8 4 * 2 ^ 8 ∧ valN s (.k 1) % 4 = 0) ∧
    (own.getLsbD 64 = true ∧ bits own.toNat 0 4 = reqPart s 0 ∧ own.getLsbD 65 = false) ∧
    (smGet t.reqs 0 = some r ∧ mayContribute t 0 r = true ∧ smGet t.rounds 0 = none ∧ (∀ q ∈ t.rounds, q.2.group = 0 → ¬ q.2.got.length < q.2.n)) ∧
    ([(0, x)].filter (fun q => decide (q.2.group = 0 ∧ q.2.got.length < q.2.n)) = [(0, x)] ∧ smGet x.got 0 = none ∧ smGet two.got 0 ≠ none ∧
      r.pieces = { src := .spad 0 8, dst := .none, len := 4 } :: [{ src := .none, dst := .virt 0x10000, len := 4 }]) ∧
    (r.service = false ∧ r.bid = 0 ∧ (getCore t 0).blk = none ∧ (getCore t 0).run ≠ .fenced ∧ ∀ m ∈ ([] : SMap (Nat × List Byte)), (getReq t m.2.1).core ≠ 0) ∧
    (mayWriteRound { t with reqs := [(0, { r with mid := true }), (1, { r with core := 1, mid := true })], rounds := [(0, two)] } two = true) ∧
    ((∀ m ∈ two.got, m.1 < 64 ∧ m.2.2.length = two.len) ∧ (two.got.map (·.1)).Pairwise (· < ·) ∧ two.len % 4 = 0 ∧ two.got ≠ []) := by
  decide +kernel

/-- A copy of eight bytes from page 1 to the scratchpad of core 0, as request 0. -/
def copyR (p : Piece) : Req := { core := 0, bid := 1, part := 0, kind := .copy, pieces := [p] }
def copyS (p : Piece) : State := { home busy with reqs := [(0, copyR p)], nextReq := 1 }

theorem witness_MovingBytesAndAtomics :
    let take : Piece := { src := .virt 0x10000, dst := .spad 0 0x3FDF8, len := 8 }
    let give : Piece := { src := .spad 0 0, dst := .virt 0x10000, len := 8 }
    let full : Piece := { give with stage := 1, buf := List.replicate 8 1 }
    let lands : Piece := { take with stage := 1, buf := List.replicate 8 1, bar := some (0, 63) }
    let a0 : Piece := { src := .virt 0x10000, dst := .none, len := 4 }
    let a1 : Piece := { src := .none, dst := .spad 0 8, len := 8 }
    let atom : Req := { copyR a0 with kind := .atomic 7 .i32 0x10000 (BitVec.ofNat 64 (2 ^ 32 - 1)) 8, pieces := [a0, a1], rdBit := 4, wrBit := 4 }
    let t := { home busy with reqs := [(0, atom)], nextReq := 1 }
    (let s := copyS take
     (getReq s 0).pieces = [take] ∧ (getReq s 0).kind = .copy ∧ take.bar = none ∧ srcReady s 0 (getReq s 0) take = true ∧
     srcReady (copyS { take with src := .virt 0x20000 }) 0 (getReq s 0) { take with src := .virt 0x20000 } = false ∧
     virtAccess s (getReq s 0) 1 0x10000 8 true = ((virtAccess s (getReq s 0) 1 0x10000 8 true).1, .ok pageX)) ∧
    (let s := copyS give
     (0 : Nat) = (getReq s 0).core ∧ srcReady s 0 (getReq s 0) give = true ∧ give.stage = 0) ∧
    (let s := copyS full
     full.buf.length = full.len ∧ dstReady s 0 (getReq s 0) [0] 0 = true ∧ pageX.pa % 64 + full.len ≤ 64 ∧
     dstReady (copyS { full with dst := .virt 0x20000 }) 0 (getReq (copyS { full with dst := .virt 0x20000 }) 0) [0] 0 = false ∧
     virtAccess s (getReq s 0) 2 0x10000 8 false = ((virtAccess s (getReq s 0) 2 0x10000 8 false).1, .ok pageX)) ∧
    (let s := copyS lands
     let armed := fun (v : Nat) => setCore s 0 (spadWrite busy 0x3FFF8 (leBytes 8 v))
     let old := fun (v : Nat) => leNat (mReadN (getCore (armed v) 0).spad (0x3FE00 + 8 * 63) 8)
     lands.buf.length = lands.len ∧ mayLand s 0 (getReq s 0) 0 = true ∧ 0x3FDF8 + lands.len ≤ 0x3FE00 ∧
     mayLand (setCore s 0 { busy with portAt := some (portCycle s 0) }) 0 (getReq s 0) 0 = false ∧
     (getCore (setCore s 0 { busy with readAt := some (portCycle s 0) }) 0).readAt = some (portCycle s 0) ∧
     (getCore (setCore s 0 { busy with portAt := some (portCycle s 0) }) 0).portAt = some (portCycle s 0) ∧
     ((old (2 ^ 25 + 9)).testBit 25 = true ∧ lands.len < bits (old (2 ^ 25 + 9)) 0 24) ∧
     ((old (2 ^ 25 + 8)).testBit 25 = true ∧ lands.len = bits (old (2 ^ 25 + 8)) 0 24) ∧
     bits (old (2 ^ 25 + 7)) 0 24 < lands.len ∧ (old 0).testBit 25 = false) ∧
    ((copyR { take with stage := 2 }).complete = false ∧ (copyR { take with stage := 2 }).told = false) ∧
    ((getReq t 0).kind = .atomic 7 .i32 0x10000 (BitVec.ofNat 64 (2 ^ 32 - 1)) 8 ∧ (getReq t 0).pieces = [a0, a1] ∧
      (BitVec.ofNat 64 (2 ^ 32 - 1)).toNat < 2 ^ (8 * 4) ∧ mayAtomic t 0 (getReq t 0) = true ∧
      virtAccess t (getReq t 0) 4 0x10000 4 true = ((virtAccess t (getReq t 0) 4 0x10000 4 true).1, .ok pageX) ∧ pageX.pa % 4 = 0) := by
  decide +kernel

theorem witness_MovingBytesAndAtomics_kiln : ∀ die off, paKind pageX.pa ≠ .kiln die off := not_kiln _ (by decide)

theorem witness_FaultsAndFetches :
    let bad : Piece := { src := .virt 0x20000, dst := .spad 0 0, len := 8 }
    let s := copyS bad
    let root := { rooted s with twes := [] }
    let late := { s with reqs := [(0, { copyR { bad with src := .virt 0x10000 } with promise := some 0 })] }
    (∃ e, reqFault s (getReq s 0) = some e ∧ e.cause ≠ .dataerr) ∧ reqFault late (getReq late 0) = none ∧
    ((getReq s 0).told = false ∧ (getReq s 0).kind = .copy ∧ ∀ x ∈ s.rounds, ∀ c ∈ x.2.got, c.2.1 ≠ 0) ∧
    ((getCore s 0).blk = some blk ∧ (getReq s 0).service = false ∧ blk.bid = (getReq s 0).bid ∧ blk.exited = false ∧ (getCore s 0).run ≠ .fenced) ∧
    (∃ q ∈ late.reqs, q.2.core = 0 ∧ q.2.service = (getCore late 0).svc.isSome ∧ q.2.bid = reqBid (getCore late 0) ∧ q.2.told = false ∧
      q.2.complete = false ∧ q.2.promise = some 0 ∧ 0 ≤ coreTick late 0 ∧ reqAt late q.1 q.2 q.2.scope = false) ∧
    (∀ q ∈ late.reqs, reqFault late q.2 = none) ∧
    (0x10000 < 2 ^ 55 ∧ walk s 0x10000 [0, 1, 2] (partRoot (getPart s 0)) = .error 1) ∧
    (walk root 0x10000 [0, 1, 2] (partRoot (getPart root 0)) = .ok (0, rootE) ∧
      (∃ bit < 8, leafCheck root 0 bit 0 rootE 0x10000 = none) ∧ (getTwe root 0).tlb.length < 2048) ∧
    ((getCore s 0).code.length < 128 ∧ readLine s 0 256 = ((readLine s 0 256).1, .ok (List.replicate 256 0)) ∧
      readMeta s 0 1 = ((readMeta s 0 1).1, (readMeta s 0 1).2)) := by
  decide +kernel

/-- A region of 100 cycles and 10 slots on source 1, with cluster 0 and latch 0. -/
def reg : Region := { m := 100, d := 10, src := 1, ren := true, st := .locked, den := 100 }
def regS (x : Region) : State := { State.reset with regions := [(0, x)], clusterRegion := [(0, 0)], sources := [(1, { pnum := 100, pden := 1, sen := true, times := [0] })], fwl := [(513, BitVec.ofNat 32 (2 ^ 4 + 2 ^ 5 + 2 ^ 6))] }

theorem witness_SourcesAndFrames_edge :
    let s := regS reg
    let stopped : Region := { reg with st := .stopped, goodT := some 0, goodN := 10 }
    let back : Source := { pnum := 100, pden := 1, sen := true, times := [2900] }
    (0 < reg.d ∧ reg.d ≤ reg.m) ∧ ((getSource s 0).sen = false ∧ (getSource s 1).sen = true ∧ (1 : Nat) ≠ 0) ∧
    (streamLane s 1 0 = some (2 ^ 4 + 2 ^ 5 + 2 ^ 6) ∧ streamLane State.reset 1 0 = none) ∧
    (regionsOf s 1 = [0] ∧ (getRegion s 0).st = .locked ∧ (getSource s 1).times[15]? = none ∧ (getRegion s 0).clamp = false) ∧
    ((List.replicate 17 0)[15]? = some 0 ∧ 16 ≤ ({ reg with goodN := 16 } : Region).goodN ∧
      (1600 * 100 ≤ (1600 - 0) * 101 * 1 ∧ (1600 - 0) * 9 * 1 ≤ 160 * 100) ∧ 160 * 100 < (1778 - 0) * 9 * 1 ∧
      ((1584 - 0) * 101 * 1 < 1600 * 100 ∧ (1584 - 0) * 9 * 1 ≤ 160 * 100)) ∧
    (back.times.head? = some 2900 ∧ inLock back (3000 - 2900) = true ∧ 0 + 2000 < 3000 ∧ stopped.stopT < 3000 ∧
      (stopped.goodN + 1 - 1) % max 1 stopped.d = 0 ∧ (9 + 1 - 1) % max 1 stopped.d ≠ 0) ∧
    ({ stopped with goodN := 11 }.st = .stopped ∧ stopped.stopT < 2001 ∧ (11 - 1) % max 1 stopped.d = 0 ∧ stopped.goodT = some 0 ∧
      0 + 2000 < 2001 ∧ ¬ 0 + 2000 < 2000) := by
  decide +kernel

theorem witness_SourcesAndFrames :
    let s := regS reg
    let cyc := fun (n : Nat) => { reg with cyf := n }
    regionLatches s 0 = [0] ∧ (slotHere (cyc 3) = none ∧ slotHere (cyc 2) = some 0 ∧ slotHere (cyc 98) = some 10) ∧
    ((getRegion s 0).src = 1 ∧ (getSource s 1).times.head? = some 0) ∧
    ((399 - 0) * 1 < (if reg.losn = 0 then 4 else reg.losn) * 100 ∧ (if reg.losn = 0 then 4 else reg.losn) * 100 ≤ (400 - 0) * 1) ∧
    (({ reg with st := .holdover } : Region).st = .holdover ∧ ({ reg with st := .holdover } : Region).cyf = 0) ∧

    (slotBefore (cyc 1) (reg.m / (4 * reg.d)) = none ∧ slotBefore (cyc 2) (reg.m / (4 * reg.d)) = some 0 ∧
      slotBefore (cyc 92) (reg.m / (4 * reg.d)) = some 9) ∧
    ((9 : Nat) ∉ reg.edges ∧ 9 ∈ ({ reg with edges := [9] } : Region).edges ∧ (s.clusterRegion.map (·.1)).Nodup) ∧
    (slotBefore (cyc 0) reg.ioff = some 0 ∧ slotBefore (cyc 99) reg.ioff = none) ∧
    ((∀ c ∈ (smGetD s.latches 0 {}).cap, c.2 ≠ 0) ∧ ({ cap := [(7, 0)] } : Latch).cap.find? (fun c => c.2 == 0) = some (7, 0)) ∧
    ((∀ o ∈ s.objs, keyLevel o.1 = 3 → o.2.live = false) ∧ (getObj s (getInst s (reg.inst.getD 0)).job).live = false ∧ reg.overN = 0) := by
  decide +kernel

theorem witness_CrossingsAndStalls :
    let z : Crossing := { run := true, fresh := false, xfmt := List.replicate 8 0, xntap := 7, slotS := 0, p := 3 * 2 ^ 32 }
    let e : TEntry := { frame := 0, cyf := 0, core := 1, kernel := 0, entry := 0, budget := 5 }
    let i : Inst := { live := true, cores := [0, 1], regions := [0], kernels := [{}] }
    let s := fun (x : Region) => { regS x with xings := [(0, z)], insts := [(0, i)] }
    let x : Region := { reg with cyf := 90, began := 90, table := [e] }
    let st2 : Region := { reg with table := [e], stalled := true, relNext := true, stallN := 100 }
    let free := fun (s : State) (e : TEntry) => (getCore s e.core).blk = none ∧ (getCore s e.core).run = .idle
    let slipping : Region := { reg with slipDue := true, srcTick := 200, cyf := 50, frame := 0, table := [{ e with frame := 1 }] }
    ((getXing (s x) 0).run = true ∧ (getXing (s { reg with cyf := 10 }) 0).slotS + 1 = 0 * 10 + ((10 + 1) * 10 - 1) / 100) ∧
    (({} : Crossing).run = false) ∧
    ((getRegion (s x) z.down).stalled = false ∧ (getRegion (s x) z.down).st ≠ .stopped ∧ (getRegion (s x) z.down).st ≠ .idle ∧
      slotBefore (getRegion (s x) z.down) z.xdoff = some 9) ∧
    ((getRegion (s { x with st := .stopped }) 0).st = .stopped ∧ z.xstoppol = 0) ∧ (({ z with fresh := true } : Crossing).fresh = true ∧ 0 < x.m) ∧
    ¬(slotBefore x z.xdoff = some (x.frame * x.d) ∧ 0 < x.frame) ∧
    ((((x.began * x.d / x.m : Nat) : Int) - 1 - (z.p / 2 ^ 32 : Nat)) % 65536 ≤ (15 - 0 : Nat)) ∧
    ((15 - z.xntap : Nat) < (((x.began * x.d / x.m : Nat) : Int) - 1 - (9 : Nat)) % 65536 ∧ z.xfmt.getD 7 0 < 2) ∧
    (let y := { reg with table := [e] }
     y.leanOn = false ∧ y.table.filter (fun e => decide (e.done = 0 ∧ e.frame = y.frame ∧ e.cyf = y.cyf)) = [e] ∧ free (s y) e ∧
     (getInst (s y) (y.inst.getD 0)).cores.head? ≠ some e.core ∧
     (∃ e ∈ y.table, (e.done = 0 ∧ e.frame = y.frame ∧ e.cyf = y.cyf) ∧ ¬ free (setCore (s y) 1 busy) e)) ∧
    (st2.stalled = true ∧ st2.relNext = true ∧ (∀ e ∈ st2.table, free (s st2) e) ∧ st2.m ≤ st2.stallN) ∧
    (∀ e ∈ st2.table, ¬ free (setCore (s st2) 1 busy) e) ∧ (getObj (s st2) (getInst (s st2) (st2.inst.getD 0)).job).live = false ∧
    (slipping.slipDue = true ∧ slipping.stalled = false ∧ slipping.m ≠ 0 ∧ slipping.srcTick % slipping.m = 0) ∧
    (∀ c ∈ regionCores (s slipping) 0, (getCore (s slipping) c).dbghold = false) ∧
    (∃ c ∈ regionCores (s slipping) 0, (getCore (setCore (s slipping) 15 { dbghold := true }) c).dbghold = true) := by
  decide +kernel

/-- A launch of core 1, its region past its watchdog, and one waiting to run again. -/
def launched (o : Obj) (b : Block) : State :=
  { setCore (regS { reg with wd1 := 1, wd2 := 1, wd3 := 1, frame := 1 }) 1 { busy with blk := some b } with objs := [(4096, o)] }
def launchO : Obj := { live := true, gen := 1, cores := [1], units := [1], trigs := [1], cluN := [(0, 1)], dieN := 1 }
def launchB : Block := { blk with launch := some 4096, member := 1, home := 1 }

theorem witness_CompletionAndWatchdog :
    let s := launched launchO launchB
    let idle := { s with cores := [] }
    let out := launched { launchO with released := true } { launchB with exited := true, trig := some 0 }
    let graph : Obj := { live := true, pend := [1024], dieN := 1, ending := true }
    (launchO.live = true ∧ launchO.released = false ∧ launchO.units ≠ [] ∧ launchO.due ≤ 0 ∧ launchO.held = false ∧ launchO.pred = none ∧
      launchO.predT = none ∧ launchAfter s launchO 0 = true ∧ launchO.cores = [1] ∧ launchO.part = (getInst s launchO.inst).part ∧
      (getCore idle 1).blk = none ∧ (getCore idle 1).run = .idle) ∧
    ((getCore out 1).blk = some { launchB with exited := true, trig := some 0 } ∧ (∀ v ∈ out.saved, v.core = 1 → v.blk.exited = false) ∧
      (∀ q ∈ out.reqs, q.2.bid = 1 → q.1 < out.nextReq → reqAt out q.1 q.2 3 = true) ∧ launchB.trigDone = false ∧
      launchB.launch = some 4096 ∧ launchO.trigs.erase launchB.member = [] ∧ launchB.member ∈ launchO.units) ∧
    (let fenced := setCore s 1 { busy with run := .fenced }
     (getCore fenced 1).blk = some blk ∧ (getCore fenced 1).run = .fenced ∧ blk.launch = none ∧ blk.graph = none ∧ (getCore s 1).run ≠ .fenced) ∧
    (launchO.pend = [] ∧ ({ launchO with pend := [1] } : Obj).pend = 1 :: [] ∧ (1 : Nat) < 1024 ∧ smGetD launchO.cluN 0 0 - 1 = 0 ∧
      smGetD [(0, 2)] 0 0 - 1 ≠ (0 : Nat)) ∧
    (graph.pend = 1024 :: [] ∧ 1024 ≤ (1024 : Nat) ∧ graph.dieN ≤ 1 ∧ 4096 / 4096 = 1 ∧ 8192 / 4096 = 2 ∧ graph.members = [] ∧
      ({ graph with ending := false } : Obj).ending = false ∧ ¬ ({ graph with dieN := 2 } : Obj).dieN ≤ 1) ∧
    (graph.live = true ∧ graph.ending = true ∧ graph.phases = [] ∧ 12288 / 4096 = 3 ∧ 16384 / 4096 = 4 ∧ launchO.graph = none ∧
      ({ launchO with dieN := 0 } : Obj).dieN = 0 ∧ ({} : Obj).live = false) := by
  decide +kernel

theorem witness_CompletionAndWatchdog_watchdog :
    let s := launched launchO launchB
    let wd := fun (n : Nat) => launched { launchO with released := true, wdStep := n } launchB
    let x := reg
    (∀ n ∈ [0, 1, 2],
      (getObj (wd n) 4096).live = true ∧ (getObj (wd n) 4096).released = true ∧ (getObj (wd n) 4096).wdTick + 1 * x.m ≤ regTick (getRegion (wd n) 0) ∧
      (allBlocks (wd n)).filter (fun b => b.2.launch == some 4096) = [(1, launchB)] ∧ (getCore (wd n) 1).run = .running ∧
      (getCore (wd n) 1).ctx.waits = [] ∧ (getCore (wd n) 1).svc = none ∧ (coreRegion (wd n) 1).st ≠ .stopped ∧ launchB.exited = false) ∧
    (let o : Obj := { launchO with redo := [(100, 1, 1)] }
     o.redo = [(100, 1, 1)] ∧ 100 ≤ regTick (getRegion s 0) ∧ regTick (getRegion (regS reg) 0) < 100) := by
  decide +kernel

/-- Saving and restoring: an area of twelve pinned pages, and one whose first page has no table. -/
theorem witness_StopsAndHandlers_area :
    let b : Block := { blk with area := 0x10000 }
    let heldK : Core := { busy with run := .held .preempt, blk := some b }
    let leaves := (List.range 12).map fun i => { page with va := 0x10000 + 65536 * i }
    let s := fun (k : Core) => { home k with twes := [(0, { tlb := leaves })] }
    let saved : Saved := { ctx := {}, mx := {}, spad := [], dict := [], blk := b, core := 0, cause := .preempt, faults := [], codeBase := 0, dlHold := false }
    let r := { s {} with saved := [saved] }
    let k1 : Core := { getCore r 0 with run := .held saved.cause, codeBase := saved.codeBase, ctx := saved.ctx, mx := saved.mx, spad := saved.spad, dict := saved.dict, code := [], metas := [], blk := some saved.blk, faults := saved.faults, badWords := [], dlHold := saved.dlHold }
    let parts := areaRanges heldK.mx (!nothingInFlight heldK)
    let walks := fun (bit area : Nat) (s : State) => areaWalk 0 bit area parts (List.range 12) s
    let xs := (List.range 12).map fun _ => (⟨0x10000, 3, 1, true⟩ : Xlat)
    (walks 2 b.area (s heldK) = ((walks 2 b.area (s heldK)).1, .ok xs) ∧ (getCore (s heldK) 0).badWords = []) ∧
    walks 2 0x100000 (s heldK) = ((walks 2 0x100000 (s heldK)).1, .error (1, 0x100000)) ∧
    ((getCore r 0).run = .idle ∧ (getCore r 0).blk = none ∧ (getCore r 0).resv = none ∧ savedFor r 0 = some saved ∧
      (let t := { setCore r 0 k1 with saved := r.saved.erase saved }
       walks 1 saved.blk.area t = ((walks 1 saved.blk.area t).1, .ok xs) ∧
       areaRanges saved.mx (!nothingInFlight k1) = parts)) ∧
    (let m : Mx := { claimed := 1, now := { tiles := [{ used := true }, {}, {}, {}] } }
     let c : Ctx := { vb := [⟨1, false⟩] }
     Memory.wf [] = true ∧ (m.now.data.map (·.1)).Nodup ∧ (m.now.side.map (·.1)).Nodup ∧ (∀ q ∈ m.now.planes, q.1 < 128) ∧
     (c.vb.getD 0 {}).void = false ∧ m.claimed.getLsbD 0 = true ∧ (m.now.tiles.getD 0 {}).used = true ∧
     (m.now.tiles.getD 0 {}).cy.length = 64 ∧ (m.now.tiles.getD 0 {}).ex.length = 64 ∧ (tileRow (m.now.tiles.getD 0 {}) 0).length = 64) := by
  decide +kernel

theorem witness_StopsAndHandlers :
    let b : Block := { blk with area := 0x10000 }
    let heldK : Core := { busy with run := .held .preempt, blk := some b }
    let leaves := (List.range 12).map fun i => { page with va := 0x10000 + 65536 * i }
    let s := fun (k : Core) => { home k with twes := [(0, { tlb := leaves })] }
    let h := fun (n : Nat) (x : Bool) => { busy with svc := some (handler n x), svreq := 8 }
    let ev := fun (k : Core) (len : Nat) => { s k with svents := [(3, BitVec.ofNat 32 (0x100 + len * 2 ^ 16))] }
    ((getCore (s heldK) 0).run = .held .preempt ∧ (getCore (s heldK) 0).blk = some b ∧ (getCore (s heldK) 0).snapLeft = 0 ∧
      (∀ q ∈ (s heldK).reqs, q.2.core = 0 → q.2.complete = true)) ∧
    ((getCore (s { heldK with snapLeft := 1 }) 0).snapLeft ≠ 0 ∧
      (let k := { h 1 true with saveDue := true }
       k.run = .running ∧ k.svc ≠ none ∧ k.blk ≠ none ∧ k.saveDue = true)) ∧
    ((getCore (s { heldK with dbghold := true, run := .held .debug }) 0).dbghold = true ∧ Run.held .preempt ≠ .held .debug ∧
      (let t := s { heldK with dbghold := true }
       ∃ q ∈ t.cores, q.2.dbghold = true ∧ ownerPart t 1 = some 0 ∧ ownerPart t q.1 = some 0)) ∧
    ((getCore (s (h 1 true)) 0).svc = some (handler 1 true) ∧ (handler 1 true).left ≠ 0 ∧ (handler 0 true).left = 0 ∧
      (handler 0 false).exited = false ∧ (handler 0 true).exited = true ∧
      (∀ q ∈ (s (h 0 true)).reqs, q.2.core = 0 → q.2.service = true → reqAt (s (h 0 true)) q.1 q.2 3 = true)) ∧
    (let len := fun (s : State) (n : Nat) => bits (smGetD s.svents n 0).toNat 16 12
     let fits := fun (s : State) (k : Core) (n : Nat) => n < 16 ∧ k.svreq.getLsbD n = true ∧ len s n ≠ 0 ∧
       len s n + k.svused.toNat ≤ ((k.blk.map (·.budget)).getD 0)
     (fits (ev (h 0 true) 100) (h 0 true) 3 ∧ ∀ m < 3, ¬ fits (ev (h 0 true) 100) (h 0 true) m) ∧
     (∀ n < 17, ¬ fits (ev (h 0 true) 101) (h 0 true) n)) ∧
    (let k : Core := { busy with dlen := true }
     k.run = .running ∧ k.svc = none ∧ k.dlen = true ∧ k.deadline = 0 ∧ k.mxWas = none ∧
     (getCore (takeStop 0 { cause := .deadline } (home { k with ctx := { traprec := 0x10000 } })) 0).run = .held .deadline) := by
  decide +kernel


def jobJ : JobSlot := { job := 5, en := true, pool := 0x10000, ncell := 2, spgper := 100 }

theorem witness_FabricCalls :
    let full : JobSlot := { jobJ with cells := [(0, .full 3 16), (1, .taken 1 16)] }
    let s := fun (j : JobSlot) (x y z : Nat) => { copyC x y z with jobs := [(0, j)] }
    let send := s jobJ (1 * 2 ^ 12 + 5 * 2 ^ 16) 0x3F000 4096
    let recv := s full 5 0x3EFE0 1
    let m : Msg := { spkg := 0, sdie := 0, score := 0, tag := 0, job := 5, seq := 0, inj := 0, len := 1, dpkg := 0, ddie := 0, bytes := [] }
    let wait := fun (w : WaitKind) => (getCore (st { busy with ctx := { waits := [{ kind := w, slot := 4, seq := 0, dst := .belt }] } }) 0).ctx.waits
    let r : Req := copyR { src := .virt 0x10000, dst := .spad 0 0, len := 8, stage := 2 }
    guardOn (curCtx send) on = true ∧ guardOn (curCtx send) off = false ∧
    (viewOk (cur send) (valN send (.k 2)) (valN send (.k 3)) = true ∧ viewOk (cur send) (valN send (.k 2) + 1) 4096 = false) ∧
    ((polNow send 0).space ≠ 1 ∧ (polNow (stC { mempol := 0x002C }) 0).space = 1) ∧
    (let x := valN send (.k 1)
     x = bits x 0 14 + bits x 16 16 * 2 ^ 16 ∧ jobOn send 0 (bits x 16 16) = some 0 ∧ (getJob send 0).part = reqPart send 0) ∧
    jobOn send 0 6 = none ∧
    (unsentOf send 0 5 < 32 ∧ contextFree send 0 false = true ∧
      32 ≤ unsentOf { send with msgs := (List.range 32).map fun n => (2 * n, m) } 0 5) ∧
    (viewOk (cur recv) (valN recv (.k 2)) 4128 = true ∧ viewOk (cur recv) (valN recv (.k 2) + 1) 4128 = false ∧ coreTick recv 0 < valN recv (.k 3)) ∧
    (viewOk (cur recv) 0x3FFC0 64 = true ∧ viewOk (cur recv) 0x3FFC1 64 = false) ∧
    (0xFFFF < (0x10000 : Nat) ∧ valN recv (.k 1) ≤ 0xFFFF ∧ jobOn recv 0 5 = some 0) ∧
    (jobJ.cells = [] ∧ (0, CellSt.full 3 16) ∈ full.cells) ∧
    (jobJ.ncell ≤ 2 ∧ (1 : Nat) < full.ncell ∧ smGet full.cells 1 = some (.taken (reqBid (cur recv)) 16) ∧ smGet full.cells 0 = some (.full 3 16)) ∧
    ((0x3FFC0 : Nat) % 8 = 0 ∧ (0x3FFB9 : Nat) % 8 ≠ 0) ∧
    wait (.frecv 0 8 1 (some (0, 16))) = [{ kind := .frecv 0 8 1 (some (0, 16)), slot := 4, seq := 0, dst := .belt }] ∧
    wait (.quiet 0 0 1 none) = [{ kind := .quiet 0 0 1 none, slot := 4, seq := 0, dst := .belt }] ∧
    wait (.fstat 0 8) = [{ kind := .fstat 0 8, slot := 4, seq := 0, dst := .belt }] ∧
    (∀ p ∈ r.pieces, p.stage = 2) ∧ (∃ p ∈ (copyR { src := .virt 0x10000, dst := .spad 0 0, len := 8 }).pieces, p.stage ≠ 2) ∧
    ((getCore (st busy) 0).svc = none ∧ 0 < 1024) := by decide +kernel

/-- The only full cell of a slot is the first one. -/
theorem witness_FabricCalls_first : ∃ o, (0, CellSt.full o 16) ∈ ([(0, .full 3 16), (1, .taken 1 16)] : SMap CellSt) ∧
    ∀ q ∈ ([(0, .full 3 16), (1, .taken 1 16)] : SMap CellSt), ∀ o' len', q.2 = .full o' len' → q = (0, .full o 16) ∨ o < o' := by
  refine ⟨3, by decide, ?_⟩
  intro q h o' len' e
  simp only [List.mem_cons, List.not_mem_nil, or_false] at h
  rcases h with h | h
  · exact .inl h
  · rw [h] at e; cases e

/-- The first packet of a message from this package, of one byte, which has not arrived. -/
theorem witness_FabricMessages_packet :
    let m : Msg := { spkg := 0, sdie := 0, score := 0, tag := 0, job := 5, seq := 0, inj := 0, len := 1, dpkg := 0, ddie := 0, bytes := [7] }
    let s := fun (m : Msg) (fwl : SMap (BitVec 32)) => { rooted (st busy) with jobs := [(0, jobJ)], msgs := [(0, m)], fwl := fwl }
    (msgOf (s m []) 0 = some m ∧ packetOpen (s m []) 0 = true) ∧
    (let far := { m with sdie := 1, score := 256 }
     let lane := [(512, BitVec.ofNat 32 (2 ^ 4)), (1024, BitVec.ofNat 32 (2 ^ 4))]
     far.sdie ≠ far.ddie ∧ packetOpen (s far []) 0 = false ∧ packetOpen (s far lane) 0 = true) := by
  decide +kernel

theorem witness_FabricMessages :
    let m : Msg := { spkg := 0, sdie := 0, score := 0, tag := 0, job := 5, seq := 0, inj := 0, len := 1, dpkg := 0, ddie := 0, bytes := [7], packets := 1 }
    let s := { rooted (st busy) with jobs := [(0, jobJ)], msgs := [(0, m)] }
    let far := { s with msgs := [(0, { m with dpkg := 1 })], tick := 10000 }
    let x : Nat := 2 ^ 5 + 2 ^ 6
    ((x.testBit 5 = true ∧ 511 % 1024 < 512) ∧ (x.testBit 5 = true ∧ ¬ 512 % 1024 < 512 ∧ bits x 6 5 ≠ 0) ∧ bits (2 ^ 5) 6 5 = 0) ∧
    (∃ q ∈ ([(513, BitVec.ofNat 32 x)] : SMap (BitVec 32)), q.1 ≠ 512 ∧ q.2.getLsbD 5 = true ∧ bits q.2.toNat 6 5 = bits x 6 5 ∧
      bits q.2.toNat 12 2 = bits x 12 2) ∧
    (100 ≤ jobJ.spgper ∧ jobJ.pool % 65536 = 0 ∧ 1 ≤ jobJ.ncell ∧ jobJ.ncell ≤ 4096 ∧ jobJ.part = 0 ∧ (getJob s 0).en = true ∧
      (getJob s 1).en = false ∧ jobOn s 0 5 ≠ none ∧ jobOn s 0 6 = none) ∧
    (mayDeliver s 0 = some (0, 0, ⟨0x10000, 3, 1, true⟩) ∧ msgOf s 0 = some m ∧ mayDeliver far 0 = none) ∧
    (m.st = 0 ∧ msgSent s m = true ∧ msgSent s { m with bytes := [] } = false) ∧
    (smGet far.msgs 0 = some { m with dpkg := 1 } ∧ msgSent far { m with dpkg := 1 } = true ∧ (1 : Nat) ≠ far.mgmt.fpkg ∧ 0 % 2 = 0) ∧
    (({ m with st := 1 } : Msg).st = 1 ∧ m.last + 10000 ≤ far.tick ∧ ¬ m.last + 10000 ≤ (9999 : Nat)) ∧ 3 ∈ [3] ∧ (3 : Nat) ∉ s.links := by
  decide +kernel

theorem witness_SpargeWaves :
    let j : JobSlot := { jobJ with origin := true }
    let s := fun (w : Wave) (t : Nat) => { st { busy with ctx := { waits := [{ kind := .quiet 0 0 9 none, slot := 4, seq := 0, dst := .belt }] } } with
      jobs := [(0, j)], waves := [(5, w)], tick := t }
    let w : Wave := { running := true, num := 1, begun := 1, pass := 2, got := [(0, 1, 2, 3)] }
    (getWave (s w 0) 5).running = true ∧ waveOrigin (s {} 100) 5 = some j ∧ (getWave (s {} 100) 5).running = false ∧
    (99 < j.enTick + (({} : Wave).num + 1) * j.spgper ∧ j.enTick + (({} : Wave).num + 1) * j.spgper ≤ 100) ∧
    jobOn (s w 0) 0 5 = some 0 ∧ ((List.range 4).filter fun d => (jobOn (s w 0) d 5).isSome) = [0] ∧ (s w 0).links = [] ∧
    (∀ q ∈ ({ w with got := [] } : Wave).got, q.1 ≠ 0) ∧ (w.pass = 2 ∧ w.sent = false ∧ ∃ q ∈ w.got, q.1 = 0) ∧ ({ w with pass := 1 } : Wave).pass = 1 ∧
    (({ w with sent := true, quiet := true } : Wave).sent = true ∧ 0 ∉ w.told ∧ ({ w with quiet := true } : Wave).quiet = true ∧ (0 : Nat) < w.begun) ∧
    (getCore (s w 0) 0).ctx.waits = [{ kind := .quiet 0 0 9 none, slot := 4, seq := 0, dst := .belt }] := by decide +kernel

theorem witness_WheelsAndRings :
    let p : Packet := { site := 16, cls := 1, part := 0, req := 0, line := 0 }
    let o : Packet := { site := 3, cls := 0, part := 2, req := 0, line := 0 }
    let c : Channel := { ready := [o, p], octets := [(0, 2)] }
    let id : Nat := ((List.range 32).map fun l => l * 2 ^ (6 * l)).sum
    let rings := fun (v : Nat) => (List.range 32).map fun l => bits v (6 * l) 6
    (({ c with busy := 1 } : Channel).busy ≠ 0 ∧ c.busy = 0) ∧
    (32 - ((List.range 32).filter fun i => c.woffNow.getLsbD i).length ≠ 0 ∧
      32 - ((List.range 32).filter fun i => (0xFFFFFFFF : BitVec 32).getLsbD i).length = 0) ∧
    (o ∈ c.ready ∧ o.cls = 0 ∧ smGet c.octets (0 % 64 % 8) = some o.part) ∧
    ((∀ q ∈ c.ready, ¬(q ∈ c.ready ∧ q.cls = 0 ∧ smGet c.octets (1 % 64 % 8) = some q.part)) ∧ (∀ q ∈ c.ready, q.site < 17) ∧
      p ∈ c.ready ∧ p.cls = 1) ∧
    ((∀ r ∈ rings id, r ≤ 35) ∧ (rings id).Nodup ∧ ¬ (rings 0).Nodup ∧ (∃ r ∈ rings (id + 5 * 2 ^ (6 * 31)), 35 < r)) ∧
    (c.woff = 0 ∧ (1 : BitVec 32) ≠ 0) := by decide +kernel

theorem witness_PartitionsAndKeys :
    let s := { State.reset with parts := [(1, { desc := BitVec.ofNat 1024 (1 + 4 * 2 ^ 320) })] }
    let new : Nat := 2 + 2 ^ 64 + 2 ^ 128 + 4 * 2 ^ 320
    let x := getPart s 2
    let owned := { State.reset with parts := [(1, { desc := BitVec.ofNat 1024 (2 ^ 64 + 2 ^ 128 + 4 * 2 ^ 320), cecnt := 4095 })] }
    let active : BitVec 1024 := BitVec.ofNat 1024 (1 + 2 ^ 323 + 4 * 2 ^ 320)
    let claims := fun (d i : Nat) => (i < 320 ∧ d.testBit i = true) ∨ (320 ≤ i ∧ i < 576 ∧ d.testBit (256 + i) = true)
    ((x.evHead + 2 ^ 32 - x.evTail) % 2 ^ 32 ≠ 2048 ∧ (2048 + 2 ^ 32 - 0) % 2 ^ 32 = 2048) ∧
    (bits new 324 60 = 0 ∧ bits new 432 16 = 0 ∧ bits new 496 16 = 0 ∧ bits new 560 16 = 0 ∧ bits new 887 137 = 0 ∧ bits new 320 3 < 5) ∧
    descBad s 2 new = false ∧ (bits (new + 2 ^ 324) 324 60 ≠ 0 ∧ 5 ≤ bits (new + 2 ^ 320) 320 3) ∧
    (active.toNat.testBit 323 = true ∧ bits active.toNat 0 323 ≠ bits new 0 323) ∧
    (∃ q ∈ s.parts, q.1 ≠ 2 ∧ ∃ i < 576, claims q.2.desc.toNat i ∧ claims 1 i) ∧
    ((new + 2 ^ 323).testBit 323 = true ∧ ({ x with sweep := [(0, 0)] } : Part).sweep ≠ []) ∧
    (paKind 0x800000000000 = .slice 0 0 0 ∧ new.testBit (64 + 16 * 0 + 0 / 4) = true ∧ x.desc.toNat.testBit (64 + 16 * 0 + 0 / 4) = false) ∧
    (new.testBit (16 / 16) = true ∧ x.desc.toNat.testBit (16 / 16) = false ∧ ¬ new.testBit (1023 / 16) = true) ∧
    ((({ valid := true } : KeySlot).valid = true ∧ ({ valid := true } : KeySlot).revoked = false) ∧ (getKey s 0).valid = false ∧
      bits 1 0 256 ≠ bits 1 256 256 ∧ bits 0 0 256 = bits 0 256 256) ∧
    (paOwner owned 0x800000000000 = some 1 ∧ paOwner s 0x800000000000 = none ∧ ((getPart owned 1).cecnt + 1) % 2 ^ 32 % 4096 = 0) := by
  decide +kernel

theorem witness_PartitionsAndKeys_memory : ∀ die k off, paKind 0 ≠ .slice die k off := by
  intro die k off e
  have h : paKind 0 = .hbm 0 0 := by decide
  rw [h] at e; cases e

/-- The reset package reads 0 at every host address: where the window to the memory of the part stands makes no difference. -/
theorem host_zero (s : State) (h : s.host = []) (m : s.mem = []) (a : Nat) : hostByte s a = 0 := by
  unfold hostByte; split
  · rw [m]; rfl
  · rw [h]; rfl

/-- Whether a bind succeeds hangs on the enrolled keys and the signature, which are free values: no concrete state shows that case. -/
theorem witness_LoaderQueue :
    (let s := { st busy with mgmt := { state := 2, loadq := [0] } }
     s.mgmt.loadq = 0 :: [] ∧ bits (0 : Word).toNat 56 2 = 0 ∧ bits (BitVec.ofNat 64 (2 ^ 56)).toNat 56 2 = 1 ∧
     bits (BitVec.ofNat 64 (3 * 2 ^ 56)).toNat 56 2 = 3 ∧ (State.reset.mgmt.loadq = []) ∧
     bindTry s 0 (fun _ => 0) false = .error (1, 0) ∧ (1 < 2 ^ 8 ∧ 0 < 2 ^ 24) ∧ imgNat (fun _ => 0) 0 4 ≠ 0x31564B49 ∧
     partActive (getPart s 0) = false) ∧
    (let i : Inst := { live := true, job := 16384, jobGen := 1 }
     let s := fun (b : Bool) => { State.reset with insts := [(0, i)], objs := [(16384, { live := b, gen := 1 })] }
     let h := handleOf (s true) 16384
     instOf (s true) 0 h = some (0, i) ∧ instOf (s true) 0 0 = none ∧ (getObj (s true) 16384).live = true ∧ (s true).mgmt.busy = false ∧
     (getObj (s false) 16384).live = false ∧ i.pages = [] ∧ getInst (s false) 0 = i ∧ i.part < 16 ∧
     ({ (s true).mgmt with busy := true } : Mgmt).busy = true ∧
     ((getObj (s true) i.job).gen = i.jobGen ∧ objHandle i.job i.jobGen = h ∧ i.live = true) ∧
     (s true).insts.find? (fun x => x.2.live && objHandle x.2.job x.2.jobGen == h) = some (0, i) ∧
     (∀ x ∈ State.reset.insts, x.2.live = false)) ∧
    ((∃ q ∈ ([(1, { desc := desc })] : SMap Part), q.1 ≠ 0 ∧ partActive q.2 = true) ∧ ∀ q ∈ State.reset.parts, q.1 = 0 ∨ partActive q.2 = false) ∧
    (State.reset.mgmt.state ≠ 1 ∧ ({ State.reset.mgmt with state := 1 } : Mgmt).state = 1) := by
  decide +kernel

theorem witness_EnergyAndManagement :
    let s := { State.reset with parts := [(1, { credit := 3 })], mgmt := { state := 2 } }
    let limit := fun (win : Nat) => 3300 * win * 2 ^ 20 / 10 ^ 6
    let others := ((s.parts.filter fun x => x.1 != 0).map fun x => x.2.credit).sum
    (limit s.mgmt.ewin < others + (limit s.mgmt.ewin - 2) % 2 ^ 48 ∧ others + (limit s.mgmt.ewin - 3) % 2 ^ 48 ≤ limit s.mgmt.ewin) ∧
    ((∀ c ∈ s.cores, c.1 / 16 = 0 → c.2.svc = none) ∧
      ∃ c ∈ (st { busy with svc := some (handler 1 false) }).cores, c.1 / 16 = 0 ∧ c.2.svc ≠ none) ∧
    ((∀ x ∈ s.parts, x.1 < 16) ∧ (100 ≤ 100 ∧ 1000000 ≤ 1000000 ∧ (s.parts.map fun x => x.2.credit).sum ≤ limit 100) ∧ 1000000 < 1000001) ∧
    (s.mgmt.state = 2 ∧ State.reset.mgmt.state ≠ 2 ∧ s.mgmt.loadq.length < 16 ∧ 16 ≤ (List.replicate 16 (0 : Word)).length) ∧
    ((32 : Nat).testBit 5 = true ∧ (31 : Nat).testBit 5 = false) ∧
    ((8 : Nat) ≠ 0 ∧ (0x50 : Nat) ≠ 0x0000 ∧ 0x50 ≠ 0x0008 ∧ 0x50 ≠ 0x0010 ∧ 0x50 ≠ 0x0030 ∧ 0x50 ≠ 0x0048) := by decide +kernel

theorem witness_Bundles :
    let s := stC {}
    let tpl : Unit16 := 0xA0C1
    let legal := fun (tpl : Unit16) => tpl.toNat / 2 ^ 12 = 0xA ∧ tpl.toNat / 2 ^ 9 % 8 = 0
    let add : Word := 0x010240DE00000000
    let k : Core := { busy with dict := mWriteN [] 0 (leBytes 2 0xA001) }
    (legal tpl ∧ tpl.toNat % 64 ≠ 0) ∧ (¬ legal 0xB001 ∧ ¬ legal 0xA201 ∧ (0xA000 : Unit16).toNat % 64 = 0) ∧
    ((cur s).svc = none ∧ (cur (st { busy with svc := some (handler 1 false) })).svc ≠ none) ∧
    (legal (BitVec.ofNat 16 (leNat (mReadN k.dict (50 * 0) 2))) ∧ ¬ legal (BitVec.ofNat 16 (leNat (mReadN k.dict (50 * 1) 2)))) ∧
    (Spec.failingSlots s .badOpc [(1, 0xFF00000000000000)] ≠ [] ∧ Spec.failingSlots s .badOpc [(3, 1)] = [] ∧ Spec.failingSlots s .badFld [(3, 1)] ≠ [] ∧
      Spec.failingSlots s .badOpc [(0, 0x0100198000000000)] = [] ∧ Spec.failingSlots s .badFld [(0, 0x0100198000000000)] = [] ∧
      Spec.failingSlots s .badOpnd [(0, 0x0100198000000000)] ≠ []) ∧
    (Spec.failingSlots s .badOpc [(0, add)] = [] ∧ Spec.failingSlots s .badFld [(0, add)] = [] ∧ Spec.failingSlots s .badOpnd [(0, add)] = []) ∧
    (decodeSlot (feature s 0) (feature s 2) 0 add = .ok (.add on (.k 2) (.b 1) (.k 31)) ∧ (curCtx s).rets = [] ∧
      bundleStop (setCur s (cur s)) [⟨0, .add on (.k 2) (.b 1) (.k 31)⟩] = none) := by decide +kernel

/-- The checks of a bundle: each fails for some bundle, and none for one of two slots. -/
theorem witness_Bundles_checks :
    let s := stC {}
    let c := curCtx s
    let ok := fun (x : InSlot) (s : State) => match runSlot x s with | .ok _ => true | .error _ => false
    let add : InSlot := ⟨0, .add on (.k 2) (.b 1) (.k 31)⟩
    let vec : InSlot := ⟨1, .vadd on .belt .i32 (.w 0) (.w 0)⟩
    let load : InSlot := ⟨0, .ldD on .belt (.k 1) 0⟩
    let flying := { c with inflight := List.replicate 16 ⟨2, 1, 0, .vbelt 0, 0⟩ }
    ((st { busy with svc := some (handler 1 false) } |> cur).svc.isSome = true ∧ 1 ≤ vec.slot ∧ vec.slot ≤ 3) ∧
    (isKeep (.k 2) = true ∧ RegName.k 2 ∈ writesReg add.i ∧ RegName.k 2 ∈ writesReg (Instr.sub on (.k 2) (.b 1) (.b 1))) ∧
    (∃ r ∈ readsReg (onNow c add.i) add.i, inGroup { c with grpK := BitVec.ofNat 32 (2 ^ 31) } r = true) ∧
    (needsKernel (.rte on) = true ∧ coreKern (cur s) = false) ∧
    (runSlot load (stC (regs 0x40000 0 0)) = .error { cause := .xlate, smask := 1, engine := 2, reason := 4, va := some 0x40000 }) ∧
    (16 < (flying.inflight.filter fun l => isVecRes l.res && decide (c.bc + 2 ≤ l.due)).length + addedVecs (stC flying) [vec]) ∧
    (bundleStop s [add, vec] = none ∧ ok add s = true ∧ ok vec s = true ∧
      addedVecs s [add, vec] ≤ 16 ∧ ([add, vec].map fun x => rankOf x.i) = [rankOf add.i, rankOf vec.i]) := by decide +kernel

/-- Two slots issue one after the other. -/
theorem witness_Bundles_runs : ∃ t, Spec.runs 0 [⟨0, .add on (.k 2) (.b 1) (.k 31)⟩, ⟨1, .vadd on .belt .i32 (.w 0) (.w 0)⟩] (stC {}) t :=
  ⟨_, _, rfl, _, rfl, rfl⟩

theorem witness_Landings :
    let l := fun (slot : Nat) (r : Res) => Landing.mk 0 slot 0 r 0
    let now := fun (ls : List Landing) =>
      let c := (getCore (stC { inflight := ls }) 0).ctx
      c.inflight.filter fun l => decide (l.due ≤ c.bc)
    now [l 0 (.sbelt 5)] = [l 0 (.sbelt 5)] ∧ now [Landing.mk 1 0 0 (.sbelt 5) 0] = [] ∧
    now [l 1 (.vbelt 1), l 2 (.vbelt 2)] = [l 1 (.vbelt 1), l 2 (.vbelt 2)] ∧ now [l 4 (.sbelt 1), l 0 (.sbelt 2)] = [l 4 (.sbelt 1), l 0 (.sbelt 2)] ∧
    now [l 0 (.k 31 1), l 5 (.k 31 2)] = [l 0 (.k 31 1), l 5 (.k 31 2)] ∧ now [l 1 (.w 15 1), l 3 (.w 15 2)] = [l 1 (.w 15 1), l 3 (.w 15 2)] ∧
    now [l 0 (.pred 15 true)] = [l 0 (.pred 15 true)] ∧ (0 < 1 ∨ (0 = 1 ∧ 0 ≤ 0)) ∧ ({} : Ctx).sb.length ≤ 16 ∧ ({} : Ctx).vb.length ≤ 16 ∧
    (let r : RetPend := ⟨0, 0, 3, .k 5, true, 9⟩
     let m := Landing.mk 0 4 0 (.k 5 1) 0
     [r].filter (fun q => decide (q.left = 0)) = [r] ∧ (r.slot < m.slot ∨ (m.slot = r.slot ∧ r.seq < m.seq)) ∧ (5 : Fin 16) ≠ 0) := by decide +kernel

theorem witness_DecodeEncode :
    ((Instr.add on (.k 31) (.b 15) .minus1).wf = true ∧ slotClass (.add on (.k 31) (.b 15) .minus1) = some 0) ∧
    ((Instr.cpyRd on .belt 7 (some 63) (.k 4) (.k 5) (.k 6)).wf = true ∧ slotClass (.cpyRd on .belt 7 (some 63) (.k 4) (.k 5) (.k 6)) = some 4) ∧
    (Instr.issueDictionaryBundle 0x7FF).wf = true ∧
    ((Instr.issueLiteralBundle 0xA0FF [1, 2, 3, 4, 5, 6]).wf = true ∧ (0xA0FF : Unit16).toNat / 2 ^ 12 = 0xA ∧
      (0xA0FF : Unit16).toNat / 2 ^ 9 % 8 = 0 ∧ (0xA0FF : Unit16).toNat % 64 ≠ 0) := by decide +kernel

/-- The state after reset is canonical, and an empty bundle runs in one that is. -/
theorem witness_MemoriesStayCanonical : Spec.canonical State.reset ∧
    exec .emptyBundle (stC {}) = .next (setCur (stC {}) (Spec.advance false false 1 (cur (stC {})))) := by
  refine ⟨?_, rfl⟩
  repeat' apply And.intro
  all_goals first | decide | exact List.forall_mem_nil _

/-- A core whose code stream buffer holds a dictionary index, a literal bundle, the empty bundle and a unit that is none. -/
def coded (bs : List Byte) : State :=
  { st { busy with code := [(0, .bytes bs)] } with sched := { tasks := [.act 0] } }

theorem witness_StepRunsDecoded :
    let s := coded ([0xFF, 0x07, 0xF0, 0xFF, 0x01, 0xA0] ++ leBytes 8 0x010240DE00000000 ++ [0xFE, 0xFF, 0x00, 0x08])
    let k := getCore s 0
    s.sched.tasks = .act 0 :: [] ∧
    (k.run = .running ∧ k.resumed = false ∧ k.killAt = none ∧ k.svc = none ∧ k.ctx.svc = none ∧ k.pendDbg = false ∧ k.pendPre = false ∧ k.ctx.waits = [] ∧
      ¬ (k.dlen = true ∧ k.deadline = 0) ∧ k.ctx.npc1.annul = false ∧ k.ctx.npc2.annul = false ∧ k.faults = [] ∧ broken s 0 = none) ∧
    (let bs := (smGet k.code 0).getD (.bad .none 0)
     bs = .bytes ([0xFF, 0x07, 0xF0, 0xFF, 0x01, 0xA0] ++ leBytes 8 0x010240DE00000000 ++ [0xFE, 0xFF, 0x00, 0x08])) ∧
    (0x7FF < 0x800 ∧ (0xA001 : Unit16).toNat / 2 ^ 12 = 0xA ∧ (0xA001 : Unit16).toNat / 2 ^ 9 % 8 = 0 ∧ presCount 0xA001 = 1 ∧
      0x800 ≤ (0x0800 : Unit16).toNat) ∧ (stC {} |>.sched.tasks) ≠ [] ∧ ({ stC {} with sched := {} } : State).sched.tasks = [] := by
  decide +kernel

/-- No word of a core without bad words fails. -/
theorem not_rotten (k : Core) (h : k.badWords = []) (m : Sram) (lo n : Nat) : ¬Spec.rotten k m lo n := by
  rintro ⟨w, hw, -⟩; rw [h] at hw; cases hw

theorem witness_StepRunsDecoded_unit :
    let k := getCore (coded ([0xFF, 0x07, 0xF0, 0xFF, 0x01, 0xA0] ++ leBytes 8 0x010240DE00000000 ++ [0xFE, 0xFF, 0x00, 0x08])) 0
    Spec.unitAt k 0 0x7FF ∧ Spec.unitAt k 2 0xFFF0 ∧ Spec.unitAt k 4 0xA001 ∧ Spec.unitAt k 14 0xFFFE ∧ Spec.unitAt k 16 0x0800 :=
  ⟨⟨not_rotten _ rfl _ _ _, _, rfl, by decide⟩, ⟨not_rotten _ rfl _ _ _, _, rfl, by decide⟩, ⟨not_rotten _ rfl _ _ _, _, rfl, by decide⟩,
    ⟨not_rotten _ rfl _ _ _, _, rfl, by decide⟩, ⟨not_rotten _ rfl _ _ _, _, rfl, by decide⟩⟩

theorem witness_StepRunsDecoded_plain (s : State) (h : feature s 0 = false) (h2 : feature s 2 = false) :
    Spec.plainTpl s 0xA001 [(0, 0x010240DE00000000)] := by
  refine ⟨by decide, fun x hx g ef d oa ob e => ?_⟩
  simp only [List.mem_cons, List.not_mem_nil, or_false] at hx
  rw [hx, h, h2, show decodeSlot false false 0 0x010240DE00000000 = .ok (.add on (.k 2) (.b 1) (.k 31)) from by decide +kernel] at e
  cases e

/-- A launch that the account covers, one that it does not, and the start of a cycle of the region in which it is admitted. -/
theorem witness_Launches_held :
    let i := fun (e : Nat) => ({ live := true, cores := [0, 1], regions := [0], energy := e } : Inst)
    let s := fun (e : Nat) => { st { busy with blk := some conductor } with insts := [(0, i e)] }
    let short := fun (e : Nat) => (((getInst (s e) 0).energy + 1023) / 1024 : Nat) - (getPart (s e) 0).acct
    let o : Obj := { live := true, held := true, region := 0 }
    let t := fun (e : Nat) => { regS reg with sched := { tasks := [.begin 0] }, objs := [(4096, o)], insts := [(0, i e)] }
    (short 0 ≤ 0 ∧ 0 < short 1) ∧
    ((t 0).sched.tasks = Task.begin 0 :: [] ∧ (getRegion (t 0) 0).st ≠ .stopped ∧ (getRegion (t 0) 0).newFrame = false ∧
      (getRegion (t 0) 0).slipDue = false ∧ (getObj (t 0) 4096).live = true ∧ (getObj (t 0) 4096).held = true) ∧
    ((((getInst (t 0) 0).energy + 1023) / 1024 : Nat) ≤ (getPart (t 0) 0).acct ∧
      ¬(((getInst (t 1) 0).energy + 1023) / 1024 : Nat) ≤ (getPart (t 1) 0).acct) := by decide +kernel

/-- A core whose matrix engine is `m`. -/
def mxS (m : Mx) : State := st { busy with mx := m }
def heldMx : Mx := { claimed := 7 }
def prodMx : Mx := { heldMx with prods := [{ kind := .mma .i8 0 0 63, oa := 0, ob := 1, start := 1 }] }
def scanMx : Mx := { heldMx with scans := [{ comp := false, acc := 0, n := 63, issue := 0, start := 1 }] }
def foldMx : Mx := { heldMx with folds := [{ kind := .acnorm 0, start := 1 }] }

/-- R156, R181, R198 with nothing in the way. -/
theorem witness_MatrixIssue_clear :
    Spec.productClear (mxS heldMx) (.mma .i8 0 0 63) 0 1 1 ∧ Spec.productClear (mxS heldMx) (.mmab .e4m3 0 0) 0 1 1 ∧
    Spec.foldClear (mxS heldMx) (.scacc .e4m3 0 0 0 1 0) 1 ∧ Spec.foldClear (mxS heldMx) (.acnorm 0) 1 ∧
    Spec.scanClear (mxS heldMx) 0 1 := by
  have none_ : ∀ o, pendingRows (mxS heldMx) (mxS heldMx).sched.cur o = [] := by decide +kernel
  have idle : (cur (mxS heldMx)).mx.prods = [] ∧ (cur (mxS heldMx)).mx.folds = [] ∧ (cur (mxS heldMx)).mx.scans = [] := ⟨rfl, rfl, rfl⟩
  simp [Spec.productClear, Spec.foldClear, Spec.scanClear, Spec.outsideScans, none_, idle]

/-- And with an earlier instruction that has still to start, or a scan on the tile of the product. -/
theorem witness_MatrixIssue_conflicts :
    ¬Spec.productClear (mxS prodMx) (.mma .i8 0 0 63) 0 1 1 ∧ ¬Spec.foldClear (mxS foldMx) (.scacc .e4m3 0 0 0 1 0) 1 ∧
    ¬Spec.foldClear (mxS foldMx) (.acnorm 0) 1 ∧ ¬Spec.scanClear (mxS prodMx) 0 1 ∧
    ¬Spec.productClear (mxS scanMx) (.mma .i8 0 0 63) 0 1 1 :=
  ⟨fun h => absurd h.1 (by decide +kernel), fun h => absurd h.1 (by decide +kernel), fun h => absurd h.1 (by decide +kernel),
    fun h => absurd (h.2.1 _ List.mem_cons_self rfl 63 (by decide)) (by decide +kernel),
    fun h => h.2.2.1 (0, 0) (by decide +kernel) 0 (by decide) _ List.mem_cons_self rfl (by decide +kernel)⟩

/-- A descriptor that may be read, one that may not, and one whose line holds bad data or has no leaf. -/
theorem witness_StreamsAndInvalidation_fetch :
    let str : Stream := { isOpen := true, owner := 0, ownerBid := 1, part := 0, descVa := 0x10000, num := 1 }
    let s := setStream (copyC 15 65535 15) 0 15 str
    let r := readVirt s 0 0 1 0x10000 64
    let q := readVirt (setStream s 0 15 { str with descVa := 0x20000 }) 0 0 1 0x20000 64
    let bad := { s with poison := [0x400] }
    let b := readVirt bad 0 0 1 0x10000 64
    (mayFetchDesc s 0 15 = true ∧ r = (r.1, .ok (List.replicate 64 0)) ∧ (∀ q ∈ s.reqs, ∀ p ∈ q.2.pieces, p.stage ≠ 1)) ∧
    mayFetchDesc (setStream s 0 15 { str with failed := true }) 0 15 = false ∧
    q = (q.1, .error (1, 0x20000)) ∧ (b = (b.1, .error (13, 0x10000))) := by decide +kernel

/-- A landing that a barrier counts: its object in a word that reads, and in one that cannot be corrected. -/
theorem witness_MovingBytesAndAtomics_barrier :
    let lands : Piece := { src := .virt 0x10000, dst := .spad 0 0x3FDF8, len := 8, stage := 1, buf := List.replicate 8 1, bar := some (0, 63) }
    let s := copyS lands
    let k := getCore s 0
    (mayLand s 0 (getReq s 0) 0 = true ∧ (∀ x ∈ lands.bar, x.1 = 0) ∧ spadBad k (0x3FE00 + 8 * 63) 8 = false ∧ lands.voidn = false) ∧
    spadBad { k with badWords := [(.spad, (0x3FE00 + 8 * 63) / 8)] } (0x3FE00 + 8 * 63) 8 = true := by decide +kernel

/-- Captures under a clamp, with a sample in the latch and without; phases that end at a boundary; a job at its end and one that is not. -/
theorem witness_SourcesAndFrames_boundary :
    let s := regS { reg with clamp := true, goodN := 16 }
    let full := { s with latches := [(0, { cap := [(7, 3)] })] }
    let y : Source := { pnum := 100, pden := 1, sen := true, times := List.replicate 16 0 }
    let phase : Obj := { live := true, region := 0, hi := 1 }
    let p := { regS { reg with frame := 1, overN := 2, inst := some 0 } with objs := [(12288, phase), (12289, { phase with hi := 2 })] }
    let i : Inst := { live := true, regions := [0], job := 16384, jobGen := 1 }
    let j := { regS { reg with inst := some 0 } with insts := [(0, i)], objs := [(16384, { live := true, gen := 1 })] }
    ((getRegion s 0).clamp = true ∧ (s.clusterRegion.map (·.1)).Nodup ∧ regionLatches s 0 = [0] ∧ (smGetD s.latches 0 {}).cap = [] ∧
      (smGetD full.latches 0 {}).cap ≠ []) ∧
    (y.times[15]? = some 0 ∧ (16 ≤ (getRegion s 0).goodN) ∧ ((1000 - 0) * 101 * y.pden < 1600 * y.pnum ∧ (1000 - 0) * 9 * y.pden ≤ 160 * y.pnum)) ∧
    ((p.objs.map (·.1)).Nodup ∧ (getRegion p 0).overN ≠ 0 ∧ keyLevel 12288 = 3 ∧ phase.region = 0 ∧ phase.live = true ∧ phase.ending = false ∧
      phase.hi ≤ (getRegion p 0).frame ∧ phase.members = [] ∧ ¬ 2 ≤ (getRegion p 0).frame) ∧
    ((getObj j 16384).live = true ∧ (getObj j 16384).gen = i.jobGen ∧ (getObj j 16384).ending = false ∧
      (∀ r ∈ i.regions, ∀ e ∈ (getRegion j r).table ++ (getRegion j r).lean, e.done ≠ 0) ∧ j.cores = [] ∧ j.saved = [] ∧
      (∀ q ∈ j.objs, keyLevel q.1 = 4)) ∧ (getObj p 0).live = false := by decide +kernel

/-- A launch of two cores, all of them free; requests and `tlbi`s of its issuer that have performed, and one that has not. -/
theorem witness_CompletionAndWatchdog_release :
    let o : Obj := { launchO with cores := [1, 2], units := [1, 2], trigs := [1, 2], after := (1, 5) }
    let s := { launched o launchB with cores := [] }
    let op : TlbiOp := { core := 0, bid := 1, part := 0, scope := 2, lo := 0, hi := 1 }
    (o.live = true ∧ o.released = false ∧ o.units ≠ [] ∧ o.due ≤ regTick (getRegion s o.region) ∧ o.held = false ∧ o.predWait = false ∧
      o.predT = none ∧ o.cores.Nodup ∧ s.reqs = [] ∧ s.tlbis = [] ∧ ∀ c ∈ o.cores, (getCore s c).blk = none ∧ (getCore s c).run = .idle) ∧
    ((∀ q ∈ ({ s with tlbis := [(5, op)] } : State).tlbis, q.2.bid = 1 → 5 ≤ q.1) ∧
      ¬ ∀ q ∈ ({ s with tlbis := [(4, op)] } : State).tlbis, q.2.bid = 1 → 5 ≤ q.1) := by decide +kernel

/-- The three steps of the watchdog over a launch of two blocks, one of which has exited. -/
theorem witness_CompletionAndWatchdog_blocks :
    let s := fun (n : Nat) => setCore (launched { launchO with released := true, wdStep := n } launchB) 2
      { busy with blk := some { launchB with member := 2, exited := true } }
    let has := fun (k : Core) => k.blk.any fun b => b.launch == some 4096
    let live := fun (k : Core) => k.blk.any fun b => b.launch == some 4096 && !b.exited
    (∀ n ∈ [0, 1, 2], (getObj (s n) 4096).live = true ∧ (getObj (s n) 4096).released = true ∧ (getObj (s n) 4096).wdStep = n ∧
      (∀ m ∈ [(coreRegion (s n) 1).wd1, (coreRegion (s n) 1).wd2, (coreRegion (s n) 1).wd3], m ≠ 0) ∧
      (getObj (s n) 4096).wdTick + 1 * reg.m ≤ regTick (getRegion (s n) 0) ∧ ((s n).cores.map (·.1)).Nodup ∧ (s n).saved = []) ∧
    (live (getCore (s 1) 1) = true ∧ live (getCore (s 1) 2) = false ∧ has (getCore (s 1) 2) = true ∧ (getObj (s 1) 4096).redo = []) ∧
    (∀ q ∈ (s 1).cores, live q.2 = true → q.2.run = .running ∧ q.2.ctx.waits = [] ∧ q.2.svc = none ∧ (coreRegion (s 1) q.1).st ≠ .stopped) := by
  decide +kernel

/-- A context to be saved: with a kill pending, with a bad word, for the first time and again, with packets that wait and without. -/
theorem witness_StopsAndHandlers_save :
    let b : Block := { blk with area := 0x10000 }
    let k : Core := { busy with run := .held .preempt, blk := some b }
    let p : Packet := { site := 0, cls := 2, part := 0, req := 0, line := 0x10000 / 256, own := true }
    let s := home k
    (saveBad k = none ∧ saveBad { k with badWords := [(.spad, 3)] } = some (some 24) ∧ saveBad { k with badWords := [(.plane, 0)] } = some none) ∧
    (k.saveAsked = false ∧ ({ k with saveAsked := true } : Core).saveAsked = true ∧ k.killAt = none ∧ (coreRegion s 0).st ≠ .stopped ∧
      (coreRegion (regS { reg with st := .stopped }) 0).st = .stopped) ∧
    areaWaits s 0 b.area = false ∧ areaWaits { s with chans := [(0, { ready := [p] })] } 0 b.area = true := by decide +kernel

/-- A message that is lost at a cell whose page faults in its data. -/
theorem witness_FabricMessages_loss :
    let m : Msg := { spkg := 0, sdie := 0, spart := 0, score := 0, tag := 0, job := 5, seq := 0, inj := 0, len := 1, dpkg := 0, ddie := 0, bytes := [7], packets := 1 }
    let s := { rooted (st busy) with jobs := [(0, jobJ)], msgs := [(0, m)] }
    let bad := { s with poison := [0x8000] }
    let ok := fun (r : Except Nat Xlat) => match r with | .ok _ => true | .error _ => false
    (m.st = 0 ∧ msgSent s m = true ∧ jobOn s 0 5 = some 0 ∧ freeCell (getJob s 0) = some 0 ∧ msgIn s 0 m = true) ∧
    ok (cellWalk s (getJob s 0) 0) = true ∧ cellWalk bad (getJob bad 0) 0 = .error 14 := by
  decide +kernel

/-- A quiet wave with no wait, with one that began before it, and with one that began later; and a wave that was sent to every leaf but
one, which is cut off. -/
theorem witness_SpargeWaves_quiet :
    let w : Wave := { running := true, num := 1, begun := 1, pass := 2, sent := true, quiet := true }
    let s := { home busy with jobs := [(0, jobJ)], waves := [(5, w)] }
    let awaits := fun (c : Ctx) => c.waits.any fun x => match x.kind with
      | .quiet 0 n _ none => decide (n < w.begun)
      | _ => false
    (jobOn s 0 5 = some 0 ∧ (getWave s 5).running = true ∧ (getWave s 5).sent = true ∧ (0 : Nat) ∉ w.told ∧ s.links = []) ∧
    ((∀ q ∈ s.cores, awaits q.2.ctx = false ∧ q.2.svc = none) ∧ s.saved = []) ∧
    (awaits { waits := [{ kind := .quiet 0 0 9 none, slot := 4, seq := 0, dst := .belt }] } = true ∧
      awaits { waits := [{ kind := .quiet 0 1 9 none, slot := 4, seq := 0, dst := .belt }] } = false) := by decide +kernel

/-- An error record that is written, and one that is counted as lost; each ground on which a descriptor is refused; a quad that a partition
gives up; units that a revoked key covers and units that it does not. -/
theorem witness_PartitionsAndKeys_records :
    let x : Part := {}
    let old := 2 ^ 64 + 2 ^ 128 + 4 * 2 ^ 320
    let s := { State.reset with parts := [(1, { desc := BitVec.ofNat 1024 old })], tags := [(0, 5)], keys := [(2, { valid := true, pair := 5 })] }
    let active := 2 ^ 323 + 2 ^ (576 + 2)
    ((x.erHead + 2 ^ 32 - x.erTail) % 2 ^ 32 ≠ 1024 ∧ (1024 + 2 ^ 32 - 0) % 2 ^ 32 = 1024) ∧
    (bits (active + 2 ^ 848) 832 55 ≠ bits active 832 55) ∧
    (bits (2 ^ 128) 128 16 ≠ 0 ∧ bits (2 ^ 128) 64 16 = 0) ∧
    (active.testBit 323 = true ∧ active.testBit (576 + 2) = true ∧ (2 ^ 323).testBit (576 + 2) = false ∧ (getKey s 2).revoked = false) ∧
    (old.testBit (64 + 0) = true ∧ (0 : Nat).testBit (64 + 0) = false ∧ paKind 0 = .hbm 0 0 ∧ old.testBit (128 + 16 * 0 + 0) = true) ∧
    ((smGet s.tags 0).or (smGet s.ftags 0) = some (getKey s 2).pair ∧ (smGet s.tags 1).or (smGet s.ftags 0) ≠ some (getKey s 2).pair) ∧
    (paOwner s 0x800000000000 = some 1 ∧ (∃ q ∈ ({ s with poison := [0x20000000000] } : State).poison, 0x800000000000 / 256 * 4 ≤ q ∧ q < 0x800000000000 / 256 * 4 + 4) ∧
      s.poison = []) := by decide +kernel

/-- A source whose period changes while a region is locked to it, and one that had none. -/
theorem witness_EnergyAndManagement_source :
    let s := regS reg
    (getRegion s 0).src = 1 ∧ (getRegion s 0).ren = true ∧ (getRegion s 0).st ≠ .idle ∧ (s.regions.map (·.1)).Nodup ∧
    ¬((getSource s 1).pnum = 50 ∧ (getSource s 1).pden = 1) ∧ (getSource s 1).times ≠ [] ∧ (getRegion s 0).den ≠ 0 ∧
    ((getSource s 2).pnum = 0 ∧ (getSource s 2).times = []) ∧ (2 ^ 51 + 2 ^ 36 : Nat).testBit 51 = true ∧ bits (2 ^ 51 + 2 ^ 36) 36 5 ≠ 0 := by
  decide +kernel

end Sys2Proof.Tests
end

section
/-! Proofs of the family of spec/01: every row and every step has a next state (O57); a bundle that is due may stall (O59). -/

namespace Sys2Proof.Machine

/-! ### Outcomes that are next states -/

/-- The outcome is a next state: neither a fault nor a refusal. -/
def HasNext (o : Out) : Prop := ∃ t, o = .next t

namespace HasNext

theorem next {t : State} : HasNext (.next t) := ⟨t, rfl⟩

theorem ite {p : Prop} {d : Decidable p} {a b : Out} (ha : HasNext a) (hb : HasNext b) : HasNext (if p then a else b) := by
  split
  · exact ha
  · exact hb

end HasNext

/-! ### Rows of the cores -/

theorem execIssueDictionaryBundle_hasNext (idx : Nat) (s : State) : HasNext (execIssueDictionaryBundle idx s) := by
  refine .ite .next (.ite .next ?_)
  split <;> exact .next

theorem execIssueLiteralBundle_hasNext (tpl : Unit16) (words : List Word) (s : State) :
    HasNext (execIssueLiteralBundle tpl words s) := by
  unfold execIssueLiteralBundle
  split <;> exact .next

theorem execAnnulledBundle_hasNext (u : AnnulUnit) (s : State) : HasNext (execAnnulledBundle u s) := by
  cases u with
  | dict idx =>
    refine .ite .next (.ite .next ?_)
    split <;> exact .next
  | literal tpl =>
    unfold execAnnulledBundle
    dsimp only
    split <;> exact .next
  | empty => exact .next

theorem execSvcResume_hasNext (core : Nat) (outcome : Word) (s : State) : HasNext (execSvcResume core outcome s) := by
  unfold execSvcResume
  split
  · exact .next
  · exact .ite .next .next

theorem execKillTaken_hasNext (core : Nat) (s : State) : HasNext (execKillTaken core s) := by
  unfold execKillTaken
  split <;> exact .next

theorem execHandlerEnd_hasNext (core : Nat) (s : State) : HasNext (execHandlerEnd core s) := by
  unfold execHandlerEnd
  split
  · exact .next
  · refine .ite .next (.ite .next (.ite .next ?_))
    split <;> exact .next

theorem execDeadlineExpiry_hasNext (core : Nat) (s : State) : HasNext (execDeadlineExpiry core s) := by
  refine .ite ?_ .next
  split <;> exact .next

theorem execContextSave_hasNext (core : Nat) (s : State) : HasNext (execContextSave core s) := by
  unfold execContextSave
  dsimp only
  split
  · refine .ite .next (.ite ?_ .next)
    split
    · exact .next
    · exact .next
  · exact .next
  · exact .next

theorem execContextRestore_hasNext (core : Nat) (s : State) : HasNext (execContextRestore core s) := by
  refine .ite ?_ .next
  split
  · exact .next
  · dsimp only
    split <;> exact .next

theorem execCodeLineFetch_hasNext (core line : Nat) (s : State) : HasNext (execCodeLineFetch core line s) := by
  unfold execCodeLineFetch
  split <;> exact .next

theorem execPromise_hasNext (core : Nat) (s : State) : HasNext (execPromise core s) := by
  unfold execPromise
  split
  · exact .next
  · exact .ite .next .next

theorem execUnitCount_hasNext (core : Nat) (s : State) : HasNext (execUnitCount core s) := by
  unfold execUnitCount
  dsimp only
  split
  · split
    · exact .next
    · exact .next
  · exact .next

/-! ### Rows of the requests -/

theorem execCopySegmentLanding_hasNext (req seg : Nat) (s : State) : HasNext (execCopySegmentLanding req seg s) := by
  refine .ite ?_ .next
  split <;> exact .next

theorem execAtomicPerform_hasNext (req : Nat) (s : State) : HasNext (execAtomicPerform req s) := by
  unfold execAtomicPerform
  dsimp only
  split
  · refine .ite ?_ .next
    split
    · exact .next
    · exact .next
  · exact .next

theorem execTableWalk_hasNext (cluster part va : Nat) (s : State) : HasNext (execTableWalk cluster part va s) := by
  refine .ite .next ?_
  dsimp only
  split
  · exact .next
  · exact .ite .next .next

theorem execTlbiPerform_hasNext (op : Nat) (s : State) : HasNext (execTlbiPerform op s) := by
  unfold execTlbiPerform
  split <;> exact .next

theorem execReducerContribution_hasNext (req : Nat) (s : State) : HasNext (execReducerContribution req s) := by
  unfold execReducerContribution
  dsimp only
  split
  · refine .ite ?_ .next
    split
    · exact .next
    · split
      · exact .next
      · exact .ite .next .next
  · exact .next

theorem execReducerResultWrite_hasNext (round : Nat) (s : State) : HasNext (execReducerResultWrite round s) := by
  unfold execReducerResultWrite
  split
  · exact .next
  · exact .ite .next .next

/-! ### Rows of the regions and of the completion objects -/

theorem execSlotWindowClose_hasNext (region : Nat) (s : State) : HasNext (execSlotWindowClose region s) := by
  unfold execSlotWindowClose
  dsimp only
  split
  · exact .next
  · exact .ite .next .next

theorem execLatchPresentation_hasNext (region : Nat) (s : State) : HasNext (execLatchPresentation region s) := by
  unfold execLatchPresentation
  dsimp only
  split <;> exact .next

theorem execCompletionCounterUpdate_hasNext (obj : Nat) (s : State) : HasNext (execCompletionCounterUpdate obj s) := by
  unfold execCompletionCounterUpdate
  dsimp only
  split
  · exact .next
  · exact .ite .next .next

/-! ### Rows of the loader and of the management registers -/

theorem execLoadqBind_hasNext (entry : Nat) (s : State) : HasNext (execLoadqBind entry s) := by
  unfold execLoadqBind
  split
  · exact .next
  · refine .ite .next ?_
    dsimp only
    split <;> exact .next

theorem execLoadqUnbind_hasNext (entry : Nat) (s : State) : HasNext (execLoadqUnbind entry s) := by
  unfold execLoadqUnbind
  split
  · exact .next
  · refine .ite .next ?_
    dsimp only
    split
    · exact .next
    · exact .ite (.ite .next .next) .next

theorem execLoadqReservedOp_hasNext (entry : Nat) (s : State) : HasNext (execLoadqReservedOp entry s) := by
  unfold execLoadqReservedOp
  split
  · exact .next
  · exact .ite .next .next

theorem execPatrolScrub_hasNext (w : ErrAt) (err : Fin 3) (s : State) : HasNext (execPatrolScrub w err s) := by
  cases w with
  | mem _ | read _ | sram _ _ _ => exact .next

theorem execManagementRegisterWrite_hasNext (reg : MgmtReg) (v : BitVec 128) (s : State) :
    HasNext (execManagementRegisterWrite reg v s) := by
  cases reg with
  | svstore _ _ | ewin => exact .ite .next .next
  | host off => exact .ite .next (.ite .next (.ite .next (.ite (.ite .next .next) (.ite .next .next))))
  | _ => exact .next

/-! ### Rows of the fabric -/

theorem execMessageDelivery_hasNext (msg : Nat) (s : State) : HasNext (execMessageDelivery msg s) := by
  unfold execMessageDelivery
  split <;> exact .next

theorem execMessageLoss_hasNext (msg : Nat) (s : State) : HasNext (execMessageLoss msg s) := by
  unfold execMessageLoss
  split
  · exact .next
  · exact .ite .next .next

theorem execLossNoticeArrival_hasNext (msg : Nat) (s : State) : HasNext (execLossNoticeArrival msg s) := by
  unfold execLossNoticeArrival
  split
  · exact .next
  · refine .ite ?_ .next
    dsimp only
    split <;> exact .next

theorem execPartialMessageDiscard_hasNext (msg : Nat) (s : State) : HasNext (execPartialMessageDiscard msg s) := by
  unfold execPartialMessageDiscard
  split
  · exact .next
  · exact .ite .next .next

theorem execWaveDownFlit_hasNext (job die : Nat) (s : State) : HasNext (execWaveDownFlit job die s) := by
  unfold execWaveDownFlit
  dsimp only
  split <;> exact .next

theorem execWaveResultArrival_hasNext (job die : Nat) (s : State) : HasNext (execWaveResultArrival job die s) := by
  unfold execWaveResultArrival
  dsimp only
  split
  · exact .ite (.ite .next .next) .next
  · exact .next

/-! ### Every row -/

/-- An instruction of a slot, as a row by itself, is what its slot issues, with its stop taken (R169). -/
theorem exec_eq_settle {i : Instr} {f : Issue} (h : slotIssue i = some f) (s : State) : exec i s = settle s (f s) := by
  cases i <;> cases h <;> rfl

/-- The rows that stand in no slot: bundles, and what the package or the outside makes happen. -/
theorem exec_hasNext_of_slotIssue_none {i : Instr} (h : slotIssue i = none) (s : State) : HasNext (exec i s) := by
  cases i with
  | issueDictionaryBundle idx => exact execIssueDictionaryBundle_hasNext idx s
  | issueLiteralBundle tpl words => exact execIssueLiteralBundle_hasNext tpl words s
  | annulledBundle u => exact execAnnulledBundle_hasNext u s
  | svcResume core outcome => exact execSvcResume_hasNext core outcome s
  | killTaken core => exact execKillTaken_hasNext core s
  | handlerEnd core => exact execHandlerEnd_hasNext core s
  | deadlineExpiry core => exact execDeadlineExpiry_hasNext core s
  | contextSave core => exact execContextSave_hasNext core s
  | contextRestore core => exact execContextRestore_hasNext core s
  | codeLineFetch core line => exact execCodeLineFetch_hasNext core line s
  | promise core => exact execPromise_hasNext core s
  | unitCount core => exact execUnitCount_hasNext core s
  | copySegmentLanding req seg => exact execCopySegmentLanding_hasNext req seg s
  | atomicPerform req => exact execAtomicPerform_hasNext req s
  | tableWalk cluster part va => exact execTableWalk_hasNext cluster part va s
  | tlbiPerform op => exact execTlbiPerform_hasNext op s
  | reducerContribution req => exact execReducerContribution_hasNext req s
  | reducerResultWrite round => exact execReducerResultWrite_hasNext round s
  | slotWindowClose region => exact execSlotWindowClose_hasNext region s
  | latchPresentation region => exact execLatchPresentation_hasNext region s
  | completionCounterUpdate obj => exact execCompletionCounterUpdate_hasNext obj s
  | loadqBind entry => exact execLoadqBind_hasNext entry s
  | loadqUnbind entry => exact execLoadqUnbind_hasNext entry s
  | loadqReservedOp entry => exact execLoadqReservedOp_hasNext entry s
  | patrolScrub w err => exact execPatrolScrub_hasNext w err s
  | managementRegisterWrite reg v => exact execManagementRegisterWrite_hasNext reg v s
  | messageDelivery msg => exact execMessageDelivery_hasNext msg s
  | messageLoss msg => exact execMessageLoss_hasNext msg s
  | lossNoticeArrival msg => exact execLossNoticeArrival_hasNext msg s
  | partialMessageDiscard msg => exact execPartialMessageDiscard_hasNext msg s
  | waveDownFlit job die => exact execWaveDownFlit_hasNext job die s
  | waveResultArrival job die => exact execWaveResultArrival_hasNext job die s
  | bytePerform => exact .ite .next (.ite .next .next)
  | streamStepStart | crossingCompute | slip => exact .ite (.ite .next .next) .next
  | jobSlotWrite => exact .ite .next (.ite .next (.ite (.ite .next .next) .next))
  | requestComplete | sourceEdge | regionStop | regionRestart | historySlotAdvance | timetableRelease | stallEndRelease | entrySkip
  | launchRelease | launchComplete | graphComplete | phaseComplete | jobComplete | watchdogPreempt | watchdogKill | watchdogFence
  | partdescWrite | keyload | featAcceptWrite | packageReset | ebudgetWrite | fwlWrite | waveStart | waveResultSend
  | fencedCoreReset => exact .ite .next .next
  | emptyBundle | resultLanding | sleeptoWake | mwaitEnd | serviceRestart | joinEnd | productStart | productRowLanding | foldStart
  | foldRowLanding | scanStart | scanLanding | barwEnd | drainEnd | frecvEnd | quietEnd | fstatRecordLanding | tweFaultReport
  | descriptorFetch | metadataFetch | svreqWrite | preemptRequest | debugHaltRequest | debugRelease | snapshotComplete | sourceLoss
  | frameBoundary | triggerCount | reexecutionRelease | wheelSlot | wheelRevolution | kilnMapWrite | kilnChstWrite | rdcownWrite
  | ptrootWrite | groupSweepDone | keyRevoke | attqRequest | energyMicrosecond | energyWindowEnd | linkLoss
  | wavePass2Start => exact .next
  | _ => cases h

/-- Every row has a next state. -/
theorem exec_hasNext (i : Instr) (s : State) : HasNext (exec i s) := by
  cases h : slotIssue i with
  | some f => rw [exec_eq_settle h]; exact settle_next s (f s)
  | none => exact exec_hasNext_of_slotIssue_none h s

/-! ### Every step -/

/-- The row of the table that an event runs (R13, R22). Not compiled: the runtime's constructor tags are too small for `Instr`. -/
noncomputable def Event.row : Event → Instr
  | .resultLanding core => .resultLanding core
  | .sleeptoWake core => .sleeptoWake core
  | .mwaitEnd core => .mwaitEnd core
  | .joinEnd core => .joinEnd core
  | .barwEnd core => .barwEnd core
  | .drainEnd core => .drainEnd core
  | .frecvEnd core => .frecvEnd core
  | .quietEnd core => .quietEnd core
  | .fstatRecordLanding core => .fstatRecordLanding core
  | .killTaken core => .killTaken core
  | .productStart core => .productStart core
  | .productRowLanding core => .productRowLanding core
  | .foldStart core => .foldStart core
  | .foldRowLanding core => .foldRowLanding core
  | .scanStart core => .scanStart core
  | .scanLanding core => .scanLanding core
  | .promise core => .promise core
  | .deadlineExpiry core => .deadlineExpiry core
  | .handlerEnd core => .handlerEnd core
  | .snapshotComplete core => .snapshotComplete core
  | .contextSave core => .contextSave core
  | .codeLineFetch core line => .codeLineFetch core line
  | .metadataFetch core record => .metadataFetch core record
  | .triggerCount core => .triggerCount core
  | .unitCount core => .unitCount core
  | .copySegmentLanding req seg => .copySegmentLanding req seg
  | .bytePerform req piece => .bytePerform req piece
  | .atomicPerform req => .atomicPerform req
  | .tweFaultReport req => .tweFaultReport req
  | .requestComplete req => .requestComplete req
  | .tableWalk cluster part va => .tableWalk cluster part va
  | .tlbiPerform op => .tlbiPerform op
  | .descriptorFetch cluster stream => .descriptorFetch cluster stream
  | .streamStepStart cluster stream => .streamStepStart cluster stream
  | .slotWindowClose region => .slotWindowClose region
  | .latchPresentation region => .latchPresentation region
  | .sourceLoss source => .sourceLoss source
  | .regionStop region => .regionStop region
  | .regionRestart region => .regionRestart region
  | .frameBoundary region => .frameBoundary region
  | .historySlotAdvance xing => .historySlotAdvance xing
  | .crossingCompute xing => .crossingCompute xing
  | .timetableRelease region => .timetableRelease region
  | .stallEndRelease region => .stallEndRelease region
  | .entrySkip region => .entrySkip region
  | .slip region => .slip region
  | .launchRelease obj => .launchRelease obj
  | .completionCounterUpdate obj => .completionCounterUpdate obj
  | .launchComplete obj => .launchComplete obj
  | .graphComplete obj => .graphComplete obj
  | .phaseComplete obj => .phaseComplete obj
  | .jobComplete obj => .jobComplete obj
  | .watchdogPreempt obj => .watchdogPreempt obj
  | .watchdogKill obj => .watchdogKill obj
  | .watchdogFence obj => .watchdogFence obj
  | .reexecutionRelease obj => .reexecutionRelease obj
  | .wheelSlot chan => .wheelSlot chan
  | .wheelRevolution chan => .wheelRevolution chan
  | .reducerContribution req => .reducerContribution req
  | .reducerResultWrite round => .reducerResultWrite round
  | .groupSweepDone part => .groupSweepDone part
  | .packageReset => .packageReset
  | .energyMicrosecond => .energyMicrosecond
  | .energyWindowEnd => .energyWindowEnd
  | .loadqBind entry => .loadqBind entry
  | .loadqUnbind entry => .loadqUnbind entry
  | .loadqReservedOp entry => .loadqReservedOp entry
  | .messageDelivery msg => .messageDelivery msg
  | .lossNoticeArrival msg => .lossNoticeArrival msg
  | .messageLoss msg => .messageLoss msg
  | .partialMessageDiscard msg => .partialMessageDiscard msg
  | .waveStart job => .waveStart job
  | .waveDownFlit job die => .waveDownFlit job die
  | .wavePass2Start job => .wavePass2Start job
  | .waveResultSend job => .waveResultSend job
  | .waveResultArrival job die => .waveResultArrival job die

/-- An event runs the meaning of its row. -/
theorem runEvent_eq_exec (e : Event) (s : State) : runEvent e s = exec e.row s := by
  cases e <;> rfl

theorem runEvent_hasNext (e : Event) (s : State) : HasNext (runEvent e s) :=
  runEvent_eq_exec e s ▸ exec_hasNext e.row s

theorem issueAt_hasNext (c : Nat) (annulled : Bool) (b : AtPc) (s : State) : HasNext (issueAt c annulled b s) := by
  cases b with
  | reserved => exact .next
  | empty => exact .ite (execAnnulledBundle_hasNext ..) .next
  | dict idx =>
    refine .ite (execAnnulledBundle_hasNext ..) ?_
    split
    · exact .next
    · exact execIssueDictionaryBundle_hasNext idx s
  | literal tpl words =>
    refine .ite (execAnnulledBundle_hasNext ..) ?_
    split
    · exact .next
    · exact execIssueLiteralBundle_hasNext tpl words s

theorem dueBundle_hasNext (c : Nat) (s : State) : HasNext (dueBundle c s) := by
  unfold dueBundle
  dsimp only
  split
  · exact .next
  · split
    · exact .next
    · split
      · exact .next
      · refine .ite .next (.ite .next ?_)
        split
        · exact .next
        · exact .next
        · exact .next
        · exact issueAt_hasNext ..

theorem waitOrBundle_hasNext (c : Nat) (s : State) : HasNext (waitOrBundle c s) := by
  refine .ite (dueBundle_hasNext c s) ?_
  split
  · exact .next
  · exact .ite .next .next

theorem hostCycle_hasNext (c : Nat) (s : State) : HasNext (hostCycle c s) :=
  .ite .next (.ite .next (.ite .next (.ite .next (waitOrBundle_hasNext c s))))

theorem handlerCycle_hasNext (c : Nat) (h : Service) (s : State) : HasNext (handlerCycle c h s) := by
  unfold handlerCycle
  split
  · exact .next
  · exact .ite (.ite .next .next) (.ite .next (waitOrBundle_hasNext c s))

theorem coreCycle_hasNext (c : Nat) (s : State) : HasNext (coreCycle c s) := by
  refine .ite (execKillTaken_hasNext ..) (.ite .next ?_)
  split
  · exact handlerCycle_hasNext ..
  · exact hostCycle_hasNext ..

theorem runTask_hasNext (t : Task) (s : State) : HasNext (runTask t s) := by
  cases t with
  | ev e => exact runEvent_hasNext e s
  | act c => exact coreCycle_hasNext c s
  | _ => exact .next

theorem step_hasNext (s : State) : HasNext (step s) := by
  unfold step
  split
  · exact runTask_hasNext ..
  · split
    · exact exec_hasNext ..
    · exact .next

/-- Settles O57: a slot instruction by itself settles with its next state or with its stop taken, each other row answers a next state on
every branch, and a step runs a row or changes what is due. -/
theorem nothingStopsThePackage : Obligations.NothingStopsThePackage := by
  unfold Obligations.NothingStopsThePackage
  exact ⟨exec_hasNext, step_hasNext⟩

/-! ### A bundle whose code line still travels -/

/-- A core whose bundle due is the empty one, with a packet of its code line that still waits for its slot. -/
def awaitingLine : State :=
  { sched := { tasks := [.act 0] }
    cores := [(0, { run := .running, code := [(0, .bytes (leBytes 256 0xFFFE))] })]
    chans := [(0, { ready := [{ site := 0, cls := 1, part := 0, req := 0, line := 0, own := true }] })] }

/-- The same state as the core's cycle takes it up. -/
def awaitingLineAct : State := { awaitingLine with sched := { tasks := [] } }

theorem awaitingLine_bundleDue : Spec.bundleDue awaitingLineAct 0 := by
  unfold Spec.bundleDue
  decide

theorem awaitingLine_unitAt : Spec.unitAt (getCore awaitingLine 0) 0 0xFFFE :=
  ⟨fun ⟨_, hw, _⟩ => List.not_mem_nil hw, _, rfl, by decide⟩

/-- The bundle stalls: the step takes its task away and changes nothing else. -/
theorem step_awaitingLine : step awaitingLine = .next awaitingLineAct := rfl

theorem exec_emptyBundle_pc {t : State} (h : exec .emptyBundle awaitingLineAct = .next t) :
    (getCore t 0).ctx.pc = 1 := by
  cases h
  decide

/-- Refutes O59: `Spec.bundleDue` does not ask that the line at `PC` has come. In `awaitingLine` the empty bundle stands at `PC` and nothing
else is due on the core, but a packet of its code line still waits for its slot on a channel (R231, R265): the bundle stalls (R33) and the
step changes nothing, where the row `EMPTY_BUNDLE` would go on to the next `PC`. -/
theorem not_stepRunsDecoded : ¬ Obligations.StepRunsDecoded := by
  unfold Obligations.StepRunsDecoded
  rintro ⟨runs, -⟩
  obtain ⟨-, -, runsEmpty, -⟩ := runs awaitingLine 0 [] rfl awaitingLine_bundleDue
  have issues : exec .emptyBundle awaitingLineAct = .next awaitingLineAct :=
    (runsEmpty awaitingLine_unitAt).symm.trans step_awaitingLine
  exact absurd (exec_emptyBundle_pc issues) (by decide)

end Sys2Proof.Machine
end

section
/-! Proofs of the family of spec/02: a restored context need not be in canonical form (O58). -/

namespace Sys2Proof.Machine

/-! ### Canonical cores -/

theorem mem_of_smGet {α : Type} {m : SMap α} {k : Nat} {x : α} (h : smGet m k = some x) : (k, x) ∈ m := by
  induction m with
  | nil => cases h
  | cons e m ih =>
    obtain ⟨j, y⟩ := e
    by_cases hj : j = k
    · subst hj
      simp only [smGet, if_true, Option.some.injEq] at h
      exact h ▸ List.mem_cons_self
    · exact List.mem_cons_of_mem _ (ih (by simpa [smGet, hj] using h))

/-- Every core of a canonical state has a canonical context, one after reset too. -/
theorem ctxWf_getCore {s : State} (h : Spec.canonical s) (c : Nat) : Spec.ctxWf (getCore s c).ctx := by
  obtain ⟨-, -, -, cores, -⟩ := h
  cases hk : smGet s.cores c with
  | none =>
    rw [getCore, smGetD, hk]
    exact ⟨rfl, rfl, rfl, rfl, rfl, rfl⟩
  | some k =>
    obtain ⟨-, -, ctx, -⟩ := cores _ (mem_of_smGet hk)
    rw [getCore, smGetD, hk]
    exact ctx

/-! ### A context restored from an area that reads zeros -/

/-- Memory that nothing has written reads zeros, whatever pages of it an area has. -/
theorem areaRead_of_unwritten {s : State} (hm : s.mem = []) (ht : s.tags = []) (hf : s.ftags = []) (ranges : List (Nat × Nat))
    (xs : List Xlat) : areaRead ranges xs s = [] := by
  have under : ∀ k pa n, rangeUnder s k pa n = [] := by
    intro k pa n
    simp [rangeUnder, unitPair, hm, ht, hf, smGet]
  simp [areaRead, under, cellsDown, cellsUp]

/-- The predicates of an area that reads zeros: `p0` is 0. -/
theorem preds_regsFrom_nil (c : Ctx) : (regsFrom [] c).preds = 0 := by
  have header : wordsFrom [] 0 32 = List.replicate 32 0 := by decide
  show BitVec.ofNat 16 (bits ((wordsFrom [] 0 32).getD 8 0) 0 16) = 0
  rw [header]
  decide

theorem preds_withArea_nil (latch : Bool) (k : Core) : (withArea latch [] k).ctx.preds = 0 := by
  cases latch <;> exact preds_regsFrom_nil k.ctx

@[simp] theorem replayCtx_preds (c : Ctx) : (replayCtx c).preds = c.preds := rfl

/-- A walk of pages that every access finds where they stand. -/
theorem areaWalk_of_pinned {core bit area : Nat} {s : State} (ranges : List (Nat × Nat)) (hp : s.poison = []) {is : List Nat}
    (h : ∀ i ∈ is, ∃ x, pinnedAt s core bit (area + 65536 * i) 0 = (s, .ok x)) :
    ∃ xs, areaWalk core bit area ranges is s = (s, .ok xs) := by
  induction is with
  | nil => exact ⟨[], rfl⟩
  | cons i is ih =>
    obtain ⟨x, hx⟩ := h i List.mem_cons_self
    obtain ⟨xs, hxs⟩ := ih fun j hj => h j (List.mem_cons_of_mem _ hj)
    exact ⟨x :: xs, by simp [areaWalk, hx, hxs, poisoned, hp, List.find?_eq_none.2]⟩

/-- A restore whose walk finds the pages of the area (R174, R176). -/
theorem exec_contextRestore_of_walk {core : Nat} {s s1 s2 : State} {v : Saved} {k : Core} {latch : Bool} {xs : List Xlat}
    (bare : coreBare (getCore s core) = true) (found : savedFor s core = some v)
    (taken : withSaved v ((getInst s v.blk.inst).cores.head? == some core) (getCore s core) = k) (hl : (!nothingInFlight k) = latch)
    (hs : { setCore s core k with saved := s.saved.erase v } = s1)
    (walk : areaWalk core 1 v.blk.area (areaRanges v.mx latch) (List.range 12) s1 = (s2, .ok xs)) :
    exec (.contextRestore core) s =
      let s3 := areaPost core v.blk.area (areaRanges v.mx latch) xs s2
      .next (resumeCore core (setCore s3 core (withArea latch (areaRead (areaRanges v.mx latch) xs s2) (getCore s3 core)))) := by
  subst hl hs taken
  show execContextRestore core s = _
  simp only [execContextRestore, bare, found, walk, if_true]

/-- The cached leaf of the pages of an area: 4 TiB of HBM from physical address 0 on, pinned, that may be read and written. -/
def zeroLeaf : Leaf := mkLeaf 0 0 0 (2 ^ 20 + 2 ^ 10 + 0xFF * 2 ^ 2 + 2 + 1)

/-- A context saved on core 0, its area from virtual address 0 on. -/
def savedZero : Saved :=
  { codeBase := 0, ctx := {}, mx := {}, spad := [], dict := [], core := 0, cause := .preempt, faults := [], dlHold := false
    blk := { bid := 0, inst := 0, kernel := 0, part := 0, entry := 0, budget := 0, gen := 0 } }

/-- A package whose memory reads zeros, with that context saved; partition 0 owns the pages of its area (R176, R309). -/
def savedOverZeros : State :=
  { saved := [savedZero]
    twes := [(0, { tlb := [zeroLeaf] })]
    parts := [(0, { desc := BitVec.ofNat 1024 (0xFFFF * 2 ^ 128 + 2 ^ 576) })] }

/-- The same state as core 0 takes up the context, before its area is read. -/
def takenOverZeros : State := { setCore savedOverZeros 0 (withSaved savedZero false {}) with saved := [] }

theorem canonical_savedOverZeros : Spec.canonical savedOverZeros := by
  have rows : Spec.rowsWf {} := by
    rintro d (rfl | h)
    · decide
    · cases h
  refine ⟨rfl, rfl, rfl, List.forall_mem_nil _, ?_, List.forall_mem_nil _, ?_⟩
  · simp only [savedOverZeros, List.mem_singleton, forall_eq]
    exact ⟨rfl, rfl, ⟨rfl, rfl, rfl, rfl, rfl, rfl⟩, rows⟩
  · decide

theorem pinnedAt_takenOverZeros : ∀ i ∈ List.range 12,
    pinnedAt takenOverZeros 0 1 (0 + 65536 * i) 0 = (takenOverZeros, .ok ⟨65536 * i, 0, 1, true⟩) := by decide +kernel

/-- The restore takes every register from the area, `p0` among them (R34). -/
theorem exec_contextRestore_savedOverZeros :
    ∃ t, exec (.contextRestore 0) savedOverZeros = .next t ∧ (getCore t 0).ctx.preds = 0 := by
  obtain ⟨xs, walk⟩ := areaWalk_of_pinned (areaRanges savedZero.mx false) (is := List.range 12) (s := takenOverZeros) rfl
    fun i hi => ⟨_, pinnedAt_takenOverZeros i hi⟩
  have read := areaRead_of_unwritten (s := takenOverZeros) rfl rfl rfl (areaRanges savedZero.mx false) xs
  have restored := exec_contextRestore_of_walk (core := 0) (s := savedOverZeros) (s1 := takenOverZeros) (v := savedZero)
    (k := withSaved savedZero false {}) (latch := false) (by decide +kernel) (by decide +kernel) (by decide +kernel) rfl
    (by decide +kernel) walk
  rw [read] at restored
  refine ⟨_, restored, ?_⟩
  rw [resume_ctx, getCore_setCore, replayCtx_preds]
  exact preds_withArea_nil false _

/-- Refutes O58: a restore takes `preds` from the saved context's area of memory as it stands there, and nothing keeps the bit of `p0` in
it (R34): from an area that reads zeros, the context of a canonical state comes back with `p0` as 0. -/
theorem not_memoriesStayCanonical : ¬ Obligations.MemoriesStayCanonical := by
  unfold Obligations.MemoriesStayCanonical
  rintro ⟨keeps, -⟩
  obtain ⟨t, restored, preds⟩ := exec_contextRestore_savedOverZeros
  obtain ⟨-, -, -, -, p0, -⟩ := ctxWf_getCore (keeps _ _ _ canonical_savedOverZeros restored) 0
  rw [preds] at p0
  exact absurd p0 (by decide)

end Sys2Proof.Machine
end

section
/-! Proofs of the family of spec/02: landings (O53). -/

namespace Sys2Proof.Machine

/-! ### The order of landings -/

theorem landsBefore_iff {a b : Landing} :
    landsBefore a b = true ↔ a.slot < b.slot ∨ (a.slot = b.slot ∧ a.seq ≤ b.seq) := by
  simp [landsBefore]

theorem not_landsBefore_iff {a b : Landing} :
    (!landsBefore a b) = true ↔ b.slot < a.slot ∨ (a.slot = b.slot ∧ b.seq < a.seq) := by
  rw [Bool.not_eq_true', ← Bool.not_eq_true, landsBefore_iff]
  omega

section Order

variable {r : Landing → Landing → Prop} [DecidableRel r]

/-- Two results find their places in the order of R29 whichever is inserted first: of two that the order does not tell apart, the later
of the list stands below. -/
theorem landInsert_orderedInsert (h : ∀ a b, landsBefore a b = true ↔ r a b) (x a : Landing) (l : List Landing) :
    landInsert x (l.orderedInsert r a) = (landInsert x l).orderedInsert r a := by
  have total : ∀ {a b}, ¬ r a b → r b a := by simp only [← h, landsBefore_iff]; omega
  have trans : ∀ {a b c}, r a b → r b c → r a c := by simp only [← h, landsBefore_iff]; omega
  induction l with
  | nil =>
    by_cases hax : r a x
    · simp [landInsert, h, hax]
    · simp [landInsert, h, hax]
  | cons b l ih =>
    by_cases hab : r a b <;> by_cases hbx : r b x
    · simp [landInsert, h, hab, hbx, trans hab hbx]
    · by_cases hax : r a x <;> simp [landInsert, h, hab, hbx, hax]
    · simp [landInsert, h, hab, hbx, ih]
    · have hax : ¬ r a x := fun hax => hbx (trans (total hab) hax)
      simp [landInsert, h, hab, hbx, hax]

theorem landInsert_insertionSort (h : ∀ a b, landsBefore a b = true ↔ r a b) (x : Landing) (l : List Landing) :
    landInsert x (l.insertionSort r) = (l ++ [x]).insertionSort r := by
  induction l with
  | nil => rfl
  | cons a l ih => simp only [List.cons_append, List.insertionSort_cons, landInsert_orderedInsert h, ih]

/-- The model's sort is the stable sort by the order of R29. -/
theorem landSort_eq_insertionSort (h : ∀ a b, landsBefore a b = true ↔ r a b) (l : List Landing) : landSort l = l.insertionSort r := by
  have sorted : ∀ l acc : List Landing,
      l.foldl (fun acc x => landInsert x acc) (acc.insertionSort r) = (acc ++ l).insertionSort r := by
    intro l
    induction l with
    | nil => simp
    | cons x l ih =>
      intro acc
      rw [List.foldl_cons, landInsert_insertionSort h, ih, List.append_assoc, List.singleton_append]
  exact sorted l []

end Order

/-! ### A result that lands after those of its cycle -/

/-- A result that nothing of its cycle lands after: the newest of its belt, or what its register holds (R27 to R31). -/
def landOver (c : Ctx) (l : Landing) : Ctx :=
  let c1 :=
    match l.res with
    | .sbelt v => { c with sb := ((⟨v, false⟩ : SVal) :: c.sb).take 16 }
    | .vbelt v => { c with vb := ((⟨v, false⟩ : VVal) :: c.vb).take 16 }
    | .k i v => { c with sk := smPut c.sk i.val ⟨v, false⟩ }
    | .w i v => { c with vk := smPut c.vk i.val ⟨v, false⟩ }
    | .pred i v => setP c i v
    | .drop _ => c
  { c1 with flags := c1.flags ||| l.flags, landed := c1.landed ++ [l] }

theorem land_eq_landOver {c : Ctx} {l : Landing} (h : ∀ m ∈ c.landed, landsBefore m l = true) : land c l = landOver c l := by
  have later : (c.landed.filter fun m => !landsBefore m l) = [] := by simpa [List.filter_eq_nil_iff] using h
  unfold land landOver
  rw [later]
  cases l.res <;> simp

theorem getLsbD_twoPow16 (i j : Fin 16) : (BitVec.ofNat 16 (2 ^ i.val)).getLsbD j.val = decide (i = j) := by
  rw [BitVec.getLsbD_ofNat, Nat.testBit_two_pow]
  simp [Fin.ext_iff]

@[simp] theorem setP_zero (c : Ctx) (v : Bool) : setP c 0 v = c := rfl

@[simp] theorem setP_sk (c : Ctx) (p : Fin 16) (v : Bool) : (setP c p v).sk = c.sk := by unfold setP; split <;> rfl
@[simp] theorem setP_vk (c : Ctx) (p : Fin 16) (v : Bool) : (setP c p v).vk = c.vk := by unfold setP; split <;> rfl

/-- A predicate and its void bit after a write of one that is not `p0` (R34, R35). -/
theorem setP_getLsbD {p : Fin 16} (hp : p ≠ 0) (c : Ctx) (v : Bool) (i : Fin 16) :
    ((setP c p v).preds.getLsbD i.val, (setP c p v).pvoid.getLsbD i.val) =
      if p = i then (v, false) else (c.preds.getLsbD i.val, c.pvoid.getLsbD i.val) := by
  have h0 : ¬ p.val = 0 := fun h => hp (Fin.ext h)
  have hi := i.isLt
  unfold setP
  rw [if_neg h0]
  have bits := getLsbD_twoPow16 p i
  by_cases h : p = i
  · subst h
    cases v <;>
      simp only [if_true, if_false, Bool.false_eq_true, BitVec.getLsbD_or, BitVec.getLsbD_and, BitVec.getLsbD_not, bits] <;> simp
  · cases v <;>
      simp only [h, hi, if_true, if_false, Bool.false_eq_true, BitVec.getLsbD_or, BitVec.getLsbD_and, BitVec.getLsbD_not, bits] <;>
      simp

/-! ### All the results of a cycle -/

/-- The values of some results that go to a belt, and the values that go to a register, in the order of the results. -/
def scalarsOf (ls : List Landing) : List SVal := ls.filterMap fun l => match l.res with | .sbelt v => some ⟨v, false⟩ | _ => none
def vectorsOf (ls : List Landing) : List VVal := ls.filterMap fun l => match l.res with | .vbelt v => some ⟨v, false⟩ | _ => none
def toK (i : Fin 32) (ls : List Landing) : List Word :=
  ls.filterMap fun l => match l.res with | .k j v => if j = i then some v else none | _ => none
def toW (i : Fin 16) (ls : List Landing) : List VWord :=
  ls.filterMap fun l => match l.res with | .w j v => if j = i then some v else none | _ => none
def toP (i : Fin 16) (ls : List Landing) : List Bool :=
  ls.filterMap fun l => match l.res with | .pred j v => if j = i then some v else none | _ => none

/-- The context `c` when the results `ls` of a cycle have landed in this order, but for its registers, which are those of `d`. -/
def landedFrom (c d : Ctx) (ls : List Landing) : Ctx :=
  { c with
    landed := ls, flags := ls.foldl (fun f l => f ||| l.flags) c.flags
    sb := ((scalarsOf ls).reverse ++ c.sb).take 16, vb := ((vectorsOf ls).reverse ++ c.vb).take 16
    sk := d.sk, vk := d.vk, preds := d.preds, pvoid := d.pvoid }

/-- The registers of `d` hold the last of the results `ls` that goes to each, and else what they hold in `c`. -/
structure HoldsLast (c d : Ctx) (ls : List Landing) : Prop where
  k : ∀ i : Fin 32, smGet d.sk i.val = match (toK i ls).getLast? with | some v => some ⟨v, false⟩ | none => smGet c.sk i.val
  w : ∀ i : Fin 16, smGet d.vk i.val = match (toW i ls).getLast? with | some v => some ⟨v, false⟩ | none => smGet c.vk i.val
  p : ∀ i : Fin 16, (d.preds.getLsbD i.val, d.pvoid.getLsbD i.val) =
    match (if i = 0 then none else (toP i ls).getLast?) with
      | some v => (v, false)
      | none => (c.preds.getLsbD i.val, c.pvoid.getLsbD i.val)

theorem landOver_landedFrom (c d : Ctx) (ls : List Landing) (l : Landing) :
    landOver (landedFrom c d ls) l = landedFrom c (landOver (landedFrom c d ls) l) (ls ++ [l]) := by
  obtain ⟨due, slot, seq, res, flags⟩ := l
  cases res with
  | pred i v =>
    by_cases hi : i.val = 0 <;> simp [landOver, landedFrom, setP, scalarsOf, vectorsOf, hi]
  | _ => simp [landOver, landedFrom, scalarsOf, vectorsOf, List.take_take]

theorem HoldsLast.landOver {c d : Ctx} {ls : List Landing} (h : HoldsLast c d ls) (l : Landing) :
    HoldsLast c (landOver d l) (ls ++ [l]) := by
  obtain ⟨due, slot, seq, res, flags⟩ := l
  obtain ⟨hk, hw, hp⟩ := h
  cases res with
  | k j v =>
    refine ⟨fun i => ?_, by simpa [Machine.landOver, toW] using hw, by simpa [Machine.landOver, toP] using hp⟩
    by_cases hj : j = i
    · simp [Machine.landOver, toK, hj]
    · simpa [Machine.landOver, toK, hj, smGet_smPut_ne _ _ (fun e => hj (Fin.ext e.symm))] using hk i
  | w j v =>
    refine ⟨by simpa [Machine.landOver, toK] using hk, fun i => ?_, by simpa [Machine.landOver, toP] using hp⟩
    by_cases hj : j = i
    · simp [Machine.landOver, toW, hj]
    · simpa [Machine.landOver, toW, hj, smGet_smPut_ne _ _ (fun e => hj (Fin.ext e.symm))] using hw i
  | pred j v =>
    refine ⟨by simpa [Machine.landOver, toK] using hk, by simpa [Machine.landOver, toW] using hw, fun i => ?_⟩
    by_cases hj0 : j = 0
    · have skips : i ≠ 0 → ¬ 0 = i := Ne.symm
      subst hj0
      by_cases hi : i = 0
      · simpa [Machine.landOver, hi] using hp i
      · simpa [Machine.landOver, toP, hi, skips] using hp i
    · show ((setP d j v).preds.getLsbD i.val, (setP d j v).pvoid.getLsbD i.val) = _
      rw [setP_getLsbD hj0]
      by_cases hj : j = i
      · simp [toP, hj, hj ▸ hj0]
      · simpa [toP, hj] using hp i
  | _ => exact ⟨by simpa [Machine.landOver, toK] using hk, by simpa [Machine.landOver, toW] using hw,
      by simpa [Machine.landOver, toP] using hp⟩

/-- Results in their order, nothing of their cycle landed before them. -/
theorem foldl_land {c : Ctx} (h0 : c.landed = []) (hsb : c.sb.length ≤ 16) (hvb : c.vb.length ≤ 16) (ls : List Landing)
    (hs : ls.Pairwise fun a b => landsBefore a b = true) :
    ∃ d, ls.foldl land c = landedFrom c d ls ∧ HoldsLast c d ls := by
  induction ls using List.reverseRecOn with
  | nil =>
    refine ⟨c, ?_, fun i => rfl, fun i => rfl, fun i => by simp [toP]⟩
    cases c
    simp only at h0 hsb hvb
    subst h0
    simp [landedFrom, scalarsOf, vectorsOf, List.take_of_length_le, hsb, hvb]
  | append_singleton ls l ih =>
    obtain ⟨before, -, after⟩ := List.pairwise_append.1 hs
    obtain ⟨d, hd, holds⟩ := ih before
    have last : ∀ m ∈ (landedFrom c d ls).landed, landsBefore m l = true := fun m hm => after m hm l (List.mem_singleton_self l)
    have holds' : HoldsLast c (landedFrom c d ls) ls := ⟨holds.k, holds.w, holds.p⟩
    refine ⟨landOver (landedFrom c d ls) l, ?_, holds'.landOver l⟩
    rw [List.foldl_append, hd, List.foldl_cons, List.foldl_nil, land_eq_landOver last]
    exact landOver_landedFrom c d ls l

/-- All the results of a cycle (R27 to R31). -/
theorem landAll_eq {r : Landing → Landing → Prop} [DecidableRel r] (h : ∀ a b, landsBefore a b = true ↔ r a b) {c : Ctx}
    (hsb : c.sb.length ≤ 16) (hvb : c.vb.length ≤ 16) :
    let order := (c.inflight.filter fun l => decide (l.due ≤ c.bc)).insertionSort r
    let c0 := { c with inflight := c.inflight.filter fun l => decide (c.bc < l.due), landed := [] }
    ∃ d, landAll c = landedFrom c0 d order ∧ HoldsLast c0 d order := by
  intro order c0
  have sorted : order.Pairwise fun a b => landsBefore a b = true := by
    have : Std.Total r := ⟨fun a b => by simp only [← h, landsBefore_iff]; omega⟩
    have : IsTrans Landing r := ⟨fun a b c => by simp only [← h, landsBefore_iff]; omega⟩
    simpa only [h] using List.pairwise_insertionSort r _
  rw [landAll, landSort_eq_insertionSort h]
  exact foldl_land (c := c0) rfl hsb hvb order sorted

/-- A result that waits for the bundle lands among those of its cycle (R84). -/
theorem landRets_one {c : Ctx} {q : RetPend} (h : (c.rets.filter fun q => decide (q.left = 0)) = [q]) :
    landRets c = land { c with rets := c.rets.filter fun q => decide (q.left ≠ 0) } (retLanding q) := by
  have due : (c.rets.filter fun q => q.left == 0) = [q] := h
  have rest : (fun q : RetPend => q.left != 0) = fun q => decide (q.left ≠ 0) := by
    funext q
    simp [bne, beq_eq_decide]
  rw [landRets, due, rest]
  rfl

/-- The values that operands read, and when they read a void entry (R26, R28, R34, R35). -/
theorem valP_voidP_of_ne_zero (c : Ctx) {n : Fin 16} (h : n ≠ 0) :
    valP c n = (c.preds.getLsbD n.val && !c.pvoid.getLsbD n.val) ∧ voidP c n = c.pvoid.getLsbD n.val := by
  have h0 : ¬ n.val = 0 := fun e => h (Fin.ext e)
  simp [valP, voidP, h0, Bool.and_comm]

theorem exec_resultLanding (core : Nat) (s : State) :
    exec (.resultLanding core) s = .next (setCore s core { getCore s core with ctx := landAll (getCore s core).ctx }) := rfl

/-- Landing by the destination of the result, `later` saying which results of the cycle land after it. -/
theorem land_sbelt {c : Ctx} {l : Landing} {v : Word} (h : l.res = .sbelt v) :
    land c l = { c with
      flags := c.flags ||| l.flags, landed := c.landed ++ [l]
      sb := beltIns ((c.landed.filter fun m => !landsBefore m l).countP fun m => sameBelt m.res (.sbelt v)) ⟨v, false⟩ c.sb } := by
  simp only [land, h]

theorem land_k {c : Ctx} {l : Landing} {i : Fin 32} {v : Word} (h : l.res = .k i v) :
    land c l = { c with
      flags := c.flags ||| l.flags, landed := c.landed ++ [l]
      sk := if (c.landed.filter fun m => !landsBefore m l).any fun m => sameReg m.res (.k i v) then c.sk
        else smPut c.sk i.val ⟨v, false⟩ } := by
  simp only [land, h]
  split <;> rfl

theorem land_drop {c : Ctx} {l : Landing} {vec : Bool} (h : l.res = .drop vec) :
    land c l = { c with flags := c.flags ||| l.flags, landed := c.landed ++ [l] } := by
  simp only [land, h]

/-- A result that waits for the bundle takes its place among those of its cycle (R84). -/
theorem land_retLanding (c : Ctx) (q : RetPend) :
    let later := fun (m : Landing) => q.slot < m.slot ∨ (m.slot = q.slot ∧ q.seq < m.seq)
    let base := { c with landed := c.landed ++ [⟨0, q.slot, q.seq, resS q.dst q.val, 0⟩] }
    (q.dst = .discard → land c (retLanding q) = base) ∧
    (q.dst = .belt →
      let n := (c.landed.filter fun m => decide (later m) && match m.res with | .sbelt _ => true | _ => false).length
      land c (retLanding q) = { base with sb := (c.sb.take n ++ ⟨q.val, false⟩ :: c.sb.drop n).take 16 }) ∧
    (∀ i, q.dst = .k i →
      ((∃ m ∈ c.landed, later m ∧ ∃ v, m.res = .k i v) → land c (retLanding q) = base) ∧
      ((∀ m ∈ c.landed, later m → ∀ v, m.res ≠ .k i v) →
        land c (retLanding q) = { base with sk := smPut c.sk i.val ⟨q.val, false⟩ })) := by
  intro later base
  have flags : c.flags ||| (retLanding q).flags = c.flags := BitVec.or_zero
  have isLater : ∀ m, (!landsBefore m (retLanding q)) = true ↔ later m := fun m => not_landsBefore_iff
  have sameK : ∀ (i : Fin 32) (m : Landing), sameReg m.res (.k i q.val) = true ↔ ∃ v, m.res = .k i v := by
    intro i m
    cases m.res <;> simp [sameReg]
  refine ⟨fun hd => ?_, fun hd => ?_, fun i hd => ?_⟩
  · rw [land_drop (vec := false) (by rw [retLanding, hd]; rfl), flags]
    rfl
  · intro n
    have count : (c.landed.filter fun m => !landsBefore m (retLanding q)).countP (fun m => sameBelt m.res (.sbelt q.val)) = n := by
      rw [List.countP_filter, List.countP_eq_length_filter]
      refine congrArg List.length (List.filter_congr fun m _ => ?_)
      rw [Bool.and_comm, Bool.eq_iff_iff, Bool.and_eq_true, isLater, Bool.and_eq_true, decide_eq_true_iff]
      cases m.res <;> simp [sameBelt]
    rw [land_sbelt (v := q.val) (by rw [retLanding, hd]; rfl), flags, count]
    rfl
  · have res : (retLanding q).res = .k i q.val := by rw [retLanding, hd]; rfl
    rw [land_k res, flags]
    refine ⟨fun ⟨m, hm, hl, hv⟩ => ?_, fun none => ?_⟩
    · rw [if_pos]
      · rfl
      · exact List.any_eq_true.2 ⟨m, List.mem_filter.2 ⟨hm, (isLater m).2 hl⟩, (sameK i m).2 hv⟩
    · rw [if_neg]
      · rfl
      · rintro found
        obtain ⟨m, hm, same⟩ := List.any_eq_true.1 found
        obtain ⟨hm, hl⟩ := List.mem_filter.1 hm
        obtain ⟨v, hv⟩ := (sameK i m).1 same
        exact none m hm ((isLater m).1 hl) v hv

/-- Nothing that is due. -/
theorem landAll_none {c : Ctx} (h : (c.inflight.filter fun l => decide (l.due ≤ c.bc)) = []) : landAll c = { c with landed := [] } := by
  have kept : (c.inflight.filter fun l => decide (c.bc < l.due)) = c.inflight := by
    refine List.filter_eq_self.2 fun l hl => ?_
    have := List.filter_eq_nil_iff.1 h l hl
    simpa using this
  simp only [landAll, h, kept]
  rfl

/-- Settles O53: the results of a cycle land one over the other in the order of R29 (`landAll_eq`), and one that waits for the bundle below
those that land after it (`land_retLanding`). -/
theorem landings : Obligations.Landings := by
  unfold Obligations.Landings
  refine ⟨fun c => ?_, fun c q hq => ?_, fun core s => ?_⟩
  · refine ⟨fun n => ⟨rfl, rfl⟩, fun n => ⟨rfl, rfl⟩, fun n => ⟨rfl, rfl⟩, fun n => ⟨rfl, rfl⟩, rfl, rfl, rfl, rfl, ?_,
      rfl, rfl, rfl, fun n => valP_voidP_of_ne_zero c, fun g => rfl⟩
    simp [voidS, readS]
  · rw [landRets_one hq]
    exact land_retLanding { c with rets := c.rets.filter fun q => decide (q.left ≠ 0) } q
  · intro k c now rest lands
    have here : ∀ c', landAll c = c' → lands c' := fun c' h => h ▸ exec_resultLanding core s
    refine ⟨fun l hl => here _ ?_, fun hnow => here _ (landAll_none hnow), ?_⟩
    · rw [landAll_one hl, land_eq_landOver (List.forall_mem_nil _)]
      obtain ⟨due, slot, seq, res, flags⟩ := l
      cases res with
      | pred i v =>
        by_cases hi : i.val = 0 <;> simp [landOver, setP, hi] <;> rfl
      | _ => rfl
    · intro order scalars vectors toK toW toP hsb hvb
      obtain ⟨d, hd, holds⟩ := landAll_eq (c := c) (fun a b => landsBefore_iff) hsb hvb
      exact ⟨_, here _ hd, rfl, holds.k, holds.w, holds.p⟩

end Sys2Proof.Machine
end

section
/-! Proofs of the family of spec/02: traps and system registers (O15). -/

namespace Sys2Proof.Machine

/-! ### How an instruction of a slot completes -/

/-- What noting a read does to the flags. -/
theorem readFlags_noteVoid (c : Ctx) (void : Bool) : Spec.readFlags c void (noteVoid c void).flags := by
  cases void <;> simp [Spec.readFlags, noteVoid, raise, voidFlag, fIf]

/-- A scalar result whose value does not depend on what reading notes. -/
theorem resultS_of_exec {i : Instr} {s : State} {g : Guard} {slot lat : Nat} {d : SDst} {void : Bool} {v : Word} {f : Flags}
    (h : exec i s = .next (setCtx s (issueS slot lat g d (fun _ => void) (fun _ => (v, f)) (curCtx s)))) :
    Spec.resultS g i s void slot lat d v f := by
  unfold Spec.resultS
  split
  · rename_i on
    rw [issueS_on _ _ _ _ _ on] at h
    exact ⟨_, readFlags_noteVoid .., by cases d <;> exact h⟩
  · rename_i off
    rw [issueS_off _ _ _ _ _ (by simpa using off)] at h
    exact ⟨_, readFlags_noteVoid .., by cases d <;> exact h⟩

/-- An instruction that only notes its guard. -/
theorem onlyReads_of_exec {i : Instr} {s : State} {void : Bool} (h : exec i s = .next (setCtx s (noteVoid (curCtx s) void))) :
    Spec.onlyReads i s void := ⟨_, readFlags_noteVoid .., h⟩

/-! ### `trap` and `brk` -/

theorem exec_trap_on {g : Guard} {s : State} (n : BitVec 8) (h : guardOn (curCtx s) g = true) :
    exec (.trap g n) s = .next (takeStop s.sched.cur { cause := .swtrap, smask := 1 } s) := by
  show settle s (issueTrap g n s) = _
  simp [issueTrap, h]

theorem exec_trap_off {g : Guard} {s : State} (n : BitVec 8) (h : guardOn (curCtx s) g = false) :
    exec (.trap g n) s = .next (setCtx s (noteVoid (curCtx s) (voidP (curCtx s) g.p))) := by
  show settle s (issueTrap g n s) = _
  simp [issueTrap, h]

theorem exec_brk_on {g : Guard} {s : State} (n : BitVec 8) (h : guardOn (curCtx s) g = true) :
    exec (.brk g n) s = .next (takeStop s.sched.cur { cause := .debug, smask := 1 } s) := by
  show settle s (issueBrk g n s) = _
  simp [issueBrk, h]

theorem exec_brk_off {g : Guard} {s : State} (n : BitVec 8) (h : guardOn (curCtx s) g = false) :
    exec (.brk g n) s = .next (setCtx s (noteVoid (curCtx s) (voidP (curCtx s) g.p))) := by
  show settle s (issueBrk g n s) = _
  simp [issueBrk, h]

/-! ### System registers -/

theorem exec_sget (g : Guard) (d : SDst) (r : SysReg) (s : State) :
    exec (.sget g d r) s = .next (setCtx s
      (issueS 0 1 g d (fun _ => false) (fun _ => (BitVec.ofNat 64 (sysRead s r), 0)) (curCtx s))) := rfl

theorem exec_eget (g : Guard) (d : SDst) (idx : Nat) (s : State) :
    exec (.eget g d idx) s = .next (setCtx s
      (issueS 0 1 g d (fun _ => false) (fun _ => (egetValue s s.sched.cur idx, 0)) (curCtx s))) := rfl

/-- The outcomes of `sput`, in the order of its checks (R36, R37, R95). -/
theorem exec_sput_priv {r : SysReg} {s : State} (g : Guard) (a : SOp) (hk : sysKernel r = true) (hc : (curCtx s).kern = false) :
    exec (.sput g r a) s = .next (takeStop s.sched.cur { cause := .priv, smask := 1, engine := 1 } s) := by
  show settle s (issueSput g r a s) = _
  simp [issueSput, onCore, hk, coreKern, show (cur s).ctx.kern = false from hc, privStop]

section

variable {g : Guard} {r : SysReg} {s : State} (a : SOp) (may : (sysKernel r && !(curCtx s).kern) = false)
include may

theorem exec_sput_off (off : guardOn (curCtx s) g = false) :
    exec (.sput g r a) s = .next (setCtx s (noteVoid (curCtx s) (voidP (curCtx s) g.p))) := by
  show settle s (issueSput g r a s) = _
  simp [issueSput, onCore, coreKern, show (sysKernel r && !(cur s).ctx.kern) = false from may,
    show guardOn (cur s).ctx g = false from off]
  rfl

theorem exec_sput_bad (on : guardOn (curCtx s) g = true) (bad : sysBad r (valS (curCtx s) a).toNat = true) :
    exec (.sput g r a) s = .next (takeStop s.sched.cur { cause := .badfld, smask := 1, engine := 1 } s) := by
  show settle s (issueSput g r a s) = _
  simp [issueSput, onCore, coreKern, show (sysKernel r && !(cur s).ctx.kern) = false from may,
    show guardOn (cur s).ctx g = true from on, show sysBad r (valS (cur s).ctx a).toNat = true from bad]

theorem exec_sput_on (on : guardOn (curCtx s) g = true) (good : sysBad r (valS (curCtx s) a).toNat = false) :
    exec (.sput g r a) s = .next (setCtx s
      (sysWrite r (valS (curCtx s) a) (noteVoid (curCtx s) (voidP (curCtx s) g.p || voidS (curCtx s) a)))) := by
  show settle s (issueSput g r a s) = _
  simp [issueSput, onCore, coreKern, show (sysKernel r && !(cur s).ctx.kern) = false from may,
    show guardOn (cur s).ctx g = true from on, show sysBad r (valS (cur s).ctx a).toNat = false from good]
  rfl

end

/-! ### The fields of the registers -/

theorem npcBits_eq (e : Npc) : npcBits e = e.target.toNat + 2 ^ 32 * e.annul.toNat + 2 ^ 33 * e.valid.toNat := by
  obtain ⟨t, a, v⟩ := e
  cases a <;> cases v <;> rfl

theorem npcOf_eq (v : Nat) : npcOf v = Npc.mk (BitVec.ofNat 32 v) (v / 2 ^ 32 % 2 == 1) (v / 2 ^ 33 % 2 == 1) := by
  simp only [npcOf, Nat.testBit_eq_decide_div_mod_eq, beq_eq_decide]

/-- A reserved code in a policy entry (R37). -/
theorem not_polOk_iff (e : Nat) : polOk e = false ↔ 4 < e / 4 % 8 ∨ 1 < e / 32 % 8 ∨ 2 < e / 256 % 4 := by
  rw [← Bool.not_eq_true]
  simp only [polOk, Bool.and_eq_true, decide_eq_true_eq]
  simp only [bits]
  omega

/-- A sum of terms that all have a factor. -/
theorem foldr_mul_add (k : Nat) (f : Nat → Nat) (l : List Nat) :
    l.foldr (fun i m => k * f i + m) 0 = k * l.foldr (fun i m => f i + m) 0 := by
  induction l with
  | nil => rfl
  | cons i l ih => simp only [List.foldr_cons, ih, Nat.mul_add]

/-- The defined bits of `n` policy entries (R37). -/
theorem polMask_eq (n v : Nat) :
    polMask n v = (List.range n).foldr (fun i m => v / 2 ^ (16 * i) % 2 ^ 10 * 2 ^ (16 * i) + m) 0 := by
  induction n generalizing v with
  | zero => rfl
  | succ n ih =>
    have shifted : ∀ i, v / 2 ^ (16 * (i + 1)) % 2 ^ 10 * 2 ^ (16 * (i + 1)) =
        2 ^ 16 * (v / 2 ^ 16 / 2 ^ (16 * i) % 2 ^ 10 * 2 ^ (16 * i)) := by
      intro i
      rw [show 16 * (i + 1) = 16 + 16 * i by omega, Nat.pow_add, Nat.div_div_eq_div_mul]
      ring
    have low : v % 2 ^ 16 % 2 ^ 10 % 2 ^ 16 = v % 2 ^ 10 := by omega
    have tail : polMask n (v / 2 ^ 16) = ofLanes 16 ((lanesOf 16 n (v / 2 ^ 16)).map (· % 2 ^ 10)) := rfl
    rw [List.range_succ_eq_map, List.foldr_cons, List.foldr_map]
    simp only [Nat.succ_eq_add_one, shifted]
    rw [foldr_mul_add, ← ih, tail, polMask, lanesOf, List.map_cons, ofLanes, low]
    simp

theorem sysBad_iff (r : SysReg) (v : Nat) :
    let entryBad := fun e => 4 < e / 4 % 8 ∨ 1 < e / 32 % 8 ∨ 2 < e / 256 % 4
    sysBad r v = true ↔ match r with
      | .mempol => entryBad v
      | .poltabl => ∃ i < 4, entryBad (v / 2 ^ (16 * i))
      | .poltabh => ∃ i < 3, entryBad (v / 2 ^ (16 * i))
      | .stages => 9 ≤ v % 16
      | _ => False := by
  intro entryBad
  have bad : ∀ e, polOk e = false ↔ entryBad e := not_polOk_iff
  cases r with
  | mempol => simp [sysBad, bad]
  | poltabl =>
    simp only [sysBad, Bool.not_eq_true', Bool.and_eq_false_iff, bad]
    constructor
    · rintro (((h | h) | h) | h)
      exacts [⟨0, by decide, by simpa using h⟩, ⟨1, by decide, h⟩, ⟨2, by decide, h⟩, ⟨3, by decide, h⟩]
    · rintro ⟨i, hi, h⟩
      interval_cases i <;> simp_all
  | poltabh =>
    simp only [sysBad, Bool.not_eq_true', Bool.and_eq_false_iff, bad]
    constructor
    · rintro ((h | h) | h)
      exacts [⟨0, by decide, by simpa using h⟩, ⟨1, by decide, h⟩, ⟨2, by decide, h⟩]
    · rintro ⟨i, hi, h⟩
      interval_cases i <;> simp_all
  | stages => simp [sysBad]
  | _ => simp [sysBad]

/-- What an `sput` to a register other than `FLAGS` writes, whatever reading notes (R36, R37, R95). -/
theorem sysWrite_noteVoid {r : SysReg} (hr : r ≠ .flags) (x : Word) (c : Ctx) (void : Bool) :
    sysWrite r x (noteVoid c void) = { sysWrite r x c with flags := (noteVoid c void).flags } := by
  cases r <;> first | rfl | exact absurd rfl hr

/-- What an `sput` to `FLAGS` leaves of them (R37). -/
theorem flags_sysWrite_getLsbD (x : Word) (c : Ctx) {i : Nat} (h : i < 10) :
    (sysWrite .flags x c).flags.getLsbD i = (c.flags.getLsbD i && !x.getLsbD i) := by
  simp only [sysWrite, BitVec.getLsbD_and, BitVec.getLsbD_not, BitVec.getLsbD_ofNat, h, decide_true, Bool.true_and]
  rfl

/-- Settles O15: each register as `sysRead` gives it and `sysWrite` leaves it, and the outcomes of `sput` in the order of its checks. -/
theorem trapsAndSystemRegisters : Obligations.TrapsAndSystemRegisters := by
  unfold Obligations.TrapsAndSystemRegisters
  refine ⟨fun g n s => ?_, fun g d r a s => ?_, fun g d s => ?_⟩
  · exact ⟨exec_trap_on n, exec_brk_on n, fun off => ⟨onlyReads_of_exec (exec_trap_off n off), onlyReads_of_exec (exec_brk_off n off)⟩⟩
  · intro c n rg x v npc reads entryBad bad kernel entries npcIn written
    have reads_eq : sysRead s r = reads := by
      cases r with
      | npc1 | npc2 => exact npcBits_eq _
      | regionId => simp only [sysRead, regionId, reads, Nat.mul_comm, n]
      | _ => rfl
    have kernel_iff : kernel ↔ sysKernel r = true := by
      cases r <;> simp [kernel, sysKernel]
    have bad_iff : bad ↔ sysBad r v = true := (sysBad_iff r v).symm
    have may : (kernel → c.kern = true) → (sysKernel r && !(curCtx s).kern) = false := by
      intro h
      cases hk : sysKernel r
      · rfl
      · simpa using h (kernel_iff.2 hk)
    have notKernel : bad → sysKernel r = false := by
      intro h
      cases r with
      | mempol | poltabl | poltabh | stages => rfl
      | _ => exact h.elim
    have written_eq : r ≠ .flags → sysWrite r x c = written := by
      intro hr
      have aligned : v / 2 ^ 7 * 2 ^ 7 = v - v % 128 := by omega
      cases r with
      | flags => exact absurd rfl hr
      | mempol | poltabl | poltabh => simp only [sysWrite, polMask_eq]; rfl
      | traprec => simp only [sysWrite, written, aligned, v]
      | npc1 | npc2 => simp only [sysWrite, npcOf_eq]; rfl
      | _ => rfl
    refine ⟨reads_eq ▸ resultS_of_exec (exec_sget g d r s), fun hk hc => exec_sput_priv g a (kernel_iff.1 hk) hc,
      fun hk off => onlyReads_of_exec (exec_sput_off a (may hk) off),
      fun on hb => exec_sput_bad a (by rw [notKernel hb]; rfl) on (bad_iff.1 hb), fun on hk hb hr => ?_, fun on hr hg ha => ?_⟩
    · rw [bad_iff, Bool.not_eq_true] at hb
      refine ⟨_, readFlags_noteVoid .., ?_⟩
      rw [exec_sput_on a (may hk) on hb, sysWrite_noteVoid hr, written_eq hr]
    · subst hr
      have good : sysBad .flags v = false := rfl
      refine ⟨(sysWrite .flags x c).flags, fun i hi => flags_sysWrite_getLsbD x c hi, ?_⟩
      rw [exec_sput_on a rfl on good, hg, ha, Bool.or_false, noteVoid_false]
      rfl
  · have lean : egetValue s s.sched.cur 4 = BitVec.ofNat 64 (coreRegion s s.sched.cur).leanOn.toNat := by
      simp only [egetValue]
      cases (coreRegion s s.sched.cur).leanOn <;> rfl
    exact ⟨resultS_of_exec (exec_eget g d 0 s), resultS_of_exec (exec_eget g d 1 s), resultS_of_exec (exec_eget g d 2 s),
      resultS_of_exec (exec_eget g d 3 s), lean ▸ resultS_of_exec (exec_eget g d 4 s)⟩

end Sys2Proof.Machine
end

section
/-! Proofs of the family of spec/02: bundles (O52). -/

namespace Sys2Proof.Machine

/-! ### What decodes is an instruction of a slot -/

/-- Whatever a decoder answers is an instruction of a slot. -/
def Slotted (r : Except DecErr Instr) : Prop := ∀ i, r = .ok i → (slotIssue i).isSome = true

namespace Slotted

theorem error (e : DecErr) : Slotted (.error e) := fun _ h => nomatch h

theorem ok {i : Instr} (h : (slotIssue i).isSome = true) : Slotted (.ok i) := fun _ e => Except.ok.inj e ▸ h

theorem bind {α : Type} {x : Except DecErr α} {f : α → Except DecErr Instr} (h : ∀ a, Slotted (f a)) : Slotted (x >>= f) := by
  cases x with
  | error e => exact .error e
  | ok a => exact h a

theorem ite {p : Prop} [Decidable p] {x y : Except DecErr Instr} (hx : Slotted x) (hy : Slotted y) : Slotted (if p then x else y) := by
  split
  · exact hx
  · exact hy

end Slotted

/-- What the word of a slot decodes to is an instruction of a slot: a decoder binds its fields and checks, and answers an instruction or
an error on every branch. -/
theorem decodeSlot_slotted (sparse fabric : Bool) (slot : Nat) (word : Word) : Slotted (decodeSlot sparse fabric slot word) := by
  unfold decodeSlot decodeS decodeV decodeM decodeC
  repeat' split
  all_goals
    repeat' first | refine Slotted.bind fun _ => ?_ | refine Slotted.ite ?_ ?_
  all_goals first | exact .error _ | exact .ok rfl | exact .ok (by split <;> rfl)

/-! ### Masks of slots -/

/-- A sum of powers of 2, one for each bit that is set. -/
theorem testBit_sum_twoPow : ∀ (f : Fin 6 → Bool) (n : Fin 6),
    (((List.finRange 6).map fun i => if f i then 2 ^ i.val else 0).sum).testBit n.val = f n := by decide

theorem slotMask_eq_maskOf (l : List Nat) : slotMask l = Spec.maskOf l := by
  simp only [slotMask, Spec.maskOf, List.sum_eq_foldl, List.foldl_map, List.contains_iff_mem]
  congr 1
  funext m i
  split <;> rfl

theorem slotMask_eq_sum (l : List Nat) :
    slotMask l = ((List.finRange 6).map fun i => if l.contains i.val then 2 ^ i.val else 0).sum := by
  rw [slotMask_eq_maskOf]
  simp [Spec.maskOf, List.finRange, List.range_succ]

theorem slotMask_testBit (l : List Nat) {n : Nat} (h : n < 6) : (slotMask l).testBit n = true ↔ n ∈ l := by
  rw [slotMask_eq_sum, testBit_sum_twoPow (fun i => l.contains i.val) ⟨n, h⟩, List.contains_iff_mem]

theorem slotMask_lt (l : List Nat) : slotMask l < 64 := by
  have bound : ∀ f : Fin 6 → Bool, ((List.finRange 6).map fun i => if f i then 2 ^ i.val else 0).sum < 64 := by decide
  rw [slotMask_eq_sum]
  exact bound fun i => l.contains i.val

/-! ### Stops of a bundle -/

theorem stopBundle_of_not_ownData {e : Stop} (h : ownData e = false) (s : State) : stopBundle e s = takeStop s.sched.cur e s := by
  simp [stopBundle, stopFor, h]

theorem stopBundle_of_cause {e : Stop} (h : e.cause ≠ .dataerr) (s : State) : stopBundle e s = takeStop s.sched.cur e s :=
  stopBundle_of_not_ownData (by simp [ownData, h]) s

/-- A failing word of the core's own data may make its block run again (R295). -/
theorem stopBundle_dataerr {e : Stop} (h : e.cause = .dataerr) (he : e.engine = 0 ∨ e.engine = 2 ∨ e.engine = 3) (s : State) :
    stopBundle e s = dataErrRetry s.sched.cur (takeStop s.sched.cur e s) := by
  have own : ownData e = true := by simpa [ownData, h, or_assoc] using he
  simp [stopBundle, stopFor, own]

/-! ### Decoding -/

theorem failing_decodeSlots (e : DecErr) (s : State) (ws : List (Nat × Word)) :
    failing e (decodeSlots s ws) = Spec.failingSlots s e ws := by
  simp only [failing, decodeSlots, Spec.failingSlots, List.filter_map, List.map_map]
  congr 1
  refine List.filter_congr fun x _ => ?_
  simp only [Function.comp_apply]
  cases decodeSlot (feature s 0) (feature s 2) x.1 x.2 <;> simp [beq_eq_decide]

section

variable {s : State} {ws : List (Nat × Word)} {b : List InSlot}
  (h : ws.map (fun x => (x.1, decodeSlot (feature s 0) (feature s 2) x.1 x.2)) = b.map fun x => (x.slot, .ok x.i))
include h

theorem decodeStop_of_decodes : decodeStop (decodeSlots s ws) = none := by
  have none_ : ∀ e, failing e (decodeSlots s ws) = [] := by
    intro e
    rw [decodeSlots, h]
    simp [failing]
  simp [decodeStop, none_]

theorem decoded_of_decodes : decoded (decodeSlots s ws) = b := by
  rw [decodeSlots, h]
  simp [decoded, List.filterMap_map]

/-- What decodes has a meaning in its slot. -/
theorem exec_of_runSlot {x : InSlot} (hx : x ∈ b) {t u : State} (ran : runSlot x t = .ok u) : exec x.i (atSlot x.slot t) = .next u := by
  have hm : (x.slot, Except.ok x.i) ∈ b.map fun x => (x.slot, (Except.ok x.i : Except DecErr Instr)) := List.mem_map_of_mem hx
  rw [← h] at hm
  obtain ⟨w, -, hw⟩ := List.mem_map.1 hm
  have some_ : (slotIssue x.i).isSome = true := decodeSlot_slotted _ _ _ _ _ (congrArg (·.2) hw)
  obtain ⟨f, hf⟩ := Option.isSome_iff_exists.1 some_
  rw [exec_eq_settle hf]
  simp only [runSlot, hf] at ran
  rw [ran]
  rfl

end

/-! ### The checks of a decoded bundle -/

theorem mem_map_slot_filter {b : List InSlot} (p : InSlot → Bool) {n : Nat} :
    n ∈ (b.filter p).map (·.slot) ↔ ∃ x ∈ b, x.slot = n ∧ p x = true := by
  simp only [List.mem_map, List.mem_filter, and_assoc, and_comm, and_left_comm]

theorem otherSlot {x y : InSlot} : (x.slot != y.slot) = true ↔ y.slot ≠ x.slot := bne_iff_ne.trans ne_comm

/-- A use that a handler may not make (R235). -/
theorem mem_barred {k : Core} {b : List InSlot} {n : Nat} : n ∈ barred k b ↔ ∃ x ∈ b, x.slot = n ∧
    (k.svc.isSome = true ∧ (handlerBars x.i = true ∨ (1 ≤ x.slot ∧ x.slot ≤ 3))) := by
  unfold barred
  split
  · rename_i svc
    rw [mem_map_slot_filter]
    simp [svc]
  · rename_i svc
    simp [svc]

/-- A keep destination of two slots, or a port beyond its capacity (R30, R54). -/
theorem mem_clashing {b : List InSlot} {n : Nat} : n ∈ clashing b ↔ ∃ x ∈ b, x.slot = n ∧
    ∃ y ∈ b, y.slot ≠ x.slot ∧ ∃ r, isKeep r = true ∧ r ∈ writesReg x.i ∧ r ∈ writesReg y.i := by
  rw [clashing, mem_map_slot_filter]
  simp only [List.any_eq_true, Bool.and_eq_true, otherSlot, List.contains_iff_mem, and_left_comm]

theorem portCap_eq (p : Port) : portCap p = if p = .vector then 2 else 1 := by cases p <;> rfl

theorem mem_oversubscribed {b : List InSlot} {n : Nat} : n ∈ oversubscribed b ↔ ∃ x ∈ b, x.slot = n ∧
    ∃ p, portOf x.i = some p ∧ (if p = .vector then 2 else 1) < (b.filter fun y => decide (portOf y.i = some p)).length := by
  have every : ∀ p : Port, p ∈ [Port.vector, .scalar, .operand, .permute] := by intro p; cases p <;> decide
  simp only [oversubscribed, List.mem_flatMap, List.length_map, beq_eq_decide, every, true_and, ← portCap_eq]
  constructor
  · rintro ⟨p, hn⟩
    split at hn
    · rename_i full
      obtain ⟨x, hx, hs, hp⟩ := (mem_map_slot_filter _).1 hn
      exact ⟨x, hx, hs, p, by simpa using hp, full⟩
    · cases hn
  · rintro ⟨x, hx, hs, p, hp, full⟩
    refine ⟨p, ?_⟩
    rw [if_pos full, mem_map_slot_filter]
    exact ⟨x, hx, hs, by simpa using hp⟩

/-- A read of a register that another instruction of the group names (R47). -/
theorem mem_dependent {c : Ctx} {b : List InSlot} {n : Nat} : n ∈ dependent c b ↔ ∃ x ∈ b, x.slot = n ∧
    ∃ r ∈ readsReg (onNow c x.i) x.i, inGroup c r = true ∨ ∃ y ∈ b, y.slot ≠ x.slot ∧ r ∈ writesReg y.i := by
  rw [dependent, mem_map_slot_filter]
  simp only [List.any_eq_true, Bool.or_eq_true, Bool.and_eq_true, otherSlot, List.contains_iff_mem]

/-- A use without its privilege (R55). -/
theorem mem_unprivileged {k : Core} {b : List InSlot} {n : Nat} : n ∈ unprivileged k b ↔ ∃ x ∈ b, x.slot = n ∧
    ((needsKernel x.i = true ∧ coreKern k = false) ∨ (needsConductor x.i = true ∧ coreConductor k = false)) := by
  rw [unprivileged, mem_map_slot_filter]
  simp only [Bool.or_eq_true, Bool.and_eq_true, Bool.not_eq_true']

theorem trapStop_none {s : State} {b : List InSlot} (h : ∀ x ∈ b, ∃ t, runSlot x s = .ok t) : trapStop s b = none := by
  induction b with
  | nil => rfl
  | cons x b ih =>
    obtain ⟨t, ht⟩ := h x List.mem_cons_self
    simp only [trapStop, ht, ih fun y hy => h y (List.mem_cons_of_mem _ hy)]

/-- The first trap by slot (R55). -/
theorem trapStop_first {s : State} {before after : List InSlot} {x : InSlot} {e : Stop}
    (h : ∀ y ∈ before, ∃ t, runSlot y s = .ok t) (he : runSlot x s = .error e) : trapStop s (before ++ x :: after) = some e := by
  induction before with
  | nil => simp only [List.nil_append, trapStop, he]
  | cons y before ih =>
    obtain ⟨t, ht⟩ := h y List.mem_cons_self
    simp only [List.cons_append, trapStop, ht, ih fun z hz => h z (List.mem_cons_of_mem _ hz)]

/-! ### The commit of a bundle -/

/-- A state in which the slots `m` of the operand memories of a core are claimed. -/
def withClaimed (n : Nat) (m : BitVec 24) (s : State) : State :=
  setCore s n { getCore s n with mx := { (getCore s n).mx with claimed := m } }

/-- A slot of a bundle that no check stops: a copy slot sees the slots that were claimed before the bundle (R195). -/
theorem commitSlot_of_runSlot {claimed : BitVec 24} {x : InSlot} {s u : State}
    (ran : runSlot x (if 4 ≤ x.slot then withClaimed s.sched.cur claimed s else s) = .ok u) :
    commitSlot claimed s x = if 4 ≤ x.slot then withClaimed s.sched.cur (cur s).mx.claimed u else u := by
  show (match runSlot x (if 4 ≤ x.slot then withClaimed s.sched.cur claimed s else s) with
    | .ok t => if 4 ≤ x.slot then withClaimed s.sched.cur (cur s).mx.claimed t else t
    | .error _ => s) = _
  rw [ran]

/-- Instructions that issue one after the other are committed in turn. -/
theorem foldl_commitSlot_of_runs {claimed : BitVec 24} {l : List InSlot} {s t : State} (h : Spec.runs claimed l s t) :
    l.foldl (commitSlot claimed) s = t := by
  induction l generalizing s with
  | nil => exact h.symm
  | cons x l ih =>
    obtain ⟨u, ran, rest⟩ := h
    rw [List.foldl_cons, commitSlot_of_runSlot ran]
    exact ih rest

theorem commitAll_eq (s : State) (b : List InSlot) :
    commitAll s b = ((List.range 5).flatMap fun n => b.filter fun x => rankOf x.i == n).foldl (commitSlot (cur s).mx.claimed) s := by
  rw [List.foldl_flatMap]
  rfl

theorem foldl_recorded (b : List InSlot) (c : Ctx) :
    (b.flatMap fun x => writesReg x.i).foldl addGroup c = b.foldl (fun c x => Spec.recorded x.i c) c := by
  rw [List.foldl_flatMap]
  rfl

theorem endGroup_eq (stops : Bool) (c : Ctx) : endGroup stops c = { c with
    grpK := if stops then 0 else c.grpK, grpW := if stops then 0 else c.grpW, grpP := if stops then 0 else c.grpP } := by
  cases stops <;> rfl

/-- `DEADLINE` after a bundle (R77, R237), and a value that an `sput` gives it (R95). -/
theorem countDeadline_eq (yields : Bool) (k : Core) : countDeadline yields k = { k with
    deadline := match k.ctx.dlPut with
      | some v => v
      | none => if yields then k.dlreload else if k.svc.isSome then k.deadline
          else if k.dlen = true ∧ k.deadline ≠ 0 then k.deadline - 1 else k.deadline
    dlSet := k.dlSet || k.ctx.dlPut.isSome
    dlHold := k.dlHold || k.ctx.dlPut.isSome
    ctx := { k.ctx with dlPut := none } } := by
  unfold countDeadline
  cases h : k.ctx.dlPut with
  | some v => simp
  | none =>
    have ctx : { k.ctx with dlPut := none } = k.ctx := by rw [← h]
    simp only [ctx, Option.isSome_none, Bool.or_false]
    repeat' split
    all_goals rfl

/-- The end of a bundle's issue cycle (R77). -/
theorem endIssue_eq (tpl : Unit16) (len : Nat) (s : State) :
    endIssue tpl len s = setCur s (Spec.advance (tpl.getLsbD 6) (tpl.getLsbD 7) len (cur s)) := by
  unfold endIssue
  dsimp only
  rw [countDeadline_eq, endGroup_eq]
  rfl

/-- What lands changes no privilege. -/
theorem land_kern (c : Ctx) (l : Landing) : (land c l).kern = c.kern := by
  have set : ∀ p v, (setP c p v).kern = c.kern := by
    intro p v
    unfold setP
    split <;> rfl
  unfold land
  cases l.res with
  | k => dsimp only; split <;> rfl
  | w => dsimp only; split <;> rfl
  | pred i v => dsimp only; split <;> first | rfl | exact set i v
  | _ => rfl

theorem landRets_kern (c : Ctx) : (landRets c).kern = c.kern := by
  have fold : ∀ (ls : List Landing) (c : Ctx), (ls.foldl land c).kern = c.kern := by
    intro ls
    induction ls with
    | nil => exact fun c => rfl
    | cons l ls ih => exact fun c => (ih _).trans (land_kern c l)
  exact fold _ _

theorem presCount_eq (tpl : Unit16) : presCount tpl = ((List.range 6).filter fun n => tpl.toNat.testBit n).length := by
  simp [presCount, presBits, List.filter_map]

/-! ### A bundle by its checks -/

theorem issueBundle_of_decodeStop {tpl : Unit16} {ws : List (Nat × Word)} {len : Nat} {s : State} {e : Stop}
    (h : decodeStop (decodeSlots s ws) = some e) : issueBundle tpl ws len s = stopBundle e s := by
  simp only [issueBundle, h]

section

variable {tpl : Unit16} {ws : List (Nat × Word)} {len : Nat} {s : State} {b : List InSlot}
  (h : ws.map (fun x => (x.1, decodeSlot (feature s 0) (feature s 2) x.1 x.2)) = b.map fun x => (x.slot, .ok x.i))
include h

theorem issueBundle_of_bundleStop {e : Stop} (stops : bundleStop (withRets s) b = some e) :
    issueBundle tpl ws len s = stopBundle e s := by
  simp only [issueBundle, decodeStop_of_decodes h, decoded_of_decodes h, stops]

theorem issueBundle_of_clear (clear : bundleStop (withRets s) b = none) :
    issueBundle tpl ws len s =
      let u := commitAll (withRets s) b
      setCur u (Spec.advance (tpl.getLsbD 6) (tpl.getLsbD 7) len
        { cur u with ctx := b.foldl (fun c x => Spec.recorded x.i c) (curCtx u) }) := by
  simp only [issueBundle, decodeStop_of_decodes h, decoded_of_decodes h, clear, endIssue_eq, foldl_recorded, setCur_setCtx,
    cur_setCtx]

end

/-! ### The checks in their order -/

/-- Slots of a bundle that are listed for what their instructions have. -/
def Lists (b : List InSlot) (p : InSlot → Prop) (l : List Nat) : Prop := ∀ n, n ∈ l ↔ ∃ x ∈ b, x.slot = n ∧ p x

theorem Lists.ne_nil {b : List InSlot} {p : InSlot → Prop} {l : List Nat} (h : Lists b p l) (hp : ∃ x ∈ b, p x) : l ≠ [] := by
  obtain ⟨x, hx, hp⟩ := hp
  exact List.ne_nil_of_mem ((h x.slot).2 ⟨x, hx, rfl, hp⟩)

theorem Lists.eq_nil {b : List InSlot} {p : InSlot → Prop} {l : List Nat} (h : Lists b p l) (hp : ∀ x ∈ b, ¬p x) : l = [] := by
  refine List.eq_nil_iff_forall_not_mem.2 fun n hn => ?_
  obtain ⟨x, hx, -, px⟩ := (h n).1 hn
  exact hp x hx px

theorem Lists.append {b : List InSlot} {p q : InSlot → Prop} {l m : List Nat} (hp : Lists b p l) (hq : Lists b q m) :
    Lists b (fun x => p x ∨ q x) (l ++ m) := by
  intro n
  rw [List.mem_append, hp n, hq n]
  simp only [and_or_left, exists_or]

/-- The stop of a check that lists slots (R225). -/
theorem Lists.takes {b : List InSlot} {p : InSlot → Prop} {l : List Nat} (h : Lists b p l) {cause : Cause} {engine : Nat}
    (hc : cause ≠ .dataerr) {s : State} {done : Out}
    (stopped : done = .next (stopBundle { cause := cause, smask := slotMask l, engine := engine } s)) :
    ∃ m < 64, (∀ n < 6, m.testBit n = true ↔ ∃ x ∈ b, x.slot = n ∧ p x) ∧
      done = .next (takeStop s.sched.cur { cause := cause, smask := m, engine := engine } s) :=
  ⟨slotMask l, slotMask_lt l, fun n hn => (slotMask_testBit l hn).trans (h n), by rw [stopped, stopBundle_of_cause hc]⟩

/-- A check that fails is the first of the list (R55). -/
theorem bundleStop_of_legalStop {s : State} {b : List InSlot} {e : Stop} (h : legalStop (cur s) b = some e) :
    bundleStop s b = some e := by
  simp only [bundleStop, h]

/-- The vector instructions of a bundle (R173). -/
def isVec (x : InSlot) : Prop := ((namesOf x.i).bind (·.dv)).isSome = true ∧ x.i ≠ .nop

/-- Their slots. -/
def vecSlots (b : List InSlot) : List Nat :=
  (b.filter fun x => ((namesOf x.i).bind (·.dv)).isSome && x.i != .nop).map (·.slot)

theorem lists_vecSlots (b : List InSlot) : Lists b isVec (vecSlots b) := by
  intro n
  rw [vecSlots, mem_map_slot_filter]
  simp only [Bool.and_eq_true, bne_iff_ne, isVec]

/-- More vector results than the latch bank holds (R173). -/
def isFull (s : State) (b : List InSlot) : Prop :=
  16 < ((curCtx s).inflight.filter fun l => isVecRes l.res && decide ((curCtx s).bc + 2 ≤ l.due)).length + addedVecs s b ∧
    ∃ x ∈ b, isVec x

theorem lateVecs_eq (c : Ctx) (l : List Landing) :
    lateVecs c l = (l.filter fun l => isVecRes l.res && decide (c.bc + 2 ≤ l.due)).length := List.countP_eq_length_filter

theorem inflightStop_full {s : State} {b : List InSlot} (h : isFull s b) :
    inflightStop s b = some { cause := .inflight, smask := slotMask (vecSlots b) } := by
  obtain ⟨many, vec⟩ := h
  exact if_pos ⟨(lists_vecSlots b).ne_nil vec, by rwa [lateVecs_eq]⟩

theorem inflightStop_none {s : State} {b : List InSlot} (h : ¬isFull s b) : inflightStop s b = none := by
  refine if_neg fun ⟨vec, many⟩ => h ⟨by rwa [lateVecs_eq] at many, ?_⟩
  by_contra none_
  exact vec ((lists_vecSlots b).eq_nil fun x hx hv => none_ ⟨x, hx, hv⟩)

/-! ### One instruction alone -/

theorem rankOf_lt (i : Instr) : rankOf i < 5 := by
  unfold rankOf
  split <;> decide

theorem commitAll_singleton (s : State) (x : InSlot) : commitAll s [x] = commitSlot (cur s).mx.claimed s x := by
  have once : ((List.range 5).flatMap fun n => [x].filter fun y => rankOf y.i == n) = [x] := by
    have rank := rankOf_lt x.i
    interval_cases h : rankOf x.i <;> simp [List.range_succ, h]
  rw [commitAll_eq, once]
  rfl

/-- The slots that are claimed, claimed again. -/
theorem withClaimed_setCtx (s : State) (c : Ctx) :
    withClaimed (setCtx s c).sched.cur (cur (setCtx s c)).mx.claimed (setCtx s c) = setCtx s c := by
  show setCore (setCtx s c) s.sched.cur (cur (setCtx s c)) = setCtx s c
  rw [cur_setCtx]
  exact setCore_setCore ..

theorem commitAll_of_runSlot {s t : State} {c : Ctx} {x : InSlot} (ran : runSlot x (setCtx s c) = .ok t) :
    commitAll (setCtx s c) [x] = if x.slot < 4 then t else withClaimed s.sched.cur (cur s).mx.claimed t := by
  have same : (if 4 ≤ x.slot then withClaimed (setCtx s c).sched.cur (cur (setCtx s c)).mx.claimed (setCtx s c) else setCtx s c) =
      setCtx s c := by
    rw [withClaimed_setCtx, ite_self]
  rw [commitAll_singleton, commitSlot_of_runSlot (same.symm ▸ ran), cur_setCtx, setCtx_sched]
  by_cases h : 4 ≤ x.slot
  · rw [if_pos h, if_neg (not_lt.2 h)]
  · rw [if_neg h, if_pos (not_le.1 h)]

/-! ### What a bundle does -/

/-- A bundle does what R55 says, its checks in their order and then its instructions. -/
theorem bundleDoes_issueBundle (tpl : Unit16) (ws : List (Nat × Word)) (len : Nat) (s : State) :
    Spec.bundleDoes tpl ws len s (.next (issueBundle tpl ws len s)) := by
  unfold Spec.bundleDoes
  intro stop k s0 c
  have decodeFails : ∀ cause e, cause ≠ .dataerr → decodeStop (decodeSlots s ws) = some (decStop cause (failing e (decodeSlots s ws))) →
      (.next (issueBundle tpl ws len s) : Out) = .next (stop cause e) := by
    intro cause e hc h
    rw [issueBundle_of_decodeStop h, stopBundle_of_cause hc, decStop, failing_decodeSlots, slotMask_eq_maskOf]
  refine ⟨fun h => ?_, fun h1 h2 => ?_, fun h1 h2 h3 => ?_, fun b hb => ?_⟩
  · rw [← failing_decodeSlots] at h
    exact decodeFails _ _ (by decide) (if_pos h)
  · rw [← failing_decodeSlots] at h1 h2
    exact decodeFails _ _ (by decide) (by rw [decodeStop, if_neg (not_not.2 h1), if_pos h2])
  · rw [← failing_decodeSlots] at h1 h2 h3
    exact decodeFails _ _ (by decide) (by rw [decodeStop, if_neg (not_not.2 h1), if_neg (not_not.2 h2), if_pos h3])
  · intro takes none_ bars clash depends lacks fine vec full goes ends
    have svc : (cur s0).svc = k.svc := by rw [cur_setCtx]
    have kern : coreKern (cur s0) = coreKern k := by
      rw [cur_setCtx]
      exact landRets_kern _
    have conductor : coreConductor (cur s0) = coreConductor k := by rw [cur_setCtx]; rfl
    have barsL : Lists b bars (barred (cur s0) b) := fun n => mem_barred.trans (by rw [svc])
    have clashL : Lists b clash (clashing b ++ oversubscribed b) := Lists.append (fun n => mem_clashing) fun n => mem_oversubscribed
    have dependsL : Lists b depends (dependent (cur s0).ctx b) := fun n => mem_dependent
    have lacksL : Lists b lacks (unprivileged (cur s0) b) := fun n => mem_unprivileged.trans (by rw [kern, conductor])
    have stopped : ∀ {e}, bundleStop s0 b = some e → (.next (issueBundle tpl ws len s) : Out) = .next (stopBundle e s) :=
      fun h => by rw [issueBundle_of_bundleStop hb h]
    have legal : fine → legalStop (cur s0) b = none := by
      rintro ⟨h1, h2, h3, h4⟩
      simp [legalStop, barsL.eq_nil h1, clashL.eq_nil h2, dependsL.eq_nil h3, lacksL.eq_nil h4]
    have done : goes → (.next (issueBundle tpl ws len s) : Out) = ends (commitAll s0 b) := by
      rintro ⟨hf, ok, room⟩
      have clear : bundleStop s0 b = none := by
        simp only [bundleStop, legal hf, trapStop_none ok]
        exact inflightStop_none room
      rw [issueBundle_of_clear hb clear]
      rfl
    refine ⟨fun x hx t u => exec_of_runSlot hb hx, fun h => ?_, fun h1 h => ?_, fun h1 h2 h => ?_, fun h1 h2 h3 h => ?_,
      fun hf before x after e parts ok err => ?_, fun hf ok hfull => ?_, fun hgo u run => ?_, fun hgo x hx => ?_, fun hx => ?_⟩
    · exact barsL.takes (by decide) (stopped (bundleStop_of_legalStop (if_pos (barsL.ne_nil h))))
    · refine clashL.takes (by decide) (stopped (bundleStop_of_legalStop ?_))
      rw [legalStop, if_neg (not_not.2 (barsL.eq_nil h1)), if_pos (clashL.ne_nil h)]
      rfl
    · refine dependsL.takes (by decide) (stopped (bundleStop_of_legalStop ?_))
      rw [legalStop, if_neg (not_not.2 (barsL.eq_nil h1)), if_neg (not_not.2 (clashL.eq_nil h2)), if_pos (dependsL.ne_nil h)]
      rfl
    · refine lacksL.takes (by decide) (stopped (bundleStop_of_legalStop ?_))
      rw [legalStop, if_neg (not_not.2 (barsL.eq_nil h1)), if_neg (not_not.2 (clashL.eq_nil h2)),
        if_neg (not_not.2 (dependsL.eq_nil h3)), if_pos (lacksL.ne_nil h)]
      rfl
    · have first : bundleStop s0 b = some e := by
        have trap : trapStop s0 b = some e := parts ▸ trapStop_first ok err
        simp only [bundleStop, legal hf, trap]
      exact ⟨fun hc => by rw [stopped first, stopBundle_of_cause hc], fun hc he => by rw [stopped first, stopBundle_dataerr hc he]⟩
    · refine (lists_vecSlots b).takes (by decide) (stopped ?_)
      simp only [bundleStop, legal hf, trapStop_none ok]
      exact inflightStop_full hfull
    · have claimed : (cur s0).mx.claimed = k.mx.claimed := by rw [cur_setCtx]
      rw [done hgo, commitAll_eq, claimed, foldl_commitSlot_of_runs run]
    · subst hx
      obtain ⟨-, ok, -⟩ := id hgo
      obtain ⟨t, ran⟩ := ok x (List.mem_singleton_self x)
      refine ⟨t, exec_of_runSlot hb (List.mem_singleton_self x) ran, ?_⟩
      rw [done hgo, commitAll_of_runSlot ran]
      rfl
    · subst hx
      exact done ⟨⟨List.forall_mem_nil _, List.forall_mem_nil _, List.forall_mem_nil _, List.forall_mem_nil _⟩, List.forall_mem_nil _,
        fun ⟨_, x, hx, _⟩ => List.not_mem_nil hx⟩

/-! ### Templates and dictionary entries -/

theorem sramBad_iff (k : Core) (m : Sram) (lo n : Nat) : sramBad k m lo n = true ↔ Spec.rotten k m lo n := by
  simp only [sramBad, Spec.rotten, List.any_eq_true, Bool.and_eq_true, beq_iff_eq, decide_eq_true_eq, Nat.mul_comm 8]
  constructor
  · rintro ⟨⟨m', w⟩, hw, rfl, h⟩
    exact ⟨w, hw, h⟩
  · rintro ⟨w, hw, h⟩
    exact ⟨(m, w), hw, rfl, h⟩

theorem tplOk_iff (tpl : Unit16) : tplOk tpl = true ↔ tpl.toNat / 2 ^ 12 = 0xA ∧ tpl.toNat / 2 ^ 9 % 8 = 0 := by
  rw [tplOk, Bool.and_eq_true, decide_eq_true_eq, decide_eq_true_eq]

theorem tplStopOf_none {tpl : Unit16} {escaped : Bool} (h : tplOk tpl = true) (he : escaped = true → tpl.toNat % 64 ≠ 0) :
    tplStopOf tpl escaped = none := by
  refine if_neg ?_
  simpa [h] using he

theorem tplStopOf_some {tpl : Unit16} {escaped : Bool} (h : ¬tplOk tpl = true ∨ (escaped = true ∧ tpl.toNat % 64 = 0)) :
    tplStopOf tpl escaped = some (decStop .badtpl []) := by
  refine if_pos ?_
  simpa using h

/-- A word of a dictionary entry that cannot be corrected (R307). -/
theorem dictBad_iff (k : Core) (idx : Nat) (words : Bool) : dictBad k idx words = true ↔
    Spec.rotten k .dict (50 * idx) 2 ∨ (words = true ∧
      ∃ n < 6, (dictTpl k idx).toNat.testBit n = true ∧ Spec.rotten k .dict (50 * idx + 2 + 8 * n) 8) := by
  simp only [dictBad, Bool.or_eq_true, Bool.and_eq_true, List.any_eq_true, List.mem_range, sramBad_iff]

/-! ### The rows of bundles -/

/-- The stops of R43 and R235, which name no slot. -/
theorem stopBundle_decStop_nil {cause : Cause} (h : cause ≠ .dataerr) (s : State) :
    stopBundle (decStop cause []) s = takeStop s.sched.cur { cause := cause, smask := 0, engine := 1 } s :=
  stopBundle_of_cause h s

section Literal

variable {tpl : Unit16} {s : State}

theorem exec_literal_badtpl (h : tplStopOf tpl true = some (decStop .badtpl [])) (words : List Word) :
    exec (.issueLiteralBundle tpl words) s = .next (takeStop s.sched.cur { cause := .badtpl, smask := 0, engine := 1 } s) ∧
    exec (.annulledBundle (.literal tpl)) s = .next (takeStop s.sched.cur { cause := .badtpl, smask := 0, engine := 1 } s) := by
  show execIssueLiteralBundle tpl words s = _ ∧ execAnnulledBundle (.literal tpl) s = _
  simp only [execIssueLiteralBundle, execAnnulledBundle, h, stopBundle_decStop_nil (cause := .badtpl) (by decide), and_self]

theorem exec_literal (h : tplStopOf tpl true = none) (words : List Word) :
    exec (.issueLiteralBundle tpl words) s = .next (issueBundle tpl (slotWords tpl words) (2 + 4 * presCount tpl) s) := by
  show execIssueLiteralBundle tpl words s = _
  simp only [execIssueLiteralBundle, h]

theorem exec_literal_annulled (h : tplStopOf tpl true = none) :
    exec (.annulledBundle (.literal tpl)) s = .next (endIssue tpl (2 + 4 * presCount tpl) (withRets s)) := by
  show execAnnulledBundle (.literal tpl) s = _
  simp only [execAnnulledBundle, h]

end Literal

section Dictionary

variable {idx : Nat} {s : State}

theorem exec_dict_handler (h : (cur s).svc ≠ none) :
    exec (.issueDictionaryBundle idx) s = .next (takeStop s.sched.cur { cause := .invcu, smask := 0, engine := 1 } s) ∧
    exec (.annulledBundle (.dict idx)) s = .next (takeStop s.sched.cur { cause := .invcu, smask := 0, engine := 1 } s) := by
  have svc : (cur s).svc.isSome = true := Option.isSome_iff_ne_none.2 h
  show execIssueDictionaryBundle idx s = _ ∧ execAnnulledBundle (.dict idx) s = _
  simp only [execIssueDictionaryBundle, execAnnulledBundle, svc, if_true, stopBundle_decStop_nil (cause := .invcu) (by decide), and_self]

variable (h : (cur s).svc = none)
include h

/-- A word of the entry that cannot be corrected; an annulled bundle reads the template alone (R307). -/
theorem exec_dict_dataerr (bad : dictBad (cur s) idx true = true) :
    exec (.issueDictionaryBundle idx) s =
      .next (takeStop s.sched.cur { cause := .dataerr, smask := 0, engine := 1, reason := 13 } s) := by
  show execIssueDictionaryBundle idx s = _
  simp only [execIssueDictionaryBundle, h, bad, Option.isSome_none, Bool.false_eq_true, if_false, if_true]
  exact congrArg _ (stopBundle_of_not_ownData rfl s)

theorem exec_dict_annulled_dataerr (bad : dictBad (cur s) idx false = true) :
    exec (.annulledBundle (.dict idx)) s =
      .next (takeStop s.sched.cur { cause := .dataerr, smask := 0, engine := 1, reason := 13 } s) := by
  show execAnnulledBundle (.dict idx) s = _
  simp only [execAnnulledBundle, h, bad, Option.isSome_none, Bool.false_eq_true, if_false, if_true]
  exact congrArg _ (stopBundle_of_not_ownData rfl s)

theorem exec_dict_badtpl (good : dictBad (cur s) idx true = false)
    (stops : tplStopOf (dictTpl (cur s) idx) false = some (decStop .badtpl [])) :
    exec (.issueDictionaryBundle idx) s = .next (takeStop s.sched.cur { cause := .badtpl, smask := 0, engine := 1 } s) := by
  show execIssueDictionaryBundle idx s = _
  simp only [execIssueDictionaryBundle, h, good, stops, Option.isSome_none, Bool.false_eq_true, if_false,
    stopBundle_decStop_nil (cause := .badtpl) (by decide)]

theorem exec_dict_annulled_badtpl (good : dictBad (cur s) idx false = false)
    (stops : tplStopOf (dictTpl (cur s) idx) false = some (decStop .badtpl [])) :
    exec (.annulledBundle (.dict idx)) s = .next (takeStop s.sched.cur { cause := .badtpl, smask := 0, engine := 1 } s) := by
  show execAnnulledBundle (.dict idx) s = _
  simp only [execAnnulledBundle, h, good, stops, Option.isSome_none, Bool.false_eq_true, if_false,
    stopBundle_decStop_nil (cause := .badtpl) (by decide)]

theorem exec_dict (good : dictBad (cur s) idx true = false) (passes : tplStopOf (dictTpl (cur s) idx) false = none) :
    exec (.issueDictionaryBundle idx) s = .next (issueBundle (dictTpl (cur s) idx) (dictWords (cur s) idx) 1 s) := by
  show execIssueDictionaryBundle idx s = _
  simp only [execIssueDictionaryBundle, h, good, passes, Option.isSome_none, Bool.false_eq_true, if_false]

theorem exec_dict_annulled (good : dictBad (cur s) idx false = false) (passes : tplStopOf (dictTpl (cur s) idx) false = none) :
    exec (.annulledBundle (.dict idx)) s = .next (endIssue (dictTpl (cur s) idx) 1 (withRets s)) := by
  show execAnnulledBundle (.dict idx) s = _
  simp only [execAnnulledBundle, h, good, passes, Option.isSome_none, Bool.false_eq_true, if_false]

end Dictionary

/-- The empty bundle passes every check and only ends its cycle (R44). -/
theorem exec_emptyBundle (s : State) :
    exec .emptyBundle s = .next (setCur (withRets s) (Spec.advance false false 1 (cur (withRets s)))) := by
  have does := bundleDoes_issueBundle 0 [] 1 s
  unfold Spec.bundleDoes at does
  obtain ⟨-, -, -, decodes⟩ := does
  obtain ⟨-, -, -, -, -, -, -, -, -, ends⟩ := decodes [] rfl
  exact ends rfl

/-- Settles O52: each row of a bundle by its template (the `exec_literal` and `exec_dict` lemmas), and what issues by its checks and its
commit (`bundleDoes_issueBundle`). -/
theorem bundles : Obligations.Bundles := by
  unfold Obligations.Bundles
  intro s k bad invcu legal entryTpl entryWord count badTpl badWord dataerr s0 ends
  have legal_iff : ∀ tpl, tplOk tpl = true ↔ legal tpl := tplOk_iff
  have passes : ∀ tpl, legal tpl → tpl.toNat % 64 ≠ 0 → tplStopOf tpl true = none := fun tpl hl h0 =>
    tplStopOf_none ((legal_iff tpl).2 hl) fun _ => h0
  have dictPasses : ∀ idx, legal (entryTpl idx) → tplStopOf (dictTpl k idx) false = none := fun idx hl =>
    tplStopOf_none ((legal_iff _).2 hl) fun h => nomatch h
  have dictStops : ∀ idx, ¬legal (entryTpl idx) → tplStopOf (dictTpl k idx) false = some (decStop .badtpl []) := fun idx hl =>
    tplStopOf_some (.inl fun h => hl ((legal_iff _).1 h))
  have tplBad : ∀ idx, dictBad k idx false = true ↔ badTpl idx := fun idx => (dictBad_iff k idx false).trans (by simp [badTpl])
  have wordBad : ∀ idx, dictBad k idx true = true ↔ badTpl idx ∨ badWord idx := fun idx =>
    (dictBad_iff k idx true).trans (by simp only [true_and]; rfl)
  have tplGood : ∀ idx, ¬badTpl idx → dictBad k idx false = false := fun idx h => by
    rwa [← Bool.not_eq_true, tplBad]
  have wordGood : ∀ idx, ¬badTpl idx → ¬badWord idx → dictBad k idx true = false := fun idx h h' => by
    rw [← Bool.not_eq_true, wordBad]
    exact not_or.2 ⟨h, h'⟩
  refine ⟨fun tpl words h => ?_, fun tpl words hl h0 => ?_, fun idx svc => ⟨fun h => ?_, fun h => ?_⟩,
    fun idx svc hb hl => ⟨fun hw => ?_, ?_⟩, fun idx svc => exec_dict_handler svc, fun idx svc hb hw hl => ?_, exec_emptyBundle s, ?_,
    fun tpl hl h0 => ?_, fun idx svc hb hl => ?_, ?_⟩
  · exact exec_literal_badtpl (tplStopOf_some (h.imp (fun hl ok => hl ((legal_iff tpl).1 ok)) fun h0 => ⟨rfl, h0⟩)) words
  · rw [exec_literal (passes tpl hl h0), presCount_eq]
    exact bundleDoes_issueBundle ..
  · exact exec_dict_dataerr svc ((wordBad idx).2 h)
  · exact exec_dict_annulled_dataerr svc ((tplBad idx).2 h)
  · exact exec_dict_badtpl svc (wordGood idx hb hw) (dictStops idx hl)
  · exact exec_dict_annulled_badtpl svc (tplGood idx hb) (dictStops idx hl)
  · rw [exec_dict svc (wordGood idx hb hw) (dictPasses idx hl)]
    exact bundleDoes_issueBundle ..
  · exact congrArg _ (endIssue_eq 0 1 (withRets s))
  · rw [exec_literal_annulled (passes tpl hl h0), presCount_eq, endIssue_eq]
    rfl
  · rw [exec_dict_annulled svc (tplGood idx hb) (dictPasses idx hl), endIssue_eq]
    rfl
  · rfl

end Sys2Proof.Machine
end

section
/-! Proofs of the family of spec/03: what a copy-slot instruction answers, and the bytes of the pieces of a request. -/

namespace Sys2Proof.Machine

/-! ### Issue in a copy slot -/

section

variable {g : Guard} {d : SDst} {void : Ctx → Bool} {f : State → Reply} {s : State}

theorem issueC_off (off : guardOn (curCtx s) g = false) :
    issueC g d void f s = .ok (setCtx s (fly (noteVoid (curCtx s) (voidP (curCtx s) g.p)) (slotC s) 1 (offS d) 0)) := by
  simp [issueC, off]

theorem issueC_error (on : guardOn (curCtx s) g = true) {e : Stop} (stops : f s = .error e) : issueC g d void f s = .error e := by
  simp [issueC, on, stops]

/-- What an entry does leaves the context in issue, in which its word is then in flight. -/
theorem issueC_ok (on : guardOn (curCtx s) g = true) {t : State} {w : Word} {fl : Flags} (does : f s = .ok (t, w, fl))
    (keeps : curCtx t = curCtx s) :
    issueC g d void f s =
      .ok (setCtx t (fly (noteVoid (curCtx s) (voidP (curCtx s) g.p || void (curCtx s))) (slotC s) 1 (resS d w) fl)) := by
  simp [issueC, on, does, keeps]

variable {i : Instr} (row : exec i s = settle s (issueC g d void f s))
include row

theorem offC_of_issueC : Spec.offC g d i s := by
  intro off
  refine ⟨_, readFlags_noteVoid .., ?_⟩
  rw [row, issueC_off off]
  cases d <;> rfl

theorem stopsC_of_issueC (on : guardOn (curCtx s) g = true) {cause : Cause} {engine reason : Nat} {va : Option Nat}
    (stops : f s = .error { cause := cause, smask := maskC s, engine := engine, reason := reason, va := va }) :
    Spec.stopsC i s cause engine reason va := by
  unfold Spec.stopsC
  rw [row, issueC_error on stops]
  rfl

theorem replies_of_issueC (on : guardOn (curCtx s) g = true) {t : State} {w : Word} {fl : Flags} (does : f s = .ok (t, w, fl))
    (keeps : curCtx t = curCtx s) : Spec.replies g d i s (void (curCtx s)) t w fl := by
  refine ⟨_, readFlags_noteVoid .., ?_⟩
  rw [row, issueC_ok on does keeps]
  cases d <;> rfl

end

/-! ### An entry under its policy -/

section

variable {s : State} {pol : Fin 8} {peer atomic stamp : Bool} {traps : Pol → Option Stop} {body : Pol → State × Word}

theorem underPol_stops {e : Stop} (trap : traps (polNow s pol) = some e) :
    underPol s pol peer atomic stamp traps body = .error e := by
  simp [underPol, trap]

variable (clear : traps (polNow s pol) = none)
include clear

theorem underPol_refused {fb : Bool} (refused : fallback peer atomic stamp (polNow s pol) = (none, fb)) :
    underPol s pol peer atomic stamp traps body = .ok (s, stRefused, fMODFB) := by
  simp [underPol, clear, refused]

theorem underPol_works {q : Pol} {fb : Bool} {t : State} {w : Word}
    (works : fallback peer atomic stamp (polNow s pol) = (some q, fb)) (does : body q = (t, w)) :
    underPol s pol peer atomic stamp traps body = .ok (t, w, if fb = true then fMODFB else 0) := by
  simp [underPol, clear, works, does, fIf]

end

/-- An entry for the peer space is refused where the instruction takes none (R61). -/
theorem fallback_refused {p : Pol} (space : p.space = 1) (atomic stamp : Bool) : fallback false atomic stamp p = (none, true) := by
  simp [fallback, space]

/-- The last rows of R61, on a policy whose space is that of the entry: an atomic's bypass, then a stamp's order. -/
theorem fallback_some {peer atomic stamp : Bool} {p q : Pol} {fb : Bool} (works : fallback peer atomic stamp p = (some q, fb)) :
    ∃ p4 p5 : Pol, p4.space = p.space ∧ p5 = (if atomic = true ∧ p4.cache = 1 then { p4 with cache := 0 } else p4) ∧
      q = if stamp = true ∧ p5.ord < 2 then { p5 with ord := p5.ord + 2 } else p5 := by
  unfold fallback at works
  split at works
  · cases works
  · cases works
    exact ⟨_, _, by simp only [apply_ite Pol.space, ite_self], rfl, rfl⟩

/-- Under the working policy of R61 the space is that of the entry, a stamp is a release (R207), and an atomic does not bypass (R209). -/
theorem fallback_works {peer atomic stamp : Bool} {p q : Pol} {fb : Bool} (works : fallback peer atomic stamp p = (some q, fb)) :
    q.space = p.space ∧ (stamp = true → 2 ≤ q.ord) ∧ (atomic = true → q.cache ≠ 1) := by
  obtain ⟨p4, p5, space, h5, rfl⟩ := fallback_some works
  refine ⟨by simp only [h5, apply_ite Pol.space, ite_self, space], fun h => ?_, fun h => ?_⟩
  · by_cases lt : p5.ord < 2
    · simp [h, lt]
    · simpa [h, lt] using not_lt.1 lt
  · simp only [h5, apply_ite Pol.cache, ite_self]
    by_cases bypass : p4.cache = 1 <;> simp [h, bypass]

/-! ### Adding a request -/

theorem postTo_frame (s : State) (core part cls n line pa : Nat) : ChanOnly s (postTo s core part cls n line pa) := by
  unfold postTo
  split
  · rfl
  · exact postPacket_frame ..

theorem postLine_frame (s : State) (n : Nat) (r : Req) (bit va : Nat) : ChanOnly s (postLine s n r bit va) := by
  unfold postLine
  split
  · rfl
  · exact postTo_frame ..

theorem postLines_frame (n : Nat) (r : Req) (l : List (Nat × Nat)) (s : State) :
    ChanOnly s (l.foldl (fun s x => postLine s n r x.1 (256 * x.2)) s) := by
  induction l generalizing s with
  | nil => rfl
  | cons x l ih => exact (postLine_frame ..).trans (ih _)

/-- A request that is added changes the requests and the channels only. -/
theorem addReq_frame (s : State) (r : Req) :
    ChanOnly { s with reqs := smPut s.reqs s.nextReq r, nextReq := s.nextReq + 1 } (addReq s r) :=
  postLines_frame ..

@[simp] theorem curCtx_addReq (s : State) (r : Req) : curCtx (addReq s r) = curCtx s :=
  (congrArg curCtx (addReq_frame s r) :)

/-- What a request that is accepted answers: its promise, or `ACCEPTED` where it has none (R196). -/
def acceptedW (t : Option Nat) : Word :=
  match t with
  | some t => promiseW t
  | none => stAccepted

section

variable {s : State} {r : Req} {lines : Nat} {ns : Option Nat}

theorem sendReq_busy (full : contextFree s r.core r.service = false) : sendReq s r lines ns = (s, stBusy) :=
  if_neg (Bool.eq_false_iff.1 full)

theorem sendReq_free (free : contextFree s r.core r.service = true) :
    sendReq s r lines ns =
      (addReq s { r with promise := promiseTick s r.core r.ord lines ns }, acceptedW (promiseTick s r.core r.ord lines ns)) :=
  if_pos free

end

/-! ### A row that is an entry under its policy -/

section

variable {g : Guard} {d : SDst} {void : Ctx → Bool} {pol : Fin 8} {peer atomic stamp : Bool} {traps : State → Pol → Option Stop}
  {body : State → Pol → State × Word} {i : Instr} {s : State}
  (row : exec i s = settle s (issueC g d void (fun s => underPol s pol peer atomic stamp (traps s) (body s)) s))
  (on : guardOn (curCtx s) g = true)
include row on

theorem stopsC_of_trap {cause : Cause} {engine reason : Nat} {va : Option Nat} (trap : traps s (polNow s pol) =
    some { cause := cause, smask := maskC s, engine := engine, reason := reason, va := va }) :
    Spec.stopsC i s cause engine reason va :=
  stopsC_of_issueC row on (underPol_stops trap)

variable (clear : traps s (polNow s pol) = none)
include clear

theorem replies_refused {fb : Bool} (refused : fallback peer atomic stamp (polNow s pol) = (none, fb)) :
    Spec.replies g d i s (void (curCtx s)) s stRefused fMODFB :=
  replies_of_issueC row on (underPol_refused clear refused) rfl

variable {q : Pol} {fb : Bool} (works : fallback peer atomic stamp (polNow s pol) = (some q, fb))
include works

theorem replies_only {w : Word} (does : body s q = only s w) :
    Spec.replies g d i s (void (curCtx s)) s w (if fb = true then fMODFB else 0) :=
  replies_of_issueC row on (underPol_works clear works does) rfl

variable {r : Req} {lines : Nat} {ns : Option Nat} (does : body s q = sendReq s r lines ns)
include does

theorem replies_busy (full : contextFree s r.core r.service = false) :
    Spec.replies g d i s (void (curCtx s)) s stBusy (if fb = true then fMODFB else 0) :=
  replies_of_issueC row on (underPol_works clear works (does.trans (sendReq_busy full))) rfl

theorem replies_sent (free : contextFree s r.core r.service = true) :
    Spec.replies g d i s (void (curCtx s)) (addReq s { r with promise := promiseTick s r.core r.ord lines ns })
      (acceptedW (promiseTick s r.core r.ord lines ns)) (if fb = true then fMODFB else 0) :=
  replies_of_issueC row on (underPol_works clear works (does.trans (sendReq_free free))) (curCtx_addReq ..)

/-- An entry that makes a request of the core in issue, with pieces whose bytes are still to be taken. -/
theorem accepts_of_send (core : r.core = s.sched.cur) (service : r.service = (cur s).svc.isSome)
    (fresh : ∀ p ∈ r.pieces, p.stage = 0 ∧ p.buf = [] ∧ 0 < p.len) :
    Spec.accepts g d i s (void (curCtx s)) fb r (Spec.bytesOf r.pieces) (promiseTick s s.sched.cur r.ord lines ns) := by
  unfold Spec.accepts
  rw [← service, ← core]
  exact ⟨replies_busy row on clear works does, fun free => ⟨r.pieces, rfl, fresh, replies_sent row on clear works does free⟩⟩

end

/-! ### The pieces of a run -/

/-- Where the piece that begins at byte `i` of a run ends: at the nearest cut, or at `e`. -/
def cutEnd (bases : List (Nat × Nat)) (i e : Nat) : Nat := bases.foldl (fun e b => min e (i + b.2 - (b.1 + i) % b.2)) e

theorem cutRun_succ (fuel : Nat) (bases : List (Nat × Nat)) (i n : Nat) :
    cutRun (fuel + 1) bases i n =
      if n ≤ i then [] else (i, cutEnd bases i n - i) :: cutRun fuel bases (cutEnd bases i n) n := rfl

section

variable {bases : List (Nat × Nat)} (steps : ∀ b ∈ bases, 0 < b.2)
include steps

theorem lt_cutEnd {i e : Nat} (h : i < e) : i < cutEnd bases i e ∧ cutEnd bases i e ≤ e := by
  induction bases generalizing e with
  | nil => exact ⟨h, le_rfl⟩
  | cons b bases ih =>
    obtain ⟨step, steps⟩ := List.forall_mem_cons.1 steps
    have := Nat.mod_lt (b.1 + i) step
    obtain ⟨lo, hi⟩ := ih steps (e := min e (i + b.2 - (b.1 + i) % b.2)) (by omega)
    exact ⟨lo, hi.trans (min_le_left ..)⟩

/-- The cuts of a run cover it byte by byte, in order. -/
theorem flatMap_cutRun {α : Type} (f : Nat → α) (n fuel i : Nat) (enough : n ≤ i + fuel) :
    (cutRun fuel bases i n).flatMap (fun c => (List.range c.2).map fun j => f (c.1 + j)) =
      (List.range (n - i)).map fun j => f (i + j) := by
  induction fuel generalizing i with
  | zero => simp [cutRun, Nat.sub_eq_zero_of_le (show n ≤ i from enough)]
  | succ fuel ih =>
    rw [cutRun_succ]
    split
    · rename_i done
      simp [Nat.sub_eq_zero_of_le done]
    · rename_i more
      obtain ⟨lo, hi⟩ := lt_cutEnd steps (not_le.1 more)
      generalize cutEnd bases i n = e at lo hi
      have parts : n - i = (e - i) + (n - e) := by omega
      have after : ∀ j, i + (e - i + j) = e + j := by omega
      rw [List.flatMap_cons, ih e (by omega), parts, List.range_add, List.map_append, List.map_map]
      simp only [Function.comp_def, after]

theorem cutRun_pos (fuel i n : Nat) : ∀ c ∈ cutRun fuel bases i n, 0 < c.2 := by
  induction fuel generalizing i with
  | zero => exact List.forall_mem_nil _
  | succ fuel ih =>
    rw [cutRun_succ]
    split
    · exact List.forall_mem_nil _
    · rename_i more
      exact List.forall_mem_cons.2 ⟨Nat.sub_pos_of_lt (lt_cutEnd steps (not_le.1 more)).1, ih _⟩

end

theorem locCut_pos (own : Nat) (dst : Bool) (l : Loc) : ∀ b ∈ locCut own dst l, 0 < b.2 := by
  cases l with
  | spad c a =>
    simp only [locCut]
    split_ifs <;> simp
  | _ => simp [locCut]

theorem locCuts_pos (own : Nat) (src dst : Loc) : ∀ b ∈ locCut own false src ++ locCut own true dst, 0 < b.2 := fun b hb =>
  (List.mem_append.1 hb).elim (locCut_pos own false src b) (locCut_pos own true dst b)

@[simp] theorem locAt_locAt (l : Loc) (i j : Nat) : locAt (locAt l i) j = locAt l (i + j) := by
  cases l <;> simp [locAt, Nat.add_assoc]

theorem bytesOf_cons (p : Piece) (ps : List Piece) :
    Spec.bytesOf (p :: ps) = ((List.range p.len).map fun i => (locAt p.src i, locAt p.dst i, p.bar, p.voidn)) ++ Spec.bytesOf ps := rfl

/-- The pieces of a run move its bytes one by one (R199). -/
theorem bytesOf_mkPieces (own : Nat) (src dst : Loc) (n : Nat) (bar : Option (Nat × Nat)) :
    Spec.bytesOf (mkPieces own src dst n bar) = (List.range n).map fun i => (locAt src i, locAt dst i, bar, false) := by
  have cover := flatMap_cutRun (locCuts_pos own src dst) (fun i => (locAt src i, locAt dst i, bar, false)) n n 0 (by omega)
  simpa [Spec.bytesOf, mkPieces, List.flatMap_map] using cover

/-- The bytes of a piece of a run are all still to be taken. -/
theorem mkPieces_fresh (own : Nat) (src dst : Loc) (n : Nat) (bar : Option (Nat × Nat)) :
    ∀ p ∈ mkPieces own src dst n bar, p.stage = 0 ∧ p.buf = [] ∧ 0 < p.len := by
  intro p hp
  obtain ⟨c, hc, rfl⟩ := List.mem_map.1 hp
  exact ⟨rfl, rfl, cutRun_pos (locCuts_pos own src dst) n 0 n c hc⟩

end Sys2Proof.Machine
end

section
/-! Proofs of the family of spec/03: stamps and atomics (O35), and the words of the spec's examples (O55). -/

namespace Sys2Proof.Machine

/-! ### Traps of an entry -/

theorem peerTrap_stops {s : State} {p : Pol} {x : Nat} (space : p.space = 1) (out : inPart s (peerCore x) = false) :
    peerTrap s p x = some { cause := .mcastpart, smask := maskC s } := by
  simp [peerTrap, space, out]

theorem peerTrap_clear {s : State} {p : Pol} {x : Nat} (inside : p.space = 1 → inPart s (peerCore x) = true) :
    peerTrap s p x = none := by
  by_cases space : p.space = 1
  · simp [peerTrap, inside space]
  · simp [peerTrap, space]

theorem ownRange_stops {s : State} {a n : Nat} (engine : Nat) (hn : 0 < n) (out : viewOk (cur s) a n = false) :
    ownRange s engine a n = some { cause := .xlate, smask := maskC s, engine := engine, reason := 4, va := some a } := by
  simp [ownRange, viewStop, out, hn.ne']

theorem ownRange_clear {s : State} {a n : Nat} (engine : Nat) (inside : viewOk (cur s) a n = true) : ownRange s engine a n = none := by
  simp [ownRange, viewStop, inside]

/-! ### Stamps -/

theorem exec_cpys (g : Guard) (d : SDst) (pol : Fin 8) (a b : SOp) (s : State) :
    exec (.cpys g d pol a b) s = settle s (issueCpys g d pol a b s) := rfl

/-- The address within a scratchpad has the alignment of its reference. -/
theorem peerAddr_mod_eight (x : Nat) : peerAddr x % 8 = x % 8 := by
  simp only [peerAddr, bits]
  omega

/-- The checks of a stamp, one after the other, are those of R207: an address of eight bytes, and a peer reference without other bits. -/
theorem ite_stampChecks {α : Type} (q : Pol) (x : Nat) (u v : α) :
    (if q.space = 1 ∧ ((!peerWell x) = true ∨ peerAddr x % 8 ≠ 0) then u else if x % 8 ≠ 0 then u else v) =
      if x % 8 ≠ 0 ∨ (q.space = 1 ∧ peerWell x = false) then u else v := by
  rw [peerAddr_mod_eight]
  by_cases aligned : x % 8 = 0 <;> simp [aligned]

/-! ### Atomics -/

/-- The atomics, in the order of the table of R209. -/
def atomics (g : Guard) (d : SDst) (pol : Fin 8) (sz : Sz) (a b e : SOp) : List Instr :=
  [.aadd g d pol sz a b e, .amin g d pol sz a b e, .amax g d pol sz a b e, .aand g d pol sz a b e,
    .aor g d pol sz a b e, .axor g d pol sz a b e, .aswp g d pol sz a b e, .acas g d pol sz a b e]

theorem exec_atomics {g : Guard} {d : SDst} {pol : Fin 8} {sz : Sz} {a b e : SOp} {k : Nat} {i : Instr}
    (h : (atomics g d pol sz a b e)[k]? = some i) (s : State) : exec i s = settle s (atomicReq k g d pol sz a b e s) := by
  obtain ⟨hk, rfl⟩ := List.getElem?_eq_some_iff.1 h
  change k < 8 at hk
  interval_cases k <;> rfl

theorem szBytes_pos (sz : Sz) : 0 < szBytes sz := by cases sz <;> decide

/-- The pieces of an atomic: its word at the home, and the landing of the old value. -/
def atomicPieces (s : State) (sz : Sz) (x z : Nat) : List Piece :=
  { src := .virt x, dst := .none, len := szBytes sz } :: mkPieces (ownNum s) .none (ownSpad s z) 8 none

theorem bytesOf_atomicPieces (s : State) (sz : Sz) (x z : Nat) :
    Spec.bytesOf (atomicPieces s sz x z) =
      (List.range (szBytes sz)).map (fun j => (.virt (x + j), .none, none, false)) ++
        (List.range 8).map fun j => (.none, .spad (selfSpad (cur s) s.sched.cur) (z + j), none, false) := by
  rw [atomicPieces, bytesOf_cons, bytesOf_mkPieces]
  rfl

theorem atomicPieces_fresh (s : State) (sz : Sz) (x z : Nat) :
    ∀ p ∈ atomicPieces s sz x z, p.stage = 0 ∧ p.buf = [] ∧ 0 < p.len :=
  List.forall_mem_cons.2 ⟨⟨rfl, rfl, szBytes_pos sz⟩, mkPieces_fresh _ _ _ _ _⟩

/-- Settles O35: a stamp and an atomic are entries under their policy, each by its traps and then by what it does under the working
policy (`fallback_works`); the bytes of an atomic are those of its pieces (`bytesOf_atomicPieces`). -/
theorem stampsAndAtomics : Obligations.StampsAndAtomics := by
  unfold Obligations.StampsAndAtomics
  intro g d pol sz a b e s me x z void st n mem ats
  have size : n = szBytes sz := by cases sz <;> rfl
  clear_value n
  subst size
  have row := exec_cpys g d pol a b s
  have rows : ∀ {k i}, ats[k]? = some i → exec i s = settle s (atomicReq k g d pol sz a b e s) := fun h => exec_atomics h s
  refine ⟨?_, fun on => ⟨fun space out => ?_, fun q fb works inside => ?_, fun k i hk => ⟨fun out => ?_, fun inside => ⟨?_, ?_⟩⟩⟩⟩
  · refine List.forall_mem_cons.2 ⟨offC_of_issueC row, fun i hi => ?_⟩
    obtain ⟨k, hk⟩ := List.mem_iff_getElem?.1 hi
    exact offC_of_issueC (rows hk)
  · exact stopsC_of_trap row on (peerTrap_stops space out)
  · intro f bad dst ns t
    obtain ⟨space, ord, -⟩ := fallback_works works
    have clear : peerTrap s (polNow s pol) x = none := peerTrap_clear fun h => inside (space.trans h)
    have body := fun u v : State × Word => ite_stampChecks q x u v
    exact ⟨ord rfl, fun hb => replies_only row on clear works ((body _ _).trans (if_pos hb)),
      fun hb full => replies_busy row on clear works ((body _ _).trans (if_neg hb)) full,
      fun hb free => replies_sent row on clear works ((body _ _).trans (if_neg hb)) free⟩
  · exact stopsC_of_trap (rows hk) on (ownRange_stops 9 (by decide) out)
  · exact fun space => replies_refused (rows hk) on (ownRange_clear 9 inside) (fallback_refused space true false)
  · intro q fb works f
    obtain ⟨-, -, cache⟩ := fallback_works works
    have clear : ownRange s 9 z 8 = none := ownRange_clear 9 inside
    refine ⟨cache rfl, fun hx => replies_only (rows hk) on clear works (if_pos hx), fun hx => ?_⟩
    rw [← bytesOf_atomicPieces]
    exact accepts_of_send (rows hk) on clear works (if_neg (not_not.2 hx)) rfl rfl (atomicPieces_fresh s sz x z)

/-- Settles O55: the decoder computes each of the words. -/
theorem decodeWords : Obligations.DecodeWords := by
  unfold Obligations.DecodeWords
  exact ⟨rfl, rfl, rfl, rfl, rfl, rfl, rfl, rfl, rfl, rfl, rfl, rfl, rfl⟩

end Sys2Proof.Machine
end

section
/-! Proofs of the family of spec/04: arithmetic (O1) and division (O2). -/

namespace Sys2Proof.Machine

/-! ### Rows of two operands and of one -/

section

variable {i : Instr} {s : State} {g : Guard} {d : SDst} {a b : SOp} {lat : Nat}

theorem resultS_of_binS {f : Word → Word → Word × Flags} {v : Word} {fl : Flags} (row : exec i s = settle s (binS lat f g d a b s))
    (value : (f (valS (curCtx s) a) (valS (curCtx s) b)).1 = v) (flags : (f (valS (curCtx s) a) (valS (curCtx s) b)).2 = fl) :
    Spec.resultS g i s (voidS (curCtx s) a || voidS (curCtx s) b) 0 lat d v fl := by
  subst value flags
  exact resultS_of_exec row

theorem resultS_of_plain {f : Word → Word → Word} {v : Word} (row : exec i s = settle s (binS lat (plain f) g d a b s))
    (value : f (valS (curCtx s) a) (valS (curCtx s) b) = v) :
    Spec.resultS g i s (voidS (curCtx s) a || voidS (curCtx s) b) 0 lat d v 0 :=
  resultS_of_binS row value rfl

theorem resultS_of_plain1 {f : Word → Word} {v : Word} (row : exec i s = settle s (unS lat (plain1 f) g d a s))
    (value : f (valS (curCtx s) a) = v) : Spec.resultS g i s (voidS (curCtx s) a) 0 lat d v 0 := by
  subst value
  exact resultS_of_exec row

end

/-! ### Sums, products and absolute values (R65) -/

theorem add_eq_ofInt (x y : Word) : x + y = BitVec.ofInt 64 (x.toInt + y.toInt) := by
  rw [BitVec.ofInt_add, BitVec.ofInt_toInt, BitVec.ofInt_toInt]

theorem sub_eq_ofInt (x y : Word) : x - y = BitVec.ofInt 64 (x.toInt - y.toInt) := by
  rw [sub_eq_add_neg x.toInt, BitVec.ofInt_add, BitVec.ofInt_neg, BitVec.ofInt_toInt, BitVec.ofInt_toInt, BitVec.sub_eq_add_neg]

theorem mul_eq_ofInt (x y : Word) : x * y = BitVec.ofInt 64 (x.toInt * y.toInt) := by
  rw [BitVec.ofInt_mul, BitVec.ofInt_toInt, BitVec.ofInt_toInt]

theorem mulhS_eq_fdiv (x y : Word) : mulhS x y = BitVec.ofInt 64 (Int.fdiv (x.toInt * y.toInt) (2 ^ 64)) := by
  rw [mulhS, Int.fdiv_eq_ediv_of_nonneg _ (by positivity)]
  rfl

theorem absS_eq_abs (x : Word) : absS x = BitVec.ofInt 64 |x.toInt| := by
  unfold absS sgn
  split
  · next neg => rw [abs_of_neg neg]
  · next nonneg => rw [abs_of_nonneg (not_lt.1 nonneg)]

/-- Settles O1: each row issues one operation of its operands, whose value is that of R65. -/
theorem scalarArithmetic : Obligations.ScalarArithmetic := by
  unfold Obligations.ScalarArithmetic
  intro g d a b s x y two one
  exact ⟨resultS_of_plain rfl (add_eq_ofInt x y), resultS_of_plain rfl (sub_eq_ofInt x y), resultS_of_plain1 rfl (sub_eq_ofInt 0 x),
    resultS_of_plain rfl (mul_eq_ofInt x y), resultS_of_plain rfl (mulhS_eq_fdiv x y), resultS_of_plain rfl rfl,
    resultS_of_plain rfl rfl, resultS_of_plain rfl rfl, resultS_of_plain rfl rfl, resultS_of_plain rfl rfl,
    resultS_of_plain1 rfl (absS_eq_abs x)⟩

/-! ### Quotients and remainders (R66) -/

theorem divFlag_eq (y : Word) : divFlag y = if y = 0 then fDZ else 0 := by
  simp [divFlag, fIf]

theorem resultS_of_division {i : Instr} {s : State} {g : Guard} {d : SDst} {a b : SOp} {f : Word → Word → Word} {v : Word}
    (row : exec i s = settle s (binS 24 (fun x y => (f x y, divFlag y)) g d a b s))
    (value : f (valS (curCtx s) a) (valS (curCtx s) b) = v) :
    Spec.resultS g i s (voidS (curCtx s) a || voidS (curCtx s) b) 0 24 d v (if valS (curCtx s) b = 0 then fDZ else 0) :=
  resultS_of_binS row value (divFlag_eq _)

theorem divS_eq (x y : Word) : divS x y = BitVec.ofInt 64 (if y = 0 then -1 else Int.tdiv x.toInt y.toInt) := by
  rw [apply_ite (BitVec.ofInt 64)]
  rfl

theorem remS_eq (x y : Word) :
    remS x y = BitVec.ofInt 64 (if y = 0 then x.toInt else x.toInt - Int.tdiv x.toInt y.toInt * y.toInt) := by
  rw [apply_ite (BitVec.ofInt 64), BitVec.ofInt_toInt]
  rfl

theorem divU_eq (x y : Word) : divU x y = BitVec.ofNat 64 (if y = 0 then 2 ^ 64 - 1 else x.toNat / y.toNat) := by
  rw [apply_ite (BitVec.ofNat 64)]
  rfl

theorem remU_eq (x y : Word) :
    remU x y = BitVec.ofNat 64 (if y = 0 then x.toNat else x.toNat - x.toNat / y.toNat * y.toNat) := by
  rw [apply_ite (BitVec.ofNat 64), BitVec.ofNat_toNat, BitVec.setWidth_eq]
  rfl

/-- Settles O2: each row lands its quotient or remainder, and with it `DZ` when the divisor is 0. -/
theorem scalarDivision : Obligations.ScalarDivision := by
  unfold Obligations.ScalarDivision
  intro g d a b s x y lands q r qz rz
  exact ⟨resultS_of_division rfl (divS_eq x y), resultS_of_division rfl (remS_eq x y), resultS_of_division rfl (divU_eq x y),
    resultS_of_division rfl (remU_eq x y)⟩

end Sys2Proof.Machine
end

section
/-! Proofs of the family of spec/04: logic, bits and moves (O3). -/

namespace Sys2Proof.Machine

/-! ### Bytes and bits of a word -/

theorem leBytes_getD (n v : Nat) {j : Nat} (h : j < n) : (leBytes n v).getD j 0 = BitVec.ofNat 8 (v / 256 ^ j) := by
  induction n generalizing v j with
  | zero => exact absurd h (Nat.not_lt_zero j)
  | succ n ih =>
    cases j with
    | zero => simp [leBytes]
    | succ j => rw [leBytes, List.getD_cons_succ, ih _ (by omega), Nat.div_div_eq_div_mul, Nat.pow_succ']

theorem leBytes_toNat_getD {n : Nat} (x : Word) {j : Nat} (h : j < n) :
    (leBytes n x.toNat).getD j 0 = x.extractLsb' (8 * j) 8 := by
  rw [leBytes_getD n _ h, show 256 ^ j = 2 ^ (8 * j) from (pow_mul 2 8 j).symm, ← Nat.shiftRight_eq_div_pow]
  rfl

theorem sInt_eq_toInt (n v : Nat) : sInt n v = (BitVec.ofNat n v).toInt := by
  rw [BitVec.toInt_eq_toNat_cond, BitVec.toNat_ofNat, sInt]

/-! ### Shifts and rotations (R68) -/

/-- The amount of a shift: all of the register, or the immediate (R68). -/
def shiftAmount (c : Ctx) : Amt → Nat
  | .reg o => (valS c o).toNat
  | .imm n => n.val

/-- Whether a shift of `a` reads a void entry. -/
def voidShift (c : Ctx) (a : SOp) : Amt → Bool
  | .reg o => voidS c a || voidS c o
  | .imm _ => voidS c a

theorem resultS_of_shiftS {i : Instr} {s : State} {g : Guard} {d : SDst} {a : SOp} {n : Amt} {f : Word → Nat → Word} {v : Word}
    (row : exec i s = settle s (shiftS f g d a n s)) (value : f (valS (curCtx s) a) (shiftAmount (curCtx s) n) = v) :
    Spec.resultS g i s (voidShift (curCtx s) a n) 0 1 d v 0 := by
  cases n with
  | reg o => exact resultS_of_plain (f := fun x y => f x y.toNat) row value
  | imm m => exact resultS_of_plain1 (f := fun x => f x m.val) row value

theorem shlN_eq_mul (x : Word) (n : Nat) : shlN x n = if 64 ≤ n then 0 else BitVec.ofNat 64 (x.toNat * 2 ^ n) := by
  rw [shlN, ← Nat.shiftLeft_eq]
  rfl

theorem shrN_eq_div (x : Word) (n : Nat) : shrN x n = BitVec.ofNat 64 (x.toNat / 2 ^ n) := by
  have shifted : x >>> n = BitVec.ofNat 64 (x.toNat / 2 ^ n) := by
    rw [← Nat.shiftRight_eq_div_pow, ← BitVec.toNat_ushiftRight, BitVec.ofNat_toNat, BitVec.setWidth_eq]
  unfold shrN
  split
  · next out => rw [← shifted, BitVec.ushiftRight_eq_zero out]; rfl
  · exact shifted

theorem sarN_eq_fdiv (x : Word) (n : Nat) : sarN x n = BitVec.ofInt 64 (Int.fdiv x.toInt (2 ^ min n 63)) := by
  have amount : (if n < 63 then n else 63) = min n 63 := by split <;> omega
  rw [sarN, amount, BitVec.sshiftRight_eq, Int.shiftRight_eq_div_pow, Int.fdiv_eq_ediv_of_nonneg _ (by positivity)]
  push_cast
  rfl

/-! ### Bit operations (R69) -/

theorem clzN_spec {w v : Nat} (h : v < 2 ^ w) :
    clzN w v ≤ w ∧ v < 2 ^ (w - clzN w v) ∧ (clzN w v < w → 2 ^ (w - 1 - clzN w v) ≤ v) := by
  by_cases zero : v = 0
  · simp [clzN, zero]
  · have top : v.log2 < w := (Nat.log2_lt zero).2 h
    have below : w - (w - 1 - v.log2) = v.log2 + 1 := by omega
    have at_top : w - 1 - (w - 1 - v.log2) = v.log2 := by omega
    rw [clzN, if_neg zero, below, at_top]
    exact ⟨by omega, Nat.lt_log2_self, fun _ => Nat.log2_self_le zero⟩

theorem ctzN_spec (w v : Nat) : ctzN w v ≤ w ∧ 2 ^ ctzN w v ∣ v ∧ (ctzN w v < w → ¬ 2 ^ (ctzN w v + 1) ∣ v) := by
  induction w generalizing v with
  | zero => simp [ctzN]
  | succ w ih =>
    by_cases odd : v % 2 = 1
    · rw [ctzN, if_pos odd]
      exact ⟨Nat.zero_le _, one_dvd v, fun _ => by omega⟩
    · obtain ⟨le, dvd, last⟩ := ih (v / 2)
      have half : v = 2 * (v / 2) := by omega
      have twice : ∀ k, 2 ^ (k + 1) ∣ v ↔ 2 ^ k ∣ v / 2 := fun k => by
        conv_lhs => rw [half, Nat.pow_succ']
        exact Nat.mul_dvd_mul_iff_left two_pos
      rw [ctzN, if_neg odd, Nat.add_comm 1, twice, twice]
      exact ⟨by omega, dvd, fun lt => last (by omega)⟩

theorem popN_eq_sum (w v : Nat) : popN w v = ∑ i ∈ Finset.range w, (v.testBit i).toNat := by
  induction w generalizing v with
  | zero => rfl
  | succ w ih =>
    rw [popN, ih, Finset.sum_range_succ', Nat.add_comm]
    simp only [Nat.testBit_succ, Nat.testBit_zero]
    congr 1
    rcases Nat.mod_two_eq_zero_or_one v with h | h <;> simp [h]

theorem extractLsb'_bswapS (x : Word) {j : Nat} (h : j < 8) :
    (bswapS x).extractLsb' (8 * j) 8 = x.extractLsb' (8 * (7 - j)) 8 := by
  generalize hb : (leBytes 8 x.toNat).reverse = bs
  have len : bs.length = 8 := by rw [← hb, List.length_reverse, leBytes_length]
  have value : (bswapS x).toNat = leNat bs := by
    rw [bswapS, hb, BitVec.toNat_ofNat]
    have bound := leNat_lt bs
    rw [len] at bound
    exact Nat.mod_eq_of_lt bound
  have bytes := leBytes_leNat bs
  rw [len] at bytes
  rw [← leBytes_toNat_getD _ h, ← leBytes_toNat_getD (n := 8) _ (by omega), value, bytes, ← hb]
  simp only [List.getD_eq_getElem?_getD]
  rw [List.getElem?_reverse (by simpa using h), leBytes_length]

theorem sextS_eq_signExtend (n : Nat) (x : Word) : sextS n x = (x.setWidth n).signExtend 64 := by
  rw [sextS, sInt_eq_toInt, BitVec.ofNat_toNat]
  rfl

theorem zextS_eq_setWidth (n : Nat) (x : Word) : zextS n x = (x.setWidth n).setWidth 64 := by
  rw [zextS, ← BitVec.toNat_setWidth, BitVec.ofNat_toNat]

theorem bfxS_eq_extractLsb' (pos w : Nat) (x : Word) : bfxS pos w x = (x.extractLsb' pos w).setWidth 64 := by
  rw [bfxS, bits, ← Nat.shiftRight_eq_div_pow, ← BitVec.extractLsb'_toNat, BitVec.ofNat_toNat]

theorem bfiS_getLsbD (pos w : Nat) (x y : Word) {i : Nat} (h : i < 64) :
    (bfiS pos w x y).getLsbD i = if pos ≤ i ∧ i < pos + w then y.getLsbD (i - pos) else x.getLsbD i := by
  have mask : (BitVec.ofNat 64 ((2 ^ w - 1) * 2 ^ pos)).getLsbD i = decide (pos ≤ i ∧ i < pos + w) := by
    rw [BitVec.getLsbD_ofNat, Nat.testBit_mul_two_pow, Nat.testBit_two_pow_sub_one, decide_eq_true h, Bool.true_and,
      ← Bool.decide_and]
    exact decide_eq_decide.2 (by omega)
  simp only [bfiS, BitVec.getLsbD_or, BitVec.getLsbD_and, BitVec.getLsbD_not, BitVec.getLsbD_shiftLeft, mask, h]
  split
  · next inside => simp [inside]
  · next outside => simp [outside]

/-! ### Addresses and immediates (R70) -/

theorem add_signExtend (x : Word) {n : Nat} (v : BitVec n) : x + v.signExtend 64 = BitVec.ofInt 64 (x.toInt + v.toInt) := by
  rw [BitVec.ofInt_add, BitVec.ofInt_toInt]
  rfl

theorem lihS_eq_append (imm : BitVec 32) (x : Word) : lihS imm x = imm ++ x.extractLsb' 0 32 := by
  apply BitVec.eq_of_toNat_eq
  have low : x.toNat % 2 ^ 32 < 2 ^ 32 := Nat.mod_lt _ (by decide)
  have high := imm.isLt
  rw [BitVec.toNat_append, BitVec.extractLsb'_toNat, Nat.shiftRight_zero, ← Nat.shiftLeft_add_eq_or_of_lt low, Nat.shiftLeft_eq,
    lihS, BitVec.toNat_ofNat, Nat.mod_eq_of_lt (by omega)]

/-! ### The rows -/

/-- Settles O3: each row issues one operation of its operands, whose value is that of R67 to R70. -/
theorem logicBitsAndMoves : Obligations.LogicBitsAndMoves := by
  unfold Obligations.LogicBitsAndMoves
  refine ⟨fun g d a b s => ?logic, fun g d a b s => ?bits, fun g d p a b disp imm s => ?moves⟩
  case logic =>
    intro x y two
    refine ⟨resultS_of_plain rfl rfl, resultS_of_plain rfl rfl, resultS_of_plain rfl rfl, resultS_of_plain rfl rfl,
      resultS_of_plain rfl rfl, fun amt => ?shifts⟩
    intro n void sh
    have shifts : ∀ {i : Instr} {f : Word → Nat → Word} {v : Word},
        exec i s = settle s (shiftS f g d a amt s) → f x n = v → sh i v := by
      cases amt <;> exact resultS_of_shiftS
    exact ⟨shifts rfl (shlN_eq_mul x n), shifts rfl (shrN_eq_div x n), shifts rfl (sarN_eq_fdiv x n), shifts rfl rfl⟩
  case bits =>
    intro x y one
    obtain ⟨clz_le, clz_lt, clz_ge⟩ := clzN_spec x.isLt
    obtain ⟨ctz_le, ctz_dvd, ctz_last⟩ := ctzN_spec 64 x.toNat
    exact ⟨⟨_, clz_le, clz_lt, clz_ge, resultS_of_plain1 rfl rfl⟩, ⟨_, ctz_le, ctz_dvd, ctz_last, resultS_of_plain1 rfl rfl⟩,
      resultS_of_plain1 rfl (congrArg (BitVec.ofNat 64) (popN_eq_sum 64 x.toNat)),
      ⟨_, fun j => extractLsb'_bswapS x, resultS_of_plain1 rfl rfl⟩,
      fun n _ _ => ⟨resultS_of_plain1 rfl (sextS_eq_signExtend n x), resultS_of_plain1 rfl (zextS_eq_setWidth n x)⟩,
      fun pos w _ _ _ => ⟨resultS_of_plain1 rfl (bfxS_eq_extractLsb' pos w x), _, fun i => bfiS_getLsbD pos w x y,
        resultS_of_plain rfl rfl⟩⟩
  case moves =>
    intro x y one
    exact ⟨resultS_of_exec rfl, resultS_of_plain1 rfl rfl, resultS_of_plain1 rfl (add_signExtend x disp),
      resultS_of_plain1 rfl (add_signExtend x imm), resultS_of_exec rfl, resultS_of_plain1 rfl (lihS_eq_append imm x)⟩

end Sys2Proof.Machine
end

section
/-! Proofs of the family of spec/04: compares and predicates (O4). -/

namespace Sys2Proof.Machine

/-- A row with a predicate result (R63). -/
theorem resultP_of_issueP {i : Instr} {s : State} {g : Guard} {lat : Nat} {pd : Fin 16} {void : Bool} {v : Bool}
    (row : exec i s = .next (setCtx s (issueP lat g pd (fun _ => void) (fun _ => v) (curCtx s)))) :
    Spec.resultP g i s void lat pd v := by
  unfold Spec.resultP
  split
  · next on =>
    rw [issueP_on _ _ _ _ on] at row
    exact ⟨_, readFlags_noteVoid .., row⟩
  · next off =>
    rw [issueP_off _ _ _ _ (by simpa using off)] at row
    exact onlyReads_of_exec row

/-- Settles O4: each row issues a compare or one operation of its predicates, which lands as its predicate. -/
theorem comparesAndPredicates : Obligations.ComparesAndPredicates := by
  unfold Obligations.ComparesAndPredicates
  intro g cc pd pa pb na nb a b imm s _ x holds p q void2
  have compares : ∀ y, ccHolds cc x y = holds y := by
    intro y
    cases cc with
    | eq => exact beq_eq_decide x y
    | ne => exact (congrArg (!·) (beq_eq_decide x y)).trans decide_not.symm
    | _ => rfl
  refine ⟨resultP_of_issueP ?cmp, resultP_of_issueP ?cmpi, resultP_of_issueP rfl, resultP_of_issueP rfl, resultP_of_issueP rfl,
    resultP_of_issueP rfl⟩
  case cmp => rw [← compares]; rfl
  case cmpi => rw [← compares]; rfl

end Sys2Proof.Machine
end

section
/-! Proofs of the family of spec/04: loads and stores (O5). -/

namespace Sys2Proof.Machine

/-! ### What a load or a store addresses (R75, R235) -/

section

variable {s : State} {ea n : Nat}

theorem viewOk_core {k : Core} (core : k.svc = none) : viewOk k ea n = decide (ea + n ≤ 0x40000) :=
  if_neg (Option.not_isSome_iff_eq_none.2 core)

theorem viewStop_handler {k : Core} (handler : k.svc.isSome = true) (fits : ea + n ≤ 0x400) (rd : Bool) :
    viewStop k 2 1 ea n rd = none := by
  have notNone : k.svc.isNone = false := by rw [← Option.not_isSome, handler]; rfl
  simp [viewStop, viewOk, handler, fits, notNone]

theorem viewStop_spad {k : Core} {rd : Bool} (core : k.svc = none) (fits : ea + n ≤ 0x40000)
    (good : rd = true → spadBad k ea n = false) : viewStop k 2 1 ea n rd = none := by
  have inside : viewOk k ea n = true := by simp [viewOk_core core, fits]
  cases rd with
  | false => simp [viewStop, inside]
  | true => simp [viewStop, inside, good rfl]

theorem viewStop_outside {k : Core} (core : k.svc = none) (out : 0x40000 < ea + n) (rd : Bool) :
    viewStop k 2 1 ea n rd = some { cause := .xlate, smask := 1, engine := 2, reason := 4, va := some ea } := by
  have outside : viewOk k ea n = false := by simpa [viewOk_core core] using out
  simp [viewStop, outside]

theorem viewWrite_setCtx_spad (core : (cur s).svc = none) (c : Ctx) (bs : List Byte) :
    viewWrite (setCtx s c) s.sched.cur ea bs = setCur s { spadWrite (cur s) ea bs with ctx := c } := by
  have here : getCore (setCtx s c) s.sched.cur = { cur s with ctx := c } := cur_setCtx s c
  rw [viewWrite, here]
  exact (if_neg (Option.not_isSome_iff_eq_none.2 core)).trans (setCur_setCtx s _ c)

theorem viewWrite_setCtx_handler (handler : (cur s).svc.isSome = true) (c : Ctx) (bs : List Byte) :
    viewWrite (setCtx s c) s.sched.cur ea bs = { setCtx s c with store := mWriteN s.store (windowAt s.sched.cur + ea) bs } := by
  have here : getCore (setCtx s c) s.sched.cur = { cur s with ctx := c } := cur_setCtx s c
  rw [viewWrite, here]
  exact if_pos handler

end

/-- The low bytes of a word, as a memory holds them after they were written. -/
theorem mRead_mWriteN_leBytes (m : SMap Byte) (lo n : Nat) (y : Word) (p : Nat) :
    mRead (mWriteN m lo (leBytes n y.toNat)) p =
      if lo ≤ p ∧ p < lo + n then y.extractLsb' (8 * (p - lo)) 8 else mRead m p := by
  rw [mRead_mWriteN, leBytes_length]
  split
  · next inside => exact leBytes_toNat_getD y (by omega)
  · rfl

/-- The words that stay bad after a write of the scratchpad: those that it does not cover (R307). -/
theorem mem_badWords_spadWrite (k : Core) (ea : Nat) (bs : List Byte) (m : Sram) (w : Nat) :
    (m, w) ∈ (spadWrite k ea bs).badWords ↔
      (m, w) ∈ k.badWords ∧ ¬ (m = .spad ∧ ea ≤ 8 * w ∧ 8 * w + 8 ≤ ea + bs.length) := by
  simp only [spadWrite, sramGood, List.mem_filter, Bool.not_eq_true', ← Bool.not_eq_true, Bool.and_eq_true, beq_iff_eq,
    decide_eq_true_eq, Nat.mul_comm w 8, and_assoc]

/-! ### Loads and stores (R74 to R76) -/

section

variable {i : Instr} {s : State} {g : Guard} {d : SDst} {a b : SOp} {disp : BitVec 20} {n : Nat}

section

variable {signed : Bool} (row : exec i s = settle s (loadS n signed g d a disp s))
include row

theorem exec_load_stops {e : Stop} (on : guardOn (curCtx s) g = true)
    (stops : viewStop (cur s) 2 1 (memEa (curCtx s) a disp) n true = some e) : exec i s = .next (takeStop s.sched.cur e s) := by
  rw [row]
  simp [loadS, on, stops]

theorem resultS_of_loadS {v : Word}
    (clear : guardOn (curCtx s) g = true → viewStop (cur s) 2 1 (memEa (curCtx s) a disp) n true = none)
    (value : (let bytes := leNat (viewRead s s.sched.cur (memEa (curCtx s) a disp) n)
      if signed then BitVec.ofInt 64 (sInt (8 * n) bytes) else BitVec.ofNat 64 bytes) = v) :
    Spec.resultS g i s (voidS (curCtx s) a) 0 4 d v 0 := by
  have goes : (if guardOn (curCtx s) g then viewStop (cur s) 2 1 (memEa (curCtx s) a disp) n true else none) = none :=
    ite_eq_right_iff.2 clear
  subst value
  refine resultS_of_exec ?_
  rw [row]
  simp only [loadS, goes]
  rfl

end

section

variable (row : exec i s = settle s (storeS n g b a disp s))
include row

theorem exec_store_off (off : guardOn (curCtx s) g = false) :
    exec i s = .next (setCtx s (noteVoid (curCtx s) (voidP (curCtx s) g.p))) := by
  rw [row]
  simp [storeS, off]

theorem exec_store_stops {e : Stop} (on : guardOn (curCtx s) g = true)
    (stops : viewStop (cur s) 2 1 (memEa (curCtx s) a disp) n false = some e) : exec i s = .next (takeStop s.sched.cur e s) := by
  rw [row]
  simp [storeS, on, stops]

theorem exec_store_writes (on : guardOn (curCtx s) g = true)
    (clear : viewStop (cur s) 2 1 (memEa (curCtx s) a disp) n false = none) :
    exec i s = .next (viewWrite
      (setCtx s (noteVoid (curCtx s) (voidP (curCtx s) g.p || voidS (curCtx s) a || voidS (curCtx s) b)))
      s.sched.cur (memEa (curCtx s) a disp) (leBytes n (valS (curCtx s) b).toNat)) := by
  rw [row]
  simp [storeS, on, clear]

end

end

/-- Settles O5: a load lands the bytes of what its core addresses and a store writes them there, each unless its range is left
(`viewStop_outside`). -/
theorem scalarMemory : Obligations.ScalarMemory := by
  unfold Obligations.ScalarMemory
  refine ⟨fun g d a disp s => ?loads, fun g b a disp s => ?stores⟩
  case loads =>
    intro c ea bytes fits ld
    have clear : ∀ {n}, fits n → viewStop (cur s) 2 1 ea n true = none := by
      intro n inside
      by_cases handler : (cur s).svc.isSome = true
      · exact viewStop_handler handler (by simpa [fits, handler] using inside) true
      · obtain ⟨range, good⟩ : ea + n ≤ 0x40000 ∧ spadBad (cur s) ea n = false := by simpa [fits, handler] using inside
        exact viewStop_spad (by simpa using handler) range fun _ => good
    have loads : ∀ {i : Instr} {n : Nat} {signed : Bool} {v : Word}, exec i s = settle s (loadS n signed g d a disp s) →
        (if signed then BitVec.ofInt 64 (sInt (8 * n) (bytes n)) else BitVec.ofNat 64 (bytes n)) = v → ld i n v :=
      fun row value => ⟨fun _ inside => resultS_of_loadS row (fun _ => clear inside) value,
        fun off => resultS_of_loadS row (fun on => absurd (off.symm.trans on) Bool.false_ne_true) value,
        fun on core out => exec_load_stops row on (viewStop_outside core out true)⟩
    have signed : ∀ n v, BitVec.ofInt 64 (sInt n v) = BitVec.ofInt 64 (BitVec.ofNat n v).toInt := fun n v =>
      congrArg (BitVec.ofInt 64) (sInt_eq_toInt n v)
    exact ⟨loads (signed := true) rfl (signed 8 _), loads (signed := false) rfl rfl, loads (signed := true) rfl (signed 16 _),
      loads (signed := false) rfl rfl, loads (signed := true) rfl (signed 32 _), loads (signed := false) rfl rfl,
      loads (signed := false) rfl rfl⟩
  case stores =>
    intro c y ea st
    have stores : ∀ {i : Instr} {n : Nat}, exec i s = settle s (storeS n g b a disp s) → st i n := by
      intro i n row
      refine ⟨fun on core inside => ?spad, fun on handler inside => ?window,
        fun on core out => exec_store_stops row on (viewStop_outside core out false),
        fun off => onlyReads_of_exec (exec_store_off row off)⟩
      case spad =>
        refine ⟨spadWrite (cur s) ea (leBytes n y.toNat), _, readFlags_noteVoid .., ?_, rfl, fun p => ?_, fun m w => ?_⟩
        · rw [exec_store_writes row on (viewStop_spad core inside nofun), viewWrite_setCtx_spad core]
          rfl
        · exact mRead_mWriteN_leBytes (cur s).spad ea n y p
        · rw [mem_badWords_spadWrite, leBytes_length]
      case window =>
        refine ⟨_, _, readFlags_noteVoid .., ?_, fun p => mRead_mWriteN_leBytes s.store _ n y p⟩
        rw [exec_store_writes row on (viewStop_handler handler inside false), viewWrite_setCtx_handler handler]
        rfl
    exact ⟨stores rfl, stores rfl, stores rfl, stores rfl⟩

end Sys2Proof.Machine
end

section
/-! Proofs of the family of spec/05: branches (O6) and loops (O7). -/

namespace Sys2Proof.Machine

/-! ### How an instruction that changes its context completes -/

/-- An instruction whose context has, beside what reading notes in its flags, the fields of `c`. -/
theorem setsCtx_of_exec {i : Instr} {s : State} {void : Bool} {c : Ctx}
    (row : exec i s = .next (setCtx s { c with flags := (noteVoid (curCtx s) void).flags })) : Spec.setsCtx i s void c :=
  ⟨_, readFlags_noteVoid .., row⟩

/-- An instruction that puts a result in flight. -/
theorem flies_of_exec {i : Instr} {s : State} {void : Bool} {slot lat : Nat} {r : Res} {f : Flags}
    (row : exec i s = .next (setCtx s (fly (noteVoid (curCtx s) void) slot lat r f))) : Spec.flies i s void slot lat r f :=
  ⟨_, readFlags_noteVoid .., row⟩

/-! ### Branches (R78, R84) -/

theorem branchEntry_eq (an : An) (taken : Bool) (t : Pc) :
    branchEntry an taken t = if taken then Npc.mk t (an == .tk) true else ⟨0, an == .nt, false⟩ := by
  cases taken <;> cases an <;> rfl

theorem relTarget_eq (imm : BitVec 32) (c : Ctx) : relTarget imm c = BitVec.ofInt 32 (c.pc.toNat + imm.toInt) := by
  rw [BitVec.ofInt_add, BitVec.ofInt_natCast, BitVec.ofNat_toNat, BitVec.setWidth_eq, BitVec.ofInt_toInt]
  rfl

theorem regTarget_eq (a : SOp) (imm : BitVec 32) (c : Ctx) :
    regTarget a imm c = BitVec.ofInt 32 ((valS c a).toNat + imm.toInt) := by
  rw [BitVec.ofInt_add, BitVec.ofInt_natCast, BitVec.ofNat_toNat, BitVec.ofInt_toInt]
  rfl

/-- A branch leaves its context but for its entry and what reading notes. -/
theorem branch_eq (g : Guard) (an : An) (void : Ctx → Bool) (target : Ctx → Pc) (c : Ctx) :
    branch g an void target c =
      { c with
        flags := (noteVoid c (voidP c g.p || (guardOn c g && void c))).flags
        entry := if guardOn c g then Npc.mk (target c) (an == .tk) true else ⟨0, an == .nt, false⟩ } := by
  rw [← branchEntry_eq]
  rfl

section

variable {i : Instr} {s : State} {g : Guard} {an : An} {target : Ctx → Pc} {t : Int}
  (aims : target (curCtx s) = BitVec.ofInt 32 t)
include aims

theorem setsCtx_of_branch {void : Ctx → Bool} (row : exec i s = .next (setCtx s (branch g an void target (curCtx s)))) :
    Spec.setsCtx i s (voidP (curCtx s) g.p || (guardOn (curCtx s) g && void (curCtx s)))
      { curCtx s with
        entry := if guardOn (curCtx s) g then Npc.mk (BitVec.ofInt 32 t) (an == .tk) true else ⟨0, an == .nt, false⟩ } := by
  refine setsCtx_of_exec ?_
  rw [row, branch_eq, aims]

/-- A branch that reads no operand for its target. -/
theorem setsCtx_of_relative (row : exec i s = .next (setCtx s (branch g an (fun _ => false) target (curCtx s)))) :
    Spec.setsCtx i s (voidP (curCtx s) g.p)
      { curCtx s with
        entry := if guardOn (curCtx s) g then Npc.mk (BitVec.ofInt 32 t) (an == .tk) true else ⟨0, an == .nt, false⟩ } := by
  have branched := setsCtx_of_branch aims row
  rwa [Bool.and_false, Bool.or_false] at branched

end

/-- Where what a `call` has pending goes: not taken it is a zero, which goes to the belt only (R32). -/
def callDst (d : SDst) (taken : Bool) : SDst :=
  if taken then d else match d with | .belt => .belt | _ => .discard

/-- A `call`: the branch, and what is pending for the bundle after the second delay bundle. -/
theorem setsCtx_call (g : Guard) (an : An) (d : SDst) (imm : BitVec 32) (s : State) :
    Spec.setsCtx (.call g an d imm) s (voidP (curCtx s) g.p)
      { curCtx s with
        entry := if guardOn (curCtx s) g then Npc.mk (BitVec.ofInt 32 ((curCtx s).pc.toNat + imm.toInt)) (an == .tk) true
          else ⟨0, an == .nt, false⟩
        rets := (curCtx s).rets ++ [{
          left := 3, slot := 0, seq := (curCtx s).bc, dst := callDst d (guardOn (curCtx s) g), addr := guardOn (curCtx s) g,
          val := 0 }] } := by
  refine setsCtx_of_exec ?_
  show settle s (issueCall g an d imm s) = _
  simp only [issueCall, onCtx_ok, settle_ok, branch_eq, relTarget_eq, Bool.and_false, Bool.or_false]
  rfl

/-- Settles O6: each branch makes the entry of its target (`branch_eq`), and a call has its return address pending besides. -/
theorem branches : Obligations.Branches := by
  unfold Obligations.Branches
  intro g an d a imm s c x taken entry voidA
  have ret : regTarget a 0 c = BitVec.ofInt 32 x.toNat := by exact (regTarget_eq a 0 c).trans (congrArg _ (add_zero _))
  have call := setsCtx_call g an d imm s
  refine ⟨setsCtx_of_relative (relTarget_eq imm c) rfl, setsCtx_of_branch (void := (voidS · a)) (regTarget_eq a imm c) rfl,
    setsCtx_of_branch (void := (voidS · a)) ret rfl, fun on => ?taken, fun off => ⟨callDst d false, ?_, ?_, ?_⟩⟩
  case taken =>
    rw [show guardOn (curCtx s) g = true from on] at call
    simp only [entry, on]
    exact call
  · rintro rfl
    rfl
  · cases d <;> simp [callDst]
  · rw [show guardOn (curCtx s) g = false from off] at call
    simp only [entry, off]
    exact call

/-! ### Loops (R85, R86) -/

/-- What `loop` leaves in the predicates: `p8` set, `p9` to `p15` clear. -/
theorem loopPreds_getLsbD (p : BitVec 16) {i : Nat} (h : i < 16) :
    ((p &&& 0x00FF) ||| 0x0100).getLsbD i = if i < 8 then p.getLsbD i else decide (i = 8) := by
  interval_cases i <;> simp

theorem lowByte_getLsbD (p : BitVec 16) {i : Nat} (h : i < 16) : (p &&& 0x00FF).getLsbD i = (decide (i < 8) && p.getLsbD i) := by
  interval_cases i <;> simp

/-- The stage predicates after a rotation (R34, R86). -/
theorem rotateStages_preds_getLsbD (c : Ctx) (new8 : Bool) {i : Nat} (h : i < 16) :
    (rotateStages c new8).preds.getLsbD i = if i < 8 then c.preds.getLsbD i else if i = 8 then new8
      else c.preds.getLsbD (i - 1) && !c.pvoid.getLsbD (i - 1) := by
  cases new8 <;> interval_cases i <;> simp [rotateStages]

theorem count_eq_ofInt (x : Word) (imm : BitVec 32) : x + imm.signExtend 64 = BitVec.ofInt 64 (x.toNat + imm.toInt) := by
  rw [BitVec.ofInt_add, BitVec.ofInt_natCast, BitVec.ofNat_toNat, BitVec.setWidth_eq]
  rfl

/-! The cases of `loopb`, in the order of its tests (R86). -/

theorem loopbStep_idle {c : Ctx} (idle : c.stages = 0) : loopbStep c = (c, false) := if_pos idle

theorem loopbStep_counts {c : Ctx} (staged : c.stages ≠ 0) (more : 0 < c.lc.toNat) :
    loopbStep c = (rotateStages { c with lc := c.lc - 1 } true, true) := by
  have counting : c.lc ≠ 0 := fun zero => by simp [zero] at more
  exact (if_neg staged).trans (if_pos counting)

theorem loopbStep_drains {c : Ctx} (more : 1 < c.stages.toNat) (zero : c.lc = 0) :
    loopbStep c = (rotateStages { c with stages := c.stages - 1 } false, true) := by
  have staged : c.stages ≠ 0 := fun idle => by simp [idle] at more
  exact (if_neg staged).trans ((if_neg (not_not.2 zero)).trans (if_pos more))

theorem loopbStep_ends {c : Ctx} (last : c.stages = 1) (zero : c.lc = 0) :
    loopbStep c = (rotateStages { c with stages := 0 } false, false) :=
  (if_neg (by simp [last])).trans ((if_neg (not_not.2 zero)).trans (if_neg (by simp [last])))

theorem exec_loopb_on {g : Guard} {imm : BitVec 32} {s : State} {d : Ctx} {taken : Bool} (on : guardOn (curCtx s) g = true)
    (does : loopbStep (noteVoid (curCtx s) (voidP (curCtx s) g.p)) = (d, taken)) :
    exec (.loopb g imm) s = .next (setCtx s { d with
      entry := if taken then ⟨BitVec.ofInt 32 ((curCtx s).pc.toNat + imm.toInt), false, true⟩ else {} }) := by
  show settle s (issueLoopb g imm s) = _
  simp only [issueLoopb, onCtx_ok, settle_ok, on, if_true, does, branchEntry_eq, relTarget_eq]
  rfl

theorem exec_loopb_off {g : Guard} {s : State} (imm : BitVec 32) (off : guardOn (curCtx s) g = false) :
    exec (.loopb g imm) s = .next (setCtx s { noteVoid (curCtx s) (voidP (curCtx s) g.p) with entry := {} }) := by
  show settle s (issueLoopb g imm s) = _
  simp [issueLoopb, off]

theorem exec_loop_on {g : Guard} {s : State} (a : SOp) (imm : BitVec 32) (stg : Fin 8) (on : guardOn (curCtx s) g = true) :
    exec (.loop g a imm stg) s = .next (setCtx s { noteVoid (curCtx s) (voidP (curCtx s) g.p || voidS (curCtx s) a) with
      lc := BitVec.ofInt 64 ((valS (curCtx s) a).toNat + imm.toInt)
      stages := BitVec.ofNat 4 (stg.val + 1)
      preds := ((curCtx s).preds &&& 0x00FF) ||| 0x0100
      pvoid := (curCtx s).pvoid &&& 0x00FF }) := by
  show settle s (issueLoop g a imm stg s) = _
  simp only [issueLoop, onCtx_ok, settle_ok, on, if_true, count_eq_ofInt]

theorem exec_loop_off {g : Guard} {s : State} (a : SOp) (imm : BitVec 32) (stg : Fin 8) (off : guardOn (curCtx s) g = false) :
    exec (.loop g a imm stg) s = .next (setCtx s (noteVoid (curCtx s) (voidP (curCtx s) g.p))) := by
  show settle s (issueLoop g a imm stg s) = _
  simp [issueLoop, off]

/-- Settles O7: `loop` by its assignments, and `loopb` in the order of its tests (R86). -/
theorem loops : Obligations.Loops := by
  unfold Obligations.Loops
  intro g a imm stg s c rotates back
  have rotated : ∀ (x : Ctx) (new8 : Bool), x.preds = c.preds → x.pvoid = c.pvoid →
      rotates new8 (rotateStages x new8).preds (rotateStages x new8).pvoid := by
    intro x new8 preds pvoid i hi
    rw [rotateStages_preds_getLsbD x new8 hi, preds, pvoid]
    exact ⟨rfl, (lowByte_getLsbD x.pvoid hi).trans (by rw [pvoid])⟩
  exact ⟨fun on => ⟨_, _, fun i hi => ⟨loopPreds_getLsbD c.preds hi, lowByte_getLsbD c.pvoid hi⟩,
      setsCtx_of_exec (exec_loop_on a imm stg on)⟩,
    fun off => onlyReads_of_exec (exec_loop_off a imm stg off),
    fun on idle => setsCtx_of_exec (exec_loopb_on on (loopbStep_idle idle)),
    fun on staged more => ⟨_, _, rotated c true rfl rfl, setsCtx_of_exec (exec_loopb_on on (loopbStep_counts staged more))⟩,
    fun on more zero => ⟨_, _, rotated c false rfl rfl, setsCtx_of_exec (exec_loopb_on on (loopbStep_drains more zero))⟩,
    fun on last zero => ⟨_, _, rotated c false rfl rfl, setsCtx_of_exec (exec_loopb_on on (loopbStep_ends last zero))⟩,
    fun off => setsCtx_of_exec (exec_loopb_off imm off)⟩

end Sys2Proof.Machine
end

section
/-! Proofs of the family of spec/05: waits (O8). -/

namespace Sys2Proof.Machine

/-! ### The end of a wait (R87) -/

/-- The end of the only wait of a context: its result lands in the next cycle. -/
theorem endWait_only {c : Ctx} {w : Wait} (only : c.waits = [w]) (v : Word) :
    endWait c w v =
      { c with waits := [], inflight := c.inflight ++ [⟨c.bc + 1, w.slot, w.seq, resS w.dst v, 0⟩] } := by
  have rest : c.waits.erase w = [] := by rw [only, List.erase_cons_head]
  simp [endWait, rest]

/-! ### `sleepto` (R88) -/

theorem exec_sleepto_on {g : Guard} {s : State} (a : SOp) (on : guardOn (curCtx s) g = true) :
    exec (.sleepto g a) s = .next (setCtx s (addWait (noteVoid (curCtx s) (voidP (curCtx s) g.p || voidS (curCtx s) a))
      (.sleepto (valS (curCtx s) a)) 0 .discard)) := by
  show settle s (issueSleepto g a s) = _
  simp [issueSleepto, on]

theorem exec_sleepto_off {g : Guard} {s : State} (a : SOp) (off : guardOn (curCtx s) g = false) :
    exec (.sleepto g a) s = .next (setCtx s (noteVoid (curCtx s) (voidP (curCtx s) g.p))) := by
  show settle s (issueSleepto g a s) = _
  simp [issueSleepto, off]

theorem not_sleepDone (tick : Nat) (w : Wait) :
    (!sleepDone tick w) = match w.kind with | .sleepto t => decide (tick < t.toNat) | _ => true := by
  unfold sleepDone
  cases w.kind with
  | sleepto t => exact decide_not.symm.trans (decide_eq_decide.2 not_le)
  | _ => rfl

/-! ### `mwait` (R89) -/

section

variable {g : Guard} {d : SDst} {cc : CC} {a b e : SOp} {s : State}

theorem exec_mwait_off (off : guardOn (curCtx s) g = false) :
    exec (.mwait g d cc a b e) s = .next (setCtx s (fly (noteVoid (curCtx s) (voidP (curCtx s) g.p)) 0 1 (offS d) 0)) := by
  show settle s (issueMwait g d cc a b e s) = _
  simp [issueMwait, off]

variable (on : guardOn (curCtx s) g = true)
include on

theorem exec_mwait_stops {x : Stop} (stops : viewStop (cur s) 2 1 (valS (curCtx s) a).toNat 8 true = some x) :
    exec (.mwait g d cc a b e) s = .next (takeStop s.sched.cur x s) := by
  show settle s (issueMwait g d cc a b e s) = _
  simp only [issueMwait, on, stops, if_true]
  rfl

variable (clear : viewStop (cur s) 2 1 (valS (curCtx s) a).toNat 8 true = none)
include clear

/-- An `mwait` by its first sample. -/
theorem exec_mwait_samples {v : Word} {ends : Bool}
    (sample : mwaitSample s s.sched.cur cc (valS (curCtx s) a).toNat (valS (curCtx s) b) (valS (curCtx s) e) = (v, ends)) :
    let c := noteVoid (curCtx s)
      (voidP (curCtx s) g.p || voidS (curCtx s) a || voidS (curCtx s) b || voidS (curCtx s) e)
    exec (.mwait g d cc a b e) s = .next (setCtx s (if ends then fly c 0 1 (resS d v) 0
      else addWait c (.mwait cc (valS (curCtx s) a).toNat (valS (curCtx s) b) (valS (curCtx s) e)) 0 d)) := by
  show settle s (issueMwait g d cc a b e s) = _
  simp only [issueMwait, on, clear, sample, if_true, settle_ok]

end

/-- `MWAIT_END` on a core whose only wait is an `mwait`: its sample ends it, or it waits on. -/
theorem exec_mwaitEnd_only {s : State} {core at_ slot seq : Nat} {cc : CC} {y z v : Word} {d : SDst} {ends : Bool}
    (only : (getCore s core).ctx.waits = [{ kind := .mwait cc at_ y z, slot := slot, seq := seq, dst := d }])
    (sample : mwaitSample s core cc at_ y z = (v, ends)) :
    exec (.mwaitEnd core) s = .next (setCore s core (if ends then
      { getCore s core with ctx := { (getCore s core).ctx with
          waits := []
          inflight := (getCore s core).ctx.inflight ++ [⟨(getCore s core).ctx.bc + 1, slot, seq, resS d v, 0⟩] } }
      else getCore s core)) := by
  show execMwaitEnd core s = _
  have ended := endWait_only only v
  cases ends
  · simp only [execMwaitEnd, only, List.foldl_cons, List.foldl_nil, sample]
    rfl
  · simp only [execMwaitEnd, only, List.foldl_cons, List.foldl_nil, sample, if_true, ended]

/-- Settles O8: `sleepto` and `mwait` by their cases, where a sample ends a wait when its condition holds or its tick has come. -/
theorem waits : Obligations.Waits := by
  unfold Obligations.Waits
  intro g d cc a b e core s _ c tick word ea y z void holds
  have sampled : ∀ n ea y z, mwaitSample s n cc ea y z = (word n ea, decide (holds n ea y z)) := by
    intro n ea y z
    simp only [mwaitSample, holds, Bool.decide_or, Bool.decide_eq_true]
    rfl
  refine ⟨fun on => setsCtx_of_exec (exec_sleepto_on a on), fun off => onlyReads_of_exec (exec_sleepto_off a off),
    fun on clear ends => flies_of_exec ?now, fun on clear goes => setsCtx_of_exec ?later, fun off => flies_of_exec ?off,
    fun on host out => exec_mwait_stops on (viewStop_outside host out true), ?wake, fun at_ slot seq y z only => ?ended⟩
  case now =>
    rw [exec_mwait_samples on clear (sampled _ _ _ _), if_pos (decide_eq_true ends)]
  case later =>
    rw [exec_mwait_samples on clear (sampled _ _ _ _), if_neg (by simpa using goes)]
    rfl
  case off =>
    rw [exec_mwait_off off]
    cases d <;> rfl
  case wake =>
    show execSleeptoWake core s = _
    simp only [execSleeptoWake, not_sleepDone]
    rfl
  case ended =>
    rw [exec_mwaitEnd_only only (sampled _ _ _ _)]
    simp only [decide_eq_true_eq]

end Sys2Proof.Machine
end

section
/-! Proofs of the family of spec/05: barrier objects and drains (O36). -/

namespace Sys2Proof.Machine

/-! ### Barrier objects (R201, R202) -/

/-- An armed object: the high bits of the old one, its phase, turned when there is nothing to count, else live with its count. -/
theorem barArmed_eq (v total : Nat) : barArmed v total = v / 2 ^ 28 * 2 ^ 28 +
    if total = 0 then (1 - v / 2 ^ 24 % 2) * 2 ^ 24 else v / 2 ^ 24 % 2 * 2 ^ 24 + 2 ^ 25 + total := by
  have kept : v - v / 2 ^ 0 % 2 ^ 28 = v / 2 ^ 28 * 2 ^ 28 := by omega
  simp only [barArmed, bits, kept, pow_one]
  split
  · rfl
  · ring

/-- The fields of a barrier object that `bari` has armed: the count, the phase, the live bit, and no fault. -/
theorem barArmed_fields {v total : Nat} (object : v < 2 ^ 64) (fits : total < 2 ^ 24) :
    barArmed v total < 2 ^ 64 ∧ bits (barArmed v total) 0 24 = total ∧
      (barArmed v total).testBit 25 = decide (total ≠ 0) ∧ (barArmed v total).testBit 26 = false ∧
      (barArmed v total).testBit 27 = false ∧ (barArmed v total).testBit 24 = (v.testBit 24 != decide (total = 0)) ∧
      bits (barArmed v total) 28 36 = bits v 28 36 := by
  have phase : v / 2 ^ 24 % 2 < 2 := Nat.mod_lt _ two_pos
  have high : v / 2 ^ 28 < 2 ^ 36 := by omega
  simp only [barArmed_eq, bits, Nat.testBit_eq_decide_div_mod_eq, decide_eq_false_iff_not, decide_eq_decide]
  generalize v / 2 ^ 24 % 2 = p at phase
  generalize v / 2 ^ 28 = h at high
  by_cases none : total = 0
  · subst none
    have turned : decide ((h * 2 ^ 28 + (1 - p) * 2 ^ 24) / 2 ^ 24 % 2 = 1) = !decide (p = 1) := by
      rw [← decide_not]
      exact decide_eq_decide.2 (by omega)
    simp only [if_true, turned, decide_true, Bool.bne_true]
    refine ⟨?_, ?_, ?_, ?_, ?_, trivial, ?_⟩ <;> omega
  · have same : decide ((h * 2 ^ 28 + (p * 2 ^ 24 + 2 ^ 25 + total)) / 2 ^ 24 % 2 = 1) = decide (p = 1) :=
      decide_eq_decide.2 (by omega)
    simp only [none, if_false, same, decide_false, Bool.bne_false]
    refine ⟨?_, ?_, ?_, ?_, ?_, trivial, ?_⟩ <;> omega

section

variable {n m : Nat}

/-- A handler's data window holds no barrier object (R235). -/
theorem viewStop_barAddr_handler {k : Core} (handler : k.svc.isSome = true) (rd : Bool) :
    viewStop k 2 m (barAddr n) 8 rd = some { cause := .xlate, smask := m, engine := 2, reason := 4, va := some (barAddr n) } := by
  have outside : ¬ barAddr n + 8 ≤ 0x400 := by unfold barAddr; omega
  simp [viewStop, viewOk, handler, outside]

variable {k : Core} (host : k.svc = none) (inside : n ≤ 63)
include host inside

/-- The barrier objects stand in the scratchpad (R201). -/
theorem viewOk_barAddr : viewOk k (barAddr n) 8 = true := by
  rw [viewOk_core host, decide_eq_true_eq]
  unfold barAddr
  omega

theorem viewStop_barAddr_clear {rd : Bool} (good : rd = true → spadBad k (barAddr n) 8 = false) :
    viewStop k 2 m (barAddr n) 8 rd = none := by
  cases rd with
  | false => simp [viewStop, viewOk_barAddr host inside]
  | true => simp [viewStop, viewOk_barAddr host inside, good rfl]

theorem viewStop_barAddr_bad (bad : spadBad k (barAddr n) 8 = true) :
    viewStop k 2 m (barAddr n) 8 true =
      some { cause := .dataerr, smask := m, engine := 2, reason := 13, va := some (barAddr n) } := by
  simp [viewStop, viewOk_barAddr host inside, host, bad, sramStop]

end

/-- A doubleword of a scratchpad. -/
theorem leNat_mReadN_lt (m : SMap Byte) (a : Nat) : leNat (mReadN m a 8) < 2 ^ 64 := by
  simpa using leNat_lt (mReadN m a 8)

theorem viewRead_core {s : State} {core : Nat} (host : (getCore s core).svc = none) (ea n : Nat) :
    viewRead s core ea n = mReadN (getCore s core).spad ea n :=
  if_neg (Option.not_isSome_iff_eq_none.2 host)

theorem viewWrite_core {s : State} {core : Nat} (host : (getCore s core).svc = none) (ea : Nat) (bs : List Byte) :
    viewWrite s core ea bs = setCore s core (spadWrite (getCore s core) ea bs) :=
  if_neg (Option.not_isSome_iff_eq_none.2 host)

/-! ### Rows that put a word in flight or wait -/

theorem replies_of_exec {i : Instr} {s : State} {g : Guard} {d : SDst} {void : Bool} {w : Word} {f : Flags}
    (row : exec i s = .next (setCtx s
      (fly (noteVoid (curCtx s) (voidP (curCtx s) g.p || void)) (slotC s) 1 (resS d w) f))) :
    Spec.replies g d i s void s w f := by
  refine ⟨_, readFlags_noteVoid .., ?_⟩
  rw [row]
  cases d <;> rfl

theorem offC_of_exec {i : Instr} {s : State} {g : Guard} {d : SDst}
    (row : guardOn (curCtx s) g = false →
      exec i s = .next (setCtx s (fly (noteVoid (curCtx s) (voidP (curCtx s) g.p)) (slotC s) 1 (offS d) 0))) :
    Spec.offC g d i s := by
  intro off
  refine flies_of_exec ?_
  rw [row off]
  cases d <;> rfl

section

variable {s : State} {core : Nat} {probe : WaitKind → Option Word} {kind : WaitKind} {slot seq : Nat} {d : SDst}
  (only : (getCore s core).ctx.waits = [{ kind := kind, slot := slot, seq := seq, dst := d }])
include only

theorem endWaits_ends {w : Word} (ends : probe kind = some w) :
    endWaits core probe s = setCore s core { getCore s core with ctx := { (getCore s core).ctx with
      waits := []
      inflight := (getCore s core).ctx.inflight ++ [⟨(getCore s core).ctx.bc + 1, slot, seq, resS d w, 0⟩] } } := by
  have ended := endWait_only only w
  simp only [endWaits, only, List.foldl_cons, List.foldl_nil, ends, ended]

theorem endWaits_waits (goes : probe kind = none) : endWaits core probe s = setCore s core (getCore s core) := by
  simp only [endWaits, only, List.foldl_cons, List.foldl_nil, goes]

end

/-! ### `bari` and `barw` (R202) -/

section

variable {g : Guard} {d : SDst} {pol : Fin 8} {a b : SOp} {s : State}

theorem offC_bari : Spec.offC g d (.bari g d pol a b) s := offC_of_issueC rfl

theorem offC_barw : Spec.offC g d (.barw g d pol a b) s := by
  refine offC_of_exec fun off => ?_
  show settle s (issueBarw g d pol a b s) = _
  simp [issueBarw, off]

variable (on : guardOn (curCtx s) g = true)
include on

theorem replies_bari_bad (bad : 63 < valN s a ∨ 2 ^ 24 ≤ valN s b) :
    Spec.replies g d (.bari g d pol a b) s (void2 a b (curCtx s)) s stBadarg 0 :=
  replies_of_issueC rfl on (if_pos bad) rfl

theorem replies_barw_bad (bad : 63 < valN s a) :
    Spec.replies g d (.barw g d pol a b) s (voidS (curCtx s) a || voidS (curCtx s) b) s stBadarg 0 := by
  refine replies_of_exec ?_
  show settle s (issueBarw g d pol a b s) = _
  simp [issueBarw, on, bad, Bool.or_assoc]

variable (inside : valN s a ≤ 63)
include inside

theorem stopsC_barw {cause : Cause} {engine reason : Nat} {va : Option Nat}
    (stops : viewStop (cur s) 2 (maskC s) (barAddr (valN s a)) 8 true =
      some { cause := cause, smask := maskC s, engine := engine, reason := reason, va := va }) :
    Spec.stopsC (.barw g d pol a b) s cause engine reason va := by
  show settle s (issueBarw g d pol a b s) = _
  simp only [issueBarw, on, if_true, not_lt.2 inside, if_false, stops]
  rfl

section

variable (clear : viewStop (cur s) 2 (maskC s) (barAddr (valN s a)) 8 true = none)
include clear

theorem setsCtx_barw_ends {w : Word} (ends : barwSample s s.sched.cur (valN s a) (valS (curCtx s) b) = some w) :
    Spec.setsCtx (.barw g d pol a b) s (voidP (curCtx s) g.p || (voidS (curCtx s) a || voidS (curCtx s) b))
      { curCtx s with rets := (curCtx s).rets ++ [⟨1, slotC s, (curCtx s).bc, d, false, w⟩] } := by
  refine setsCtx_of_exec ?_
  show settle s (issueBarw g d pol a b s) = _
  simp only [issueBarw, on, if_true, not_lt.2 inside, if_false, clear, ends, Bool.or_assoc]
  rfl

theorem setsCtx_barw_waits (goes : barwSample s s.sched.cur (valN s a) (valS (curCtx s) b) = none) :
    Spec.setsCtx (.barw g d pol a b) s (voidP (curCtx s) g.p || (voidS (curCtx s) a || voidS (curCtx s) b))
      { curCtx s with
        waits := (curCtx s).waits ++ [{
          kind := .barw (valN s a) (valS (curCtx s) b), slot := slotC s, seq := (curCtx s).bc, dst := d }] } := by
  refine setsCtx_of_exec ?_
  show settle s (issueBarw g d pol a b s) = _
  simp only [issueBarw, on, if_true, not_lt.2 inside, if_false, clear, goes, Bool.or_assoc]
  rfl

end

variable (fits : valN s b < 2 ^ 24)
include fits

theorem stopsC_bari (handler : (cur s).svc.isSome = true) :
    Spec.stopsC (.bari g d pol a b) s .xlate 2 4 (some (barAddr (valN s a))) := by
  refine stopsC_of_issueC rfl on ((if_neg (not_or.2 ⟨not_lt.2 inside, not_le.2 fits⟩)).trans ?_)
  simp only [viewStop_barAddr_handler handler]

theorem replies_bari (host : (cur s).svc = none) :
    Spec.replies g d (.bari g d pol a b) s (void2 a b (curCtx s))
      (setCur s (spadWrite (cur s) (barAddr (valN s a))
        (leBytes 8 (barArmed (leNat (mReadN (cur s).spad (barAddr (valN s a)) 8)) (valN s b))))) stDone 0 := by
  refine replies_of_issueC rfl on ((if_neg (not_or.2 ⟨not_lt.2 inside, not_le.2 fits⟩)).trans ?_) ?_
  · have clear : viewStop (cur s) 2 (maskC s) (barAddr (valN s a)) 8 false = none :=
      viewStop_barAddr_clear host inside (absurd · Bool.false_ne_true)
    simp only [clear, viewRead_core host, viewWrite_core host]
    rfl
  · rw [curCtx_setCur]
    rfl

end

section

variable {s : State} {core n : Nat} {z : Word} (host : (getCore s core).svc = none)
include host

theorem barwSample_dead (dead : (leNat (mReadN (getCore s core).spad (barAddr n) 8)).testBit 25 = false) :
    barwSample s core n z = some (statusW 0 (leNat (mReadN (getCore s core).spad (barAddr n) 8))) := by
  simp only [barwSample, viewRead_core host, dead, Bool.not_false, if_true]

variable (live : (leNat (mReadN (getCore s core).spad (barAddr n) 8)).testBit 25 = true)
include live

theorem barwSample_late (late : z.toNat ≤ coreTick s core) :
    barwSample s core n z = some (statusW 5 (leNat (mReadN (getCore s core).spad (barAddr n) 8))) := by
  simp [barwSample, viewRead_core host, live, late]

theorem barwSample_waits (early : coreTick s core < z.toNat) : barwSample s core n z = none := by
  simp [barwSample, viewRead_core host, live, early]

end

/-! ### Drains (R208) -/

/-- What `drained` says: every request issued earlier, but for the steps of a stream, and every `tlbi` has performed. -/
theorem drained_iff {s : State} {core scope upto : Nat} : drained s core scope upto = true ↔
    (∀ q ∈ s.reqs, q.1 < upto → q.2.core = core → (∀ cl n k, q.2.kind ≠ .step cl n k) → reqAt s q.1 q.2 scope = true) ∧
      ∀ q ∈ s.tlbis, q.1 < upto → q.2.core = core → scope < q.2.scope := by
  have step : ∀ q : ReqKind, (∀ cl n k, q ≠ .step cl n k) ↔ ¬ isStep q = true := by
    intro q
    cases q <;> simp [isStep]
  rw [drained, Bool.and_eq_true, List.all_eq_true, List.all_eq_true]
  refine and_congr (forall₂_congr fun q _ => ?_) (forall₂_congr fun q _ => ?_)
  · simp only [Bool.or_eq_true, decide_eq_true_eq, bne_iff_ne, ← not_lt, step]
    tauto
  · simp only [Bool.or_eq_true, decide_eq_true_eq, bne_iff_ne]
    rw [← not_lt]
    tauto

section

variable {g : Guard} {s : State} {sc : Scope} (on : guardOn (curCtx s) g = true) (d : SDst) (pol : Fin 8)
include on

theorem setsCtx_drain_ends (ends : drained s s.sched.cur sc.code s.nextReq = true) :
    Spec.setsCtx (.drain g d pol sc) s (voidP (curCtx s) g.p)
      { curCtx s with rets := (curCtx s).rets ++ [⟨1, slotC s, (curCtx s).bc, d, false, stDone⟩] } := by
  refine setsCtx_of_exec ?_
  show settle s (issueDrain g d pol sc s) = _
  simp only [issueDrain, on, if_true, ends]
  rfl

theorem setsCtx_drain_waits (goes : ¬ drained s s.sched.cur sc.code s.nextReq = true) :
    Spec.setsCtx (.drain g d pol sc) s (voidP (curCtx s) g.p)
      { curCtx s with
        waits := (curCtx s).waits ++ [{ kind := .drain sc s.nextReq, slot := slotC s, seq := (curCtx s).bc, dst := d }] } := by
  refine setsCtx_of_exec ?_
  show settle s (issueDrain g d pol sc s) = _
  simp only [issueDrain, on, if_true, goes]
  rfl

end

theorem offC_drain (g : Guard) (d : SDst) (pol : Fin 8) (sc : Scope) (s : State) : Spec.offC g d (.drain g d pol sc) s := by
  refine offC_of_exec fun off => ?_
  show settle s (issueDrain g d pol sc s) = _
  simp [issueDrain, off]

/-- Settles O36: each row by its cases, with the object that `bari` arms (`barArmed_fields`) and what a drain waits for
(`drained_iff`). -/
theorem barriersAndDrains : Obligations.BarriersAndDrains := by
  unfold Obligations.BarriersAndDrains
  intro g d pol a b sc core s c me n total z void arm wait dr at_ object done atOnce waits ended
  refine ⟨offC_bari, offC_barw, offC_drain g d pol sc s, fun on => ⟨replies_bari_bad on, replies_barw_bad on,
    fun inside fits handler => stopsC_bari on inside fits handler,
    fun inside fits host => ⟨_, ?object, replies_bari on inside fits host, ?fields⟩,
    fun inside handler => stopsC_barw on inside (viewStop_barAddr_handler handler true),
    fun inside host bad => stopsC_barw on inside (viewStop_barAddr_bad host inside bad),
    fun inside host good => ?barw, fun ends => ?drainEnds, fun goes => ?drainWaits⟩,
    fun slot seq => ⟨fun n z host only => ?barwEnd, fun upto only => ?drainEnd⟩⟩
  case object =>
    obtain ⟨word, -⟩ := barArmed_fields (leNat_mReadN_lt (cur s).spad (at_ n)) fits
    exact word
  case fields =>
    obtain ⟨-, fields⟩ := barArmed_fields (leNat_mReadN_lt (cur s).spad (at_ n)) fits
    exact fields
  case barw =>
    have clear := viewStop_barAddr_clear (m := maskC s) (rd := true) host inside fun _ => good
    exact ⟨fun dead => setsCtx_barw_ends on inside clear (barwSample_dead host dead),
      fun live late => setsCtx_barw_ends on inside clear (barwSample_late host live late),
      fun live early => setsCtx_barw_waits on inside clear (barwSample_waits host live early)⟩
  case drainEnds =>
    show Spec.setsCtx dr s (voidP c g.p || false) _
    rw [Bool.or_false]
    exact setsCtx_drain_ends on d pol (drained_iff.2 ends)
  case drainWaits =>
    show Spec.setsCtx dr s (voidP c g.p || false) _
    rw [Bool.or_false]
    exact setsCtx_drain_waits on d pol (mt drained_iff.1 goes)
  case barwEnd =>
    exact ⟨fun dead => congrArg _ (endWaits_ends only (barwSample_dead host dead)),
      fun live late => congrArg _ (endWaits_ends only (barwSample_late host live late)),
      fun live early => congrArg _ (endWaits_waits only (barwSample_waits host live early))⟩
  case drainEnd =>
    exact ⟨fun ends => congrArg _ (endWaits_ends only (if_pos (drained_iff.2 ends))),
      fun goes => congrArg _ (endWaits_waits only (if_neg (mt drained_iff.1 goes)))⟩

end Sys2Proof.Machine
end

section
/-! Proofs of the family of spec/05: triggers, calls and exits (O9). -/

namespace Sys2Proof.Machine

/-! ### `trig` (R91, R235) -/

section

variable {g : Guard} {s : State}

theorem exec_trig_records (on : guardOn (curCtx s) g = true) (host : (cur s).svc = none) {blk : Block} (block : (cur s).blk = some blk) :
    exec (.trig g) s = .next (setCur s { cur s with
      ctx := { curCtx s with flags := (noteVoid (curCtx s) (voidP (curCtx s) g.p)).flags }
      blk := some { blk with trig := if blk.trig.isSome then blk.trig else some s.nextReq } }) := by
  have trigger : some (blk.trig.getD s.nextReq) = if blk.trig.isSome then blk.trig else some s.nextReq := by
    cases blk.trig <;> rfl
  show settle s (issueTrig g s) = _
  simp only [issueTrig, show guardOn (cur s).ctx g = true from on, host, Option.isNone_none, Bool.and_self, if_true, settle_ok,
    block, Option.map_some, trigger]
  rfl

theorem exec_trig_passes (passes : guardOn (curCtx s) g = false ∨ (cur s).svc.isSome = true) :
    exec (.trig g) s = .next (setCtx s (noteVoid (curCtx s) (voidP (curCtx s) g.p))) := by
  have none : (guardOn (cur s).ctx g && (cur s).svc.isNone) = false := by
    rcases passes with off | handler
    · rw [show guardOn (cur s).ctx g = false from off, Bool.false_and]
    · rw [← Option.not_isSome, handler, Bool.not_true, Bool.and_false]
  show settle s (issueTrig g s) = _
  simp only [issueTrig, none]
  rfl

/-! ### `svc` (R92) -/

theorem exec_svc_on (d : SDst) (n : BitVec 8) (a b e : SOp) (on : guardOn (curCtx s) g = true) :
    exec (.svc g d n a b e) s = .next (setCtx s {
      noteVoid (curCtx s) (voidP (curCtx s) g.p || voidS (curCtx s) a || voidS (curCtx s) b || voidS (curCtx s) e) with
      svc := some ⟨n, valS (curCtx s) a, valS (curCtx s) b, valS (curCtx s) e, d, (curCtx s).bc⟩ }) := by
  show settle s (issueSvc g d n a b e s) = _
  simp only [issueSvc, onCtx_ok, settle_ok, on, if_true]

theorem exec_svc_off (d : SDst) (n : BitVec 8) (a b e : SOp) (off : guardOn (curCtx s) g = false) :
    exec (.svc g d n a b e) s = .next (setCtx s (fly (noteVoid (curCtx s) (voidP (curCtx s) g.p)) 0 1 (offS d) 0)) := by
  show settle s (issueSvc g d n a b e s) = _
  simp [issueSvc, off]

/-! ### `exit` (R91, R235) -/

theorem exec_exit_off (off : guardOn (curCtx s) g = false) :
    exec (.exit g) s = .next (setCtx s (noteVoid (curCtx s) (voidP (curCtx s) g.p))) := by
  show settle s (issueExit g s) = _
  simp only [issueExit, show guardOn (cur s).ctx g = false from off]
  rfl

variable (on : guardOn (curCtx s) g = true)
include on

theorem exec_exit_handler {h : Service} (handler : (cur s).svc = some h) :
    exec (.exit g) s = .next (setCur s { cur s with
      ctx := noteVoid (curCtx s) (voidP (curCtx s) g.p), svc := some { h with exited := true } }) := by
  show settle s (issueExit g s) = _
  simp only [issueExit, show guardOn (cur s).ctx g = true from on, if_true, handler]
  rfl

theorem exec_exit_block (host : (cur s).svc = none) :
    exec (.exit g) s = .next (endBlock s.sched.cur (setCtx s (noteVoid (curCtx s) (voidP (curCtx s) g.p)))) := by
  show settle s (issueExit g s) = _
  simp only [issueExit, show guardOn (cur s).ctx g = true from on, if_true]
  split
  · next h handler => exact absurd (handler.symm.trans host) (Option.some_ne_none h)
  · rfl

end

/-! ### The end of a block -/

/-- The end of a block changes its core, crossings, streams and cells (R91). -/
theorem endBlock_frame (c : Nat) (s : State) :
    endBlock c s = { s with
      cores := (endBlock c s).cores, xings := (endBlock c s).xings, twes := (endBlock c s).twes, jobs := (endBlock c s).jobs } := rfl

theorem getCore_endBlock_ne (s : State) {c m : Nat} (h : m ≠ c) : getCore (endBlock c s) m = getCore s m :=
  getCore_setCore_ne s c m _ h

/-- The core of a block that has ended, outside a handler. -/
def endedCore (k : Core) (nextReq : Nat) : Core :=
  { k with
    run := .idle
    ctx := { k.ctx with npc1 := {}, npc2 := {}, entry := {}, npc1Set := none, npc2Set := none, dlPut := none
                        inflight := [], latch := [], rets := [], waits := [], svc := none }
    svc := none
    mx := { k.mx with claimed := 0, prods := [], folds := [], scans := [] }
    faults := k.faults.filter (·.rank == 1), pendPre := false, pendDbg := false, killAt := none, saveDue := false, snapLeft := 0
    blk := k.blk.map fun b => { b with exited := true, trig := some (b.trig.getD nextReq), journal := [], restarted := [] } }

theorem getCore_endBlock {s : State} {c : Nat} (host : (getCore s c).svc = none) :
    getCore (endBlock c s) c = endedCore (getCore s c) s.nextReq := by
  refine (getCore_setCore s c _).trans ?_
  simp only [host]
  rfl

/-- The crossings of the block stop and lose their owner (R252). -/
theorem xings_endBlock {s : State} {c : Nat} {blk : Block} (block : (getCore s c).blk = some blk) :
    (endBlock c s).xings = s.xings.map (dropXing blk.bid) := by
  simp only [endBlock, block]
  rfl

/-- Settles O9: the three rows by their cases, and what the end of a block leaves (`getCore_endBlock`). -/
theorem triggersCallsAndExit : Obligations.TriggersCallsAndExit := by
  unfold Obligations.TriggersCallsAndExit
  refine ⟨fun g d n a b e s => ?calls, fun g s => ?exits⟩
  case calls =>
    intro c x
    refine ⟨fun on host blk block => ⟨_, readFlags_noteVoid .., exec_trig_records on host block⟩,
      fun passes => onlyReads_of_exec (exec_trig_passes passes), fun on => setsCtx_of_exec (exec_svc_on d n a b e on),
      fun off => flies_of_exec ?_⟩
    rw [exec_svc_off d n a b e off]
    cases d <;> rfl
  case exits =>
    intro c n
    refine ⟨fun off => onlyReads_of_exec (exec_exit_off off),
      fun on h handler => ⟨_, readFlags_noteVoid .., exec_exit_handler on handler⟩, fun on host blk block => ?_⟩
    have here : getCore (setCtx s (noteVoid c (voidP c g.p))) n = { cur s with ctx := noteVoid c (voidP c g.p) } := cur_setCtx s _
    have ended := getCore_endBlock (s := setCtx s (noteVoid c (voidP c g.p))) (c := n) (by rw [here]; exact host)
    rw [here, endedCore, block] at ended
    refine ⟨_, exec_exit_block on host, endBlock_frame n _,
      fun m other => (getCore_endBlock_ne _ other).trans (getCore_setCore_ne s n m _ other), ?_⟩
    rw [ended]
    exact ⟨rfl, rfl, readFlags_noteVoid .., rfl, rfl, rfl, ⟨_, rfl, rfl, rfl, rfl, rfl, rfl⟩,
      xings_endBlock (by rw [here]; exact block)⟩

end Sys2Proof.Machine
end

section
/-! Proofs of the family of spec/05: stops and double faults (O10). -/

namespace Sys2Proof.Machine

/-! ### Reading back a write of physical memory (R312) -/

/-- Under a key slot a byte stands as written: its unit is under the slot's pair, and memory holds it. -/
structure StandsUnder (s : State) (k a : Nat) (b : Byte) : Prop where
  pair : unitPair s (a / 64) = some (getKey s k).pair
  byte : mRead s.mem a = b

theorem StandsUnder.read {s : State} {k a : Nat} {b : Byte} (h : StandsUnder s k a b)
    (memory : ∀ die off, paKind a ≠ .kiln die off) : byteUnder s (some k) a = b := by
  unfold byteUnder
  split
  · next die off kiln => exact absurd kiln (memory die off)
  · simp only [h.pair, if_true, h.byte]

theorem MemOnly.key {s t : State} (h : MemOnly s t) (k : Nat) : getKey t k = getKey s k :=
  (congrArg (fun x => getKey x k) h.rest :)

theorem unitPair_retag (s : State) (k u : Nat) : unitPair (retag s k u) u = some (getKey s k).pair := by
  unfold retag
  dsimp only
  split
  · next free =>
    have untagged : smGet s.tags u = none := by
      unfold unitPair at free
      split at free
      · cases free
      · next untagged => exact untagged
    simp [unitPair, untagged]
  · next p taken =>
    split
    · next same => rw [taken, same]
    · simp [unitPair]

theorem unitPair_retag_ne {s : State} {k u v : Nat} (other : v ≠ u) (pair : unitPair s v = some (getKey s k).pair) :
    unitPair (retag s k u) v = some (getKey s k).pair := by
  unfold retag
  dsimp only
  split
  · unfold unitPair at pair ⊢
    dsimp only
    split at pair
    · exact pair
    · show smGet _ (v / 1024) = _
      by_cases frame : v / 1024 = u / 1024
      · rw [frame, smGet_smPut]
      · rw [smGet_smPut_ne _ _ frame]; exact pair
  · split
    · exact pair
    · unfold unitPair at pair ⊢
      dsimp only
      rwa [smGet_smPut_ne _ _ other]

@[simp] theorem bytesUnder_length (s : State) (key : Option Nat) (pa n : Nat) : (bytesUnder s key pa n).length = n := by
  induction n generalizing pa with
  | zero => rfl
  | succ n ih => rw [bytesUnder, List.length_cons, ih]

theorem mRead_retag_ne {s : State} {k u a : Nat} (other : a / 64 ≠ u) : mRead (retag s k u).mem a = mRead s.mem a := by
  unfold retag
  dsimp only
  repeat' split
  · rfl
  · rfl
  · rw [mRead_mWriteN, if_neg]
    rw [bytesUnder_length]
    omega

section

variable {s : State} {k pa a : Nat} {bs : List Byte} {whole : Bool} (one : pa % 64 + bs.length ≤ 64)
include one

theorem standsUnder_physWrite (lo : pa ≤ a) (hi : a < pa + bs.length) :
    StandsUnder (physWrite s (some k) pa bs whole) k a (bs.getD (a - pa) 0) where
  pair := by
    have unit : a / 64 = pa / 64 := by omega
    rw [(physWrite_frame ..).key, unit]
    exact unitPair_retag s k (pa / 64)
  byte := by
    show mRead (mWriteN _ pa bs) a = _
    rw [mRead_mWriteN, if_pos ⟨lo, hi⟩]

/-- A write of one unit leaves what stands in others. -/
theorem StandsUnder.physWrite {b : Byte} (h : StandsUnder s k a b) (other : a / 64 ≠ pa / 64) :
    StandsUnder (physWrite s (some k) pa bs whole) k a b where
  pair := by
    rw [(physWrite_frame ..).key]
    exact unitPair_retag_ne other h.pair
  byte := by
    show mRead (mWriteN _ pa bs) a = _
    rw [mRead_mWriteN, if_neg (by omega), mRead_retag_ne other, h.byte]

end

theorem StandsUnder.physWritesN {s : State} {k pa a : Nat} {b : Byte} (fuel : Nat) (bs : List Byte) (h : StandsUnder s k a b)
    (before : a / 64 < pa / 64) : StandsUnder (physWritesN fuel s (some k) pa bs) k a b := by
  induction fuel generalizing s pa bs with
  | zero => exact h
  | succ fuel ih =>
    unfold Machine.physWritesN
    split
    · exact h
    · refine ih _ (h.physWrite ?_ before.ne) (by omega)
      rw [List.length_take]
      omega

theorem standsUnder_physWritesN {s : State} {k pa a : Nat} {bs : List Byte} (fuel : Nat)
    (enough : pa % 64 + bs.length ≤ 64 * fuel) (lo : pa ≤ a) (hi : a < pa + bs.length) : StandsUnder (physWritesN fuel s (some k) pa bs) k a (bs.getD (a - pa) 0) := by
  induction fuel generalizing s pa bs with
  | zero => omega
  | succ fuel ih =>
    have some : bs ≠ [] := fun nil => by simp [nil] at hi; omega
    unfold Machine.physWritesN
    rw [if_neg some]
    have taken : (bs.take (64 - pa % 64)).length = min (64 - pa % 64) bs.length := List.length_take
    by_cases first : a < pa + (64 - pa % 64)
    · have here := standsUnder_physWrite (s := s) (k := k) (whole := false) (bs := bs.take (64 - pa % 64)) (by omega) lo (by omega)
      rw [List.getD_eq_getElem?_getD, List.getElem?_take_of_lt (by omega), ← List.getD_eq_getElem?_getD] at here
      exact here.physWritesN _ _ (by omega)
    · have rest := ih (s := physWrite s (.some k) pa (bs.take (64 - pa % 64)) false) (pa := pa + (64 - pa % 64))
        (bs := bs.drop (64 - pa % 64)) (by rw [List.length_drop]; omega) (by omega) (by rw [List.length_drop]; omega)
      rw [List.getD_eq_getElem?_getD, List.getElem?_drop, ← List.getD_eq_getElem?_getD] at rest
      rwa [show 64 - pa % 64 + (a - (pa + (64 - pa % 64))) = a - pa by omega] at rest

theorem standsUnder_physWriteN {s : State} {k pa a : Nat} {bs : List Byte} (lo : pa ≤ a) (hi : a < pa + bs.length) :
    StandsUnder (physWriteN s (some k) pa bs) k a (bs.getD (a - pa) 0) := by
  obtain ⟨pair, byte⟩ := standsUnder_physWritesN (s := s) (k := k) (bs.length / 64 + 2) (by omega) lo hi
  exact ⟨pair, byte⟩

/-- What was written at a home is read there under the same slot. -/
theorem bytesUnder_of_stands {s : State} {k pa : Nat} {bs : List Byte}
    (stands : ∀ i < bs.length, StandsUnder s k (pa + i) (bs.getD i 0))
    (memory : ∀ die off, ∀ i < bs.length, paKind (pa + i) ≠ .kiln die off) : bytesUnder s (some k) pa bs.length = bs := by
  induction bs generalizing pa with
  | nil => rfl
  | cons b bs ih =>
    have first := (stands 0 (Nat.succ_pos _)).read fun die off => memory die off 0 (Nat.succ_pos _)
    have rest := ih (pa := pa + 1)
      (fun i hi => by simpa [Nat.add_assoc, Nat.add_comm 1] using stands (i + 1) (Nat.succ_lt_succ hi))
      (fun die off i hi => by simpa [Nat.add_assoc, Nat.add_comm 1] using memory die off (i + 1) (Nat.succ_lt_succ hi))
    rw [List.length_cons, bytesUnder, rest]
    exact congrArg (· :: bs) first

end Sys2Proof.Machine
end

section
/-! Proofs of the family of spec/05: the trap record and the stop (O10). -/

namespace Sys2Proof.Machine

/-! ### Fields of a number -/

/-- Fields of a number, lowest first, each with its width. -/
def packFields : List (Nat × Nat) → Nat
  | [] => 0
  | f :: fs => f.2 + 2 ^ f.1 * packFields fs

theorem packFields_nil : packFields [] = 0 := rfl

/-- The value of a field stands at its place, and the later fields above it. -/
theorem twoPow_mul_packFields_cons (lo w v : Nat) (fs : List (Nat × Nat)) :
    2 ^ lo * packFields ((w, v) :: fs) = v * 2 ^ lo + 2 ^ (lo + w) * packFields fs := by
  rw [packFields, Nat.mul_add, Nat.mul_comm, Nat.pow_add, Nat.mul_assoc]

theorem bits_mod (v lo len : Nat) {n : Nat} (h : lo + len ≤ n) : bits (v % 2 ^ n) lo len = bits v lo len := by
  obtain ⟨m, rfl⟩ : ∃ m, n = lo + (len + m) := ⟨n - (lo + len), by omega⟩
  rw [bits, bits, Nat.pow_add, Nat.mod_mul_right_div_self, Nat.pow_add, Nat.mod_mul_right_mod]

/-- A field whose value, like those below it, fits its width. -/
theorem bits_packFields (fs : List (Nat × Nat)) (i : Nat) (h : i < fs.length) (fits : ∀ f ∈ fs.take (i + 1), f.2 < 2 ^ f.1) :
    bits (packFields fs) ((fs.take i).map (·.1)).sum fs[i].1 = fs[i].2 := by
  induction fs generalizing i with
  | nil => exact absurd h (Nat.not_lt_zero i)
  | cons f fs ih =>
    have first : f.2 < 2 ^ f.1 := fits f (by simp)
    cases i with
    | zero =>
      show (f.2 + 2 ^ f.1 * packFields fs) / 2 ^ 0 % 2 ^ f.1 = f.2
      rw [pow_zero, Nat.div_one, Nat.add_mul_mod_self_left, Nat.mod_eq_of_lt first]
    | succ i =>
      have rest := ih i (Nat.lt_of_succ_lt_succ h) fun x hx => fits x (by simp [hx])
      simp only [List.take_succ_cons, List.map_cons, List.sum_cons, List.getElem_cons_succ]
      rw [← rest, bits, bits, packFields, Nat.pow_add, ← Nat.div_div_eq_div_mul, Nat.add_mul_div_left _ _ (Nat.two_pow_pos _),
        Nat.div_eq_of_lt first, Nat.zero_add]

/-! ### The trap record (R224) -/

/-- The fields of a trap record, with what is reserved between them. -/
def recordFields (s : State) (c : Nat) (x : Ctx) (e : Stop) : List (Nat × Nat) :=
  [(8, causeCode e.cause), (6, e.smask % 64), (2, 0), (8, e.engine), (8, e.reason), (32, x.pc.toNat), (34, npcBits x.npc1), (30, 0),
    (34, npcBits x.npc2), (30, 0), (55, e.va.getD 0 % 2 ^ 55), (8, 0), (1, e.va.isSome.toNat), (64, (coreRegion s c).frame % 2 ^ 64),
    (24, (coreRegion s c).cyf % 2 ^ 24), (8, 0), (10, c), (6, 0), (20, regionId s c), (60, 0), (64, s.tick % 2 ^ 64),
    (32, x.rcount.toNat)]

theorem trapRecord_eq_packFields (s : State) (c : Nat) (x : Ctx) (e : Stop) :
    trapRecord s c x e = packFields (recordFields s c x e) := by
  have va : (if e.va.isSome then 2 ^ 255 else 0) = e.va.isSome.toNat * 2 ^ 255 := by
    cases e.va with
    | none => exact (Nat.zero_mul _).symm
    | some _ => exact (Nat.one_mul _).symm
  have atZero : packFields (recordFields s c x e) = 2 ^ 0 * packFields (recordFields s c x e) := by rw [pow_zero, one_mul]
  rw [trapRecord, va, atZero]
  simp only [recordFields, twoPow_mul_packFields_cons, packFields_nil, Nat.reduceAdd]
  simp only [pow_zero, mul_one, mul_zero, zero_mul, zero_add, add_zero, Nat.add_assoc]

theorem causeCode_lt (cause : Cause) : causeCode cause < 2 ^ 8 := by cases cause <;> decide

theorem npcBits_lt (n : Npc) : npcBits n < 2 ^ 34 := by
  have := n.target.isLt
  unfold npcBits
  split <;> split <;> omega

theorem regionId_lt (s : State) (c : Nat) : regionId s c < 2 ^ 20 := by
  unfold regionId
  omega

/-- The widths of the fields of a trap record. -/
def recordWidths : List Nat := [8, 6, 2, 8, 8, 32, 34, 30, 34, 30, 55, 8, 1, 64, 24, 8, 10, 6, 20, 60, 64, 32]

theorem map_recordFields (s : State) (c : Nat) (x : Ctx) (e : Stop) : (recordFields s c x e).map (·.1) = recordWidths := rfl

/-- A field of the record, from the 128 bytes that hold it, when it and the fields below it fit their widths. -/
theorem bits_trapRecord {s : State} {c : Nat} {x : Ctx} {e : Stop} {n : Nat}
    (fits : ∀ f ∈ (recordFields s c x e).take n, f.2 < 2 ^ f.1) {i lo w v : Nat} (below : i < n)
    (field : (recordFields s c x e)[i]? = some (w, v)) (place : (recordWidths.take i).sum = lo) :
    bits (trapRecord s c x e % 256 ^ 128) lo w = v := by
  obtain ⟨h, field⟩ := List.getElem?_eq_some_iff.1 field
  have packed := bits_packFields _ i h fun f hf => fits f (List.take_subset_take_left _ below hf)
  rw [List.map_take, map_recordFields, place, field] at packed
  have within : lo + w ≤ 8 * 128 := by
    have upTo : (recordWidths.take (i + 1)).sum ≤ 544 := (List.take_sublist (i + 1) recordWidths).sum_le_sum fun _ _ => Nat.zero_le _
    rw [List.take_add_one, List.sum_append, place, ← map_recordFields s c x e, List.getElem?_map, List.getElem?_eq_getElem h, field,
      Option.map_some, Option.toList_some, List.sum_singleton] at upTo
    omega
  have bytes : ∀ n : Nat, 256 ^ n = 2 ^ (8 * n) := fun n => (pow_mul 2 8 n).symm
  rw [bytes, bits_mod _ _ _ within, trapRecord_eq_packFields]
  exact packed

section

variable (s : State) (c : Nat) (x : Ctx) (e : Stop)

theorem recordFields_fit_two : ∀ f ∈ (recordFields s c x e).take 2, f.2 < 2 ^ f.1 := by
  simp only [recordFields, List.take_succ_cons, List.take_zero, List.forall_mem_cons]
  exact ⟨causeCode_lt _, Nat.mod_lt _ (by decide), List.forall_mem_nil _⟩

theorem record_cause : bits (trapRecord s c x e % 256 ^ 128) 0 8 = causeCode e.cause ∧
    bits (trapRecord s c x e % 256 ^ 128) 8 6 = e.smask % 64 :=
  ⟨bits_trapRecord (recordFields_fit_two s c x e) (i := 0) (by decide) rfl (by decide),
    bits_trapRecord (recordFields_fit_two s c x e) (i := 1) (by decide) rfl (by decide)⟩

variable {e} (engine : e.engine < 256) (reason : e.reason < 256)
include engine reason

theorem recordFields_fit_five : ∀ f ∈ (recordFields s c x e).take 5, f.2 < 2 ^ f.1 := by
  simp only [recordFields, List.take_succ_cons, List.take_zero, List.forall_mem_cons]
  exact ⟨causeCode_lt _, Nat.mod_lt _ (by decide), by decide, engine, reason, List.forall_mem_nil _⟩

theorem record_engine : bits (trapRecord s c x e % 256 ^ 128) 16 8 = e.engine ∧
    bits (trapRecord s c x e % 256 ^ 128) 24 8 = e.reason :=
  ⟨bits_trapRecord (recordFields_fit_five s c x engine reason) (i := 3) (by decide) rfl (by decide),
    bits_trapRecord (recordFields_fit_five s c x engine reason) (i := 4) (by decide) rfl (by decide)⟩

variable {c} (core : c < 1024)
include core

theorem recordFields_fit : ∀ f ∈ (recordFields s c x e).take 22, f.2 < 2 ^ f.1 := by
  simp only [recordFields, List.take_succ_cons, List.take_zero, List.forall_mem_cons]
  exact ⟨causeCode_lt _, Nat.mod_lt _ (by decide), by decide, engine, reason, x.pc.isLt, npcBits_lt _, by decide, npcBits_lt _, by decide,
    Nat.mod_lt _ (by decide), by decide, Bool.toNat_lt _, Nat.mod_lt _ (by decide), Nat.mod_lt _ (by decide), by decide, core, by decide,
    regionId_lt s c, by decide, Nat.mod_lt _ (by decide), x.rcount.isLt, List.forall_mem_nil _⟩

theorem record_registers :
    bits (trapRecord s c x e % 256 ^ 128) 32 32 = x.pc.toNat ∧ bits (trapRecord s c x e % 256 ^ 128) 64 34 = npcBits x.npc1 ∧
    bits (trapRecord s c x e % 256 ^ 128) 128 34 = npcBits x.npc2 ∧
    bits (trapRecord s c x e % 256 ^ 128) 192 55 = e.va.getD 0 % 2 ^ 55 ∧
    bits (trapRecord s c x e % 256 ^ 128) 255 1 = e.va.isSome.toNat ∧
    bits (trapRecord s c x e % 256 ^ 128) 256 64 = (coreRegion s c).frame % 2 ^ 64 ∧
    bits (trapRecord s c x e % 256 ^ 128) 320 24 = (coreRegion s c).cyf % 2 ^ 24 ∧
    bits (trapRecord s c x e % 256 ^ 128) 352 10 = c ∧ bits (trapRecord s c x e % 256 ^ 128) 368 20 = regionId s c ∧
    bits (trapRecord s c x e % 256 ^ 128) 448 64 = s.tick % 2 ^ 64 ∧ bits (trapRecord s c x e % 256 ^ 128) 512 32 = x.rcount.toNat := by
  have fits := recordFields_fit s x engine reason core
  exact ⟨bits_trapRecord fits (i := 5) (by decide) rfl (by decide), bits_trapRecord fits (i := 6) (by decide) rfl (by decide),
    bits_trapRecord fits (i := 8) (by decide) rfl (by decide), bits_trapRecord fits (i := 10) (by decide) rfl (by decide),
    bits_trapRecord fits (i := 12) (by decide) rfl (by decide), bits_trapRecord fits (i := 13) (by decide) rfl (by decide),
    bits_trapRecord fits (i := 14) (by decide) rfl (by decide), bits_trapRecord fits (i := 16) (by decide) rfl (by decide),
    bits_trapRecord fits (i := 18) (by decide) rfl (by decide), bits_trapRecord fits (i := 20) (by decide) rfl (by decide),
    bits_trapRecord fits (i := 21) (by decide) rfl (by decide)⟩

end

/-! ### Double faults (R228, R294) -/

/-- The core that a double fault leaves. -/
def fencedCore (k : Core) : Core :=
  { k with run := .fenced, ctx := (k.svc.map (·.host)).getD k.ctx, svc := none, faults := [], pendPre := false, pendDbg := false
           saveDue := false }

theorem getCore_doubleFault (c : Nat) (o : Cause) (e r : Nat) (va : Option Nat) (s : State) :
    getCore (doubleFault c o e r va s) c = fencedCore (getCore s c) := by
  refine (getCore_due ..).trans ?_
  rw [(eventRecord_frame ..).core, (errorRecord_frame ..).core, getCore_setCore]
  rfl

theorem unitCount_mem_doubleFault (c : Nat) (o : Cause) (e r : Nat) (va : Option Nat) (s : State) :
    Task.ev (.unitCount c) ∈ (doubleFault c o e r va s).sched.tasks := by
  obtain ⟨k, t, eq, -, -⟩ := doubleFault_eq c o e r va s
  simp [eq]

/-! ### The record of a stop (R224) -/

theorem StandsUnder.chanOnly {s t : State} {k a : Nat} {b : Byte} (h : StandsUnder s k a b) (only : ChanOnly s t) :
    StandsUnder t k a b where
  pair := ((congrArg (fun x => unitPair x (a / 64)) only :).trans h.pair).trans
    (congrArg (fun x => some (getKey x k).pair) only :).symm
  byte := (congrArg (fun x : State => mRead x.mem a) only :).trans h.byte

section

variable {c : Nat} {e : Stop} {s u : State}

/-- The context of a core whose record is written. -/
def withRecord (c : Ctx) : Ctx := { c with rcount := c.rcount + 1 }

theorem writeRecord_failed {r : Nat} (failed : pinnedAt s c 2 (getCore s c).ctx.traprec.toNat 128 = (u, .error r)) :
    writeRecord c e s = doubleFault c e.cause 0x10 r (some (getCore s c).ctx.traprec.toNat) u := by
  simp only [writeRecord, failed]

variable {x : Xlat} (pinned : pinnedAt s c 2 (getCore s c).ctx.traprec.toNat 128 = (u, .ok x))
include pinned

theorem writeRecord_pinned : writeRecord c e s =
    postOwn (physWriteN (setCore u c { getCore u c with ctx := withRecord (getCore s c).ctx }) (some x.key) x.pa
      (leBytes 128 (trapRecord u c (withRecord (getCore s c).ctx) e))) c (corePart u c) c ((getCore s c).ctx.traprec.toNat / 256) x.pa := by
  simp only [writeRecord, pinned, withRecord]

theorem getCore_writeRecord : getCore (writeRecord c e s) c = { getCore s c with ctx := withRecord (getCore s c).ctx } := by
  have walked := pinnedAt_frame s c 2 (getCore s c).ctx.traprec.toNat 128
  rw [pinned] at walked
  rw [writeRecord_pinned pinned, (postOwn_frame ..).core, (physWriteN_frame ..).core, getCore_setCore, walked.core]

theorem bytesUnder_writeRecord (memory : ∀ die off, ∀ i < 128, paKind (x.pa + i) ≠ .kiln die off) :
    bytesUnder (writeRecord c e s) (some x.key) x.pa 128 = leBytes 128 (trapRecord u c (withRecord (getCore s c).ctx) e) := by
  generalize written : leBytes 128 (trapRecord u c (withRecord (getCore s c).ctx) e) = bs
  have len : bs.length = 128 := by rw [← written, leBytes_length]
  rw [writeRecord_pinned pinned, written, ← len]
  refine bytesUnder_of_stands (fun i hi => StandsUnder.chanOnly ?_ (postOwn_frame ..)) fun die off i hi => memory die off i (len ▸ hi)
  have stands := standsUnder_physWriteN (s := setCore u c { getCore u c with ctx := withRecord (getCore s c).ctx }) (k := x.key)
    (Nat.le_add_right x.pa i) (Nat.add_lt_add_left hi x.pa)
  rwa [Nat.add_sub_cancel_left] at stands

end

/-! ### Taking a stop (R82, R171, R177) -/

theorem takeBackRows_of_none {k : Core} (none : k.mxWas = none) : takeBackRows k = k := by
  simp only [takeBackRows, none]

theorem getCore_freeze (c : Nat) (cause : Cause) (s : State) :
    getCore (freeze c cause s) c = { takeBackRows (getCore s c) with
      run := .held cause, ctx := freezeCtx (takeBackRows (getCore s c)).ctx
      snapLeft := if nothingInFlight (takeBackRows (getCore s c)) && yieldHere s c then 0 else 24
      saveDue := cause == .preempt, saveAsked := false
      dlHold := if isYield cause then false else (takeBackRows (getCore s c)).dlHold } := getCore_setCore ..

theorem takeStop_writes {c : Nat} {e : Stop} {s : State} (host : (getCore s c).svc = none) (other : e.cause ≠ .dataerr) :
    takeStop c e s = writeRecord c e (freeze c e.cause s) := by
  simp [takeStop, host, other]

theorem takeStop_handler {c : Nat} {s : State} (handler : (getCore s c).svc.isSome = true) (e : Stop) :
    takeStop c e s = doubleFault c e.cause 0x01 e.reason e.va s := if_pos handler

theorem trapRecord_congr {s t : State} {c : Nat} (region : coreRegion s c = coreRegion t c) (id : regionId s c = regionId t c)
    (tick : s.tick = t.tick) (x : Ctx) (e : Stop) : trapRecord s c x e = trapRecord t c x e := by
  simp only [trapRecord, region, id, tick]

theorem trapRecord_of_walk {s t : State} (walked : WalkOnly s t) (c : Nat) (x : Ctx) (e : Stop) : trapRecord t c x e = trapRecord s c x e :=
  trapRecord_congr (congrArg (coreRegion · c) walked :) (congrArg (regionId · c) walked :) (congrArg State.tick walked :) x e

theorem trapRecord_freeze {c : Nat} {s : State} (rows : (getCore s c).mxWas = none) (cause : Cause) (x : Ctx) (e : Stop) :
    trapRecord (freeze c cause s) c x e = trapRecord s c x e := by
  have part : corePart (freeze c cause s) c = corePart s c := by
    rw [corePart, getCore_freeze, takeBackRows_of_none rows]
    rfl
  have number : regionId (freeze c cause s) c = regionId s c := by
    rw [regionId, regionId, part]
    rfl
  rw [trapRecord_congr (s := freeze c cause s) (t := s) rfl number rfl x e]

/-- Settles O10: a stop outside a handler freezes and writes its record, which reads back field by field; every other one is a double
fault. -/
theorem stopsAndDoubleFaults : Obligations.StopsAndDoubleFaults := by
  unfold Obligations.StopsAndDoubleFaults
  refine ⟨fun c e s u x host rows other pinned _ memory => ?taken,
    fun c e s => ⟨fun handler => ?handler, fun host other u r failed => ?failed, ?others⟩⟩
  case taken =>
    intro t k r record
    have frozen := getCore_freeze c e.cause s
    rw [takeBackRows_of_none rows] at frozen
    have pinned' : pinnedAt (freeze c e.cause s) c 2 (getCore (freeze c e.cause s) c).ctx.traprec.toNat 128 = (u, .ok x) := by
      rw [frozen]
      exact pinned
    have stopped : getCore t c = _ := (congrArg (getCore · c) (takeStop_writes host other)).trans (getCore_writeRecord pinned')
    have walked := pinnedAt_frame (freeze c e.cause s) c 2 (getCore s c).ctx.traprec.toNat 128
    rw [pinned] at walked
    have written : record = trapRecord s c (withRecord (freezeCtx k.ctx)) e % 256 ^ 128 := by
      show leNat (bytesUnder (takeStop c e s) (some x.key) x.pa 128) = _
      rw [takeStop_writes host other, bytesUnder_writeRecord pinned' memory, leNat_leBytes, trapRecord_of_walk walked,
        trapRecord_freeze rows, frozen]
    obtain ⟨frame, -⟩ := takeStop_frame c e s
    obtain ⟨cause, mask⟩ := record_cause s c (withRecord (freezeCtx k.ctx)) e
    rw [written, stopped, frozen]
    exact ⟨rfl, by simp only [Bool.and_eq_true]; rfl, rfl, frame.cores, cause, mask,
      fun engine reason => record_engine s c _ engine reason, fun engine reason core => record_registers s _ engine reason core⟩
  case handler =>
    rw [takeStop_handler handler e, getCore_doubleFault]
    obtain ⟨h, some⟩ := Option.isSome_iff_exists.1 handler
    exact ⟨rfl, by simp [fencedCore, some], rfl, rfl⟩
  case failed =>
    rw [takeStop_writes host other, writeRecord_failed (by rw [getCore_freeze]; exact failed), getCore_doubleFault]
    exact ⟨rfl, rfl, unitCount_mem_doubleFault ..⟩
  case others =>
    obtain ⟨frame, -⟩ := takeStop_frame c e s
    exact frame.cores

end Sys2Proof.Machine
end

section
/-! Proofs of the family of spec/05: return from a trap (O11). -/

namespace Sys2Proof.Machine

/-! ### Cores of a state -/

theorem smGet_of_mem {α : Type} {m : SMap α} {k : Nat} {x : α} (distinct : (m.map (·.1)).Nodup) (h : (k, x) ∈ m) :
    smGet m k = some x := by
  induction m with
  | nil => cases h
  | cons e m ih =>
    obtain ⟨j, y⟩ := e
    rw [List.map_cons, List.nodup_cons] at distinct
    obtain ⟨new, distinct⟩ := distinct
    rcases List.mem_cons.1 h with first | rest
    · cases first
      exact if_pos rfl
    · have other : j ≠ k := by
        rintro rfl
        exact new (List.mem_map.2 ⟨_, rest, rfl⟩)
      exact (if_neg other).trans (ih distinct rest)

theorem getCore_of_mem {s : State} {c : Nat} {k : Core} (distinct : (s.cores.map (·.1)).Nodup) (h : (c, k) ∈ s.cores) :
    getCore s c = k := by
  rw [getCore, smGetD, smGet_of_mem distinct h]
  rfl

/-! ### What a record gives back (R94) -/

theorem bits_bits (v a n lo len : Nat) (h : lo + len ≤ n) : bits (bits v a n) lo len = bits v (a + lo) len := by
  show bits (v / 2 ^ a % 2 ^ n) lo len = _
  rw [bits_mod _ _ _ h, bits, bits, Nat.div_div_eq_div_mul, Nat.pow_add]

theorem npcOf_bits (v lo : Nat) : npcOf (bits v lo 34) =
    ⟨BitVec.ofNat 32 (bits v lo 32), bits v (lo + 32) 1 == 1, bits v (lo + 33) 1 == 1⟩ := by
  have target : BitVec.ofNat 32 (bits v lo 34) = BitVec.ofNat 32 (bits v lo 32) := by
    apply BitVec.eq_of_toNat_eq
    rw [BitVec.toNat_ofNat, BitVec.toNat_ofNat, bits, bits, Nat.mod_mod, Nat.mod_mod_of_dvd _ (pow_dvd_pow 2 (by decide))]
  rw [npcOf_eq, target, ← bits_bits v lo 34 32 1 (by decide), ← bits_bits v lo 34 33 1 (by decide)]
  rfl

/-- The context that resumes under a record: its registers, and the latch bank at its offsets (R174). -/
theorem replayCtx_ctxFromRecord (k : Ctx) (record : Nat) : replayCtx (ctxFromRecord k record) = { k with
    pc := BitVec.ofNat 32 (bits record 32 32)
    npc1 := ⟨BitVec.ofNat 32 (bits record 64 32), bits record 96 1 == 1, bits record 97 1 == 1⟩
    npc2 := ⟨BitVec.ofNat 32 (bits record 128 32), bits record 160 1 == 1, bits record 161 1 == 1⟩
    inflight := k.inflight ++ k.latch.map fun l => { l with due := l.due + k.bc }
    latch := [], grpK := 0, grpW := 0, grpP := 0 } := by
  rw [ctxFromRecord, npcOf_bits, npcOf_bits]
  rfl

/-! ### The held context that resumes (log 12) -/

theorem heldWith_some {s : State} {trec : BitVec 55} {self m : Nat} (distinct : (s.cores.map (·.1)).Nodup)
    (held : heldWith s trec self = some m) : m ≠ self ∧ (getCore s m).ctx.traprec = trec := by
  obtain ⟨⟨j, k⟩, found, rfl⟩ := Option.map_eq_some_iff.1 held
  have matched := List.find?_some found
  simp only [Bool.and_eq_true, bne_iff_ne, beq_iff_eq] at matched
  obtain ⟨⟨other, record⟩, -⟩ := matched
  exact ⟨other, by rw [getCore_of_mem distinct (List.mem_of_find?_eq_some found)]; exact record⟩

theorem getCore_resumeFromRecord_ne (s : State) (self : Nat) {c j : Nat} (h : j ≠ c) :
    getCore (resumeFromRecord self c s) j = getCore s j := by
  have walked := pinnedAt_frame s c 1 (getCore s c).ctx.traprec.toNat 128
  unfold resumeFromRecord
  dsimp only
  split
  · next u r failed =>
    rw [failed] at walked
    obtain ⟨frame, -⟩ := doubleFault_frame c .none 0x0E r (some (getCore s c).ctx.traprec.toNat) u
    exact (frame.cores j h).trans (walked.core j)
  · next u x pinned =>
    rw [pinned] at walked
    rw [getCore_setCore_ne _ _ _ _ h, getCore_resume_ne _ _ _ h, getCore_setCore_ne _ _ _ _ h, walked.core]

theorem resumeFromRecord_pinned {s u : State} {self c : Nat} {x : Xlat}
    (pinned : pinnedAt s c 1 (getCore s c).ctx.traprec.toNat 128 = (u, .ok x)) :
    (getCore (resumeFromRecord self c s) c).run = .running ∧
    (getCore (resumeFromRecord self c s) c).ctx =
      replayCtx (ctxFromRecord (getCore s c).ctx (leNat (bytesUnder u (some x.key) x.pa 128))) := by
  have walked := pinnedAt_frame s c 1 (getCore s c).ctx.traprec.toNat 128
  rw [pinned] at walked
  simp only [resumeFromRecord, pinned, getCore_setCore, resume_run, resume_ctx, walked.core, and_self]

/-! ### `rte` (R94) -/

section

variable {g : Guard} {s : State}

theorem exec_rte_priv (user : (curCtx s).kern = false) : Spec.privilegeStop (.rte g) s := by
  show settle s (issueRte g s) = _
  simp only [issueRte, coreKern, show (cur s).ctx.kern = false from user, Bool.not_false, if_true]
  rfl

variable (kernel : (curCtx s).kern = true)
include kernel

theorem exec_rte_off (off : guardOn (curCtx s) g = false) :
    exec (.rte g) s = .next (setCtx s (noteVoid (curCtx s) (voidP (curCtx s) g.p))) := by
  show settle s (issueRte g s) = _
  simp only [issueRte, coreKern, show (cur s).ctx.kern = true from kernel, show guardOn (cur s).ctx g = false from off]
  rfl

/-- The core that issues `rte`, once its stream has ended. -/
def afterRte (g : Guard) (k : Core) : Core :=
  { k with run := .idle
           ctx := { noteVoid k.ctx (voidP k.ctx g.p) with npc1 := {}, npc2 := {}, entry := {}, inflight := [], rets := [], waits := [] } }

variable (on : guardOn (curCtx s) g = true)
include on

theorem exec_rte_none (held : heldWith s (curCtx s).traprec s.sched.cur = none) :
    exec (.rte g) s = .next (setCur s (afterRte g (cur s))) := by
  show settle s (issueRte g s) = _
  simp only [issueRte, coreKern, show (cur s).ctx.kern = true from kernel, show guardOn (cur s).ctx g = true from on,
    show heldWith s (cur s).ctx.traprec s.sched.cur = none from held]
  rfl

theorem exec_rte_some {m : Nat} (held : heldWith s (curCtx s).traprec s.sched.cur = some m) :
    exec (.rte g) s = .next (resumeFromRecord s.sched.cur m (setCur s (afterRte g (cur s)))) := by
  show settle s (issueRte g s) = _
  simp only [issueRte, coreKern, show (cur s).ctx.kern = true from kernel, show guardOn (cur s).ctx g = true from on,
    show heldWith s (cur s).ctx.traprec s.sched.cur = some m from held]
  rfl

end

/-- Settles O11: the cases of `rte`, with the core that `heldWith` names resumed under its record. -/
theorem returnFromTrap : Obligations.ReturnFromTrap := by
  unfold Obligations.ReturnFromTrap
  intro g s distinct c n
  refine ⟨exec_rte_priv, fun kernel off => onlyReads_of_exec (exec_rte_off kernel off),
    fun kernel on held => ⟨_, readFlags_noteVoid .., exec_rte_none kernel on held⟩, fun kernel on m held => ?_⟩
  obtain ⟨other, record⟩ := heldWith_some distinct held
  have mine : getCore (resumeFromRecord n m (setCur s (afterRte g (cur s)))) n = afterRte g (cur s) :=
    (getCore_resumeFromRecord_ne _ _ other.symm).trans (cur_setCur s _)
  have its : getCore (setCur s (afterRte g (cur s))) m = getCore s m := getCore_setCore_ne s n m _ other
  have others : ∀ j, j ≠ n → j ≠ m → getCore (resumeFromRecord n m (setCur s (afterRte g (cur s)))) j = getCore s j :=
    fun j hn hm => (getCore_resumeFromRecord_ne _ _ hm).trans (getCore_setCore_ne s n j _ hn)
  refine ⟨_, exec_rte_some kernel on held, ?_⟩
  rw [mine]
  refine ⟨rfl, rfl, rfl, rfl, rfl, rfl, others, fun u x pinned => ?_⟩
  have resumed := resumeFromRecord_pinned (self := n) (by rw [its, record]; exact pinned)
  rwa [replayCtx_ctxFromRecord, its] at resumed

end Sys2Proof.Machine
end

section
/-! Proofs of the family of spec/05: service calls and the restart of the services (O12). -/

namespace Sys2Proof.Machine

/-! ### What a call changes (R316) -/

theorem giveFrame_cores {s t : State} {p f : Nat} {slice : Bool} (gives : giveFrame s p slice = some (t, f)) : t.cores = s.cores := by
  obtain ⟨a, -, same⟩ := Option.map_eq_some_iff.1 gives
  cases same
  rfl

theorem putEntry_cores (a e : Nat) (s : State) : (putEntry a e s).cores = s.cores := rfl

theorem entryAt_cores {s t : State} {va a : Nat} (lvls : List Nat) {base : Nat} (finds : entryAt s va lvls base = some (t, a)) :
    t.cores = s.cores := by
  induction lvls generalizing s base with
  | nil =>
    cases finds
    rfl
  | cons lvl lvls ih =>
    unfold entryAt at finds
    dsimp only at finds
    split at finds
    · split at finds
      · cases finds
      · exact ih finds
    · split at finds
      · cases finds
      · next s1 f gives => exact (ih finds).trans ((putEntry_cores ..).trans (giveFrame_cores gives))

theorem walkIn_cores (cls : List Nat) (p va e : Nat) (s : State) : (walkIn cls p va e s).cores = s.cores := by
  unfold walkIn
  induction cls generalizing s with
  | nil => rfl
  | cons cl cls ih => exact (ih _).trans rfl

theorem mapPage_cores {cls : List Nat} {p va e : Nat} {s t : State} (maps : mapPage cls p va e s = some t) : t.cores = s.cores := by
  obtain ⟨⟨s1, a⟩, finds, rfl⟩ := Option.map_eq_some_iff.1 maps
  have entry : (putEntry a e s1).cores = s.cores := (putEntry_cores ..).trans (entryAt_cores _ finds)
  dsimp only
  split
  · exact (walkIn_cores ..).trans entry
  · exact entry

theorem mapRun_cores {cls : List Nat} {p : Nat} {slice : Bool} {mask lcls key : Nat} {pin : Bool} (vs : List Nat) {s t : State}
    (maps : mapRun cls p slice mask lcls key pin vs s = some t) : t.cores = s.cores := by
  induction vs generalizing s with
  | nil =>
    cases maps
    rfl
  | cons va vs ih =>
    unfold mapRun at maps
    split at maps
    · cases maps
    · next s1 f gives =>
      split at maps
      · cases maps
      · next s2 page => exact (ih maps).trans ((mapPage_cores page).trans (giveFrame_cores gives))

theorem cores_ite {q : Prop} [Decidable q] {a b : State × Nat} {cores : SMap Core} (ha : a.1.cores = cores) (hb : b.1.cores = cores) :
    (if q then a else b).1.cores = cores := by
  split
  · exact ha
  · exact hb

theorem callMap_cores (s : State) (p inst va z : Nat) : (callMap s p inst va z).1.cores = s.cores := by
  refine cores_ite rfl (cores_ite rfl (cores_ite rfl (cores_ite rfl (cores_ite rfl ?_))))
  split
  · next s1 maps => exact (mapRun_cores _ maps : s1.cores = s.cores)
  · rfl

theorem callAlloc_cores (s : State) (p inst count z : Nat) : (callAlloc s p inst count z).1.cores = s.cores :=
  cores_ite rfl (cores_ite rfl rfl)

theorem callFree_cores (s : State) (inst count z : Nat) : (callFree s inst count z).1.cores = s.cores :=
  cores_ite rfl (cores_ite rfl rfl)

/-- The calls that change something and complete at once: map, allocate and free (R238). -/
def callChanges (n : Nat) : Prop := n = 1 ∨ n = 3 ∨ n = 4

/-- They change no core. -/
theorem callDo_cores {c : SvcCall} (changing : callChanges c.n.toNat) (s : State) (part inst : Nat) :
    (callDo s part inst c).1.cores = s.cores := by
  unfold callDo
  rcases changing with n | n | n <;> rw [n]
  · exact callMap_cores ..
  · exact callAlloc_cores ..
  · exact callFree_cores ..

theorem getCore_of_cores {s t : State} (same : t.cores = s.cores) (c : Nat) : getCore t c = getCore s c := by
  rw [getCore, getCore, same]

/-! ### The core that an answer resumes (R92, R174) -/

/-- A core that has returned from its stop. -/
def resumedCore (k : Core) : Core :=
  { k with
    run := .running, ctx := replayCtx k.ctx, snapLeft := 0, saveDue := false
    code := goodLines k .code 256 k.code, metas := goodLines k .metas 1024 k.metas
    deadline := if (match k.run with | .held cause => isYield cause | _ => false) && !k.dlHold then k.dlreload else k.deadline }

theorem getCore_resumeCore (c : Nat) (s : State) : getCore (resumeCore c s) c = resumedCore (getCore s c) := getCore_setCore ..

/-- A core that has the answer to its call. -/
def answeredCore (c : SvcCall) (w : Word) (k : Core) : Core :=
  resumedCore { k with ctx := { k.ctx with
    svc := none, rets := k.ctx.rets ++ [{ left := 0, slot := 0, seq := c.seq, dst := c.dst, addr := false, val := w }] } }

theorem getCore_callResume (core : Nat) (c : SvcCall) (w : Word) (s : State) :
    getCore (callResume core c w s) core = answeredCore c w (getCore s core) := by
  rw [callResume, getCore_resumeCore, getCore_setCore]
  rfl

theorem getCore_callResume_ne {core m : Nat} (other : m ≠ core) (c : SvcCall) (w : Word) (s : State) :
    getCore (callResume core c w s) m = getCore s m :=
  (getCore_resume_ne _ _ _ other).trans (getCore_setCore_ne _ _ _ _ other)

theorem callOf_held {k : Core} {c : SvcCall} (run : k.run = .held .svc) (call : k.ctx.svc = some c) : callOf k = some c := by
  simp [callOf, run, call]

theorem getCore_onBlk (core : Nat) (f : Block → Block) (s : State) :
    getCore (onBlk core f s) core = { getCore s core with blk := (getCore s core).blk.map f } := getCore_setCore ..

theorem getCore_onBlk_ne {core m : Nat} (other : m ≠ core) (f : Block → Block) (s : State) : getCore (onBlk core f s) m = getCore s m :=
  getCore_setCore_ne _ _ _ _ other

/-! ### Answers to calls (R92, R238, R239) -/

/-- The journal of what runs on a core. -/
def journalNow (k : Core) : List JEntry := (k.blk.map (·.journal)).getD []

/-- The answer `w` to the call `c` of a core, which leaves the journal with the entries given. -/
def AnswersWith (core : Nat) (outcome : Word) (c : SvcCall) (s : State) (w : Word) (entries : List JEntry) : Prop :=
  ∃ t, exec (.svcResume core outcome) s = .next t ∧
    (getCore t core).run = .running ∧ (getCore t core).ctx.svc = none ∧
    (getCore t core).ctx.rets =
      (getCore s core).ctx.rets ++ [{ left := 0, slot := 0, seq := c.seq, dst := c.dst, addr := false, val := w }] ∧
    (getCore t core).ctx.inflight = (getCore s core).ctx.inflight ++
      (getCore s core).ctx.latch.map (fun l => { l with due := l.due + (getCore s core).ctx.bc }) ∧
    (getCore t core).ctx.sb = (getCore s core).ctx.sb ∧ (getCore t core).ctx.sk = (getCore s core).ctx.sk ∧
    (getCore t core).spad = (getCore s core).spad ∧ (∀ m, m ≠ core → getCore t m = getCore s m) ∧
    (getCore t core).blk = (getCore s core).blk.map fun b => { b with journal := entries }

section

variable {core : Nat} {outcome : Word} {c : SvcCall} {s : State} (run : (getCore s core).run = .held .svc)
  (call : (getCore s core).ctx.svc = some c) (ready : c.n.toNat ≠ 2)
include run call ready

theorem exec_svcResume_ready : exec (.svcResume core outcome) s =
    .next (callResume core c (callAnswer core c outcome s).2 (callAnswer core c outcome s).1) := by
  have goes : callReady core c s = true := by simp [callReady, ready]
  show execSvcResume core outcome s = _
  simp only [execSvcResume, callOf_held run call, goes, if_true]

theorem answersWith_of_blk {u : State} {w : Word} {entries : List JEntry} (answer : callAnswer core c outcome s = (u, w))
    (others : ∀ m, m ≠ core → getCore u m = getCore s m)
    (here : getCore u core = { getCore s core with blk := (getCore s core).blk.map fun b => { b with journal := entries } }) :
    AnswersWith core outcome c s w entries := by
  refine ⟨_, exec_svcResume_ready run call ready, ?_⟩
  rw [answer, getCore_callResume, here]
  exact ⟨rfl, rfl, rfl, rfl, rfl, rfl, rfl, fun m other => (getCore_callResume_ne other ..).trans (others m other), rfl⟩

/-- An answer that changes nothing keeps the journal. -/
theorem answersWith_same {w : Word} (answer : callAnswer core c outcome s = (s, w)) :
    AnswersWith core outcome c s w (journalNow (getCore s core)) := by
  refine answersWith_of_blk run call ready answer (fun _ _ => rfl) ?_
  have same : (getCore s core).blk = (getCore s core).blk.map fun b => { b with journal := journalNow (getCore s core) } := by
    unfold journalNow
    cases (getCore s core).blk <;> rfl
  rw [← same]

/-- An answer that comes with a change of the journal. -/
theorem answersWith_onBlk {u : State} {f : Block → Block} {w : Word} {entries : List JEntry} (cores : u.cores = s.cores)
    (answer : callAnswer core c outcome s = (onBlk core f u, w))
    (does : ∀ b, (getCore s core).blk = some b → f b = { b with journal := entries }) : AnswersWith core outcome c s w entries := by
  refine answersWith_of_blk run call ready answer (fun m other => (getCore_onBlk_ne other f u).trans (getCore_of_cores cores m)) ?_
  rw [getCore_onBlk, getCore_of_cores cores]
  have same : (getCore s core).blk.map f = (getCore s core).blk.map fun b => { b with journal := entries } :=
    Option.map_congr fun b block => does b block
  rw [same]

end

/-- What `addJournal` does to a block: a full journal keeps its entries (R239). -/
theorem journalled_eq (b : Block) (j : JEntry) : (if journalFull b.journal then b else { b with journal := b.journal ++ [j] }) =
    { b with journal := if 64 ≤ b.journal.length then b.journal else b.journal ++ [j] } := by
  unfold journalFull
  by_cases full : 64 ≤ b.journal.length <;> simp [full]

theorem journalNow_of_blk {k : Core} {b : Block} (block : k.blk = some b) : journalNow k = b.journal := by
  rw [journalNow, block]
  rfl

theorem find?_tag_none {journal : List JEntry} {tag : Word} (fresh : ∀ j ∈ journal, j.tag ≠ tag) :
    journal.find? (fun j => j.tag == tag) = none :=
  List.find?_eq_none.2 fun j hj => by simpa using fresh j hj

section

variable {core : Nat} (outcome : Word) {c : SvcCall} (s : State)

theorem callAnswer_unknown (unknown : 5 < c.n.toNat ∧ c.n.toNat ≠ 15) : callAnswer core c outcome s = (s, callStatus 2) := by
  obtain ⟨high, drop⟩ := unknown
  simp [callAnswer, callKnown, high, drop]

theorem callAnswer_echo (echo : c.n.toNat = 0) : callAnswer core c outcome s = (s, callResult c.y.toNat) := by
  simp [callAnswer, callKnown, callIdempotent, callDo, echo]

theorem callAnswer_drop (drop : c.n.toNat = 15) : callAnswer core c outcome s =
    (onBlk core (fun b => { b with journal := b.journal.filter fun j => j.tag != c.y }) s, callResult outcome.toNat) := by
  simp [callAnswer, callKnown, drop]

variable (changing : callChanges c.n.toNat)
include changing

theorem callKnown_of_callChanges : callKnown c.n.toNat = true ∧ c.n.toNat ≠ 15 ∧ callIdempotent c.n.toNat = false := by
  rcases changing with n | n | n <;> rw [n] <;> decide

theorem callAnswer_untagged (untagged : c.tag = 0) : callAnswer core c outcome s = (s, callStatus 6) := by
  obtain ⟨known, drop, effect⟩ := callKnown_of_callChanges changing
  simp [callAnswer, known, drop, effect, untagged]

variable (tagged : c.tag ≠ 0)
include tagged

theorem callAnswer_journalled {j : JEntry} (found : (journalNow (getCore s core)).find? (fun j => j.tag == c.tag) = some j) :
    callAnswer core c outcome s = (s, if j.outcome = callStatus 1 then callStatus 1
      else if j.n = c.n ∧ j.y = c.y ∧ j.z = c.z then j.outcome else callStatus 4) := by
  obtain ⟨known, drop, effect⟩ := callKnown_of_callChanges changing
  unfold journalNow at found
  simp only [callAnswer, known, drop, effect, tagged, found, if_false, Bool.not_true, Bool.false_eq_true]

variable (fresh : ∀ j ∈ journalNow (getCore s core), j.tag ≠ c.tag)
include fresh

theorem callAnswer_restarted (restarted : (((getCore s core).blk.map (·.restarted)).getD []).contains c.tag = true) :
    callAnswer core c outcome s = (addJournal core (journalOf c (callStatus 1)) s, callStatus 1) := by
  obtain ⟨known, drop, effect⟩ := callKnown_of_callChanges changing
  have absent := find?_tag_none fresh
  unfold journalNow at absent
  simp only [callAnswer, known, drop, effect, tagged, absent, restarted, if_true, if_false, Bool.not_true, Bool.false_eq_true]

variable (first : (((getCore s core).blk.map (·.restarted)).getD []).contains c.tag = false)
include first

theorem callAnswer_full (full : 64 ≤ (journalNow (getCore s core)).length) : callAnswer core c outcome s = (s, callStatus 5) := by
  obtain ⟨known, drop, effect⟩ := callKnown_of_callChanges changing
  have absent := find?_tag_none fresh
  have noRoom : journalFull (journalNow (getCore s core)) = true := decide_eq_true full
  unfold journalNow at absent noRoom
  simp only [callAnswer, known, drop, effect, tagged, absent, first, noRoom, if_true, if_false, Bool.not_true, Bool.false_eq_true]

theorem callAnswer_does (room : (journalNow (getCore s core)).length < 64) :
    let r := callDo s (corePart s core) (((getCore s core).blk.map (·.inst)).getD 0) c
    callAnswer core c outcome s = (addJournal core (journalOf c (callResult r.2)) r.1, callResult r.2) := by
  obtain ⟨known, drop, effect⟩ := callKnown_of_callChanges changing
  have absent := find?_tag_none fresh
  have hasRoom : journalFull (journalNow (getCore s core)) = false := decide_eq_false (not_le.2 room)
  unfold journalNow at absent hasRoom
  simp only [callAnswer, known, drop, effect, tagged, absent, first, hasRoom, if_false, Bool.not_true, Bool.false_eq_true]

end

/-! ### A restart of the services (R239) -/

/-- What a restart leaves of a core. -/
def restartedCore (k : Core) : Core :=
  match callOf k with
  | none => k
  | some c => answeredCore c (callStatus 3)
      (if callIdempotent c.n.toNat then k else { k with blk := k.blk.map fun b => { b with restarted := c.tag :: b.restarted } })

theorem restartedCore_of_none {k : Core} (none : callOf k = none) : restartedCore k = k := by
  rw [restartedCore, none]

theorem restartedCore_of_call {k : Core} {c : SvcCall} (call : callOf k = some c) : restartedCore k =
    answeredCore c (callStatus 3)
      (if callIdempotent c.n.toNat then k else { k with blk := k.blk.map fun b => { b with restarted := c.tag :: b.restarted } }) := by
  rw [restartedCore, call]

theorem getCore_restartCall (core : Nat) (s : State) : getCore (restartCall 0 core s) core = restartedCore (getCore s core) := by
  unfold restartCall
  split
  · next none => rw [restartedCore_of_none none]
  · next c call =>
    rw [restartedCore_of_call call, getCore_callResume, Nat.zero_testBit, Bool.false_and, if_neg Bool.false_ne_true,
      apply_ite (getCore · core), getCore_onBlk]

theorem getCore_restartCall_ne {core m : Nat} (other : m ≠ core) (s : State) : getCore (restartCall 0 core s) m = getCore s m := by
  unfold restartCall
  split
  · rfl
  · next c call =>
    rw [getCore_callResume_ne other, Nat.zero_testBit, Bool.false_and, if_neg Bool.false_ne_true, apply_ite (getCore · m),
      getCore_onBlk_ne other, ite_self]

theorem getCore_restarts (l : List Nat) (distinct : l.Nodup) (s : State) (n : Nat) :
    getCore (l.foldl (fun s c => restartCall 0 c s) s) n = if n ∈ l then restartedCore (getCore s n) else getCore s n := by
  induction l generalizing s with
  | nil => rfl
  | cons c l ih =>
    obtain ⟨new, distinct⟩ := List.nodup_cons.1 distinct
    rw [List.foldl_cons, ih distinct]
    by_cases here : n = c
    · subst here
      rw [if_neg new, if_pos List.mem_cons_self, getCore_restartCall]
    · simp only [getCore_restartCall_ne here, List.mem_cons, here, false_or]

theorem callIdempotent_iff (n : BitVec 8) : callIdempotent n.toNat = true ↔ n = 0 ∨ n = 5 ∨ n = 15 := by
  simp only [callIdempotent, Bool.or_eq_true, beq_iff_eq, or_assoc, ← BitVec.toNat_inj]
  rfl

theorem callOf_eq_none {k : Core} (free : k.run ≠ .held .svc ∨ k.ctx.svc = none) : callOf k = none := by
  unfold callOf
  rcases free with run | call
  · simp [run]
  · simp [call]

/-- Settles O12: what each call is answered, and the answer that a restart gives to every core that waits. -/
theorem serviceCallsAndRestart : Obligations.ServiceCallsAndRestart := by
  unfold Obligations.ServiceCallsAndRestart
  refine ⟨fun core outcome c s => ?answers, fun s distinct => ⟨_, rfl, fun n k mem => ?restart⟩⟩
  case answers =>
    intro k n journal answersWith answers entry notTaken run call
    have not2 : callChanges n → n ≠ 2 := fun changing => by unfold callChanges at changing; omega
    refine ⟨fun unknown => answersWith_same run call (by omega) (callAnswer_unknown outcome s unknown),
      fun echo => answersWith_same run call (by omega) (callAnswer_echo outcome s echo),
      fun drop => answersWith_onBlk run call (by omega) rfl (callAnswer_drop outcome s drop) fun b block => ?drop,
      fun changing untagged => answersWith_same run call (not2 changing) (callAnswer_untagged outcome s changing untagged),
      fun changing tagged j found => answersWith_same run call (not2 changing) (callAnswer_journalled outcome s changing tagged found),
      fun changing tagged fresh restarted => answersWith_onBlk run call (not2 changing) rfl
        (callAnswer_restarted outcome s changing tagged fresh restarted) fun b block => ?notTaken,
      fun changing tagged fresh first full =>
        answersWith_same run call (not2 changing) (callAnswer_full outcome s changing tagged fresh first full),
      fun changing tagged fresh first room => answersWith_onBlk run call (not2 changing) (callDo_cores changing ..)
        (callAnswer_does outcome s changing tagged fresh first room) fun b block => ?does⟩
    case drop =>
      rw [show journal = b.journal from journalNow_of_blk block]
    case notTaken =>
      rw [show journal = b.journal from journalNow_of_blk block]
      exact journalled_eq b _
    case does =>
      rw [show journal = b.journal from journalNow_of_blk block]
      exact (journalled_eq b _).trans (by rw [if_neg (not_le.2 (journalNow_of_blk block ▸ room))]; rfl)
  case restart =>
    have here : getCore s n = k := getCore_of_mem distinct mem
    have listed : n ∈ s.cores.map (·.1) := List.mem_map.2 ⟨_, mem, rfl⟩
    rw [getCore_restarts _ distinct, if_pos listed, here]
    refine ⟨fun c run call => ?_, fun free => restartedCore_of_none (callOf_eq_none free)⟩
    rw [restartedCore_of_call (callOf_held run call)]
    refine ⟨rfl, rfl, ?_, fun blk block => ?_⟩
    · split <;> rfl
    · by_cases unchanging : callIdempotent c.n.toNat = true
      · rw [if_pos unchanging, if_pos ((callIdempotent_iff c.n).1 unchanging)]
        exact ⟨blk, block, rfl, rfl⟩
      · rw [if_neg unchanging, if_neg (mt (callIdempotent_iff c.n).2 unchanging)]
        exact ⟨{ blk with restarted := c.tag :: blk.restarted }, congrArg (Option.map _) block, rfl, rfl⟩

end Sys2Proof.Machine
end

section
/-! Proofs of the family of spec/06: the lanes of vectors, the floating vector lanes (O18) and the conversions (O21). -/

namespace Sys2Proof.Machine

/-! ### Lanes and flags of a vector (R98, R116, R118) -/

theorem lanesOf_eq_map (w n v : Nat) : lanesOf w n v = (List.range n).map fun j => v / 2 ^ (w * j) % 2 ^ w := by
  induction n generalizing v with
  | zero => rfl
  | succ n ih =>
    have shift (j : Nat) : v / 2 ^ w / 2 ^ (w * j) = v / 2 ^ (w * (j + 1)) := by
      rw [Nat.div_div_eq_div_mul, ← pow_add, Nat.mul_succ, Nat.add_comm]
    simp [lanesOf, ih, List.range_succ_eq_map, shift]

theorem lv_eq_map (lt : LT) (v : VWord) : lv lt v = (List.range (2048 / lt.width)).map (Spec.lane lt.width v) :=
  lanesOf_eq_map ..

theorem lane_lt (w : Nat) (v : VWord) (j : Nat) : Spec.lane w v j < 2 ^ w := Nat.mod_lt _ (Nat.two_pow_pos _)

theorem ofLanes_map_range (w n : Nat) (h : Nat → Nat) :
    ofLanes w ((List.range n).map h) = ∑ j ∈ Finset.range n, h j % 2 ^ w * 2 ^ (w * j) := by
  induction n generalizing h with
  | zero => rfl
  | succ n ih =>
    have shift (j : Nat) : h (j + 1) % 2 ^ w * 2 ^ (w * (j + 1)) = 2 ^ w * (h (j + 1) % 2 ^ w * 2 ^ (w * j)) := by
      rw [Nat.mul_succ, pow_add]
      ring
    rw [List.range_succ_eq_map, List.map_cons, List.map_map, ofLanes, ih, Finset.sum_range_succ', Finset.sum_congr rfl fun j _ => shift j,
      ← Finset.mul_sum, Nat.add_comm]
    simp

/-- Lanes that hold integers modulo their width. -/
theorem ofNat_ofLanes (w n : Nat) (h : Nat → Nat) (z : Nat → Int) (same : ∀ j < n, (h j % 2 ^ w : Nat) = z j % 2 ^ w) :
    BitVec.ofNat 2048 (ofLanes w ((List.range n).map h)) = Spec.vec w n z := by
  rw [ofLanes_map_range, Spec.vec]
  congr 1
  refine Finset.sum_congr rfl fun j lt => ?_
  rw [← same j (Finset.mem_range.1 lt), Int.toNat_natCast]

/-- Flags gathered from the left are those gathered from the right. -/
theorem foldl_or_eq {α : Type} (f : α → Flags) (l : List α) (m : Flags) :
    l.foldl (fun m x => m ||| f x) m = m ||| l.foldr (fun x m => f x ||| m) 0 := by
  induction l generalizing m with
  | nil => simp
  | cons x l ih => rw [List.foldl_cons, ih, List.foldr_cons, BitVec.or_assoc]

theorem foldl_or_map_range_from {α : Type} (f : α → Flags) (n : Nat) (h : Nat → α) (m : Flags) :
    ((List.range n).map h).foldl (fun m x => m ||| f x) m = m ||| Spec.flagsOf n fun j => f (h j) := by
  rw [List.foldl_map, foldl_or_eq]
  rfl

theorem foldl_or_map_range {α : Type} (f : α → Flags) (n : Nat) (h : Nat → α) :
    ((List.range n).map h).foldl (fun m x => m ||| f x) 0 = Spec.flagsOf n fun j => f (h j) := by
  rw [foldl_or_map_range_from]
  exact BitVec.zero_or

theorem ofLv_map_range (w n : Nat) (h : Nat → Nat × Flags) :
    ofLv w ((List.range n).map h) = (Spec.vec w n fun j => ((h j).1 : Int), Spec.flagsOf n fun j => (h j).2) := by
  rw [ofLv, foldl_or_map_range Prod.snd, List.map_map, ofNat_ofLanes w n _ _ fun j _ => ?_]
  simp

/-! ### How an instruction with a vector result completes -/

/-- A vector result whose value does not depend on what reading notes. -/
theorem resultV_of_exec {i : Instr} {s : State} {g : Guard} {slot lat : Nat} {d : VDst} {void : Bool} {v : VWord} {f : Flags}
    (row : exec i s = .next (setCtx s (issueV slot lat g d (fun _ => void) (fun _ => (v, f)) (curCtx s)))) :
    Spec.resultV g i s void slot lat d v f := by
  unfold Spec.resultV
  split
  · rename_i on
    rw [issueV_on _ _ _ _ _ on] at row
    exact ⟨_, readFlags_noteVoid .., by cases d <;> exact row⟩
  · rename_i off
    rw [issueV_off _ _ _ _ _ (by simpa using off)] at row
    exact ⟨_, readFlags_noteVoid .., by cases d <;> exact row⟩

section

variable {i : Instr} {s : State} {g : Guard} {d : VDst} {a b e : VOp} {lat : Nat} {lt : LT}

theorem codes_of_issueV {void : Ctx → Bool} {f : Ctx → VWord × Flags} {w n : Nat} {h : Nat → Nat × Flags}
    (row : exec i s = settle s (onCtx (issueV (slotV s) lat g d void f) s))
    (value : f (curCtx s) = ofLv w ((List.range n).map h)) : Spec.codes g i s (void (curCtx s)) lat d w n h := by
  rw [ofLv_map_range] at value
  refine resultV_of_exec (row.trans ?_)
  rw [← value]
  rfl

theorem codes_of_lane1 (F : Nat → Nat × Flags) {h : Nat → Nat × Flags} (row : exec i s = settle s (unV lat (lane1 lt F) g d a s))
    (value : ∀ j, F (Spec.lane lt.width (valV (curCtx s) a) j) = h j) :
    Spec.codes g i s (voidV (curCtx s) a) lat d lt.width (2048 / lt.width) h := by
  refine codes_of_issueV (void := fun c => voidV c a) row ?_
  rw [lane1, lv_eq_map, List.map_map, ← funext value]
  rfl

theorem codes_of_lane2 (F : Nat → Nat → Nat × Flags) (row : exec i s = settle s (binV lat (lane2 lt F) g d a b s)) :
    Spec.codes g i s (voidV (curCtx s) a || voidV (curCtx s) b) lat d lt.width (2048 / lt.width) fun j =>
      F (Spec.lane lt.width (valV (curCtx s) a) j) (Spec.lane lt.width (valV (curCtx s) b) j) := by
  refine codes_of_issueV (void := fun c => voidV c a || voidV c b) row ?_
  rw [lane2, lv_eq_map, lv_eq_map, List.zipWith_map, List.zipWith_self]

theorem codes_of_lane3 (F : Nat → Nat → Nat → Nat × Flags) (row : exec i s = settle s (triV lat (lane3 lt F) g d a b e s)) :
    Spec.codes g i s (voidV (curCtx s) a || voidV (curCtx s) b || voidV (curCtx s) e) lat d lt.width (2048 / lt.width) fun j =>
      F (Spec.lane lt.width (valV (curCtx s) a) j) (Spec.lane lt.width (valV (curCtx s) b) j)
        (Spec.lane lt.width (valV (curCtx s) e) j) := by
  refine codes_of_issueV (void := fun c => voidV c a || voidV c b || voidV c e) row ?_
  rw [lane3, lv_eq_map, lv_eq_map, lv_eq_map, List.zip, List.zipWith_map, List.zipWith_self, List.zipWith_map, List.zipWith_self]

end

/-! ### Signs of codes (R126) -/

/-- The sign bit and the magnitude of a code put together again. -/
theorem codeNeg_add_codeMag {lt : LT} {x : Nat} (pos : 0 < lt.width) (fits : x < 2 ^ lt.width) :
    x = (codeNeg lt x).toNat * 2 ^ (lt.width - 1) + codeMag lt x := by
  obtain ⟨w, width⟩ : ∃ w, lt.width = w + 1 := ⟨lt.width - 1, by omega⟩
  rw [width, pow_succ] at fits
  rw [codeNeg, codeMag, width, Nat.add_sub_cancel, Nat.toNat_testBit, Nat.mod_eq_of_lt (Nat.div_lt_of_lt_mul fits)]
  exact (Nat.div_add_mod' x _).symm

theorem signed_false (lt : LT) (mag : Nat) : signed lt false mag = mag := rfl

/-- A code with its sign bit turned. -/
theorem signed_not_codeNeg {lt : LT} {x : Nat} (pos : 0 < lt.width) (fits : x < 2 ^ lt.width) :
    signed lt (!codeNeg lt x) (codeMag lt x) = (x + 2 ^ (lt.width - 1)) % 2 ^ lt.width := by
  have parts := codeNeg_add_codeMag pos fits
  have mag : codeMag lt x < 2 ^ (lt.width - 1) := Nat.mod_lt _ (Nat.two_pow_pos _)
  have width : 2 ^ lt.width = 2 * 2 ^ (lt.width - 1) := by rw [← pow_succ', Nat.sub_add_cancel pos]
  cases neg : codeNeg lt x
  · rw [neg] at parts
    simp only [Bool.toNat_false, Nat.zero_mul, Nat.zero_add] at parts
    rw [← parts] at mag ⊢
    rw [Nat.mod_eq_of_lt (by omega), Nat.add_comm]
    rfl
  · rw [neg] at parts
    simp only [Bool.toNat_true, Nat.one_mul] at parts
    rw [show x + 2 ^ (lt.width - 1) = codeMag lt x + 2 ^ lt.width by omega, Nat.add_mod_right, Nat.mod_eq_of_lt (by omega)]
    rfl

theorem LT.width_pos (lt : LT) : 0 < lt.width := by cases lt <;> decide

/-- Settles O18: each lane by the model's arithmetic on the decoded operands, the flags of all lanes together. -/
theorem vectorFloats : Obligations.VectorFloats := by
  unfold Obligations.VectorFloats
  intro g d lt rnd cc a b e s float
  refine ⟨codes_of_lane2 (fun x y => addF lt rnd (decodeF lt x) (decodeF lt y)) rfl,
    codes_of_lane2 (fun x y => addF lt rnd (decodeF lt x) (decodeF lt y).negate) rfl,
    codes_of_lane2 (fun x y => mulF lt rnd (decodeF lt x) (decodeF lt y)) rfl,
    codes_of_lane3 (fun x y z => fmaF lt rnd (decodeF lt x) (decodeF lt y) (decodeF lt z)) rfl,
    codes_of_lane2 (minmaxF lt false) rfl, codes_of_lane2 (minmaxF lt true) rfl,
    codes_of_lane1 (signF lt fun _ => false) rfl fun _ => rfl,
    codes_of_lane1 (signF lt fun n => !n) rfl fun j => ?turned, fun _ => codes_of_lane2 (fcmpLane lt cc) rfl⟩
  case turned => rw [signF, signed_not_codeNeg (LT.width_pos lt) (lane_lt ..)]

/-! ### Conversions (R130) -/

/-- A lane as the integer that it stands for. -/
theorem laneInt_eq_num {w x : Nat} (u : Bool) (fits : x < 2 ^ w) : laneInt w u x = Spec.num w u x := by
  rw [laneInt, sInt, Spec.num, Nat.mod_eq_of_lt fits]
  cases u <;> simp

theorem take_drop_map_range {α : Type} (f : Nat → α) {m p n : Nat} (within : p + n ≤ m) :
    (((List.range m).map f).drop p).take n = (List.range n).map fun j => f (p + j) := by
  apply List.ext_getElem
  · simp
    omega
  · simp

/-- The part of the source that a conversion takes lies in it. -/
theorem cvtPart_within {dst src : LT} {p : Nat} (ok : cvtPartOk dst src p = true) :
    p * (2048 / max src.width dst.width) + 2048 / max src.width dst.width ≤ 2048 / src.width := by
  unfold cvtPartOk at ok
  split at ok
  · rename_i wider
    rw [max_eq_right wider.le, ← Nat.succ_mul, Nat.le_div_iff_mul_le (LT.width_pos src), Nat.mul_right_comm]
    calc p.succ * src.width * (2048 / dst.width)
        ≤ dst.width / src.width * src.width * (2048 / dst.width) := by
          gcongr
          exact of_decide_eq_true ok
      _ ≤ dst.width * (2048 / dst.width) := by gcongr; exact Nat.div_mul_le_self ..
      _ ≤ 2048 := Nat.mul_div_le ..
  · rename_i narrower
    rw [beq_iff_eq.1 ok, max_eq_left (not_lt.1 narrower), Nat.zero_mul, Nat.zero_add]

theorem cvtV_eq {dst src : LT} {u : Bool} {p : Nat} (rnd : Rnd) (sat : Bool) (v : VWord) (ok : cvtPartOk dst src p = true) :
    cvtV dst src u p rnd sat v = ofLv dst.width ((List.range (2048 / max src.width dst.width)).map fun j =>
      cvtLane dst src u rnd sat (Spec.lane src.width v (p * (2048 / max src.width dst.width) + j))) := by
  rw [cvtV, lv_eq_map, take_drop_map_range _ (cvtPart_within ok), List.map_map]
  rfl

/-- No pair of integer formats is accepted. -/
theorem not_isInt_of_cvtPairOk {dst src : LT} (ok : cvtPairOk dst src = true) (int : dst.isInt = true) : src.isInt = false := by
  have only : dst.isFloat = false ∧ dst.isNarrow = false ∧ dst.isFloat3 = false := by
    cases dst <;> simp [LT.isInt] at int <;> decide
  have float : src.isFloat = true := by simpa [cvtPairOk, int, only] using ok
  cases src <;> simp [LT.isFloat] at float <;> rfl

/-- Settles O21: the lanes of the part, each converted by the model's conversions. -/
theorem vectorConversions : Obligations.VectorConversions := by
  unfold Obligations.VectorConversions
  intro g d dst src u p rnd sat a s wf
  obtain ⟨⟨pair, -⟩, part⟩ : (cvtPairOk dst src = true ∧ cvtUOk dst src u = true) ∧ cvtPartOk dst src p = true := by
    simpa [Instr.wf] using wf
  refine codes_of_issueV (void := fun c => voidV c a) rfl ((cvtV_eq rnd sat _ part).trans ?_)
  congr 2
  funext j
  have num := laneInt_eq_num (w := src.width) u (lane_lt src.width (valV (curCtx s) a) (p * (2048 / max src.width dst.width) + j))
  unfold cvtLane
  split
  · rename_i int
    rw [not_isInt_of_cvtPairOk pair int]
    rfl
  · split
    · rw [lint, num]
      rfl
    · rfl

end Sys2Proof.Machine
end

section
/-! Proofs of the family of spec/06: one rounding of an exact value onto a grid, and into a format (O19). -/

namespace Sys2Proof.Machine

/-! ### The nearest integer -/

theorem nearest_neg {x : ℚ} {n : Int} (h : Spec.nearest x n) : Spec.nearest (-x) (-n) := by
  have same : |-x - ((-n : Int) : ℚ)| = |x - n| := by rw [Int.cast_neg, ← abs_neg]; congr 1; ring
  unfold Spec.nearest
  rw [same, Int.neg_emod_two]
  exact h

/-- The nearest integer is above `s` from the middle on, and in the middle when `s` is odd. -/
theorem lt_nearest_iff {x : ℚ} {n : Int} (h : Spec.nearest x n) (s : Int) :
    s < n ↔ if s % 2 = 0 then (s : ℚ) + 1 / 2 < x else (s : ℚ) + 1 / 2 ≤ x := by
  obtain ⟨close, tie⟩ := h
  obtain ⟨below, above⟩ := abs_le.1 close
  constructor
  · intro lt
    have next : (s : ℚ) + 1 ≤ n := by exact_mod_cast lt
    split
    · rename_i even
      refine lt_of_le_of_ne (by linarith) fun eq => ?_
      have n_eq : n = s + 1 := by
        have : (n : ℚ) ≤ s + 1 := by linarith
        have : n ≤ s + 1 := by exact_mod_cast this
        omega
      have := tie (by rw [← eq, n_eq]; push_cast; norm_num)
      omega
    · linarith
  · intro reach
    by_contra le
    have le' : (n : ℚ) ≤ s := by exact_mod_cast not_lt.1 le
    split at reach
    · linarith
    · rename_i odd
      have n_eq : n = s := by
        have : (s : ℚ) ≤ n := by linarith
        have : s ≤ n := by exact_mod_cast this
        omega
      refine odd (n_eq ▸ tie ?_)
      rw [n_eq, abs_of_nonneg (by linarith)]
      rw [n_eq] at above
      linarith

theorem nearest_unique {x : ℚ} {a b : Int} (ha : Spec.nearest x a) (hb : Spec.nearest x b) : a = b := by
  refine le_antisymm (not_lt.1 fun lt => ?_) (not_lt.1 fun lt => ?_)
  · exact lt_irrefl b ((lt_nearest_iff hb b).2 ((lt_nearest_iff ha b).1 lt))
  · exact lt_irrefl a ((lt_nearest_iff ha a).2 ((lt_nearest_iff hb a).1 lt))

theorem nearest_int (n : Int) : Spec.nearest n n := by simp [Spec.nearest]

/-! ### One rounding onto a grid (R101, R113) -/

/-- The values that a rounding takes above the integer `s`. -/
def roundsAbove (rnd : Rnd) (s : Nat) (y : ℚ) : Prop :=
  match rnd with
  | .tz => (s : ℚ) + 1 ≤ y
  | .ne => if s % 2 = 0 then (s : ℚ) + 1 / 2 < y else (s : ℚ) + 1 / 2 ≤ y

section

variable {m : Nat} {e g : Int}

/-- On a grid that is finer than the value nothing is rounded. -/
theorem roundMag_of_le (rnd : Rnd) (fine : g ≤ e) :
    roundMag rnd m e g = (m * 2 ^ (e - g).toNat, false) ∧ ((m * 2 ^ (e - g).toNat : Nat) : ℚ) = m * 2 ^ (e - g) := by
  refine ⟨if_pos fine, ?_⟩
  rw [Nat.cast_mul, Nat.cast_pow, Nat.cast_two, ← zpow_natCast, Int.toNat_of_nonneg (by omega)]

/-- Quotient and remainder of a value on a coarser grid. -/
theorem value_of_lt (coarse : e < g) :
    (m : ℚ) * 2 ^ (e - g) = (m / 2 ^ (g - e).toNat : Nat) + (m % 2 ^ (g - e).toNat : Nat) / ((2 ^ (g - e).toNat : Nat) : ℚ) := by
  have unit : ((2 ^ (g - e).toNat : Nat) : ℚ) = 2 ^ (g - e) := by
    rw [Nat.cast_pow, Nat.cast_two, ← zpow_natCast, Int.toNat_of_nonneg (by omega)]
  have pos : ((2 ^ (g - e).toNat : Nat) : ℚ) ≠ 0 := by positivity
  have split : (m : ℚ) = 2 ^ (g - e).toNat * (m / 2 ^ (g - e).toNat : Nat) + (m % 2 ^ (g - e).toNat : Nat) := by
    exact_mod_cast (Nat.div_add_mod m _).symm
  rw [← neg_sub g e, zpow_neg, ← unit]
  nth_rewrite 1 [split]
  field_simp
  push_cast
  ring

/-- A value between two points of a coarser grid, and which of them it becomes. -/
theorem roundMag_of_lt (coarse : e < g) : ∃ (q : Nat) (f : ℚ), (m : ℚ) * 2 ^ (e - g) = q + f ∧ 0 ≤ f ∧ f < 1 ∧
    roundMag .tz m e g = (q, decide (f ≠ 0)) ∧
    roundMag .ne m e g = (if 1 / 2 < f ∨ f = 1 / 2 ∧ q % 2 = 1 then q + 1 else q, decide (f ≠ 0)) := by
  have pos : (0 : ℚ) < (2 ^ (g - e).toNat : Nat) := by positivity
  have low : ((m % 2 ^ (g - e).toNat : Nat) : ℚ) < (2 ^ (g - e).toNat : Nat) := by
    exact_mod_cast Nat.mod_lt m (Nat.two_pow_pos _)
  refine ⟨_, _, value_of_lt coarse, by positivity, (div_lt_one pos).2 low, ?_, ?_⟩ <;> rw [roundMag, if_neg (by omega)]
  all_goals
    generalize 2 ^ (g - e).toNat = u at *
    have exact : ((m % u : Nat) : ℚ) / u = 0 ↔ m % u = 0 := by
      rw [div_eq_zero_iff, Nat.cast_eq_zero, or_iff_left pos.ne']
  · simp [exact, bne]
    rfl
  · have above : 2⁻¹ < ((m % u : Nat) : ℚ) / u ↔ u < 2 * (m % u) := by
      rw [lt_div_iff₀ pos, inv_mul_lt_iff₀ two_pos]
      exact_mod_cast Iff.rfl
    have middle : ((m % u : Nat) : ℚ) / u = 2⁻¹ ↔ 2 * (m % u) = u := by
      rw [div_eq_iff pos.ne', eq_inv_mul_iff_mul_eq₀ two_ne_zero]
      exact_mod_cast Iff.rfl
    simp [exact, above, middle, bne]
    rfl

theorem roundMag_tz_bounds : ((roundMag .tz m e g).1 : ℚ) ≤ m * 2 ^ (e - g) ∧ (m : ℚ) * 2 ^ (e - g) < (roundMag .tz m e g).1 + 1 := by
  rcases le_or_gt g e with fine | coarse
  · obtain ⟨round, value⟩ := roundMag_of_le (m := m) .tz fine
    rw [round, ← value]
    simp
  · obtain ⟨q, f, value, low, high, round, -⟩ := roundMag_of_lt (m := m) coarse
    rw [round, value]
    constructor <;> linarith

theorem roundMag_ne_nearest : Spec.nearest ((m : ℚ) * 2 ^ (e - g)) (roundMag .ne m e g).1 := by
  rcases le_or_gt g e with fine | coarse
  · obtain ⟨round, value⟩ := roundMag_of_le (m := m) .ne fine
    rw [round, ← value]
    exact_mod_cast nearest_int (m * 2 ^ (e - g).toNat : Nat)
  · obtain ⟨q, f, value, low, high, -, round⟩ := roundMag_of_lt (m := m) coarse
    rw [round, value, Spec.nearest]
    split
    · rename_i up
      have dist : |(q : ℚ) + f - ((q + 1 : Nat) : Int)| = 1 - f := by
        push_cast
        rw [abs_of_neg (by linarith)]
        ring
      rw [dist]
      refine ⟨by rcases up with up | up <;> linarith, fun tie => ?_⟩
      have := up.resolve_left (by linarith)
      omega
    · rename_i down
      have dist : |(q : ℚ) + f - (q : Int)| = f := by
        push_cast
        rw [add_sub_cancel_left, abs_of_nonneg low]
      rw [dist]
      refine ⟨not_lt.1 fun up => down (.inl up), fun tie => ?_⟩
      have : ¬q % 2 = 1 := fun odd => down (.inr ⟨tie, odd⟩)
      omega

theorem roundMag_exact_iff (rnd : Rnd) : (roundMag rnd m e g).2 = false ↔ ((roundMag rnd m e g).1 : ℚ) = m * 2 ^ (e - g) := by
  rcases le_or_gt g e with fine | coarse
  · obtain ⟨round, value⟩ := roundMag_of_le (m := m) rnd fine
    rw [round, ← value]
    simp
  · obtain ⟨q, f, value, low, high, tz, ne⟩ := roundMag_of_lt (m := m) coarse
    rw [value]
    cases rnd
    case tz => simp [tz]
    case ne =>
      rw [ne]
      split
      · rename_i up
        have : f ≠ 0 := by rintro rfl; norm_num at up
        refine iff_of_false (by simpa using this) fun eq => ?_
        push_cast at eq
        linarith
      · simp

theorem lt_roundMag_iff (rnd : Rnd) (s : Nat) : s < (roundMag rnd m e g).1 ↔ roundsAbove rnd s (m * 2 ^ (e - g)) := by
  cases rnd
  case ne =>
    have h := lt_nearest_iff (roundMag_ne_nearest (m := m) (e := e) (g := g)) s
    rw [Int.ofNat_lt] at h
    rw [h, roundsAbove]
    norm_cast
  case tz =>
    obtain ⟨below, above⟩ := roundMag_tz_bounds (m := m) (e := e) (g := g)
    show _ ↔ (s : ℚ) + 1 ≤ _
    constructor
    · intro lt
      have : ((s + 1 : Nat) : ℚ) ≤ (roundMag .tz m e g).1 := by exact_mod_cast lt
      push_cast at this
      linarith
    · intro le
      exact_mod_cast (by linarith : (s : ℚ) < (roundMag .tz m e g).1)

theorem le_roundMag (rnd : Rnd) {n : Nat} (le : (n : ℚ) ≤ m * 2 ^ (e - g)) : n ≤ (roundMag rnd m e g).1 := by
  cases n with
  | zero => exact Nat.zero_le _
  | succ n =>
    push_cast at le
    refine (lt_roundMag_iff rnd n).2 ?_
    cases rnd
    · simp only [roundsAbove]
      split <;> linarith
    · exact le

theorem roundMag_le (rnd : Rnd) {n : Nat} (le : (m : ℚ) * 2 ^ (e - g) ≤ n) : (roundMag rnd m e g).1 ≤ n := by
  refine not_lt.1 fun lt => ?_
  have above := (lt_roundMag_iff rnd n).1 lt
  cases rnd <;> simp only [roundsAbove] at above
  · split at above <;> linarith
  · linarith

end

/-- No integer is nearer than the nearest one, and another that is as near makes it even. -/
theorem nearest_le {y : ℚ} {r : Int} (h : Spec.nearest y r) (k : Int) :
    |r - y| ≤ |k - y| ∧ (|r - y| = |k - y| → k ≠ r → r % 2 = 0) := by
  obtain ⟨close, tie⟩ := h
  rw [abs_sub_comm] at close tie
  rcases eq_or_ne k r with rfl | ne
  · exact ⟨le_rfl, fun _ h => absurd rfl h⟩
  · have apart : (1 : ℚ) ≤ |(k : ℚ) - r| := by exact_mod_cast Int.one_le_abs (sub_ne_zero.2 ne)
    have split : |(k : ℚ) - r| ≤ |k - y| + |r - y| := by
      rw [abs_sub_comm (r : ℚ)]
      exact abs_sub_le ..
    exact ⟨by linarith, fun eq _ => tie (by linarith)⟩

/-! ### The values of a format (R99) -/

/-- The grid of the subnormal values. -/
def gridMin (lt : LT) : Int := 1 - expBias lt - fracBits lt

/-- The value of a magnitude code. -/
def magVal (lt : LT) (mag : Nat) : ℚ :=
  if mag / 2 ^ fracBits lt = 0 then (mag % 2 ^ fracBits lt : Nat) * 2 ^ gridMin lt
  else (mag % 2 ^ fracBits lt + 2 ^ fracBits lt : Nat) * 2 ^ ((mag / 2 ^ fracBits lt : Nat) - 1 + gridMin lt)

/-- The factor of a sign. -/
def signVal (neg : Bool) : ℚ := if neg then -1 else 1

theorem abs_signVal (neg : Bool) : |signVal neg| = 1 := by cases neg <;> simp [signVal]

theorem signVal_mul_self (neg : Bool) : signVal neg * signVal neg = 1 := by cases neg <;> simp [signVal]

theorem rat_finOfMag (lt : LT) (neg : Bool) (mag : Nat) : Spec.rat (finOfMag lt neg mag) = some (signVal neg * magVal lt mag) := by
  by_cases sub : mag / 2 ^ fracBits lt = 0
  · rw [finOfMag, magVal, if_pos sub, if_pos sub, ← mul_assoc]
    rfl
  · rw [finOfMag, magVal, if_neg sub, if_neg sub, gridMin, ← mul_assoc,
      show ∀ k b f : Int, k - 1 + (1 - b - f) = k - b - f by intros; ring]
    rfl

/-- What stands at a place of a binade: a significand beyond the last one of its binade is the first of the next. -/
theorem magVal_of_grid {lt : LT} {r k : Nat} (top : r ≤ 2 ^ (fracBits lt + 1)) (low : 2 ^ fracBits lt ≤ r ∨ k = 0) :
    magVal lt (k * 2 ^ fracBits lt + r) = r * 2 ^ (k + gridMin lt) := by
  have pos : 0 < 2 ^ fracBits lt := Nat.two_pow_pos _
  unfold magVal
  generalize gridMin lt = g
  rw [pow_succ] at top
  rw [Nat.mul_comm k, Nat.mul_add_div pos, Nat.mul_add_mod]
  rcases lt_or_ge r (2 ^ fracBits lt) with sub | normal
  · obtain rfl := low.resolve_left (not_le.2 sub)
    rw [Nat.div_eq_of_lt sub, if_pos rfl, Nat.mod_eq_of_lt sub]
    simp
  · rcases top.lt_or_eq with inside | next
    · have quot : r / 2 ^ fracBits lt = 1 := Nat.div_eq_of_lt_le (by omega) (by omega)
      have rem : r % 2 ^ fracBits lt + 2 ^ fracBits lt = r := by
        have := Nat.mod_add_div r (2 ^ fracBits lt)
        rw [quot] at this
        omega
      rw [quot, if_neg (by omega), rem]
      push_cast
      congr 2
      ring
    · have quot : r / 2 ^ fracBits lt = 2 := by rw [next, Nat.mul_div_cancel_left _ pos]
      have rem : r % 2 ^ fracBits lt = 0 := by rw [next, Nat.mul_mod_right]
      rw [quot, if_neg (by omega), rem, next]
      push_cast
      rw [show (k : Int) + 2 - 1 + g = 1 + (k + g) by ring, zpow_add₀ two_ne_zero]
      ring

theorem magVal_nonneg (lt : LT) (mag : Nat) : 0 ≤ magVal lt mag := by
  unfold magVal
  split <;> positivity

/-- Every magnitude has at most `fracBits lt + 1` bits, on no finer grid than the subnormal values. -/
theorem magVal_form (lt : LT) (mag : Nat) :
    ∃ (n : Nat) (e : Int), magVal lt mag = n * 2 ^ e ∧ n < 2 ^ (fracBits lt + 1) ∧ gridMin lt ≤ e := by
  have low : mag % 2 ^ fracBits lt < 2 ^ fracBits lt := Nat.mod_lt _ (Nat.two_pow_pos _)
  rw [pow_succ]
  unfold magVal
  split
  · exact ⟨_, _, rfl, by omega, le_rfl⟩
  · rename_i normal
    have place : (0 : Int) ≤ (mag / 2 ^ fracBits lt : Nat) - 1 := sub_nonneg.2 (by exact_mod_cast Nat.pos_of_ne_zero normal)
    exact ⟨_, _, rfl, by omega, le_add_of_nonneg_left place⟩

/-! ### Codes and their values (R99, R104 to R106) -/

theorem fmt_eq (lt : LT) : Spec.fmt lt = (fracBits lt, (expBias lt : Int), expMax lt) := by cases lt <;> rfl

theorem sigMax_eq {lt : LT} (ne : lt ≠ .e4m3) : sigMax lt = 2 ^ (fracBits lt + 1) - 1 := by
  unfold sigMax
  split
  · exact absurd rfl ne
  · rfl

theorem exists_magVal_of_rat {lt : LT} {q : Nat} {v : ℚ} (value : Spec.rat (decodeF lt q) = some v) :
    ∃ neg mag, v = signVal neg * magVal lt mag := by
  have fin : ∀ neg mag, Spec.rat (finOfMag lt neg mag) = some v → ∃ neg mag, v = signVal neg * magVal lt mag := fun neg mag h =>
    ⟨neg, mag, Option.some.inj (h.symm.trans (rat_finOfMag lt neg mag))⟩
  unfold decodeF at value
  dsimp only at value
  split at value <;> split at value
  · cases value
  · exact fin _ _ value
  · exact ⟨false, 0, by simpa [Spec.rat, magVal, eq_comm] using value⟩
  · exact fin _ _ value
  · exact fin _ _ value
  · split at value <;> cases value

section

variable {lt : LT} (format : lt.isFloat = true ∨ lt.isNarrow = true)
include format

theorem fracBits_pos : 1 ≤ fracBits lt := by
  cases lt <;> simp [LT.isFloat, LT.isNarrow] at format <;> decide

theorem sigMax_bounds : 2 ^ fracBits lt ≤ sigMax lt ∧ sigMax lt < 2 ^ (fracBits lt + 1) := by
  cases lt <;> simp [LT.isFloat, LT.isNarrow] at format <;> decide

theorem expMax_ge : 2 ≤ expMax lt + expBias lt := by
  cases lt <;> simp [LT.isFloat, LT.isNarrow] at format <;> decide

theorem codeMax_lt : codeMax lt < 2 ^ (lt.width - 1) := by
  cases lt <;> simp [LT.isFloat, LT.isNarrow] at format <;> decide

theorem largestCode_eq : Spec.largestCode lt = codeMax lt := by
  cases lt <;> simp [LT.isFloat, LT.isNarrow] at format <;> decide

theorem largest_eq : Spec.largest lt = sigMax lt * 2 ^ (expMax lt - fracBits lt) := by
  by_cases e4m3 : lt = .e4m3
  · subst e4m3
    norm_num [Spec.largest, sigMax, expMax, fracBits]
  · rw [Spec.largest, if_neg e4m3, fmt_eq, sigMax_eq e4m3, zpow_sub₀ two_ne_zero, zpow_neg, zpow_natCast,
      Nat.cast_sub Nat.one_le_two_pow]
    push_cast
    field_simp
    ring

theorem codeMax_lt_codeInf (e4m3 : lt ≠ .e4m3) (e2m1 : lt ≠ .e2m1) : codeMax lt < codeInf lt := by
  cases lt <;> simp [LT.isFloat, LT.isNarrow] at format e4m3 e2m1 <;> decide

/-- The codes of the finite magnitudes. -/
theorem decodeF_of_le {q : Nat} (le : codeMag lt q ≤ codeMax lt) (nonzero : lt = .e2m1 → codeMag lt q ≠ 0) :
    decodeF lt q = finOfMag lt (codeNeg lt q) (codeMag lt q) := by
  unfold decodeF
  dsimp only
  split
  · refine if_neg fun nan => ?_
    rw [nan] at le
    exact absurd le (by decide)
  · exact if_neg (nonzero rfl)
  · rename_i e4m3 e2m1
    exact if_pos (le.trans_lt (codeMax_lt_codeInf format e4m3 e2m1))

end

theorem codeMag_signed {lt : LT} {mag : Nat} (neg : Bool) (fits : mag < 2 ^ (lt.width - 1)) :
    codeMag lt (signed lt neg mag) = mag ∧ codeNeg lt (signed lt neg mag) = neg ∧ signed lt neg mag < 2 ^ lt.width := by
  have width : 2 ^ lt.width = 2 * 2 ^ (lt.width - 1) := by rw [← pow_succ', Nat.sub_add_cancel (LT.width_pos lt)]
  cases neg
  · exact ⟨Nat.mod_eq_of_lt fits, Nat.testBit_lt_two_pow fits, by rw [signed_false]; omega⟩
  · refine ⟨?_, ?_, ?_⟩
    · rw [codeMag, signed, if_pos rfl, Nat.add_mod_left, Nat.mod_eq_of_lt fits]
    · rw [codeNeg, signed, if_pos rfl, Nat.testBit_two_pow_add_eq, Nat.testBit_lt_two_pow fits]
      rfl
    · rw [signed, if_pos rfl]
      omega

/-- The code of a sign and a magnitude: E2M1 has no negative zero (R102). -/
def codeOf (lt : LT) (neg : Bool) (mag : Nat) : Nat := if lt == .e2m1 && mag == 0 then 0 else signed lt neg mag

theorem codeOf_even {lt : LT} {mag : Nat} (neg : Bool) (even : mag % 2 = 0) : codeOf lt neg mag % 2 = 0 := by
  unfold codeOf signed
  have width : 2 ∣ 2 ^ (lt.width - 1) := dvd_pow_self 2 (by cases lt <;> decide)
  split
  · rfl
  · split <;> omega

section

variable {lt : LT} (format : lt.isFloat = true ∨ lt.isNarrow = true) {mag : Nat} (le : mag ≤ codeMax lt) (neg : Bool)
include format le

theorem codeOf_fits : codeOf lt neg mag < 2 ^ lt.width := by
  unfold codeOf
  split
  · exact Nat.two_pow_pos _
  · exact (codeMag_signed neg (le.trans_lt (codeMax_lt format))).2.2

theorem codeOf_sign (ne : lt ≠ .e2m1) : (codeOf lt neg mag).testBit (lt.width - 1) = neg := by
  rw [codeOf, if_neg (by simp [ne])]
  exact (codeMag_signed neg (le.trans_lt (codeMax_lt format))).2.1

theorem rat_decodeF_codeOf : Spec.rat (decodeF lt (codeOf lt neg mag)) = some (signVal neg * magVal lt mag) := by
  obtain ⟨magnitude, sign, -⟩ := codeMag_signed neg (le.trans_lt (codeMax_lt format))
  by_cases zero : lt = .e2m1 ∧ mag = 0
  · obtain ⟨rfl, rfl⟩ := zero
    simp [codeOf, decodeF, codeMag, Spec.rat, magVal]
  · rw [codeOf, if_neg (by simpa using zero), decodeF_of_le format (magnitude.trans_le le), magnitude, sign, rat_finOfMag]
    rw [magnitude]
    exact not_and.1 zero

end

/-! ### Where a value stands among those of a format -/

/-- A value of at most `b + 1` bits that reaches the binade of a grid lies on the grid. -/
theorem on_grid {n b : Nat} {e g : Int} (small : n < 2 ^ (b + 1)) (reach : (2 : ℚ) ^ (g + b) ≤ n * 2 ^ e) :
    ∃ k : Nat, (n : ℚ) * 2 ^ e = k * 2 ^ g := by
  have below : (2 : ℚ) ^ (g + b) < 2 ^ (e + b + 1) := by
    refine reach.trans_lt ?_
    rw [show e + b + 1 = (b + 1 : Nat) + e by push_cast; ring, zpow_add₀ two_ne_zero, zpow_natCast]
    gcongr
    exact_mod_cast small
  have fine : g ≤ e := by
    have := (zpow_lt_zpow_iff_right₀ one_lt_two).1 below
    omega
  refine ⟨n * 2 ^ (e - g).toNat, ?_⟩
  rw [Nat.cast_mul, Nat.cast_pow, Nat.cast_two, ← zpow_natCast, Int.toNat_of_nonneg (by omega), mul_assoc, ← zpow_add₀ two_ne_zero,
    sub_add_cancel]

/-- A value of a format lies on a grid, or below the binade of the grid, which is then not the lowest one. -/
theorem format_grid {lt : LT} {q : Nat} {v : ℚ} (value : Spec.rat (decodeF lt q) = some v) (g : Int) :
    (∃ k : Nat, |v| = k * 2 ^ g) ∨ (|v| < 2 ^ (g + fracBits lt) ∧ gridMin lt < g) := by
  obtain ⟨neg, mag, rfl⟩ := exists_magVal_of_rat value
  obtain ⟨n, e, form, small, above⟩ := magVal_form lt mag
  rw [abs_mul, abs_signVal, one_mul, abs_of_nonneg (magVal_nonneg lt mag), form]
  rcases le_or_gt ((2 : ℚ) ^ (g + fracBits lt)) (n * 2 ^ e) with reach | below
  · exact .inl (on_grid small reach)
  · rcases lt_or_ge (gridMin lt) g with higher | lowest
    · exact .inr ⟨below, higher⟩
    · refine .inl ⟨n * 2 ^ (e - g).toNat, ?_⟩
      rw [Nat.cast_mul, Nat.cast_pow, Nat.cast_two, ← zpow_natCast, Int.toNat_of_nonneg (by omega), mul_assoc,
        ← zpow_add₀ two_ne_zero, sub_add_cancel]

section

variable {lt : LT} {m : Nat} {e : Int}

/-- The grid on which a value has as many bits as the format's significands. -/
def topGrid (lt : LT) (m : Nat) (e : Int) : Int := e + (Nat.log2 m : Int) - fracBits lt

/-- The grid on which a value is rounded. -/
def landGrid (lt : LT) (m : Nat) (e : Int) : Int := max (topGrid lt m e) (gridMin lt)

variable (nonzero : m ≠ 0)
include nonzero

theorem topGrid_bounds : (2 : ℚ) ^ fracBits lt ≤ m * 2 ^ (e - topGrid lt m e) ∧
    (m : ℚ) * 2 ^ (e - topGrid lt m e) < 2 ^ (fracBits lt + 1) := by
  have lower : (2 : ℚ) ^ (Nat.log2 m : Int) ≤ m := by
    rw [zpow_natCast]
    exact_mod_cast Nat.log2_self_le nonzero
  have upper : (m : ℚ) < 2 ^ ((Nat.log2 m : Int) + 1) := by
    rw [← Nat.cast_succ, zpow_natCast]
    exact_mod_cast Nat.lt_log2_self
  have place : e - topGrid lt m e = fracBits lt - (Nat.log2 m : Int) := by rw [topGrid]; ring
  have scale : (0 : ℚ) < 2 ^ (e - topGrid lt m e) := by positivity
  constructor
  · refine le_trans (le_of_eq ?_) (mul_le_mul_of_nonneg_right lower scale.le)
    rw [← zpow_add₀ two_ne_zero, place, add_sub_cancel, zpow_natCast]
  · refine (mul_lt_mul_of_pos_right upper scale).trans_le (le_of_eq ?_)
    rw [← zpow_add₀ two_ne_zero, place, ← zpow_natCast]
    congr 1
    push_cast
    ring

theorem topRound_bounds (rnd : Rnd) : 2 ^ fracBits lt ≤ (roundMag rnd m e (topGrid lt m e)).1 ∧
    (roundMag rnd m e (topGrid lt m e)).1 ≤ 2 ^ (fracBits lt + 1) := by
  obtain ⟨lower, upper⟩ := topGrid_bounds (lt := lt) (e := e) nonzero
  exact ⟨le_roundMag rnd (by exact_mod_cast lower), roundMag_le rnd (by exact_mod_cast upper.le)⟩

/-- On its grid a value is below the next power, and has its first bit when it is no subnormal one. -/
theorem landGrid_bounds : (m : ℚ) * 2 ^ (e - landGrid lt m e) < 2 ^ (fracBits lt + 1) ∧
    (gridMin lt < landGrid lt m e → (2 : ℚ) ^ fracBits lt ≤ m * 2 ^ (e - landGrid lt m e)) := by
  obtain ⟨lower, upper⟩ := topGrid_bounds (lt := lt) (e := e) nonzero
  refine ⟨lt_of_le_of_lt ?_ upper, fun higher => ?_⟩
  · gcongr
    · exact one_le_two
    · exact le_max_left ..
  · have : landGrid lt m e = topGrid lt m e := max_eq_left (by unfold landGrid at higher; omega)
    rwa [this]

theorem landRound_bounds (rnd : Rnd) : (roundMag rnd m e (landGrid lt m e)).1 ≤ 2 ^ (fracBits lt + 1) ∧
    (2 ^ fracBits lt ≤ (roundMag rnd m e (landGrid lt m e)).1 ∨ landGrid lt m e = gridMin lt) := by
  obtain ⟨upper, lower⟩ := landGrid_bounds (lt := lt) (e := e) nonzero
  refine ⟨roundMag_le rnd (by exact_mod_cast upper.le), ?_⟩
  rcases (le_max_right (topGrid lt m e) (gridMin lt)).lt_or_eq with higher | lowest
  · exact .inl (le_roundMag rnd (by exact_mod_cast lower higher))
  · exact .inr lowest.symm

/-! ### The rounding of a format (R101, R102) -/

/-- A value whose rounding with an unbounded exponent range exceeds the largest finite value. -/
def overflows (lt : LT) (rnd : Rnd) (m : Nat) (e : Int) : Prop :=
  expMax lt - fracBits lt ≤ topGrid lt m e ∧
    sigMax lt < (roundMag rnd m e (topGrid lt m e)).1 * 2 ^ (topGrid lt m e - (expMax lt - fracBits lt)).toNat

/-- A value that is tiny (R101). -/
def isTiny (lt : LT) (rnd : Rnd) (m : Nat) (e : Int) : Bool :=
  decide (topGrid lt m e < gridMin lt) && decide ((roundMag rnd m e (topGrid lt m e)).1 < 2 ^ (1 - expBias lt - topGrid lt m e).toNat)

/-- The magnitude code of a rounded value. -/
def landMag (lt : LT) (rnd : Rnd) (m : Nat) (e : Int) : Nat :=
  (landGrid lt m e - gridMin lt).toNat * 2 ^ fracBits lt + (roundMag rnd m e (landGrid lt m e)).1

theorem roundF_of_overflows {rnd : Rnd} (beyond : overflows lt rnd m e) (sat neg : Bool) :
    roundF lt rnd sat neg m e = overflowF lt rnd sat neg := by
  rw [roundF, if_neg nonzero]
  exact if_pos (by simpa [overflows, topGrid] using beyond)

theorem roundF_of_not_overflows {rnd : Rnd} (within : ¬overflows lt rnd m e) (sat neg : Bool) :
    roundF lt rnd sat neg m e = (codeOf lt neg (landMag lt rnd m e), if (roundMag rnd m e (landGrid lt m e)).2 = false then 0
      else if isTiny lt rnd m e = true then fINX ||| fUNF else fINX) := by
  rw [roundF, if_neg nonzero]
  refine (if_neg (by simpa [overflows, topGrid] using within)).trans (Prod.ext rfl ?_)
  show fIf (roundMag rnd m e (landGrid lt m e)).2 fINX ||| fIf ((roundMag rnd m e (landGrid lt m e)).2 && isTiny lt rnd m e) fUNF = _
  cases (roundMag rnd m e (landGrid lt m e)).2 <;> cases isTiny lt rnd m e <;> rfl

theorem landMag_le {rnd : Rnd} (format : lt.isFloat = true ∨ lt.isNarrow = true) (within : ¬overflows lt rnd m e) :
    landMag lt rnd m e ≤ codeMax lt := by
  obtain ⟨one_bit, below⟩ := sigMax_bounds format
  have room := expMax_ge format
  obtain ⟨top, -⟩ := landRound_bounds (lt := lt) (e := e) nonzero rnd
  obtain ⟨first, -⟩ := topRound_bounds (lt := lt) (e := e) nonzero rnd
  rw [pow_succ] at below top
  unfold landMag codeMax
  rcases lt_or_ge (topGrid lt m e) (expMax lt - fracBits lt) with lower | upper
  · have place : (landGrid lt m e - gridMin lt).toNat + 2 ≤ (expMax lt + expBias lt).toNat - 1 + 1 := by
      unfold landGrid gridMin
      omega
    have := Nat.mul_le_mul_right (2 ^ fracBits lt) place
    rw [Nat.add_mul, Nat.add_mul] at this
    omega
  · have fits := not_lt.1 fun lt => within ⟨upper, lt⟩
    have same : topGrid lt m e = expMax lt - fracBits lt := by
      by_contra ne
      obtain ⟨k, higher⟩ : ∃ k, (topGrid lt m e - (expMax lt - fracBits lt)).toNat = k + 1 :=
        ⟨(topGrid lt m e - (expMax lt - fracBits lt)).toNat - 1, by omega⟩
      rw [higher] at fits
      have := Nat.mul_le_mul first (Nat.pow_le_pow_right two_pos (Nat.le_add_left 1 k))
      omega
    have land : landGrid lt m e = topGrid lt m e := max_eq_left (by unfold gridMin; omega)
    have place : (landGrid lt m e - gridMin lt).toNat = (expMax lt + expBias lt).toNat - 1 := by
      unfold gridMin
      omega
    rw [same, sub_self, Int.toNat_zero, pow_zero, mul_one] at fits
    rw [place, land, same]
    omega

theorem magVal_landMag (rnd : Rnd) : magVal lt (landMag lt rnd m e) = (roundMag rnd m e (landGrid lt m e)).1 * 2 ^ landGrid lt m e := by
  obtain ⟨top, low⟩ := landRound_bounds (lt := lt) (e := e) nonzero rnd
  have above : gridMin lt ≤ landGrid lt m e := le_max_right ..
  rw [landMag, magVal_of_grid top (low.imp_right fun lowest => by rw [lowest, sub_self]; rfl), Int.toNat_of_nonneg (by omega),
    sub_add_cancel]

end

/-! ### Overflow and tiny results by value (R101, R102) -/

theorem not_roundsAbove_of_le {rnd : Rnd} {s : Nat} {y : ℚ} (le : y ≤ s) : ¬roundsAbove rnd s y := by
  cases rnd <;> simp only [roundsAbove]
  · split <;> linarith
  · linarith

theorem roundsAbove_of_ge {rnd : Rnd} {s : Nat} {y : ℚ} (ge : (s : ℚ) + 1 ≤ y) : roundsAbove rnd s y := by
  cases rnd <;> simp only [roundsAbove]
  · split <;> linarith
  · exact ge

theorem value_div (m : Nat) (e g : Int) : (m : ℚ) * 2 ^ e / 2 ^ g = m * 2 ^ (e - g) := by
  rw [mul_div_assoc, ← zpow_sub₀ two_ne_zero]

/-- The magnitudes that overflow (R102). -/
def beyondLargest (lt : LT) (rnd : Rnd) (x : ℚ) : Prop :=
  let ulp : ℚ := 2 ^ ((Spec.fmt lt).2.2 - ((Spec.fmt lt).1 : Int))
  match rnd with
  | .tz => Spec.largest lt + ulp ≤ x
  | .ne => if lt = .e4m3 then Spec.largest lt + ulp / 2 < x else Spec.largest lt + ulp / 2 ≤ x

/-- The magnitudes that are tiny (R101). -/
def tinyMagnitude (lt : LT) (rnd : Rnd) (x : ℚ) : Prop :=
  x < 2 ^ (1 - (Spec.fmt lt).2.1) - (if rnd = .ne then 2 ^ (-1 - (Spec.fmt lt).2.1 - ((Spec.fmt lt).1 : Int)) else 0)

theorem sigMax_even_iff {lt : LT} : sigMax lt % 2 = 0 ↔ lt = .e4m3 := by
  by_cases e4m3 : lt = .e4m3
  · subst e4m3
    decide
  · have := Nat.two_pow_pos (fracBits lt)
    rw [sigMax_eq e4m3, pow_succ]
    exact iff_of_false (by omega) e4m3

section

variable {lt : LT} (format : lt.isFloat = true ∨ lt.isNarrow = true) {m : Nat} {e : Int}
include format

theorem beyondLargest_iff (rnd : Rnd) (x : ℚ) :
    beyondLargest lt rnd x ↔ roundsAbove rnd (sigMax lt) (x / 2 ^ (expMax lt - fracBits lt)) := by
  have unit : (0 : ℚ) < 2 ^ (expMax lt - fracBits lt) := by positivity
  unfold beyondLargest
  rw [largest_eq format, fmt_eq]
  cases rnd
  · simp only [roundsAbove, sigMax_even_iff]
    split
    · rw [lt_div_iff₀ unit, add_mul, one_div_mul_eq_div]
    · rw [le_div_iff₀ unit, add_mul, one_div_mul_eq_div]
  · show _ ↔ _ + 1 ≤ _
    rw [le_div_iff₀ unit, add_mul, one_mul]

theorem overflows_iff (nonzero : m ≠ 0) (rnd : Rnd) : overflows lt rnd m e ↔ beyondLargest lt rnd (m * 2 ^ e) := by
  obtain ⟨one_bit, below⟩ := sigMax_bounds format
  obtain ⟨lower, upper⟩ := topGrid_bounds (lt := lt) (e := e) nonzero
  rw [beyondLargest_iff format, value_div]
  have shift : (m : ℚ) * 2 ^ (e - (expMax lt - fracBits lt)) =
      m * 2 ^ (e - topGrid lt m e) * 2 ^ (topGrid lt m e - (expMax lt - fracBits lt)) := by
    rw [mul_assoc, ← zpow_add₀ two_ne_zero]
    congr 2
    ring
  unfold overflows
  rcases lt_trichotomy (topGrid lt m e) (expMax lt - fracBits lt) with less | same | more
  · refine iff_of_false (fun h => absurd h.1 (not_le.2 less)) (not_roundsAbove_of_le ?_)
    have half : (2 : ℚ) ^ (topGrid lt m e - (expMax lt - fracBits lt)) ≤ 2 ^ (-1 : Int) := zpow_le_zpow_right₀ one_le_two (by omega)
    have bit : (2 : ℚ) ^ fracBits lt ≤ sigMax lt := by exact_mod_cast one_bit
    rw [shift]
    calc (m : ℚ) * 2 ^ (e - topGrid lt m e) * 2 ^ (topGrid lt m e - (expMax lt - fracBits lt))
        ≤ 2 ^ (fracBits lt + 1) * 2 ^ (-1 : Int) := by gcongr
      _ = 2 ^ fracBits lt := by rw [pow_succ, zpow_neg_one]; ring
      _ ≤ sigMax lt := bit
  · rw [same, sub_self, Int.toNat_zero, pow_zero, mul_one, and_iff_right le_rfl]
    exact lt_roundMag_iff rnd _
  · obtain ⟨first, -⟩ := topRound_bounds (lt := lt) (e := e) nonzero rnd
    obtain ⟨k, higher⟩ : ∃ k, (topGrid lt m e - (expMax lt - fracBits lt)).toNat = k + 1 :=
      ⟨(topGrid lt m e - (expMax lt - fracBits lt)).toNat - 1, by omega⟩
    refine iff_of_true ⟨more.le, below.trans_le ?_⟩ (roundsAbove_of_ge ?_)
    · rw [higher, pow_succ]
      exact Nat.mul_le_mul first (Nat.pow_le_pow_right two_pos (Nat.le_add_left 1 k))
    · have double : (2 : ℚ) ^ (1 : Int) ≤ 2 ^ (topGrid lt m e - (expMax lt - fracBits lt)) := zpow_le_zpow_right₀ one_le_two (by omega)
      have bits : (sigMax lt : ℚ) + 1 ≤ 2 ^ (fracBits lt + 1) := by exact_mod_cast below
      rw [shift]
      calc (sigMax lt : ℚ) + 1 ≤ 2 ^ fracBits lt * 2 ^ (1 : Int) := by rwa [zpow_one, ← pow_succ]
        _ ≤ _ := by gcongr

end

theorem isTiny_iff {lt : LT} {m : Nat} {e : Int} (nonzero : m ≠ 0) (rnd : Rnd) :
    isTiny lt rnd m e = true ↔ tinyMagnitude lt rnd (m * 2 ^ e) := by
  obtain ⟨lower, upper⟩ := topGrid_bounds (lt := lt) (e := e) nonzero
  obtain ⟨-, top⟩ := topRound_bounds (lt := lt) (e := e) nonzero rnd
  have value : (m : ℚ) * 2 ^ e = m * 2 ^ (e - topGrid lt m e) * 2 ^ topGrid lt m e := by
    rw [mul_assoc, ← zpow_add₀ two_ne_zero, sub_add_cancel]
  have unit : (0 : ℚ) < 2 ^ topGrid lt m e := by positivity
  rw [isTiny, Bool.and_eq_true, decide_eq_true_iff, decide_eq_true_iff, tinyMagnitude, fmt_eq, value]
  dsimp only
  rcases lt_trichotomy (topGrid lt m e + 1) (gridMin lt) with less | same | more
  · refine iff_of_true ⟨by omega, top.trans_lt (Nat.pow_lt_pow_right one_lt_two (by unfold gridMin at less; omega))⟩ ?_
    have small : (2 : ℚ) ^ (fracBits lt + 1) * 2 ^ topGrid lt m e ≤ 2 ^ (-(expBias lt : Int)) := by
      rw [← zpow_natCast, ← zpow_add₀ two_ne_zero]
      exact zpow_le_zpow_right₀ one_le_two (by unfold gridMin at less; push_cast; omega)
    have margin : (2 : ℚ) ^ (-1 - (expBias lt : Int) - fracBits lt) ≤ 2 ^ (-(expBias lt : Int)) :=
      zpow_le_zpow_right₀ one_le_two (by omega)
    have double : (2 : ℚ) ^ (1 - (expBias lt : Int)) = 2 * 2 ^ (-(expBias lt : Int)) := by
      rw [sub_eq_add_neg, zpow_add₀ two_ne_zero, zpow_one]
    have strict := mul_lt_mul_of_pos_right upper unit
    have pos : (0 : ℚ) < 2 ^ (-(expBias lt : Int)) := by positivity
    split <;> linarith
  · have place : 1 - (expBias lt : Int) = (fracBits lt + 1 : Nat) + topGrid lt m e := by
      unfold gridMin at same
      push_cast
      omega
    have margin : -1 - (expBias lt : Int) - fracBits lt = -1 + topGrid lt m e := by
      unfold gridMin at same
      omega
    have normal : (1 - (expBias lt : Int) - topGrid lt m e).toNat = fracBits lt + 1 := by omega
    have last : ((2 ^ (fracBits lt + 1) - 1 : Nat) : ℚ) = 2 ^ (fracBits lt + 1) - 1 := by
      rw [Nat.cast_sub Nat.one_le_two_pow]
      push_cast
      rfl
    have odd : ¬(2 ^ (fracBits lt + 1) - 1) % 2 = 0 := by
      have := Nat.two_pow_pos (fracBits lt)
      rw [pow_succ]
      omega
    have round : 2 ^ (fracBits lt + 1) ≤ (roundMag rnd m e (topGrid lt m e)).1 ↔
        roundsAbove rnd (2 ^ (fracBits lt + 1) - 1) (m * 2 ^ (e - topGrid lt m e)) := by
      have := Nat.two_pow_pos (fracBits lt + 1)
      rw [← lt_roundMag_iff]
      omega
    rw [and_iff_right (by omega), normal, place, margin, zpow_add₀ two_ne_zero, zpow_add₀ two_ne_zero, zpow_natCast, ← not_iff_not,
      not_lt, not_lt, round]
    cases rnd
    · rw [roundsAbove, if_neg odd, if_pos rfl, last, zpow_neg_one, ← sub_mul, mul_le_mul_iff_left₀ unit]
      constructor <;> intro <;> linarith
    · rw [roundsAbove, if_neg Rnd.noConfusion, last, sub_zero, sub_add_cancel, mul_le_mul_iff_left₀ unit]
  · refine iff_of_false (fun tiny => by omega) (not_lt.2 ?_)
    have normal : (2 : ℚ) ^ (1 - (expBias lt : Int)) ≤ 2 ^ fracBits lt * 2 ^ topGrid lt m e := by
      rw [← zpow_natCast, ← zpow_add₀ two_ne_zero]
      exact zpow_le_zpow_right₀ one_le_two (by unfold gridMin at more; omega)
    have reach := mul_le_mul_of_nonneg_right lower unit.le
    have margin : (0 : ℚ) ≤ if rnd = .ne then 2 ^ (-1 - (expBias lt : Int) - fracBits lt) else 0 := by split <;> positivity
    linarith

/-! ### Correct rounding (R101, R102) -/

section

variable {lt : LT} {m : Nat} {e : Int}

theorem value_pos (nonzero : m ≠ 0) : (0 : ℚ) < m * 2 ^ e := by positivity

theorem value_on_grid (m : Nat) (e g : Int) : (m : ℚ) * 2 ^ e = m * 2 ^ (e - g) * 2 ^ g := by
  rw [mul_assoc, ← zpow_add₀ two_ne_zero, sub_add_cancel]

variable (nonzero : m ≠ 0)
include nonzero

/-- No magnitude of the format is nearer than the rounded one, and another that is as near makes it even. -/
theorem roundMag_ne_format {q : Nat} {v : ℚ} (value : Spec.rat (decodeF lt q) = some v) :
    let r := (roundMag .ne m e (landGrid lt m e)).1
    |r * 2 ^ landGrid lt m e - (m : ℚ) * 2 ^ e| ≤ |(|v|) - m * 2 ^ e| ∧
    (|r * 2 ^ landGrid lt m e - (m : ℚ) * 2 ^ e| = |(|v|) - m * 2 ^ e| → |v| ≠ r * 2 ^ landGrid lt m e → r % 2 = 0) := by
  intro r
  have near := nearest_le (roundMag_ne_nearest (m := m) (e := e) (g := landGrid lt m e))
  obtain ⟨-, bit⟩ := landGrid_bounds (lt := lt) (e := e) nonzero
  have unit : (0 : ℚ) < 2 ^ landGrid lt m e := by positivity
  have scaled : ∀ z : ℚ, |z * 2 ^ landGrid lt m e - m * 2 ^ e| = |z - m * 2 ^ (e - landGrid lt m e)| * 2 ^ landGrid lt m e := fun z => by
    rw [value_on_grid m e (landGrid lt m e), ← sub_mul, abs_mul, abs_of_pos unit]
  rcases format_grid value (landGrid lt m e) with ⟨k, point⟩ | ⟨below, higher⟩
  · obtain ⟨nearer, tie⟩ := near k
    rw [point, scaled, scaled, mul_le_mul_iff_left₀ unit, mul_left_inj' unit.ne']
    refine ⟨by exact_mod_cast nearer, fun eq other => ?_⟩
    have even := tie (by exact_mod_cast eq) fun same => other (by rw [show k = r by exact_mod_cast same])
    exact_mod_cast even
  · obtain ⟨nearer, -⟩ := near (2 ^ fracBits lt : Nat)
    have reach := mul_le_mul_of_nonneg_right (bit higher) unit.le
    have strict : |r * 2 ^ landGrid lt m e - (m : ℚ) * 2 ^ e| < |(|v|) - m * 2 ^ e| := by
      have power : (2 : ℚ) ^ (landGrid lt m e + fracBits lt) = 2 ^ fracBits lt * 2 ^ landGrid lt m e := by
        rw [zpow_add₀ two_ne_zero, zpow_natCast, mul_comm]
      rw [← value_on_grid] at reach
      rw [power] at below
      calc |r * 2 ^ landGrid lt m e - (m : ℚ) * 2 ^ e| ≤ |2 ^ fracBits lt * 2 ^ landGrid lt m e - (m : ℚ) * 2 ^ e| := by
            rw [scaled, scaled, mul_le_mul_iff_left₀ unit]
            exact_mod_cast nearer
        _ < |(|v|) - m * 2 ^ e| := by
            rw [abs_of_nonpos (by linarith), abs_of_neg (a := |v| - _) (by linarith)]
            linarith
    exact ⟨strict.le, fun eq => absurd eq strict.ne⟩

/-- The largest magnitude of the format that is not above the value. -/
theorem roundMag_tz_format : let r := (roundMag .tz m e (landGrid lt m e)).1
    r * 2 ^ landGrid lt m e ≤ (m : ℚ) * 2 ^ e ∧
    ∀ (q : Nat) (v : ℚ), Spec.rat (decodeF lt q) = some v → |v| ≤ m * 2 ^ e → |v| ≤ r * 2 ^ landGrid lt m e := by
  intro r
  obtain ⟨-, bit⟩ := landGrid_bounds (lt := lt) (e := e) nonzero
  obtain ⟨below, -⟩ := roundMag_tz_bounds (m := m) (e := e) (g := landGrid lt m e)
  have unit : (0 : ℚ) < 2 ^ landGrid lt m e := by positivity
  rw [value_on_grid m e (landGrid lt m e)]
  refine ⟨mul_le_mul_of_nonneg_right below unit.le, fun q v value le => ?_⟩
  rcases format_grid value (landGrid lt m e) with ⟨k, point⟩ | ⟨under, higher⟩
  · rw [point] at le ⊢
    gcongr
    exact le_roundMag .tz (le_of_mul_le_mul_right le unit)
  · refine under.le.trans ?_
    rw [zpow_add₀ two_ne_zero, zpow_natCast, mul_comm]
    gcongr
    exact_mod_cast le_roundMag .tz (by exact_mod_cast bit higher)

end

theorem landMag_even {lt : LT} (format : lt.isFloat = true ∨ lt.isNarrow = true) {rnd : Rnd} {m : Nat} {e : Int}
    (even : (roundMag rnd m e (landGrid lt m e)).1 % 2 = 0) : landMag lt rnd m e % 2 = 0 := by
  obtain ⟨f, frac⟩ : ∃ f, fracBits lt = f + 1 := ⟨fracBits lt - 1, by have := fracBits_pos format; omega⟩
  rw [landMag, frac, pow_succ, ← Nat.mul_assoc]
  omega

theorem codeInf_eq {lt : LT} (format : lt.isFloat = true ∨ lt.isNarrow = true) (e4m3 : lt ≠ .e4m3) (e2m1 : lt ≠ .e2m1) :
    codeInf lt = Spec.largestCode lt + 1 := by
  cases lt <;> simp [LT.isFloat, LT.isNarrow] at format e4m3 e2m1 <;> decide

theorem abs_signVal_sub (neg : Bool) (a b : ℚ) : |signVal neg * a - signVal neg * b| = |a - b| := by
  rw [← mul_sub, abs_mul, abs_signVal, one_mul]

/-- What a value beyond the largest finite magnitude becomes. -/
theorem overflowF_eq {lt : LT} (format : lt.isFloat = true ∨ lt.isNarrow = true) (rnd : Rnd) (sat neg : Bool) :
    overflowF lt rnd sat neg = if sat = true ∨ lt = .e2m1 then (signed lt neg (Spec.largestCode lt), fSAT ||| fINX)
      else if rnd = .tz then (signed lt neg (Spec.largestCode lt), fOVF ||| fINX)
      else if lt = .e4m3 then (0x7F, fOVF ||| fINX) else (signed lt neg (Spec.largestCode lt + 1), fOVF ||| fINX) := by
  rw [overflowF, largestCode_eq format]
  by_cases e2m1 : lt = .e2m1
  · simp [e2m1]
  · by_cases e4m3 : lt = .e4m3
    · subst e4m3
      simp [codeNan]
    · simp [e2m1, e4m3, codeInf_eq format e4m3 e2m1, largestCode_eq format]

/-- A value within the range of a format becomes the nearest one, or the nearest toward zero. -/
theorem rounded_within {lt : LT} (format : lt.isFloat = true ∨ lt.isNarrow = true) (rnd : Rnd) (neg : Bool) {m : Nat} {e : Int}
    (nonzero : m ≠ 0) (fits : landMag lt rnd m e ≤ codeMax lt) :
    let x : ℚ := signVal neg * (m * 2 ^ e)
    let v : ℚ := signVal neg * ((roundMag rnd m e (landGrid lt m e)).1 * 2 ^ landGrid lt m e)
    (rnd = .ne →
      (∀ q v', Spec.rat (decodeF lt q) = some v' → |v - x| ≤ |v' - x|) ∧
      (∀ q v', Spec.rat (decodeF lt q) = some v' → |v - x| = |v' - x| → v' ≠ v → codeOf lt neg (landMag lt rnd m e) % 2 = 0)) ∧
    (rnd = .tz → |v| ≤ |x| ∧ ∀ q v', Spec.rat (decodeF lt q) = some v' → |v'| ≤ |x| → |v'| ≤ |v|) := by
  intro x v
  have pos : (0 : ℚ) < m * 2 ^ e := value_pos nonzero
  have magnitude : |x| = m * 2 ^ e := by rw [abs_mul, abs_signVal, one_mul, abs_of_pos pos]
  have rounded : |v| = (roundMag rnd m e (landGrid lt m e)).1 * 2 ^ landGrid lt m e := by
    rw [abs_mul, abs_signVal, one_mul, abs_of_nonneg (by positivity)]
  refine ⟨?_, ?_⟩ <;> rintro rfl
  · have apart : |v - x| = _ := abs_signVal_sub ..
    have sizes : ∀ v' : ℚ, |(|v'|) - m * 2 ^ e| ≤ |v' - x| := fun v' => magnitude ▸ abs_abs_sub_abs_le ..
    refine ⟨fun q v' value => ?_, fun q v' value tie other => codeOf_even neg (landMag_even format ?_)⟩
    · exact apart.trans_le ((roundMag_ne_format nonzero value).1.trans (sizes v'))
    · obtain ⟨nearer, even⟩ := roundMag_ne_format nonzero value
      refine even (le_antisymm nearer ((sizes v').trans (tie.symm.trans apart).le)) fun same => ?_
      obtain eq | eq := abs_eq_abs.1 (same.trans rounded.symm)
      · exact other eq
      · have sum : |v' - x| = |v| + |x| := by
          rw [eq, rounded, magnitude, ← abs_neg, neg_sub, sub_neg_eq_add, ← mul_add, abs_mul, abs_signVal, one_mul, add_comm,
            abs_of_nonneg (by positivity)]
        have zero : |v| = 0 := by
          rw [apart, sum, ← rounded, ← magnitude] at tie
          have size : 0 < |x| := magnitude ▸ pos
          rcases abs_cases (|v| - |x|) with ⟨eq, -⟩ | ⟨eq, -⟩ <;> linarith
        exact other (by rw [eq, abs_eq_zero.1 zero, neg_zero])
  · obtain ⟨below, largest⟩ := roundMag_tz_format (lt := lt) (e := e) nonzero
    rw [rounded, magnitude]
    exact ⟨below, largest⟩

theorem rounded_roundF {lt : LT} (format : lt.isFloat = true ∨ lt.isNarrow = true) (rnd : Rnd) (sat neg : Bool) {m : Nat} (e : Int)
    (nonzero : m ≠ 0) : Spec.rounded lt rnd sat (signVal neg * (m * 2 ^ e)) (roundF lt rnd sat neg m e) := by
  have pos : (0 : ℚ) < m * 2 ^ e := value_pos nonzero
  have magnitude : |signVal neg * ((m : ℚ) * 2 ^ e)| = m * 2 ^ e := by rw [abs_mul, abs_signVal, one_mul, abs_of_pos pos]
  have negative : signVal neg * ((m : ℚ) * 2 ^ e) < 0 ↔ neg = true := by
    cases neg <;> simp [signVal, pos, pos.le]
  unfold Spec.rounded
  rw [magnitude]
  constructor
  · intro within
    have inside : ¬overflows lt rnd m e := fun exceeds => within ((overflows_iff format nonzero rnd).1 exceeds)
    have fits := landMag_le nonzero format inside
    obtain ⟨nearest, toward⟩ := rounded_within format rnd neg nonzero fits
    rw [magnitude] at toward
    rw [roundF_of_not_overflows nonzero inside]
    refine ⟨_, (rat_decodeF_codeOf format fits neg).trans (by rw [magVal_landMag nonzero]), codeOf_fits format fits neg, ?same_sign,
      fun ne => (codeOf_sign format fits neg ne).trans ?sign, nearest, toward, ?flags⟩
    case same_sign =>
      rw [mul_mul_mul_comm, signVal_mul_self, one_mul]
      positivity
    case sign =>
      simp only [negative, Bool.decide_eq_true]
    case flags =>
      have sign : signVal neg ≠ 0 := by cases neg <;> simp [signVal]
      refine if_congr ((roundMag_exact_iff rnd).trans ?_) rfl (if_congr (isTiny_iff nonzero rnd) rfl rfl)
      rw [value_on_grid m e (landGrid lt m e), mul_right_inj' sign, mul_left_inj' (by positivity)]
  · intro beyond
    have exceeds : overflows lt rnd m e := (overflows_iff format nonzero rnd).2 beyond
    rw [roundF_of_overflows nonzero exceeds, overflowF_eq format]
    simp only [negative]
    rfl

/-- Settles O19: a value is rounded on the grid of its binade, no finer than that of the subnormal values. -/
theorem roundingIsCorrect : Obligations.RoundingIsCorrect := by
  unfold Obligations.RoundingIsCorrect
  intro lt rnd sat neg m e format
  refine ⟨fun nonzero => ?_, fun zero => ?_⟩
  · rw [mul_assoc]
    exact rounded_roundF format rnd sat neg e nonzero
  · rw [roundF, if_pos zero, Spec.zeroOf]
    cases neg <;> by_cases e2m1 : lt = .e2m1 <;> simp [e2m1, signed]

end Sys2Proof.Machine
end

section
/-! Proofs of the family of spec/06: the grids of a column of a tile (O32). -/

namespace Sys2Proof.Machine

/-! ### Rounding with a sign (R113) -/

theorem nearest_abs {y : ℚ} {n : Int} (h : Spec.nearest y n) : Spec.nearest |y| |n| := by
  have side : ∀ {y : ℚ} {n : Int}, Spec.nearest y n → 0 ≤ y → Spec.nearest |y| |n| := fun {y n} h nonneg => by
    have : 0 ≤ n := by
      by_contra neg
      have close := (abs_le.1 h.1).2
      have : (n : ℚ) ≤ -1 := by exact_mod_cast (by omega : n ≤ -1)
      linarith
    rwa [abs_of_nonneg nonneg, abs_of_nonneg this]
  rcases le_total 0 y with nonneg | nonpos
  · exact side h nonneg
  · have := side (nearest_neg h) (by linarith)
    rwa [abs_neg, abs_neg] at this

theorem abs_nearest_le {y : ℚ} {n : Int} (h : Spec.nearest y n) {s : Int} (le : |y| ≤ s) : |n| ≤ s := by
  refine not_lt.1 fun lt => ?_
  have above := (lt_nearest_iff (nearest_abs h) s).1 lt
  split at above <;> linarith

theorem le_abs_nearest {y : ℚ} {n : Int} (h : Spec.nearest y n) {s : Int} (le : (s : ℚ) ≤ |y|) : s ≤ |n| := by
  have := (lt_nearest_iff (nearest_abs h) (s - 1)).2 (by push_cast; split <;> linarith)
  omega

/-- The value of a number on a grid. -/
theorem dy_div (v : Dy) (g : Int) : Spec.dy v / 2 ^ g = (v.1.sign : ℚ) * (v.1.natAbs * 2 ^ (v.2 - g)) := by
  have split : (v.1 : ℚ) = v.1.sign * v.1.natAbs := by
    rw [← Int.cast_natCast, ← Int.cast_mul, Int.sign_mul_natAbs]
  rw [Spec.dy, mul_div_assoc, ← zpow_sub₀ two_ne_zero, split, mul_assoc]

theorem roundMag_zero (rnd : Rnd) (e g : Int) : roundMag rnd 0 e g = (0, false) := by
  unfold roundMag
  split <;> simp

theorem roundInt_eq (v : Dy) (g : Int) :
    roundInt v g = (v.1.sign * (roundMag .ne v.1.natAbs v.2 g).1, (roundMag .ne v.1.natAbs v.2 g).2) := by
  unfold roundInt
  rcases lt_trichotomy v.1 0 with neg | zero | pos
  · simp [neg, Int.sign_eq_neg_one_of_neg neg]
  · simp [zero, roundMag_zero]
  · simp [not_lt.2 pos.le, Int.sign_eq_one_of_pos pos]

theorem roundInt_nearest (v : Dy) (g : Int) : Spec.nearest (Spec.dy v / 2 ^ g) (roundInt v g).1 := by
  have near := roundMag_ne_nearest (m := v.1.natAbs) (e := v.2) (g := g)
  rw [dy_div, roundInt_eq]
  rcases lt_trichotomy v.1 0 with neg | zero | pos
  · simpa [Int.sign_eq_neg_one_of_neg neg] using nearest_neg near
  · simpa [zero] using nearest_int 0
  · simpa [Int.sign_eq_one_of_pos pos] using near

theorem roundInt_exact_iff (v : Dy) (g : Int) : (roundInt v g).2 = false ↔ Spec.dy v / 2 ^ g = (roundInt v g).1 := by
  rw [dy_div, roundInt_eq]
  dsimp only
  rw [roundMag_exact_iff]
  rcases eq_or_ne v.1 0 with zero | nonzero
  · simp [zero, roundMag_zero]
  · have sign : (v.1.sign : ℚ) ≠ 0 := by exact_mod_cast mt Int.sign_eq_zero_iff_zero.1 nonzero
    push_cast
    rw [mul_right_inj' sign, eq_comm]

/-- A rounding is exact when the value lies on the grid. -/
theorem roundInt_exact_iff_exists (v : Dy) (g : Int) : (roundInt v g).2 = false ↔ ∃ q : Int, Spec.dy v = Spec.dy (q, g) := by
  have unit : (2 : ℚ) ^ g ≠ 0 := by positivity
  rw [roundInt_exact_iff]
  refine ⟨fun eq => ⟨_, (div_eq_iff unit).1 eq⟩, fun ⟨q, eq⟩ => ?_⟩
  have point : Spec.dy v / 2 ^ g = q := (div_eq_iff unit).2 eq
  have near := roundInt_nearest v g
  rw [point] at near ⊢
  rw [nearest_unique near (nearest_int q)]

theorem roundInt_eq_iff (v : Dy) (g n : Int) : (roundInt v g).1 = n ↔ Spec.nearest (Spec.dy v / 2 ^ g) n :=
  ⟨fun eq => eq ▸ roundInt_nearest v g, nearest_unique (roundInt_nearest v g)⟩

/-- The binade of a value. -/
theorem dyTop_bounds {v : Dy} (nonzero : v.1 ≠ 0) : (2 : ℚ) ^ (dyTop v - 1) ≤ |Spec.dy v| ∧ |Spec.dy v| < 2 ^ dyTop v := by
  have natAbs : v.1.natAbs ≠ 0 := Int.natAbs_ne_zero.2 nonzero
  have unit : (0 : ℚ) < 2 ^ v.2 := by positivity
  have size : |Spec.dy v| = v.1.natAbs * 2 ^ v.2 := by rw [Spec.dy, abs_mul, abs_of_pos unit, Nat.cast_natAbs, Int.cast_abs]
  rw [size, dyTop, add_sub_cancel_right, add_assoc, zpow_add₀ two_ne_zero, zpow_add₀ two_ne_zero, mul_comm, mul_comm (2 ^ v.2),
    ← Nat.cast_succ, zpow_natCast, zpow_natCast]
  constructor
  · gcongr
    exact_mod_cast Nat.log2_self_le natAbs
  · gcongr
    exact_mod_cast Nat.lt_log2_self

/-- The largest of the numbers that a fold has met. -/
theorem foldl_max_spec {α : Type} (skip : α → Prop) [DecidablePred skip] (f : α → Nat) (l : List α) (k : Nat) :
    let r := l.foldl (fun k x => if skip x then k else max k (f x)) k
    k ≤ r ∧ (∀ x ∈ l, ¬skip x → f x ≤ r) ∧ (r = k ∨ ∃ x ∈ l, ¬skip x ∧ f x = r) := by
  induction l generalizing k with
  | nil => simp
  | cons x l ih =>
    obtain ⟨above, all, met⟩ := ih (if skip x then k else max k (f x))
    rw [List.foldl_cons]
    simp only [List.forall_mem_cons, List.exists_mem_cons_iff]
    split at above
    · rename_i skipped
      rw [if_pos skipped] at *
      exact ⟨above, ⟨fun h => absurd skipped h, all⟩, met.imp_right .inr⟩
    · rename_i kept
      rw [if_neg kept] at *
      refine ⟨by omega, ⟨fun _ => by omega, all⟩, ?_⟩
      rcases met with eq | met
      · rcases le_total (f x) k with le | le
        · exact .inl (by rw [eq, max_eq_left le])
        · exact .inr (.inl ⟨kept, by rw [eq, max_eq_right le]⟩)
      · exact .inr (.inr met)

/-! ### The grid that a column takes (R111, R113 to R115) -/

theorem abs_dy_div (v : Dy) (g : Int) : |Spec.dy v / 2 ^ g| = |Spec.dy v| / 2 ^ g := by
  rw [abs_div, abs_of_pos (a := (2 : ℚ) ^ g) (by positivity)]

/-- A value whose binade ends 47 places above a grid rounds to at most 2^47. -/
theorem roundInt_le {v : Dy} {g : Int} (n : Nat) (top : v.1 ≠ 0 → dyTop v ≤ n + g) : |(roundInt v g).1| ≤ 2 ^ n := by
  refine abs_nearest_le (roundInt_nearest v g) ?_
  rcases eq_or_ne v.1 0 with zero | nonzero
  · simp [Spec.dy, zero]
  · rw [abs_dy_div, div_le_iff₀ (by positivity)]
    push_cast
    rw [← zpow_natCast, ← zpow_add₀ two_ne_zero]
    exact (dyTop_bounds nonzero).2.le.trans (zpow_le_zpow_right₀ one_le_two (top nonzero))

theorem le_roundInt {v : Dy} {g : Int} (n : Nat) (nonzero : v.1 ≠ 0) (top : n + g + 1 ≤ dyTop v) : 2 ^ n ≤ |(roundInt v g).1| := by
  refine le_abs_nearest (roundInt_nearest v g) ?_
  rw [abs_dy_div, le_div_iff₀ (by positivity)]
  push_cast
  rw [← zpow_natCast, ← zpow_add₀ two_ne_zero]
  exact (zpow_le_zpow_right₀ one_le_two (by omega)).trans (dyTop_bounds nonzero).1

theorem manMax_eq : manMax = 2 ^ 47 - 1 := rfl

/-- R114: the exponent rises to the first one at which every rounded value fits. -/
theorem renormK_spec (e : Int) (vs : List Dy) :
    (∀ v ∈ vs, |(roundInt v (e + renormK e vs)).1| ≤ manMax) ∧
    ∀ j : Nat, j < renormK e vs → ∃ v ∈ vs, manMax < |(roundInt v (e + j)).1| := by
  obtain ⟨-, all, met⟩ := foldl_max_spec (fun v : Dy => v.1 = 0) (fun v => (dyTop v - 47 - e).toNat) vs 0
  unfold renormK
  generalize vs.foldl (fun k v => if v.1 = 0 then k else max k (dyTop v - 47 - e).toNat) 0 = k at *
  have top : ∀ v ∈ vs, v.1 ≠ 0 → dyTop v ≤ 47 + (e + k) := fun v mem nonzero => by
    have := all v mem nonzero
    omega
  have below : ∀ j : Nat, j < k → ∃ v ∈ vs, manMax < |(roundInt v (e + j)).1| := fun j lt => by
    obtain ⟨v, mem, nonzero, reach⟩ := met.resolve_left (by omega)
    have := le_roundInt (v := v) (g := e + j) 47 nonzero (by push_cast; omega)
    exact ⟨v, mem, by rw [manMax_eq]; omega⟩
  simp only [List.any_eq_true, decide_eq_true_eq, Int.natCast_natAbs]
  split
  · rename_i carried
    refine ⟨fun v mem => ?_, fun j lt => ?_⟩
    · have := roundInt_le (v := v) (g := e + (k + 1 : Nat)) 46 fun nonzero => by have := top v mem nonzero; push_cast; omega
      rw [manMax_eq]
      omega
    · rcases Nat.lt_succ_iff_lt_or_eq.1 lt with lower | rfl
      · exact below j lower
      · exact carried
  · rename_i fits
    exact ⟨fun v mem => not_lt.1 fun lt => fits ⟨v, mem, lt⟩, below⟩

/-- The clamp of R115. -/
theorem clamp_eq (m : Int) : (if manMax < m then manMax else if m < -manMax then -manMax else m) = max (-manMax) (min manMax m) := by
  rw [manMax_eq]
  split
  · omega
  · split <;> omega

theorem any_zip_map {α β : Type} (f : α → β) (p : α × β → Bool) (l : List α) :
    (List.zip l (l.map f)).any p = l.any fun x => p (x, f x) := by
  induction l with
  | nil => rfl
  | cons x l ih => simp [ih]

/-- A column on its new grid. -/
theorem renorm_eq (gain : Bool) (e : Int) (vs : List Dy) :
    let g := min (e + renormK e vs) 32767
    renorm gain e vs = (g, vs.map fun v => max (-manMax) (min manMax (roundInt v g).1),
      fIf (vs.any fun v => (roundInt v g).2) fINX |||
      fIf (vs.any fun v => gain && decide (v.1 ≠ 0 ∧ (roundInt v g).1 = 0)) fGUF ||| fIf (decide (32767 < e + renormK e vs)) fOVF) := by
  intro g
  unfold renorm
  simp only [clamp_eq, any_zip_map, List.map_map, List.any_map]
  rfl

/-- The three flags of a column are independent. -/
theorem columnFlags (inexact lost past : Bool) :
    let f := fIf inexact fINX ||| fIf lost fGUF ||| fIf past fOVF
    (f &&& fINX = 0 ↔ inexact = false) ∧ (f &&& fGUF = 0 ↔ lost = false) ∧ (f &&& fOVF = 0 ↔ past = false) ∧
      f &&& ~~~(fINX ||| fGUF ||| fOVF) = 0 := by
  revert inexact lost past
  decide

/-- The first part of O32. -/
theorem renorm_spec (gain : Bool) (e : Int) (vs : List Dy) :
    let r := renorm gain e vs
    let onGrid := fun (v : Dy) (g n : Int) => Spec.nearest (Spec.dy v / 2 ^ g) n
    ∃ k : Nat, (∀ v ∈ vs, ∃ n, onGrid v (e + k) n ∧ |n| ≤ manMax) ∧
      (∀ j : Nat, j < k → ∃ v ∈ vs, ∃ n, onGrid v (e + j) n ∧ manMax < |n|) ∧
      r.1 = min (e + k) 32767 ∧ r.2.1.length = vs.length ∧
      (∀ (n : Nat) (v : Dy) (m : Int), vs[n]? = some v → r.2.1[n]? = some m → ∃ q, onGrid v r.1 q ∧ m = max (-manMax) (min manMax q)) ∧
      (r.2.2 &&& fINX = 0 ↔ ∀ v ∈ vs, ∃ q : Int, Spec.dy v = Spec.dy (q, r.1)) ∧
      (r.2.2 &&& fGUF = 0 ↔ (gain = true → ∀ v ∈ vs, v.1 ≠ 0 → ¬onGrid v r.1 0)) ∧
      (r.2.2 &&& fOVF = 0 ↔ e + k ≤ 32767) ∧ r.2.2 &&& ~~~(fINX ||| fGUF ||| fOVF) = 0 := by
  intro r onGrid
  obtain ⟨fits, least⟩ := renormK_spec e vs
  obtain ⟨inx, guf, ovf, rest⟩ := columnFlags (vs.any fun v => (roundInt v r.1).2)
    (vs.any fun v => gain && decide (v.1 ≠ 0 ∧ (roundInt v r.1).1 = 0)) (decide (32767 < e + renormK e vs))
  have parts : r = _ := renorm_eq gain e vs
  have grid : r.1 = min (e + renormK e vs) 32767 := by rw [parts]
  rw [← grid] at parts
  refine ⟨renormK e vs, fun v mem => ⟨_, roundInt_nearest .., fits v mem⟩, fun j lt => ?least, grid, ?length, fun n v m at_ of => ?each,
    ?inexact, ?lost, ?past, ?rest⟩
  case least =>
    obtain ⟨v, mem, exceeds⟩ := least j lt
    exact ⟨v, mem, _, roundInt_nearest .., exceeds⟩
  case length => rw [parts, List.length_map]
  case each =>
    rw [parts, List.getElem?_map, at_] at of
    exact ⟨_, roundInt_nearest .., (Option.some.inj of).symm⟩
  case inexact =>
    rw [parts]
    refine inx.trans ?_
    simp only [List.any_eq_false, Bool.not_eq_true, roundInt_exact_iff_exists]
  case lost =>
    rw [parts]
    refine guf.trans ?_
    simp only [onGrid, ← roundInt_eq_iff, List.any_eq_false, Bool.and_eq_true, decide_eq_true_eq, not_and]
    exact ⟨fun kept on v mem => kept v mem on, fun kept v mem on => kept on v mem⟩
  case past =>
    rw [parts]
    refine ovf.trans ?_
    simp
  case rest =>
    rw [parts]
    exact rest

/-! ### Fields of entries and exponents (R111) -/

theorem sInt_wrap {n : Nat} {x : Int} (low : -2 ^ n ≤ x) (high : x < 2 ^ n) : sInt (n + 1) (wrap (n + 1) x) = x := by
  have bits : BitVec.ofNat (n + 1) (wrap (n + 1) x) = BitVec.ofInt (n + 1) x := by
    apply BitVec.eq_of_toNat_eq
    rw [BitVec.toNat_ofNat, BitVec.toNat_ofInt, wrap, Nat.mod_eq_of_lt]
    exact (Int.toNat_lt_of_ne_zero (by positivity)).2 (Int.emod_lt_of_pos _ (by positivity))
  rw [sInt_eq_toInt, bits, BitVec.toInt_ofInt, Int.bmod_eq_of_le] <;> push_cast <;> omega

theorem sInt_bounds (n v : Nat) : -2 ^ n ≤ sInt (n + 1) v ∧ sInt (n + 1) v < 2 ^ n := by
  rw [sInt_eq_toInt]
  exact ⟨BitVec.le_toInt _, BitVec.toInt_lt⟩

theorem sInt_mod (n v : Nat) : sInt n (v % 2 ^ n) = sInt n v := by
  rw [sInt, Nat.mod_mod, sInt]

theorem wrap_lt (n : Nat) (x : Int) : wrap n x < 2 ^ n :=
  (Int.toNat_lt_of_ne_zero (by positivity)).2 (Int.emod_lt_of_pos _ (by positivity))

/-- The low field and the high field of two put together. -/
theorem fields_of_pair (n lo hi w : Nat) (fits : lo < 2 ^ n) (fits' : hi < 2 ^ n) (width : w = n + n) :
    (BitVec.ofNat w (lo + 2 ^ n * hi)).toNat % 2 ^ n = lo ∧ (BitVec.ofNat w (lo + 2 ^ n * hi)).toNat / 2 ^ n = hi := by
  subst width
  have total : lo + 2 ^ n * hi < 2 ^ (n + n) := by
    rw [pow_add]
    nlinarith
  rw [BitVec.toNat_ofNat, Nat.mod_eq_of_lt total, Nat.add_mul_mod_self_left, Nat.mod_eq_of_lt fits,
    Nat.add_mul_div_left _ _ (Nat.two_pow_pos n), Nat.div_eq_of_lt fits, Nat.zero_add]
  exact ⟨rfl, rfl⟩

section

variable {x y : Int}

theorem entBM_mkEnt (low : -2 ^ 47 ≤ y) (high : y < 2 ^ 47) : entBM (mkEnt x y) = y := by
  obtain ⟨field, -⟩ := fields_of_pair 48 (wrap 48 y) (wrap 48 x) 96 (wrap_lt ..) (wrap_lt ..) rfl
  rw [entBM, mkEnt, ← sInt_mod, field, sInt_wrap low high]

theorem entGM_mkEnt (low : -2 ^ 47 ≤ x) (high : x < 2 ^ 47) : entGM (mkEnt x y) = x := by
  obtain ⟨-, field⟩ := fields_of_pair 48 (wrap 48 y) (wrap 48 x) 96 (wrap_lt ..) (wrap_lt ..) rfl
  rw [entGM, mkEnt, field, sInt_wrap low high]

theorem exB_mkEx (low : -2 ^ 15 ≤ y) (high : y < 2 ^ 15) : exB (mkEx x y) = y := by
  obtain ⟨field, -⟩ := fields_of_pair 16 (wrap 16 y) (wrap 16 x) 32 (wrap_lt ..) (wrap_lt ..) rfl
  rw [exB, mkEx, ← sInt_mod, field, sInt_wrap low high]

theorem exG_mkEx (low : -2 ^ 15 ≤ x) (high : x < 2 ^ 15) : exG (mkEx x y) = x := by
  obtain ⟨-, field⟩ := fields_of_pair 16 (wrap 16 y) (wrap 16 x) 32 (wrap_lt ..) (wrap_lt ..) rfl
  rw [exG, mkEx, field, sInt_wrap low high]

end

theorem entPart_bounds (gain : Bool) (x : BitVec 96) : -2 ^ 47 ≤ entPart gain x ∧ entPart gain x < 2 ^ 47 := by
  cases gain <;> exact sInt_bounds ..

theorem exPart_bounds (gain : Bool) (x : BitVec 32) : -2 ^ 15 ≤ exPart gain x ∧ exPart gain x < 2 ^ 15 := by
  cases gain <;> exact sInt_bounds ..

theorem entPart_entSet (gain : Bool) (x : BitVec 96) {m : Int} (low : -2 ^ 47 ≤ m) (high : m < 2 ^ 47) :
    entPart gain (entSet gain x m) = m := by
  cases gain
  · exact entBM_mkEnt low high
  · exact entGM_mkEnt low high

/-- The other part stays. -/
theorem entPart_not_entSet (gain : Bool) (x : BitVec 96) (m : Int) : entPart (!gain) (entSet gain x m) = entPart (!gain) x := by
  obtain ⟨low, high⟩ := entPart_bounds (!gain) x
  cases gain
  · exact entGM_mkEnt low high
  · exact entBM_mkEnt low high

theorem exPart_exSet (gain : Bool) (x : BitVec 32) {e : Int} (low : -2 ^ 15 ≤ e) (high : e < 2 ^ 15) :
    exPart gain (exSet gain x e) = e := by
  cases gain
  · exact exB_mkEx low high
  · exact exG_mkEx low high

theorem exPart_not_exSet (gain : Bool) (x : BitVec 32) (e : Int) : exPart (!gain) (exSet gain x e) = exPart (!gain) x := by
  obtain ⟨low, high⟩ := exPart_bounds (!gain) x
  cases gain
  · exact exG_mkEx low high
  · exact exB_mkEx low high

/-! ### Rows of a tile -/

theorem smGetD_smSet {α : Type} [DecidableEq α] (d : α) (m : SMap α) (k : Nat) (x : α) (i : Nat) :
    smGetD (smSet d m k x) i d = if i = k then x else smGetD m i d := by
  unfold smGetD smSet
  split <;> rename_i default_ <;> split <;> rename_i same
  · rw [same, smGet_smDel, default_]
    rfl
  · rw [smGet_smDel_ne _ same]
  · rw [same, smGet_smPut]
    rfl
  · rw [smGet_smPut_ne _ _ same]

theorem tileRow_setRow (t : Tile) (k : Nat) (r : List (BitVec 96)) (i : Nat) :
    tileRow (setRow t k r) i = if i = k then r else tileRow t i := smGetD_smSet ..

/-- Rows written one after the other, each from a list of its own. -/
theorem foldl_setRow (f : Nat → List (BitVec 96)) (n : Nat) (t : Tile) :
    let u := (List.range n).foldl (fun acc i => setRow acc i (f i)) t
    (∀ i, tileRow u i = if i < n then f i else tileRow t i) ∧ u.ex = t.ex ∧ u.cy = t.cy ∧ u.f64 = t.f64 := by
  induction n with
  | zero => simp
  | succ n ih =>
    obtain ⟨rows, ex, cy, f64⟩ := ih
    rw [List.range_succ, List.foldl_append]
    refine ⟨fun i => ?_, ex, cy, f64⟩
    rw [List.foldl_cons, List.foldl_nil, tileRow_setRow, rows]
    split
    · rename_i last
      rw [if_pos (by omega), last]
    · congr 1
      simp only [eq_iff_iff]
      omega

/-! ### Columns put into a tile -/

/-- A tile with one part of every column replaced: what `tileWrite` and `tileNorm` do with their columns. -/
def putColumns {α : Type} (gain : Bool) (ex : α → Int) (man : α → List Int) (cols : List α) (t : Tile) : Tile :=
  let put := fun (i : Nat) (r : List (BitVec 96)) => List.zipWith (fun x c => entSet gain x ((man c).getD i 0)) r cols
  let t1 := { t with ex := List.zipWith (fun x c => exSet gain x (ex c)) t.ex cols, cy := put 64 t.cy }
  (List.range 64).foldl (fun acc i => setRow acc i (put i (tileRow t i))) t1

theorem zipWith_map_range_getD {α β γ : Type} (f : α → β → γ) (g : Nat → β) {l : List α} {n j : Nat} (a : α) (c : γ) (len : l.length = n)
    (lt : j < n) : (List.zipWith f l ((List.range n).map g)).getD j c = f (l.getD j a) (g j) := by
  rw [List.getD_eq_getElem _ _ (by simp; omega), List.getElem_zipWith, List.getElem_map, List.getElem_range,
    List.getD_eq_getElem _ _ (by omega)]

section

variable {α : Type} (gain : Bool) (ex : α → Int) (man : α → List Int) (col : Nat → α) {t : Tile} (wf : Spec.tileWf t)

theorem putColumns_fields : let u := putColumns gain ex man ((List.range 64).map col) t
    (∀ i < 64, tileRow u i = List.zipWith (fun x c => entSet gain x ((man c).getD i 0)) (tileRow t i) ((List.range 64).map col)) ∧
    u.cy = List.zipWith (fun x c => entSet gain x ((man c).getD 64 0)) t.cy ((List.range 64).map col) ∧
    u.ex = List.zipWith (fun x c => exSet gain x (ex c)) t.ex ((List.range 64).map col) ∧ u.f64 = t.f64 := by
  obtain ⟨rows, exs, cy, f64⟩ := foldl_setRow
    (fun i => List.zipWith (fun x c => entSet gain x ((man c).getD i 0)) (tileRow t i) ((List.range 64).map col)) 64
    { t with
      ex := List.zipWith (fun x c => exSet gain x (ex c)) t.ex ((List.range 64).map col)
      cy := List.zipWith (fun x c => entSet gain x ((man c).getD 64 0)) t.cy ((List.range 64).map col) }
  exact ⟨fun i lt => (rows i).trans (if_pos lt), cy, exs, f64⟩

include wf

theorem tileWf_putColumns : Spec.tileWf (putColumns gain ex man ((List.range 64).map col) t) := by
  obtain ⟨exLen, cyLen, rowLen⟩ := wf
  obtain ⟨rows, cy, exs, -⟩ := putColumns_fields gain ex man col (t := t)
  refine ⟨?_, ?_, fun i lt => ?_⟩
  · rw [exs]
    simp [exLen]
  · rw [cy]
    simp [cyLen]
  · rw [rows i lt]
    simp [rowLen i lt]

theorem ex_putColumns {j : Nat} (lt : j < 64) :
    (putColumns gain ex man ((List.range 64).map col) t).ex.getD j 0 = exSet gain (t.ex.getD j 0) (ex (col j)) := by
  obtain ⟨exLen, -, -⟩ := wf
  obtain ⟨-, -, exs, -⟩ := putColumns_fields gain ex man col (t := t)
  rw [exs, zipWith_map_range_getD _ _ 0 _ exLen lt]

theorem ent_putColumns {i j : Nat} (row : i < 65) (lt : j < 64) :
    Spec.ent (putColumns gain ex man ((List.range 64).map col) t) i j = entSet gain (Spec.ent t i j) ((man (col j)).getD i 0) := by
  obtain ⟨-, cyLen, rowLen⟩ := wf
  obtain ⟨rows, cy, -, -⟩ := putColumns_fields gain ex man col (t := t)
  unfold Spec.ent
  split
  · rename_i carry
    rw [cy, zipWith_map_range_getD _ _ 0 _ cyLen lt, carry]
  · rw [rows i (by omega), zipWith_map_range_getD _ _ 0 _ (rowLen i (by omega)) lt]

end

/-! ### A write of a tile (R113, R114, R179) -/

/-- Column `j` of one part of a tile with its carry, as a list. -/
theorem column_eq (gain : Bool) (t : Tile) (j : Nat) :
    (((List.range 64).map (tileRow t)).map fun r => entPart gain (r.getD j 0)) ++ [entPart gain (t.cy.getD j 0)] =
      (List.range 65).map fun i => entPart gain (Spec.ent t i j) := by
  rw [List.map_map, show List.range 65 = List.range 64 ++ [64] from List.range_succ, List.map_append]
  refine congrArg₂ _ (List.map_congr_left fun i mem => ?_) rfl
  rw [Spec.ent, if_neg (List.mem_range.1 mem).ne]
  rfl

/-- A column that a write does not touch, or the one that it takes. -/
def writtenColumn (gain : Bool) (news : Nat → Nat → Option Dy) (t : Tile) (j : Nat) : Int × List Int × Flags :=
  let e := exPart gain (t.ex.getD j 0)
  if ((List.range 65).map fun i => news i j).all Option.isNone then (e, (List.range 65).map fun i => entPart gain (Spec.ent t i j), 0)
  else renorm gain e ((List.range 65).map fun i => (news i j).getD (entPart gain (Spec.ent t i j), e))

theorem all_isNone_iff (news : Nat → Nat → Option Dy) (j : Nat) :
    ((List.range 65).map fun i => news i j).all Option.isNone = true ↔ ∀ i < 65, news i j = none := by
  simp

theorem tileWrite_eq (gain : Bool) (news : Nat → Nat → Option Dy) (t : Tile) :
    tileWrite gain news t = (putColumns gain (fun c => c.1) (fun c => c.2.1) ((List.range 64).map (writtenColumn gain news t)) t,
      Spec.flagsOf 64 fun j => (writtenColumn gain news t j).2.2) := by
  have columns : ((List.range 64).map fun j =>
      let e := exPart gain (t.ex.getD j 0)
      let ms := (((List.range 64).map (tileRow t)).map fun r => entPart gain (r.getD j 0)) ++ [entPart gain (t.cy.getD j 0)]
      let ns := (List.range 65).map fun i => news i j
      if ns.all Option.isNone then (e, ms, (0 : Flags))
      else renorm gain e (List.zipWith (fun n m => n.getD (m, e)) ns ms)) = (List.range 64).map (writtenColumn gain news t) := by
    refine List.map_congr_left fun j _ => ?_
    dsimp only
    rw [column_eq, List.zipWith_map, List.zipWith_self]
    rfl
  rw [← foldl_or_map_range fun c : Int × List Int × Flags => c.2.2, ← columns]
  rfl

/-- A write of a tile depends on what it writes in the rows and columns of a tile only. -/
theorem tileWrite_congr {gain : Bool} {news news' : Nat → Nat → Option Dy} (t : Tile)
    (same : ∀ i < 65, ∀ j < 64, news i j = news' i j) : tileWrite gain news t = tileWrite gain news' t := by
  have column : ∀ j < 64, writtenColumn gain news t j = writtenColumn gain news' t j := fun j lt => by
    have values : ((List.range 65).map fun i => (news i j).getD (entPart gain (Spec.ent t i j), exPart gain (t.ex.getD j 0))) =
        (List.range 65).map fun i => (news' i j).getD (entPart gain (Spec.ent t i j), exPart gain (t.ex.getD j 0)) :=
      List.map_congr_left fun i mem => by rw [same i (List.mem_range.1 mem) j lt]
    have written : ((List.range 65).map fun i => news i j) = (List.range 65).map fun i => news' i j :=
      List.map_congr_left fun i mem => same i (List.mem_range.1 mem) j lt
    rw [writtenColumn, values, written]
    rfl
  have columns : (List.range 64).map (writtenColumn gain news t) = (List.range 64).map (writtenColumn gain news' t) :=
    List.map_congr_left fun j mem => column j (List.mem_range.1 mem)
  have flags := foldl_or_map_range fun c : Int × List Int × Flags => c.2.2
  rw [tileWrite_eq, tileWrite_eq, ← flags, ← flags, columns]

theorem map_range_getD {α : Type} (f : Nat → α) (d : α) {n i : Nat} (lt : i < n) : ((List.range n).map f).getD i d = f i := by
  rw [List.getD_eq_getElem _ _ (by simpa using lt), List.getElem_map, List.getElem_range]

/-- A bit of the flags of `n` lanes. -/
theorem flagsOf_getLsbD (n : Nat) (f : Nat → Flags) (b : Nat) : (Spec.flagsOf n f).getLsbD b = true ↔ ∃ j < n, (f j).getLsbD b = true := by
  have list : ∀ l : List Nat, (l.foldr (fun j m => f j ||| m) 0).getLsbD b = true ↔ ∃ j ∈ l, (f j).getLsbD b = true := fun l => by
    induction l with
    | nil => simp
    | cons j l ih => rw [List.foldr_cons, BitVec.getLsbD_or, Bool.or_eq_true, ih, List.exists_mem_cons_iff]
  exact (list (List.range n)).trans (by simp)

/-- What the columns of a write can hold: an exponent and mantissas that the fields take. -/
theorem renorm_bounds (gain : Bool) {e : Int} (vs : List Dy) (low : -2 ^ 15 ≤ e) :
    (-2 ^ 15 ≤ (renorm gain e vs).1 ∧ (renorm gain e vs).1 < 2 ^ 15) ∧
    ∀ i, -2 ^ 47 ≤ (renorm gain e vs).2.1.getD i 0 ∧ (renorm gain e vs).2.1.getD i 0 < 2 ^ 47 := by
  rw [renorm_eq]
  refine ⟨⟨by omega, by omega⟩, fun i => ?_⟩
  dsimp only
  rw [List.getD_eq_getElem?_getD, List.getElem?_map]
  cases vs[i]? with
  | none => simp
  | some v =>
    rw [Option.map_some, Option.getD_some, manMax_eq]
    omega

/-- The second part of O32. -/
theorem tileWrite_spec (gain : Bool) (news : Nat → Nat → Option Dy) {t : Tile} (wf : Spec.tileWf t) :
    let r := tileWrite gain news t
    let e := fun (j : Nat) => exPart gain (t.ex.getD j 0)
    let col := fun (j : Nat) => renorm gain (e j) ((List.range 65).map fun i => (news i j).getD (entPart gain (Spec.ent t i j), e j))
    let written := fun (j : Nat) => ∃ i < 65, news i j ≠ none
    Spec.tileWf r.1 ∧ r.1.f64 = t.f64 ∧
    (∀ j < 64,
      exPart (!gain) (r.1.ex.getD j 0) = exPart (!gain) (t.ex.getD j 0) ∧
      (∀ i < 65, entPart (!gain) (Spec.ent r.1 i j) = entPart (!gain) (Spec.ent t i j)) ∧
      (written j → exPart gain (r.1.ex.getD j 0) = (col j).1 ∧ ∀ i < 65, entPart gain (Spec.ent r.1 i j) = (col j).2.1.getD i 0) ∧
      (¬written j → exPart gain (r.1.ex.getD j 0) = e j ∧ ∀ i < 65, entPart gain (Spec.ent r.1 i j) = entPart gain (Spec.ent t i j))) ∧
    ∀ n < 10, r.2.getLsbD n = true ↔ ∃ j < 64, written j ∧ (col j).2.2.getLsbD n = true := by
  intro r e col written
  have untouched : ∀ j, ¬written j → writtenColumn gain news t j = (e j, (List.range 65).map fun i => entPart gain (Spec.ent t i j), 0) :=
    fun j idle => if_pos ((all_isNone_iff news j).2 fun i row => by_contra fun wrote => idle ⟨i, row, wrote⟩)
  have touched : ∀ j, written j → writtenColumn gain news t j = col j := fun j ⟨i, row, wrote⟩ =>
    if_neg fun idle => wrote ((all_isNone_iff news j).1 idle i row)
  have parts : r = _ := tileWrite_eq gain news t
  rw [parts]
  refine ⟨tileWf_putColumns _ _ _ _ wf, (putColumns_fields gain _ _ _).2.2.2, fun j lt => ?_, fun n _ => ?_⟩
  · rw [ex_putColumns _ _ _ _ wf lt]
    refine ⟨exPart_not_exSet .., fun i row => ?_, fun wrote => ?_, fun idle => ?_⟩
    · rw [ent_putColumns _ _ _ _ wf row lt, entPart_not_entSet]
    · obtain ⟨⟨low, high⟩, bounds⟩ := renorm_bounds gain ((List.range 65).map fun i => (news i j).getD (entPart gain (Spec.ent t i j), e j))
        (exPart_bounds gain (t.ex.getD j 0)).1
      refine ⟨by rw [touched j wrote, exPart_exSet gain _ low high], fun i row => ?_⟩
      rw [ent_putColumns _ _ _ _ wf row lt, touched j wrote, entPart_entSet gain _ (bounds i).1 (bounds i).2]
    · obtain ⟨low, high⟩ := exPart_bounds gain (t.ex.getD j 0)
      refine ⟨by rw [untouched j idle, exPart_exSet gain _ low high], fun i row => ?_⟩
      obtain ⟨low, high⟩ := entPart_bounds gain (Spec.ent t i j)
      rw [ent_putColumns _ _ _ _ wf row lt, untouched j idle]
      dsimp only
      rw [map_range_getD _ _ row, entPart_entSet gain _ low high]
  · refine (flagsOf_getLsbD ..).trans (exists_congr fun j => and_congr_right fun _ => ?_)
    by_cases wrote : written j
    · rw [touched j wrote, and_iff_right wrote]
    · rw [untouched j wrote]
      simp [wrote]

/-! ### `acnorm` (R167) -/

/-- A column at the smallest exponent at which its mantissas fit. -/
theorem normCol_spec {e : Int} {ms : List Int} (low : -32768 ≤ e) (small : ∀ m ∈ ms, |m| ≤ manMax) :
    let r := normCol e ms
    (-32768 ≤ r.1 ∧ r.1 ≤ e) ∧ r.2 = ms.map (fun m => m * 2 ^ (e - r.1).toNat) ∧ (∀ m ∈ r.2, |m| ≤ manMax) ∧
      (r.1 = -32768 ∨ ∃ m ∈ r.2, manMax < |2 * m|) := by
  obtain ⟨-, all, met⟩ := foldl_max_spec (fun m : Int => m = 0) (fun m => Nat.log2 m.natAbs + 1) ms 0
  unfold normCol
  generalize ms.foldl (fun k m => if m = 0 then k else max k (Nat.log2 m.natAbs + 1)) 0 = top at *
  have size : ∀ m : Int, ((m.natAbs : Int) = |m|) := fun m => Int.natCast_natAbs m
  dsimp only
  split
  · rename_i empty
    have zero : ∀ m ∈ ms, m = 0 := fun m mem => by_contra fun nonzero => by have := all m mem nonzero; omega
    refine ⟨⟨le_rfl, low⟩, ?_, small, .inl rfl⟩
    conv_lhs => rw [← List.map_id ms]
    exact List.map_congr_left fun m mem => by rw [zero m mem, zero_mul]; rfl
  · rename_i filled
    obtain ⟨m, mem, nonzero, reach⟩ := met.resolve_left filled
    have large : 2 ^ (top - 1) ≤ |m| := by
      rw [← size, ← reach, Nat.add_sub_cancel]
      exact_mod_cast Nat.log2_self_le (Int.natAbs_ne_zero.2 nonzero)
    have below : ∀ m ∈ ms, |m| < 2 ^ top := fun m mem => by
      rcases eq_or_ne m 0 with rfl | nonzero
      · simp
      · rw [← size]
        exact_mod_cast Nat.lt_log2_self.trans_le (Nat.pow_le_pow_right two_pos (all m mem nonzero))
    have bits : top ≤ 47 := by
      have : (2 : Int) ^ (top - 1) < 2 ^ 47 := large.trans_lt ((small m mem).trans_lt (by decide))
      have := (pow_lt_pow_iff_right₀ (one_lt_two (α := Int))).1 this
      omega
    have whole : (2 : Int) ^ top * 2 ^ (47 - top) = 2 ^ 47 := by rw [← pow_add, Nat.add_sub_cancel' bits]
    refine ⟨⟨le_max_right .., max_le (by omega) low⟩, rfl, fun n of => ?_, ?_⟩
    · obtain ⟨m, mem, rfl⟩ := List.mem_map.1 of
      have shift : (2 : Int) ^ (e - max (e - (47 - top : Nat)) (-32768)).toNat ≤ 2 ^ (47 - top) := pow_le_pow_right₀ one_le_two (by omega)
      have unit : (1 : Int) ≤ 2 ^ (47 - top) := one_le_pow₀ one_le_two
      calc |m * 2 ^ (e - max (e - (47 - top : Nat)) (-32768)).toNat|
          = |m| * 2 ^ (e - max (e - (47 - top : Nat)) (-32768)).toNat := by rw [abs_mul, abs_of_pos (a := (2 : Int) ^ _) (by positivity)]
        _ ≤ (2 ^ top - 1) * 2 ^ (47 - top) := by
            exact mul_le_mul (Int.le_sub_one_of_lt (below m mem)) shift (by positivity) (Int.le_sub_one_of_lt (by positivity))
        _ = 2 ^ 47 - 2 ^ (47 - top) := by rw [sub_mul, whole, one_mul]
        _ ≤ manMax := by rw [manMax_eq]; omega
    · rcases le_or_gt (e - (47 - top : Nat)) (-32768) with floor | above
      · exact .inl (max_eq_right floor)
      · refine .inr ⟨_, List.mem_map_of_mem mem, ?_⟩
        rw [max_eq_left above.le, sub_sub_cancel, Int.toNat_natCast, abs_mul, abs_mul, abs_of_pos (a := (2 : Int) ^ _) (by positivity)]
        have half : (2 : Int) * 2 ^ (top - 1) = 2 ^ top := by rw [← pow_succ', Nat.sub_add_cancel (by omega)]
        calc manMax < 2 ^ 47 := by decide
          _ = 2 * (2 ^ (top - 1) * 2 ^ (47 - top)) := by rw [← whole, ← half, mul_assoc]
          _ ≤ |2| * (|m| * 2 ^ (47 - top)) := by
              rw [abs_two]
              gcongr

/-- A number on a finer grid. -/
theorem dy_shift {m e e' : Int} (le : e' ≤ e) : Spec.dy (m * 2 ^ (e - e').toNat, e') = Spec.dy (m, e) := by
  rw [Spec.dy, Spec.dy, Int.cast_mul, Int.cast_pow, Int.cast_ofNat, ← zpow_natCast, Int.toNat_of_nonneg (by omega), mul_assoc,
    ← zpow_add₀ two_ne_zero, sub_add_cancel]

/-- The exponent and the mantissas of a column of a tile under `acnorm`. -/
theorem tileNorm_eq (gain : Bool) (t : Tile) : tileNorm gain t = putColumns gain (fun c => c.1) (fun c => c.2)
    ((List.range 64).map fun j => normCol (exPart gain (t.ex.getD j 0))
      ((List.range 65).map fun i => entPart gain (Spec.ent t i j))) t := by
  simp only [← column_eq]
  rfl

/-- The third part of O32. -/
theorem tileNorm_spec (gain : Bool) {t : Tile} (wf : Spec.tileWf t) (small : ∀ i < 65, ∀ j < 64, |entPart gain (Spec.ent t i j)| ≤ manMax) :
    let u := tileNorm gain t
    Spec.tileWf u ∧ u.f64 = t.f64 ∧ ∀ j < 64,
      let e := exPart gain (t.ex.getD j 0)
      let e' := exPart gain (u.ex.getD j 0)
      let m := fun (i : Nat) => entPart gain (Spec.ent t i j)
      let m' := fun (i : Nat) => entPart gain (Spec.ent u i j)
      exPart (!gain) (u.ex.getD j 0) = exPart (!gain) (t.ex.getD j 0) ∧
      (∀ i < 65, entPart (!gain) (Spec.ent u i j) = entPart (!gain) (Spec.ent t i j)) ∧
      -32768 ≤ e' ∧ e' ≤ e ∧ (∀ i < 65, Spec.dy (m' i, e') = Spec.dy (m i, e) ∧ |m' i| ≤ manMax) ∧
      (e' = -32768 ∨ ∃ i < 65, manMax < |2 * m' i|) := by
  intro u
  have parts : u = _ := tileNorm_eq gain t
  rw [parts]
  refine ⟨tileWf_putColumns _ _ _ _ wf, (putColumns_fields gain _ _ _).2.2.2, fun j lt => ?_⟩
  intro e e' m m'
  have elow : -32768 ≤ e := (exPart_bounds gain (t.ex.getD j 0)).1
  have ehigh : e < 32768 := (exPart_bounds gain (t.ex.getD j 0)).2
  obtain ⟨⟨low, high⟩, list, fits, least⟩ := normCol_spec (ms := (List.range 65).map m) elow (by
    intro n of
    obtain ⟨i, row, rfl⟩ := List.mem_map.1 of
    exact small i (List.mem_range.1 row) j lt)
  have ex_eq : e' = (normCol e ((List.range 65).map m)).1 := by
    show exPart gain _ = _
    rw [ex_putColumns _ _ _ _ wf lt, exPart_exSet gain _ low (by omega)]
  have man_mem : ∀ i < 65, m i * 2 ^ (e - e').toNat ∈ (normCol e ((List.range 65).map m)).2 := fun i row => by
    rw [ex_eq, list, List.map_map]
    exact List.mem_map.2 ⟨i, List.mem_range.2 row, rfl⟩
  have man_eq : ∀ i < 65, m' i = m i * 2 ^ (e - e').toNat := fun i row => by
    have inside := abs_le.1 (fits _ (man_mem i row))
    rw [manMax_eq] at inside
    show entPart gain _ = _
    rw [ent_putColumns _ _ _ _ wf row lt, list, List.map_map, map_range_getD _ _ row, ← ex_eq]
    exact entPart_entSet gain _ (by show _ ≤ m i * 2 ^ (e - e').toNat; omega) (by show m i * 2 ^ (e - e').toNat < _; omega)
  rw [← ex_eq] at low high least list
  refine ⟨?_, fun i row => ?_, low, high, fun i row => ⟨?_, ?_⟩, ?_⟩
  · rw [ex_putColumns _ _ _ _ wf lt, exPart_not_exSet]
  · rw [ent_putColumns _ _ _ _ wf row lt, entPart_not_entSet]
  · rw [man_eq i row, dy_shift high]
  · rw [man_eq i row]
    exact fits _ (man_mem i row)
  · refine least.imp_right fun ⟨n, of, large⟩ => ?_
    rw [list, List.map_map] at of
    obtain ⟨i, row, rfl⟩ := List.mem_map.1 of
    exact ⟨i, List.mem_range.1 row, by rwa [man_eq i (List.mem_range.1 row)]⟩

/-! ### One composition (R178, R183) -/

theorem dy_zero (e : Int) : Spec.dy (0, e) = 0 := by simp [Spec.dy]

theorem dy_dyAdd (a b : Dy) : Spec.dy (dyAdd a b) = Spec.dy a + Spec.dy b := by
  obtain ⟨m, e⟩ := a
  obtain ⟨n, d⟩ := b
  unfold dyAdd
  dsimp only
  split
  · rename_i zero
    rw [zero, dy_zero, zero_add]
  · split
    · rename_i zero
      rw [zero, dy_zero, add_zero]
    · rw [← dy_shift (m := m) (min_le_left e d), ← dy_shift (m := n) (min_le_right e d)]
      simp only [Spec.dy]
      push_cast
      ring

section

variable (eg eb : Int) (x y : Int × Int)

theorem scan_gain_value : Spec.dy (x.1 * y.1, 2 * eg) / 2 ^ eg = (x.1 * y.1 : Int) * (2 : ℚ) ^ eg := by
  rw [Spec.dy, mul_div_assoc, ← zpow_sub₀ two_ne_zero]
  congr 2
  ring

theorem scan_offset_value : Spec.dy (dyAdd (x.1 * y.2, eg + eb) (x.2, eb)) / 2 ^ eb = (x.1 * y.2 : Int) * (2 : ℚ) ^ eg + x.2 := by
  have unit : (2 : ℚ) ^ eb ≠ 0 := by positivity
  rw [dy_dyAdd, Spec.dy, Spec.dy, zpow_add₀ two_ne_zero, ← mul_assoc, ← add_mul, mul_div_cancel_right₀ _ unit]

theorem scanComp_nearest : Spec.nearest ((x.1 * y.1 : Int) * (2 : ℚ) ^ eg) (scanComp eg eb x y).1.1 ∧
    Spec.nearest ((x.1 * y.2 : Int) * (2 : ℚ) ^ eg + x.2) (scanComp eg eb x y).1.2 := by
  rw [← scan_gain_value, ← scan_offset_value eg eb]
  exact ⟨roundInt_nearest .., roundInt_nearest ..⟩

/-- The two flags of a composition by their bits. -/
theorem compositionFlags (lost inexact : Bool) :
    let f := fIf lost fGUF ||| fIf inexact fINX
    f.getLsbD 7 = lost ∧ f.getLsbD 4 = inexact ∧ ∀ b, f.getLsbD b = true → b = 4 ∨ b = 7 := by
  have bits : ∀ lost inexact : Bool, ∀ b < 10, (fIf lost fGUF ||| fIf inexact fINX).getLsbD b = true → b = 4 ∨ b = 7 := by decide
  refine ⟨?_, ?_, fun b bit => bits lost inexact b (BitVec.lt_of_getLsbD bit) bit⟩ <;> revert lost inexact <;> decide

theorem scanComp_flags : let r := scanComp eg eb x y
    (r.2.getLsbD 7 = true ↔ x.1 * y.1 ≠ 0 ∧ r.1.1 = 0) ∧
    (r.2.getLsbD 4 = true ↔ (x.1 * y.1 : Int) * (2 : ℚ) ^ eg ≠ r.1.1 ∨ (x.1 * y.2 : Int) * (2 : ℚ) ^ eg + x.2 ≠ r.1.2) ∧
    ∀ b, r.2.getLsbD b = true → b = 4 ∨ b = 7 := by
  intro r
  obtain ⟨guf, inx, only⟩ := compositionFlags (decide (x.1 * y.1 ≠ 0 ∧ r.1.1 = 0))
    ((roundInt (x.1 * y.1, 2 * eg) eg).2 || (roundInt (dyAdd (x.1 * y.2, eg + eb) (x.2, eb)) eb).2)
  refine ⟨(Bool.eq_iff_iff.1 guf).trans decide_eq_true_iff, (Bool.eq_iff_iff.1 inx).trans ?_, only⟩
  rw [← scan_gain_value, ← scan_offset_value eg eb, Bool.or_eq_true, ← Bool.not_eq_false, ← Bool.not_eq_false, roundInt_exact_iff,
    roundInt_exact_iff]
  rfl

end

/-! ### The levels of the network (R183) -/

section

variable (eg eb : Int) (xs : List (Int × Int)) (cy : Int × Int)

/-- The values after `l` levels. -/
def scanLevel : Nat → List (Int × Int)
  | 0 => xs
  | l + 1 => (scanLevel l).take (2 ^ l) ++ (List.zipWith (scanComp eg eb) ((scanLevel l).drop (2 ^ l)) (scanLevel l)).map (·.1)

theorem scanLevel_length (l : Nat) : (scanLevel eg eb xs l).length = xs.length := by
  induction l with
  | zero => rfl
  | succ l ih =>
    have := Nat.two_pow_pos l
    rw [scanLevel, List.length_append, List.length_take, List.length_map, List.length_zipWith, List.length_drop, ih]
    omega

/-- A value of the network: after `l` levels, or, as level 7, composed with the carry. -/
def scanValue (l i : Nat) : Int × Int :=
  if l < 7 then (scanLevel eg eb xs l).getD i (0, 0) else (scanComp eg eb ((scanLevel eg eb xs 6).getD i (0, 0)) cy).1

theorem scanValue_of_le {l : Nat} (le : l < 7) (i : Nat) : scanValue eg eb xs cy l i = (scanLevel eg eb xs l).getD i (0, 0) := if_pos le

theorem scanValue_last (i : Nat) : scanValue eg eb xs cy 7 i = (scanComp eg eb (scanValue eg eb xs cy 6 i) cy).1 := rfl

/-- The compositions of a level. -/
def levelSteps (l : Nat) : List ((Int × Int) × Flags) :=
  List.zipWith (scanComp eg eb) ((scanLevel eg eb xs l).drop (2 ^ l)) (scanLevel eg eb xs l)

theorem levelSteps_getElem? {l i : Nat} (reach : 2 ^ l ≤ i) (lt : i < xs.length) : (levelSteps eg eb xs l)[i - 2 ^ l]? =
    some (scanComp eg eb ((scanLevel eg eb xs l).getD i (0, 0)) ((scanLevel eg eb xs l).getD (i - 2 ^ l) (0, 0))) := by
  have len := scanLevel_length eg eb xs l
  have := Nat.two_pow_pos l
  rw [levelSteps, List.getElem?_zipWith, List.getElem?_drop, Nat.add_sub_cancel' reach, List.getD_eq_getElem _ _ (by omega),
    List.getD_eq_getElem _ _ (by omega), List.getElem?_eq_getElem (by omega), List.getElem?_eq_getElem (by omega)]

theorem scanLevel_succ {l i : Nat} (lt : i < xs.length) :
    (i < 2 ^ l → (scanLevel eg eb xs (l + 1)).getD i (0, 0) = (scanLevel eg eb xs l).getD i (0, 0)) ∧
    (2 ^ l ≤ i → (scanLevel eg eb xs (l + 1)).getD i (0, 0) =
      (scanComp eg eb ((scanLevel eg eb xs l).getD i (0, 0)) ((scanLevel eg eb xs l).getD (i - 2 ^ l) (0, 0))).1) := by
  have len := scanLevel_length eg eb xs l
  simp only [scanLevel, List.getD_eq_getElem?_getD]
  constructor
  · intro low
    rw [List.getElem?_append_left (by rw [List.length_take]; omega), List.getElem?_take_of_lt low]
  · intro reach
    rw [List.getElem?_append_right (by rw [List.length_take]; omega), List.length_take, min_eq_left (by omega), List.getElem?_map]
    have step := levelSteps_getElem? eg eb xs reach lt
    rw [levelSteps] at step
    rw [step]
    simp only [List.getD_eq_getElem?_getD]
    rfl

/-- A bit of the flags of a level. -/
theorem levelSteps_flag (l b : Nat) : (∃ r ∈ levelSteps eg eb xs l, r.2.getLsbD b = true) ↔ ∃ i < xs.length, 2 ^ l ≤ i ∧
    (scanComp eg eb ((scanLevel eg eb xs l).getD i (0, 0)) ((scanLevel eg eb xs l).getD (i - 2 ^ l) (0, 0))).2.getLsbD b = true := by
  have len := scanLevel_length eg eb xs l
  constructor
  · rintro ⟨r, mem, flag⟩
    obtain ⟨k, at_⟩ := List.mem_iff_getElem?.1 mem
    have lt : k < (levelSteps eg eb xs l).length := (List.getElem?_eq_some_iff.1 at_).1
    rw [levelSteps, List.length_zipWith, List.length_drop] at lt
    have step := levelSteps_getElem? eg eb xs (l := l) (i := k + 2 ^ l) (by omega) (by omega)
    rw [Nat.add_sub_cancel, at_] at step
    refine ⟨k + 2 ^ l, by omega, by omega, ?_⟩
    rw [Nat.add_sub_cancel, ← Option.some.inj step]
    exact flag
  · rintro ⟨i, lt, reach, flag⟩
    exact ⟨_, List.mem_of_getElem? (levelSteps_getElem? eg eb xs reach lt), flag⟩

/-- A bit of flags gathered over a list. -/
theorem foldl_or_getLsbD {α : Type} (f : α → Flags) (l : List α) (m : Flags) (b : Nat) :
    (l.foldl (fun m x => m ||| f x) m).getLsbD b = true ↔ m.getLsbD b = true ∨ ∃ x ∈ l, (f x).getLsbD b = true := by
  induction l generalizing m with
  | nil => simp
  | cons x l ih => rw [List.foldl_cons, ih, BitVec.getLsbD_or, Bool.or_eq_true, List.exists_mem_cons_iff, or_assoc]

/-- The network from level `l` on. -/
theorem scanNet_spec (n l : Nat) (f : Flags) :
    (scanNet eg eb n l (scanLevel eg eb xs l) f).1 = scanLevel eg eb xs (l + n) ∧
    ∀ b, (scanNet eg eb n l (scanLevel eg eb xs l) f).2.getLsbD b = true ↔
      f.getLsbD b = true ∨ ∃ k, l ≤ k ∧ k < l + n ∧ ∃ r ∈ levelSteps eg eb xs k, r.2.getLsbD b = true := by
  induction n generalizing l f with
  | zero => exact ⟨rfl, fun b => by simp [scanNet]; omega⟩
  | succ n ih =>
    obtain ⟨values, flags⟩ := ih (l + 1) ((levelSteps eg eb xs l).foldl (fun f r => f ||| r.2) f)
    refine ⟨values.trans (by rw [Nat.add_assoc, Nat.add_comm 1]), fun b => (flags b).trans ?_⟩
    rw [foldl_or_getLsbD, or_assoc]
    refine or_congr_right ⟨?_, ?_⟩
    · rintro (here | ⟨k, low, high, step⟩)
      · exact ⟨l, le_rfl, by omega, here⟩
      · exact ⟨k, by omega, by omega, step⟩
    · rintro ⟨k, low, high, step⟩
      rcases low.eq_or_lt with rfl | later
      · exact .inl step
      · exact .inr ⟨k, later, by omega, step⟩

/-- A column of the scan: its values, and the flags of its compositions. -/
theorem scanCol_spec :
    (∀ i < xs.length, (scanCol eg eb xs cy).1.getD i (0, 0) = scanValue eg eb xs cy 7 i) ∧
    ∀ b, (scanCol eg eb xs cy).2.getLsbD b = true ↔ ∃ i < xs.length,
      (∃ l < 6, 2 ^ l ≤ i ∧
        (scanComp eg eb (scanValue eg eb xs cy l i) (scanValue eg eb xs cy l (i - 2 ^ l))).2.getLsbD b = true) ∨
      (scanComp eg eb (scanValue eg eb xs cy 6 i) cy).2.getLsbD b = true := by
  obtain ⟨values, flags⟩ := scanNet_spec eg eb xs 6 0 0
  have len := scanLevel_length eg eb xs 6
  have column : scanCol eg eb xs cy = (((scanLevel eg eb xs 6).map fun u => scanComp eg eb u cy).map (·.1),
      ((scanLevel eg eb xs 6).map fun u => scanComp eg eb u cy).foldl (fun f r => f ||| r.2)
        (scanNet eg eb 6 0 (scanLevel eg eb xs 0) 0).2) := by
    rw [← values]
    rfl
  rw [column]
  refine ⟨fun i lt => ?_, fun b => ?_⟩
  · rw [List.map_map, List.getD_eq_getElem _ _ (by rw [List.length_map]; omega), List.getElem_map, scanValue_last,
      scanValue_of_le _ _ _ _ (by omega), List.getD_eq_getElem _ _ (by omega)]
    rfl
  · rw [foldl_or_getLsbD, flags]
    simp only [levelSteps_flag]
    constructor
    · rintro ((zero | ⟨l, -, high, i, lt, reach, flag⟩) | ⟨_, mem, flag⟩)
      · simp at zero
      · exact ⟨i, lt, .inl ⟨l, by omega, reach, by rwa [scanValue_of_le _ _ _ _ (by omega), scanValue_of_le _ _ _ _ (by omega)]⟩⟩
      · obtain ⟨u, last, rfl⟩ := List.mem_map.1 mem
        obtain ⟨i, lt, rfl⟩ := List.mem_iff_getElem.1 last
        refine ⟨i, by omega, .inr ?_⟩
        rwa [scanValue_of_le _ _ _ _ (by omega), List.getD_eq_getElem _ _ lt]
    · rintro ⟨i, lt, ⟨l, low, reach, flag⟩ | flag⟩
      · rw [scanValue_of_le _ _ _ _ (by omega), scanValue_of_le _ _ _ _ (by omega)] at flag
        exact .inl (.inr ⟨l, by omega, by omega, i, lt, reach, flag⟩)
      · refine .inr ⟨_, List.mem_map.2 ⟨_, List.getElem_mem (by omega : i < _), rfl⟩, ?_⟩
        rwa [scanValue_of_le _ _ _ _ (by omega), List.getD_eq_getElem _ _ (by omega)] at flag

end

/-! ### A scan of a tile (R178, R183, R184) -/

/-- The values that a scan writes: a row's own, and the last one's into the carry; `afcomp` writes the carry alone. -/
def scanNews (comp : Bool) (n : Nat) (ex : List (BitVec 32)) (X : Nat → Nat → Nat → Int × Int) (gain : Bool) (i j : Nat) : Option Dy :=
  let at_ := fun (i : Nat) => some ((if gain then ((X j 7 i).1, exG (ex.getD j 0)) else ((X j 7 i).2, exB (ex.getD j 0))) : Dy)
  if i = 64 then at_ (n - 1) else if i < n ∧ comp = false then at_ i else none

/-- The values of the network of one column. -/
def tileScanValue (rows : List (List (BitVec 96))) (cy : List (BitVec 96)) (ex : List (BitVec 32)) (j : Nat) : Nat → Nat → Int × Int :=
  scanValue (exG (ex.getD j 0)) (exB (ex.getD j 0)) (rows.map fun r => (entGM (r.getD j 0), entBM (r.getD j 0)))
    (entGM (cy.getD j 0), entBM (cy.getD j 0))

/-- One column of a scan with its exponents. -/
def tileScanCol (rows : List (List (BitVec 96))) (cy : List (BitVec 96)) (ex : List (BitVec 32)) (j : Nat) :
    BitVec 32 × List (Int × Int) × Flags :=
  (ex.getD j 0, scanCol (exG (ex.getD j 0)) (exB (ex.getD j 0)) (rows.map fun r => (entGM (r.getD j 0), entBM (r.getD j 0)))
    (entGM (cy.getD j 0), entBM (cy.getD j 0)))

theorem toArray_getD {α : Type} (l : List α) (i : Nat) (d : α) : l.toArray.getD i d = l.getD i d := by
  rw [Array.getD_eq_getD_getElem?, List.getElem?_toArray, List.getD_eq_getElem?_getD]

/-- What a scan writes, as the model reads it from its columns. -/
def columnNews (comp : Bool) (n : Nat) (cols : List (BitVec 32 × List (Int × Int) × Flags)) (gain : Bool) (i j : Nat) : Option Dy :=
  let c := cols.toArray.getD j (0, [], 0)
  let at_ := fun (k : Nat) => let y := c.2.1.getD k (0, 0); some ((if gain then y.1 else y.2, exPart gain c.1) : Dy)
  if i = 64 then at_ (n - 1) else if i < n ∧ !comp then at_ i else none

section

variable (comp : Bool) {n : Nat} {rows : List (List (BitVec 96))} (cy : List (BitVec 96)) (ex : List (BitVec 32)) (len : rows.length = n)
include len

theorem columnNews_eq (gain : Bool) {i j : Nat} (one : 1 ≤ n) (lt : j < 64) :
    columnNews comp n ((List.range 64).map (tileScanCol rows cy ex)) gain i j = scanNews comp n ex (tileScanValue rows cy ex) gain i j := by
  have column : ((List.range 64).map (tileScanCol rows cy ex)).toArray.getD j (0, [], 0) = tileScanCol rows cy ex j := by
    rw [toArray_getD, map_range_getD _ _ lt]
  have value : ∀ k < n, (tileScanCol rows cy ex j).2.1.getD k (0, 0) = tileScanValue rows cy ex j 7 k := fun k below =>
    (scanCol_spec ..).1 k (by rw [List.length_map]; omega)
  unfold columnNews scanNews
  rw [column]
  dsimp only
  split
  · rw [value _ (by omega)]
    cases gain <;> rfl
  · simp only [Bool.not_eq_true']
    split
    · rename_i row
      rw [value _ row.1]
      cases gain <;> rfl
    · rfl

theorem tileScan_eq (t : Tile) (one : 1 ≤ n) :
    let X := tileScanValue rows cy ex
    let a := tileWrite true (scanNews comp n ex X true) t
    let b := tileWrite false (scanNews comp n ex X false) a.1
    tileScan comp n rows cy ex t = (b.1, a.2 ||| b.2 ||| Spec.flagsOf 64 fun j => (tileScanCol rows cy ex j).2.2) := by
  intro X a b
  have write : ∀ gain t, tileWrite gain (columnNews comp n ((List.range 64).map (tileScanCol rows cy ex)) gain) t =
      tileWrite gain (scanNews comp n ex X gain) t := fun gain t =>
    tileWrite_congr t fun i _ j lt => columnNews_eq comp cy ex len gain one lt
  have flags := foldl_or_map_range_from (fun c : BitVec 32 × List (Int × Int) × Flags => c.2.2) 64 (tileScanCol rows cy ex)
  have columns : ((List.range 64).map fun j =>
      let pair := fun (x : BitVec 96) => (entGM x, entBM x)
      let e := ex.getD j 0
      (e, scanCol (exG e) (exB e) ((rows.take n).map fun r => pair (r.getD j 0)) (pair (cy.getD j 0)))) =
      (List.range 64).map (tileScanCol rows cy ex) := by
    rw [List.take_of_length_le len.le]
    rfl
  rw [← flags]
  simp only [a, b, ← write]
  rw [← columns]
  rfl

end

/-! ### The flags of a scan by their bits -/

theorem and_fGUF_ne_zero (f : Flags) : f &&& fGUF ≠ 0 ↔ f.getLsbD 7 = true := by
  rw [show fGUF = BitVec.twoPow 10 7 from rfl, BitVec.and_twoPow]
  split <;> rename_i bit
  · exact iff_of_true (by decide) bit
  · exact iff_of_false (fun ne => ne rfl) bit

theorem and_fINX_ne_zero (f : Flags) : f &&& fINX ≠ 0 ↔ f.getLsbD 4 = true := by
  rw [show fINX = BitVec.twoPow 10 4 from rfl, BitVec.and_twoPow]
  split <;> rename_i bit
  · exact iff_of_true (by decide) bit
  · exact iff_of_false (fun ne => ne rfl) bit

theorem and_not_mask_eq_zero {f : Flags} (only : ∀ b, f.getLsbD b = true → b = 4 ∨ b = 7) : f &&& ~~~(fINX ||| fGUF) = 0 := by
  apply BitVec.eq_of_getLsbD_eq
  intro b lt
  rw [BitVec.getLsbD_and]
  cases bit : f.getLsbD b
  · simp
  · rcases only b bit with rfl | rfl <;> rfl

section

variable {n : Nat} {rows : List (List (BitVec 96))} (cy : List (BitVec 96)) (ex : List (BitVec 32)) (len : rows.length = n)
include len

/-- A value of the network that a composition makes. -/
theorem tileScanValue_succ {j l i : Nat} (low : l < 6) (lt : i < n) :
    let X := tileScanValue rows cy ex
    (i < 2 ^ l → X j (l + 1) i = X j l i) ∧
    (2 ^ l ≤ i → X j (l + 1) i = (scanComp (exG (ex.getD j 0)) (exB (ex.getD j 0)) (X j l i) (X j l (i - 2 ^ l))).1) := by
  intro X
  have level := scanLevel_succ (exG (ex.getD j 0)) (exB (ex.getD j 0)) (rows.map fun r => (entGM (r.getD j 0), entBM (r.getD j 0)))
    (l := l) (i := i) (by rw [List.length_map]; omega)
  simp only [X, tileScanValue]
  rw [scanValue_of_le _ _ _ _ (by omega), scanValue_of_le _ _ _ _ (by omega), scanValue_of_le _ _ _ _ (by omega)]
  exact level

/-- A flag that every composition raises by a condition on its values is raised by a scan when one of its compositions meets it. -/
theorem tileScan_flag {b : Nat} {P : Nat → Int × Int → Int × Int → Int × Int → Prop}
    (raises : ∀ j x y, let r := scanComp (exG (ex.getD j 0)) (exB (ex.getD j 0)) x y; r.2.getLsbD b = true ↔ P j x y r.1) :
    let X := tileScanValue rows cy ex
    (Spec.flagsOf 64 fun j => (tileScanCol rows cy ex j).2.2).getLsbD b = true ↔ ∃ j < 64, ∃ i < n,
      (∃ l < 6, 2 ^ l ≤ i ∧ P j (X j l i) (X j l (i - 2 ^ l)) (X j (l + 1) i)) ∨
        P j (X j 6 i) (entGM (cy.getD j 0), entBM (cy.getD j 0)) (X j 7 i) := by
  intro X
  refine (flagsOf_getLsbD ..).trans (exists_congr fun j => and_congr_right fun _ => ((scanCol_spec ..).2 b).trans ?_)
  rw [List.length_map, len]
  refine exists_congr fun i => and_congr_right fun lt => or_congr (exists_congr fun l => and_congr_right fun low =>
    and_congr_right fun reach => ?_) (raises ..)
  have made : X j (l + 1) i = _ := (tileScanValue_succ cy ex len low lt).2 reach
  rw [made]
  exact raises ..

end

/-- Settles O32: the grid of a column, its use by a write of a tile, `acnorm`, and the scan network. -/
theorem columnGrids : Obligations.ColumnGrids := by
  unfold Obligations.ColumnGrids
  refine ⟨fun gain e vs _ => renorm_spec gain e vs, fun gain news t wf => tileWrite_spec gain news wf,
    fun gain t wf small => tileNorm_spec gain wf small, fun comp n rows cy ex t one _ len => ?_⟩
  intro eg eb pair composed lost inexact
  refine ⟨tileScanValue rows cy ex, fun j _ i lt => ?first,
    fun j _ l low i lt => ⟨(tileScanValue_succ cy ex len low lt).1, fun reach => ?level⟩,
    fun j _ i _ => scanComp_nearest .., ?_⟩
  case first =>
    rw [tileScanValue, scanValue_of_le _ _ _ _ (by omega), scanLevel, List.getD_eq_getElem _ _ (by rw [List.length_map]; omega),
      List.getElem_map, List.getD_eq_getElem rows _ (by omega)]
  case level =>
    rw [(tileScanValue_succ cy ex len low lt).2 reach]
    exact scanComp_nearest ..
  intro step news a b
  have written : news = scanNews comp n ex (tileScanValue rows cy ex) := rfl
  have scan : tileScan comp n rows cy ex t = (b.1, a.2 ||| b.2 ||| Spec.flagsOf 64 fun j => (tileScanCol rows cy ex j).2.2) := by
    simp only [a, b, written]
    exact tileScan_eq comp cy ex len t one
  rw [scan]
  refine ⟨rfl, _, rfl, ?guf, ?inx, and_not_mask_eq_zero fun b bit => ?only⟩
  case guf => exact (and_fGUF_ne_zero _).trans (tileScan_flag cy ex len fun j x y => (scanComp_flags ..).1)
  case inx => exact (and_fINX_ne_zero _).trans (tileScan_flag cy ex len fun j x y => (scanComp_flags ..).2.1)
  case only =>
    obtain ⟨j, -, flag⟩ := (flagsOf_getLsbD ..).1 bit
    obtain ⟨i, -, ⟨l, -, -, flag⟩ | flag⟩ := ((scanCol_spec ..).2 b).1 flag
    · exact (scanComp_flags ..).2.2 b flag
    · exact (scanComp_flags ..).2.2 b flag

end Sys2Proof.Machine
end

section
/-! Proofs of the family of spec/06: instructions of the M slot, and the gains, offsets and carries of affine tiles (O29). -/

namespace Sys2Proof.Machine

/-! ### Words that cannot be corrected (R307) -/

/-- The rows of a tile together: a word lies in one of them when it lies in their range, since rows are whole words. -/
theorem rotten_rows_iff {k : Core} {acc : Nat} :
    Spec.rotten k .tile (49152 * acc) (768 * 64) ↔ ∃ row < 64, Spec.rottenRow k acc row := by
  constructor
  · rintro ⟨w, mem, below, above⟩
    exact ⟨(8 * w - 49152 * acc) / 768, by omega, w, mem, by omega, by omega⟩
  · rintro ⟨row, lt, w, mem, below, above⟩
    exact ⟨w, mem, by omega, by omega⟩

theorem tileBad_iff {k : Core} {acc : Nat} : tileBad k acc = true ↔ Spec.rottenTile k acc := by
  rw [tileBad, Bool.or_eq_true, Bool.or_eq_true, or_assoc, rowBad, exBad, cyBad, sramBad_iff, sramBad_iff, sramBad_iff, mul_zero, add_zero,
    rotten_rows_iff]
  rfl

/-! ### How an instruction of the M slot completes (R154 to R156) -/

section

variable {i : Instr} {s : State} {g : Guard}

section

variable {void : Ctx → Bool} {check : State → Core → Option Stop} {act : State → Core → Core × Flags}
  (row : exec i s = settle s (issueM g void check act s))
include row

theorem onlyReads_of_issueM (off : guardOn (cur s).ctx g = false) : Spec.onlyReads i s (voidP (curCtx s) g.p) := by
  refine onlyReads_of_exec (row.trans ?_)
  rw [issueM, if_neg (ne_true_of_eq_false off)]
  rfl

theorem stop_of_issueM (on : guardOn (cur s).ctx g = true) {e : Stop} (stops : check s (cur s) = some e) :
    exec i s = .next (takeStop s.sched.cur e s) := by
  refine row.trans ?_
  rw [issueM, if_pos on, stops]
  rfl

theorem engine_of_issueM {k : Core} {f : Flags} (passes : check s (cur s) = none) (acts : act s (cur s) = (k, f))
    (keeps : k.ctx = curCtx s) : Spec.engine g i s (void (curCtx s)) k f := by
  unfold Spec.engine
  split
  · rename_i on
    have on : guardOn (cur s).ctx g = true := on
    refine ⟨_, readFlags_noteVoid .., row.trans ?_⟩
    rw [issueM, if_pos on, passes, acts]
    simp only [settle_ok, keeps]
    rfl
  · rename_i off
    exact onlyReads_of_issueM row (eq_false_of_ne_true off)

end

/-! ### Writes of a tile (R154, R155, R181) -/

section

variable {acc : Fin 4} {a : VOp} {bad : Core → Bool} {mode : Tile → Bool} {f : Ctx → Tile → Tile × Flags}
  (row : exec i s = settle s (issueTile g acc (some a) bad mode f s))
include row

theorem onlyReads_of_issueTile (off : guardOn (curCtx s) g = false) : Spec.onlyReads i s (voidP (curCtx s) g.p) :=
  onlyReads_of_issueM row off

theorem oslot_of_issueTile (wrong : mode (tileOf (cur s).mx.now acc) = false) : Spec.engineStop g i s .oslot := fun on =>
  stop_of_issueM row on (by rw [wrong]; rfl)

variable (right : mode (tileOf (cur s).mx.now acc) = true)
include right

theorem timing_of_issueTile (window : inWindow (cur s).mx acc (cur s).ctx.bc = true) : Spec.engineStop g i s .timing := fun on =>
  stop_of_issueM row on (by rw [right, window]; rfl)

variable (clear : inWindow (cur s).mx acc (cur s).ctx.bc = false)
include clear

theorem engineBad_of_issueTile (rotten : bad (cur s) = true) : Spec.engineBad g i s := fun on =>
  stop_of_issueM row on (by rw [right, clear, rotten]; rfl)

theorem engine_of_issueTile (good : bad (cur s) = false) {T : Tile} {fl : Flags}
    (value : f (cur s).ctx (tileOf (Spec.made (cur s)) acc) = (T, fl)) :
    Spec.engine g i s (voidV (curCtx s) a)
      (Spec.wrote (cur s) { Spec.made (cur s) with tiles := (Spec.made (cur s)).tiles.set acc.val { T with used := true } }) fl := by
  refine engine_of_issueM row (by rw [right, clear, good]; rfl) ?_ rfl
  have value : f (cur s).ctx (tileOf ((cur s).mx.next.getD (cur s).mx.now) acc) = (T, fl) := value
  dsimp only
  rw [value]
  rfl

end

/-! ### Reads with a vector result (R154) -/

section

variable {d : VDst} {bad : Core → Bool} {check : Core → Option Stop} {f : Core → VWord × Flags}
  (row : exec i s = settle s (issueMv g d bad check f s))
include row

theorem stop_of_issueMv (on : guardOn (cur s).ctx g = true) {e : Stop} (stops : orBad (bad (cur s)) (check (cur s)) = some e) :
    exec i s = .next (takeStop s.sched.cur e s) := by
  refine row.trans ?_
  rw [issueMv, if_pos on, stops]
  rfl

theorem resultV_of_issueMv {v : VWord} {fl : Flags} (passes : guardOn (cur s).ctx g = true → orBad (bad (cur s)) (check (cur s)) = none)
    (value : f (cur s) = (v, fl)) : Spec.resultV g i s false 3 6 d v fl := by
  have unstopped : (if guardOn (cur s).ctx g then orBad (bad (cur s)) (check (cur s)) else none) = none := by
    split
    · rename_i on
      exact passes on
    · rfl
  refine resultV_of_exec (row.trans ?_)
  rw [issueMv, unstopped, value]
  rfl

end

end

/-- Under a guard of 0 a vector result does not depend on its value (R32). -/
theorem resultV_of_off {i : Instr} {s : State} {g : Guard} {void : Bool} {slot lat : Nat} {d : VDst} {v v' : VWord} {f f' : Flags}
    (off : guardOn (curCtx s) g = false) (result : Spec.resultV g i s void slot lat d v f) : Spec.resultV g i s void slot lat d v' f' := by
  unfold Spec.resultV at result ⊢
  rw [off] at result ⊢
  exact result

/-! ### Parts of entries and exponents as bit fields (R111) -/

theorem sInt_low {w : Nat} (n : Nat) (x : BitVec w) : sInt n x.toNat = (x.setWidth n).toInt := by
  rw [sInt_eq_toInt, BitVec.ofNat_toNat]

theorem sInt_high {w : Nat} (n k : Nat) (x : BitVec w) : sInt n (x.toNat / 2 ^ k) = (x.extractLsb' k n).toInt := by
  rw [sInt_eq_toInt, BitVec.extractLsb', Nat.shiftRight_eq_div_pow]

theorem entBM_eq : entBM = fun x => (x.setWidth 48).toInt := funext fun x => sInt_low 48 x
theorem entGM_eq : entGM = fun x => (x.extractLsb' 48 48).toInt := funext fun x => sInt_high 48 48 x
theorem exB_eq (x : BitVec 32) : exB x = (x.setWidth 16).toInt := sInt_low 16 x
theorem exG_eq (x : BitVec 32) : exG x = (x.extractLsb' 16 16).toInt := sInt_high 16 16 x

/-! ### Gains and offsets (R189) -/

/-- The lanes of λ that are no number. -/
theorem f32Bad_eq (v : VWord) :
    f32Bad v = if (List.range 64).any fun j => dyOf (decodeF .f32 (Spec.lane 32 v j)) == none then fINVALID else 0 := by
  have lanes : ((List.range 64).any fun j => (f32Val v j).isNone) = (List.range 64).any fun j => f32Val v j == none := by
    simp only [Option.beq_none]
  rw [f32Bad, lanes]
  rfl

/-- What an operation of R189 makes of an entry. -/
def entryNew (op : GainOp) (v : VWord) (t : Tile) (i j : Nat) : Option Dy × Option Dy :=
  let x := (tileRow t i).getD j 0
  let e := t.ex.getD j 0
  gainNew op (f32Val v j) (entGM x, exG e) (entBM x, exB e)

/-- The same as the model reads it from its arrays. -/
def arrayNew (op : GainOp) (v : VWord) (t : Tile) (i j : Nat) : Option Dy × Option Dy :=
  let x := (((List.range 64).map fun i => (tileRow t i).toArray).toArray.getD i #[]).getD j 0
  let e := t.ex.toArray.getD j 0
  gainNew op (((List.range 64).map (f32Val v)).toArray.getD j none) (entGM x, exG e) (entBM x, exB e)

theorem arrayNew_eq (op : GainOp) (v : VWord) (t : Tile) {i j : Nat} (row : i < 64) (lt : j < 64) :
    arrayNew op v t i j = entryNew op v t i j := by
  simp only [arrayNew, entryNew, toArray_getD, map_range_getD _ _ row, map_range_getD _ _ lt]

/-- The rows that the instruction names: one, or all of the tile's. -/
def namesRow (row : Option (Fin 64)) (i : Nat) : Bool := decide (i < 64) && match row with | some r => r.val == i | none => true

theorem namesRow_iff (row : Option (Fin 64)) (i : Nat) : namesRow row i = true ↔ i < 64 ∧ ∀ r, row = some r → i = r.val := by
  cases row with
  | none => simp [namesRow]
  | some r =>
    simp only [namesRow, Bool.and_eq_true, decide_eq_true_eq, beq_iff_eq, Option.some.injEq]
    exact and_congr_right fun _ => ⟨fun same r' eq => eq ▸ same.symm, fun named => (named r rfl).symm⟩

/-- The gains and then the offsets of the rows that are named. -/
theorem gainWrite_eq {op : GainOp} {row : Option (Fin 64)} {v : VWord} {t : Tile} {gains offsets : Nat → Nat → Option Dy}
    (new : ∀ i j, entryNew op v t i j = (gains i j, offsets i j)) :
    let p := tileWrite true (fun i j => if i < 64 ∧ ∀ r, row = some r → i = r.val then gains i j else none) t
    let q := tileWrite false (fun i j => if i < 64 ∧ ∀ r, row = some r → i = r.val then offsets i j else none) p.1
    gainWrite op row v t = (q.1, p.2 ||| q.2 ||| f32Bad v) := by
  have news : ∀ i < 65, ∀ j < 64,
      (if namesRow row i then (arrayNew op v t i j).1 else none) =
        (if i < 64 ∧ ∀ r, row = some r → i = r.val then gains i j else none) ∧
      (if namesRow row i then (arrayNew op v t i j).2 else none) =
        (if i < 64 ∧ ∀ r, row = some r → i = r.val then offsets i j else none) := fun i _ j lt => by
    by_cases named : i < 64 ∧ ∀ r, row = some r → i = r.val
    · rw [if_pos named, if_pos named, (namesRow_iff row i).2 named, arrayNew_eq op v t named.1 lt, new]
      exact ⟨rfl, rfl⟩
    · have not_named := eq_false_of_ne_true (mt (namesRow_iff row i).1 named)
      rw [if_neg named, if_neg named, not_named]
      exact ⟨rfl, rfl⟩
  intro p q
  simp only [q, p]
  rw [← tileWrite_congr t fun i row j lt => (news i row j lt).1, ← tileWrite_congr _ fun i row j lt => (news i row j lt).2]
  rfl

theorem cyWriteH_eq (v : VWord) (t : Tile) :
    let p := tileWrite true (fun i _ => if i = 64 then some (1, 0) else none) t
    let q := tileWrite false (fun i j => if i = 64 then some ((f32Val v j).getD (0, 0)) else none) p.1
    cyWriteH v t = (q.1, p.2 ||| q.2 ||| f32Bad v) := rfl

/-! ### Mantissas of half a row (R165, R190) -/

theorem satInt_manMax (x : Int) : (satInt x (-manMax) manMax).1 = max (-(2 ^ 47 - 1)) (min x (2 ^ 47 - 1)) := by
  rw [manMax_eq, satInt]
  split
  · show _ = _
    omega
  · split <;> dsimp only <;> omega

/-- A lane of 64 bits as a signed integer. -/
theorem lanesOf_64_signed (v : VWord) {j : Nat} (lt : j < 32) :
    sInt 64 ((lanesOf 64 32 v.toNat).getD j 0) = (v.extractLsb' (64 * j) 64).toInt := by
  rw [lanesOf_eq_map, map_range_getD _ _ lt, sInt_mod, sInt_high]

/-- The entries of half a row whose parts come from a vector; the others stay. -/
theorem manSet_getD (gain hi : Bool) (v : VWord) {r : List (BitVec 96)} (len : r.length = 64) {j : Nat} (lt : j < 64) :
    (manSet gain hi v r).1.getD j 0 = if (if hi then 32 ≤ j else j < 32)
      then entSet gain (r.getD j 0) (max (-(2 ^ 47 - 1)) (min (v.extractLsb' (64 * (j % 32)) 64).toInt (2 ^ 47 - 1))) else r.getD j 0 := by
  have put : ∀ l : List (BitVec 96), l.length = 32 → ∀ n < 32,
      (List.zipWith (fun e (c : Int × Flags) => entSet gain e c.1) l
        ((lanesOf 64 32 v.toNat).map fun x => satInt (sInt 64 x) (-manMax) manMax))[n]? =
      some (entSet gain (l.getD n 0) (max (-(2 ^ 47 - 1)) (min (v.extractLsb' (64 * n) 64).toInt (2 ^ 47 - 1)))) := by
    intro l length n below
    have lane := lanesOf_64_signed v below
    rw [lanesOf_eq_map] at lane ⊢
    rw [map_range_getD _ _ below] at lane
    rw [List.getElem?_zipWith, List.map_map, List.getElem?_map, List.getElem?_range below, List.getElem?_eq_getElem (by omega),
      List.getD_eq_getElem _ _ (by omega), ← lane, ← satInt_manMax]
    rfl
  have size : ∀ l : List (BitVec 96), l.length = 32 → (List.zipWith (fun e (c : Int × Flags) => entSet gain e c.1) l
      ((lanesOf 64 32 v.toNat).map fun x => satInt (sInt 64 x) (-manMax) manMax)).length = 32 := fun l length => by
    rw [lanesOf_eq_map]
    simp [length]
  have low : (r.take 32).length = 32 := by simp [len]
  have high : (r.drop 32).length = 32 := by simp [len]
  unfold manSet
  simp only [List.getD_eq_getElem?_getD]
  cases hi
  · simp only [Bool.false_eq_true, if_false]
    split
    · rename_i below
      rw [List.getElem?_append_left (by rw [size _ low]; exact below), put _ low j below, Nat.mod_eq_of_lt below,
        List.getD_eq_getElem?_getD, List.getElem?_take_of_lt below]
      rfl
    · rename_i above
      rw [List.getElem?_append_right (by rw [size _ low]; omega), size _ low, List.getElem?_drop, Nat.add_sub_cancel' (by omega)]
  · simp only [if_true]
    split
    · rename_i above
      rw [List.getElem?_append_right (by rw [low]; exact above), low, put _ high _ (by omega), List.getD_eq_getElem?_getD,
        List.getElem?_drop, Nat.add_sub_cancel' above, show j % 32 = j - 32 by omega]
      rfl
    · rename_i below
      rw [List.getElem?_append_left (by rw [low]; omega), List.getElem?_take_of_lt (by omega)]

/-- The parts of such an entry. -/
theorem manSet_parts (gain hi : Bool) (v : VWord) {r : List (BitVec 96)} (len : r.length = 64) {j : Nat} (lt : j < 64) :
    let y := (manSet gain hi v r).1.getD j 0
    (entPart gain y = if (if hi then 32 ≤ j else j < 32)
      then max (-(2 ^ 47 - 1)) (min (v.extractLsb' (64 * (j % 32)) 64).toInt (2 ^ 47 - 1)) else entPart gain (r.getD j 0)) ∧
    entPart (!gain) y = entPart (!gain) (r.getD j 0) := by
  intro y
  have entry : y = _ := manSet_getD gain hi v len lt
  rw [entry]
  generalize new : max (-(2 ^ 47 - 1)) (min (v.extractLsb' (64 * (j % 32)) 64).toInt (2 ^ 47 - 1)) = m
  by_cases half : if hi then 32 ≤ j else j < 32
  · rw [if_pos half, if_pos half]
    exact ⟨entPart_entSet gain _ (by omega) (by omega), entPart_not_entSet ..⟩
  · rw [if_neg half, if_neg half]
    exact ⟨rfl, rfl⟩

/-- A write of the carry's mantissas (R190). -/
theorem cyWrite_mantissas {part : CySel} (not32 : part ≠ .f32) (notG32 : part ≠ .gf32) (v : VWord) {t : Tile} (len : t.cy.length = 64) :
    ∃ cy f, cyWrite part v t = ({ t with cy := cy }, f) ∧ ∀ j < 64,
      let half := if part = .bm0 ∨ part = .gm0 then j < 32 else 32 ≤ j
      let new := max (-(2 ^ 47 - 1)) (min (v.extractLsb' (64 * (j % 32)) 64).toInt (2 ^ 47 - 1))
      entPart false (cy.getD j 0) = (if half ∧ (part = .bm0 ∨ part = .bm1) then new else entPart false (t.cy.getD j 0)) ∧
      entPart true (cy.getD j 0) = (if half ∧ (part = .gm0 ∨ part = .gm1) then new else entPart true (t.cy.getD j 0)) := by
  have own {j : Nat} (lt : j < 64) (gain hi : Bool) := (manSet_parts gain hi v len lt).1
  have other {j : Nat} (lt : j < 64) (gain hi : Bool) := (manSet_parts gain hi v len lt).2
  cases part
  case bm0 => exact ⟨_, _, rfl, fun j lt =>
    ⟨(own lt false false).trans (if_congr (by simp) rfl rfl), (other lt false false).trans (if_neg (by simp)).symm⟩⟩
  case bm1 => exact ⟨_, _, rfl, fun j lt =>
    ⟨(own lt false true).trans (if_congr (by simp) rfl rfl), (other lt false true).trans (if_neg (by simp)).symm⟩⟩
  case gm0 => exact ⟨_, _, rfl, fun j lt =>
    ⟨(other lt true false).trans (if_neg (by simp)).symm, (own lt true false).trans (if_congr (by simp) rfl rfl)⟩⟩
  case gm1 => exact ⟨_, _, rfl, fun j lt =>
    ⟨(other lt true true).trans (if_neg (by simp)).symm, (own lt true true).trans (if_congr (by simp) rfl rfl)⟩⟩
  case f32 => exact absurd rfl not32
  case gf32 => exact absurd rfl notG32

/-! ### Reading a row or a carry (R164, R190) -/

theorem eq_map_range_getD {α : Type} (d : α) {l : List α} {n : Nat} (len : l.length = n) : l = (List.range n).map fun j => l.getD j d := by
  apply List.ext_getElem
  · simp [len]
  · intro i lt _
    rw [List.getElem_map, List.getElem_range, List.getD_eq_getElem _ _ lt]

/-- The halves of a row. -/
theorem take_eq_map {α : Type} (d : α) {l : List α} (len : l.length = 64) : l.take 32 = (List.range 32).map fun j => l.getD j d := by
  conv_lhs => rw [eq_map_range_getD d len]
  exact take_drop_map_range (m := 64) (p := 0) _ (by omega) |>.trans (by simp only [Nat.zero_add])

theorem drop_eq_map {α : Type} (d : α) {l : List α} (len : l.length = 64) : l.drop 32 = (List.range 32).map fun j => l.getD (32 + j) d := by
  have all : (l.drop 32).take 32 = l.drop 32 := List.take_of_length_le (by rw [List.length_drop]; omega)
  conv_lhs => rw [← all, eq_map_range_getD d len]
  exact take_drop_map_range (m := 64) _ (by omega)

theorem manLanes_eq (gain : Bool) {l : List (BitVec 96)} {y : Nat → BitVec 96} (list : l = (List.range 32).map y) :
    manLanes gain l = (Spec.vec 64 32 fun j => entPart gain (y j), 0) := by
  rw [list, manLanes, List.map_map, ofNat_ofLanes 64 32 _ (fun j => entPart gain (y j)) fun j _ => ?_]
  show ((wrap 64 (entPart gain (y j)) % 2 ^ 64 : Nat) : Int) = _
  rw [Nat.mod_eq_of_lt (wrap_lt ..), wrap]
  exact Int.toNat_of_nonneg (Int.emod_nonneg _ (by norm_num))

theorem f32Lanes_eq (gain : Bool) {xs : List (BitVec 96)} {ex : List (BitVec 32)} (len : xs.length = 64) (len' : ex.length = 64) :
    let q := fun j => roundF .f32 .ne false (decide (entPart gain (xs.getD j 0) < 0)) (entPart gain (xs.getD j 0)).natAbs
      (exPart gain (ex.getD j 0))
    f32Lanes gain xs ex = (Spec.vec 32 64 fun j => ((q j).1 : Int), Spec.flagsOf 64 fun j => (q j).2) := by
  intro q
  have lists : f32Lanes gain xs ex = ofLv 32 ((List.range 64).map q) := by
    conv_lhs => rw [eq_map_range_getD 0 len, eq_map_range_getD 0 len']
    rw [f32Lanes, List.zipWith_map, List.zipWith_self]
  rw [lists, ofLv_map_range]

/-! ### The operations of R189 on an entry -/

theorem gainNew_mul (l : Option Dy) (g b : Dy) :
    gainNew .mul l g b = (some (l.elim (0, 0) fun x => dyMul x g), some (l.elim (0, 0) fun x => dyMul x b)) := by
  cases l <;> rfl

theorem gainNew_mix (l : Option Dy) (g b : Dy) : gainNew .mix l g b =
    (some (l.getD (0, 0)), some (l.elim (0, 0) fun x => dyMul (dyAdd (1, 0) (-x.1, x.2)) b)) := by
  cases l <;> rfl

theorem gainNew_add (l : Option Dy) (g b : Dy) : gainNew .add l g b = (none, some (l.elim (0, 0) fun x => dyAdd b x)) := by
  cases l <;> rfl

theorem entryNew_eq (op : GainOp) (v : VWord) (t : Tile) (i j : Nat) : entryNew op v t i j =
    gainNew op (dyOf (decodeF .f32 (Spec.lane 32 v j)))
      ((((tileRow t i).getD j 0).extractLsb' 48 48).toInt, ((t.ex.getD j 0).extractLsb' 16 16).toInt)
      ((((tileRow t i).getD j 0).setWidth 48).toInt, ((t.ex.getD j 0).setWidth 16).toInt) := by
  rw [entryNew, entBM_eq, entGM_eq, exB_eq, exG_eq]
  rfl

/-! ### The instructions (R182, R189, R190) -/

theorem afTile_of_f64 {t : Tile} {b : Bool} (mode : t.f64 = b) : afTile t = !b := by rw [afTile, mode]

/-- A check of an M-slot instruction that reads words which cannot be corrected. -/
theorem orBad_none {bad : Bool} (rotten : bad = true) : orBad bad none = some (sramStop 0 8 none) := by rw [rotten]; rfl

section

variable {i : Instr} {s : State} {g : Guard} {acc : Fin 4} {row : Option (Fin 64)} {a : VOp}

/-- A write of gains or offsets. -/
theorem engine_of_gainWrite {op : GainOp}
    (arm : exec i s = settle s (issueTile g acc (some a) (fun k => tileBad k acc.val) afTile (fun c t => gainWrite op row (valV c a) t) s))
    (right : afTile (tileOf (cur s).mx.now acc) = true) (clear : inWindow (cur s).mx acc (cur s).ctx.bc = false)
    (good : tileBad (cur s) acc.val = false) {gains offsets : Nat → Nat → Option Dy}
    (new : ∀ i j, entryNew op (valV (curCtx s) a) ((Spec.made (cur s)).tiles.getD acc.val {}) i j = (gains i j, offsets i j)) :
    let was := Spec.made (cur s)
    let p := tileWrite true (fun i j => if i < 64 ∧ ∀ r, row = some r → i = r.val then gains i j else none) (was.tiles.getD acc.val {})
    let q := tileWrite false (fun i j => if i < 64 ∧ ∀ r, row = some r → i = r.val then offsets i j else none) p.1
    Spec.engine g i s (voidV (curCtx s) a)
      (Spec.wrote (cur s) { was with tiles := was.tiles.set acc.val { q.1 with used := true } })
      (p.2 ||| q.2 |||
        if (List.range 64).any fun j => dyOf (decodeF .f32 (Spec.lane 32 (valV (curCtx s) a) j)) == none then fINVALID else 0) := by
  intro was p q
  rw [← f32Bad_eq]
  exact engine_of_issueTile arm right clear good (gainWrite_eq new)

end

/-- Settles O29: the checks and the writes of the affine instructions, and the reads of the carry. -/
theorem affineAccess : Obligations.AffineAccess := by
  unfold Obligations.AffineAccess
  intro g d acc row part a s k c t was u v B G EB EG put lam lost on x Gv Bv writes carry zero
  have low : B = entPart false := entBM_eq.symm
  have high : G = entPart true := entGM_eq.symm
  have read : exec (.afcarryRd g d part acc) s = settle s (issueMv g d (fun k => cyBad k acc.val || exBad k acc.val)
    (fun k => mCheck false (tileOf k.mx.now acc).f64 false) (fun k => cyRead part (tileOf k.mx.now acc)) s) := rfl
  refine ⟨fun f64 => ?oslot, fun af window => ?timing, fun off => ?off, fun af clear rotten => ?bad, fun af rotten => ?badRead,
    fun af clear good => ?writes, fun af goodCy goodEx len len' => ?reads⟩
  case oslot =>
    have wrong : afTile (tileOf (cur s).mx.now acc) = false := afTile_of_f64 f64
    have f64 : (tileOf (cur s).mx.now acc).f64 = true := f64
    have stops {i f} (arm : exec i s = settle s (issueTile g acc (some a) (fun k => tileBad k acc.val) afTile f s)) :
        Spec.engineStop g i s .oslot := oslot_of_issueTile arm wrong
    exact ⟨stops rfl, stops rfl, stops rfl, stops rfl, fun on => stop_of_issueMv read on (by rw [f64]; rfl), stops rfl, stops rfl⟩
  case timing =>
    have right : afTile (tileOf (cur s).mx.now acc) = true := afTile_of_f64 af
    have stops {i f} (arm : exec i s = settle s (issueTile g acc (some a) (fun k => tileBad k acc.val) afTile f s)) :
        Spec.engineStop g i s .timing := timing_of_issueTile arm right window
    exact ⟨stops rfl, stops rfl, stops rfl, stops rfl, stops rfl, stops rfl⟩
  case off =>
    have reads {i f} (arm : exec i s = settle s (issueTile g acc (some a) (fun k => tileBad k acc.val) afTile f s)) :
        Spec.onlyReads i s (voidP c g.p) := onlyReads_of_issueTile arm off
    simp only [List.forall_mem_cons]
    exact ⟨⟨reads rfl, reads rfl, reads rfl, reads rfl, reads rfl, reads rfl, fun _ mem => absurd mem List.not_mem_nil⟩,
      resultV_of_off off (resultV_of_issueMv read (fun on => absurd on (ne_true_of_eq_false off)) rfl)⟩
  case bad =>
    have right : afTile (tileOf (cur s).mx.now acc) = true := afTile_of_f64 af
    have faults {i f} (arm : exec i s = settle s (issueTile g acc (some a) (fun k => tileBad k acc.val) afTile f s)) :
        Spec.engineBad g i s := engineBad_of_issueTile arm right clear (tileBad_iff.2 rotten)
    simp only [List.forall_mem_cons]
    exact ⟨faults rfl, faults rfl, faults rfl, faults rfl, faults rfl, faults rfl, fun _ mem => absurd mem List.not_mem_nil⟩
  case badRead =>
    have af : (tileOf (cur s).mx.now acc).f64 = false := af
    have bad : (cyBad (cur s) acc.val || exBad (cur s) acc.val) = true := by
      rw [Bool.or_eq_true, cyBad, exBad, sramBad_iff, sramBad_iff]
      exact rotten
    exact fun on => stop_of_issueMv read on (by rw [af]; exact orBad_none bad)
  case writes =>
    have right : afTile (tileOf (cur s).mx.now acc) = true := afTile_of_f64 af
    have good : tileBad (cur s) acc.val = false := eq_false_of_ne_true (mt tileBad_iff.1 good)
    refine ⟨engine_of_gainWrite rfl right clear good fun i j => rfl,
      engine_of_gainWrite rfl right clear good fun i j => (entryNew_eq ..).trans (gainNew_mul ..),
      engine_of_gainWrite rfl right clear good fun i j => (entryNew_eq ..).trans (gainNew_mix ..),
      engine_of_gainWrite rfl right clear good fun i j => (entryNew_eq ..).trans (gainNew_add ..), ?carryH,
      fun f32 => ?offsets, fun gf32 => ?gains, fun not32 notG32 len => ?mantissas⟩
    case carryH =>
      have invalid : f32Bad v = lost := f32Bad_eq v
      show Spec.engine g _ s (voidV c a) _ (_ ||| _ ||| lost)
      rw [← invalid]
      exact engine_of_issueTile rfl right clear good (cyWriteH_eq v u)
    case offsets =>
      subst f32
      exact ⟨_, engine_of_issueTile rfl right clear good rfl⟩
    case gains =>
      subst gf32
      exact ⟨_, engine_of_issueTile rfl right clear good rfl⟩
    case mantissas =>
      rw [low, high]
      obtain ⟨cy, f, value, parts⟩ := cyWrite_mantissas not32 notG32 v len
      exact ⟨cy, f, engine_of_issueTile rfl right clear good value, parts⟩
  case reads =>
    have af : (tileOf (cur s).mx.now acc).f64 = false := af
    have good : (cyBad (cur s) acc.val || exBad (cur s) acc.val) = false := by
      rw [cyBad, exBad, eq_false_of_ne_true (mt (sramBad_iff ..).1 goodCy), eq_false_of_ne_true (mt (sramBad_iff ..).1 goodEx)]
      rfl
    have passes : orBad (cyBad (cur s) acc.val || exBad (cur s) acc.val) (mCheck false (tileOf (cur s).mx.now acc).f64 false) = none := by
      rw [af, good]
      rfl
    have lands : ∀ {v : VWord} {f : Flags}, cyRead part (tileOf (cur s).mx.now acc) = (v, f) →
        Spec.resultV g (.afcarryRd g d part acc) s false 3 6 d v f := fun value => resultV_of_issueMv read (fun _ => passes) value
    rw [low, high]
    simp only [← exB_eq, ← exG_eq]
    cases part
    case bm0 => exact lands (manLanes_eq false (take_eq_map 0 len))
    case bm1 => exact lands (manLanes_eq false (drop_eq_map 0 len))
    case gm0 => exact lands (manLanes_eq true (take_eq_map 0 len))
    case gm1 => exact lands (manLanes_eq true (drop_eq_map 0 len))
    case f32 => exact lands (f32Lanes_eq false len len')
    case gf32 => exact lands (f32Lanes_eq true len len')

end Sys2Proof.Machine
end

section
/-! Proofs of the family of spec/07: the lanes that a row of a V slot lands, given modulo their width. -/

namespace Sys2Proof.Machine

/-! ### Lane results given modulo their width (R98, R116, R118) -/

theorem vec_congr {w n : Nat} {x y : Nat → Int} (same : ∀ j < n, x j ≡ y j [ZMOD 2 ^ w]) : Spec.vec w n x = Spec.vec w n y := by
  unfold Spec.vec
  congr 1
  exact Finset.sum_congr rfl fun j lt => by rw [same j (Finset.mem_range.1 lt)]

theorem flagsOf_congr {n : Nat} {f f' : Nat → Flags} (same : ∀ j < n, f j = f' j) : Spec.flagsOf n f = Spec.flagsOf n f' :=
  List.foldr_ext _ _ 0 fun j mem m => by rw [same j (List.mem_range.1 mem)]

theorem flagsOf_zero (n : Nat) : (Spec.flagsOf n fun _ => 0) = 0 := by
  induction n with
  | zero => rfl
  | succ n ih => rw [Spec.flagsOf, List.range_succ, List.foldr_append]; exact ih

theorem lanes_of_codes {g : Guard} {i : Instr} {s : State} {void : Bool} {lat : Nat} {d : VDst} {w n : Nat} {h : Nat → Nat × Flags}
    {z : Nat → Int} {f : Nat → Flags} (row : Spec.codes g i s void lat d w n h)
    (value : ∀ j < n, ((h j).1 : Int) ≡ z j [ZMOD 2 ^ w]) (flags : ∀ j < n, (h j).2 = f j) : Spec.lanes g i s void lat d w n z f := by
  rw [Spec.lanes, ← vec_congr value, ← flagsOf_congr flags]
  exact row

section

variable {i : Instr} {s : State} {g : Guard} {d : VDst} {a b e : VOp} {lat : Nat} {lt : LT} {h : Nat → Int}

theorem resultV_of_unV {f : VWord → VWord × Flags} {v : VWord} {fl : Flags} (row : exec i s = settle s (unV lat f g d a s))
    (value : f (valV (curCtx s) a) = (v, fl)) : Spec.resultV g i s (voidV (curCtx s) a) (slotV s) lat d v fl := by
  refine resultV_of_exec (row.trans ?_)
  rw [← value]
  rfl

theorem resultV_of_binV {f : VWord → VWord → VWord × Flags} {v : VWord} {fl : Flags} (row : exec i s = settle s (binV lat f g d a b s))
    (value : f (valV (curCtx s) a) (valV (curCtx s) b) = (v, fl)) :
    Spec.resultV g i s (voidV (curCtx s) a || voidV (curCtx s) b) (slotV s) lat d v fl := by
  refine resultV_of_exec (row.trans ?_)
  rw [← value]
  rfl

theorem lanes_of_quiet1 {f : Nat → Nat} (row : exec i s = settle s (unV lat (lane1 lt (quiet1 f)) g d a s))
    (value : ∀ j, (f (Spec.lane lt.width (valV (curCtx s) a) j) : Int) ≡ h j [ZMOD 2 ^ lt.width]) :
    Spec.lanes g i s (voidV (curCtx s) a) lat d lt.width (2048 / lt.width) h fun _ => 0 :=
  lanes_of_codes (codes_of_lane1 (quiet1 f) row fun _ => rfl) (fun j _ => value j) fun _ _ => rfl

theorem lanes_of_quiet2 {f : Nat → Nat → Nat} (row : exec i s = settle s (binV lat (lane2 lt (quiet2 f)) g d a b s))
    (value : ∀ j, (f (Spec.lane lt.width (valV (curCtx s) a) j) (Spec.lane lt.width (valV (curCtx s) b) j) : Int) ≡
      h j [ZMOD 2 ^ lt.width]) :
    Spec.lanes g i s (voidV (curCtx s) a || voidV (curCtx s) b) lat d lt.width (2048 / lt.width) h fun _ => 0 :=
  lanes_of_codes (codes_of_lane2 (quiet2 f) row) (fun j _ => value j) fun _ _ => rfl

theorem lanes_of_quiet3 {f : Nat → Nat → Nat → Nat} (row : exec i s = settle s (triV lat (lane3 lt (quiet3 f)) g d a b e s))
    (value : ∀ j, (f (Spec.lane lt.width (valV (curCtx s) a) j) (Spec.lane lt.width (valV (curCtx s) b) j)
      (Spec.lane lt.width (valV (curCtx s) e) j) : Int) ≡ h j [ZMOD 2 ^ lt.width]) :
    Spec.lanes g i s (voidV (curCtx s) a || voidV (curCtx s) b || voidV (curCtx s) e) lat d lt.width (2048 / lt.width) h fun _ => 0 :=
  lanes_of_codes (codes_of_lane3 (quiet3 f) row) (fun j _ => value j) fun _ _ => rfl

end

/-! ### Lists of lanes -/

theorem take_map_range {α : Type} (f : Nat → α) {m n : Nat} (le : m ≤ n) : ((List.range n).map f).take m = (List.range m).map f := by
  rw [← List.map_take, List.take_range, min_eq_left le]

theorem drop_map_range {α : Type} (f : Nat → α) (m n : Nat) :
    ((List.range n).map f).drop m = (List.range (n - m)).map fun j => f (m + j) := by
  apply List.ext_getElem
  · simp
  · simp

theorem map_range_append {α : Type} (f h : Nat → α) (m n : Nat) :
    (List.range m).map f ++ (List.range n).map h = (List.range (m + n)).map fun i => if i < m then f i else h (i - m) := by
  apply List.ext_getElem
  · simp
  · intro i _ _
    simp only [List.getElem_append, List.getElem_map, List.getElem_range, List.length_map, List.length_range]
    split <;> rfl

theorem LT.lanes_pos (lt : LT) : 0 < 2048 / lt.width := by cases lt <;> decide

theorem LT.half_add_half (lt : LT) : 2048 / lt.width / 2 + 2048 / lt.width / 2 = 2048 / lt.width := by cases lt <;> rfl

end Sys2Proof.Machine
end

section
/-! Proofs of the family of spec/07: lanes of integers (O16). -/

namespace Sys2Proof.Machine

/-! ### The operations of integer lanes modulo their width (R98, R121) -/

theorem wrap_modEq (w : Nat) (z : Int) : (wrap w z : Int) ≡ z [ZMOD 2 ^ w] := by
  rw [wrap, Int.toNat_of_nonneg (Int.emod_nonneg _ (by positivity))]
  push_cast
  exact Int.mod_modEq ..

theorem num_modEq (w : Nat) (u : Bool) (x : Nat) : Spec.num w u x ≡ x [ZMOD 2 ^ w] := by
  unfold Spec.num
  split
  · rfl
  · exact Int.sub_modulus_modEq_iff.2 rfl

theorem num_true (w x : Nat) : Spec.num w true x = x := if_pos (.inl rfl)

section

variable {lt : LT} {x y : Nat} (u : Bool) (hx : x < 2 ^ lt.width) (hy : y < 2 ^ lt.width)

theorem lint_eq_num (fits : x < 2 ^ lt.width) : lint lt u x = Spec.num lt.width u x := laneInt_eq_num u fits

theorem laneInt_lane (w : Nat) (u : Bool) (v : VWord) (j : Nat) : laneInt w u (Spec.lane w v j) = Spec.num w u (Spec.lane w v j) :=
  laneInt_eq_num u (lane_lt ..)

theorem lint_lane (lt : LT) (u : Bool) (v : VWord) (j : Nat) :
    lint lt u (Spec.lane lt.width v j) = Spec.num lt.width u (Spec.lane lt.width v j) := laneInt_lane ..

include hx hy

theorem minLane_modEq : (minLane lt u x y : Int) ≡ min (Spec.num lt.width u x) (Spec.num lt.width u y) [ZMOD 2 ^ lt.width] := by
  rw [minLane, lint_eq_num u hx, lint_eq_num u hy, min_def]
  split
  · exact (num_modEq ..).symm
  · exact (num_modEq ..).symm

theorem maxLane_modEq : (maxLane lt u x y : Int) ≡ max (Spec.num lt.width u x) (Spec.num lt.width u y) [ZMOD 2 ^ lt.width] := by
  rw [maxLane, lint_eq_num u hx, lint_eq_num u hy, max_comm, max_def]
  split
  · exact (num_modEq ..).symm
  · exact (num_modEq ..).symm

theorem mulhLane_modEq : (mulhLane lt u x y : Int) ≡
    Int.fdiv (Spec.num lt.width u x * Spec.num lt.width u y) (2 ^ lt.width) [ZMOD 2 ^ lt.width] := by
  rw [mulhLane, lint_eq_num u hx, lint_eq_num u hy, Int.fdiv_eq_ediv_of_nonneg _ (by positivity)]
  push_cast
  exact wrap_modEq ..

omit hx in
theorem sub_lane_modEq : ((x + 2 ^ lt.width - y : Nat) : Int) ≡ x - y [ZMOD 2 ^ lt.width] := by
  rw [Nat.cast_sub (by omega)]
  push_cast
  exact Int.add_modEq_right.sub_right _

omit hy in
theorem clzN_cast : (clzN lt.width x : Int) = if x = 0 then (lt.width : Int) else (lt.width : Int) - 1 - Nat.log2 x := by
  unfold clzN
  split
  · rfl
  · next nonzero => have := (Nat.log2_lt nonzero).2 hx; omega

end

/-! ### Saturation (R21, R98) -/

theorem intLo_eq_lo (w : Nat) (u : Bool) : intLo w u = Spec.lo w u := by cases u <;> simp [intLo, Spec.lo]

theorem intHi_eq_hi (w : Nat) (u : Bool) : intHi w u = Spec.hi w u := by cases u <;> simp [intHi, Spec.hi]

theorem lo_le_hi (w : Nat) (u : Bool) : Spec.lo w u ≤ Spec.hi w u := by
  cases u
  · have : (0 : Int) < 2 ^ (w - 1) := by positivity
    simp only [Spec.lo, Spec.hi, Bool.false_eq_true, if_false]; omega
  · have : (0 : Int) < 2 ^ w := by positivity
    simp only [Spec.lo, Spec.hi, if_true]; omega

theorem satInt_eq (w : Nat) (u : Bool) (x : Int) : satInt x (intLo w u) (intHi w u) = (Spec.sat w u x, Spec.satFlag w u x) := by
  rw [intLo_eq_lo, intHi_eq_hi, satInt, Spec.satFlag, Spec.sat]
  have := lo_le_hi w u
  split
  · next below => rw [min_eq_left (by omega), max_eq_left below.le, if_neg below.ne']
  · split
    · next above => rw [min_eq_right above.le, max_eq_right this, if_neg above.ne]
    · rw [min_eq_left (by omega), max_eq_right (by omega), if_pos rfl]

/-- A lane that is clamped, or that wraps. -/
def clampLane (sat : Bool) (w : Nat) (u : Bool) (z : Int) : Nat × Flags := if sat then satLane w u z else (wrap w z, 0)

theorem satLane_modEq (w : Nat) (u : Bool) (z : Int) : ((satLane w u z).1 : Int) ≡ Spec.sat w u z [ZMOD 2 ^ w] := by
  rw [satLane, satInt_eq]
  exact wrap_modEq ..

theorem satLane_flag (w : Nat) (u : Bool) (z : Int) : (satLane w u z).2 = Spec.satFlag w u z := by rw [satLane, satInt_eq]

/-- Lanes that are clamped or wrap, as the statements give them. -/
theorem lanes_of_clamped {g : Guard} {i : Instr} {s : State} {void : Bool} {lat : Nat} {d : VDst} {w n : Nat} {u sat : Bool}
    {z : Nat → Int} (row : Spec.codes g i s void lat d w n fun j => clampLane sat w u (z j)) :
    if sat then Spec.lanes g i s void lat d w n (fun j => Spec.sat w u (z j)) (fun j => Spec.satFlag w u (z j))
    else Spec.lanes g i s void lat d w n z fun _ => 0 := by
  cases sat
  · exact lanes_of_codes row (fun _ _ => wrap_modEq ..) fun _ _ => rfl
  · exact lanes_of_codes row (fun _ _ => satLane_modEq ..) fun _ _ => satLane_flag ..

/-- A row that clamps an operation of two lanes. -/
theorem lanes_of_satLane2 {g : Guard} {i : Instr} {s : State} {d : VDst} {a b : VOp} {lat : Nat} {lt : LT} {u : Bool}
    {f : Int → Int → Int}
    (row : exec i s =
      settle s (binV lat (lane2 lt fun x y => satLane lt.width u (f (lint lt u x) (lint lt u y))) g d a b s)) :
    let z := fun j => f (Spec.num lt.width u (Spec.lane lt.width (valV (curCtx s) a) j))
      (Spec.num lt.width u (Spec.lane lt.width (valV (curCtx s) b) j))
    Spec.lanes g i s (voidV (curCtx s) a || voidV (curCtx s) b) lat d lt.width (2048 / lt.width)
      (fun j => Spec.sat lt.width u (z j)) fun j => Spec.satFlag lt.width u (z j) := by
  refine lanes_of_codes (codes_of_lane2 _ row) (fun j _ => ?_) fun j _ => ?_
  · rw [lint_lane, lint_lane]
    exact satLane_modEq ..
  · rw [lint_lane, lint_lane]
    exact satLane_flag ..

/-! ### Halves of vectors, widening products (R123) -/

/-- The lanes of the low or of the high half. -/
theorem halfLanes_eq_map (lt : LT) (hi : Bool) (v : VWord) : halfLanes lt hi v =
    (List.range (2048 / lt.width / 2)).map fun i => Spec.lane lt.width v ((if hi then 2048 / lt.width / 2 else 0) + i) := by
  rw [halfLanes, lv_eq_map, LT.lanes]
  cases hi
  · rw [if_neg Bool.false_ne_true, if_neg Bool.false_ne_true, take_map_range _ (Nat.div_le_self ..)]
    simp only [Nat.zero_add]
  · rw [if_pos rfl, if_pos rfl, drop_map_range, Nat.sub_eq_of_eq_add (LT.half_add_half lt).symm]

theorem wmulV_eq (lt : LT) (hi u : Bool) (a b : VWord) : wmulV lt hi u a b =
    ofLv (2 * lt.width) ((List.range (2048 / lt.width / 2)).map fun i =>
      let at_ := (if hi then 2048 / lt.width / 2 else 0) + i
      (wrap (2 * lt.width) (Spec.num lt.width u (Spec.lane lt.width a at_) * Spec.num lt.width u (Spec.lane lt.width b at_)), 0)) := by
  simp only [wmulV, halfLanes_eq_map, List.zipWith_map, List.zipWith_self, lint_lane]

theorem wmacV_eq (lt : LT) (hi u sat : Bool) (a b e : VWord) : wmacV lt hi u sat a b e =
    ofLv (2 * lt.width) ((List.range (2048 / lt.width / 2)).map fun i =>
      let at_ := (if hi then 2048 / lt.width / 2 else 0) + i
      clampLane sat (2 * lt.width) u (Spec.num (2 * lt.width) u (Spec.lane (2 * lt.width) e i) +
        Spec.num lt.width u (Spec.lane lt.width a at_) * Spec.num lt.width u (Spec.lane lt.width b at_))) := by
  rw [wmacV, halfLanes_eq_map, halfLanes_eq_map, lanesOf_eq_map, List.zip, List.zipWith_map, List.zipWith_self, LT.lanes,
    List.zipWith_map, List.zipWith_self]
  simp only [← laneInt_lane]
  rfl

/-! ### Narrowing (R124) -/

theorem roundShift_tz (v : Int) (s : Nat) : roundShift .tz v s = Int.tdiv v (2 ^ s) := by
  have whole : (roundMag .tz v.natAbs 0 s).1 = v.natAbs / 2 ^ s := by
    unfold roundMag
    split
    · next fine =>
      obtain rfl : s = 0 := by omega
      simp
    · simp
  rw [roundShift, whole]
  push_cast
  split
  · next neg => rw [abs_of_neg neg, ← Int.tdiv_eq_ediv_of_nonneg (by omega), Int.neg_tdiv, neg_neg]
  · next nonneg => rw [abs_of_nonneg (by omega), Int.tdiv_eq_ediv_of_nonneg (by omega)]

/-- The integer that a floor and its remainder round to, ties to even, is the nearest one. -/
theorem nearest_of_floor {v q r : Int} {u : Nat} (pos : 0 < u) (split : v = q * u + r) (low : 0 ≤ r) (high : r < u) :
    Spec.nearest ((v : ℚ) / u) (if 2 * r < u ∨ (2 * r = u ∧ q % 2 = 0) then q else q + 1) := by
  have pos' : (0 : ℚ) < u := by exact_mod_cast pos
  have value : (v : ℚ) / u = q + r / u := by
    rw [split]
    push_cast
    field_simp
  have low' : (0 : ℚ) ≤ r / u := by positivity
  have high' : (r : ℚ) / u < 1 := (div_lt_one pos').2 (by exact_mod_cast high)
  have below : (r : ℚ) / u ≤ 1 / 2 ↔ 2 * r ≤ u := by
    rw [div_le_div_iff₀ pos' two_pos, mul_comm, one_mul]
    exact_mod_cast Iff.rfl
  have middle : (r : ℚ) / u = 1 / 2 ↔ 2 * r = u := by
    rw [div_eq_div_iff pos'.ne' two_ne_zero, mul_comm, one_mul]
    exact_mod_cast Iff.rfl
  rw [value, Spec.nearest]
  split
  · next down =>
    rw [add_sub_cancel_left, abs_of_nonneg low', below, middle]
    exact ⟨by omega, by omega⟩
  · next up =>
    have dist : |(q : ℚ) + r / u - (q + 1 : Int)| = 1 - r / u := by
      rw [abs_of_nonpos (by push_cast; linarith)]
      push_cast
      ring
    have above : 1 / 2 ≤ (r : ℚ) / u := (lt_or_eq_of_le (show (u : Int) ≤ 2 * r by omega)).elim
      (fun lt => (not_le.1 (mt below.1 (not_le.2 lt))).le) fun eq => (middle.2 eq.symm).ge
    rw [dist]
    exact ⟨by linarith, fun tie => by have := middle.1 (by linarith); omega⟩

theorem roundShift_ne (v : Int) (s : Nat) : roundShift .ne v s =
    let q := Int.fdiv v (2 ^ s)
    let r := v - q * 2 ^ s
    if 2 * r < 2 ^ s ∨ (2 * r = 2 ^ s ∧ q % 2 = 0) then q else q + 1 := by
  have pos : (0 : Int) < 2 ^ s := by positivity
  refine (roundInt_eq_iff (v, 0) s _).2 ?_
  have value : Spec.dy (v, 0) / 2 ^ (s : Int) = (v : ℚ) / ((2 ^ s : Nat) : ℚ) := by simp [Spec.dy]
  have near := nearest_of_floor (Nat.two_pow_pos s) (v := v) (q := Int.fdiv v (2 ^ s)) (r := v - Int.fdiv v (2 ^ s) * 2 ^ s)
    (by push_cast; ring)
    (by rw [Int.fdiv_eq_ediv_of_nonneg _ pos.le, mul_comm, ← Int.emod_def]; exact Int.emod_nonneg _ pos.ne')
    (by rw [Int.fdiv_eq_ediv_of_nonneg _ pos.le, mul_comm, ← Int.emod_def]; exact_mod_cast Int.emod_lt_of_pos _ pos)
  rw [value]
  push_cast at near ⊢
  exact near

theorem narrowV_eq (lt : LT) (s : Nat) (u : Bool) (rnd : Rnd) (sat : Bool) (a b : VWord) : narrowV lt s u rnd sat a b =
    ofLv lt.width ((List.range (2048 / lt.width)).map fun i => clampLane sat lt.width u (roundShift rnd (Spec.num (2 * lt.width) u
      (if i < 2048 / lt.width / 2 then Spec.lane (2 * lt.width) a i
        else Spec.lane (2 * lt.width) b (i - 2048 / lt.width / 2))) s)) := by
  rw [narrowV, lanesOf_eq_map, lanesOf_eq_map, LT.lanes, map_range_append, LT.half_add_half, List.map_map]
  simp only [apply_ite (Spec.num (2 * lt.width) u), ← laneInt_lane, ← apply_ite (laneInt (2 * lt.width) u)]
  rfl

/-! ### The rows (R121, R123, R124) -/

/-- Settles O16: each lane by its operation modulo the width (`vec_congr`), clamped where the row saturates (`satInt_eq`). -/
theorem vectorIntegerLanes : Obligations.VectorIntegerLanes := by
  unfold Obligations.VectorIntegerLanes
  refine ⟨fun g d lt u a b e s _ => ?wrapping, fun g d lt u hi sat sh rnd a b e s => ?widths⟩
  case wrapping =>
    intro c w n x y z S one two
    have fits : ∀ (o : VOp) (j : Nat), Spec.lane lt.width (valV (curCtx s) o) j < 2 ^ lt.width := fun o j => lane_lt ..
    refine ⟨lanes_of_quiet2 rfl fun j => ?add, lanes_of_quiet2 rfl fun j => sub_lane_modEq (fits b j),
      lanes_of_quiet2 rfl fun j => ?mul, lanes_of_quiet2 rfl fun j => mulhLane_modEq u (fits a j) (fits b j),
      lanes_of_quiet3 rfl fun j => ?mac, lanes_of_quiet1 rfl fun j => ?abs, lanes_of_quiet1 rfl fun j => ?neg,
      lanes_of_quiet2 rfl fun j => minLane_modEq false (fits a j) (fits b j),
      lanes_of_quiet2 rfl fun j => maxLane_modEq false (fits a j) (fits b j), lanes_of_quiet2 rfl fun j => ?minz,
      lanes_of_quiet2 rfl fun j => ?maxz, lanes_of_quiet2 rfl fun j => rfl, lanes_of_quiet2 rfl fun j => rfl,
      lanes_of_quiet2 rfl fun j => rfl, lanes_of_quiet2 rfl fun j => rfl,
      lanes_of_quiet1 rfl fun j => (clzN_cast (fits a j)).symm ▸ rfl, lanes_of_quiet1 rfl fun j => ?popc⟩
    case add => push_cast; rfl
    case mul => push_cast; rfl
    case mac => push_cast; rfl
    case abs =>
      refine (wrap_modEq ..).trans ?_
      rw [lint_eq_num false (fits a j), Int.natCast_natAbs]
    case neg =>
      have := sub_lane_modEq (x := 0) (fits a j)
      rwa [Nat.zero_add, Nat.cast_zero, zero_sub] at this
    case minz =>
      have := minLane_modEq true (fits a j) (fits b j)
      rwa [num_true, num_true] at this
    case maxz =>
      have := maxLane_modEq true (fits a j) (fits b j)
      rwa [num_true, num_true] at this
    case popc =>
      rw [popN_eq_sum]
      push_cast
      rfl
  case widths =>
    intro c w n x y void at_ clamped
    refine ⟨fun _ => ⟨lanes_of_satLane2 (f := (· + ·)) rfl, lanes_of_satLane2 (f := (· - ·)) rfl⟩,
      fun _ => ⟨?wmul, ?wmac, fun _ => ?narrow⟩⟩
    case wmul =>
      exact lanes_of_codes (codes_of_issueV (void := fun c => voidV c a || voidV c b) rfl (wmulV_eq ..)) (fun _ _ => wrap_modEq ..)
        fun _ _ => rfl
    case wmac =>
      exact lanes_of_clamped (codes_of_issueV (void := fun c => voidV c a || voidV c b || voidV c e) rfl (wmacV_eq ..))
    case narrow =>
      refine lanes_of_clamped (codes_of_issueV (void := fun c => voidV c a || voidV c b) rfl ((narrowV_eq ..).trans ?_))
      congr 2
      funext i
      cases rnd
      · rw [roundShift_ne]; rfl
      · rw [roundShift_tz]; rfl

end Sys2Proof.Machine
end

section
/-! Proofs of the family of spec/07: shifts, compares and selections of lanes (O17). -/

namespace Sys2Proof.Machine

/-- The amount by which a shift moves lane `j` (R122). -/
def laneAmount (lt : LT) (c : Ctx) (j : Nat) : VAmt → Nat
  | .reg o => Spec.lane lt.width (valV c o) j
  | .imm m => m

/-- Whether the amount of a shift reads a void entry. -/
def voidAmount (c : Ctx) : VAmt → Bool
  | .reg o => voidV c o
  | .imm _ => false

theorem lanes_of_shiftV {i : Instr} {s : State} {g : Guard} {d : VDst} {a : VOp} {amt : VAmt} {lt : LT} {f : LT → Nat → Nat → Nat}
    {h : Nat → Int} (row : exec i s = settle s (shiftV f g d lt a amt s))
    (value : ∀ j, (f lt (Spec.lane lt.width (valV (curCtx s) a) j) (laneAmount lt (curCtx s) j amt) : Int) ≡ h j [ZMOD 2 ^ lt.width]) :
    Spec.lanes g i s (voidV (curCtx s) a || voidAmount (curCtx s) amt) 2 d lt.width (2048 / lt.width) h fun _ => 0 := by
  cases amt with
  | reg o => exact lanes_of_quiet2 (f := f lt) row value
  | imm m =>
    rw [voidAmount, Bool.or_false]
    exact lanes_of_quiet1 (f := fun x => f lt x m) row value

theorem sarLane_modEq {lt : LT} {x : Nat} (fits : x < 2 ^ lt.width) (k : Nat) : (sarLane lt x k : Int) ≡
    Int.fdiv (Spec.num lt.width false x) (2 ^ min k (lt.width - 1)) [ZMOD 2 ^ lt.width] := by
  rw [sarLane, lint_eq_num false fits, Int.fdiv_eq_ediv_of_nonneg _ (by positivity)]
  push_cast
  exact wrap_modEq ..

theorem maskLane_cast (lt : LT) (b : Bool) : (maskLane lt b : Int) = if b then 2 ^ lt.width - 1 else 0 := by
  cases b
  · rfl
  · simp [maskLane, Nat.cast_sub Nat.one_le_two_pow]

/-- Settles O17: each lane by its operation modulo the width, in whatever form the amount of a shift is given. -/
theorem vectorShiftsAndSelects : Obligations.VectorShiftsAndSelects := by
  unfold Obligations.VectorShiftsAndSelects
  intro g d lt cc a b e amt s c w n x y S k void sh holds
  have shifts : ∀ {i : Instr} {f : LT → Nat → Nat → Nat} {h : Nat → Int}, exec i s = settle s (shiftV f g d lt a amt s) →
      (∀ j, (f lt (x j) (k j) : Int) ≡ h j [ZMOD 2 ^ w]) → sh i h := by
    cases amt <;> exact lanes_of_shiftV
  have compares : ∀ j, ccLane lt cc (x j) (y j) = holds j := by
    intro j
    have signed : ∀ o j, lint lt false (Spec.lane lt.width (valV (curCtx s) o) j) = S (Spec.lane w (valV c o) j) :=
      fun _ _ => lint_lane ..
    cases cc with
    | eq => exact beq_eq_decide (x j) (y j)
    | ne => exact (congrArg (!·) (beq_eq_decide (x j) (y j))).trans decide_not.symm
    | lt | le | gt | ge =>
      show decide _ = decide _
      rw [signed, signed]
    | _ => rfl
  refine ⟨fun _ => ⟨shifts rfl fun j => ?shl, shifts rfl fun j => ?shr, shifts rfl fun j => sarLane_modEq (lane_lt ..) _⟩,
    fun _ _ => lanes_of_quiet2 rfl fun j => ?cmp, fun _ => lanes_of_quiet3 rfl fun j => ?sel⟩
  case shl =>
    rw [shlLane]
    push_cast
    rfl
  case shr =>
    rw [shrLane]
    push_cast
    rfl
  case cmp => rw [maskLane_cast, ← compares j]
  case sel =>
    push_cast
    rfl

end Sys2Proof.Machine
end

section
/-! Proofs of the family of spec/07: the functions of one lane (O20). -/

namespace Sys2Proof.Machine

/-! ### Codes of the formats with infinities (R99, R100) -/

section

variable {lt : LT} (float3 : lt.isFloat3 = true)
include float3

theorem isFloat_of_isFloat3 : lt.isFloat = true := by cases lt <;> simp [LT.isFloat3] at float3 <;> rfl

/-- Decoding, in a format with infinities. -/
theorem decodeF_eq (q : Nat) : decodeF lt q =
    if codeMag lt q < codeInf lt then finOfMag lt (codeNeg lt q) (codeMag lt q)
    else if codeMag lt q = codeInf lt then .inf (codeNeg lt q) else .nan (!(codeMag lt q).testBit (fracBits lt - 1)) := by
  cases lt <;> simp [LT.isFloat3] at float3 <;> rfl

theorem decodeF_nan {q : Nat} (nan : isNan lt q = true) : decodeF lt q = .nan (isSig lt q) := by
  have above : codeInf lt < codeMag lt q := of_decide_eq_true nan
  rw [decodeF_eq float3, if_neg (by omega), if_neg (by omega), isSig, nan, Bool.true_and]

omit float3 in
theorem codeInf_lt : codeInf lt < 2 ^ (lt.width - 1) := Nat.sub_lt (Nat.two_pow_pos _) (Nat.two_pow_pos _)

theorem codeInf_pos : 0 < codeInf lt := by cases lt <;> simp [LT.isFloat3] at float3 <;> decide

theorem decodeF_zero (neg : Bool) : ∃ e, decodeF lt (signed lt neg 0) = .fin neg 0 e := by
  obtain ⟨mag, sign, -⟩ := codeMag_signed neg (Nat.two_pow_pos (lt.width - 1))
  exact ⟨_, by rw [decodeF_eq float3, mag, sign, if_pos (codeInf_pos float3), finOfMag, Nat.zero_div, if_pos rfl, Nat.zero_mod]⟩

theorem decodeF_infinity (neg : Bool) : decodeF lt (signed lt neg (codeInf lt)) = .inf neg := by
  obtain ⟨mag, sign, -⟩ := codeMag_signed neg codeInf_lt
  rw [decodeF_eq float3, mag, sign, if_neg (lt_irrefl _), if_pos rfl]

theorem roundF_one (rnd : Rnd) : roundF lt rnd false false 1 0 = (expBias lt * 2 ^ fracBits lt, 0) := by
  cases lt <;> simp [LT.isFloat3] at float3 <;> cases rnd <;> decide

theorem roundF_half (rnd : Rnd) : roundF lt rnd false false 1 (-1) = ((expBias lt - 1) * 2 ^ fracBits lt, 0) := by
  cases lt <;> simp [LT.isFloat3] at float3 <;> cases rnd <;> decide

theorem nanF_eq (bad : Bool) : nanF lt bad = (codeNan lt, if bad then fINVALID else 0) := by
  cases lt <;> simp [LT.isFloat3] at float3 <;> cases bad <;> rfl

/-- A negative code that is no NaN, no zero and no infinity is a negative number. -/
theorem decodeF_negative {q : Nat} (fits : q < 2 ^ lt.width) (number : isNan lt q = false) (negative : 2 ^ (lt.width - 1) ≤ q)
    (nonzero : q ≠ 2 ^ (lt.width - 1)) (finite : q ≠ 2 ^ (lt.width - 1) + codeInf lt) :
    ∃ m e, m ≠ 0 ∧ decodeF lt q = .fin true m e := by
  have parts := codeNeg_add_codeMag (LT.width_pos lt) fits
  have mag : codeMag lt q < 2 ^ (lt.width - 1) := Nat.mod_lt _ (Nat.two_pow_pos _)
  have low : codeMag lt q ≤ codeInf lt := not_lt.1 (of_decide_eq_false number)
  cases sign : codeNeg lt q
  · simp only [sign, Bool.toNat_false] at parts
    omega
  · simp only [sign, Bool.toNat_true] at parts
    rw [decodeF_eq float3, if_pos (by omega), sign, finOfMag]
    split
    · next sub => exact ⟨_, _, by rw [Nat.mod_eq_of_lt ((Nat.div_eq_zero_iff_lt (Nat.two_pow_pos _)).1 sub)]; omega, rfl⟩
    · exact ⟨_, _, by have := Nat.two_pow_pos (fracBits lt); omega, rfl⟩

/-! ### The special inputs of the functions (R129) -/

variable (t : Trans) (rnd : Rnd)

theorem transF_nan {q : Nat} (nan : isNan lt q = true) : transF t lt rnd q = (codeNan lt, if isSig lt q then fINVALID else 0) := by
  rw [transF, decodeF_nan float3 nan]
  exact nanF_eq float3 _

theorem transF_zero (neg : Bool) : transF t lt rnd (signed lt neg 0) = match t with
    | .rcp | .rsqrt => (signed lt neg (codeInf lt), 0)
    | .exp2 => (expBias lt * 2 ^ fracBits lt, 0)
    | .log2 => (signed lt true (codeInf lt), 0)
    | .sigm => ((expBias lt - 1) * 2 ^ fracBits lt, 0)
    | .tanh => (signed lt neg 0, 0) := by
  obtain ⟨e, value⟩ := decodeF_zero float3 neg
  rw [transF, value, roundF_one float3, roundF_half float3]
  cases t <;> rfl

theorem transF_infinity (neg : Bool) : transF t lt rnd (signed lt neg (codeInf lt)) = match t with
    | .rcp => (signed lt neg 0, 0)
    | .rsqrt => if neg then (codeNan lt, fINVALID) else (0, 0)
    | .exp2 => (if neg then 0 else codeInf lt, 0)
    | .log2 => if neg then (codeNan lt, fINVALID) else (codeInf lt, 0)
    | .sigm => (if neg then 0 else expBias lt * 2 ^ fracBits lt, 0)
    | .tanh => (signed lt neg (expBias lt * 2 ^ fracBits lt), 0) := by
  rw [transF, decodeF_infinity float3, roundF_one float3, nanF_eq float3]
  cases t <;> cases neg <;> rfl

theorem transF_negative {q : Nat} (root : t = .rsqrt ∨ t = .log2) (fits : q < 2 ^ lt.width) (number : isNan lt q = false)
    (negative : 2 ^ (lt.width - 1) ≤ q) (nonzero : q ≠ 2 ^ (lt.width - 1)) (finite : q ≠ 2 ^ (lt.width - 1) + codeInf lt) :
    transF t lt rnd q = (codeNan lt, fINVALID) := by
  obtain ⟨m, e, pos, value⟩ := decodeF_negative float3 fits number negative nonzero finite
  rw [transF, value, nanF_eq float3]
  rcases root with rfl | rfl <;> exact if_neg pos

/-- A row of R129, from its results for zeros and infinities. -/
theorem codes_of_transF {g : Guard} {i : Instr} {s : State} {d : VDst} {a : VOp} {zero mzero pinf minf : Nat × Flags} {negBad : Bool}
    (row : exec i s = settle s (unV 10 (lane1 lt (transF t lt rnd)) g d a s))
    (root : negBad = true → t = .rsqrt ∨ t = .log2)
    (plus : transF t lt rnd (signed lt false 0) = zero) (minus : transF t lt rnd (signed lt true 0) = mzero)
    (high : transF t lt rnd (signed lt false (codeInf lt)) = pinf) (low : transF t lt rnd (signed lt true (codeInf lt)) = minf) :
    Spec.codes g i s (voidV (curCtx s) a) 10 d lt.width (2048 / lt.width) fun j =>
      let x := Spec.lane lt.width (valV (curCtx s) a) j
      if isNan lt x then (codeNan lt, if isSig lt x then fINVALID else 0)
      else if x = 0 then zero else if x = 2 ^ (lt.width - 1) then mzero else if x = codeInf lt then pinf
      else if x = 2 ^ (lt.width - 1) + codeInf lt then minf
      else if negBad ∧ 2 ^ (lt.width - 1) ≤ x then (codeNan lt, fINVALID)
      else transF t lt rnd x := by
  refine codes_of_lane1 _ row fun j => ?_
  have fits := lane_lt lt.width (valV (curCtx s) a) j
  generalize Spec.lane lt.width (valV (curCtx s) a) j = x at *
  dsimp only
  split
  · next nan => exact transF_nan float3 t rnd nan
  · next number =>
    split
    · next eq => rw [eq]; exact plus
    split
    · next eq => rw [eq]; exact minus
    split
    · next eq => rw [eq]; exact high
    split
    · next eq => rw [eq]; exact low
    split
    · next nonzero _ finite bad =>
      obtain ⟨isRoot, negative⟩ := bad
      exact transF_negative float3 t rnd (root isRoot) fits (eq_false_of_ne_true number) negative nonzero finite
    · rfl

end

/-- Settles O20: every row is the model's function, whose special inputs have the results of the table. -/
theorem vectorFunctions : Obligations.VectorFunctions := by
  unfold Obligations.VectorFunctions
  intro g d lt rnd a s float3 c w n x inf minus one half bad fn
  have zero := transF_zero float3 (rnd := rnd)
  have infinite := transF_infinity float3 (rnd := rnd)
  have rows : ∀ {i : Instr} (t : Trans) {z mz pinf minf : Nat × Flags} {negBad : Bool},
      exec i s = settle s (unV 10 (lane1 lt (transF t lt rnd)) g d a s) → (negBad = true → t = .rsqrt ∨ t = .log2) →
      transF t lt rnd (signed lt false 0) = z → transF t lt rnd (signed lt true 0) = mz →
      transF t lt rnd (signed lt false inf) = pinf → transF t lt rnd (signed lt true inf) = minf → fn i z mz pinf minf negBad t :=
    fun t => codes_of_transF float3 t rnd
  exact ⟨rows .rcp rfl nofun (zero _ _) (zero _ _) (infinite _ _) (infinite _ _),
    rows .rsqrt rfl (fun _ => .inl rfl) (zero _ _) (zero _ _) (infinite _ _) (infinite _ _),
    rows .exp2 rfl nofun (zero _ _) (zero _ _) (infinite _ _) (infinite _ _),
    rows .log2 rfl (fun _ => .inr rfl) (zero _ _) (zero _ _) (infinite _ _) (infinite _ _),
    rows .sigm rfl nofun (zero _ _) (zero _ _) (infinite _ _) (infinite _ _),
    rows .tanh rfl nofun (zero _ _) (zero _ _) (infinite _ _) (infinite _ _)⟩

end Sys2Proof.Machine
end

section
/-! Proofs of the family of spec/07: lane movement (O23). -/

namespace Sys2Proof.Machine

/-! ### Lists of lanes moved (R135, R136, R139) -/

/-- Lane `k` of T: the lanes of A, then those of B. -/
def tLane (lt : LT) (a b : VWord) (k : Nat) : Nat :=
  if k < 2048 / lt.width then Spec.lane lt.width a k else Spec.lane lt.width b (k - 2048 / lt.width)

theorem tlanes_eq_map (lt : LT) (a b : VWord) :
    tlanes lt a b = (List.range (2048 / lt.width + 2048 / lt.width)).map (tLane lt a b) := by
  rw [tlanes, lv_eq_map, lv_eq_map, map_range_append]
  rfl

theorem interleave_map_range (n : Nat) (f h : Nat → Nat) : interleave ((List.range n).map f) ((List.range n).map h) =
    (List.range (2 * n)).map fun i => if i % 2 = 0 then f (i / 2) else h (i / 2) := by
  induction n generalizing f h with
  | zero => rfl
  | succ n ih =>
    have even (i : Nat) : (i + 1 + 1) % 2 = i % 2 := by omega
    have half (i : Nat) : (i + 1 + 1) / 2 = i / 2 + 1 := by omega
    rw [List.range_succ_eq_map, List.map_cons, List.map_cons, List.map_map, List.map_map, interleave, ih, Nat.mul_succ,
      List.range_succ_eq_map, List.range_succ_eq_map]
    simp [Function.comp_def, even, half]

theorem evens_map_range (f : Nat → Nat) : ∀ m, evens ((List.range m).map f) = (List.range ((m + 1) / 2)).map fun i => f (2 * i)
  | 0 | 1 => rfl
  | m + 2 => by
    have half : (m + 2 + 1) / 2 = (m + 1) / 2 + 1 := by omega
    have rest := evens_map_range (fun i => f (i + 1 + 1)) m
    rw [List.range_succ_eq_map, List.range_succ_eq_map, half, List.range_succ_eq_map]
    simpa [evens, Function.comp_def, Nat.mul_succ] using rest

theorem zipV_eq (lt : LT) (hi : Bool) (a b : VWord) : zipV lt hi a b = ofLv lt.width ((List.range (2048 / lt.width)).map fun i =>
    let at_ := (if hi then 2048 / lt.width / 2 else 0) + i / 2
    (if i % 2 = 0 then Spec.lane lt.width a at_ else Spec.lane lt.width b at_, 0)) := by
  rw [zipV, halfLanes_eq_map, halfLanes_eq_map, interleave_map_range, Nat.two_mul, LT.half_add_half, List.map_map]
  rfl

theorem unzipV_eq (lt : LT) (hi : Bool) (a b : VWord) : unzipV lt hi a b = ofLv lt.width ((List.range (2048 / lt.width)).map fun i =>
    (tLane lt a b (2 * i + hi.toNat), 0)) := by
  rw [unzipV, tlanes_eq_map]
  cases hi
  · rw [if_neg Bool.false_ne_true, evens_map_range, List.map_map, show ∀ n, (n + n + 1) / 2 = n by omega]
    rfl
  · have pos := LT.lanes_pos lt
    rw [if_pos rfl, drop_map_range, evens_map_range, List.map_map, Nat.sub_add_cancel (by omega), show ∀ n, (n + n) / 2 = n by omega]
    simp only [Nat.add_comm 1]
    rfl

theorem permV_eq (lt : LT) (z : Bool) (a b e : VWord) : permV lt z a b e = ofLv lt.width ((List.range (2048 / lt.width)).map fun i =>
    let k := Spec.lane lt.width e i
    (if k < 2 * (2048 / lt.width) then tLane lt a b k else if z then 0 else tLane lt a b (k % (2 * (2048 / lt.width))), 0)) := by
  have pos : 0 < 2 * (2048 / lt.width) := Nat.mul_pos two_pos (LT.lanes_pos lt)
  rw [permV, lv_eq_map, List.map_map, tlanes_eq_map, ← Nat.two_mul]
  congr 2
  funext i
  simp only [Function.comp_apply, toArray_getD, LT.lanes]
  split
  · next inside => rw [map_range_getD _ _ inside]
  · rw [map_range_getD _ _ (Nat.mod_lt _ pos)]

theorem slideV_eq {lt : LT} {n : Nat} (a b : VWord) (within : n < 2048 / lt.width) :
    slideV lt n a b = ofLv lt.width ((List.range (2048 / lt.width)).map fun i => (tLane lt a b (i + n), 0)) := by
  rw [slideV, tlanes_eq_map, LT.lanes, take_drop_map_range _ (by omega), List.map_map]
  simp only [Nat.add_comm _ n]
  rfl

/-! ### One value in every lane, in one lane, or from one lane (R137, R138) -/

theorem ofLv_quiet (w n : Nat) (h : Nat → Nat) :
    (BitVec.ofNat 2048 (ofLanes w ((List.range n).map h)), 0) = ofLv w ((List.range n).map fun i => (h i, 0)) := by
  rw [ofLv, foldl_or_map_range Prod.snd, List.map_map, flagsOf_zero]
  rfl

/-- The flags of lanes that all raise the same. -/
theorem flagsOf_const {n : Nat} (f : Flags) (pos : 0 < n) : (Spec.flagsOf n fun _ => f) = f := by
  refine BitVec.eq_of_getLsbD_eq fun b _ => Bool.eq_iff_iff.2 ?_
  rw [flagsOf_getLsbD]
  exact ⟨fun ⟨_, _, set⟩ => set, fun set => ⟨0, pos, set⟩⟩

theorem bcastV_eq (lt : LT) (r : Nat × Flags) : (bcastV lt r.1, r.2) = ofLv lt.width ((List.range (2048 / lt.width)).map fun _ => r) := by
  rw [ofLv, foldl_or_map_range Prod.snd, flagsOf_const _ (LT.lanes_pos lt), List.map_map, bcastV, LT.lanes]
  simp [Function.comp_def]

theorem insV_eq (lt : LT) (v : VWord) (k x : Nat) : (BitVec.ofNat 2048 (ofLanes lt.width ((lv lt v).set k x)), 0) =
    ofLv lt.width ((List.range (2048 / lt.width)).map fun i => (if i = k then x else Spec.lane lt.width v i, 0)) := by
  have lanes : (lv lt v).set k x = (List.range (2048 / lt.width)).map fun i => if i = k then x else Spec.lane lt.width v i := by
    rw [lv_eq_map]
    apply List.ext_getElem
    · simp
    · simp [List.getElem_set, eq_comm]
  rw [lanes, ofLv_quiet]

theorem extV_eq {lt : LT} {k : Nat} (v : VWord) (within : k < 2048 / lt.width) : (BitVec.ofNat 2048 ((lv lt v).getD k 0), 0) =
    ofLv lt.width ((List.range (2048 / lt.width)).map fun i => (if i = 0 then Spec.lane lt.width v k else 0, 0)) := by
  rw [← ofLv_quiet, ofLanes_map_range, lv_eq_map, map_range_getD _ _ within,
    Finset.sum_eq_single_of_mem 0 (Finset.mem_range.2 (LT.lanes_pos lt))]
  · simp [Nat.mod_eq_of_lt (lane_lt lt.width v k)]
  · intro j _ ne
    simp [ne]

/-- A lane index lies in the vector (R138). -/
theorem laneIx_lt {lt : LT} (c : Ctx) {ix : LaneIx} (within : ∀ m, ix = .imm m → m < 2048 / lt.width) :
    laneIx lt c ix < 2048 / lt.width := by
  cases ix with
  | imm m => exact within m rfl
  | reg o => exact Nat.mod_lt _ (LT.lanes_pos lt)

/-! ### Immediates (R137) -/

/-- The bits of an immediate are its value modulo any width up to its own. -/
theorem toNat_modEq_toInt {m w : Nat} (x : BitVec m) (le : w ≤ m) : (x.toNat : Int) ≡ x.toInt [ZMOD 2 ^ w] := by
  have same : (x.toNat : Int) ≡ x.toInt [ZMOD 2 ^ m] := by
    rw [BitVec.toInt_eq_toNat_bmod, Int.ModEq]
    exact_mod_cast (Int.bmod_emod (x := (x.toNat : Int)) (m := 2 ^ m)).symm
  exact same.of_dvd (pow_dvd_pow 2 le)

/-- What a broadcast immediate puts into a lane. -/
def immLane (lt : LT) (imm : BitVec 32) : Nat := if lt = .i64 then (imm.signExtend 64).toNat else imm.toNat

theorem bcastImm_eq {lt : LT} (imm : BitVec 32) (ne : lt ≠ .f64) : bcastImm lt imm = (bcastV lt (immLane lt imm), 0) := by
  unfold bcastImm immLane
  cases lt <;> simp at ne ⊢

theorem immLane_modEq {lt : LT} (imm : BitVec 32) (width : lt.isWidth = true) (ne : lt ≠ .f64) :
    (immLane lt imm : Int) ≡ imm.toInt [ZMOD 2 ^ lt.width] := by
  unfold immLane
  split
  · next eq =>
    subst eq
    have := toNat_modEq_toInt (imm.signExtend 64) (le_refl 64)
    rwa [BitVec.toInt_signExtend_of_le (by decide)] at this
  · next not64 =>
    refine toNat_modEq_toInt imm ?_
    cases lt <;> simp [LT.width] at *

/-- Settles O23: every row's list of lanes is written out by `permV_eq`, `slideV_eq`, `zipV_eq`, `unzipV_eq`, `bcastV_eq`, `insV_eq` or
`extV_eq`. -/
theorem laneMovement : Obligations.LaneMovement := by
  unfold Obligations.LaneMovement
  intro g d lt z hi n a b e x imm ix s c w N A B T H k voidK moves void2
  have rows : ∀ {i : Instr} {lat : Nat} {void : Ctx → Bool} {f : Ctx → VWord × Flags} {h : Nat → Nat} {m : Nat → Int},
      exec i s = settle s (onCtx (issueV (slotV s) lat g d void f) s) →
      f c = ofLv w ((List.range N).map fun i => (h i, 0)) → (∀ j, (h j : Int) ≡ m j [ZMOD 2 ^ w]) → moves i (void c) lat m :=
    fun row value same => lanes_of_codes (codes_of_issueV row value) (fun j _ => same j) fun _ _ => rfl
  refine ⟨fun _ => ⟨?perm, fun within => ?slide, ?zip, ?unzip⟩, fun _ => ?bcast, fun _ within => ⟨?ins, ?ext⟩, fun wf => ?imm⟩
  case perm =>
    refine rows (void := fun c => voidV c a || voidV c b || voidV c e) rfl (permV_eq ..) fun i => ?_
    push_cast
    rfl
  case slide =>
    exact rows (void := fun c => voidV c a || voidV c b) rfl (slideV_eq _ _ within) fun i => rfl
  case zip =>
    refine rows (void := fun c => voidV c a || voidV c b) rfl (zipV_eq ..) fun i => ?_
    push_cast
    rfl
  case unzip =>
    exact rows (void := fun c => voidV c a || voidV c b) rfl (unzipV_eq ..) fun i => rfl
  case bcast =>
    exact rows (void := fun c => voidS c x) rfl (bcastV_eq lt (_, 0)) fun i => rfl
  case ins =>
    refine rows (void := fun c => voidV c a || voidS c x || laneVoid c ix) rfl (insV_eq ..) fun i => ?_
    push_cast
    rfl
  case ext =>
    refine rows (void := fun c => voidV c a || laneVoid c ix) rfl (extV_eq _ (laneIx_lt c within)) fun i => ?_
    push_cast
    rfl
  case imm =>
    have width : lt.isWidth = true := (Bool.and_eq_true_iff.1 wf).1
    refine ⟨fun ne => ?int, fun eq => ?f64⟩
    case int =>
      exact rows (void := fun _ => false) rfl ((bcastImm_eq imm ne).trans (bcastV_eq lt (_, 0))) fun _ => immLane_modEq imm width ne
    case f64 =>
      subst eq
      exact codes_of_issueV (void := fun _ => false) rfl (bcastV_eq .f64 (convertF .f64 .ne false (decodeF .f32 imm.toNat)))

end Sys2Proof.Machine
end

section
/-! Proofs of the family of spec/07: the block instructions (O22). -/

namespace Sys2Proof.Machine

/-! ### Lists in blocks -/

theorem chunks_map_range {α : Type} (n k : Nat) (f : Nat → α) :
    chunks n k ((List.range (n * k)).map f) = (List.range k).map fun b => (List.range n).map fun j => f (n * b + j) := by
  induction k generalizing f with
  | zero => rfl
  | succ k ih =>
    have rest : n * (k + 1) - n = n * k := by rw [Nat.mul_succ, Nat.add_sub_cancel]
    have next (b j : Nat) : n + (n * b + j) = n * (b + 1) + j := by rw [Nat.mul_succ]; omega
    rw [chunks, take_map_range _ (Nat.le_mul_of_pos_right n k.succ_pos), drop_map_range, rest, ih, List.range_succ_eq_map, List.map_cons,
      List.map_map]
    simp [Function.comp_def, next]

theorem flatMap_map_range {α : Type} (n k : Nat) (f : Nat → Nat → α) :
    (List.range k).flatMap (fun b => (List.range n).map (f b)) = (List.range (n * k)).map fun i => f (i / n) (i % n) := by
  induction k with
  | zero => rfl
  | succ k ih =>
    rw [List.range_succ, List.flatMap_append, ih, Nat.mul_succ, List.range_add, List.map_append, List.map_map, List.flatMap_singleton]
    congr 1
    refine List.map_congr_left fun j mem => ?_
    have lt := List.mem_range.1 mem
    rw [Function.comp_apply, Nat.mul_add_div (by omega), Nat.div_eq_of_lt lt, Nat.mul_add_mod, Nat.mod_eq_of_lt lt, Nat.add_zero]

theorem ofLanes_append (w : Nat) (xs ys : List Nat) : ofLanes w (xs ++ ys) = ofLanes w xs + 2 ^ (w * xs.length) * ofLanes w ys := by
  induction xs with
  | nil => simp [ofLanes]
  | cons x xs ih =>
    rw [List.cons_append, ofLanes, ofLanes, ih, List.length_cons, Nat.mul_succ, pow_add]
    ring

/-- Lanes moved up by `k` lanes. -/
theorem shifted_lanes (w k n : Nat) (h : Nat → Nat) : 2 ^ (w * k) * ∑ j ∈ Finset.range n, h j % 2 ^ w * 2 ^ (w * j) =
    ∑ j ∈ Finset.range n, h j % 2 ^ w * 2 ^ (w * (k + j)) := by
  rw [Finset.mul_sum]
  refine Finset.sum_congr rfl fun j _ => ?_
  rw [Nat.mul_add, pow_add]
  exact Nat.mul_left_comm ..

/-- Lanes given block by block. -/
theorem ofLanes_flatMap (w n k : Nat) (l : Nat → List Nat) (len : ∀ b, (l b).length = n) : ofLanes w ((List.range k).flatMap l) =
    ∑ b ∈ Finset.range k, ∑ j ∈ Finset.range n, (l b).getD j 0 % 2 ^ w * 2 ^ (w * (n * b + j)) := by
  induction k with
  | zero => rfl
  | succ k ih =>
    have size : ((List.range k).flatMap l).length = n * k := by simp [len, Nat.mul_comm]
    have last : ofLanes w (l k) = ∑ j ∈ Finset.range n, (l k).getD j 0 % 2 ^ w * 2 ^ (w * j) := by
      conv_lhs => rw [eq_map_range_getD 0 (len k), ofLanes_map_range]
    rw [List.range_succ, List.flatMap_append, ofLanes_append, ih, size, List.flatMap_singleton, Finset.sum_range_succ, last,
      shifted_lanes]

/-- The lanes of a vector of floats in blocks of 32. -/
theorem chunks_lv {lt : LT} (float3 : lt.isFloat3 = true) (v : VWord) : chunks 32 (lt.lanes / 32) (lv lt v) =
    (List.range (2048 / lt.width / 32)).map fun b => (List.range 32).map fun j => Spec.lane lt.width v (32 * b + j) := by
  have whole : 2048 / lt.width = 32 * (2048 / lt.width / 32) := by cases lt <;> simp [LT.isFloat3] at float3 <;> rfl
  rw [lv_eq_map, LT.lanes]
  nth_rw 2 [whole]
  exact chunks_map_range ..

/-! ### The largest magnitude of a block (R132) -/

theorem codeMag_codeMag (lt : LT) (q : Nat) : codeMag lt (codeMag lt q) = codeMag lt q := Nat.mod_mod ..

theorem isNan_codeMag (lt : LT) (q : Nat) : isNan lt (codeMag lt q) = isNan lt q := by rw [isNan, codeMag_codeMag, isNan]

theorem isSig_codeMag (lt : LT) (q : Nat) : isSig lt (codeMag lt q) = isSig lt q := by
  rw [isSig, isNan_codeMag, codeMag_codeMag, isSig]

/-- What `vamax` lands for a block. -/
def amaxBlock (lt : LT) (xs : List Nat) : Nat × Flags :=
  if blockNan lt xs then nanF .f32 (blockSig lt xs) else convertF .f32 .ne false (decodeF lt (blockMax lt xs))

theorem amaxV_eq {lt : LT} (float3 : lt.isFloat3 = true) (v : VWord) : amaxV lt v =
    ofLv 32 ((List.range (2048 / lt.width / 32)).map fun b =>
      amaxBlock lt ((List.range 32).map fun j => Spec.lane lt.width v (32 * b + j))) := by
  rw [amaxV, chunks_lv float3, List.map_map]
  rfl

section

variable (lt : LT) (f : Nat → Nat)

theorem blockNan_iff : blockNan lt ((List.range 32).map f) = true ↔ ∃ j < 32, isNan lt (codeMag lt (f j)) = true := by
  simp [blockNan, isNan_codeMag]

theorem blockSig_iff : blockSig lt ((List.range 32).map f) = true ↔ ∃ j < 32, isSig lt (codeMag lt (f j)) = true := by
  simp [blockSig, isSig_codeMag]

theorem blockMax_spec : ∃ j < 32, (∀ i < 32, codeMag lt (f i) ≤ codeMag lt (f j)) ∧
    blockMax lt ((List.range 32).map f) = codeMag lt (f j) := by
  have whole : blockMax lt ((List.range 32).map f) =
      (List.range 32).foldl (fun m i => if False then m else max m (codeMag lt (f i))) 0 := by
    rw [blockMax, List.foldl_map]
    simp only [if_false]
  obtain ⟨-, all, met⟩ := foldl_max_spec (fun _ => False) (fun i => codeMag lt (f i)) (List.range 32) 0
  rw [← whole] at all met
  simp only [List.mem_range, not_false_eq_true, true_and, true_imp_iff] at all met
  rcases met with zero | ⟨j, within, value⟩
  · rw [zero] at all ⊢
    exact ⟨0, Nat.succ_pos 31, fun i lt => (all i lt).trans (Nat.zero_le _), (Nat.le_zero.1 (all 0 (Nat.succ_pos 31))).symm⟩
  · exact ⟨j, within, fun i lt => (all i lt).trans value.ge, value.symm⟩

theorem amaxBlock_spec : let mag := fun j => codeMag lt (f j)
    let r := amaxBlock lt ((List.range 32).map f)
    ((∃ j < 32, isSig lt (mag j)) → r = (codeNan .f32, fINVALID)) ∧
    ((∃ j < 32, isNan lt (mag j)) → (∀ j < 32, ¬ isSig lt (mag j)) → r = (codeNan .f32, 0)) ∧
    ((∀ j < 32, ¬ isNan lt (mag j)) → ∃ j < 32, (∀ i < 32, mag i ≤ mag j) ∧
      r = convertF .f32 .ne false (decodeF lt (mag j))) := by
  intro mag r
  have nan_of_sig : ∀ {q}, isSig lt q = true → isNan lt q = true := fun sig => (Bool.and_eq_true_iff.1 sig).1
  refine ⟨fun loud => ?loud, fun nan silent => ?silent, fun number => ?number⟩
  case loud =>
    obtain ⟨j, within, sig⟩ := loud
    have nan := (blockNan_iff lt f).2 ⟨j, within, nan_of_sig sig⟩
    rw [show r = _ from if_pos nan, (blockSig_iff lt f).2 ⟨j, within, sig⟩]
    rfl
  case silent =>
    have noSig : blockSig lt ((List.range 32).map f) = false :=
      eq_false_of_ne_true fun loud => by obtain ⟨j, within, sig⟩ := (blockSig_iff lt f).1 loud; exact silent j within sig
    rw [show r = _ from if_pos ((blockNan_iff lt f).2 nan), noSig]
    rfl
  case number =>
    obtain ⟨j, within, largest, value⟩ := blockMax_spec lt f
    refine ⟨j, within, largest, ?_⟩
    rw [show mag j = _ from value.symm]
    exact if_neg fun nan => by obtain ⟨j, within, nan⟩ := (blockNan_iff lt f).1 nan; exact number j within nan

end

/-! ### Blocks quantised (R131, R133) -/

theorem quantBlock_length (dst src : LT) (xs : List Nat) : (quantBlock dst src xs).2.1.length = xs.length := by
  unfold quantBlock
  split
  · simp
  · split
    · dsimp only
      split <;> simp
    · simp

theorem qmxV_eq {src : LT} (dst : LT) (float3 : src.isFloat3 = true) (v : VWord) :
    let B := 2048 / src.width / 32
    let q := fun b => quantBlock dst src ((List.range 32).map fun j => Spec.lane src.width v (32 * b + j))
    qmxV dst src v = (BitVec.ofNat 2048 ((∑ b ∈ Finset.range B, ∑ j ∈ Finset.range 32,
        (q b).2.1.getD j 0 % 2 ^ dst.width * 2 ^ (dst.width * (32 * b + j))) +
      ∑ b ∈ Finset.range B, (q b).1 % 2 ^ 8 * 2 ^ (8 * (128 + b))), Spec.flagsOf B fun b => (q b).2.2) := by
  intro B q
  have elements := ofLanes_flatMap dst.width 32 B (fun b => (q b).2.1) fun b => by simp [q, quantBlock_length]
  have scales := shifted_lanes 8 128 B fun b => (q b).1
  rw [show 8 * 128 = 1024 from rfl, ← ofLanes_map_range] at scales
  rw [qmxV, chunks_lv float3, List.map_map, ← elements, ← scales, ← foldl_or_map_range (fun r : Nat × List Nat × Flags => r.2.2)]
  rw [List.flatMap_map, List.map_map]
  rfl

/-! ### Blocks expanded (R134) -/

/-- Bytes from byte `k` of a vector. -/
theorem lanesOf_from_byte (v : VWord) (k n : Nat) :
    lanesOf 8 n (v.toNat / 2 ^ (8 * k)) = (List.range n).map fun b => Spec.lane 8 v (k + b) := by
  simp only [lanesOf_eq_map, Spec.lane, Nat.div_div_eq_div_mul, ← pow_add, ← Nat.mul_add]

theorem dqmxV_eq {dst : LT} (float3 : dst.isFloat3 = true) (src : LT) (rnd : Rnd) (sat : Bool) (v : VWord) : dqmxV dst src rnd sat v =
    ofLv dst.width ((List.range (2048 / dst.width)).map fun i =>
      dqmxLane dst src rnd sat (Spec.lane 8 v (128 + i / 32)) (Spec.lane 8 v (132 + i / 32)) (Spec.lane src.width v i)) := by
  have whole : 2048 / dst.width = 32 * (2048 / dst.width / 32) := by cases dst <;> simp [LT.isFloat3] at float3 <;> rfl
  have blocks := chunks_map_range 32 (2048 / dst.width / 32) (Spec.lane src.width v)
  rw [← whole] at blocks
  have side := lanesOf_from_byte v 128 (2048 / dst.width / 32)
  have alts := lanesOf_from_byte v 132 (2048 / dst.width / 32)
  rw [show 8 * 128 = 1024 from rfl] at side
  rw [show 8 * 132 = 1056 from rfl] at alts
  have lanes : lanesOf src.width (2048 / dst.width) v.toNat = (List.range (2048 / dst.width)).map (Spec.lane src.width v) :=
    lanesOf_eq_map ..
  rw [dqmxV, LT.lanes, side, alts, lanes, blocks, List.zip, List.zip, List.zipWith_map, List.zipWith_self, List.zipWith_map,
    List.zipWith_self, List.flatMap_map]
  simp only [List.map_map]
  have flat := flatMap_map_range 32 (2048 / dst.width / 32) fun b j =>
    dqmxLane dst src rnd sat (Spec.lane 8 v (128 + b)) (Spec.lane 8 v (132 + b)) (Spec.lane src.width v (32 * b + j))
  rw [← whole] at flat
  simp only [Nat.div_add_mod] at flat
  exact congrArg (ofLv dst.width) flat

theorem dqmxLane_eq {dst : LT} (float3 : dst.isFloat3 = true) (src : LT) (rnd : Rnd) (sat : Bool) {scale byte code : Nat}
    (fits : byte < 2 ^ 8) :
    dqmxLane dst src rnd sat scale byte code =
      let alt := Spec.num 8 false byte
      let value := if src = .e2m1 ∧ code = 8 then FVal.fin (decide (alt < 0)) alt.natAbs (-1) else decodeF src code
      if scale = 0xFF then (codeNan dst, fINVALID)
      else match value with
        | .nan sig => (codeNan dst, if sig then fINVALID else 0)
        | .inf neg => infF dst sat neg
        | .fin neg m e => roundF dst rnd sat neg m (e + scale - 127) := by
  have alternate : decodeAlt src code byte =
      let alt := Spec.num 8 false byte
      if src = .e2m1 ∧ code = 8 then FVal.fin (decide (alt < 0)) alt.natAbs (-1) else decodeF src code := by
    have value : sInt 8 byte = Spec.num 8 false byte := laneInt_eq_num false fits
    have sign : 128 ≤ byte ↔ Spec.num 8 false byte < 0 := by
      unfold Spec.num
      simp only [Bool.false_eq_true, false_or]
      split <;> omega
    simp only [decodeAlt, value, sign, Bool.and_eq_true, beq_iff_eq]
  rw [dqmxLane, alternate, nanF_eq float3]
  refine if_congr Iff.rfl rfl ?_
  dsimp only
  generalize (if src = .e2m1 ∧ code = 8 then _ else _ : FVal) = value
  cases value with
  | nan sig => exact nanF_eq float3 sig
  | inf neg => rfl
  | fin neg m e => rfl

/-- Settles O22: a block is a list of 32 lanes (`chunks_lv`), of which the rows take the largest magnitude, the quantised elements or the
expanded ones. -/
theorem vectorBlocks : Obligations.VectorBlocks := by
  unfold Obligations.VectorBlocks
  intro g d lt src rnd sat a s c v slot
  refine ⟨fun float3 => ?amax, fun _ float3 => ?qmx, fun float3 _ => ?dqmx⟩
  case amax =>
    intro w mag
    exact ⟨_, codes_of_issueV (void := fun c => voidV c a) rfl (amaxV_eq float3 _), fun b _ => amaxBlock_spec lt _⟩
  case qmx =>
    exact resultV_of_unV rfl (qmxV_eq lt float3 v)
  case dqmx =>
    refine codes_of_issueV (void := fun c => voidV c a) rfl ((dqmxV_eq float3 ..).trans ?_)
    congr 2
    funext i
    exact dqmxLane_eq float3 src rnd sat (lane_lt ..)

end Sys2Proof.Machine
end

section
/-! Proofs of the family of spec/07: reductions and scans (O24). -/

namespace Sys2Proof.Machine

/-! ### The tree of a reduction and the levels of a scan (R141, R142) -/

theorem flagsOf_succ' (n : Nat) (f : Nat → Flags) : Spec.flagsOf (n + 1) f = f 0 ||| Spec.flagsOf n fun j => f (j + 1) := by
  rw [Spec.flagsOf, List.range_succ_eq_map, List.foldr_cons, List.foldr_map]
  rfl

theorem flagsOf_add (m n : Nat) (f : Nat → Flags) : Spec.flagsOf (m + n) f = Spec.flagsOf m f ||| Spec.flagsOf n fun j => f (m + j) := by
  induction m generalizing f with
  | zero => simp [Spec.flagsOf]
  | succ m ih => rw [Nat.succ_add, flagsOf_succ', flagsOf_succ', ih, BitVec.or_assoc]; simp only [Nat.add_right_comm]

/-- The flags of lanes of which the low `m` raise none. -/
theorem flagsOf_above (m n : Nat) (f : Nat → Flags) :
    (Spec.flagsOf (m + n) fun i => if i < m then 0 else f i) = Spec.flagsOf n fun i => f (m + i) := by
  have quiet := flagsOf_congr (n := m) (f := fun i => if i < m then 0 else f i) (f' := fun _ => 0) fun i lt => if_pos lt
  rw [flagsOf_add, quiet, flagsOf_zero, show (0 : Flags) = 0#10 from rfl, BitVec.zero_or]
  simp

theorem zipWith_map_range {α β γ : Type} (f : α → β → γ) (g : Nat → α) (h : Nat → β) (m n : Nat) :
    List.zipWith f ((List.range (m + n)).map g) ((List.range n).map h) = (List.range n).map fun i => f (g i) (h i) := by
  apply List.ext_getElem
  · simp
  · simp

section

variable (f : Nat → Nat → Nat × Flags) (n : Nat) (A : Nat → Nat)

/-- The flags of one level of the tree. -/
def treeFlags (l : Nat) : Flags := Spec.flagsOf (n / 2 ^ (l + 1)) fun i =>
  (f (Spec.halved f n A l i) (Spec.halved f n A l (i + n / 2 ^ (l + 1)))).2

theorem redTree_eq (k l : Nat) (fl : Flags) (size : n = 2 ^ (l + k)) :
    redTree f k ((List.range (2 ^ k)).map (Spec.halved f n A l)) fl =
      (Spec.halved f n A (l + k) 0, fl ||| Spec.flagsOf k fun j => treeFlags f n A (l + j)) := by
  induction k generalizing l fl with
  | zero => simp [redTree, Spec.flagsOf]
  | succ k ih =>
    have half : n / 2 ^ (l + 1) = 2 ^ k := by
      rw [size, ← Nat.add_assoc, Nat.add_right_comm, pow_add]
      exact Nat.mul_div_cancel_left _ (Nat.two_pow_pos _)
    have double : 2 ^ (k + 1) = 2 ^ k + 2 ^ k := by rw [pow_succ, Nat.mul_two]
    have level : List.zipWith f (((List.range (2 ^ k + 2 ^ k)).map (Spec.halved f n A l)).take (2 ^ k))
        (((List.range (2 ^ k + 2 ^ k)).map (Spec.halved f n A l)).drop (2 ^ k)) =
        (List.range (2 ^ k)).map fun i => f (Spec.halved f n A l i) (Spec.halved f n A l (i + n / 2 ^ (l + 1))) := by
      rw [take_map_range _ (Nat.le_add_right ..), drop_map_range, Nat.add_sub_cancel, List.zipWith_map, List.zipWith_self, half]
      simp only [Nat.add_comm]
    have next : l + (k + 1) = l + 1 + k := by omega
    rw [redTree, List.length_map, List.length_range, double, ← Nat.mul_two, Nat.mul_div_cancel _ two_pos, Nat.mul_two]
    have flags : (Spec.flagsOf (2 ^ k) fun i => (f (Spec.halved f n A l i) (Spec.halved f n A l (i + n / 2 ^ (l + 1)))).2) =
        treeFlags f n A l := by rw [treeFlags, half]
    rw [level, foldl_or_map_range_from Prod.snd, List.map_map, flags]
    refine (ih (l + 1) _ (next ▸ size)).trans ?_
    rw [flagsOf_succ', next, BitVec.or_assoc]
    simp only [Nat.add_zero, Nat.add_assoc, Nat.add_comm 1]

/-- The flags of one level of a scan. -/
def scanFlags (l : Nat) : Flags := Spec.flagsOf n fun i =>
  if i < 2 ^ l then 0 else (f (Spec.scanned f A l (i - 2 ^ l)) (Spec.scanned f A l i)).2

theorem scanLevels_eq (k l : Nat) (fl : Flags) (size : 2 ^ (l + k) ≤ n) :
    scanLevels f k l ((List.range n).map (Spec.scanned f A l)) fl =
      ((List.range n).map (Spec.scanned f A (l + k)), fl ||| Spec.flagsOf k fun j => scanFlags f n A (l + j)) := by
  induction k generalizing l fl with
  | zero => simp [scanLevels, Spec.flagsOf]
  | succ k ih =>
    have next : l + (k + 1) = l + 1 + k := by omega
    have below : 2 ^ l ≤ n := (Nat.pow_le_pow_right two_pos (Nat.le_add_right ..)).trans size
    obtain ⟨m, rfl⟩ := Nat.exists_eq_add_of_le below
    have lanes : (List.range (2 ^ l)).map (Spec.scanned f A l) ++
        (List.range m).map (fun i => (f (Spec.scanned f A l i) (Spec.scanned f A l (2 ^ l + i))).1) =
        (List.range (2 ^ l + m)).map (Spec.scanned f A (l + 1)) := by
      rw [map_range_append]
      refine List.map_congr_left fun i _ => ?_
      rw [Spec.scanned]
      split
      · rfl
      · next above => rw [Nat.add_sub_cancel' (not_lt.1 above)]
    have flags : (Spec.flagsOf m fun i => (f (Spec.scanned f A l i) (Spec.scanned f A l (2 ^ l + i))).2) =
        scanFlags f (2 ^ l + m) A l := by
      rw [scanFlags, flagsOf_above]
      simp only [Nat.add_sub_cancel_left]
    rw [scanLevels, drop_map_range, Nat.add_sub_cancel_left, zipWith_map_range, foldl_or_map_range_from Prod.snd, List.map_map, flags,
      take_map_range _ below]
    refine (congrArg (scanLevels f k (l + 1) · _) lanes).trans ((ih (l + 1) _ (next ▸ size)).trans ?_)
    rw [flagsOf_succ', next, BitVec.or_assoc]
    simp only [Nat.add_zero, Nat.add_assoc, Nat.add_comm 1]

end

theorem LT.lanes_eq_two_pow (lt : LT) : 2048 / lt.width = 2 ^ Nat.log2 (2048 / lt.width) := by cases lt <;> decide

/-! ### Operations that associate and commute on lanes (R140) -/

/-- An operation of lanes below `M` that associates and commutes. -/
structure CommutesBelow (M : Nat) (F : Nat → Nat → Nat) : Prop where
  lt : ∀ {x y}, x < M → y < M → F x y < M
  comm : ∀ {x y}, x < M → y < M → F x y = F y x
  assoc : ∀ {x y z}, x < M → y < M → z < M → F (F x y) z = F x (F y z)

/-- The fold of lanes 0 to `i`, from the left. -/
def chain (F : Nat → Nat → Nat) (A : Nat → Nat) (i : Nat) : Nat := (List.range i).foldl (fun m j => F m (A (j + 1))) (A 0)

theorem chain_succ (F : Nat → Nat → Nat) (A : Nat → Nat) (i : Nat) : chain F A (i + 1) = F (chain F A i) (A (i + 1)) := by
  rw [chain, List.range_succ, List.foldl_append]
  rfl

section

variable {M : Nat} {F : Nat → Nat → Nat} (laws : CommutesBelow M F) {A : Nat → Nat} (below : ∀ i, A i < M)

include laws

theorem CommutesBelow.congr {G : Nat → Nat → Nat} (same : ∀ {x y}, x < M → y < M → G x y = F x y) : CommutesBelow M G where
  lt hx hy := by rw [same hx hy]; exact laws.lt hx hy
  comm hx hy := by rw [same hx hy, same hy hx, laws.comm hx hy]
  assoc hx hy hz := by
    rw [same hx hy, same hy hz, same (laws.lt hx hy) hz, same hx (laws.lt hy hz), laws.assoc hx hy hz]

theorem CommutesBelow.swap {a b c d : Nat} (ha : a < M) (hb : b < M) (hc : c < M) (hd : d < M) :
    F (F a b) (F c d) = F (F a c) (F b d) := by
  rw [laws.assoc ha hb (laws.lt hc hd), ← laws.assoc hb hc hd, laws.comm hb hc, laws.assoc hc hb hd,
    ← laws.assoc ha hc (laws.lt hb hd)]

include below

theorem chain_lt (i : Nat) : chain F A i < M := by
  induction i with
  | zero => exact below 0
  | succ i ih => rw [chain_succ]; exact laws.lt ih (below _)

theorem chain_congr {G : Nat → Nat → Nat} (same : ∀ {x y}, x < M → y < M → G x y = F x y) (i : Nat) :
    chain G A i = chain F A i := by
  induction i with
  | zero => rfl
  | succ i ih => rw [chain_succ, chain_succ, ih, same (chain_lt laws below i) (below _)]

theorem chain_add (i k : Nat) : chain F A (i + (k + 1)) = F (chain F A i) (chain F (fun j => A (i + 1 + j)) k) := by
  induction k with
  | zero => exact chain_succ ..
  | succ k ih =>
    rw [← Nat.add_assoc, chain_succ, ih, chain_succ, laws.assoc (chain_lt laws below i) (chain_lt laws (fun _ => below _) k) (below _)]
    congr 3
    omega

theorem chain_op {B : Nat → Nat} (below' : ∀ i, B i < M) (i : Nat) :
    chain F (fun j => F (A j) (B j)) i = F (chain F A i) (chain F B i) := by
  induction i with
  | zero => rfl
  | succ i ih =>
    rw [chain_succ, ih, chain_succ, chain_succ,
      laws.swap (chain_lt laws below i) (chain_lt laws below' i) (below _) (below' _)]

end

/-! ### Trees and levels of such an operation are its folds (R140 to R142) -/

section

variable {M : Nat} {op : Nat → Nat → Nat × Flags} {A : Nat → Nat} (below : ∀ i, A i < M)
include below

theorem halved_lt (closed : ∀ {x y}, x < M → y < M → (op x y).1 < M) (n l i : Nat) : Spec.halved op n A l i < M := by
  induction l generalizing i with
  | zero => exact below i
  | succ l ih => exact closed (ih _) (ih _)

theorem scanned_lt (closed : ∀ {x y}, x < M → y < M → (op x y).1 < M) (l i : Nat) : Spec.scanned op A l i < M := by
  induction l generalizing i with
  | zero => exact below i
  | succ l ih =>
    rw [Spec.scanned]
    split
    · exact ih i
    · exact closed (ih _) (ih _)

variable (laws : CommutesBelow M fun x y => (op x y).1)
include laws

/-- Each level of the tree folds to what the lanes fold to. -/
theorem chain_halved {n m l : Nat} (size : n = 2 ^ m) (level : l ≤ m) :
    chain (fun x y => (op x y).1) (Spec.halved op n A l) (n / 2 ^ l - 1) = chain (fun x y => (op x y).1) A (n - 1) := by
  induction l with
  | zero => rw [pow_zero, Nat.div_one]; rfl
  | succ l ih =>
    obtain ⟨k, rfl⟩ := Nat.exists_eq_add_of_le level
    have half : n / 2 ^ (l + 1) = 2 ^ k := by rw [size, pow_add]; exact Nat.mul_div_cancel_left _ (Nat.two_pow_pos _)
    have whole : n / 2 ^ l = 2 ^ k + 2 ^ k := by
      rw [size, Nat.add_assoc, pow_add, Nat.mul_div_cancel_left _ (Nat.two_pow_pos _), Nat.add_comm, pow_succ, Nat.mul_two]
    have pos := Nat.two_pow_pos k
    have values : ∀ i, Spec.halved op n A l i < M := halved_lt below laws.lt n l
    rw [← ih (by omega), half, whole, show 2 ^ k + 2 ^ k - 1 = (2 ^ k - 1) + (2 ^ k - 1 + 1) by omega, chain_add laws values,
      ← chain_op laws values (fun _ => values _), Nat.sub_add_cancel pos]
    congr 1
    funext j
    rw [Spec.halved, half, Nat.add_comm j]

/-- The last level of the tree is the fold of the lanes. -/
theorem halved_eq_chain {n m : Nat} (size : n = 2 ^ m) :
    Spec.halved op n A m 0 = chain (fun x y => (op x y).1) A (n - 1) := by
  rw [← chain_halved below laws size le_rfl, size, Nat.div_self (Nat.two_pow_pos m)]
  rfl

/-- After `l` levels a lane is the fold of the 2^l lanes up to it, or of all of them. -/
theorem scanned_eq_chain (l i : Nat) : Spec.scanned op A l i =
    chain (fun x y => (op x y).1) (fun j => A (i - min i (2 ^ l - 1) + j)) (min i (2 ^ l - 1)) := by
  induction l generalizing i with
  | zero => simp [Spec.scanned, chain]
  | succ l ih =>
    have double : 2 ^ (l + 1) = 2 ^ l + 2 ^ l := by rw [pow_succ, Nat.mul_two]
    have pos := Nat.two_pow_pos l
    rw [Spec.scanned]
    split
    · next low => rw [ih, min_eq_left (by omega), min_eq_left (by omega)]
    · next high =>
      generalize width : min (i - 2 ^ l) (2 ^ l - 1) = p
      have whole : min i (2 ^ (l + 1) - 1) = p + (2 ^ l - 1 + 1) := by omega
      have first (j : Nat) : i - 2 ^ l - p + j = i - (p + (2 ^ l - 1 + 1)) + j := by omega
      have last (j : Nat) : i - (2 ^ l - 1) + j = i - (p + (2 ^ l - 1 + 1)) + (p + 1 + j) := by omega
      rw [ih, ih, width, min_eq_right (by omega), whole, chain_add laws fun _ => below _]
      simp only [first, last]

theorem scanned_last {l i : Nat} (within : i < 2 ^ l) : Spec.scanned op A l i = chain (fun x y => (op x y).1) A i := by
  rw [scanned_eq_chain below laws, min_eq_left (by omega), Nat.sub_self]
  simp only [Nat.zero_add]

/-- Operations that raise no flag raise none in a tree or in the levels of a scan. -/
theorem halvedFlags_quiet (quiet : ∀ {x y}, x < M → y < M → (op x y).2 = 0) (n : Nat) : Spec.halvedFlags op n A = 0 := by
  have level : ∀ l, treeFlags op n A l = 0 := fun l => by
    have values := halved_lt below laws.lt n l
    rw [treeFlags, flagsOf_congr fun i _ => quiet (values i) (values _), flagsOf_zero]
  exact (flagsOf_congr fun l _ => level l).trans (flagsOf_zero _)

theorem scannedFlags_quiet (quiet : ∀ {x y}, x < M → y < M → (op x y).2 = 0) (n : Nat) : Spec.scannedFlags op n A = 0 := by
  have level : ∀ l, scanFlags op n A l = 0 := fun l => by
    have values := scanned_lt below laws.lt l
    rw [scanFlags, flagsOf_congr (f' := fun _ => 0) fun i _ => by rw [quiet (values _) (values i), ite_self], flagsOf_zero]
  exact (flagsOf_congr fun l _ => level l).trans (flagsOf_zero _)

end

/-! ### Operations of integer lanes (R140) -/

/-- The operations of R140 on lanes of `w` bits. -/
def foldLane (op : RedOp) (w x y : Nat) : Nat :=
  match op with
  | .add => (x + y) % 2 ^ w
  | .min => if Spec.num w false x ≤ Spec.num w false y then x else y
  | .max => if Spec.num w false y ≤ Spec.num w false x then x else y
  | .minz => min x y | .maxz => max x y | .and => x &&& y | .or => x ||| y | .xor => x ^^^ y

theorem redOp_int {op : RedOp} {lt : LT} (int : lt.isInt = true) (rnd : Rnd) {x y : Nat} (hx : x < 2 ^ lt.width) (hy : y < 2 ^ lt.width) :
    redOp op lt rnd x y = (foldLane op lt.width x y, 0) := by
  have notFloat : lt.isFloat = false := by cases lt <;> simp [LT.isInt] at int <;> rfl
  refine (if_neg (by rw [notFloat]; exact Bool.false_ne_true)).trans ?_
  cases op with
  | min => simp only [foldLane, minLane, lint_eq_num _ hx, lint_eq_num _ hy]
  | max => simp only [foldLane, maxLane, lint_eq_num _ hx, lint_eq_num _ hy]
  | minz => simp only [foldLane, minLane, lint_eq_num _ hx, lint_eq_num _ hy, num_true, Nat.cast_le, min_def]
  | maxz => simp only [foldLane, maxLane, lint_eq_num _ hx, lint_eq_num _ hy, num_true, Nat.cast_le, max_comm x, max_def]
  | _ => rfl

theorem num_injective {w x y : Nat} (hx : x < 2 ^ w) (hy : y < 2 ^ w) (eq : Spec.num w false x = Spec.num w false y) : x = y := by
  have same := ((num_modEq w false x).symm.trans (eq ▸ num_modEq w false y))
  have := (Int.natCast_modEq_iff (n := 2 ^ w)).1 (by push_cast; exact same)
  exact this.eq_of_lt_of_lt hx hy

/-- The lane with the least key, of the first of equal ones. -/
theorem least_commutes {M : Nat} {key : Nat → Int} (inj : ∀ {x y}, x < M → y < M → key x = key y → x = y) :
    CommutesBelow M fun x y => if key x ≤ key y then x else y where
  lt hx hy := by split <;> assumption
  comm {x y} hx hy := by
    rcases lt_trichotomy (key x) (key y) with lt | eq | gt
    · rw [if_pos lt.le, if_neg (not_le.2 lt)]
    · rw [inj hx hy eq]
    · rw [if_neg (not_le.2 gt), if_pos gt.le]
  assoc _ _ _ := by split_ifs <;> first | rfl | omega

theorem foldLane_commutes (op : RedOp) (w : Nat) : CommutesBelow (2 ^ w) (foldLane op w) := by
  cases op with
  | add => exact ⟨fun _ _ => Nat.mod_lt _ (Nat.two_pow_pos w), fun _ _ => by simp only [foldLane, Nat.add_comm],
      fun _ _ _ => by simp only [foldLane, Nat.mod_add_mod, Nat.add_mod_mod, Nat.add_assoc]⟩
  | min => exact least_commutes num_injective
  | max =>
    have greatest := least_commutes (key := fun x => -Spec.num w false x) fun hx hy eq => num_injective hx hy (neg_injective eq)
    exact greatest.congr fun _ _ => by simp only [foldLane, neg_le_neg_iff]
  | minz => exact ⟨fun hx _ => (min_le_left ..).trans_lt hx, fun _ _ => min_comm .., fun _ _ _ => min_assoc ..⟩
  | maxz => exact ⟨max_lt, fun _ _ => max_comm .., fun _ _ _ => max_assoc ..⟩
  | and => exact ⟨fun _ hy => Nat.and_lt_two_pow _ hy, fun _ _ => Nat.and_comm .., fun _ _ _ => Nat.and_assoc ..⟩
  | or => exact ⟨Nat.or_lt_two_pow, fun _ _ => Nat.or_comm .., fun _ _ _ => Nat.or_assoc ..⟩
  | xor => exact ⟨Nat.xor_lt_two_pow, fun _ _ => Nat.xor_comm .., fun _ _ _ => Nat.xor_assoc ..⟩

/-! ### Operations of lanes of floats (R140) -/

theorem signed_lt {lt : LT} {mag : Nat} (neg : Bool) (fits : mag < 2 ^ (lt.width - 1)) : signed lt neg mag < 2 ^ lt.width :=
  (codeMag_signed neg fits).2.2

section

variable {lt : LT} (float : lt.isFloat = true) (rnd : Rnd)
include float

theorem nanF_lt (bad : Bool) : (nanF lt bad).1 < 2 ^ lt.width := by
  cases lt <;> simp [LT.isFloat] at float <;> exact of_decide_eq_true rfl

theorem infF_lt (sat neg : Bool) : (infF lt sat neg).1 < 2 ^ lt.width := by
  unfold infF
  split
  · exact signed_lt neg (codeMax_lt (.inl float))
  · split
    · exact nanF_lt float false
    · exact signed_lt neg codeInf_lt

theorem overflowF_lt (sat neg : Bool) : (overflowF lt rnd sat neg).1 < 2 ^ lt.width := by
  unfold overflowF
  split
  · exact signed_lt neg (codeMax_lt (.inl float))
  · split
    · exact signed_lt neg (codeMax_lt (.inl float))
    · split
      · exact nanF_lt float false
      · exact signed_lt neg codeInf_lt

theorem roundF_lt (sat neg : Bool) (m : Nat) (e : Int) : (roundF lt rnd sat neg m e).1 < 2 ^ lt.width := by
  by_cases zero : m = 0
  · rw [roundF, if_pos zero]
    dsimp only
    split
    · exact Nat.two_pow_pos _
    · exact signed_lt neg (Nat.two_pow_pos _)
  · by_cases beyond : overflows lt rnd m e
    · rw [roundF_of_overflows zero beyond]
      exact overflowF_lt float rnd sat neg
    · rw [roundF_of_not_overflows zero beyond]
      exact codeOf_fits (.inl float) (landMag_le zero (.inl float) beyond) neg

theorem addF_lt (x y : FVal) : (addF lt rnd x y).1 < 2 ^ lt.width := by
  unfold addF
  split
  · exact nanF_lt float _
  · exact nanF_lt float _
  · split
    · exact infF_lt float ..
    · exact nanF_lt float _
  · exact infF_lt float ..
  · exact infF_lt float ..
  · exact roundF_lt float ..

theorem minmaxF_lt (wantMax : Bool) {x y : Nat} (hx : x < 2 ^ lt.width) (hy : y < 2 ^ lt.width) :
    (minmaxF lt wantMax x y).1 < 2 ^ lt.width := by
  unfold minmaxF
  dsimp only
  split
  · exact nanF_lt float false
  · exact hy
  · exact hx
  · dsimp only
    split_ifs <;> assumption

theorem redOp_float (op : RedOp) : op.accepts lt = true → redOp op lt rnd = fun x y => match op with
    | .add => addF lt rnd (decodeF lt x) (decodeF lt y)
    | _ => minmaxF lt (op == .max) x y := by
  intro accepts
  have notInt : lt.isInt = false := by cases lt <;> simp [LT.isFloat] at float <;> rfl
  funext x y
  refine (if_pos float).trans ?_
  cases op with
  | add | min | max => rfl
  | _ => simp [RedOp.accepts, notInt] at accepts

theorem redOp_lt {op : RedOp} (accepts : op.accepts lt = true) {x y : Nat} (hx : x < 2 ^ lt.width) (hy : y < 2 ^ lt.width) :
    (redOp op lt rnd x y).1 < 2 ^ lt.width := by
  rw [redOp_float float rnd op accepts]
  cases op with
  | add => exact addF_lt float ..
  | _ => exact minmaxF_lt float _ hx hy

end

/-! ### What the rows land (R140 to R142) -/

theorem ofNat_of_lt {w x : Nat} (fits : x < 2 ^ w) : BitVec.ofNat 2048 x = Spec.vec w 1 fun _ => x := by
  rw [← ofNat_ofLanes w 1 (fun _ => x) _ fun _ _ => by push_cast; rfl]
  simp [ofLanes, Nat.mod_eq_of_lt fits]

section

variable {op : RedOp} {lt : LT} {rnd : Rnd} {P : Nat → Nat → Nat × Flags} (combine : redOp op lt rnd = P) (v : VWord)
include combine

theorem redV_eq (closed : ∀ {x y}, x < 2 ^ lt.width → y < 2 ^ lt.width → (P x y).1 < 2 ^ lt.width) :
    let N := 2048 / lt.width
    let A := Spec.lane lt.width v
    redV op lt rnd v = (Spec.vec lt.width 1 fun _ => Spec.halved P N A (Nat.log2 N) 0, Spec.halvedFlags P N A) := by
  intro N A
  have tree := redTree_eq P N A (Nat.log2 N) 0 0 (by rw [Nat.zero_add]; exact LT.lanes_eq_two_pow lt)
  have lanes : lv lt v = (List.range (2 ^ Nat.log2 N)).map (Spec.halved P N A 0) := by
    rw [← LT.lanes_eq_two_pow lt]
    exact lv_eq_map ..
  rw [redV, combine, LT.lanes, lanes, tree]
  simp only [Nat.zero_add, treeFlags]
  exact Prod.ext (ofNat_of_lt (halved_lt (fun j => lane_lt lt.width v j) closed ..)) BitVec.zero_or

omit combine in
theorem scanLevels_lv : let N := 2048 / lt.width
    let A := Spec.lane lt.width v
    scanLevels P (Nat.log2 lt.lanes) 0 (lv lt v) 0 =
      ((List.range N).map (Spec.scanned P A (Nat.log2 N)), Spec.scannedFlags P N A) := by
  intro N A
  have levels := scanLevels_eq P N A (Nat.log2 N) 0 0 (by rw [Nat.zero_add]; exact (LT.lanes_eq_two_pow lt).ge)
  simp only [Nat.zero_add] at levels
  rw [lv_eq_map]
  exact levels.trans (Prod.ext rfl BitVec.zero_or)

theorem scanV_none : let N := 2048 / lt.width
    let A := Spec.lane lt.width v
    scanV op lt rnd v none = (Spec.vec lt.width N fun i => Spec.scanned P A (Nat.log2 N) i, Spec.scannedFlags P N A) := by
  intro N A
  rw [scanV, combine, scanLevels_lv]
  exact Prod.ext (ofNat_ofLanes _ _ _ _ fun j _ => by push_cast; rfl) rfl

theorem scanV_some (u : VWord) : let N := 2048 / lt.width
    let A := Spec.lane lt.width v
    let t := Spec.scanned P A (Nat.log2 N)
    let q := Spec.lane lt.width u 0
    scanV op lt rnd v (some u) = (Spec.vec lt.width N fun i => (P q (t i)).1,
      Spec.scannedFlags P N A ||| Spec.flagsOf N fun i => (P q (t i)).2) := by
  intro N A t q
  have first : (lv lt u).headD 0 = q := by
    obtain ⟨n, size⟩ := Nat.exists_eq_succ_of_ne_zero (LT.lanes_pos lt).ne'
    rw [lv_eq_map, size, List.range_succ_eq_map]
    rfl
  rw [scanV, combine, scanLevels_lv]
  dsimp only
  rw [first, List.map_map, ofLv_map_range]
  rfl

end

/-- Settles O24: over integers the tree and the levels are folds, since the operations associate and commute (`halved_eq_chain`,
`scanned_last`); over floats they are the model's own. -/
theorem reductionsAndScans : Obligations.ReductionsAndScans := by
  unfold Obligations.ReductionsAndScans
  intro g d op lt rnd a b s c w N A slot S F folded voidB
  have below : ∀ i, A i < 2 ^ w := fun i => lane_lt ..
  refine ⟨fun int => ?int, fun float accepts _ => ?float⟩
  case int =>
    have laws : CommutesBelow (2 ^ w) F := foldLane_commutes op w
    have laws' : CommutesBelow (2 ^ w) fun x y => (redOp op lt .ne x y).1 :=
      laws.congr fun hx hy => by rw [redOp_int int .ne hx hy]; rfl
    have quiet : ∀ {x y}, x < 2 ^ w → y < 2 ^ w → (redOp op lt .ne x y).2 = 0 := fun hx hy => by rw [redOp_int int .ne hx hy]
    have same : ∀ i, chain (fun x y => (redOp op lt .ne x y).1) A i = folded i :=
      chain_congr laws below fun hx hy => by rw [redOp_int int .ne hx hy]; rfl
    have tree : Spec.halved (redOp op lt .ne) N A (Nat.log2 N) 0 = folded (N - 1) :=
      (halved_eq_chain below laws' (LT.lanes_eq_two_pow lt)).trans (same _)
    have levels : ∀ i < N, Spec.scanned (redOp op lt .ne) A (Nat.log2 N) i = folded i := fun i within =>
      (scanned_last below laws' (within.trans_eq (LT.lanes_eq_two_pow lt))).trans (same i)
    have treeFlags := halvedFlags_quiet below laws' quiet N
    have levelFlags := scannedFlags_quiet below laws' quiet N
    refine ⟨?red, ?scan⟩
    case red =>
      rw [Spec.lanes, flagsOf_zero]
      refine resultV_of_unV rfl ((redV_eq rfl _ laws'.lt).trans ?_)
      exact Prod.ext (congrArg (fun x : Nat => Spec.vec w 1 fun _ => x) tree) treeFlags
    case scan =>
      rw [Spec.lanes, flagsOf_zero]
      cases b with
      | none =>
        rw [show (voidV c a || voidB) = voidV c a from Bool.or_false _]
        refine resultV_of_unV (f := fun x => scanV op lt .ne x none) rfl ((scanV_none rfl _).trans ?_)
        exact Prod.ext (vec_congr fun i within => by rw [levels i within]) levelFlags
      | some o =>
        have seed : Spec.lane w (valV c o) 0 < 2 ^ w := lane_lt ..
        have values : ∀ i, Spec.scanned (redOp op lt .ne) A (Nat.log2 N) i < 2 ^ w := scanned_lt below laws'.lt _
        refine resultV_of_binV (f := fun x y => scanV op lt .ne x (some y)) rfl ((scanV_some rfl _ _).trans ?_)
        refine Prod.ext (vec_congr fun i within => ?_) ?_
        · rw [redOp_int int .ne seed (values i)]
          dsimp only
          rw [levels i within]
          rfl
        · dsimp only
          rw [levelFlags, flagsOf_congr fun i _ => quiet seed (values i), flagsOf_zero]
          rfl
  case float =>
    intro P t
    have combine : redOp op lt rnd = P := redOp_float float rnd op accepts
    refine ⟨resultV_of_unV rfl (redV_eq combine _ (combine ▸ redOp_lt float rnd accepts)), ?scan⟩
    cases b with
    | none => exact resultV_of_unV (f := fun x => scanV op lt rnd x none) rfl (scanV_none combine _)
    | some o => exact resultV_of_binV (f := fun x y => scanV op lt rnd x (some y)) rfl (scanV_some combine _ _)

end Sys2Proof.Machine
end

section
/-! Proofs of the family of spec/07: vector accesses of the scratchpad (O25). -/

namespace Sys2Proof.Machine

/-! ### The stops of accesses of several pieces (R144) -/

theorem spadOk_iff (ea n : Nat) : spadOk ea n = true ↔ ea + n ≤ 0x40000 := decide_eq_true_iff

section

variable {k : Core} {n m : Nat} {e : Nat → Nat} (core : k.svc = none) (mask : Nat)
include core

/-- Pieces that lie in the scratchpad, and in good words where they are read. -/
theorem lanesStop_none {rd : Bool} (inside : ∀ j < m, e j + n ≤ 0x40000 ∧ (rd = true → spadBad k (e j) n = false)) :
    lanesStop k mask n rd ((List.range m).map e) = none := by
  have range : ((List.range m).map e).find? (fun ea => !spadOk ea n) = none := by
    simpa [spadOk_iff] using fun j lt => (inside j lt).1
  have clear : ∀ j < m, viewStop k 3 mask (e j) n rd = none := by
    intro j lt
    obtain ⟨fits, good⟩ := inside j lt
    have ok : viewOk k (e j) n = true := by simpa [viewOk_core core] using fits
    cases rd with
    | false => simp [viewStop, ok]
    | true => simp [viewStop, ok, good rfl]
  rw [lanesStop, range]
  simpa using clear

omit core in
/-- The first piece that leaves the scratchpad stops its instruction. -/
theorem lanesStop_some (rd : Bool) {j : Nat} (lane : j < m) (out : ¬ e j + n ≤ 0x40000) (first : ∀ i < j, e i + n ≤ 0x40000) :
    lanesStop k mask n rd ((List.range m).map e) =
      some { cause := .xlate, smask := mask, engine := 3, reason := 4, va := some (e j) } := by
  have found : ((List.range m).map e).find? (fun ea => !spadOk ea n) = some (e j) := by
    rw [List.find?_map, List.find?_range_eq_some.2 ⟨?_, ?_, ?_⟩]
    · rfl
    · exact congrArg (!·) (eq_false_of_ne_true (mt (spadOk_iff _ _).1 out))
    · exact List.mem_range.2 lane
    · simpa [spadOk_iff] using first
  rw [lanesStop, found]

end

/-! ### Loads (R143, R144) -/

theorem leNat_mReadN (mem : SMap Byte) (a n : Nat) :
    leNat (mReadN mem a n) = ∑ p ∈ Finset.range n, (mRead mem (a + p)).toNat * 256 ^ p := by
  induction n generalizing a with
  | zero => rfl
  | succ n ih =>
    rw [mReadN, leNat, ih, Finset.sum_range_succ', Finset.mul_sum, Nat.add_comm]
    congr 1
    · refine Finset.sum_congr rfl fun p _ => ?_
      rw [Nat.add_assoc, Nat.add_comm 1, pow_succ]
      ring
    · simp

section

variable {i : Instr} {s : State} {g : Guard} {d : VDst} {n m : Nat} {void : Ctx → Bool} {e : Nat → Nat}

section

variable {eas : Ctx → List Nat} (row : exec i s = settle s (loadV n g d void eas s))
include row

theorem resultV_of_loadV_off (off : guardOn (cur s).ctx g = false) (v : VWord) (f : Flags) :
    Spec.resultV g i s (void (curCtx s)) (slotV s) 5 d v f := by
  have value := resultV_of_exec (i := i) (s := s) (g := g) (slot := slotV s) (lat := 5) (d := d) (void := void (curCtx s))
    (v := BitVec.ofNat 2048 (ofLanes (8 * n) ((eas (cur s).ctx).map fun ea => spadNat (cur s) ea n))) (f := 0)
    (by rw [row]; simp only [loadV, off]; rfl)
  exact resultV_of_off off value

variable (pieces : eas (cur s).ctx = (List.range m).map e)
include pieces

theorem resultV_of_loadV (core : (cur s).svc = none)
    (inside : ∀ j < m, e j + n ≤ 0x40000 ∧ spadBad (cur s) (e j) n = false) :
    Spec.resultV g i s (void (curCtx s)) (slotV s) 5 d
      (Spec.vec (8 * n) m fun j => ∑ p ∈ Finset.range n, (mRead (cur s).spad (e j + p)).toNat * 256 ^ p) 0 := by
  have goes : (if guardOn (cur s).ctx g then lanesStop (cur s) (2 ^ slotV s) n true (eas (cur s).ctx) else none) = none := by
    rw [pieces]
    exact ite_eq_right_iff.2 fun _ => lanesStop_none core _ fun j lt => ⟨(inside j lt).1, fun _ => (inside j lt).2⟩
  have value : BitVec.ofNat 2048 (ofLanes (8 * n) ((eas (cur s).ctx).map fun ea => spadNat (cur s) ea n)) =
      Spec.vec (8 * n) m fun j => ∑ p ∈ Finset.range n, (mRead (cur s).spad (e j + p)).toNat * 256 ^ p := by
    rw [pieces, List.map_map]
    refine ofNat_ofLanes _ _ _ _ fun j _ => ?_
    rw [Function.comp_apply, spadNat, leNat_mReadN]
    push_cast
    rfl
  refine resultV_of_exec ?_
  rw [row, ← value]
  simp only [loadV, goes]
  rfl

theorem exec_loadV_outside (on : guardOn (cur s).ctx g = true) {j : Nat} (lane : j < m) (out : ¬ e j + n ≤ 0x40000)
    (first : ∀ i < j, e i + n ≤ 0x40000) : exec i s = .next (takeStop s.sched.cur
      { cause := .xlate, smask := 2 ^ slotV s, engine := 3, reason := 4, va := some (e j) } s) := by
  have stops := lanesStop_some (k := cur s) (2 ^ slotV s) true lane out first
  rw [← pieces] at stops
  rw [row]
  simp [loadV, on, stops]

end

/-! ### Stores (R143 to R145) -/

theorem byte_eq_extractLsb' {w : Nat} (v : BitVec w) (j : Nat) : BitVec.ofNat 8 (v.toNat / 256 ^ j) = v.extractLsb' (8 * j) 8 := by
  rw [show 256 ^ j = 2 ^ (8 * j) from (pow_mul 2 8 j).symm, ← Nat.shiftRight_eq_div_pow]
  rfl

/-- The scratchpad after the stores of some lanes: nothing else of the core changes but its words that cannot be corrected. -/
theorem storeLanes_frame (n : Nat) (l : List (Nat × Nat)) (k : Core) (c : Ctx) : let w := storeLanes n l k
    w = { k with spad := w.spad, badWords := w.badWords } ∧ storeLanes n l { k with ctx := c } = { w with ctx := c } := by
  induction l generalizing k with
  | nil => exact ⟨rfl, rfl⟩
  | cons p l ih =>
    obtain ⟨frame, moved⟩ := ih (spadWrite k p.1 (leBytes n p.2))
    exact ⟨frame.trans rfl, moved⟩

theorem storeLanes_append (n : Nat) (l l' : List (Nat × Nat)) (k : Core) :
    storeLanes n (l ++ l') k = storeLanes n l' (storeLanes n l k) := by
  induction l generalizing k with
  | nil => rfl
  | cons p l ih => exact ih _

theorem mRead_spadWrite (k : Core) (ea n x p : Nat) : mRead (spadWrite k ea (leBytes n x)).spad p =
    if ea ≤ p ∧ p < ea + n then BitVec.ofNat 8 (x / 256 ^ (p - ea)) else mRead k.spad p := by
  refine (mRead_mWriteN ..).trans ?_
  rw [leBytes_length]
  split
  · next inside => exact leBytes_getD n x (by omega)
  · rfl

theorem mRead_storeLanes_outside {n p : Nat} (l : List (Nat × Nat)) (k : Core) (out : ∀ c ∈ l, ¬ (c.1 ≤ p ∧ p < c.1 + n)) :
    mRead (storeLanes n l k).spad p = mRead k.spad p := by
  induction l generalizing k with
  | nil => rfl
  | cons c l ih =>
    obtain ⟨here, rest⟩ := List.forall_mem_cons.1 out
    rw [storeLanes, ih _ rest, mRead_spadWrite, if_neg here]

/-- The last of the lanes that cover a byte gives it. -/
theorem mRead_storeLanes_last {n m j p : Nat} (e x : Nat → Nat) (k : Core) (lane : j < m) (inside : e j ≤ p ∧ p < e j + n)
    (last : ∀ i < m, j < i → ¬ (e i ≤ p ∧ p < e i + n)) :
    mRead (storeLanes n ((List.range m).map fun i => (e i, x i)) k).spad p = BitVec.ofNat 8 (x j / 256 ^ (p - e j)) := by
  obtain ⟨r, rfl⟩ := Nat.exists_eq_add_of_lt lane
  rw [Nat.add_right_comm, List.range_add, List.map_append, storeLanes_append, mRead_storeLanes_outside _ _ ?later, List.range_succ,
    List.map_append, storeLanes_append]
  case later =>
    intro c mem
    obtain ⟨_, above, rfl⟩ := List.mem_map.1 mem
    obtain ⟨i, within, rfl⟩ := List.mem_map.1 above
    have lt := List.mem_range.1 within
    exact last _ (by omega) (by omega)
  · exact (mRead_spadWrite ..).trans (if_pos inside)

section

variable {at_ : Ctx → List (Nat × Nat)} (row : exec i s = settle s (storeV n g void at_ s))
include row

theorem onlyReads_of_storeV (off : guardOn (cur s).ctx g = false) : Spec.onlyReads i s (voidP (curCtx s) g.p) := by
  refine onlyReads_of_exec ?_
  rw [row]
  simp [storeV, show guardOn (cur s).ctx g = false from off]
  rfl

variable {x : Nat → Nat} (pieces : at_ (cur s).ctx = (List.range m).map fun j => (e j, x j))
include pieces

omit row in
theorem addresses_of_pieces : (at_ (cur s).ctx).map (·.1) = (List.range m).map e := by
  rw [pieces, List.map_map]
  rfl

theorem exec_storeV_outside (on : guardOn (cur s).ctx g = true) {j : Nat} (lane : j < m) (out : ¬ e j + n ≤ 0x40000)
    (first : ∀ i < j, e i + n ≤ 0x40000) : exec i s = .next (takeStop s.sched.cur
      { cause := .xlate, smask := 2 ^ slotV s, engine := 3, reason := 4, va := some (e j) } s) := by
  have stops := lanesStop_some (k := cur s) (2 ^ slotV s) false lane out first
  rw [← addresses_of_pieces pieces] at stops
  rw [row]
  simp [storeV, on, stops]

theorem exec_storeV (on : guardOn (cur s).ctx g = true) (core : (cur s).svc = none) (inside : ∀ j < m, e j + n ≤ 0x40000) :
    exec i s = .next (setCur s (storeLanes n ((List.range m).map fun j => (e j, x j))
      { cur s with ctx := noteVoid (cur s).ctx (voidP (cur s).ctx g.p || void (cur s).ctx) })) := by
  have goes := lanesStop_none (rd := false) core (2 ^ slotV s) fun j lt => ⟨inside j lt, nofun⟩
  rw [← addresses_of_pieces pieces] at goes
  rw [row, ← pieces]
  simp [storeV, on, goes]

end

end

/-! ### The rows -/

theorem LT.eight_mul_bytes {lt : LT} (width : lt.isWidth = true) : 8 * (lt.width / 8) = lt.width := by
  cases lt <;> simp [LT.isWidth, LT.isNarrow] at width <;> rfl

theorem gatherEas_lv (lt : LT) (ea z : Nat) (v : VWord) : gatherEas ea (lv lt v) z =
    (List.range (2048 / lt.width)).map fun j => (ea + Spec.lane lt.width v j * z) % 2 ^ 64 := by
  rw [gatherEas, lv_eq_map, List.map_map]
  rfl

theorem scatter_pieces (lt : LT) (ea z : Nat) (v : VWord) : List.zip (gatherEas ea (List.range lt.lanes) z) (lv lt v) =
    (List.range (2048 / lt.width)).map fun j => ((ea + j * z) % 2 ^ 64, Spec.lane lt.width v j) := by
  rw [gatherEas, lv_eq_map, LT.lanes, List.zip, List.zipWith_map, List.zipWith_self]

/-- A vector read whole. -/
theorem vec_of_bytes (mem : SMap Byte) (ea : Nat) :
    (Spec.vec (8 * 256) 1 fun _ => ∑ p ∈ Finset.range 256, (mRead mem (ea + p)).toNat * 256 ^ p) =
      BitVec.ofNat 2048 (∑ p ∈ Finset.range 256, (mRead mem (ea + p)).toNat * 256 ^ p) := by
  have fits : ∑ p ∈ Finset.range 256, (mRead mem (ea + p)).toNat * 256 ^ p < 2 ^ (8 * 256) := by
    rw [← leNat_mReadN, pow_mul, show 2 ^ 8 = 256 from rfl]
    exact (leNat_lt _).trans_eq (by rw [mReadN_length])
  rw [ofNat_of_lt fits]
  push_cast
  rfl

/-- Settles O25: a load or a store is a list of pieces, one for each lane; the first that leaves the scratchpad stops it
(`lanesStop_some`), and of several that write a byte the last one gives it (`mRead_storeLanes_last`). -/
theorem vectorMemory : Obligations.VectorMemory := by
  unfold Obligations.VectorMemory
  intro g d lt a z disp b s core width c k w n ea slot at_ to_ fits traps stores
  have gather : gatherEas (memEa c a disp) (lv lt (valV c b)) (valS c z).toNat = (List.range (2048 / w)).map at_ := gatherEas_lv ..
  have scatter : List.zip (gatherEas (memEa c a disp) (List.range lt.lanes) (valS c z).toNat) (lv lt (valV c b)) =
      (List.range (2048 / w)).map fun j => (to_ j, Spec.lane w (valV c b) j) := scatter_pieces ..
  have one : [memEa c a disp] = (List.range 1).map fun _ => ea := rfl
  have whole : [(memEa c a disp, (valV c b).toNat)] = (List.range 1).map fun _ => (ea, (valV c b).toNat) := rfl
  have stored : ∀ {i : Instr} {m l : Nat} {void : Ctx → Bool} {pieces : Ctx → List (Nat × Nat)} {e x : Nat → Nat}
      {byte : Nat → Byte}, exec i s = settle s (storeV l g void pieces s) →
      pieces c = ((List.range m).map fun j => (e j, x j)) → guardOn c g = true → (∀ j < m, e j + l ≤ 0x40000) →
      (∀ p, mRead (storeLanes l ((List.range m).map fun j => (e j, x j)) k).spad p = byte p) → stores i (void c) byte := by
    intro i m l void pieces e x byte row list on inside bytes
    obtain ⟨frame, moved⟩ := storeLanes_frame l ((List.range m).map fun j => (e j, x j)) k (noteVoid c (voidP c g.p || void c))
    have writes := exec_storeV row list on core inside
    exact ⟨_, _, readFlags_noteVoid .., writes.trans (congrArg (fun t => (.next (setCur s t) : Out)) moved), frame, bytes⟩
  refine ⟨fun off => ⟨?vldOff, ?vldgOff, ?vstOff, ?vstsOff⟩,
    fun on => ⟨?vld, ?vldOut, ?vst, ?vstOut, ?vldg, ?vldgOut, ?vsts, ?vstsOut⟩⟩
  case vldOff => exact resultV_of_loadV_off (void := fun c => voidS c a) rfl off 0 0
  case vldgOff => exact resultV_of_loadV_off (void := fun c => voidS c a || voidV c b || voidS c z) rfl off 0 0
  case vstOff => exact onlyReads_of_storeV rfl off
  case vstsOff => exact onlyReads_of_storeV rfl off
  case vld =>
    intro inside good
    rw [← vec_of_bytes]
    exact resultV_of_loadV (void := fun c => voidS c a) (eas := fun c => [memEa c a disp]) rfl one core fun _ _ => ⟨inside, good⟩
  case vldOut =>
    intro out
    exact exec_loadV_outside (n := 256) (e := fun _ => ea) (j := 0) (eas := fun c => [memEa c a disp]) rfl one on
      Nat.zero_lt_one out fun _ lt => absurd lt (Nat.not_lt_zero _)
  case vst =>
    intro inside
    refine stored (l := 256) (void := fun c => voidS c a || voidV c b) rfl whole on (fun _ _ => inside) fun p => ?_
    refine (mRead_spadWrite k ea 256 _ p).trans ?_
    rw [byte_eq_extractLsb']
  case vstOut =>
    intro out
    exact exec_storeV_outside (n := 256) (e := fun _ => ea) (j := 0) rfl whole on Nat.zero_lt_one out fun _ lt =>
      absurd lt (Nat.not_lt_zero _)
  case vldg =>
    intro inside
    have lands := resultV_of_loadV (i := .vldg g d lt a disp b z) (void := fun c => voidS c a || voidV c b || voidS c z) rfl
      gather core inside
    rwa [LT.eight_mul_bytes width] at lands
  case vldgOut =>
    intro j lane out first
    exact exec_loadV_outside rfl gather on lane out first
  case vsts =>
    intro inside
    refine ⟨_, stored (void := fun c => voidS c a || voidV c b || voidS c z) rfl scatter on inside
      fun _ => rfl, fun p out => mRead_storeLanes_outside _ _ fun c mem => ?uncovered,
      fun p j lane low high last => mRead_storeLanes_last to_ _ _ lane ⟨low, high⟩ last⟩
    case uncovered =>
      obtain ⟨j, lane, rfl⟩ := List.mem_map.1 mem
      exact out j (List.mem_range.1 lane)
  case vstsOut =>
    intro j lane out first
    exact exec_storeV_outside rfl scatter on lane out first

end Sys2Proof.Machine
end

section
/-! Proofs of the family of spec/08: what the units of the matrix engine read in a cycle (O30). -/

namespace Sys2Proof.Machine

/-! ### Words that cannot be corrected, by ranges (R307) -/

theorem rotten_append {k : Core} {m : Sram} {lo a b : Nat} :
    Spec.rotten k m lo (a + b) ↔ Spec.rotten k m lo a ∨ Spec.rotten k m (lo + a) b := by
  constructor
  · rintro ⟨w, mem, below, above⟩
    by_cases first : 8 * w < lo + a
    · exact .inl ⟨w, mem, first, above⟩
    · exact .inr ⟨w, mem, by omega, by omega⟩
  · rintro (⟨w, mem, below, above⟩ | ⟨w, mem, below, above⟩)
    · exact ⟨w, mem, by omega, above⟩
    · exact ⟨w, mem, by omega, by omega⟩

theorem badWords_of_rotten {k : Core} {m : Sram} {lo n : Nat} (rotten : Spec.rotten k m lo n) : k.badWords ≠ [] := by
  obtain ⟨w, mem, -, -⟩ := rotten
  exact List.ne_nil_of_mem mem

/-- The first rows of a tile: rows are whole words. -/
theorem rowBad_zero_iff {k : Core} {acc n : Nat} : rowBad k acc 0 n = true ↔ ∃ r < n, Spec.rottenRow k acc r := by
  rw [rowBad, sramBad_iff]
  constructor
  · rintro ⟨w, mem, below, above⟩
    exact ⟨(8 * w - 49152 * acc) / 768, by omega, w, mem, by omega, by omega⟩
  · rintro ⟨r, lt, w, mem, below, above⟩
    exact ⟨w, mem, by omega, by omega⟩

/-- A slot is its data rows and its side rows (R146, R147). -/
theorem slotBad_iff {k : Core} {o : Nat} : (dataBad k o 0 64 || sideBad k o 0 64) = true ↔ Spec.rotten k .slot (9216 * o) 9216 := by
  rw [Bool.or_eq_true, dataBad, sideBad, sramBad_iff, sramBad_iff, mul_zero, mul_zero, add_zero, add_zero,
    show 9216 = 128 * 64 + 16 * 64 from rfl, rotten_append]

/-! ### What a unit reads that cannot be corrected (R152, R153, R180) -/

/-- The first row of the tile that a product writes; 0 for a plane (R152). -/
def prodRow0 (kind : ProdKind) : Nat := match prodTile kind with | some x => x.2 | none => 0

theorem prodReadsBad_iff {k : Core} {t : Nat} {p : Prod} : prodReadsBad k t p = true ↔
    (p.start = t ∧ ∃ o ∈ prodBs p.kind p.ob, Spec.rotten k .slot (9216 * o.val) 9216) ∨
    ∃ r < prodRows p.kind, p.start + prodFirst p.kind r = t ∧
      (Spec.rotten k .slot (9216 * p.oa.val + 128 * (r + prodRow0 p.kind)) 128 ∨
        Spec.rotten k .slot (9216 * p.oa.val + 8192 + 16 * (r + prodRow0 p.kind)) 16) := by
  have rows : prodReadsBad k t p =
      ((decide (p.start = t) && (prodBs p.kind p.ob).any fun o => dataBad k o.val 0 64 || sideBad k o.val 0 64) ||
      (List.range (prodRows p.kind)).any fun r => decide (p.start + prodFirst p.kind r = t) &&
        (dataBad k p.oa.val (prodRow0 p.kind + r) 1 || sideBad k p.oa.val (prodRow0 p.kind + r) 1)) := rfl
  rw [rows, Bool.or_eq_true, Bool.and_eq_true, decide_eq_true_eq, List.any_eq_true, List.any_eq_true]
  simp only [slotBad_iff]
  simp only [List.mem_range, Bool.and_eq_true, Bool.or_eq_true, decide_eq_true_eq, dataBad, sideBad, sramBad_iff, mul_one,
    Nat.add_comm (prodRow0 p.kind)]

/-- The side rows that `scacc` reads; `acnorm` reads none. -/
theorem foldReadsBad_iff {k : Core} {t : Nat} {f : Fold} : foldReadsBad k t f = true ↔
    ∃ ef acc pp oa ob kb, f.kind = .scacc ef acc pp oa ob kb ∧
      ((f.start = t ∧ Spec.rotten k .slot (9216 * ob.val + 8192) 1024) ∨
        ∃ i < 64, f.start + i / 16 = t ∧ Spec.rotten k .slot (9216 * oa.val + 8192 + 16 * i) 16) := by
  obtain ⟨kind, start, bSide, rows, next⟩ := f
  cases kind with
  | acnorm acc => simp [foldReadsBad]
  | scacc ef acc pp oa ob kb =>
    have reads : foldReadsBad k t ⟨.scacc ef acc pp oa ob kb, start, bSide, rows, next⟩ =
        ((decide (start = t) && sideBad k ob.val 0 64) ||
          (List.range 64).any fun i => decide (start + i / 16 = t) && sideBad k oa.val i 1) := rfl
    rw [reads, Bool.or_eq_true, Bool.and_eq_true, decide_eq_true_eq, List.any_eq_true]
    simp only [List.mem_range, Bool.and_eq_true, decide_eq_true_eq, sideBad, sramBad_iff, mul_one, mul_zero, add_zero]
    exact ⟨fun bad => ⟨_, _, _, _, _, _, rfl, bad⟩, fun ⟨_, _, _, _, _, _, same, bad⟩ => by cases same; exact bad⟩

/-- The rows of the plane that `scacc` reads. -/
theorem foldPlaneBad_iff {k : Core} {t : Nat} {f : Fold} : foldPlaneBad k t f = true ↔
    ∃ ef acc pp oa ob kb, f.kind = .scacc ef acc pp oa ob kb ∧
      ∃ i < 64, f.start + i / 16 = t ∧ Spec.rotten k .plane (16384 * pp.val + 256 * i) 256 := by
  obtain ⟨kind, start, bSide, rows, next⟩ := f
  cases kind with
  | acnorm acc => simp [foldPlaneBad]
  | scacc ef acc pp oa ob kb =>
    have reads : foldPlaneBad k t ⟨.scacc ef acc pp oa ob kb, start, bSide, rows, next⟩ =
        (List.range 64).any fun i => decide (start + i / 16 = t) && planeBad k pp.val i 1 := rfl
    rw [reads, List.any_eq_true]
    simp only [List.mem_range, Bool.and_eq_true, decide_eq_true_eq, planeBad, sramBad_iff, mul_one]
    exact ⟨fun bad => ⟨_, _, _, _, _, _, rfl, bad⟩, fun ⟨_, _, _, _, _, _, same, bad⟩ => by cases same; exact bad⟩

theorem scanReadsBad_iff {k : Core} {t : Nat} {x : Scan} : scanReadsBad k t x = true ↔
    x.start = t ∧ ((∃ r < x.n, Spec.rottenRow k x.acc.val r) ∨ Spec.rottenCy k x.acc.val ∨ Spec.rottenEx k x.acc.val) := by
  rw [scanReadsBad, Bool.and_eq_true, decide_eq_true_eq, Bool.or_eq_true, Bool.or_eq_true, rowBad_zero_iff, cyBad, exBad, sramBad_iff,
    sramBad_iff, or_assoc]
  rfl

/-! Where a unit reads such a word, the core has one. -/

section

variable {k : Core} {t : Nat}

theorem badWords_of_prodReadsBad {p : Prod} (bad : prodReadsBad k t p = true) : k.badWords ≠ [] := by
  rcases prodReadsBad_iff.1 bad with ⟨-, o, -, rotten⟩ | ⟨r, -, -, rotten | rotten⟩
  · exact badWords_of_rotten rotten
  · exact badWords_of_rotten rotten
  · exact badWords_of_rotten rotten

theorem badWords_of_foldReadsBad {f : Fold} (bad : foldReadsBad k t f = true) : k.badWords ≠ [] := by
  obtain ⟨ef, acc, pp, oa, ob, kb, -, ⟨-, rotten⟩ | ⟨i, -, -, rotten⟩⟩ := foldReadsBad_iff.1 bad
  · exact badWords_of_rotten rotten
  · exact badWords_of_rotten rotten

theorem badWords_of_foldPlaneBad {f : Fold} (bad : foldPlaneBad k t f = true) : k.badWords ≠ [] := by
  obtain ⟨ef, acc, pp, oa, ob, kb, -, i, -, -, rotten⟩ := foldPlaneBad_iff.1 bad
  exact badWords_of_rotten rotten

theorem badWords_of_scanReadsBad {x : Scan} (bad : scanReadsBad k t x = true) : k.badWords ≠ [] := by
  obtain ⟨-, ⟨r, -, rotten⟩ | rotten | rotten⟩ := scanReadsBad_iff.1 bad
  · exact badWords_of_rotten rotten
  · exact badWords_of_rotten rotten
  · exact badWords_of_rotten rotten

end

theorem raise_zero (c : Ctx) : raise c 0 = c := congrArg (fun f => { c with flags := f }) BitVec.or_zero

/-! ### Units that leave the engine (R227, R307) -/

/-- The core after units have left its engine as `m`: its fault stands after those of requests (log 56). -/
def unitsFailed (core : Nat) (own : Bool) (m : Mx) (s : State) : State :=
  setCore s core { getCore s core with
    mx := m, faults := (getCore s core).faults ++ [⟨3, s.nextReq, { cause := .dataerr, reason := 13 }, own⟩] }

section

variable {core : Nat} {own : Bool} {bad : Core → Mx → Mx} {s : State}

theorem failUnits_of_same (same : bad (getCore s core) (getCore s core).mx = (getCore s core).mx) : failUnits core own bad s = s := by
  unfold failUnits
  dsimp only
  rw [same, if_pos rfl]
  exact ite_self s

theorem failUnits_of_leave {m : Mx} (words : (getCore s core).badWords ≠ []) (leave : bad (getCore s core) (getCore s core).mx = m)
    (changed : m ≠ (getCore s core).mx) : failUnits core own bad s = unitsFailed core own m s := by
  unfold failUnits
  dsimp only
  rw [leave, if_neg (mt List.isEmpty_iff.1 words), if_neg changed]
  rfl

/-- The reads of a unit change its engine only. -/
theorem onMx_zero (f : Core → Mx) :
    onMx core (fun k => (f k, 0)) s = setCore s core { getCore s core with mx := f (getCore s core) } := by
  rw [onMx]
  dsimp only
  rw [raise_zero]

theorem onMx_unitsFailed {m : Mx} {f : Core → Mx} (idle : ∀ k : Core, k.mx = m → f k = m) :
    onMx core (fun k => (f k, 0)) (unitsFailed core own m s) = unitsFailed core own m s := by
  rw [onMx_zero, unitsFailed, getCore_setCore, setCore_setCore, idle _ rfl]

end

/-! ### What the units read (R152, R153, R180) -/

/-- Entries put one after the other, where a condition holds. -/
theorem smGet_foldl_smPut {α : Type} (c : Nat → Prop) [DecidablePred c] (v : Nat → α) (m : SMap α) (n r : Nat) :
    smGet ((List.range n).foldl (fun m r => if c r then smPut m r (v r) else m) m) r =
      if r < n ∧ c r then some (v r) else smGet m r := by
  induction n with
  | zero => simp
  | succ n ih =>
    rw [List.range_succ, List.foldl_append, List.foldl_cons, List.foldl_nil]
    by_cases last : r = n
    · subst last
      split
      · rename_i holds
        rw [smGet_smPut, if_pos ⟨by omega, holds⟩]
      · rename_i fails
        rw [ih, if_neg (by omega), if_neg fun h => fails h.2]
    · have before : (r < n ∧ c r) ↔ (r < n + 1 ∧ c r) := and_congr_left fun _ => by omega
      rw [← if_congr before rfl rfl, ← ih]
      split
      · exact smGet_smPut_ne _ _ last
      · rfl

theorem eq_of_getElem?_map {α β : Type} {f : α → β} {l : List α} {n : Nat} {x : α} {y : β} (at_ : l[n]? = some x)
    (of : (l.map f)[n]? = some y) : y = f x := by
  rw [List.getElem?_map, at_] at of
  exact (Option.some.inj of).symm

section

variable (d : MxData) (t : Nat) (p : Prod)

theorem prodReads_keeps : let q := prodReads d t p
    q.kind = p.kind ∧ q.oa = p.oa ∧ q.ob = p.ob ∧ q.start = p.start ∧ q.next = p.next := by
  by_cases first : p.start = t <;> simp [prodReads, first]

/-- The rows of B, at the start (R152). -/
theorem prodReads_rowsB_of_start (first : p.start = t) {i : Nat} (lt : i < 64) :
    (prodReads d t p).bRows.getD i 0 = dataRow d p.ob.val i ∧ (prodReads d t p).bSide.getD i 0 = sideRow d p.ob.val i := by
  simp only [prodReads, if_pos first]
  refine ⟨?_, map_range_getD _ _ lt⟩
  rw [List.getD_append _ _ _ _ (by simpa using lt), map_range_getD _ _ lt]

theorem prodReads_rowsB_of_not_start (later : p.start ≠ t) :
    (prodReads d t p).bRows = p.bRows ∧ (prodReads d t p).bSide = p.bSide := by
  simp only [prodReads, if_neg later, and_self]

/-- The rows of A, each at its first beat (R152). -/
theorem prodReads_rowsA {r : Nat} (lt : r < prodRows p.kind) :
    smGet (prodReads d t p).aRows r = if p.start + prodFirst p.kind r = t
      then some (dataRow d p.oa.val (r + prodRow0 p.kind), sideRow d p.oa.val (r + prodRow0 p.kind)) else smGet p.aRows r := by
  have rows : (prodReads d t p).aRows = (List.range (prodRows p.kind)).foldl (fun m r =>
      if p.start + prodFirst p.kind r = t
        then smPut m r (dataRow d p.oa.val (prodRow0 p.kind + r), sideRow d p.oa.val (prodRow0 p.kind + r)) else m) p.aRows := by
    by_cases first : p.start = t
    · simp only [prodReads, if_pos first]
      rfl
    · simp only [prodReads, if_neg first]
      rfl
  rw [rows, smGet_foldl_smPut (fun r => p.start + prodFirst p.kind r = t) _ _ _ r, Nat.add_comm r]
  exact if_congr (and_iff_right lt) rfl rfl

end

section

variable (d : MxData) (t : Nat) (f : Fold)

theorem foldReads_keeps : let q := foldReads d t f
    q.kind = f.kind ∧ q.start = f.start ∧ q.next = f.next := by
  obtain ⟨kind, start, bSide, rows, next⟩ := f
  cases kind with
  | acnorm acc => exact ⟨rfl, rfl, rfl⟩
  | scacc ef acc pp oa ob kb => by_cases first : start = t <;> simp [foldReads, first]

variable {ef : EF} {acc : Fin 4} {pp : Fin 2} {oa ob : Fin 24} {kb : Nat} (kind : f.kind = .scacc ef acc pp oa ob kb)
include kind

/-- The side rows of B, at the start (R153). -/
theorem foldReads_side (first : f.start = t) {i : Nat} (lt : i < 64) : (foldReads d t f).bSide.getD i 0 = sideRow d ob.val i := by
  simp only [foldReads, kind, if_pos first]
  exact map_range_getD _ _ lt

/-- The rows of the plane with the side rows of A, sixteen in a beat (R153). -/
theorem foldReads_rows {i : Nat} (lt : i < 64) : smGet (foldReads d t f).rows i =
    if f.start + i / 16 = t then some (planeRow d pp.val i, sideRow d oa.val i) else smGet f.rows i := by
  have rows : (foldReads d t f).rows = (List.range 64).foldl (fun m i =>
      if f.start + i / 16 = t then smPut m i (planeRow d pp.val i, sideRow d oa.val i) else m) f.rows := by
    by_cases first : f.start = t
    · simp only [foldReads, kind, if_pos first]
    · simp only [foldReads, kind, if_neg first]
  rw [rows, smGet_foldl_smPut (fun i => f.start + i / 16 = t) _ _ _ i]
  exact if_congr (and_iff_right lt) rfl rfl

end

theorem scanReads_eq (d : MxData) (t : Nat) (x : Scan) : scanReads d t x = { x with input := if x.start = t
    then (some ((List.range x.n).map (tileRow (tileOf d x.acc)), (tileOf d x.acc).cy, (tileOf d x.acc).ex)) else x.input } := by
  unfold scanReads
  split <;> rfl

/-! ### The cycles of the units -/

section

variable {α : Type} {bad : α → Bool}

theorem filter_good {l : List α} (good : ∀ x ∈ l, ¬bad x = true) : (l.filter fun x => !bad x) = l :=
  List.filter_eq_self.2 fun x mem => by rw [eq_false_of_ne_true (good x mem)]; rfl

theorem filter_bad {x : α} (rotten : bad x = true) : ([x].filter fun x => !bad x) = [] :=
  List.filter_eq_nil_iff.2 fun y mem => by rw [List.mem_singleton.1 mem, rotten]; exact Bool.false_ne_true

end

section

variable {core : Nat} {s : State}

theorem exec_productStart_of_bad {p : Prod} (only : (getCore s core).mx.prods = [p])
    (bad : prodReadsBad (getCore s core) (getCore s core).ctx.bc p = true) :
    exec (.productStart core) s = .next (unitsFailed core true { (getCore s core).mx with prods := [] } s) := by
  show execProductStart core s = _
  rw [execProductStart, failUnits_of_leave (badWords_of_prodReadsBad bad) (by rw [only, filter_bad bad])
    fun same => List.cons_ne_nil p [] (only ▸ (congrArg Mx.prods same).symm), onMx_unitsFailed fun k mx => by rw [mx]; rfl]

theorem exec_productStart_of_good
    (good : ∀ p ∈ (getCore s core).mx.prods, ¬prodReadsBad (getCore s core) (getCore s core).ctx.bc p = true) :
    exec (.productStart core) s = .next (setCore s core { getCore s core with mx := { (getCore s core).mx with
      prods := (getCore s core).mx.prods.map (prodReads (getCore s core).mx.now (getCore s core).ctx.bc) } }) := by
  show execProductStart core s = _
  rw [execProductStart, failUnits_of_same (by rw [filter_good good]), onMx_zero]

theorem exec_foldStart_of_badSide {f : Fold} (only : (getCore s core).mx.folds = [f])
    (bad : foldReadsBad (getCore s core) (getCore s core).ctx.bc f = true) :
    exec (.foldStart core) s = .next (unitsFailed core true { (getCore s core).mx with folds := [] } s) := by
  show execFoldStart core s = _
  rw [execFoldStart, failUnits_of_leave (badWords_of_foldReadsBad bad) (by rw [only, filter_bad bad])
    fun same => List.cons_ne_nil f [] (only ▸ (congrArg Mx.folds same).symm),
    failUnits_of_same (by rw [unitsFailed, getCore_setCore]; rfl), onMx_unitsFailed fun k mx => by rw [mx]; rfl]

theorem exec_foldStart_of_badPlane {f : Fold} (only : (getCore s core).mx.folds = [f])
    (good : ¬foldReadsBad (getCore s core) (getCore s core).ctx.bc f = true)
    (bad : foldPlaneBad (getCore s core) (getCore s core).ctx.bc f = true) :
    exec (.foldStart core) s = .next (unitsFailed core false { (getCore s core).mx with folds := [] } s) := by
  show execFoldStart core s = _
  rw [execFoldStart, failUnits_of_same (own := true) (by rw [filter_good (by rw [only]; exact List.forall_mem_singleton.2 good)]),
    failUnits_of_leave (badWords_of_foldPlaneBad bad) (by rw [only, filter_bad bad])
    fun same => List.cons_ne_nil f [] (only ▸ (congrArg Mx.folds same).symm), onMx_unitsFailed fun k mx => by rw [mx]; rfl]

theorem exec_foldStart_of_good
    (good : ∀ f ∈ (getCore s core).mx.folds, ¬foldReadsBad (getCore s core) (getCore s core).ctx.bc f = true)
    (goodPlane : ∀ f ∈ (getCore s core).mx.folds, ¬foldPlaneBad (getCore s core) (getCore s core).ctx.bc f = true) :
    exec (.foldStart core) s = .next (setCore s core { getCore s core with mx := { (getCore s core).mx with
      folds := (getCore s core).mx.folds.map (foldReads (getCore s core).mx.now (getCore s core).ctx.bc) } }) := by
  show execFoldStart core s = _
  rw [execFoldStart, failUnits_of_same (own := true) (by rw [filter_good good]),
    failUnits_of_same (by rw [filter_good goodPlane]), onMx_zero]

theorem exec_scanStart_of_bad {x : Scan} (only : (getCore s core).mx.scans = [x])
    (bad : scanReadsBad (getCore s core) (getCore s core).ctx.bc x = true) :
    exec (.scanStart core) s = .next (unitsFailed core true { (getCore s core).mx with scans := [] } s) := by
  show execScanStart core s = _
  rw [execScanStart, failUnits_of_leave (badWords_of_scanReadsBad bad) (by rw [only, filter_bad bad])
    fun same => List.cons_ne_nil x [] (only ▸ (congrArg Mx.scans same).symm), onMx_unitsFailed fun k mx => by rw [mx]; rfl]

theorem exec_scanStart_of_good
    (good : ∀ x ∈ (getCore s core).mx.scans, ¬scanReadsBad (getCore s core) (getCore s core).ctx.bc x = true) :
    exec (.scanStart core) s = .next (setCore s core { getCore s core with mx := { (getCore s core).mx with
      scans := (getCore s core).mx.scans.map (scanReads (getCore s core).mx.now (getCore s core).ctx.bc) } }) := by
  show execScanStart core s = _
  rw [execScanStart, failUnits_of_same (by rw [filter_good good]), onMx_zero]

end

/-- Settles O30: each unit reads its rows in the cycles of R152, R153 and R180, or leaves the engine with a fault. -/
theorem matrixReads : Obligations.MatrixReads := by
  unfold Obligations.MatrixReads
  intro core s k d t badProd badSide badPlane badScan fails
  have prod : ∀ p, prodReadsBad k t p = true ↔ badProd p := fun p => prodReadsBad_iff
  have side : ∀ f, foldReadsBad k t f = true ↔ badSide f := fun f => foldReadsBad_iff
  have plane : ∀ f, foldPlaneBad k t f = true ↔ badPlane f := fun f => foldPlaneBad_iff
  have scan : ∀ x, scanReadsBad k t x = true ↔ badScan x := fun x => scanReadsBad_iff
  refine ⟨fun p only bad => exec_productStart_of_bad only ((prod p).2 bad), fun f only =>
    ⟨fun bad => exec_foldStart_of_badSide only ((side f).2 bad), fun good bad =>
      exec_foldStart_of_badPlane only (mt (side f).1 good) ((plane f).2 bad)⟩,
    fun x only bad => exec_scanStart_of_bad only ((scan x).2 bad), fun good => ?products, fun good => ?folds, fun good => ?scans⟩
  case products =>
    refine ⟨_, exec_productStart_of_good fun p mem => mt (prod p).1 (good p mem), List.length_map _, fun n p q at_ of => ?_⟩
    rw [eq_of_getElem?_map at_ of]
    obtain ⟨kind, oa, ob, start, next⟩ := prodReads_keeps d t p
    exact ⟨kind, oa, ob, start, next, fun first i lt => prodReads_rowsB_of_start d t p first lt, prodReads_rowsB_of_not_start d t p,
      fun r lt => prodReads_rowsA d t p lt⟩
  case folds =>
    refine ⟨_, exec_foldStart_of_good (fun f mem => mt (side f).1 (good f mem).1) (fun f mem => mt (plane f).1 (good f mem).2),
      List.length_map _, fun n f q at_ of => ?_⟩
    rw [eq_of_getElem?_map at_ of]
    obtain ⟨kind, start, next⟩ := foldReads_keeps d t f
    exact ⟨kind, start, next, fun ef acc pp oa ob kb scacc => ⟨fun first i lt => foldReads_side d t f scacc first lt, fun i lt =>
      foldReads_rows d t f scacc lt⟩⟩
  case scans =>
    refine ⟨_, exec_scanStart_of_good fun x mem => mt (scan x).1 (good x mem), List.length_map _, fun n x q at_ of => ?_⟩
    rw [eq_of_getElem?_map at_ of, scanReads_eq]
    rfl

end Sys2Proof.Machine
end

section
/-! Proofs of the family of spec/08: tiles through the access port, and `MPC` (O28). -/

namespace Sys2Proof.Machine

/-! ### Words that a write covers, and words that an access reads (R307) -/

theorem sramGood_eq_covers (m : Sram) (lo n : Nat) (k : Core) : sramGood m lo n k = Spec.covers m lo n k := by
  have kept : ∀ w : Sram × Nat, (!(w.1 == m && decide (lo ≤ w.2 * 8) && decide (w.2 * 8 + 8 ≤ lo + n))) =
      decide (¬(w.1 = m ∧ lo ≤ 8 * w.2 ∧ 8 * w.2 + 8 ≤ lo + n)) := fun w => by
    rw [Nat.mul_comm 8, decide_not, Bool.decide_and, Bool.decide_and, Bool.and_assoc]
    rfl
  rw [sramGood, Spec.covers, ← funext kept]

section

variable {k : Core} {acc row : Nat} {part : AcSel}

/-- What `acrd` of a part reads (R164): its row, and the exponents where it is read on the column grids. -/
theorem acReadsBad_iff : (rowBad k acc row 1 || (acGrid part && exBad k acc)) = true ↔
    Spec.rottenRow k acc row ∨ ((part = .f32 ∨ part = .gf32) ∧ Spec.rottenEx k acc) := by
  rw [Bool.or_eq_true, Bool.and_eq_true, acGrid, Bool.or_eq_true, beq_iff_eq, beq_iff_eq, rowBad, exBad, sramBad_iff, sramBad_iff]
  rfl

theorem acMerges_iff : acMerges part = true ↔ ¬(part = .f64lo ∨ part = .f64hi) := by
  rw [acMerges, Bool.not_eq_true', ← Bool.not_eq_true, Bool.or_eq_true, beq_iff_eq, beq_iff_eq]

end

/-! ### How the instructions complete (R154, R155) -/

/-- An instruction of the M slot that changes its context besides the flags (R162). -/
theorem engine_of_issueM_of_flags {i : Instr} {s : State} {g : Guard} {void : Ctx → Bool} {check : State → Core → Option Stop}
    {act : State → Core → Core × Flags} (row : exec i s = settle s (issueM g void check act s)) {k : Core} {f : Flags}
    (passes : check s (cur s) = none) (acts : act s (cur s) = (k, f)) (keeps : k.ctx.flags = (curCtx s).flags) :
    Spec.engine g i s (void (curCtx s)) k f := by
  unfold Spec.engine
  split
  · rename_i on
    have on : guardOn (cur s).ctx g = true := on
    refine ⟨_, readFlags_noteVoid .., row.trans ?_⟩
    rw [issueM, if_pos on, passes, acts]
    simp only [settle_ok, raise, noteVoid, keeps]
    rfl
  · rename_i off
    exact onlyReads_of_issueM row (eq_false_of_ne_true off)

/-- A write of `F64` entries covers half a row; any other merges with it (R165). -/
def acCovers (part : AcSel) (acc : Fin 4) (row : Fin 64) (k : Core) : Core :=
  if acMerges part then k else sramGood .tile (49152 * acc.val + 768 * row.val + if part = .f64hi then 384 else 0) 384 k

theorem acCovers_eq (part : AcSel) (acc : Fin 4) (row : Fin 64) (k : Core) : acCovers part acc row k =
    if part = .f64lo ∨ part = .f64hi
      then Spec.covers .tile (49152 * acc.val + 768 * row.val + if part = .f64hi then 384 else 0) 384 k else k := by
  rw [acCovers, sramGood_eq_covers]
  exact (if_congr acMerges_iff rfl rfl).trans (ite_not ..)

theorem acCovers_ctx (part : AcSel) (acc : Fin 4) (row : Fin 64) (k : Core) : (acCovers part acc row k).ctx = k.ctx := by
  unfold acCovers
  split <;> rfl

/-- The check of `acwr` in the order of R156, and after it the words that it merges with. -/
def acwrCheck (part : AcSel) (acc : Fin 4) (row : Fin 64) (k : Core) : Option Stop :=
  orBad (acMerges part && (rowBad k acc.val row.val 1 || (acGrid part && exBad k acc.val)))
    (mCheck false (!acMode part (tileOf k.mx.now acc)) (inWindow k.mx acc k.ctx.bc))

/-- What `acwr` does to the core. -/
def acwrAct (part : AcSel) (acc : Fin 4) (row : Fin 64) (a : VOp) (k : Core) : Core × Flags :=
  let was := Spec.made k
  let r := acWrite part row.val (valV k.ctx a) (tileOf was acc)
  (acCovers part acc row (Spec.wrote k { was with tiles := was.tiles.set acc.val { r.1 with used := true } }), r.2)

/-- `acwr` as an instruction of the M slot. -/
theorem exec_acwr (g : Guard) (part : AcSel) (acc : Fin 4) (row : Fin 64) (a : VOp) (s : State) : exec (.acwr g part acc row a) s =
    settle s (issueM g (fun c => voidV c a) (fun _ k => acwrCheck part acc row k) (fun _ k => acwrAct part acc row a k) s) := by
  show settle s (issueAcwr g part acc row a s) = _
  congr 1
  rw [issueAcwr, issueTile, issueM, issueM]
  by_cases on : guardOn (cur s).ctx g = true
  · have held : guardOn (curCtx s) g = true := on
    simp only [if_pos on]
    cases stops : acwrCheck part acc row (cur s) with
    | some e =>
      have stops : orBad _ _ = some e := stops
      rw [stops]
    | none =>
      have passes : orBad _ _ = none := stops
      rw [passes]
      simp only [held, Bool.not_true, Bool.false_eq_true, or_false, cur_setCur, setCur_setCur, acwrAct, acCovers]
      split <;> rfl
  · have off : guardOn (curCtx s) g = false := eq_false_of_ne_true on
    simp only [if_neg on, off, Bool.not_false, or_true, if_true]

/-! ### The parts that `acwr` writes (R165) -/

/-- The half of a row that a part names, and whether an entry lies in it. -/
def acHigh (part : AcSel) : Bool := match part with | .bm0 | .gm0 | .f64lo => false | _ => true
def inHalf (hi : Bool) (j : Nat) : Bool := if hi then decide (32 ≤ j) else decide (j < 32)

/-- Whether a part of a row's mantissas is one of gains. -/
def acGain (part : AcSel) : Bool := part == .gm0 || part == .gm1

theorem acGain_true_iff {part : AcSel} : acGain part = true ↔ part = .gm0 ∨ part = .gm1 := by
  rw [acGain, Bool.or_eq_true, beq_iff_eq, beq_iff_eq]

theorem acGain_false_iff {part : AcSel} (mantissa : part = .bm0 ∨ part = .bm1 ∨ part = .gm0 ∨ part = .gm1) :
    acGain part = false ↔ part = .bm0 ∨ part = .bm1 := by
  rcases mantissa with rfl | rfl | rfl | rfl <;> decide

theorem inHalf_iff {hi : Bool} {j : Nat} : inHalf hi j = true ↔ if hi then 32 ≤ j else j < 32 := by
  cases hi <;> simp [inHalf]

theorem acWrite_mantissas {part : AcSel} (mantissa : part = .bm0 ∨ part = .bm1 ∨ part = .gm0 ∨ part = .gm1) (row : Nat) (v : VWord)
    (t : Tile) : let m := manSet (acGain part) (acHigh part) v (tileRow t row)
    acWrite part row v t = (setRow t row m.1, m.2) := by
  rcases mantissa with rfl | rfl | rfl | rfl <;> rfl

theorem acWrite_f64 {part : AcSel} (f64 : part = .f64lo ∨ part = .f64hi) (row : Nat) (v : VWord) (t : Tile) :
    let m := f64Set (acHigh part) v (tileRow t row)
    acWrite part row v t = (setRow t row m.1, m.2) := by
  rcases f64 with rfl | rfl <;> rfl

theorem acWrite_grid {part : AcSel} (grid : part = .f32 ∨ part = .gf32) (row : Nat) (v : VWord) (t : Tile) :
    let r := tileWrite (part == .gf32) (fun i j => if i = row then some (f32Dy v j) else none) t
    acWrite part row v t = (r.1, r.2 ||| f32Bad v) := by
  rcases grid with rfl | rfl <;> rfl

/-- A write of one row leaves the others. -/
theorem tileRow_setRow_ne (t : Tile) {row i : Nat} (r : List (BitVec 96)) (other : i ≠ row) : tileRow (setRow t row r) i = tileRow t i :=
  (tileRow_setRow ..).trans (if_neg other)

theorem tileRow_setRow_same (t : Tile) (row : Nat) (r : List (BitVec 96)) : tileRow (setRow t row r) row = r :=
  (tileRow_setRow ..).trans (if_pos rfl)

/-- The mantissa of a lane of 64 bits, clamped (R165). -/
def manOf (v : VWord) (j : Nat) : Int := (v.extractLsb' (64 * (j % 32)) 64).toInt
def manClamp (x : Int) : Int := max (-(2 ^ 47 - 1)) (min x (2 ^ 47 - 1))

/-- The entries of half a row whose gains or offsets come from a vector: either part of each. -/
theorem manSet_part (gain hi which : Bool) (v : VWord) {r : List (BitVec 96)} (len : r.length = 64) {j : Nat} (lt : j < 64) :
    entPart which ((manSet gain hi v r).1.getD j 0) =
      if inHalf hi j = true ∧ gain = which then manClamp (manOf v j) else entPart which (r.getD j 0) := by
  obtain ⟨own, other⟩ := manSet_parts gain hi v len lt
  by_cases same : gain = which
  · subst same
    exact own.trans (if_congr (inHalf_iff.symm.trans (and_iff_left rfl).symm) rfl rfl)
  · have which_eq : which = !gain := by cases gain <;> cases which <;> simp at *
    rw [if_neg fun both => same both.2, which_eq]
    exact other

theorem satInt_flags (x : Int) : (satInt x (-manMax) manMax).2 = if (manClamp x != x) = true then fSAT else 0 := by
  have clamps : (manClamp x != x) = true ↔ x < -manMax ∨ manMax < x := by
    rw [bne_iff_ne, manClamp, manMax_eq]
    omega
  rw [satInt]
  split
  · rename_i below
    exact (if_pos (clamps.2 (.inl below))).symm
  · rename_i notBelow
    split
    · rename_i above
      exact (if_pos (clamps.2 (.inr above))).symm
    · rename_i notAbove
      exact (if_neg fun clamped => (clamps.1 clamped).elim notBelow notAbove).symm

theorem flagsOf_ite (n : Nat) (p : Nat → Bool) (f : Flags) :
    Spec.flagsOf n (fun j => if p j = true then f else 0) = if (List.range n).any p = true then f else 0 := by
  have list : ∀ l : List Nat, l.foldr (fun j m => (if p j = true then f else 0) ||| m) 0 = if l.any p = true then f else 0 := fun l => by
    induction l with
    | nil => rfl
    | cons j l ih =>
      rw [List.foldr_cons, ih, List.any_cons]
      cases p j <;> cases l.any p <;> simp
  exact list _

/-- The entries of a half stand for the lanes of the vector. -/
theorem any_inHalf (hi : Bool) (p : Nat → Bool) :
    ((List.range 64).any fun j => inHalf hi j && p (j % 32)) = (List.range 32).any p := by
  rw [Bool.eq_iff_iff, List.any_eq_true, List.any_eq_true]
  simp only [List.mem_range, Bool.and_eq_true, inHalf_iff]
  constructor
  · rintro ⟨j, -, -, holds⟩
    exact ⟨j % 32, Nat.mod_lt _ (by omega), holds⟩
  · rintro ⟨j, lt, holds⟩
    cases hi
    · exact ⟨j, by omega, lt, by rwa [Nat.mod_eq_of_lt lt]⟩
    · exact ⟨j + 32, by omega, Nat.le_add_left .., by rwa [Nat.add_mod_right, Nat.mod_eq_of_lt lt]⟩

/-- `SAT` where a mantissa is clamped (R165). -/
theorem manSet_flags (gain hi : Bool) (v : VWord) (r : List (BitVec 96)) : (manSet gain hi v r).2 =
    if ((List.range 64).any fun j => inHalf hi j && manClamp (manOf v j) != manOf v j) = true then fSAT else 0 := by
  have lane : ∀ j < 32, sInt 64 (v.toNat / 2 ^ (64 * j) % 2 ^ 64) = manOf v j := fun j lt => by
    rw [sInt_mod, sInt_high, manOf, Nat.mod_eq_of_lt lt]
  have lanes : ((lanesOf 64 32 v.toNat).map fun x => satInt (sInt 64 x) (-manMax) manMax) =
      (List.range 32).map fun j => satInt (manOf v j) (-manMax) manMax := by
    rw [lanesOf_eq_map, List.map_map]
    exact List.map_congr_left fun j mem => congrArg (satInt · (-manMax) manMax) (lane j (List.mem_range.1 mem))
  have wraps : ∀ j, manOf v (j % 32) = manOf v j := fun j => by rw [manOf, manOf, Nat.mod_mod]
  have halves := any_inHalf hi fun j => manClamp (manOf v j) != manOf v j
  simp only [wraps] at halves
  rw [halves, manSet, lanes]
  dsimp only
  rw [foldl_or_map_range Prod.snd, funext fun j => satInt_flags (manOf v j), flagsOf_ite]

/-- Half of a row replaced. -/
theorem half_getD (hi : Bool) {put r : List (BitVec 96)} (size : put.length = 32) (len : r.length = 64) {j : Nat} (lt : j < 64) :
    (if hi then r.take 32 ++ put else put ++ r.drop 32).getD j 0 = if inHalf hi j = true then put.getD (j % 32) 0 else r.getD j 0 := by
  have low : (r.take 32).length = 32 := by simp [len]
  simp only [List.getD_eq_getElem?_getD]
  cases hi
  · rw [if_neg Bool.false_ne_true]
    split
    · rename_i below
      have below : j < 32 := inHalf_iff.1 below
      rw [List.getElem?_append_left (by rw [size]; exact below), Nat.mod_eq_of_lt below]
    · rename_i above
      have above : ¬j < 32 := fun below => above (inHalf_iff.2 below)
      rw [List.getElem?_append_right (by rw [size]; omega), size, List.getElem?_drop, Nat.add_sub_cancel' (by omega)]
  · rw [if_pos rfl]
    split
    · rename_i above
      have above : 32 ≤ j := inHalf_iff.1 above
      rw [List.getElem?_append_right (by rw [low]; exact above), low, show j % 32 = j - 32 by omega]
    · rename_i below
      have below : ¬32 ≤ j := fun above => below (inHalf_iff.2 above)
      rw [List.getElem?_append_left (by rw [low]; omega), List.getElem?_take_of_lt (by omega)]

/-- `F64` entries from a vector: any NaN becomes the canonical one (R165, log 26). -/
theorem f64Set_getD (hi : Bool) (v : VWord) {r : List (BitVec 96)} (len : r.length = 64) {j : Nat} (lt : j < 64) :
    (f64Set hi v r).1.getD j 0 = if inHalf hi j = true
      then BitVec.ofNat 96 (if isNan .f64 (Spec.lane 64 v (j % 32)) then codeNan .f64 else Spec.lane 64 v (j % 32)) else r.getD j 0 := by
  have code : ∀ x, (f64Lane x).1 = if isNan .f64 x then codeNan .f64 else x := fun x => by
    rw [f64Lane]
    split <;> rfl
  have puts : (((lanesOf 64 32 v.toNat).map f64Lane).map fun c => BitVec.ofNat 96 c.1) =
      (List.range 32).map fun n => BitVec.ofNat 96 (f64Lane (Spec.lane 64 v n)).1 := by
    rw [lanesOf_eq_map, List.map_map, List.map_map]
    rfl
  rw [f64Set]
  dsimp only
  rw [puts, half_getD hi (by simp) len lt, map_range_getD _ _ (Nat.mod_lt _ (by omega)), code]

/-! ### The reads of entries and exponents (R164, R166) -/

theorem entryLanes_eq {l : List (BitVec 96)} {y : Nat → BitVec 96} (list : l = (List.range 32).map y) :
    BitVec.ofNat 2048 (ofLanes 64 (l.map (·.toNat))) = Spec.vec 64 32 fun j => ((y j).toNat : Int) := by
  rw [list, List.map_map]
  exact ofNat_ofLanes 64 32 _ _ fun j _ => by push_cast; rfl

theorem exLanes_eq (v : VWord) :
    (lanesOf 32 64 v.toNat).map (BitVec.ofNat 32) = (List.range 64).map fun j => v.extractLsb' (32 * j) 32 := by
  rw [lanesOf_eq_map, List.map_map]
  refine List.map_congr_left fun j _ => BitVec.eq_of_toNat_eq ?_
  simp [Nat.shiftRight_eq_div_pow]

/-! ### The instructions (R162 to R166) -/

section

variable {part : AcSel} {acc : Fin 4} {row : Fin 64} {s : State}

theorem mode_iff : acMode part (tileOf (cur s).mx.now acc) = true ↔
    ((cur s).mx.now.tiles.getD acc.val {}).f64 = (part == .f64lo || part == .f64hi) := beq_iff_eq

theorem acwrCheck_of_wrong (wrong : acMode part (tileOf (cur s).mx.now acc) = false) :
    acwrCheck part acc row (cur s) = some (mStop .oslot) := by
  rw [acwrCheck, wrong]
  rfl

variable (right : acMode part (tileOf (cur s).mx.now acc) = true)
include right

theorem acwrCheck_of_window (window : inWindow (cur s).mx acc (cur s).ctx.bc = true) :
    acwrCheck part acc row (cur s) = some (mStop .timing) := by
  rw [acwrCheck, right, window]
  rfl

theorem acwrCheck_of_clear (clear : inWindow (cur s).mx acc (cur s).ctx.bc = false) : acwrCheck part acc row (cur s) =
    orBad (acMerges part && (rowBad (cur s) acc.val row.val 1 || (acGrid part && exBad (cur s) acc.val))) none := by
  rw [acwrCheck, right, clear]
  rfl

end

/-- Settles O28: `mzero`, the reads and writes of tiles and exponents, and `mdpc`. -/
theorem tileAccess : Obligations.TileAccess := by
  unfold Obligations.TileAccess
  intro g d acc row part f64 a b s k c t was u v R B G EB EG put f32 mode clash isF64 bad badW keeps
  have low : B = entPart false := entBM_eq.symm
  have high : G = entPart true := entGM_eq.symm
  have lowEx : EB = exPart false := funext fun x => (exB_eq x).symm
  have highEx : EG = exPart true := funext fun x => (exG_eq x).symm
  have modeIff : acMode part (tileOf (cur s).mx.now acc) = true ↔ mode := mode_iff
  have badIff : (rowBad k acc.val row.val 1 || (acGrid part && exBad k acc.val)) = true ↔ bad := acReadsBad_iff
  have badWIff : (acMerges part && (rowBad k acc.val row.val 1 || (acGrid part && exBad k acc.val))) = true ↔ badW := by
    rw [Bool.and_eq_true, acMerges_iff, badIff]
  have keepsEq : ∀ m, keeps m = acCovers part acc row m := fun m => (acCovers_eq part acc row m).symm
  have zero : exec (.mzero g f64 acc) s = settle s (issueMzero g f64 acc s) := rfl
  have read : exec (.acrd g d part acc row) s = settle s (issueAcrd g d part acc row s) := rfl
  have readEx : exec (.acexpRd g d acc) s = settle s (issueAcexpRd g d acc s) := rfl
  have write := exec_acwr g part acc row a s
  have writeEx : exec (.acexpWr g acc a) s = settle s (issueAcexpWr g acc a s) := rfl
  refine ⟨fun clashes on => ?zeroTiming, fun clear => ?zero, fun wrong => ?oslot, fun right window => ?timing, fun off => ?off,
    fun right rotten => ?badRead, fun right clear rotten => ?badWrite, fun rotten => ?badEx, fun right good len len' => ?reads,
    fun right clear good len => ?writes, fun good => ?readEx, fun window on => ?exTiming, fun clear => ?writeEx, ?mdpc⟩
  case zeroTiming =>
    have clashes : (landsOnTile (cur s).mx acc (cur s).ctx.bc || inWindow (cur s).mx acc (cur s).ctx.bc) = true := clashes
    exact stop_of_issueM zero on (by rw [clashes]; rfl)
  case zero =>
    have clear : (landsOnTile (cur s).mx acc (cur s).ctx.bc || inWindow (cur s).mx acc (cur s).ctx.bc) = false := clear
    simp only [← sramGood_eq_covers]
    exact engine_of_issueM zero (by rw [clear]; rfl) rfl rfl
  case oslot =>
    have wrong : acMode part (tileOf (cur s).mx.now acc) = false := eq_false_of_ne_true (mt modeIff.1 wrong)
    exact ⟨fun on => stop_of_issueMv read on (by rw [wrong]; rfl), fun on => stop_of_issueM write on (acwrCheck_of_wrong wrong)⟩
  case timing => exact fun on => stop_of_issueM write on (acwrCheck_of_window (modeIff.2 right) window)
  case off =>
    have noRead : ¬guardOn (cur s).ctx g = true := ne_true_of_eq_false off
    exact ⟨resultV_of_off off (resultV_of_issueMv read (fun on => absurd on noRead) rfl),
      resultV_of_off off (resultV_of_issueMv readEx (fun on => absurd on noRead) rfl), onlyReads_of_issueM write off⟩
  case badRead =>
    exact fun on => stop_of_issueMv read on (by rw [modeIff.2 right]; exact orBad_none (badIff.2 rotten))
  case badWrite =>
    exact fun on => stop_of_issueM write on ((acwrCheck_of_clear (modeIff.2 right) clear).trans (orBad_none (badWIff.2 rotten)))
  case badEx => exact fun on => stop_of_issueMv readEx on (orBad_none ((sramBad_iff ..).2 rotten))
  case reads =>
    have passes : orBad (rowBad (cur s) acc.val row.val 1 || (acGrid part && exBad (cur s) acc.val))
        (mCheck false (!acMode part (tileOf (cur s).mx.now acc)) false) = none := by
      rw [modeIff.2 right, eq_false_of_ne_true (mt badIff.1 good)]
      rfl
    have lands : ∀ {v : VWord} {f : Flags}, acRead part (tileOf (cur s).mx.now acc) row.val = (v, f) →
        Spec.resultV g (.acrd g d part acc row) s false 3 6 d v f := fun value => resultV_of_issueMv read (fun _ => passes) value
    rw [low, high, lowEx, highEx]
    cases part
    case bm0 => exact lands (manLanes_eq false (take_eq_map 0 len))
    case bm1 => exact lands (manLanes_eq false (drop_eq_map 0 len))
    case gm0 => exact lands (manLanes_eq true (take_eq_map 0 len))
    case gm1 => exact lands (manLanes_eq true (drop_eq_map 0 len))
    case f32 => exact lands (f32Lanes_eq false len len')
    case gf32 => exact lands (f32Lanes_eq true len len')
    case f64lo => exact lands (Prod.ext (entryLanes_eq (take_eq_map 0 len)) rfl)
    case f64hi => exact lands (Prod.ext (entryLanes_eq (drop_eq_map 0 len)) rfl)
  case writes =>
    intro S half clamp
    have passes : acwrCheck part acc row (cur s) = none := by
      rw [acwrCheck_of_clear (modeIff.2 right) clear, eq_false_of_ne_true (mt badWIff.1 good)]
      rfl
    have inHalfEq : half = inHalf (acHigh part) := by cases part <;> rfl
    refine ⟨(acWrite part row.val v u).1, (acWrite part row.val v u).2, ?core, fun mantissa => ?mantissas, fun f64 => ?f64,
      fun grid => ?grid⟩
    case core =>
      rw [keepsEq]
      exact engine_of_issueM write passes rfl (acCovers_ctx ..)
    case mantissas =>
      rw [acWrite_mantissas mantissa, low, high, inHalfEq]
      refine ⟨fun i _ other => tileRow_setRow_ne u _ other, rfl, rfl, manSet_flags (acGain part) (acHigh part) v (tileRow u row.val), fun j lt => ?_⟩
      rw [tileRow_setRow_same]
      exact ⟨(manSet_part _ _ false v len lt).trans (if_congr (and_congr_right fun _ => acGain_false_iff mantissa) rfl rfl),
        (manSet_part _ _ true v len lt).trans (if_congr (and_congr_right fun _ => acGain_true_iff) rfl rfl)⟩
    case f64 =>
      rw [acWrite_f64 f64, inHalfEq]
      refine ⟨fun i _ other => tileRow_setRow_ne u _ other, rfl, rfl, fun j lt => ?_⟩
      rw [tileRow_setRow_same]
      exact f64Set_getD (acHigh part) v len lt
    case grid =>
      rw [acWrite_grid grid, f32Bad_eq]
      exact ⟨rfl, rfl⟩
  case readEx =>
    exact resultV_of_issueMv readEx (fun _ => by rw [exBad, eq_false_of_ne_true (mt (sramBad_iff ..).1 good)]; rfl) rfl
  case exTiming => exact stop_of_issueM writeEx on (by rw [show inWindow (cur s).mx acc (cur s).ctx.bc = true from window]; rfl)
  case writeEx =>
    rw [← exLanes_eq, ← sramGood_eq_covers]
    exact engine_of_issueM writeEx (by rw [show inWindow (cur s).mx acc (cur s).ctx.bc = false from clear]; rfl) rfl rfl
  case mdpc =>
    have row : exec (.mdpc g b) s = settle s (issueMdpc g b s) := rfl
    rw [← BitVec.ofNat_toNat]
    exact engine_of_issueM_of_flags row rfl rfl rfl

end Sys2Proof.Machine
end

section
/-! Proofs of the family of spec/09: the bytes of a saved context (R176). -/

namespace Sys2Proof.Machine

/-! ### Cells made part by part -/

section

variable {α β : Type}

theorem smGet_append (m n : SMap α) (a : Nat) : smGet (m ++ n) a = (smGet m a).or (smGet n a) := by
  induction m with
  | nil => rfl
  | cons e m ih =>
    rw [List.cons_append, smGet, smGet]
    split
    · rfl
    · exact ih

theorem smGet_eq_none {m : SMap α} {a : Nat} (absent : ∀ c ∈ m, c.1 ≠ a) : smGet m a = none := by
  induction m with
  | nil => rfl
  | cons e m ih =>
    rw [smGet, if_neg (absent e List.mem_cons_self)]
    exact ih fun c hc => absent c (List.mem_cons_of_mem _ hc)

/-- The entry at a key that one part alone may hold. -/
theorem smGet_flatMap {l : List β} {f : β → SMap α} {x : β} {a : Nat} (mem : x ∈ l)
    (other : ∀ y ∈ l, y ≠ x → ∀ c ∈ f y, c.1 ≠ a) : smGet (l.flatMap f) a = smGet (f x) a := by
  induction l with
  | nil => cases mem
  | cons y l ih =>
    have later : ∀ z ∈ l, z ≠ x → ∀ c ∈ f z, c.1 ≠ a := fun z hz => other z (List.mem_cons_of_mem _ hz)
    rw [List.flatMap_cons, smGet_append]
    by_cases again : x ∈ l
    · rw [ih again later]
      by_cases first : y = x
      · rw [first, Option.or_self]
      · rw [smGet_eq_none (other y List.mem_cons_self first), Option.none_or]
    · have none : smGet (l.flatMap f) a = none := by
        refine smGet_eq_none fun c hc => ?_
        obtain ⟨z, hz, hc⟩ := List.mem_flatMap.1 hc
        exact later z hz (fun same => again (same ▸ hz)) c hc
      rw [none, Option.or_none, (List.mem_cons.1 mem).resolve_right again]

end

/-- Cells whose addresses lie in a range. -/
structure CellsWithin (lo hi : Nat) (m : SMap Byte) : Prop where
  bounds : ∀ c ∈ m, lo ≤ c.1 ∧ c.1 < hi

section

variable {lo hi a : Nat} {m n : SMap Byte}

theorem CellsWithin.mono {lo' hi' : Nat} (h : CellsWithin lo hi m) (low : lo' ≤ lo) (high : hi ≤ hi') : CellsWithin lo' hi' m where
  bounds c hc := by
    have := h.bounds c hc
    omega

theorem CellsWithin.append (hm : CellsWithin lo hi m) (hn : CellsWithin lo hi n) : CellsWithin lo hi (m ++ n) where
  bounds c hc := (List.mem_append.1 hc).elim (hm.bounds c) (hn.bounds c)

theorem CellsWithin.flatMap {β : Type} {l : List β} {f : β → SMap Byte} (h : ∀ x ∈ l, CellsWithin lo hi (f x)) :
    CellsWithin lo hi (l.flatMap f) where
  bounds c hc := by
    obtain ⟨x, hx, hc⟩ := List.mem_flatMap.1 hc
    exact (h x hx).bounds c hc

theorem CellsWithin.nil : CellsWithin lo hi [] := ⟨List.forall_mem_nil _⟩

theorem CellsWithin.ne (h : CellsWithin lo hi m) (out : a < lo ∨ hi ≤ a) : ∀ c ∈ m, c.1 ≠ a := by
  intro c hc
  have := h.bounds c hc
  omega

theorem mRead_append_left (h : CellsWithin lo hi n) (out : a < lo ∨ hi ≤ a) : mRead (m ++ n) a = mRead m a := by
  rw [mRead, smGetD, smGet_append, smGet_eq_none (h.ne out), Option.or_none, mRead, smGetD]

theorem mRead_append_right (h : CellsWithin lo hi m) (out : a < lo ∨ hi ≤ a) : mRead (m ++ n) a = mRead n a := by
  rw [mRead, smGetD, smGet_append, smGet_eq_none (h.ne out), Option.none_or, mRead, smGetD]

/-- A byte of a part whose place no other part touches. -/
theorem mRead_flatMap {β : Type} {l : List β} {f : β → SMap Byte} {x : β} (mem : x ∈ l)
    (other : ∀ y ∈ l, y ≠ x → ∃ lo hi, CellsWithin lo hi (f y) ∧ (a < lo ∨ hi ≤ a)) :
    mRead (l.flatMap f) a = mRead (f x) a := by
  have get := smGet_flatMap (a := a) (f := f) mem fun y hy ne => by
    obtain ⟨lo, hi, within, out⟩ := other y hy ne
    exact within.ne out
  rw [mRead, smGetD, get, mRead, smGetD]

/-- Blocks of one size side by side: a byte of one lies outside every other. -/
theorem outside_other_block {base size i j p : Nat} (inside : p < size) (ne : j ≠ i) :
    base + size * i + p < base + size * j ∨ base + size * j + size ≤ base + size * i + p := by
  rcases Nat.lt_or_gt_of_ne ne with below | above
  · have := Nat.mul_le_mul_left size (Nat.succ_le_of_lt below)
    rw [Nat.mul_succ] at this
    omega
  · have := Nat.mul_le_mul_left size (Nat.succ_le_of_lt above)
    rw [Nat.mul_succ] at this
    omega

/-- A byte of one of several blocks side by side. -/
theorem mRead_flatMap_blocks {l : List Nat} {f : Nat → SMap Byte} {base size i p : Nat} (mem : i ∈ l) (inside : p < size)
    (within : ∀ j ∈ l, CellsWithin (base + size * j) (base + size * j + size) (f j)) :
    mRead (l.flatMap f) (base + size * i + p) = mRead (f i) (base + size * i + p) :=
  mRead_flatMap mem fun j hj ne => ⟨_, _, within j hj, outside_other_block inside ne⟩

end

/-! ### The bytes of a number -/

theorem cellsWithin_cellsOf (a n v : Nat) : CellsWithin a (a + n) (cellsOf a n v) := by
  unfold cellsOf
  split
  · exact .nil
  · refine ⟨fun c hc => ?_⟩
    obtain ⟨b, hb, rfl⟩ := List.mem_map.1 (List.mem_of_mem_filter hc)
    have index := (List.mem_zipIdx' hb).1
    rw [leBytes_length] at index
    exact ⟨Nat.le_add_right .., Nat.add_lt_add_left index a⟩

/-- The cells of a list of bytes that are not 0 read as the list. -/
theorem mRead_cells_of_bytes (a : Nat) (bs : List Byte) (k p : Nat) :
    mRead (((bs.zipIdx k).map fun b => (a + b.2, b.1)).filter fun c => c.2 != 0) (a + (k + p)) = bs.getD p 0 := by
  induction bs generalizing k p with
  | nil => rfl
  | cons b bs ih =>
    rw [List.zipIdx_cons, List.map_cons, List.filter_cons]
    cases p with
    | zero =>
      split
      · exact congrArg (Option.getD · 0) (if_pos rfl)
      · next zero =>
        have later : ∀ c ∈ (((bs.zipIdx (k + 1)).map fun b => (a + b.2, b.1)).filter fun c => c.2 != 0), c.1 ≠ a + (k + 0) := by
          intro c hc
          obtain ⟨x, hx, rfl⟩ := List.mem_map.1 (List.mem_of_mem_filter hc)
          have := List.le_snd_of_mem_zipIdx hx
          simp only
          omega
        have byte : b = 0 := by simpa using zero
        rw [mRead, smGetD, smGet_eq_none later, byte]
        rfl
    | succ p =>
      have rest := ih (k + 1) p
      rw [show k + 1 + p = k + (p + 1) by omega] at rest
      rw [List.getD_cons_succ, ← rest]
      split
      · rw [mRead, smGetD, smGet, if_neg (by simp only; omega), mRead, smGetD]
      · rfl

theorem mRead_cellsOf (a v : Nat) {n p : Nat} (inside : p < n) : mRead (cellsOf a n v) (a + p) = BitVec.ofNat 8 (v / 256 ^ p) := by
  unfold cellsOf
  split
  · next zero => rw [zero, Nat.zero_div]; rfl
  · have bytes := mRead_cells_of_bytes a (leBytes n v) 0 p
    rwa [Nat.zero_add, leBytes_getD n v inside] at bytes

theorem cellsWithin_cellsWords (a : Nat) (ws : List Nat) : CellsWithin a (a + 8 * ws.length) (cellsWords a ws) :=
  cellsWithin_cellsOf ..

/-- A byte of an entry of a list that is packed in lanes. -/
theorem byte_entsNat {k : Nat} (l : List (BitVec (8 * k))) (j : Nat) {p : Nat} (inside : p < k) :
    BitVec.ofNat 8 (entsNat l / 256 ^ (k * j + p)) = BitVec.ofNat 8 ((l.getD j 0).toNat / 256 ^ p) := by
  have width : 256 ^ k = 2 ^ (8 * k) := (pow_mul 2 8 k).symm
  induction l generalizing j with
  | nil => simp [entsNat, ofLanes]
  | cons x l ih =>
    have first : entsNat (x :: l) = x.toNat + 256 ^ k * entsNat l := by
      rw [entsNat, List.map_cons, ofLanes, Nat.mod_eq_of_lt x.isLt, width]
      rfl
    cases j with
    | zero =>
      have above : 256 ^ k = 256 ^ p * (256 * 256 ^ (k - p - 1)) := by
        rw [← pow_succ', ← pow_add]
        congr 1
        omega
      apply BitVec.eq_of_toNat_eq
      rw [first, above, Nat.mul_zero, Nat.zero_add, Nat.mul_assoc, Nat.add_mul_div_left _ _ (by positivity), List.getD_cons_zero,
        BitVec.toNat_ofNat, BitVec.toNat_ofNat, Nat.mul_assoc]
      exact Nat.add_mul_mod_self_left ..
    | succ j =>
      have low : x.toNat < 256 ^ k := width ▸ x.isLt
      rw [List.getD_cons_succ, ← ih j, show k * (j + 1) + p = k + (k * j + p) by ring, pow_add, ← Nat.div_div_eq_div_mul, first,
        Nat.add_mul_div_left _ _ (by positivity), Nat.div_eq_of_lt low, Nat.zero_add]

end Sys2Proof.Machine
end

section
/-! Proofs of the family of spec/09: what R176 places in the image of a saved context. -/

namespace Sys2Proof.Machine

/-! ### Sizes of the parts (R176) -/

theorem waitWords_length (bc : Nat) (w : Wait) : (waitWords bc w).length = 7 := by
  have words : (kindWords w.kind).2.2.length ≤ 5 := by cases w.kind <;> simp [kindWords]
  simp only [waitWords, List.length_append, List.length_cons, List.length_nil, List.length_replicate]
  omega

theorem headerWords_length_le (c : Ctx) (m : Mx) (cause : Cause) : (headerWords c m cause).length ≤ 32 := by
  simp only [headerWords, List.length_append, List.length_flatMap, waitWords_length, List.map_const', List.sum_replicate,
    List.length_cons, List.length_nil, List.length_take, smul_eq_mul]
  omega

theorem scalarWords_length (c : Ctx) : (scalarWords c).length = 49 := by simp [scalarWords]

theorem length_flatten_of_const {α : Type} {n : Nat} {l : List (List α)} (each : ∀ x ∈ l, x.length = n) :
    l.flatten.length = n * l.length := by
  rw [List.length_flatten, List.map_congr_left each, List.map_const', List.sum_replicate, smul_eq_mul, Nat.mul_comm]

theorem cellsWithin_areaVectors (c : Ctx) : CellsWithin 0x400 0x2400 (areaVectors c) := by
  have part (a : Nat) (v : Nat → Nat) :
      CellsWithin a (a + 4096) ((List.range 16).flatMap fun i => cellsOf (a + 256 * i) 256 (v i)) :=
    .flatMap fun i hi => (cellsWithin_cellsOf ..).mono (by omega) (by have := List.mem_range.1 hi; omega)
  exact ((part 0x400 _).mono (by decide) (by decide)).append ((part 0x1400 _).mono (by decide) (by decide))

theorem cellsWithin_areaLatch (c : Ctx) : CellsWithin 0x2400 0x3800 (areaLatch c) := by
  refine .append ((cellsWithin_cellsWords ..).mono (le_refl _) ?_) (.flatMap fun x hx => ?_)
  · rw [length_flatten_of_const (n := 2), List.length_take]
    · omega
    · intro x hx
      rcases List.mem_append.1 (List.mem_of_mem_take hx) with h | h <;> obtain ⟨-, -, rfl⟩ := List.mem_map.1 h <;> rfl
  · have index := (List.mem_zipIdx' hx).1
    rw [List.length_take] at index
    exact .append ((cellsWithin_cellsWords ..).mono (by omega) (by simp only [List.length_cons, List.length_nil]; omega))
      ((cellsWithin_cellsOf ..).mono (by omega) (by omega))

theorem cellsWithin_words64 {lo hi a : Nat} (ws : List Nat) (low : lo ≤ a) (high : a + 512 ≤ hi) :
    CellsWithin lo hi (cellsWords a (ws.take 64)) :=
  (cellsWithin_cellsWords ..).mono low (by rw [List.length_take]; omega)

theorem cellsWithin_areaUnits (c : Ctx) (m : Mx) : CellsWithin 0x3800 0x4000 (areaUnits c m) := by
  refine .append (.append (.append ?_ ?_) ?_) ?_ <;> exact cellsWithin_words64 _ (by decide) (by decide)

theorem cellsWithin_areaShadow (n : Nat) (m : Mx) : CellsWithin 0x4000 0x10000 (areaShadow n m) := by
  unfold areaShadow
  split
  · exact .nil
  · refine ⟨fun c hc => ?_⟩
    obtain ⟨i, hi, rfl⟩ := List.mem_map.1 (List.mem_of_mem_filter hc)
    rw [List.mem_range] at hi
    simp only
    omega

theorem mem_usedTiles {m : Mx} {t : Nat} : t ∈ usedTiles m ↔ t < 4 ∧ (m.now.tiles.getD t {}).used = true := by
  rw [usedTiles, List.mem_filter, List.mem_range]

theorem mem_claimedSlots {m : Mx} {o : Nat} : o ∈ claimedSlots m ↔ o < 24 ∧ m.claimed.getLsbD o = true := by
  rw [claimedSlots, List.mem_filter, List.mem_range]

/-- The three parts of the used tiles: carries, exponents and rows. -/
def carryCells (m : Mx) (t : Nat) : SMap Byte := cellsOf (0x10000 + 768 * t) 768 (entsNat (m.now.tiles.getD t {}).cy)
def exponentCells (m : Mx) (t : Nat) : SMap Byte := cellsOf (0x10C00 + 256 * t) 256 (entsNat (m.now.tiles.getD t {}).ex)
def rowCells (m : Mx) (t i : Nat) : SMap Byte :=
  cellsOf (0x11000 + 49152 * t + 768 * i) 768 (entsNat (tileRow (m.now.tiles.getD t {}) i))

theorem areaTiles_eq (m : Mx) : areaTiles m = (usedTiles m).flatMap (carryCells m) ++ (usedTiles m).flatMap (exponentCells m) ++
    (usedTiles m).flatMap fun t => (List.range 64).flatMap (rowCells m t) := rfl

theorem cellsWithin_carries (m : Mx) : CellsWithin 0x10000 0x10C00 ((usedTiles m).flatMap (carryCells m)) :=
  .flatMap fun t ht => (cellsWithin_cellsOf ..).mono (by omega) (by have := (mem_usedTiles.1 ht).1; omega)

theorem cellsWithin_exponents (m : Mx) : CellsWithin 0x10C00 0x11000 ((usedTiles m).flatMap (exponentCells m)) :=
  .flatMap fun t ht => (cellsWithin_cellsOf ..).mono (by omega) (by have := (mem_usedTiles.1 ht).1; omega)

theorem cellsWithin_rows (m : Mx) (t : Nat) :
    CellsWithin (0x11000 + 49152 * t) (0x11000 + 49152 * t + 49152) ((List.range 64).flatMap (rowCells m t)) :=
  .flatMap fun i hi => (cellsWithin_cellsOf ..).mono (by omega) (by have := List.mem_range.1 hi; omega)

theorem cellsWithin_areaTiles (m : Mx) : CellsWithin 0x10000 0x41000 (areaTiles m) := by
  refine .append (.append ((cellsWithin_carries m).mono ?_ ?_) ((cellsWithin_exponents m).mono ?_ ?_)) (.flatMap fun t ht =>
    (cellsWithin_rows m t).mono (by omega) (by have := (mem_usedTiles.1 ht).1; omega)) <;> decide

section

variable {m : Mx} {t j p : Nat} (listed : t ∈ usedTiles m)
include listed

theorem mRead_carries (hj : j < 64) (hp : p < 12) : mRead ((usedTiles m).flatMap (carryCells m)) (0x10000 + 768 * t + (12 * j + p)) =
    BitVec.ofNat 8 (((m.now.tiles.getD t {}).cy.getD j 0).toNat / 256 ^ p) := by
  rw [mRead_flatMap_blocks (f := carryCells m) listed (by omega) fun t _ => cellsWithin_cellsOf (0x10000 + 768 * t) .., carryCells,
    mRead_cellsOf _ _ (by omega)]
  exact byte_entsNat (k := 12) _ j hp

theorem mRead_exponents (hj : j < 64) (hp : p < 4) :
    mRead ((usedTiles m).flatMap (exponentCells m)) (0x10C00 + 256 * t + (4 * j + p)) =
      BitVec.ofNat 8 (((m.now.tiles.getD t {}).ex.getD j 0).toNat / 256 ^ p) := by
  rw [mRead_flatMap_blocks (f := exponentCells m) listed (by omega) fun t _ => cellsWithin_cellsOf (0x10C00 + 256 * t) .., exponentCells,
    mRead_cellsOf _ _ (by omega)]
  exact byte_entsNat (k := 4) _ j hp

theorem mRead_rows {i : Nat} (hi : i < 64) (hj : j < 64) (hp : p < 12) :
    mRead ((usedTiles m).flatMap fun t => (List.range 64).flatMap (rowCells m t)) (0x11000 + 49152 * t + (768 * i + (12 * j + p))) =
      BitVec.ofNat 8 (((tileRow (m.now.tiles.getD t {}) i).getD j 0).toNat / 256 ^ p) := by
  rw [mRead_flatMap_blocks listed (by omega) fun t _ => cellsWithin_rows m t, ← Nat.add_assoc _ (768 * i),
    mRead_flatMap_blocks (f := rowCells m t) (List.mem_range.2 hi) (by omega) fun i _ =>
      cellsWithin_cellsOf (0x11000 + 49152 * t + 768 * i) ..,
    rowCells, mRead_cellsOf _ _ (by omega)]
  exact byte_entsNat (k := 12) _ j hp

end

theorem cellsWithin_areaPlanes {m : Mx} (planes : ∀ q ∈ m.now.planes, q.1 < 128) : CellsWithin 0x41000 0x49000 (areaPlanes m) :=
  .flatMap fun r hr => (cellsWithin_cellsOf ..).mono (by omega) (by have := planes r hr; omega)

/-- The rows of a slot that a map lists, `n` bytes each. -/
def slotCells {w : Nat} (base n o : Nat) (d : SMap (BitVec w)) : SMap Byte :=
  (d.filter fun r => r.1 / 64 == o).flatMap fun r => cellsOf (base + n * (r.1 % 64)) n r.2.toNat

theorem areaSlots_eq (m : Mx) : areaSlots m = (claimedSlots m).flatMap fun o =>
    slotCells (0x49000 + 9216 * o) 128 o m.now.data ++ slotCells (0x49000 + 9216 * o + 8192) 16 o m.now.side := rfl

theorem cellsWithin_slotCells {w : Nat} (base n o : Nat) (d : SMap (BitVec w)) :
    CellsWithin base (base + n * 64) (slotCells base n o d) := by
  refine .flatMap fun r _ => (cellsWithin_cellsOf ..).mono (Nat.le_add_right ..) ?_
  rw [Nat.add_assoc, ← Nat.mul_succ]
  exact Nat.add_le_add_left (Nat.mul_le_mul_left n (Nat.succ_le_of_lt (Nat.mod_lt _ (by decide)))) base

theorem cellsWithin_slot (m : Mx) (o : Nat) : CellsWithin (0x49000 + 9216 * o) (0x49000 + 9216 * o + 9216)
    (slotCells (0x49000 + 9216 * o) 128 o m.now.data ++ slotCells (0x49000 + 9216 * o + 8192) 16 o m.now.side) :=
  ((cellsWithin_slotCells ..).mono (by omega) (by omega)).append ((cellsWithin_slotCells ..).mono (by omega) (by omega))

theorem cellsWithin_areaSlots (m : Mx) : CellsWithin 0x49000 0x7F000 (areaSlots m) :=
  .flatMap fun o ho => (cellsWithin_slot m o).mono (by omega) (by have := (mem_claimedSlots.1 ho).1; omega)

theorem cellsWithin_cellsUp {spad : SMap Byte} {n : Nat} (a : Nat) (within : ∀ q ∈ spad, q.1 < n) :
    CellsWithin a (a + n) (cellsUp a spad) := by
  refine ⟨fun c hc => ?_⟩
  obtain ⟨q, hq, rfl⟩ := List.mem_map.1 hc
  have := within q hq
  simp only
  omega

theorem mRead_cellsUp (a : Nat) (m : SMap Byte) (p : Nat) : mRead (cellsUp a m) (a + p) = mRead m p := by
  have get : smGet (cellsUp a m) (a + p) = smGet m p := by
    induction m with
    | nil => rfl
    | cons c m ih =>
      show (if c.1 + a = a + p then some c.2 else smGet (cellsUp a m) (a + p)) = if c.1 = p then some c.2 else smGet m p
      simp only [ih, show c.1 + a = a + p ↔ c.1 = p by omega]
  rw [mRead, smGetD, get, mRead, smGetD]

/-- A byte of a row of a slot, one that no map lists among them. -/
theorem mRead_slotCells {w : Nat} {d : SMap (BitVec w)} (distinct : (d.map (·.1)).Nodup) (base o : Nat) {n r p : Nat} (hr : r < 64)
    (hp : p < n) : mRead (slotCells base n o d) (base + n * r + p) = BitVec.ofNat 8 ((smGetD d (64 * o + r) 0).toNat / 256 ^ p) := by
  have number : ∀ y ∈ d.filter fun y => y.1 / 64 == o, y.1 % 64 = r → smGet d (64 * o + r) = some y.2 := by
    rintro ⟨j, x⟩ hy same
    obtain ⟨hy, slot⟩ := List.mem_filter.1 hy
    rw [beq_iff_eq] at slot
    have row : j = 64 * o + r := by simp only at same slot; omega
    exact smGet_of_mem distinct (row ▸ hy)
  have out : ∀ y : Nat × BitVec w, y.1 % 64 ≠ r → ∃ lo hi, CellsWithin lo hi (cellsOf (base + n * (y.1 % 64)) n y.2.toNat) ∧
      (base + n * r + p < lo ∨ hi ≤ base + n * r + p) := fun y ne => ⟨_, _, cellsWithin_cellsOf .., outside_other_block hp ne⟩
  cases get : smGet d (64 * o + r) with
  | none =>
    have none : smGet (slotCells base n o d) (base + n * r + p) = none := by
      refine smGet_eq_none fun c hc => ?_
      obtain ⟨y, hy, hc⟩ := List.mem_flatMap.1 hc
      obtain ⟨lo, hi, within, far⟩ := out y fun same => by cases get.symm.trans (number y hy same)
      exact within.ne far c hc
    rw [mRead, smGetD, none, smGetD, get]
    simp
  | some x =>
    have listed : (64 * o + r, x) ∈ d.filter fun y => y.1 / 64 == o :=
      List.mem_filter.2 ⟨mem_of_smGet get, by simp only [beq_iff_eq]; omega⟩
    have row : (64 * o + r) % 64 = r := by omega
    have read := mRead_flatMap (a := base + n * r + p) (f := fun y : Nat × BitVec w => cellsOf (base + n * (y.1 % 64)) n y.2.toNat) listed
      fun y hy ne => out y fun same => ne (Prod.ext (by
        have := (List.mem_filter.1 hy).2
        rw [beq_iff_eq] at this
        omega) (Option.some.inj ((number y hy same).symm.trans get)))
    rw [slotCells, read, row, mRead_cellsOf _ _ hp, smGetD, get, Option.getD_some]

/-! ### The parts of an image, in order -/

/-- Where each part of an image begins, and where the last one ends (R176). -/
def imageStart (i : Nat) : Nat := [0, 0x100, 0x400, 0x2400, 0x10000, 0x41000, 0x49000, 0x7F000, 0xBF000].getD i 0

section

variable (n : Nat) (cause : Cause) (c : Ctx) (m : Mx) (spad : SMap Byte) (latch : Bool)

/-- The parts of an image: the header, scalar and vector registers, what is in flight, tiles, planes, slots and the scratchpad. -/
def imagePart : Nat → SMap Byte
  | 0 => cellsWords 0 (headerWords c m cause)
  | 1 => cellsWords 0x100 (scalarWords c)
  | 2 => areaVectors c
  | 3 => if latch then areaLatch c ++ areaUnits c m ++ areaShadow n m else []
  | 4 => areaTiles m
  | 5 => areaPlanes m
  | 6 => areaSlots m
  | _ => cellsUp 0x7F000 spad

theorem areaImage_eq_parts : areaImage n cause c m spad latch = (List.range 8).flatMap (imagePart n cause c m spad latch) := by
  simp [areaImage, imagePart, List.range_succ]

variable {spad} {m} (small : ∀ q ∈ spad, q.1 < 0x40000) (planes : ∀ q ∈ m.now.planes, q.1 < 128)
include small planes

theorem cellsWithin_imagePart {i : Nat} (lt : i < 8) :
    CellsWithin (imageStart i) (imageStart (i + 1)) (imagePart n cause c m spad latch i) := by
  match i, lt with
  | 0, _ => exact (cellsWithin_cellsWords ..).mono (by decide) (by
      have := headerWords_length_le c m cause
      show 0 + 8 * _ ≤ 0x100
      omega)
  | 1, _ => exact (cellsWithin_cellsWords ..).mono (by decide) (by rw [scalarWords_length]; decide)
  | 2, _ => exact cellsWithin_areaVectors c
  | 3, _ =>
    show CellsWithin 0x2400 0x10000 (if latch then _ else _)
    split
    · exact (((cellsWithin_areaLatch c).mono (by decide) (by decide)).append
        ((cellsWithin_areaUnits c m).mono (by decide) (by decide))).append ((cellsWithin_areaShadow n m).mono (by decide) (by decide))
    · exact .nil
  | 4, _ => exact cellsWithin_areaTiles m
  | 5, _ => exact cellsWithin_areaPlanes planes
  | 6, _ => exact cellsWithin_areaSlots m
  | 7, _ => exact cellsWithin_cellsUp 0x7F000 small

/-- A byte of an image stands in the part that has its place. -/
theorem mRead_areaImage {i a : Nat} (lt : i < 8) (low : imageStart i ≤ a) (high : a < imageStart (i + 1)) :
    mRead (areaImage n cause c m spad latch) a = mRead (imagePart n cause c m spad latch i) a := by
  have rising : ∀ j < 8, ∀ k < 8, j < k → imageStart (j + 1) ≤ imageStart k := by decide
  rw [areaImage_eq_parts]
  refine mRead_flatMap (List.mem_range.2 lt) fun j hj ne =>
    ⟨_, _, cellsWithin_imagePart n cause c latch small planes (List.mem_range.1 hj), ?_⟩
  rw [List.mem_range] at hj
  rcases Nat.lt_or_gt_of_ne ne with below | above
  · exact .inr ((rising j hj i lt below).trans low)
  · exact .inl (high.trans_le (rising i lt j hj above))

/-! ### What stands where R176 says -/

theorem areaImage_spad {p : Nat} (lt : p < 0x40000) :
    mRead (areaImage n cause c m spad latch) (0x7F000 + p) = mRead spad p :=
  (mRead_areaImage n cause c latch small planes (i := 7) (by decide) (Nat.le_add_right ..) (Nat.add_lt_add_left lt _)).trans
    (mRead_cellsUp 0x7F000 spad p)

theorem areaImage_vector {i p : Nat} (hi : i < 16) (hp : p < 256) (full : (c.vb.getD i {}).void = false) :
    mRead (areaImage n cause c m spad latch) (0x400 + 256 * i + p) = BitVec.ofNat 8 ((c.vb.getD i {}).v.toNat / 256 ^ p) := by
  have keeps : CellsWithin 0x1400 0x2400 ((List.range 16).flatMap fun i =>
      cellsOf (0x1400 + 256 * i) 256 (if (smGetD c.vk i {}).void then 0 else (smGetD c.vk i {}).v.toNat)) :=
    .flatMap fun j hj => (cellsWithin_cellsOf ..).mono (by omega) (by have := List.mem_range.1 hj; omega)
  rw [mRead_areaImage n cause c latch small planes (i := 2) (by decide) (by show 0x400 ≤ _; omega) (by show _ < 0x2400; omega)]
  refine (mRead_append_left keeps (.inl (by omega))).trans ?_
  rw [mRead_flatMap_blocks (List.mem_range.2 hi) hp fun j _ => cellsWithin_cellsOf .., mRead_cellsOf _ _ hp, full]
  rfl

theorem areaImage_slot {o r : Nat} (ho : o < 24) (claimed : m.claimed.getLsbD o = true) (hr : r < 64)
    (data : (m.now.data.map (·.1)).Nodup) (side : (m.now.side.map (·.1)).Nodup) :
    (∀ p < 128, mRead (areaImage n cause c m spad latch) (0x49000 + 9216 * o + 128 * r + p) =
      BitVec.ofNat 8 ((dataRow m.now o r).toNat / 256 ^ p)) ∧
    ∀ p < 16, mRead (areaImage n cause c m spad latch) (0x49000 + 9216 * o + 8192 + 16 * r + p) =
      BitVec.ofNat 8 ((sideRow m.now o r).toNat / 256 ^ p) := by
  have slot : ∀ q < 9216, mRead (areaImage n cause c m spad latch) (0x49000 + 9216 * o + q) =
      mRead (slotCells (0x49000 + 9216 * o) 128 o m.now.data ++ slotCells (0x49000 + 9216 * o + 8192) 16 o m.now.side)
        (0x49000 + 9216 * o + q) := fun q hq => by
    rw [mRead_areaImage n cause c latch small planes (i := 6) (by decide) (by show 0x49000 ≤ _; omega) (by show _ < 0x7F000; omega)]
    exact mRead_flatMap_blocks (mem_claimedSlots.2 ⟨ho, claimed⟩) hq fun o _ => cellsWithin_slot m o
  constructor <;> intro p hp
  · rw [Nat.add_assoc _ (128 * r), slot _ (by omega), mRead_append_left (cellsWithin_slotCells ..) (.inl (by omega)), ← Nat.add_assoc]
    exact mRead_slotCells data _ o hr hp
  · rw [Nat.add_assoc _ (16 * r), Nat.add_assoc _ 8192, slot _ (by omega), mRead_append_right (cellsWithin_slotCells ..) (.inr (by omega)),
      ← Nat.add_assoc, ← Nat.add_assoc]
    exact mRead_slotCells side _ o hr hp

theorem areaImage_tile {t j : Nat} (ht : t < 4) (used : (m.now.tiles.getD t {}).used = true) (hj : j < 64) :
    (∀ p < 12, mRead (areaImage n cause c m spad latch) (0x10000 + 768 * t + 12 * j + p) =
      BitVec.ofNat 8 (((m.now.tiles.getD t {}).cy.getD j 0).toNat / 256 ^ p)) ∧
    (∀ p < 4, mRead (areaImage n cause c m spad latch) (0x10C00 + 256 * t + 4 * j + p) =
      BitVec.ofNat 8 (((m.now.tiles.getD t {}).ex.getD j 0).toNat / 256 ^ p)) ∧
    ∀ i < 64, ∀ p < 12, mRead (areaImage n cause c m spad latch) (0x11000 + 49152 * t + 768 * i + 12 * j + p) =
      BitVec.ofNat 8 (((tileRow (m.now.tiles.getD t {}) i).getD j 0).toNat / 256 ^ p) := by
  have listed : t ∈ usedTiles m := mem_usedTiles.2 ⟨ht, used⟩
  have rows : CellsWithin 0x11000 0x41000 ((usedTiles m).flatMap fun t => (List.range 64).flatMap (rowCells m t)) :=
    .flatMap fun t ht => (cellsWithin_rows m t).mono (by omega) (by have := (mem_usedTiles.1 ht).1; omega)
  have tiles : ∀ a, 0x10000 ≤ a → a < 0x41000 → mRead (areaImage n cause c m spad latch) a = mRead (areaTiles m) a :=
    fun a low high => mRead_areaImage n cause c latch small planes (i := 4) (by decide) low high
  refine ⟨fun p hp => ?carry, fun p hp => ?exponent, fun i hi p hp => ?row⟩
  case carry =>
    rw [Nat.add_assoc _ (12 * j), tiles _ (by omega) (by omega), areaTiles_eq, mRead_append_left rows (.inl (by omega)),
      mRead_append_left (cellsWithin_exponents m) (.inl (by omega))]
    exact mRead_carries listed hj hp
  case exponent =>
    rw [Nat.add_assoc _ (4 * j), tiles _ (by omega) (by omega), areaTiles_eq, mRead_append_left rows (.inl (by omega)),
      mRead_append_right (cellsWithin_carries m) (.inr (by omega))]
    exact mRead_exponents listed hj hp
  case row =>
    have before : CellsWithin 0x10000 0x11000 ((usedTiles m).flatMap (carryCells m) ++ (usedTiles m).flatMap (exponentCells m)) :=
      ((cellsWithin_carries m).mono (by decide) (by decide)).append ((cellsWithin_exponents m).mono (by decide) (by decide))
    rw [Nat.add_assoc _ (12 * j), Nat.add_assoc _ (768 * i), tiles _ (by omega) (by omega), areaTiles_eq,
      mRead_append_right before (.inr (by omega))]
    exact mRead_rows listed hi hj hp

end

end Sys2Proof.Machine
end

section
/-! Proofs of the family of spec/09: the save and the restore of a context (R171, R174, R176). -/

namespace Sys2Proof.Machine

/-! ### The walk of an area, its packets and its bytes -/

theorem WalkOnly.trans {s t u : State} (h : WalkOnly s t) (h' : WalkOnly t u) : WalkOnly s u :=
  Eq.trans h' (congrArg (fun x : State => { x with twes := u.twes, chans := u.chans }) h)

/-- The walk of an area changes at most translation buffers and channels. -/
theorem areaWalk_frame (core bit area : Nat) (ranges : List (Nat × Nat)) (is : List Nat) (s : State) :
    WalkOnly s (areaWalk core bit area ranges is s).1 := by
  induction is generalizing s with
  | nil => rfl
  | cons i is ih =>
    have walked := pinnedAt_frame s core bit (area + 65536 * i) 0
    unfold areaWalk
    split
    · next s1 r failed => rwa [failed] at walked
    · next s1 x pinned =>
      rw [pinned] at walked
      have later := ih s1
      dsimp only
      split
      · exact walked
      · split
        · next s2 r failed => rw [failed] at later; exact walked.trans later
        · next s2 xs found => rw [found] at later; exact walked.trans later

section

variable {α : Type} {f : State → α → State}

theorem ChanOnly.foldl (each : ∀ s a, ChanOnly s (f s a)) (l : List α) (s : State) : ChanOnly s (l.foldl f s) := by
  induction l generalizing s with
  | nil => rfl
  | cons a l ih => exact (each s a).trans (ih _)

theorem MemOnly.foldl (each : ∀ s a, MemOnly s (f s a)) (l : List α) (s : State) : MemOnly s (l.foldl f s) := by
  induction l generalizing s with
  | nil => exact .refl s
  | cons a l ih => exact (each s a).trans (ih _)

end

theorem areaPost_frame (core area : Nat) (ranges : List (Nat × Nat)) (xs : List Xlat) (s : State) :
    ChanOnly s (areaPost core area ranges xs s) :=
  .foldl (fun _ _ => .foldl (fun _ _ => .foldl (fun _ _ => postOwn_frame ..) _ _) _ _) _ s

theorem areaWrite_frame (ranges : List (Nat × Nat)) (image : SMap Byte) (xs : List Xlat) (s : State) :
    MemOnly s (areaWrite ranges image xs s) :=
  .foldl (fun _ _ => .foldl (fun _ _ => physRange_frame ..) _ _) _ s

/-! ### What a double fault leaves (R228) -/

theorem doubleFault_leaves (c : Nat) (o : Cause) (e r : Nat) (va : Option Nat) (s : State) :
    (doubleFault c o e r va s).saved = s.saved ∧ (doubleFault c o e r va s).sched.tasks = Task.ev (.unitCount c) :: s.sched.tasks := by
  obtain ⟨k, t, eq, record, -⟩ := doubleFault_eq c o e r va s
  rw [eq]
  exact ⟨(congrArg State.saved record.rest :), (congrArg (fun x : State => Task.ev (.unitCount c) :: x.sched.tasks) record.rest :)⟩

/-! ### A kill that is taken (R291) -/

theorem takeKill_leaves (core : Nat) {s : State} {b : Block} (block : (getCore s core).blk = some b) :
    let u := takeKill core s
    (∀ m, m ≠ core → getCore u m = getCore s m) ∧ (getCore u core).run = .idle ∧ u.saved = s.saved ∧ u.mem = s.mem ∧
    ∃ d, (getCore u core).blk = some d ∧ d.bid = b.bid ∧ d.exited = true ∧ d.killed = b.doomed := by
  have ended : ∀ t, (getCore (endBlock core t) core).run = .idle ∧
      (getCore (endBlock core t) core).blk = (getCore t core).blk.map fun b =>
        { b with exited := true, trig := some (b.trig.getD t.nextReq), journal := [], restarted := [] } := fun t =>
    ⟨congrArg Core.run (getCore_setCore ..), congrArg Core.blk (getCore_setCore ..)⟩
  obtain ⟨run, blk⟩ := ended (onBlk core (fun b => { b with killed := b.doomed }) s)
  rw [getCore_onBlk, block] at blk
  exact ⟨fun m other => (getCore_endBlock_ne _ other).trans (getCore_onBlk_ne other ..), run, rfl, rfl, _, blk, rfl, rfl, rfl⟩

/-! ### The save (R169, R171, R176) -/

/-- A core that its context has left. -/
def emptiedCore (k : Core) : Core :=
  { k with run := .idle, ctx := {}, mx := {}, spad := [], dict := [], code := [], metas := [], blk := none, faults := [], saveDue := false
           saveAsked := false, badWords := [] }

/-- What `State.saved` keeps of a context that leaves its core (log 21). -/
def savedOf (core : Nat) (cause : Cause) (b : Block) (k : Core) : Saved :=
  { codeBase := k.codeBase, ctx := k.ctx, mx := k.mx, spad := k.spad, dict := k.dict, blk := b, core := core, cause := cause
    faults := k.faults, dlHold := k.dlHold }

theorem saveTo_leaves (core : Nat) (cause : Cause) (b : Block) (xs : List Xlat) (s : State) :
    let k := getCore s core
    let latch := !nothingInFlight k
    let u := saveTo core cause b xs s
    (∀ m, m ≠ core → getCore u m = getCore s m) ∧ getCore u core = emptiedCore k ∧
    u.mem = (areaWrite (areaRanges k.mx latch) (areaImage s.sched.choice cause k.ctx k.mx k.spad latch) xs (nextChoice s)).mem ∧
    u.saved = s.saved ++ [savedOf core cause b k] := by
  intro k latch u
  have written := areaWrite_frame (areaRanges k.mx latch) (areaImage s.sched.choice cause k.ctx k.mx k.spad latch) xs (nextChoice s)
  have saved : (areaWrite _ _ xs (nextChoice s)).saved = s.saved := (congrArg State.saved written.rest :)
  exact ⟨fun m other => (getCore_setCore_ne _ _ _ _ other).trans (written.core m), getCore_setCore .., rfl,
    congrArg (· ++ [savedOf core cause b k]) saved⟩

theorem saveReady_iff {core : Nat} {s : State} {e : Cause} (held : (getCore s core).run = .held e) : saveReady s core = true ↔
    (getCore s core).snapLeft = 0 ∧ ∀ q ∈ s.reqs,
      (q.2.core = core ∧ q.2.bid = reqBid (getCore s core) ∧ q.2.service = false) → q.2.complete = true ∨ q.2.told = true := by
  simp only [saveReady, held, Bool.true_and, Bool.and_eq_true, beq_iff_eq, copiesLanded, List.all_eq_true, Bool.or_eq_true, bne_iff_ne,
    and_imp]
  refine and_congr_right fun _ => forall₂_congr fun q _ => ?_
  cases q.2.service <;> simp only [reduceCtorEq, or_false, or_true, true_or, false_imp_iff, true_imp_iff, imp_true_iff]
  tauto

theorem exec_contextSave_stays {core : Nat} {s : State} (free : (getCore s core).run = .idle ∨
    ((getCore s core).run = .running ∧ (getCore s core).svc = none) ∨ (getCore s core).run = .fenced ∨ (getCore s core).blk = none) :
    exec (.contextSave core) s = .next s := by
  show execContextSave core s = _
  unfold execContextSave
  dsimp only
  split
  · next cause b held block => simp [held, block] at free
  · next b running block =>
    have host : (getCore s core).svc = none := by simpa [running, block] using free
    rw [host]
    rfl
  · rfl

theorem exec_contextSave_handler {core : Nat} {s : State} (running : (getCore s core).run = .running)
    (handler : (getCore s core).svc ≠ none) (block : (getCore s core).blk ≠ none) :
    exec (.contextSave core) s = .next (setCore s core { getCore s core with saveDue := true }) := by
  obtain ⟨b, block⟩ := Option.ne_none_iff_exists'.1 block
  show execContextSave core s = _
  simp only [execContextSave, running, block, Option.isSome_iff_ne_none.2 handler, if_true]

section

variable {core : Nat} {s : State} {e : Cause} {b : Block} (held : (getCore s core).run = .held e) (block : (getCore s core).blk = some b)
include held block

theorem exec_contextSave_killed (kill : (getCore s core).killAt ≠ none) : exec (.contextSave core) s =
    .next (if (coreRegion s core).st = .stopped then takeKill core s else setCore s core { getCore s core with saveDue := true }) := by
  show execContextSave core s = _
  simp only [execContextSave, held, block, Option.isSome_iff_ne_none.2 kill, if_true]

variable (alive : (getCore s core).killAt = none)
include alive

theorem exec_contextSave_ordered (waits : saveReady s core = false) :
    exec (.contextSave core) s = .next (setCore s core { getCore s core with saveDue := true }) := by
  show execContextSave core s = _
  simp only [execContextSave, held, block, alive, waits, Option.isSome_none]
  rfl

variable (ready : saveReady s core = true) {t : State}
include ready

theorem exec_contextSave_failed {r : Nat × Nat} (failed : areaWalk core 2 b.area
    (areaRanges (getCore s core).mx (!nothingInFlight (getCore s core))) (List.range 12) s = (t, .error r)) :
    exec (.contextSave core) s = .next (doubleFault core e 0x0E r.1 (some r.2) t) := by
  show execContextSave core s = _
  simp only [execContextSave, held, block, alive, ready, Option.isSome_none, if_true, failed]
  rfl

variable {xs : List Xlat} (walk : areaWalk core 2 b.area (areaRanges (getCore s core).mx (!nothingInFlight (getCore s core)))
  (List.range 12) s = (t, .ok xs))
include walk

theorem exec_contextSave_bad {va : Option Nat} (bad : saveBad (getCore s core) = some va) :
    exec (.contextSave core) s = .next (doubleFault core e 0x0E 13 va t) := by
  show execContextSave core s = _
  simp only [execContextSave, held, block, alive, ready, Option.isSome_none, if_true, walk, bad]
  rfl

variable (good : saveBad (getCore s core) = none)
include good

theorem exec_contextSave_asks (first : (getCore s core).saveAsked = false) : ∃ chans, exec (.contextSave core) s =
    .next { setCore t core { getCore s core with saveDue := true, saveAsked := true } with chans := chans } := by
  have walked := areaWalk_frame core 2 b.area (areaRanges (getCore s core).mx (!nothingInFlight (getCore s core))) (List.range 12) s
  rw [walk] at walked
  have posted := areaPost_frame core b.area (areaRanges (getCore s core).mx (!nothingInFlight (getCore s core))) xs
    (setCore t core { getCore s core with saveDue := true, saveAsked := true })
  refine ⟨_, Eq.trans ?_ (congrArg Host.Outcome.next posted)⟩
  show execContextSave core s = _
  simp only [execContextSave, held, block, alive, ready, Option.isSome_none, if_true, walk, good, first, walked.core]
  rfl

variable (again : (getCore s core).saveAsked = true)
include again

theorem exec_contextSave_queued (waits : areaWaits s core b.area = true) :
    exec (.contextSave core) s = .next (setCore t core { getCore s core with saveDue := true }) := by
  have walked := areaWalk_frame core 2 b.area (areaRanges (getCore s core).mx (!nothingInFlight (getCore s core))) (List.range 12) s
  rw [walk] at walked
  show execContextSave core s = _
  simp only [execContextSave, held, block, alive, ready, Option.isSome_none, if_true, walk, good, again, waits, walked.core]
  rfl

theorem exec_contextSave_moves (sent : areaWaits s core b.area = false) : exec (.contextSave core) s = .next (saveTo core e b xs t) := by
  show execContextSave core s = _
  simp only [execContextSave, held, block, alive, ready, Option.isSome_none, if_true, walk, good, again, sent]
  rfl

end

/-! ### The restore (R174, R176) -/

theorem coreBare_iff (k : Core) : coreBare k = true ↔ k.run = .idle ∧ k.blk = none ∧ k.resv = none := by
  simp only [coreBare, Bool.and_eq_true, beq_iff_eq, Option.isNone_iff_eq_none, and_assoc]

theorem exec_contextRestore_stays {core : Nat} {s : State} (none : ¬ coreBare (getCore s core) = true ∨ savedFor s core = none) :
    exec (.contextRestore core) s = .next s := by
  show execContextRestore core s = _
  unfold execContextRestore
  dsimp only
  split
  · next bare => rw [none.resolve_left (not_not_intro bare)]
  · rfl

section

variable {core : Nat} {s t : State} {w : Saved} {k : Core} (bare : coreBare (getCore s core) = true) (found : savedFor s core = some w)
  (taken : withSaved w ((getInst s w.blk.inst).cores.head? == some core) (getCore s core) = k)
include bare found taken

theorem exec_contextRestore_failed {r : Nat × Nat} (failed : areaWalk core 1 w.blk.area (areaRanges w.mx (!nothingInFlight k))
    (List.range 12) { setCore s core k with saved := s.saved.erase w } = (t, .error r)) :
    exec (.contextRestore core) s = .next (doubleFault core w.cause 0x0E r.1 (some r.2) t) := by
  subst taken
  show execContextRestore core s = _
  simp only [execContextRestore, bare, found, failed, if_true]

/-- A restore whose walk finds the pages: the core takes the context that the area holds, and resumes (R174). -/
theorem exec_contextRestore_reads {xs : List Xlat} (walk : areaWalk core 1 w.blk.area (areaRanges w.mx (!nothingInFlight k))
    (List.range 12) { setCore s core k with saved := s.saved.erase w } = (t, .ok xs)) :
    ∃ u, exec (.contextRestore core) s = .next u ∧ (∀ m, m ≠ core → getCore u m = getCore s m) ∧ u.mem = s.mem ∧
      u.saved = s.saved.erase w ∧ getCore u core =
        resumedCore (withArea (!nothingInFlight k) (areaRead (areaRanges w.mx (!nothingInFlight k)) xs t) k) := by
  have walked := areaWalk_frame core 1 w.blk.area (areaRanges w.mx (!nothingInFlight k)) (List.range 12)
    { setCore s core k with saved := s.saved.erase w }
  rw [walk] at walked
  have posted := areaPost_frame core w.blk.area (areaRanges w.mx (!nothingInFlight k)) xs t
  have core_ (m : Nat) : getCore (areaPost core w.blk.area (areaRanges w.mx (!nothingInFlight k)) xs t) m = getCore (setCore s core k) m :=
    (posted.core m).trans (walked.core m)
  refine ⟨_, exec_contextRestore_of_walk bare found taken rfl rfl walk, fun m other => ?_, ?_, ?_, ?_⟩
  · rw [getCore_resume_ne _ _ _ other, getCore_setCore_ne _ _ _ _ other, core_, getCore_setCore_ne _ _ _ _ other]
  · exact (congrArg State.mem posted :).trans (congrArg State.mem walked :)
  · exact (congrArg State.saved posted :).trans (congrArg State.saved walked :)
  · rw [getCore_resumeCore, getCore_setCore, core_, getCore_setCore]

end

end Sys2Proof.Machine
end

section
/-! Proofs of the family of spec/09: service handlers and the stop at `DEADLINE` (R234 to R237). -/

namespace Sys2Proof.Machine

/-! ### Pending handlers (R234, R236) -/

/-- Whether handler `n` is pending on a core and fits the budget that is left (R236). -/
def HandlerFits (s : State) (core n : Nat) : Prop :=
  n < 16 ∧ (getCore s core).svreq.getLsbD n = true ∧ sventLen s core n ≠ 0 ∧
    sventLen s core n + (getCore s core).svused.toNat ≤ svBudget (getCore s core)

theorem handlerFits_iff {s : State} {core n : Nat} (lt : n < 16) : HandlerFits s core n ↔
    ((getCore s core).svreq.getLsbD n && sventLen s core n != 0 &&
      decide (sventLen s core n + (getCore s core).svused.toNat ≤ svBudget (getCore s core))) = true := by
  simp only [HandlerFits, lt, true_and, Bool.and_eq_true, bne_iff_ne, decide_eq_true_eq, and_assoc]

theorem nextHandler_of_lowest {s : State} {core n : Nat} (fits : HandlerFits s core n) (lowest : ∀ m < n, ¬ HandlerFits s core m) :
    nextHandler s core = some n := by
  have lt : n < 16 := fits.1
  refine List.find?_range_eq_some.2 ⟨(handlerFits_iff lt).1 fits, List.mem_range.2 lt, fun m below => ?_⟩
  rw [Bool.not_eq_true', ← Bool.not_eq_true, ← handlerFits_iff (below.trans lt)]
  exact lowest m below

theorem nextHandler_of_none {s : State} {core : Nat} (none : ∀ n, ¬ HandlerFits s core n) : nextHandler s core = .none := by
  refine List.find?_range_eq_none.2 fun n lt => ?_
  rw [Bool.not_eq_true', ← Bool.not_eq_true, ← handlerFits_iff lt]
  exact none n

/-- The bits of a sum of distinct powers of 2, lowest first. -/
theorem sum_twoPow_range (f : Nat → Bool) (n : Nat) :
    ((List.range n).filter f).foldl (fun m i => m + 2 ^ i) 0 < 2 ^ n ∧
    ∀ i, (((List.range n).filter f).foldl (fun m i => m + 2 ^ i) 0).testBit i = (decide (i < n) && f i) := by
  induction n with
  | zero => simp
  | succ n ih =>
    obtain ⟨below, bit⟩ := ih
    rw [List.range_succ, List.filter_append, List.foldl_append]
    generalize ((List.range n).filter f).foldl (fun m i => m + 2 ^ i) 0 = low at below bit ⊢
    have other : ∀ i, i ≠ n → (decide (i < n) && f i) = (decide (i < n + 1) && f i) := fun i ne => by
      rw [decide_eq_decide.2 (show i < n ↔ i < n + 1 by omega)]
    cases used : f n with
    | false =>
      simp only [List.filter_cons, used, List.filter_nil, Bool.false_eq_true, if_false, List.foldl_nil]
      refine ⟨by omega, fun i => ?_⟩
      rw [bit]
      by_cases same : i = n
      · simp [same, used]
      · exact other i same
    | true =>
      simp only [List.filter_cons, used, List.filter_nil, if_true, List.foldl_cons, List.foldl_nil]
      refine ⟨by omega, fun i => ?_⟩
      rw [Nat.add_comm low]
      rcases Nat.lt_trichotomy i n with lt | same | gt
      · rw [Nat.testBit_two_pow_add_gt lt, bit, other i (by omega)]
      · rw [same, Nat.testBit_two_pow_add_eq, bit]
        simp [used]
      · rw [Nat.testBit_lt_two_pow (lt_of_lt_of_le (show 2 ^ n + low < 2 ^ (n + 1) by omega) (Nat.pow_le_pow_right (by decide) gt))]
        simp [show ¬ i < n + 1 by omega]

theorem sventUsed_getLsbD (s : State) (core : Nat) {n : Nat} (lt : n < 16) :
    (sventUsed s core).getLsbD n = decide (sventLen s core n ≠ 0) := by
  obtain ⟨-, bit⟩ := sum_twoPow_range (fun n => sventLen s core n != 0) 16
  rw [sventUsed, BitVec.getLsbD_ofNat, bit, decide_eq_true lt, Bool.true_and, Bool.true_and, bne, Bool.eq_iff_iff]
  simp

/-! ### A handler begins (R235) -/

/-- A core on which a handler begins for a context held with a cause: `len` is what it is charged. -/
def handlerCore (n : Nat) (cause : Cause) (host : Ctx) (entry len : Nat) (k : Core) : Core :=
  { k with
    run := .running, ctx := handlerCtx entry, svc := some { host := host, cause := cause, handler := n, left := len }
    svreq := k.svreq &&& ~~~BitVec.ofNat 16 (2 ^ n), svused := k.svused + BitVec.ofNat 24 len }

theorem startHandler_eq (core n : Nat) (cause : Cause) (host : Ctx) (s : State) : startHandler core n cause host s =
    setCore s core (handlerCore n cause host (sventEntry s core n) (sventLen s core n) (getCore s core)) := rfl

/-- The handler that begins is no longer pending. -/
theorem svreq_handlerCore (n : Nat) (cause : Cause) (host : Ctx) (entry len : Nat) (k : Core) {m : Nat} (lt : m < 16) :
    (handlerCore n cause host entry len k).svreq.getLsbD m = (k.svreq.getLsbD m && decide (m ≠ n)) := by
  show (k.svreq &&& ~~~BitVec.ofNat 16 (2 ^ n)).getLsbD m = _
  rw [BitVec.getLsbD_and, BitVec.getLsbD_not, BitVec.getLsbD_ofNat, Nat.testBit_two_pow, decide_eq_true lt, Bool.true_and, Bool.true_and,
    decide_not, decide_eq_decide.2 (@eq_comm _ n m)]

/-! ### The handlers end (R236, R237) -/

/-- The core after its handlers, where a save was ordered while they ran and where it resumes. -/
theorem endHandlers_held {core : Nat} {s : State} (cause : Cause) (host : Ctx) (save : (getCore s core).saveDue = true) :
    endHandlers core cause host s = setCore s core { getCore s core with run := .held cause, ctx := host, svc := none } := by
  simp only [endHandlers, save, if_true]

theorem endHandlers_resumes {core : Nat} {s : State} (cause : Cause) (host : Ctx) (free : (getCore s core).saveDue = false) :
    let u := endHandlers core cause host s
    (∀ m, m ≠ core → getCore u m = getCore s m) ∧ u.mem = s.mem ∧
    getCore u core = { resumedCore { getCore s core with run := .held cause, ctx := host, svc := none } with yielded := true } := by
  intro u
  have eq : u = _ := if_neg (by rw [free]; decide)
  rw [eq]
  refine ⟨fun m other => ?_, rfl, ?_⟩
  · rw [getCore_setCore_ne _ _ _ _ other, getCore_resume_ne _ _ _ other, getCore_setCore_ne _ _ _ _ other]
  · rw [getCore_setCore, getCore_resumeCore, getCore_setCore]

theorem isYield_iff (cause : Cause) : isYield cause = true ↔ cause = .yieldsvc ∨ cause = .deadline := by
  simp only [isYield, Bool.or_eq_true, beq_iff_eq]

/-- `DEADLINE` after the handlers of a yield: reloaded, unless the kernel wrote it during the hold (R237). -/
theorem deadline_of_yield {k : Core} {cause : Cause} (host : Ctx) (yield : cause = .yieldsvc ∨ cause = .deadline) :
    (resumedCore { k with run := .held cause, ctx := host, svc := none }).deadline = if k.dlHold then k.deadline else k.dlreload := by
  simp only [resumedCore, (isYield_iff cause).2 yield, Bool.true_and]
  cases k.dlHold <;> rfl

theorem deadline_of_not_yield {k : Core} {cause : Cause} (host : Ctx) (other : ¬ (cause = .yieldsvc ∨ cause = .deadline)) :
    (resumedCore { k with run := .held cause, ctx := host, svc := none }).deadline = k.deadline := by
  simp only [resumedCore, Bool.eq_false_iff.2 (mt (isYield_iff cause).1 other), Bool.false_and]
  rfl

theorem handlerPerformed_iff {s : State} {core : Nat} : handlerPerformed s core = true ↔
    ∀ q ∈ s.reqs, q.2.core = core → q.2.service = true → q.2.told = true ∨ reqAt s q.1 q.2 3 = true := by
  simp only [handlerPerformed, List.all_eq_true, Bool.or_eq_true, bne_iff_ne, Bool.not_eq_true']
  refine forall₂_congr fun q _ => ?_
  cases q.2.service <;> simp only [reduceCtorEq, or_false, or_true, true_or, false_imp_iff, true_imp_iff, imp_true_iff]
  tauto

theorem exec_handlerEnd_none {core : Nat} {s : State} (host : (getCore s core).svc = none) : exec (.handlerEnd core) s = .next s := by
  show execHandlerEnd core s = _
  simp only [execHandlerEnd, host]

section

variable {core : Nat} {s : State} {h : Service} (handler : (getCore s core).svc = some h)
include handler

theorem exec_handlerEnd_charged (left : h.left ≠ 0) : exec (.handlerEnd core) s = .next s := by
  show execHandlerEnd core s = _
  simp only [execHandlerEnd, handler, left, ne_eq, not_false_eq_true, if_true]

variable (spent : h.left = 0)
include spent

theorem exec_handlerEnd_overrun (open_ : h.exited = false) :
    exec (.handlerEnd core) s = .next (doubleFault core .none 0x01 0 none s) := by
  show execHandlerEnd core s = _
  simp only [execHandlerEnd, handler, spent, open_, ne_eq, not_true_eq_false, if_false, Bool.not_false, if_true]

variable (exited : h.exited = true)
include exited

theorem exec_handlerEnd_waits (waits : handlerPerformed s core = false) : exec (.handlerEnd core) s = .next s := by
  show execHandlerEnd core s = _
  simp only [execHandlerEnd, handler, spent, exited, waits]
  rfl

variable (performed : handlerPerformed s core = true)
include performed

theorem exec_handlerEnd_next {n : Nat} (next : nextHandler s core = some n) :
    exec (.handlerEnd core) s = .next (startHandler core n h.cause h.host s) := by
  show execHandlerEnd core s = _
  simp only [execHandlerEnd, handler, spent, exited, performed, next]
  rfl

theorem exec_handlerEnd_ends (none : nextHandler s core = none) :
    exec (.handlerEnd core) s = .next (endHandlers core h.cause h.host s) := by
  show execHandlerEnd core s = _
  simp only [execHandlerEnd, handler, spent, exited, performed, none]
  rfl

end

/-! ### The stop at `DEADLINE` (R82, R236) -/

/-- Whether the deadline of a core has passed while its context runs. -/
def DeadlinePassed (k : Core) : Prop := k.run = .running ∧ k.svc = none ∧ k.dlen = true ∧ k.deadline = 0

theorem deadlinePassed_iff (k : Core) : DeadlinePassed k ↔ (k.run == .running && k.svc.isNone && k.dlen && k.deadline == 0) = true := by
  simp only [DeadlinePassed, Bool.and_eq_true, beq_iff_eq, Option.isNone_iff_eq_none, and_assoc]

theorem exec_deadlineExpiry_early {core : Nat} {s : State} (early : ¬ DeadlinePassed (getCore s core)) :
    exec (.deadlineExpiry core) s = .next s := if_neg (mt (deadlinePassed_iff _).2 early)

section

variable {core : Nat} {s : State} (passed : DeadlinePassed (getCore s core))
include passed

theorem exec_deadlineExpiry_quiet (none : nextHandler s core = none) : exec (.deadlineExpiry core) s =
    .next (endHandlers core .deadline (getCore (freeze core .deadline s) core).ctx (freeze core .deadline s)) := by
  refine (if_pos ((deadlinePassed_iff _).1 passed)).trans ?_
  rw [none]
  rfl

theorem exec_deadlineExpiry_handler {n : Nat} (next : nextHandler s core = some n)
    (held : (getCore (takeStop core { cause := .deadline } s) core).run = .held .deadline) : exec (.deadlineExpiry core) s =
    .next (startHandler core n .deadline (getCore (takeStop core { cause := .deadline } s) core).ctx
      (takeStop core { cause := .deadline } s)) := by
  refine (if_pos ((deadlinePassed_iff _).1 passed)).trans ?_
  rw [next]
  exact congrArg Host.Outcome.next (if_pos (by rw [held]; decide))

end

/-- A stop that leaves its core held keeps the entries of the handlers (R234), the pending ones, and the budget used so far. -/
theorem takeStop_held {c : Nat} {e : Stop} {s : State} (host : (getCore s c).svc = none) (other : e.cause ≠ .dataerr)
    (held : (getCore (takeStop c e s) c).run = .held e.cause) : (takeStop c e s).svents = s.svents ∧
    (getCore (takeStop c e s) c).svreq = (getCore s c).svreq ∧ (getCore (takeStop c e s) c).svused = (getCore s c).svused := by
  have kept : (takeBackRows (getCore s c)).svreq = (getCore s c).svreq ∧ (takeBackRows (getCore s c)).svused = (getCore s c).svused := by
    unfold takeBackRows
    split <;> exact ⟨rfl, rfl⟩
  rw [takeStop_writes host other] at held ⊢
  have walked := pinnedAt_frame (freeze c e.cause s) c 2 (getCore (freeze c e.cause s) c).ctx.traprec.toNat 128
  rcases pinned : pinnedAt (freeze c e.cause s) c 2 (getCore (freeze c e.cause s) c).ctx.traprec.toNat 128 with ⟨u, r | x⟩
  · rw [writeRecord_failed pinned, getCore_doubleFault] at held
    cases held
  · rw [pinned] at walked
    rw [getCore_writeRecord pinned, getCore_freeze]
    refine ⟨?_, kept⟩
    rw [writeRecord_pinned pinned]
    exact (congrArg State.svents (postOwn_frame ..) :).trans ((congrArg State.svents (physWriteN_frame ..).rest :).trans
      (congrArg State.svents walked :))

end Sys2Proof.Machine
end

section
/-! Proofs of the family of spec/09: requests to stop, saves, restores and handlers (O44). -/

namespace Sys2Proof.Machine

/-! ### Requests to stop and the release of a halt (R169, R170, R174, R240) -/

theorem partDebug_iff (s : State) (core : Nat) : partDebug s core = true ↔ (getCore s core).dbghold = true ∨
    ∃ q ∈ s.cores, q.2.dbghold = true ∧ ∃ p, ownerPart s core = some p ∧ ownerPart s q.1 = some p := by
  simp only [partDebug, Bool.or_eq_true, List.any_eq_true, Bool.and_eq_true, beq_iff_eq, and_assoc]
  refine or_congr_right (exists_congr fun q => and_congr_right fun _ => and_congr_right fun _ => ?_)
  rw [Option.isSome_iff_exists]
  constructor
  · rintro ⟨⟨p, owner⟩, same⟩
    exact ⟨p, same ▸ owner, owner⟩
  · rintro ⟨p, mine, owner⟩
    exact ⟨⟨p, owner⟩, owner.trans mine.symm⟩

theorem stoppable_iff (k : Core) : stoppable k = true ↔ k.run = .running ∨ ∃ e, k.run = .held e := by
  unfold stoppable
  split <;> simp_all

theorem exec_debugHaltRequest (core : Nat) (s : State) : exec (.debugHaltRequest core) s =
    .next (if partDebug s core && stoppable (getCore s core) then setCore s core { getCore s core with pendDbg := true } else s) := rfl

theorem exec_debugRelease (core : Nat) (s : State) : exec (.debugRelease core) s =
    .next (if partDebug s core && (getCore s core).run == .held .debug then resumeCore core s else s) := rfl

theorem exec_preemptRequest (core : Nat) (s : State) : exec (.preemptRequest core) s =
    .next (if stoppable (getCore s core) then setCore s core { getCore s core with pendPre := true } else s) := rfl

/-- Settles O44: requests, saves, restores and handlers by the cases of their rows, and the image of a saved context part by part. -/
theorem stopsAndHandlers : Obligations.StopsAndHandlers := by
  unfold Obligations.StopsAndHandlers
  intro core v s k others resumed frozen entry len fits lowest begins debug
  have under : partDebug s core = true ↔ debug := partDebug_iff s core
  have next : ∀ n, lowest n → nextHandler s core = some n := fun n low => nextHandler_of_lowest low.1 low.2
  refine ⟨fun live => ⟨?preempt, fun halted => ?halt⟩, fun idle => ?deaf, fun free => ?free, fun _ awake => ?awake,
    fun halted held => ?release, rfl, ⟨?stays, ?ordered, ?killed, ?discarded, ?waits, ?walked, ?failed⟩, ?fault, ?image,
    ⟨?full, ?restore⟩, ?requests, ⟨?noHandler, ?handler⟩, ⟨?early, ?quiet, ?expires⟩⟩
  case preempt => rw [exec_preemptRequest, if_pos ((stoppable_iff k).2 live)]
  case halt => rw [exec_debugHaltRequest, under.2 halted, (stoppable_iff k).2 live]; rfl
  case deaf =>
    have deaf : stoppable k = false := by rcases idle with run | run <;> rw [stoppable, run]
    exact ⟨by rw [exec_preemptRequest, deaf]; rfl, by rw [exec_debugHaltRequest, deaf, Bool.and_false]; rfl⟩
  case free =>
    have free : partDebug s core = false := Bool.eq_false_iff.2 (mt under.1 free)
    exact ⟨by rw [exec_debugHaltRequest, free]; rfl, by rw [exec_debugRelease, free]; rfl⟩
  case awake => rw [exec_debugRelease, beq_eq_false_iff_ne.2 awake, Bool.and_false]; rfl
  case release =>
    have released : resumeCore core s = setCore s core (resumedCore k) := rfl
    refine ⟨resumedCore k, ?_, rfl, rfl, rfl, rfl, ?_, rfl⟩
    · rw [exec_debugRelease, under.2 halted, beq_iff_eq.2 held, ← released]; rfl
    · rw [resumedCore, held]; rfl
  case stays => exact exec_contextSave_stays
  case ordered => exact exec_contextSave_handler
  case killed =>
    intro e b held block kill runs
    rw [exec_contextSave_killed held block kill, if_neg runs]
  case discarded =>
    intro e b held block kill stopped
    exact ⟨_, by rw [exec_contextSave_killed held block kill, if_pos stopped], takeKill_leaves core block⟩
  case waits =>
    intro e b held block alive unready
    exact exec_contextSave_ordered held block alive (Bool.eq_false_iff.2 (mt (saveReady_iff held).1 unready))
  case walked =>
    intro e b t xs held block alive ready walk
    have ready := (saveReady_iff held).2 ready
    refine ⟨fun va bad => exec_contextSave_bad held block alive ready walk bad,
      fun good first => exec_contextSave_asks held block alive ready walk good first,
      fun good again waits => exec_contextSave_queued held block alive ready walk good again waits,
      fun good again sent => ⟨_, exec_contextSave_moves held block alive ready walk good again sent, ?_⟩⟩
    have walked := areaWalk_frame core 2 b.area (areaRanges k.mx (!nothingInFlight k)) (List.range 12) s
    rw [show areaWalk core 2 b.area (areaRanges k.mx (!nothingInFlight k)) (List.range 12) s = _ from walk] at walked
    obtain ⟨twes, chans, rfl⟩ : ∃ twes chans, t = { s with twes := twes, chans := chans } := ⟨_, _, walked⟩
    obtain ⟨apart, here, mem, saved⟩ := saveTo_leaves core e b xs { s with twes := twes, chans := chans }
    rw [here]
    exact ⟨apart, rfl, rfl, rfl, rfl, mem, saved⟩
  case failed =>
    intro e b t er held block alive ready failed
    exact exec_contextSave_failed held block alive ((saveReady_iff held).2 ready) failed
  case fault =>
    intro orig engine reason va u
    have here : getCore u core = fencedCore k := getCore_doubleFault core orig engine reason va s
    obtain ⟨frame, -⟩ := doubleFault_frame core orig engine reason va s
    rw [here]
    exact ⟨rfl, rfl, rfl, frame.cores, doubleFault_leaves ..⟩
  case image =>
    intro n e c m spad latch _ small data side planes at_
    exact ⟨fun p => areaImage_spad n e c latch small planes, fun i hi p hp => areaImage_vector n e c latch small planes hi hp,
      fun o ho claimed r hr => areaImage_slot n e c latch small planes ho claimed hr data side,
      fun t ht used _ _ _ j hj => areaImage_tile n e c latch small planes ht used hj⟩
  case full => exact fun none => exec_contextRestore_stays (none.imp_left (mt (coreBare_iff k).1))
  case restore =>
    intro w bare found first k1 latch parts reads
    have bare := (coreBare_iff k).2 bare
    refine ⟨fun t xs walk => ?_, fun t er failed => exec_contextRestore_failed bare found rfl failed⟩
    obtain ⟨u, restored, apart, mem, saved, here⟩ := exec_contextRestore_reads bare found rfl walk
    refine ⟨u, restored, apart, mem, saved, ?_⟩
    rw [here]
    exact ⟨rfl, rfl, rfl, rfl, rfl, rfl, rfl, rfl⟩
  case requests =>
    refine ⟨v &&& sventUsed s core, rfl, fun n lt => ?_⟩
    rw [BitVec.getLsbD_and, sventUsed_getLsbD s core lt]
    rfl
  case noHandler => exact exec_handlerEnd_none
  case handler =>
    intro h handler performed yields
    have done : handlerPerformed s core = true ↔ performed := handlerPerformed_iff
    refine ⟨exec_handlerEnd_charged handler, fun spent open_ => ?overrun,
      fun spent exited waits => exec_handlerEnd_waits handler spent exited (Bool.eq_false_iff.2 (mt done.1 waits)),
      fun spent exited ends n low => ?next, fun spent exited ends none due => ?held, fun spent exited ends none free => ?resumes⟩
    case overrun =>
      have here := getCore_doubleFault core .none 0x01 0 none s
      obtain ⟨frame, -⟩ := doubleFault_frame core .none 0x01 0 none s
      refine ⟨_, exec_handlerEnd_overrun handler spent open_, ?_⟩
      rw [here, fencedCore, handler]
      exact ⟨rfl, rfl, rfl, frame.cores⟩
    case next =>
      exact ⟨_, exec_handlerEnd_next handler spent exited (done.2 ends) (next n low),
        ⟨rfl, rfl, rfl, rfl, fun m lt => svreq_handlerCore _ _ _ _ _ _ lt⟩, rfl⟩
    case held =>
      refine ⟨_, exec_handlerEnd_ends handler spent exited (done.2 ends) (nextHandler_of_none none), ?_⟩
      rw [endHandlers_held _ _ due]
      exact ⟨fun m other => getCore_setCore_ne _ _ _ _ other, rfl, getCore_setCore ..⟩
    case resumes =>
      obtain ⟨apart, mem, here⟩ := endHandlers_resumes h.cause h.host free
      refine ⟨_, exec_handlerEnd_ends handler spent exited (done.2 ends) (nextHandler_of_none none), apart, mem, ?_⟩
      rw [here]
      exact ⟨rfl, rfl, rfl, rfl, deadline_of_yield h.host, deadline_of_not_yield h.host⟩
  case early => exact exec_deadlineExpiry_early
  case quiet =>
    intro now none rows
    have stopped := getCore_freeze core .deadline s
    rw [takeBackRows_of_none rows] at stopped
    obtain ⟨apart, mem, here⟩ := endHandlers_resumes .deadline (getCore (freeze core .deadline s) core).ctx
      (congrArg Core.saveDue stopped : (getCore (freeze core .deadline s) core).saveDue = false)
    rw [stopped] at here
    refine ⟨_, exec_deadlineExpiry_quiet now (nextHandler_of_none none), fun m other => ?_, mem, ?_⟩
    · exact (apart m other).trans (getCore_freeze_ne _ _ _ _ other)
    · rw [stopped, here]
      exact ⟨rfl, rfl, rfl, rfl⟩
  case expires =>
    intro now n low held
    have host : k.svc = none := now.2.1
    obtain ⟨svents, svreq, svused⟩ := takeStop_held host (by decide) held
    have entries : sventEntry (takeStop core { cause := .deadline } s) core n = entry n :=
      congrArg (fun x : SMap (BitVec 32) => bits (smGetD x (16 * (core / 16) + n) 0).toNat 0 16) svents
    have lens : sventLen (takeStop core { cause := .deadline } s) core n = len n :=
      congrArg (fun x : SMap (BitVec 32) => bits (smGetD x (16 * (core / 16) + n) 0).toNat 16 12) svents
    refine ⟨_, exec_deadlineExpiry_handler now (next n low) held, rfl, ?_⟩
    rw [startHandler_eq, getCore_setCore, entries, lens]
    exact ⟨rfl, rfl, rfl, congrArg (· + BitVec.ofNat 24 (len n)) svused, fun m lt => by rw [svreq_handlerCore _ _ _ _ _ _ lt, svreq]⟩

end Sys2Proof.Machine
end

section
/-! Proofs of the family of spec/11: transfers (O33). -/

namespace Sys2Proof.Machine

/-! ### Traps and results that the transfers share (R195, R203) -/

theorem firstStop_some (e : Stop) (l : List (Option Stop)) : firstStop (some e :: l) = some e := rfl

theorem firstStop_none (l : List (Option Stop)) : firstStop (none :: l) = firstStop l := rfl

theorem barBad_iff {s : State} {bar : Option (Fin 64)} : barBad s bar = true ↔ (cur s).svc.isSome = true ∧ bar ≠ none := by
  simp [barBad, Option.isSome_iff_ne_none]

section

variable {s : State} {engine : Nat} {a b e : SOp} {p : Pol}

theorem cpyTraps_range (hn : 0 < valN s e) (small : valN s e ≤ 262144) (out : viewOk (cur s) (valN s b) (valN s e) = false) :
    cpyTraps s engine a b e p =
      some { cause := .xlate, smask := maskC s, engine := engine, reason := 4, va := some (valN s b) } := by
  rw [cpyTraps, if_pos small, ownRange_stops engine hn out, firstStop_some]

variable (inside : 0 < valN s e → valN s e ≤ 262144 → viewOk (cur s) (valN s b) (valN s e) = true)
include inside

theorem cpyTraps_eq_peerTrap : cpyTraps s engine a b e p = peerTrap s p (valN s a) := by
  have range : (if valN s e ≤ 262144 then ownRange s engine (valN s b) (valN s e) else none) = none := by
    split_ifs with small
    · rcases Nat.eq_zero_or_pos (valN s e) with none | some
      · exact if_pos none
      · exact ownRange_clear engine (inside some small)
    · rfl
  rw [cpyTraps, range, firstStop_none]
  cases peerTrap s p (valN s a) <;> rfl

end

theorem cpyBad_iff {q : Pol} {x n : Nat} :
    cpyBad q x n = true ↔ 262144 < n ∨ (q.space = 1 ∧ ¬(peerWell x = true ∧ peerAddr x + n ≤ 0x40000)) := by
  have range : spadOk (peerAddr x) n = true ↔ peerAddr x + n ≤ 0x40000 := decide_eq_true_iff
  simp only [cpyBad, Bool.or_eq_true, decide_eq_true_eq, Bool.and_eq_true, beq_iff_eq, Bool.not_eq_true', ← Bool.not_eq_true, range]

theorem cpyLines_eq (q : Pol) (x n : Nat) : cpyLines q x n = linesOf (if q.space = 1 then peerAddr x else x) n :=
  (apply_ite (linesOf · n) _ _ _).symm

theorem sumNs_eq (a b : Option Nat) :
    sumNs a b = (match a, b with | some i, some j => some (i + j) | _, _ => none : Option Nat) := by
  cases a <;> cases b <;> rfl

/-- A slot of the issuing core that is claimed, outside a handler, takes what R195 lets in. -/
theorem ownSlot_clear {s : State} {y : Nat} (h : (cur s).svc.isSome = false) (claimed : (cur s).mx.claimed.getLsbD (refSlot y) = true)
    (lt : refSlot y < 24) : ownSlot s y = none := by
  simp [ownSlot, Option.isSome_eq_false_iff.1 h, claimed, lt]

theorem ownSlot_stops {s : State} {y : Nat}
    (h : ¬((cur s).svc.isSome = false ∧ (cur s).mx.claimed.getLsbD (refSlot y) = true ∧ refSlot y < 24)) :
    ownSlot s y = some { cause := .oslot, smask := maskC s } := by
  refine if_neg fun ok => h ?_
  simpa [and_assoc] using ok

/-- From a base within a slot to its last row is no more than the data rows hold. -/
theorem refRoom_le (y : Nat) : refRoom y ≤ 8192 := by
  unfold refRoom
  split_ifs <;> omega

section

variable {g : Guard} {d : SDst} {void : Ctx → Bool} {pol : Fin 8} {peer atomic stamp : Bool} {traps : State → Pol → Option Stop}
  {body : State → Pol → State × Word} {i : Instr} {s : State} {q : Pol} {fb : Bool} {r : Req} {lines : Nat} {ns : Option Nat}

/-- An entry that sends pieces whose bytes are still to be taken is accepted with those bytes. -/
theorem accepts_of_pieces
    (row : exec i s = settle s (issueC g d void (fun s => underPol s pol peer atomic stamp (traps s) (body s)) s))
    (on : guardOn (curCtx s) g = true) (clear : traps s (polNow s pol) = none)
    (works : fallback peer atomic stamp (polNow s pol) = (some q, fb)) {ps : List Piece}
    {bytes : List (Loc × Loc × Option (Nat × Nat) × Bool)} {t : Option Nat}
    (does : body s q = sendReq s { r with pieces := ps } lines ns) (core : r.core = s.sched.cur)
    (service : r.service = (cur s).svc.isSome) (fresh : ∀ p ∈ ps, p.stage = 0 ∧ p.buf = [] ∧ 0 < p.len)
    (moves : Spec.bytesOf ps = bytes)
    (tick : promiseTick s s.sched.cur r.ord lines ns = t) : Spec.accepts g d i s (void (curCtx s)) fb r bytes t := by
  subst moves tick
  exact accepts_of_send row on clear works does core service fresh

end

/-! ### The rows (R203) -/

section

variable (g : Guard) (d : SDst) (pol : Fin 8) (bar : Option (Fin 64)) (a b e : SOp) (s : State)

theorem exec_cpyRd : exec (.cpyRd g d pol bar a b e) s = settle s (issueCpyRd g d pol bar a b e s) := rfl

theorem exec_cpyWr : exec (.cpyWr g d pol bar a b e) s = settle s (issueCpyWr g d pol bar a b e s) := rfl

theorem exec_cpyo : exec (.cpyo g d pol bar a b e) s = settle s (issueCpyo g d pol bar a b e s) := rfl

theorem exec_cpya : exec (.cpya g d pol bar a b e) s = settle s (issueCpya g d pol bar a b e s) := rfl

end

/-- Settles O33: each of the four is an entry under its policy, whose checks come in the order of R195; what it sends is the pieces of
one run, which move its bytes one by one (`bytesOf_mkPieces`). -/
theorem copyTransfers : Obligations.CopyTransfers := by
  unfold Obligations.CopyTransfers
  intro g d pol bar a b e s me x y n void handler barred at_ mine moves bound promise rd wr os vv
  have rowRd := exec_cpyRd g d pol bar a b e s
  have rowWr := exec_cpyWr g d pol bar a b e s
  have rowO := exec_cpyo g d pol bar a b e s
  have rowA := exec_cpya g d pol bar a b e s
  have noBar : ¬barred → ¬barBad s bar = true := fun h => mt barBad_iff.1 h
  refine ⟨offC_of_issueC rowRd, offC_of_issueC rowWr, offC_of_issueC rowO, offC_of_issueC rowA,
    fun on => ⟨fun hn small out => ?_, fun inside space away => ?_, fun q fb works inside peer => ?_, fun none => ?_, fun space => ?_,
      fun q fb works => ?_⟩⟩
  · exact ⟨stopsC_of_trap rowRd on (cpyTraps_range hn small out), stopsC_of_trap rowWr on (cpyTraps_range hn small out)⟩
  · have trap := peerTrap_stops space away
    exact ⟨stopsC_of_trap rowRd on ((cpyTraps_eq_peerTrap inside).trans trap),
      stopsC_of_trap rowWr on ((cpyTraps_eq_peerTrap inside).trans trap)⟩
  · intro f bad far near ns
    obtain ⟨space, -, -⟩ := fallback_works works
    have clear : ∀ engine, cpyTraps s engine a b e (polNow s pol) = none := fun engine =>
      (cpyTraps_eq_peerTrap inside).trans (peerTrap_clear fun h => peer (space.trans h))
    refine ⟨fun hb => ?_, fun hb h0 => ?_, fun hb hn h => ?_, fun hb hn h => ?_⟩
    · exact ⟨replies_only rowRd on (clear 6) works (if_pos (barBad_iff.2 hb)),
        replies_only rowWr on (clear 7) works (if_pos (barBad_iff.2 hb))⟩
    · exact ⟨replies_only rowRd on (clear 6) works ((if_neg (noBar hb)).trans (if_pos h0)),
        replies_only rowWr on (clear 7) works ((if_neg (noBar hb)).trans (if_pos h0))⟩
    · exact ⟨replies_only rowRd on (clear 6) works ((if_neg (noBar hb)).trans ((if_neg hn.ne').trans (if_pos (cpyBad_iff.2 h)))),
        replies_only rowWr on (clear 7) works ((if_neg (noBar hb)).trans ((if_neg hn.ne').trans (if_pos (cpyBad_iff.2 h))))⟩
    · have good : ¬cpyBad q x n = true := mt cpyBad_iff.1 h
      have tick : ∀ bound, promiseTick s me q.ord (cpyLines q x n) bound = promise q (linesOf near n) bound := fun bound => by
        rw [cpyLines_eq]
      refine ⟨?_, ?_⟩
      · exact accepts_of_pieces rowRd on (clear 6) works ((if_neg (noBar hb)).trans ((if_neg hn.ne').trans (if_neg good))) rfl rfl
          (mkPieces_fresh _ _ _ _ _) (bytesOf_mkPieces ..) (tick _)
      · exact accepts_of_pieces rowWr on (clear 7) works ((if_neg (noBar hb)).trans ((if_neg hn.ne').trans (if_neg good))) rfl rfl
          (mkPieces_fresh _ _ _ _ _) (bytesOf_mkPieces ..) (tick _)
  · exact stopsC_of_trap rowO on (ownSlot_stops none)
  · exact ⟨replies_refused rowA on rfl (fallback_refused space false false), fun h claimed lt =>
      replies_refused rowO on (ownSlot_clear h claimed lt) (fallback_refused space false false)⟩
  · intro f slot off room
    refine ⟨fun h claimed lt => ?_, fun hb => ?_, fun hb h0 => ?_, fun hn => ?_, fun hn small hb => ?_⟩
    · have clear := ownSlot_clear h claimed lt
      have unbarred : ¬barBad s bar = true := noBar fun hb => Bool.false_ne_true (h.symm.trans hb.1)
      have fits := refRoom_le y
      refine ⟨fun h0 => ?_, fun hn out => ?_, fun hn low into => ?_⟩
      · exact replies_only rowO on clear works ((if_neg unbarred).trans (if_pos h0))
      · exact replies_only rowO on clear works ((if_neg unbarred).trans ((if_neg hn.ne').trans (if_pos (.inr out))))
      · have good : ¬(262144 < n ∨ 2 ^ 12 ≤ y ∨ refRoom y < n) := by
          change n ≤ refRoom y at into
          omega
        exact accepts_of_pieces rowO on clear works ((if_neg unbarred).trans ((if_neg hn.ne').trans (if_neg good))) rfl rfl
          (mkPieces_fresh _ _ _ _ _) (bytesOf_mkPieces ..) rfl
    · exact replies_only rowA on rfl works (if_pos (barBad_iff.2 hb))
    · exact replies_only rowA on rfl works ((if_neg (noBar hb)).trans (if_pos h0))
    · have size : n ≠ 0 := (lt_of_lt_of_le (by decide) hn).ne'
      refine replies_only rowA on rfl works (ite_eq_left_iff.2 fun _ => ?_)
      exact (if_neg size).trans (if_pos hn)
    · exact accepts_of_pieces rowA on rfl works ((if_neg (noBar hb)).trans ((if_neg hn.ne').trans (if_neg (not_le.2 small)))) rfl rfl
        (mkPieces_fresh _ _ _ _ _) (bytesOf_mkPieces ..) (congrArg _ (sumNs_eq ..))

end Sys2Proof.Machine
end

section
/-! Proofs of the family of spec/11: gathers, scatters, walks and multicasts (O34). -/

namespace Sys2Proof.Machine

/-! ### Pieces of several runs -/

theorem bytesOf_append (ps qs : List Piece) : Spec.bytesOf (ps ++ qs) = Spec.bytesOf ps ++ Spec.bytesOf qs := List.flatMap_append

theorem bytesOf_flatMap {α : Type} (l : List α) (f : α → List Piece) :
    Spec.bytesOf (l.flatMap f) = l.flatMap fun x => Spec.bytesOf (f x) := List.flatMap_assoc

theorem flatMap_mkPieces_fresh {α : Type} (l : List α) (own : Nat) (src dst : α → Loc) (n : α → Nat)
    (bar : α → Option (Nat × Nat)) :
    ∀ p ∈ l.flatMap (fun x => mkPieces own (src x) (dst x) (n x) (bar x)), p.stage = 0 ∧ p.buf = [] ∧ 0 < p.len :=
  List.forall_mem_flatMap.2 fun x _ => mkPieces_fresh own (src x) (dst x) (n x) (bar x)

/-! ### The index list (R203) -/

theorem mReadN_add (m : SMap Byte) (a i n : Nat) : mReadN m a (i + n) = mReadN m a i ++ mReadN m (a + i) n := by
  induction i generalizing a with
  | zero => simp [mReadN]
  | succ i ih => rw [Nat.succ_add, mReadN, ih, mReadN, List.cons_append, Nat.add_assoc, Nat.add_comm 1 i]

theorem leNat_append (xs ys : List Byte) : leNat (xs ++ ys) = leNat xs + 256 ^ xs.length * leNat ys := by
  induction xs with
  | nil => simp [leNat]
  | cons b xs ih =>
    rw [List.cons_append, leNat, leNat, ih, List.length_cons, pow_succ]
    ring

/-- The words of 32 bits of a list of bytes in memory. -/
theorem lanesOf_mReadN (m : SMap Byte) (y n : Nat) :
    lanesOf 32 n (leNat (mReadN m y (4 * n))) = (List.range n).map fun k => leNat (mReadN m (y + 4 * k) 4) := by
  induction n generalizing y with
  | zero => rfl
  | succ n ih =>
    have size := leNat_lt (mReadN m y 4)
    have parts : leNat (mReadN m y (4 * (n + 1))) = leNat (mReadN m y 4) + 2 ^ 32 * leNat (mReadN m (y + 4) (4 * n)) := by
      rw [Nat.mul_succ, Nat.add_comm (4 * n), mReadN_add, leNat_append, mReadN_length]
      rfl
    rw [mReadN_length] at size
    have first : leNat (mReadN m y (4 * (n + 1))) % 2 ^ 32 = leNat (mReadN m y 4) := by omega
    have rest : leNat (mReadN m y (4 * (n + 1))) / 2 ^ 32 = leNat (mReadN m (y + 4) (4 * n)) := by omega
    rw [lanesOf, first, rest, ih, List.range_succ_eq_map, List.map_cons, List.map_map]
    simp only [Function.comp_def, Nat.mul_succ, Nat.add_assoc, Nat.add_comm 4]
    rfl

/-- The index of element `k` of the list at `y` in a core's own memory. -/
def elIndex (s : State) (y k : Nat) : Nat := leNat (spadBytes s (ownNum s) (y + 4 * k) 4)

theorem elRuns_eq (s : State) (x y z : Nat) :
    elRuns s x y z = (List.range (elCount z)).map fun k => (x + elIndex s y k * elSize z, elSize z) := by
  have words : lanesOf 32 (elCount z) (leNat (spadBytes s (ownNum s) y (4 * elCount z))) =
      (List.range (elCount z)).map fun k => elIndex s y k := by
    by_cases own : ownNum s < 1024
    · simp only [spadBytes, elIndex, if_pos own, lanesOf_mReadN]
    · simp only [spadBytes, elIndex, if_neg own, lanesOf_mReadN, Nat.add_assoc]
  rw [elRuns, words, List.map_map]
  rfl

theorem zipIdx_elRuns (s : State) (x y z : Nat) :
    (elRuns s x y z).zipIdx = (List.range (elCount z)).map fun k => ((x + elIndex s y k * elSize z, elSize z), k) := by
  rw [elRuns_eq, List.zipIdx_eq_zip_range', List.length_map, List.length_range, ← List.range_eq_range', List.zip_map_left,
    List.zip, List.zipWith_self, List.map_map]
  rfl

/-- The bytes of the elements, one after the other, from runs in the one place to runs in the other. -/
theorem bytesOf_elements (s : State) (x y z : Nat) (own : Nat) (src dst : (Nat × Nat) × Nat → Loc) (bar : Option (Nat × Nat)) :
    Spec.bytesOf ((elRuns s x y z).zipIdx.flatMap fun r => mkPieces own (src r) (dst r) r.1.2 bar) =
      (List.range (elCount z)).flatMap fun k => (List.range (elSize z)).map fun j =>
        (locAt (src ((x + elIndex s y k * elSize z, elSize z), k)) j, locAt (dst ((x + elIndex s y k * elSize z, elSize z), k)) j,
          bar, false) := by
  rw [bytesOf_flatMap, zipIdx_elRuns, List.flatMap_map]
  simp only [bytesOf_mkPieces]

section

variable {s : State} {engine : Nat} {b e : SOp}

theorem elTraps_list (out : viewOk (cur s) (valN s b) (4 * elCount (valN s e)) = false) :
    elTraps s engine b e =
      some { cause := .xlate, smask := maskC s, engine := engine, reason := 4, va := some (valN s b) } := by
  rw [elTraps, ownRange_stops engine (by simp [elCount]) out, firstStop_some]

variable (list : viewOk (cur s) (valN s b) (4 * elCount (valN s e)) = true)
include list

theorem elTraps_elements (out : viewOk (cur s) (elAddr (valN s e)) (elCount (valN s e) * elSize (valN s e)) = false) :
    elTraps s engine b e =
      some { cause := .xlate, smask := maskC s, engine := engine, reason := 4, va := some (elAddr (valN s e)) } := by
  rw [elTraps, ownRange_clear engine list, firstStop_none, ownRange_stops engine (by simp [elCount, elSize]) out, firstStop_some]

theorem elTraps_clear (elements : viewOk (cur s) (elAddr (valN s e)) (elCount (valN s e) * elSize (valN s e)) = true) :
    elTraps s engine b e = none := by
  rw [elTraps, ownRange_clear engine list, firstStop_none, ownRange_clear engine elements]
  rfl

end

theorem elBad_iff {s : State} {z : Nat} {bar : Option (Fin 64)} : (!elOk z || barBad s bar) = true ↔
    ¬(z < 2 ^ 34 ∧ bits z 30 4 ≤ 8) ∨ ((cur s).svc.isSome = true ∧ bar ≠ none) := by
  rw [← barBad_iff, Bool.or_eq_true, elOk, Bool.not_eq_true', ← Bool.not_eq_true, Bool.and_eq_true,
    decide_eq_true_iff, decide_eq_true_iff]

/-! ### Walks (R204, R205) -/

/-- A row whose first `m` bytes come from one place and whose other bytes from another. -/
theorem map_range_ite {α : Type} {m n : Nat} (le : m ≤ n) (f g : Nat → α) :
    ((List.range n).map fun j => if j < m then f j else g j) =
      (List.range m).map f ++ (List.range (n - m)).map fun j => g (m + j) := by
  obtain ⟨k, rfl⟩ := Nat.exists_eq_add_of_le le
  rw [List.range_add, List.map_append, List.map_map, Nat.add_sub_cancel_left]
  congr 1
  · exact List.map_congr_left fun j hj => if_pos (List.mem_range.1 hj)
  · exact List.map_congr_left fun j _ => if_neg (by simp)

theorem walkLive_le (w : Walk) (i : Nat) : walkLive w i ≤ w.rowb := by
  unfold walkLive
  split_ifs <;> omega

theorem bytesOf_walkLoad (own target : Nat) (w : Walk) (y : Nat) (bar : Option (Nat × Nat)) :
    Spec.bytesOf (walkLoad own target w y bar) = (List.range w.nrows).flatMap fun i => (List.range w.rowb).map fun j =>
      if j < walkLive w i then (.virt (walkVa w i + j), .spad target (y + i * w.dstride + j), bar, false)
      else if w.nofill = true then (.zero, .none, bar, true) else (.zero, .spad target (y + i * w.dstride + j), bar, false) := by
  rw [walkLoad, bytesOf_flatMap]
  refine List.flatMap_congr fun i _ => ?_
  rw [map_range_ite (walkLive_le w i), bytesOf_append, bytesOf_mkPieces]
  congr 1
  by_cases clip : w.rowb - walkLive w i = 0
  · rw [if_pos clip, clip]
    rfl
  · rw [if_neg clip]
    by_cases fill : w.nofill = true
    · simp [fill, locAt, Spec.bytesOf]
    · simp only [fill, if_false, bytesOf_mkPieces, locAt, Nat.add_assoc, Bool.false_eq_true]

theorem walkLoad_fresh (own target : Nat) (w : Walk) (y : Nat) (bar : Option (Nat × Nat)) :
    ∀ p ∈ walkLoad own target w y bar, p.stage = 0 ∧ p.buf = [] ∧ 0 < p.len := by
  refine List.forall_mem_flatMap.2 fun i _ => List.forall_mem_append.2 ⟨mkPieces_fresh _ _ _ _ _, ?_⟩
  split_ifs with clip fill
  · exact List.forall_mem_nil _
  · exact List.forall_mem_singleton.2 ⟨rfl, rfl, Nat.pos_of_ne_zero clip⟩
  · exact mkPieces_fresh _ _ _ _ _

theorem bytesOf_walkStore (own source : Nat) (w : Walk) (y : Nat) (bar : Option (Nat × Nat)) :
    Spec.bytesOf (walkStore own source w y bar) = (List.range w.nrows).flatMap fun i => (List.range w.rowb).map fun j =>
      if j < walkLive w i then (.spad source (y + i * w.dstride + j), .virt (walkVa w i + j), bar, false)
      else (.zero, .none, bar, false) := by
  rw [walkStore, bytesOf_flatMap]
  refine List.flatMap_congr fun i _ => ?_
  rw [map_range_ite (walkLive_le w i), bytesOf_append, bytesOf_mkPieces]
  congr 1
  split_ifs with clip
  · rw [clip]
    rfl
  · simp [locAt, Spec.bytesOf]

theorem walkStore_fresh (own source : Nat) (w : Walk) (y : Nat) (bar : Option (Nat × Nat)) :
    ∀ p ∈ walkStore own source w y bar, p.stage = 0 ∧ p.buf = [] ∧ 0 < p.len := by
  refine List.forall_mem_flatMap.2 fun i _ => List.forall_mem_append.2 ⟨mkPieces_fresh _ _ _ _ _, ?_⟩
  split_ifs with clip
  · exact List.forall_mem_nil _
  · exact List.forall_mem_singleton.2 ⟨rfl, rfl, Nat.pos_of_ne_zero clip⟩

/-- The promise of a walk: the next tick where all its bytes are clipped (R205, R196). -/
def walkPromise (s : State) (ord : Nat) (w : Walk) (bit : Nat) : Option Nat :=
  if ∀ i < w.nrows, walkLive w i = 0 then (promiseBase s s.sched.cur ord).map (· + 1)
  else promiseTick s s.sched.cur ord (walkLines w) (virtNs s bit (walkRuns w) 57)

theorem sendWalk_eq {s : State} {r : Req} (core : r.core = s.sched.cur) (w : Walk) (bit : Nat) :
    sendWalk s r w bit =
      if contextFree s r.core r.service = true then
        (addReq s { r with promise := walkPromise s r.ord w bit }, acceptedW (walkPromise s r.ord w bit))
      else (s, stBusy) := by
  have clipped : ((walkRuns w).all fun x => x.2 == 0) = true ↔ ∀ i < w.nrows, walkLive w i = 0 := by simp [walkRuns]
  rw [sendWalk, walkPromise, ← core]
  by_cases all : ∀ i < w.nrows, walkLive w i = 0
  · rw [if_pos (clipped.2 all), if_pos all]
    rfl
  · rw [if_neg (mt clipped.1 all), if_neg all]
    rfl

/-- A walk that is sent is accepted with the bytes of its pieces. -/
theorem accepts_of_walk {g : Guard} {d : SDst} {void : Ctx → Bool} {pol : Fin 8} {peer atomic stamp : Bool}
    {traps : State → Pol → Option Stop} {body : State → Pol → State × Word} {i : Instr} {s : State} {q : Pol} {fb : Bool} {r : Req}
    (row : exec i s = settle s (issueC g d void (fun s => underPol s pol peer atomic stamp (traps s) (body s)) s))
    (on : guardOn (curCtx s) g = true) (clear : traps s (polNow s pol) = none)
    (works : fallback peer atomic stamp (polNow s pol) = (some q, fb)) {ps : List Piece}
    {bytes : List (Loc × Loc × Option (Nat × Nat) × Bool)} {w : Walk} {bit : Nat}
    (does : body s q = sendWalk s { r with pieces := ps } w bit) (core : r.core = s.sched.cur) (service : r.service = (cur s).svc.isSome)
    (fresh : ∀ p ∈ ps, p.stage = 0 ∧ p.buf = [] ∧ 0 < p.len) (moves : Spec.bytesOf ps = bytes)
    {t : Option Nat} (tick : walkPromise s r.ord w bit = t) : Spec.accepts g d i s (void (curCtx s)) fb r bytes t := by
  subst moves tick
  have answer := does.trans (sendWalk_eq (r := { r with pieces := ps }) core w bit)
  unfold Spec.accepts
  rw [← service, ← core]
  exact ⟨fun full => replies_of_issueC row on (underPol_works clear works (answer.trans (if_neg (Bool.eq_false_iff.1 full)))) rfl,
    fun free => ⟨ps, rfl, fresh, replies_of_issueC row on (underPol_works clear works (answer.trans (if_pos free))) (curCtx_addReq ..)⟩⟩

section

variable {s : State} {engine : Nat} {a b : SOp}

theorem walkTraps_record (out : viewOk (cur s) (valN s a) 32 = false) :
    walkTraps s engine a b = some { cause := .xlate, smask := maskC s, engine := engine, reason := 4, va := some (valN s a) } := by
  simp only [walkTraps, ownRange_stops engine (show 0 < 32 by decide) out]

variable (record : viewOk (cur s) (valN s a) 32 = true)
include record

theorem walkTraps_data (thread : (cur s).svc = none) (bad : spadBad (cur s) (valN s a) 32 = true) :
    walkTraps s engine a b = some { cause := .dataerr, smask := maskC s, engine := 2, reason := 13, va := some (valN s a) } := by
  simp [walkTraps, ownRange_clear engine record, viewStop, record, thread, bad, sramStop]

theorem walkTraps_eq_ownRange (good : (cur s).svc = none → spadBad (cur s) (valN s a) 32 = false) :
    walkTraps s engine a b = ownRange s engine (valN s b) (walkSpan (walkOf (walkAt s (valN s a)))) := by
  have read : viewStop (cur s) 2 (maskC s) (valN s a) 32 true = none := by
    cases thread : (cur s).svc with
    | none => simp [viewStop, record, good thread]
    | some h => simp [viewStop, record, thread]
  simp only [walkTraps, ownRange_clear engine record, read]

end

theorem ownRange_clear_of_pos {s : State} {engine a n : Nat} (inside : 0 < n → viewOk (cur s) a n = true) :
    ownRange s engine a n = none := by
  rcases Nat.eq_zero_or_pos n with rfl | pos
  · rfl
  · exact ownRange_clear engine (inside pos)

theorem walkBad_iff {s : State} {v : Nat} {bar : Option (Fin 64)} : (!walkOk v || barBad s bar) = true ↔
    ¬(bits v 55 9 = 0 ∧ bits v 193 63 = 0 ∧ 1 ≤ bits v 64 16 ∧ bits v 64 16 ≤ 4096 ∧ 1 ≤ bits v 80 16 ∧ bits v 80 16 ≤ 16384 ∧
      bits v 160 32 ≤ 0x3FFFF) ∨ ((cur s).svc.isSome = true ∧ bar ≠ none) := by
  have ok : walkOk v = true ↔ bits v 55 9 = 0 ∧ bits v 193 63 = 0 ∧ 1 ≤ bits v 64 16 ∧ bits v 64 16 ≤ 4096 ∧ 1 ≤ bits v 80 16 ∧
      bits v 80 16 ≤ 16384 ∧ bits v 160 32 ≤ 0x3FFFF := by
    simp only [walkOk, Bool.and_eq_true, beq_iff_eq, decide_eq_true_eq, and_assoc]
    exact Iff.rfl
  rw [← barBad_iff, Bool.or_eq_true, Bool.not_eq_true', ← Bool.not_eq_true, ok]

/-! ### Multicasts (R206) -/

theorem firstStop_last {x y : Option Stop} (hx : x = none) (hy : y = none) (z : Option Stop) : firstStop [x, y, z] = z := by
  rw [hx, hy, firstStop_none, firstStop_none]
  cases z <;> rfl

theorem members_eq_nil {z : Nat} : members z = [] ↔ (List.range 16).filter (fun i => z.testBit i) = [] := List.map_eq_nil_iff

theorem mcastTrap_clear {s : State} {z : Nat} (inside : ∀ m ∈ members z, inPart s m = true) : mcastTrap s z = none := by
  refine if_neg fun any => ?_
  obtain ⟨m, hm, out⟩ := List.any_eq_true.1 any
  simp [inside m hm] at out

theorem mcastTrap_stops {s : State} {z : Nat} (out : ∃ m ∈ members z, inPart s m = false) :
    mcastTrap s z = some { cause := .mcastpart, smask := maskC s } := by
  obtain ⟨m, hm, out⟩ := out
  exact if_pos (List.any_eq_true.2 ⟨m, hm, by simp [out]⟩)

theorem mcastLenOk_iff {n : Nat} : mcastLenOk n = true ↔ 1 ≤ n ∧ n ≤ 262144 := decide_eq_true_iff

/-- The sender's scratchpad, where it is the source of a multicast, is in range. -/
theorem mcastSource_clear {s : State} {p : Pol} {engine x n z : Nat}
    (source : p.space = 1 → members z ≠ [] → 1 ≤ n → n ≤ 262144 → viewOk (cur s) x n = true) :
    (if p.space = 1 ∧ mcastLenOk n = true ∧ members z ≠ [] then ownRange s engine x n else none) = none := by
  split_ifs with h
  · obtain ⟨space, len, some⟩ := h
    obtain ⟨lo, hi⟩ := mcastLenOk_iff.1 len
    exact ownRange_clear engine (source space some lo hi)
  · rfl

theorem mcastBad_iff {s : State} {y aim n z : Nat} {bar : Option (Fin 64)} :
    (y ≠ aim + n * 2 ^ 32 ∨ 2 ^ 22 ≤ z ∨ (!mcastLenOk n) = true ∨ barBad s bar = true) ↔
      ¬((z < 2 ^ 22 ∧ 1 ≤ n ∧ n ≤ 262144 ∧ ¬((cur s).svc.isSome = true ∧ bar ≠ none)) ∧ y = aim + n * 2 ^ 32) := by
  rw [← barBad_iff, Bool.not_eq_true', ← Bool.not_eq_true, mcastLenOk_iff]
  simp only [not_and_or, not_lt, not_not, ne_eq]
  tauto

theorem not_spadOk_iff {a n : Nat} : (!spadOk a n) = true ↔ 0x40000 < a + n := by
  rw [Bool.not_eq_true', ← Bool.not_eq_true, spadOk, decide_eq_true_iff, not_le]
  exact Iff.rfl

/-- The sender, where it is a member, receives within its scratchpad. -/
theorem mcastAim_clear {s : State} {z : Nat} (aim n : Nat) (fits : s.sched.cur ∈ members z → aim + n ≤ 0x40000) :
    (if (members z).contains s.sched.cur = true ∧ mcastLenOk n = true ∧ (!spadOk aim n) = true then
      some { cause := .xlate, smask := maskC s, engine := 6, reason := 4, va := some aim : Stop } else none) = none := by
  refine if_neg fun ⟨here, _, past⟩ => ?_
  exact not_lt.2 (fits (List.contains_iff_mem.1 here)) (not_spadOk_iff.1 past)

/-- A slot reference stands in the low 12 bits. -/
theorem refSlot_low (y : Nat) : refSlot (bits y 0 12) = bits y 0 5 := by
  simp only [refSlot, bits]
  omega

theorem refRow_low (y : Nat) : bits (bits y 0 12) 6 6 = bits y 6 6 := by
  simp only [bits]
  omega

theorem refSide_low (y : Nat) : (bits y 0 12).testBit 5 = y.testBit 5 := by
  rw [bits, pow_zero, Nat.div_one, Nat.testBit_mod_two_pow, decide_eq_true (by decide), Bool.true_and]

theorem refBase_low (y : Nat) : refBase (bits y 0 12) = if y.testBit 5 = true then 8192 + 16 * bits y 6 6 else 128 * bits y 6 6 := by
  rw [refBase, refSide_low, refRow_low]

theorem refRoom_low (y : Nat) : refRoom (bits y 0 12) = (if y.testBit 5 = true then 16 else 128) * (64 - bits y 6 6) := by
  rw [refRoom, refSide_low, refRow_low]

/-! ### The rows (R203 to R206) -/

section

variable (g : Guard) (d : SDst) (pol : Fin 8) (bar : Option (Fin 64)) (a b e : SOp) (s : State)

theorem exec_gath : exec (.gath g d pol bar a b e) s = settle s (issueGath g d pol bar a b e s) := rfl

theorem exec_scat : exec (.scat g d pol bar a b e) s = settle s (issueScat g d pol bar a b e s) := rfl

theorem exec_cpytRd : exec (.cpytRd g d pol bar a b) s = settle s (issueCpytRd g d pol bar a b s) := rfl

theorem exec_cpytWr : exec (.cpytWr g d pol bar a b) s = settle s (issueCpytWr g d pol bar a b s) := rfl

theorem exec_mcast : exec (.mcast g d pol bar a b e) s = settle s (issueMcast g d pol bar a b e s) := rfl

theorem exec_mcastOps : exec (.mcastOps g d pol bar a b e) s = settle s (issueMcastOps g d pol bar a b e s) := rfl

end

/-- Settles O34: each is an entry under its policy, whose checks come in the order of R195; what it sends moves the bytes of its elements
(`bytesOf_elements`), of its rows (`bytesOf_walkLoad`, `bytesOf_walkStore`) or of one run to each member. -/
theorem walksAndMulticasts : Obligations.WalksAndMulticasts := by
  unfold Obligations.WalksAndMulticasts
  intro g d pol bar a b e s me x y z void2 void3 barred at_ mem gat sca wrd wwr mc mo
  have rowG := exec_gath g d pol bar a b e s
  have rowS := exec_scat g d pol bar a b e s
  have rowR := exec_cpytRd g d pol bar a b s
  have rowW := exec_cpytWr g d pol bar a b s
  have rowM := exec_mcast g d pol bar a b e s
  have rowO := exec_mcastOps g d pol bar a b e s
  have off : ∀ i ∈ [gat, sca, wrd, wwr, mc, mo], Spec.offC g d i s := by
    simp only [List.forall_mem_cons]
    exact ⟨offC_of_issueC rowG, offC_of_issueC rowS, offC_of_issueC rowR, offC_of_issueC rowW, offC_of_issueC rowM,
      offC_of_issueC rowO, List.forall_mem_nil _⟩
  refine ⟨off, fun on => ⟨?elementStops, ?elements, ?recordRange, ?recordData, ?extent, ?walks, ?multicasts⟩⟩
  case elementStops =>
    refine ⟨fun out => ?_, fun list out => ?_, fun space runs => ?_⟩
    · exact ⟨stopsC_of_trap rowG on (elTraps_list out), stopsC_of_trap rowS on (elTraps_list out)⟩
    · exact ⟨stopsC_of_trap rowG on (elTraps_elements list out), stopsC_of_trap rowS on (elTraps_elements list out)⟩
    · exact ⟨replies_refused rowG on (elTraps_clear runs.1 runs.2) (fallback_refused space false false),
        replies_refused rowS on (elTraps_clear runs.1 runs.2) (fallback_refused space false false)⟩
  case elements =>
    intro q fb works f base count size runs legal idx el all far lines promise
    have bad := elBad_iff (s := s) (z := z) (bar := bar)
    have clear : ∀ engine, runs → elTraps s engine b e = none := fun engine h => elTraps_clear h.1 h.2
    have pieces : ∀ h : Loc × Loc → Loc × Loc, (all.map fun p => ((h p).1, (h p).2, at_ me, false)) =
        (List.range count).flatMap fun k => (List.range size).map fun j => ((h (el k j)).1, (h (el k j)).2, at_ me, false) := by
      simp only [all, List.map_flatMap, List.map_map, Function.comp_def, implies_true]
    have tick : ∀ bit, promiseTick s me q.ord (runLines (elRuns s x y z)) (virtNs s bit (elRuns s x y z) 57) = promise bit := by
      intro bit
      rw [elRuns_eq]
      rfl
    refine ⟨fun inside h => ?_, fun inside ok free => ?_⟩
    · exact ⟨replies_only rowG on (clear 6 inside) works (if_pos (bad.2 h)),
        replies_only rowS on (clear 7 inside) works (if_pos (bad.2 h))⟩
    · have good : ¬(!elOk z || barBad s bar) = true := fun h => (bad.1 h).elim (· ok) free
      refine ⟨?_, ?_⟩
      · exact accepts_of_pieces rowG on (clear 6 inside) works (if_neg good) rfl rfl (flatMap_mkPieces_fresh _ _ _ _ _ _)
          ((bytesOf_elements ..).trans (pieces id).symm) (tick 1)
      · exact accepts_of_pieces rowS on (clear 7 inside) works (if_neg good) rfl rfl (flatMap_mkPieces_fresh _ _ _ _ _ _)
          ((bytesOf_elements ..).trans (pieces Prod.swap).symm) (tick 2)
  case recordRange => exact fun out => ⟨stopsC_of_trap rowR on (walkTraps_record out), stopsC_of_trap rowW on (walkTraps_record out)⟩
  case recordData => exact fun record thread bad =>
    ⟨stopsC_of_trap rowR on (walkTraps_data record thread bad), stopsC_of_trap rowW on (walkTraps_data record thread bad)⟩
  case extent =>
    intro record data v span
    have traps : ∀ engine, walkTraps s engine a b = ownRange s engine y span := fun engine => walkTraps_eq_ownRange record data
    refine ⟨fun pos out => ?_, fun space inside => ?_⟩
    · exact ⟨stopsC_of_trap rowR on ((traps 6).trans (ownRange_stops 6 pos out)),
        stopsC_of_trap rowW on ((traps 7).trans (ownRange_stops 7 pos out))⟩
    · exact ⟨replies_refused rowR on ((traps 6).trans (ownRange_clear_of_pos inside)) (fallback_refused space false false),
        replies_refused rowW on ((traps 7).trans (ownRange_clear_of_pos inside)) (fallback_refused space false false)⟩
  case walks =>
    intro q fb works record data f v nrows rowb step span live va legal here each loads stores promise
    have traps : ∀ engine, (0 < span → viewOk (cur s) y span = true) → walkTraps s engine a b = none := fun engine inside =>
      (walkTraps_eq_ownRange record data).trans (ownRange_clear_of_pos inside)
    have bad := walkBad_iff (s := s) (v := v) (bar := bar)
    refine ⟨fun inside h => ?_, fun ok inside free => ?_⟩
    · exact ⟨replies_only rowR on (traps 6 inside) works (if_pos (bad.2 h)),
        replies_only rowW on (traps 7 inside) works (if_pos (bad.2 h))⟩
    · have good : ¬(!walkOk v || barBad s bar) = true := fun h => (bad.1 h).elim (· ok) free
      have tick : ∀ bit, walkPromise s q.ord (walkOf v) bit = promise bit := fun _ => rfl
      have loadBytes : Spec.bytesOf (walkLoad (ownNum s) (ownNum s) (walkOf v) y (barOf me bar)) = loads := by
        rw [bytesOf_walkLoad]
        refine List.flatMap_congr fun i _ => List.map_congr_left fun j _ => Eq.symm ?_
        exact (apply_ite (fun p : Loc × Loc × Bool => (p.1, p.2.1, at_ me, p.2.2)) _ _ _).trans
          (congrArg _ (apply_ite (fun p : Loc × Loc × Bool => (p.1, p.2.1, at_ me, p.2.2)) _ _ _))
      have storeBytes : Spec.bytesOf (walkStore (ownNum s) (ownNum s) (walkOf v) y (barOf me bar)) = stores := by
        rw [bytesOf_walkStore]
        refine List.flatMap_congr fun i _ => List.map_congr_left fun j _ => Eq.symm ?_
        exact apply_ite (fun p : Loc × Loc × Bool => (p.1, p.2.1, at_ me, p.2.2)) _ _ _
      exact ⟨accepts_of_walk rowR on (traps 6 fun _ => inside) works (if_neg good) rfl rfl (walkLoad_fresh _ _ _ _ _) loadBytes (tick 1),
        accepts_of_walk rowW on (traps 7 fun _ => inside) works (if_neg good) rfl rfl (walkStore_fresh _ _ _ _ _) storeBytes (tick 2)⟩
  case multicasts =>
    intro q fb works f n who core src least promise moves good within source
    obtain ⟨space, -, -⟩ := fallback_works works
    have ids : members z = who.map core := rfl
    have anyNamed : members z ≠ [] ↔ who ≠ [] := not_congr members_eq_nil
    have trap : (∀ i ∈ who, inPart s (core i) = true) → mcastTrap s z = none := fun h => mcastTrap_clear (List.forall_mem_map.2 h)
    have away : (∃ i ∈ who, inPart s (core i) = false) → mcastTrap s z = some { cause := .mcastpart, smask := maskC s } :=
      fun ⟨i, hi, out⟩ => mcastTrap_stops ⟨_, List.mem_map_of_mem hi, out⟩
    have run : ∀ engine, source → (if (polNow s pol).space = 1 ∧ mcastLenOk n = true ∧ members z ≠ [] then ownRange s engine x n
        else none) = none := fun engine h => mcastSource_clear fun peer named => h (space.trans peer) (anyNamed.1 named)
    have badM := mcastBad_iff (s := s) (y := y) (aim := bits y 0 18) (n := n) (z := z) (bar := bar)
    have badO := mcastBad_iff (s := s) (y := y) (aim := bits y 0 12) (n := n) (z := z) (bar := bar)
    have tick : ∀ bit, promiseTick s me q.ord (linesOf x n) (mcastNs s q bit x n (members z)) = promise bit := fun _ => rfl
    have bytes : ∀ (to_ : Nat → Loc) p, Spec.bytesOf ((members z).flatMap fun m => mkPieces (ownNum s) p (to_ m) n (barOf m bar)) =
        who.flatMap fun i => (List.range n).map fun j => (locAt p j, locAt (to_ (core i)) j, at_ (core i), false) := by
      intro to_ p
      rw [bytesOf_flatMap, ids, List.flatMap_map]
      simp only [bytesOf_mkPieces]
      rfl
    refine ⟨fun inside src out => ?_, fun inside src fits ok whole named aim => ?_, fun src out part => ?_, fun inside src own => ?_⟩
    · have clear := (firstStop_last (run 6 src) (mcastAim_clear (bits y 0 18) n fun here => absurd here out) _).trans (trap inside)
      refine ⟨fun ok whole unnamed => ?_, fun ok whole named past => ?_, fun h => ?_⟩
      · exact replies_only rowM on clear works ((if_neg fun h => badM.1 h ⟨ok, whole⟩).trans (if_pos (members_eq_nil.2 unnamed)))
      · exact replies_only rowM on clear works
          ((if_neg fun h => badM.1 h ⟨ok, whole⟩).trans ((if_neg (anyNamed.2 named)).trans (if_pos (not_spadOk_iff.2 past))))
      · exact replies_only rowM on clear works (if_pos (badM.2 h))
    · have inRange : ¬(!spadOk (bits y 0 18) n) = true := fun h => not_lt.2 aim (not_spadOk_iff.1 h)
      have clear := (firstStop_last (run 6 src) (mcastAim_clear _ _ fits) _).trans (trap inside)
      exact accepts_of_pieces rowM on clear works
        ((if_neg fun h => badM.1 h ⟨ok, whole⟩).trans ((if_neg (anyNamed.2 named)).trans (if_neg inRange))) rfl rfl
        (flatMap_mkPieces_fresh _ _ _ _ _ _) (bytes ..) (tick 1)
    · have apart : me ∉ members z := fun here => by
        obtain ⟨i, hi, same⟩ := List.mem_map.1 here
        exact out i hi same
      exact ⟨stopsC_of_trap rowM on ((firstStop_last (run 6 src) (mcastAim_clear (bits y 0 18) n fun here => absurd here apart)
        _).trans (away part)),
        stopsC_of_trap rowO on ((firstStop_last (run 8 src) (if_neg (mt List.contains_iff_mem.1 apart)) _).trans (away part))⟩
    · have slot : (if (members z).contains me = true then ownSlot s (bits y 0 12) else none) = none := by
        split_ifs with here
        · obtain ⟨thread, claimed, lt⟩ := own (List.contains_iff_mem.1 here)
          rw [← refSlot_low] at claimed lt
          exact ownSlot_clear (Option.isSome_eq_false_iff.2 (Option.isNone_iff_eq_none.2 thread)) claimed lt
        · rfl
      have clear := (firstStop_last (run 8 src) slot _).trans (trap inside)
      refine ⟨fun h => ?_, fun ok whole unnamed => ?_, fun ok whole named => ?_⟩
      · exact replies_only rowO on clear works (if_pos (badO.2 h))
      · exact replies_only rowO on clear works ((if_neg fun h => badO.1 h ⟨ok, whole⟩).trans (if_pos (members_eq_nil.2 unnamed)))
      · have good := fun h => badO.1 h ⟨ok, whole⟩
        intro room
        rw [← refBase_low]
        have size : refRoom (bits y 0 12) = room := refRoom_low y
        refine ⟨fun past => ?_, fun fits => ?_⟩
        · exact replies_only rowO on clear works
            ((if_neg good).trans ((if_neg (anyNamed.2 named)).trans (if_pos (size ▸ past))))
        · have := refSlot_low y
          rw [← this]
          exact accepts_of_pieces rowO on clear works
            ((if_neg good).trans ((if_neg (anyNamed.2 named)).trans (if_neg (not_lt.2 (size ▸ fits))))) rfl rfl
            (flatMap_mkPieces_fresh _ _ _ _ _ _) (bytes ..) (tick 3)

end Sys2Proof.Machine
end

section
/-! Proofs of the family of spec/11: faults, promises, walks and fetches (O40). -/

namespace Sys2Proof.Machine

/-! ### Reported faults (R195, R225) -/

/-- The fault of a piece names the cause of its reason (R217). -/
theorem pieceFault_cause {s : State} {r : Req} {p : Piece} {e : Stop} (fault : pieceFault s r p = some e) :
    e.cause = reasonCause e.reason := by
  unfold pieceFault at fault
  dsimp only at fault
  split at fault
  · rename_i rd
    cases fault
    split at rd
    · cases rd
    · split at rd
      · split at rd <;> cases rd
        rfl
      · split_ifs at rd <;> cases rd
        all_goals rfl
      · cases rd
  · split at fault
    · cases fault
    · split at fault
      · split at fault <;> cases fault
        rfl
      · cases fault

/-- The fault of a request is that of one of its pieces. -/
theorem reqFault_mem {s : State} {r : Req} {e : Stop} (fault : reqFault s r = some e) : ∃ p ∈ r.pieces, pieceFault s r p = some e := by
  refine List.foldlRecOn (motive := fun best => best = some e → ∃ p ∈ r.pieces, pieceFault s r p = some e) r.pieces _
    (b := none) nofun ?_
    fault
  intro best met p hp now
  cases best with
  | none => exact ⟨p, hp, now⟩
  | some b =>
    cases hf : pieceFault s r p with
    | none =>
      simp only [hf] at now
      exact met now
    | some f =>
      simp only [hf] at now
      split_ifs at now
      · exact ⟨p, hp, hf.trans now⟩
      · exact met now

/-- A fault that is no data error has another reason than bad data. -/
theorem reqFault_reason {s : State} {r : Req} {e : Stop} (fault : reqFault s r = some e)
    (data : e.cause ≠ .dataerr) : e.reason ≠ 13 := by
  obtain ⟨p, -, hp⟩ := reqFault_mem fault
  intro bad
  rw [pieceFault_cause hp, bad] at data
  exact data rfl

/-- What an operation on one core may change: that core. -/
structure CoreOnly (c : Nat) (s t : State) : Prop where
  rest  : t = { s with cores := t.cores }
  cores : ∀ m, m ≠ c → getCore t m = getCore s m

theorem CoreOnly.refl (c : Nat) (s : State) : CoreOnly c s s := ⟨rfl, fun _ _ => rfl⟩

theorem CoreOnly.setCore (c : Nat) (s : State) (k : Core) : CoreOnly c s (setCore s c k) :=
  ⟨rfl, fun m other => getCore_setCore_ne s c m k other⟩

theorem CoreOnly.req {c : Nat} {s t : State} (h : CoreOnly c s t) (m : Nat) : getReq t m = getReq s m :=
  (congrArg (fun x => getReq x m) h.rest :)

theorem CoreOnly.mem {c : Nat} {s t : State} (h : CoreOnly c s t) : t.mem = s.mem := (congrArg State.mem h.rest :)

/-- A fault that is told changes the core of its request only. -/
theorem postFaultAs_frame (own : Bool) (s : State) (n : Nat) (r : Req) (e : Stop) : CoreOnly r.core s (postFaultAs own s n r e) := by
  unfold postFaultAs
  dsimp only
  split_ifs
  · exact .setCore ..
  · exact .refl ..

/-- The core of a request whose block still runs takes its fault. -/
theorem postFaultAs_live {own : Bool} {s : State} {n : Nat} {r : Req} {e : Stop} {b : Block} (blk : (getCore s r.core).blk = some b)
    (host : r.service = false) (same : b.bid = r.bid) (runs : b.exited = false) (unfenced : (getCore s r.core).run ≠ .fenced) :
    postFaultAs own s n r e =
      setCore s r.core { getCore s r.core with faults := (getCore s r.core).faults ++ [⟨0, n, e, own⟩] } := by
  simp [postFaultAs, blk, host, same, runs, unfenced]

/-- The pieces of a request whose fault is reported: those that fault move no byte (R195). -/
def faultedPieces (s : State) (r : Req) : List Piece :=
  r.pieces.map fun p => if (pieceFault s r p).isSome = true then { p with stage := 3, buf := [] } else p

theorem roundOf_none {s : State} {n : Nat} (apart : ∀ x ∈ s.rounds, ∀ c ∈ x.2.got, c.2.1 ≠ n) : roundOf s n = none := by
  rw [roundOf, Option.map_eq_none_iff, List.find?_eq_none]
  intro x hx any
  obtain ⟨c, hc, same⟩ := List.any_eq_true.1 any
  exact apart x hx c hc (beq_iff_eq.1 same)

section

variable {s : State} {n : Nat} {e : Stop}

theorem reportFault_none (calm : reqFault s (getReq s n) = none) : reportFault n s = s := by
  simp only [reportFault, calm]

/-- What a report leaves of a copy outside every round: the request with its fault told, and its core. -/
theorem reportFault_copy (fault : reqFault s (getReq s n) = some e) (fresh : (getReq s n).told = false)
    (copy : (getReq s n).kind = .copy) (data : e.cause ≠ .dataerr) (apart : ∀ x ∈ s.rounds, ∀ c ∈ x.2.got, c.2.1 ≠ n) :
    reportFault n s =
      postFaultAs false (setReq s n { getReq s n with told := true, pieces := faultedPieces s (getReq s n) }) n (getReq s n) e := by
  have reason := reqFault_reason fault data
  unfold reportFault
  simp only [fault]
  generalize found : List.find? _ (getReq s n).pieces = sram
  have nowhere : sram = none := by
    cases sram with
    | none => rfl
    | some p =>
      have hit := List.find?_some found
      cases src : p.src <;> simp [src, reason] at hit
  subst nowhere
  have rest := (postFaultAs_frame false (setReq s n { getReq s n with told := true, pieces := faultedPieces s (getReq s n) }) n
    (getReq s n) e).rest
  have calm := roundOf_none ((congrArg State.rounds rest).symm ▸ apart)
  simp only [copy, fresh, if_neg data, Option.any_none, Bool.false_eq_true, if_false] at calm ⊢
  simp only [faultedPieces] at calm ⊢
  rw [calm]

end

/-! ### Promises (R197) -/

/-- A request of what runs on a core, neither told nor complete, past its promise and not performed at its scope (R197). -/
def Breaks (s : State) (core : Nat) (x : Nat × Req) : Prop :=
  (x.2.core = core ∧ x.2.service = (getCore s core).svc.isSome ∧ x.2.bid = reqBid (getCore s core) ∧ x.2.told = false ∧
    x.2.complete = false) ∧ (∃ t, x.2.promise = some t ∧ t ≤ coreTick s core) ∧ reqAt s x.1 x.2 x.2.scope = false

theorem breaks_iff {s : State} {core : Nat} {x : Nat × Req} :
    (x.2.core == core && x.2.service == (getCore s core).svc.isSome && x.2.bid == reqBid (getCore s core) && !x.2.told &&
      !x.2.complete && (match x.2.promise with | some t => decide (t ≤ coreTick s core) | none => false) &&
      !reqAt s x.1 x.2 x.2.scope) = true ↔ Breaks s core x := by
  unfold Breaks
  cases x.2.promise <;> simp [and_assoc]

theorem exec_promise_kept {s : State} {core : Nat} (kept : ∀ x ∈ s.reqs, ¬Breaks s core x) : exec (.promise core) s = .next s := by
  have none_ : broken s core = none := List.find?_eq_none.2 fun x hx => mt breaks_iff.1 (kept x hx)
  change execPromise core s = _
  simp only [execPromise, none_]

theorem exec_promise_broken {s : State} {core : Nat} (some_ : ∃ x ∈ s.reqs, Breaks s core x)
    (calm : ∀ x ∈ s.reqs, reqFault s x.2 = none) : exec (.promise core) s = .next (takeStop core { cause := .promise } s) := by
  change execPromise core s = _
  unfold execPromise
  cases found : broken s core with
  | none =>
    obtain ⟨x, hx, breaks⟩ := some_
    exact absurd (breaks_iff.2 breaks) (List.find?_eq_none.1 found x hx)
  | some x => simp [calm x (List.mem_of_find?_eq_some found)]

/-! ### Walks (R215, R220, R221) -/

section

variable (l : Leaf) (ls : List Leaf)

/-- The leaves with one put at the front, before any leaves. -/
def leavesWith : List Leaf := l :: ls.filter fun m => !(m.part == l.part && m.va == l.va && m.lvl == l.lvl)

theorem leavesWith_length : (leavesWith l ls).length ≤ ls.length + 1 :=
  Nat.succ_le_succ (List.length_filter_le ..)

/-- What putting a leaf does (R220): it stands at the front while there is room; else one that is not resident leaves, or nothing
changes. -/
theorem tlbPut_cases :
    ((leavesWith l ls).length ≤ 2048 ∧ tlbPut l ls = leavesWith l ls) ∨
    (2048 < (leavesWith l ls).length ∧ (∃ v ∈ leavesWith l ls, entPin v.e.toNat = false ∧
      tlbPut l ls = (leavesWith l ls).filter (· ≠ v))) ∨
    (2048 < (leavesWith l ls).length ∧ tlbPut l ls = ls) := by
  by_cases room : (leavesWith l ls).length ≤ 2048
  · exact .inl ⟨room, if_pos room⟩
  · refine .inr ?_
    have full : tlbPut l ls = _ := if_neg room
    rw [full]
    cases found : (leavesWith l ls).reverse.find? fun m => !entPin m.e.toNat with
    | none =>
      rw [leavesWith] at found
      exact .inr ⟨not_le.1 room, by simp only [found]⟩
    | some v =>
      refine .inl ⟨not_le.1 room, v, List.mem_reverse.1 (List.mem_of_find?_eq_some found), ?_, ?_⟩
      · simpa using List.find?_some found
      · rw [leavesWith] at found
        simp only [found]
        rfl

variable {l ls}

theorem mem_leavesWith {m : Leaf} (h : m ∈ leavesWith l ls) : m = l ∨ m ∈ ls :=
  (List.mem_cons.1 h).imp_right fun h => (List.mem_filter.1 h).1

theorem mem_leavesWith_of {m : Leaf} (h : m ∈ ls) : m ∈ leavesWith l ls ∨ (m.part = l.part ∧ m.va = l.va ∧ m.lvl = l.lvl) := by
  by_cases same : m.part = l.part ∧ m.va = l.va ∧ m.lvl = l.lvl
  · exact .inr same
  · refine .inl (List.mem_cons_of_mem _ (List.mem_filter.2 ⟨h, ?_⟩))
    simpa only [Bool.not_eq_true', ← Bool.not_eq_true, Bool.and_eq_true, beq_iff_eq, and_assoc] using same

variable (l ls)

theorem tlbPut_length : (tlbPut l ls).length ≤ max 2048 ls.length := by
  have one := leavesWith_length l ls
  obtain ⟨room, put⟩ | ⟨full, v, hv, -, put⟩ | ⟨full, put⟩ := tlbPut_cases l ls
  · exact put ▸ le_max_of_le_left room
  · have less : ((leavesWith l ls).filter (· ≠ v)).length < (leavesWith l ls).length :=
      List.length_filter_lt_length_iff_exists.2 ⟨v, hv, by simp⟩
    exact put ▸ le_max_of_le_right (by omega)
  · rw [put]
    exact le_max_right ..

theorem mem_tlbPut {m : Leaf} (h : m ∈ tlbPut l ls) : m ∈ ls ∨ m = l := by
  obtain ⟨-, put⟩ | ⟨-, v, -, -, put⟩ | ⟨-, put⟩ := tlbPut_cases l ls
  · exact (mem_leavesWith (put ▸ h)).symm
  · exact (mem_leavesWith (List.mem_filter.1 (put ▸ h)).1).symm
  · rw [put] at h
    exact .inl h

/-- A resident leaf stays, unless the new one takes its place (R220). -/
theorem pinned_mem_tlbPut {m : Leaf} (h : m ∈ ls) (pinned : entPin m.e.toNat = true) :
    m ∈ tlbPut l ls ∨ (m.part = l.part ∧ m.va = l.va ∧ m.lvl = l.lvl) := by
  obtain ⟨-, put⟩ | ⟨-, v, -, free, put⟩ | ⟨-, put⟩ := tlbPut_cases l ls
  · exact put ▸ mem_leavesWith_of h
  · refine (mem_leavesWith_of h).imp_left fun hm => put ▸ List.mem_filter.2 ⟨hm, ?_⟩
    have other : m ≠ v := fun same => by rw [same, free] at pinned; cases pinned
    simpa using other
  · rw [put]
    exact .inl h

theorem tlbPut_head (room : ls.length < 2048) : (tlbPut l ls).head? = some l := by
  have one := leavesWith_length l ls
  obtain ⟨-, put⟩ | ⟨full, -⟩ | ⟨full, -⟩ := tlbPut_cases l ls
  · exact put ▸ rfl
  · omega
  · omega

end

/-- A walk does not read the channels. -/
theorem walk_of_chanOnly {s t : State} (h : ChanOnly s t) (va base : Nat) : walk t va [0, 1, 2] base = walk s va [0, 1, 2] base :=
  (congrArg (fun x => walk x va [0, 1, 2] base) h :)

theorem leafCheck_of_chanOnly {s t : State} (h : ChanOnly s t) (p bit lvl e va : Nat) :
    leafCheck t p bit lvl e va = leafCheck s p bit lvl e va :=
  (congrArg (fun x => leafCheck x p bit lvl e va) h :)

/-- Some engine may use a leaf (R221). -/
theorem anyBit_iff {s : State} {part lvl e va : Nat} :
    ((List.range 8).any fun bit => (leafCheck s part bit lvl e va).isNone) = true ↔ ∃ bit < 8, leafCheck s part bit lvl e va = none := by
  simp [List.any_eq_true]

section

variable {s : State} {cl part va : Nat} (low : va < 2 ^ 55)
include low

/-- A walk that fails, or whose leaf no engine may use, leaves its packets only (R221). -/
theorem exec_tableWalk_error {e : Nat} (fails : walk s va [0, 1, 2] (partRoot (getPart s part)) = .error e) :
    exec (.tableWalk cl part va) s = .next (postWalk cl part va s) := by
  change execTableWalk cl part va s = _
  simp only [execTableWalk, if_neg (not_le.2 low), walk_of_chanOnly (postWalk_frame cl part va s), fails]

variable {lvl e : Nat} (leaf : walk s va [0, 1, 2] (partRoot (getPart s part)) = .ok (lvl, e))
include leaf

theorem exec_tableWalk_denied (denied : ∀ bit < 8, leafCheck s part bit lvl e va ≠ none) :
    exec (.tableWalk cl part va) s = .next (postWalk cl part va s) := by
  change execTableWalk cl part va s = _
  have none_ : ¬∃ bit < 8, leafCheck s part bit lvl e va = none := fun ⟨bit, lt, ok⟩ => denied bit lt ok
  simp only [execTableWalk, if_neg (not_le.2 low), walk_of_chanOnly (postWalk_frame cl part va s), leaf,
    leafCheck_of_chanOnly (postWalk_frame cl part va s), anyBit_iff, if_neg none_]

theorem exec_tableWalk_fills (allowed : ∃ bit < 8, leafCheck s part bit lvl e va = none) :
    exec (.tableWalk cl part va) s = .next (setTwe (postWalk cl part va s) cl
      { getTwe s cl with tlb := tlbPut (mkLeaf part va lvl e) (getTwe s cl).tlb }) := by
  change execTableWalk cl part va s = _
  have twe : getTwe (postWalk cl part va s) cl = getTwe s cl := (congrArg (fun x => getTwe x cl) (postWalk_frame cl part va s) :)
  simp only [execTableWalk, if_neg (not_le.2 low), walk_of_chanOnly (postWalk_frame cl part va s), leaf,
    leafCheck_of_chanOnly (postWalk_frame cl part va s), anyBit_iff, if_pos allowed, twe]

end

/-! ### Fetches (R227, R231) -/

theorem smPut_length {α : Type} (m : SMap α) (k : Nat) (x : α) : (smPut m k x).length ≤ m.length + 1 := by
  induction m with
  | nil => exact le_rfl
  | cons c m ih =>
    simp only [smPut]
    split_ifs
    · exact le_rfl
    · exact Nat.le_succ _
    · exact Nat.succ_le_succ ih

/-- Entries of one key that a filter keeps are read as before. -/
theorem smGet_filter {α : Type} {p : Nat × α → Bool} {k : Nat} (keep : ∀ x, p (k, x) = true) (m : SMap α) :
    smGet (m.filter p) k = smGet m k := by
  induction m with
  | nil => rfl
  | cons c m ih =>
    obtain ⟨j, x⟩ := c
    by_cases same : j = k
    · subst same
      simp [keep, smGet]
    · by_cases kept : p (j, x) = true <;> simp [kept, smGet, same, ih]

theorem fetchBytes_frame (s : State) (core va n : Nat) : WalkOnly s (fetchBytes s core va n).1 := by
  have translated := translate_frame s (core / 16) (corePart s core) 0 va
  unfold fetchBytes
  split
  · rename_i heq
    rw [heq] at translated
    exact translated
  · rename_i heq
    rw [heq] at translated
    exact translated.trans (ChanOnly.walk (.foldl (fun _ _ => postOwn_frame ..) _ _) _)

/-- A line that comes into a buffer with room. -/
theorem putLine_room {k : Core} (room : k.code.length < 128) (line : Nat) (l : CodeLine) :
    putLine k line l = { k with code := smPut k.code line l } :=
  if_pos ((smPut_length ..).trans room)

section

variable {s t : State} {core line : Nat}

theorem exec_codeLineFetch_ok {bs : List Byte} (read : readLine s core line = (t, .ok bs)) :
    exec (.codeLineFetch core line) s =
      .next (setCore t core (putLine (Spec.covers .code (256 * line) 256 (getCore t core)) line (.bytes bs))) := by
  change execCodeLineFetch core line s = _
  simp only [execCodeLineFetch, read, sramGood_eq_covers]

theorem exec_codeLineFetch_error {e : Nat} (read : readLine s core line = (t, .error e)) :
    exec (.codeLineFetch core line) s = .next (setCore t core (putLine (getCore t core) line (.bad (reasonFetch e) e))) := by
  change execCodeLineFetch core line s = _
  simp only [execCodeLineFetch, read]

end

/-- A record that comes into the metadata buffer stands there, whichever leaves (R161). -/
theorem putMeta_eq (k : Core) (n : Nat) (l : CodeLine) :
    ∃ m : SMap CodeLine, putMeta k n l = { Spec.covers .metas (1024 * n) 1024 k with metas := m } ∧ smGet m n = some l := by
  refine ⟨_, (sramGood_eq_covers ..).trans rfl, ?_⟩
  dsimp only
  split_ifs
  · rw [smGet_filter (by simp), smGet_smPut]
  · exact smGet_smPut ..

/-- What a fetch of a record puts into the buffer: its bytes, or its failure (R231). -/
def metaLine (q : Except (Nat × Nat) (List Byte)) : CodeLine :=
  match q with
  | .ok bs => .bytes bs
  | .error e => .bad (reasonFetch e.1) e.1

theorem exec_metadataFetch {s t : State} {core n : Nat} {q : Except (Nat × Nat) (List Byte)} (read : readMeta s core n = (t, q)) :
    exec (.metadataFetch core n) s = .next (setCore t core (putMeta (getCore t core) n (metaLine q))) := by
  change Host.Outcome.next (fetchMeta core n s) = _
  cases q <;> simp only [fetchMeta, read, metaLine]

/-- Settles O40: a report tells the core of its request and it alone (`reportFault_copy`); a promise is broken where `broken` finds one; a
leaf that some engine may use comes in by `tlbPut`; a line or a record stands in its buffer once it is fetched. -/
theorem faultsAndFetches : Obligations.FaultsAndFetches := by
  unfold Obligations.FaultsAndFetches
  intro n core line rec_ cl part va s r k report
  refine ⟨fun calm => congrArg _ (reportFault_none calm), fun e fault fresh copy data apart => ?_,
    ⟨fun kept => exec_promise_kept fun x hx breaks => ?_, fun ⟨q, hq, mine, late, open_⟩ calm => ?_⟩,
    ⟨fun high => if_pos high, fun low e fails => ?_, fun low lvl e leaf denied => ?_, fun low lvl e leaf allowed => ?_⟩, ?line, ?record⟩
  · have told := reportFault_copy fault fresh copy data apart
    refine ⟨_, congrArg _ told, ?_⟩
    have only := postFaultAs_frame false (setReq s n { r with told := true, pieces := faultedPieces s r }) n r e
    have here := (only.req n).trans (getReq_setReq ..)
    refine ⟨(congrArg Req.told here :), (congrArg Req.complete here :), only.mem, fun m other => ?_, only.cores,
      fun b blk host same runs up => ?_⟩
    · exact (only.req m).trans (getReq_setReq_ne _ _ _ _ other)
    · rw [postFaultAs_live (s := setReq s n _) blk host same runs up, getCore_setCore]
      rfl
  · obtain ⟨mine, late, open_⟩ := breaks
    exact Bool.false_ne_true (open_.symm.trans (kept x hx mine late))
  · exact exec_promise_broken ⟨q, hq, mine, late, open_⟩ calm
  · exact ⟨_, (exec_tableWalk_error low fails).trans (congrArg _ (postWalk_frame cl part va s))⟩
  · exact ⟨_, (exec_tableWalk_denied low leaf denied).trans (congrArg _ (postWalk_frame cl part va s))⟩
  · refine ⟨(postWalk cl part va s).chans, tlbPut (mkLeaf part va lvl e) (getTwe s cl).tlb, ?_, tlbPut_length _ _,
      fun _ m hm pinned => pinned_mem_tlbPut _ _ hm pinned, fun m hm => mem_tlbPut _ _ hm, fun room => tlbPut_head _ _ room⟩
    rw [exec_tableWalk_fills low leaf allowed]
    exact congrArg (fun x => Host.Outcome.next (setTwe x cl _)) (postWalk_frame cl part va s)
  case line =>
    intro fetch room t q read
    have buffer : (getCore t core).code.length < 128 := by
      have frame := fetchBytes_frame s core (256 * line) 256
      rw [show fetchBytes s core (256 * line) 256 = (t, q) from read] at frame
      exact (frame.core core).symm ▸ room
    cases q with
    | ok bs =>
      refine ⟨_, ?_, smGet_smPut (getCore t core).code line _⟩
      have covered : (Spec.covers .code (256 * line) 256 (getCore t core)).code.length < 128 := buffer
      exact (exec_codeLineFetch_ok read).trans (congrArg (fun k => Host.Outcome.next (setCore t core k)) (putLine_room covered ..))
    | error e =>
      refine ⟨_, ?_, smGet_smPut (getCore t core).code line _⟩
      exact (exec_codeLineFetch_error read).trans (congrArg (fun k => Host.Outcome.next (setCore t core k)) (putLine_room buffer ..))
  case record =>
    intro fetch t q read
    obtain ⟨m, put, stands⟩ := putMeta_eq (getCore t core) rec_ (metaLine q)
    exact ⟨m, (exec_metadataFetch read).trans (congrArg (fun k => Host.Outcome.next (setCore t core k)) put), stands⟩

end Sys2Proof.Machine
end

section
/-! Proofs of the family of spec/11: streams and their permits (O37). -/

namespace Sys2Proof.Machine

/-! ### What the operations leave of the state -/

theorem postFrom_frame (s : State) (core part cls n line pa : Nat) : ChanOnly s (postFrom s core part cls n line pa) := by
  unfold postFrom
  split
  · rfl
  · exact postPacket_frame ..

theorem postReturn_frame (s : State) (n : Nat) (r : Req) (bit va : Nat) : ChanOnly s (postReturn s n r bit va) := by
  unfold postReturn
  split
  · rfl
  · exact postFrom_frame ..

theorem readVirt_frame (s : State) (cl part bit va n : Nat) : WalkOnly s (readVirt s cl part bit va n).1 := by
  have translated := translate_frame s cl part bit va
  unfold readVirt
  split
  · rename_i heq
    rwa [heq] at translated
  · rename_i heq
    rw [heq] at translated
    split <;> exact translated

theorem walkOnly_of_readVirt {s t : State} {cl part bit va n : Nat} {q : Except (Nat × Nat) (List Byte)}
    (read : readVirt s cl part bit va n = (t, q)) : WalkOnly s t := by
  have frame := readVirt_frame s cl part bit va n
  rwa [read] at frame

theorem WalkOnly.curCtx_eq {s t : State} (h : WalkOnly s t) : curCtx t = curCtx s := (congrArg curCtx h :)

theorem WalkOnly.reqs_eq {s t : State} (h : WalkOnly s t) : t.reqs = s.reqs := (congrArg State.reqs h :)

theorem RecordOnly.curCtx_eq {s t : State} (h : RecordOnly s t) : curCtx t = curCtx s := (congrArg curCtx h.rest :)

theorem RecordOnly.twes_eq {s t : State} (h : RecordOnly s t) : t.twes = s.twes := (congrArg State.twes h.rest :)

theorem CoreOnly.twes_eq {c : Nat} {s t : State} (h : CoreOnly c s t) : t.twes = s.twes := (congrArg State.twes h.rest :)

/-- A fault that is told changes no context. -/
theorem curCtx_postFaultAs (own : Bool) (s : State) (n : Nat) (r : Req) (e : Stop) : curCtx (postFaultAs own s n r e) = curCtx s := by
  unfold postFaultAs
  dsimp only
  split_ifs
  · by_cases same : s.sched.cur = r.core
    · simp [curCtx, cur, same]
    · simp [curCtx, cur, getCore_setCore_ne _ _ _ _ same]
  · rfl

/-! ### Streams -/

@[simp] theorem getStream_setStream (s : State) (cl n : Nat) (x : Stream) : getStream (setStream s cl n x) cl n = x := by
  simp [getStream, setStream, smGetD]

@[simp] theorem setStream_setStream (s : State) (cl n : Nat) (x y : Stream) :
    setStream (setStream s cl n x) cl n y = setStream s cl n y := by
  simp [setStream]

@[simp] theorem curCtx_setStream (s : State) (cl n : Nat) (x : Stream) : curCtx (setStream s cl n x) = curCtx s := rfl

theorem getStream_of_twes {s t : State} (h : t.twes = s.twes) (cl n : Nat) : getStream t cl n = getStream s cl n := by
  simp only [getStream, getTwe, h]

theorem streamUsed_iff {s : State} {cl n : Nat} : streamUsed s cl n = true ↔
    (getStream s cl n).isOpen = true ∧ ((getStream s cl n).closing = false ∨ ∃ r ∈ s.reqs, stepOf cl n r.2 = true) := by
  simp only [streamUsed, Bool.and_eq_true, Bool.or_eq_true, Bool.not_eq_true', List.any_eq_true]

/-! ### Descriptors (R210) -/

/-- A mask of 16 bits in which one is set. -/
theorem oneBit_iff {m : Nat} (lt : m < 2 ^ 16) : ((List.range 16).filter fun i => m.testBit i).length = 1 ↔ ∃ i < 16, m = 2 ^ i := by
  constructor
  · intro one
    obtain ⟨i, only_⟩ := List.length_eq_one_iff.1 one
    have set : ∀ j < 16, m.testBit j = true ↔ j = i := fun j lt => by
      have member : j ∈ (List.range 16).filter (fun i => m.testBit i) ↔ j = i := by rw [only_, List.mem_singleton]
      simpa [lt] using member
    have hi : i < 16 := by
      have member : i ∈ (List.range 16).filter (fun i => m.testBit i) := by rw [only_]; exact List.mem_singleton_self i
      exact List.mem_range.1 (List.mem_filter.1 member).1
    refine ⟨i, hi, Nat.eq_of_testBit_eq fun j => ?_⟩
    rw [Nat.testBit_two_pow]
    by_cases low : j < 16
    · rw [Bool.eq_iff_iff, set j low, decide_eq_true_iff, eq_comm]
    · have high : m.testBit j = false := Nat.testBit_lt_two_pow (lt.trans_le (Nat.pow_le_pow_right two_pos (not_lt.1 low)))
      rw [high, eq_comm, decide_eq_false_iff_not]
      omega
  · rintro ⟨i, hi, rfl⟩
    have keep : ((List.range 16).filter fun j => (2 ^ i).testBit j) = (List.range 16).filter fun j => decide (i = j) :=
      List.filter_congr fun j _ => Nat.testBit_two_pow
    rw [keep]
    interval_cases i <;> rfl

/-- The fields of a descriptor are in range, its reserved bits 0, and of a store stream one consumer is named. -/
theorem descOk_iff {v : Nat} : descOk v = true ↔ walkOk (bits v 0 256) = true ∧ 1 ≤ bits v 320 32 ∧ 1 ≤ bits v 352 8 ∧
    bits v 352 8 ≤ 16 ∧
    bits v 361 23 = 0 ∧ bits v 402 14 = 0 ∧ bits v 470 1 = 0 ∧ bits v 472 40 = 0 ∧
    (v.testBit 360 = true → ∃ m < 16, bits v 448 16 = 2 ^ m) := by
  have mask : bits v 448 16 < 2 ^ 16 := Nat.mod_lt _ (by decide)
  have one : (!descStore v || (descCores 0 v).length == 1) = true ↔ (v.testBit 360 = true → ∃ m < 16, bits v 448 16 = 2 ^ m) := by
    rw [← oneBit_iff mask, Bool.or_eq_true, Bool.not_eq_true', ← Bool.not_eq_true, ← imp_iff_not_or, descCores,
      List.length_map, beq_iff_eq]
    rfl
  rw [descOk]
  simp only [Bool.and_eq_true, beq_iff_eq, decide_eq_true_eq, and_assoc, one]
  exact Iff.rfl

/-! ### The descriptor as it is read (R211, log 59) -/

/-- The bytes of a descriptor under what the engine holds ahead of its read. -/
def descBytes (s : State) (cl : Nat) (x : Stream) (bs : List Byte) : List Byte :=
  match paOf s cl x.part x.descVa with
  | some pa => heldOver s x.num pa (descReq x) bs
  | none => bs

theorem heldOver_length (s : State) (num pa : Nat) (r : Req) (bs : List Byte) : (heldOver s num pa r bs).length = bs.length := by
  unfold heldOver
  refine List.foldlRecOn (motive := fun b : List Byte => b.length = bs.length) s.reqs _ rfl fun b hb x _ => ?_
  refine List.foldlRecOn (motive := fun b : List Byte => b.length = bs.length) x.2.pieces _ hb fun b hb q _ => ?_
  dsimp only
  split
  · split_ifs
    · split
      · simpa using hb
      · exact hb
    · exact hb
  · exact hb

/-- Nothing held ahead of a read leaves its bytes as they stand. -/
theorem heldOver_idle {s : State} (idle : ∀ x ∈ s.reqs, ∀ q ∈ x.2.pieces, q.stage ≠ 1) (num pa : Nat) (r : Req) (bs : List Byte) :
    heldOver s num pa r bs = bs := by
  unfold heldOver
  refine List.foldlRecOn (motive := fun b : List Byte => b = bs) s.reqs _ rfl fun b hb x hx => ?_
  refine List.foldlRecOn (motive := fun b : List Byte => b = bs) x.2.pieces _ hb fun b hb q hq => ?_
  dsimp only
  split
  · rw [if_neg fun h => idle x hx q hq h.1]
    exact hb
  · exact hb

theorem descBytes_length (s : State) (cl : Nat) (x : Stream) (bs : List Byte) : (descBytes s cl x bs).length = bs.length := by
  unfold descBytes
  split
  · exact heldOver_length ..
  · rfl

theorem descBytes_idle {s : State} (idle : ∀ x ∈ s.reqs, ∀ q ∈ x.2.pieces, q.stage ≠ 1) (cl : Nat) (x : Stream) (bs : List Byte) :
    descBytes s cl x bs = bs := by
  unfold descBytes
  split
  · exact heldOver_idle idle ..
  · rfl

/-- What a descriptor whose read fails leaves: data that cannot be corrected is recorded, and its owner takes the fault (R227). -/
def descLost (s : State) (cl : Nat) (x : Stream) (e : Nat × Nat) (t : State) : State :=
  if e.1 < 13 then t
  else postFault (errorRecord x.part 1 0x30 0 6 e.1 x.owner (errSector s cl x.part 1 e.1 x.descVa) (some e.2) t) x.num (descReq x)
    { cause := .dataerr, engine := 6, reason := e.1, va := some e.2 }

theorem curCtx_descLost (s : State) (cl : Nat) (x : Stream) (e : Nat × Nat) (t : State) : curCtx (descLost s cl x e t) = curCtx t := by
  unfold descLost
  split_ifs
  · rfl
  · exact (curCtx_postFaultAs ..).trans (errorRecord_frame ..).curCtx_eq

theorem descLost_twes (s : State) (cl : Nat) (x : Stream) (e : Nat × Nat) (t : State) : (descLost s cl x e t).twes = t.twes := by
  unfold descLost
  split_ifs
  · rfl
  · exact (postFaultAs_frame ..).twes_eq.trans (errorRecord_frame ..).twes_eq

section

variable {s t : State} {cl n : Nat}

/-- A descriptor is read once, of an open stream that has not failed. -/
theorem fetchDesc_idle (idle : (getStream s cl n).isOpen = false ∨ (getStream s cl n).desc ≠ none ∨ (getStream s cl n).failed = true) :
    fetchDesc cl n s = s := by
  refine if_neg fun reads => ?_
  simp only [Bool.and_eq_true, Option.isNone_iff_eq_none, Bool.not_eq_true', and_assoc] at reads
  obtain ⟨isOpen, desc, failed⟩ := reads
  rcases idle with h | h | h
  · exact Bool.false_ne_true (h.symm.trans isOpen)
  · exact h desc
  · exact Bool.false_ne_true (failed.symm.trans h)

variable (isOpen : (getStream s cl n).isOpen = true) (unread : (getStream s cl n).desc = none) (failed : (getStream s cl n).failed = false)
include isOpen unread failed

theorem fetchDesc_error {e : Nat × Nat}
    (read : readVirt s cl (getStream s cl n).part 1 (getStream s cl n).descVa 64 = (t, .error e)) :
    fetchDesc cl n s = descLost s cl (getStream s cl n) e (setStream t cl n { getStream s cl n with failed := true }) := by
  unfold fetchDesc descLost
  simp only [isOpen, unread, failed, read, Option.isNone_none, Bool.and_self, Bool.not_false, if_true]
  by_cases data : 13 ≤ e.1
  · simp only [data, not_lt.2 data, if_true, if_false]
  · simp only [data, not_le.1 data, if_true, if_false]

variable {bs : List Byte} (read : readVirt s cl (getStream s cl n).part 1 (getStream s cl n).descVa 64 = (t, .ok bs))
include read

theorem fetchDesc_ok : fetchDesc cl n s = setStream t cl n
    (if descOk (leNat (descBytes t cl (getStream s cl n) bs)) = true then
      { getStream s cl n with desc := some (BitVec.ofNat 512 (leNat (descBytes t cl (getStream s cl n) bs))) }
    else { getStream s cl n with failed := true }) := by
  unfold fetchDesc
  simp only [isOpen, unread, failed, read, Option.isNone_none, Bool.and_self, Bool.not_false, if_true]
  rw [apply_ite (setStream t cl n)]
  rfl

end

/-! ### The rows of streams (R211) -/

/-- A stream that takes a permit: it is open, and the consumer and the sum of its permits are within its descriptor. -/
def TakesPermit (x : Stream) (v : BitVec 512) (me count : Nat) : Prop :=
  x.isOpen = true ∧ x.failed = false ∧ x.closing = false ∧ (bits v.toNat 448 16).testBit (me % 16) = true ∧
    smGetD x.permits (me % 16) 0 + count ≤ bits v.toNat 320 32

theorem not_takesPermit_iff {x : Stream} {v : BitVec 512} {me count : Nat} :
    (!x.isOpen || x.failed || x.closing || !(descMask v.toNat).testBit (me % 16) ||
      decide (descSteps v.toNat < smGetD x.permits (me % 16) 0 + count)) = true ↔ ¬TakesPermit x v me count := by
  simp only [TakesPermit, Bool.or_eq_true, Bool.not_eq_true', decide_eq_true_eq, not_and_or, Bool.not_eq_true, Bool.not_eq_false, not_le,
    or_assoc]
  exact Iff.rfl

theorem replies_of_chanOnly {g : Guard} {d : SDst} {i : Instr} {s t u : State} {void : Bool} {w : Word} {f : Flags}
    (h : Spec.replies g d i s void t w f) (only_ : ChanOnly u t) : Spec.replies g d i s void { u with chans := t.chans } w f :=
  (congrArg (fun x => Spec.replies g d i s void x w f) only_).mp h

section

variable (g : Guard) (d : SDst) (pol : Fin 8) (a b : SOp) (s : State)

theorem exec_twopen : exec (.twopen g d pol a b) s = settle s (issueTwopen g d pol a b s) := rfl

theorem exec_permit : exec (.permit g d pol a b) s = settle s (issuePermit g d pol a b s) := rfl

theorem exec_twclose : exec (.twclose g d pol a) s = settle s (issueTwclose g d pol a s) := rfl

end

section

variable {g : Guard} {d : SDst} {pol : Fin 8} {a b : SOp} {s : State} (on : guardOn (curCtx s) g = true)
include on

/-- A stream that is opened, with the packets of its descriptor's read. -/
theorem twopen_opens (id : valN s a ≤ 15) (aligned : valN s b % 64 = 0) (free : ¬streamUsed s (s.sched.cur / 16) (valN s a) = true) :
    ∃ chans, Spec.replies g d (.twopen g d pol a b) s (void2 a b (curCtx s))
      { setStream s (s.sched.cur / 16) (valN s a)
          { isOpen := true, owner := s.sched.cur, ownerBid := reqBid (cur s), part := reqPart s s.sched.cur
            descVa := valN s b, num := s.nextReq }
        with nextReq := s.nextReq + 1, chans := chans } stAccepted 0 := by
  have posted := fun (u : State) (r : Req) => (postLine_frame u s.nextReq r 1 (valN s b)).trans (postReturn_frame _ s.nextReq r 1 (valN s b))
  refine ⟨_, replies_of_chanOnly (replies_of_issueC (exec_twopen g d pol a b s) on ((if_neg (by omega)).trans (if_neg free)) ?_)
    (posted _ _)⟩
  exact (congrArg curCtx (posted _ _) :)

section

variable (id : valN s a ≤ 15) (pos : 0 < valN s b) (small : valN s b ≤ 65535) {t : State}
  (fetched : fetchDesc (s.sched.cur / 16) (valN s a) s = t) (keeps : curCtx t = curCtx s)
include id pos small fetched keeps

/-- A permit for a stream whose descriptor cannot be read. -/
theorem permit_unread (unread : (getStream t (s.sched.cur / 16) (valN s a)).desc = none) :
    Spec.replies g d (.permit g d pol a b) s (void2 a b (curCtx s)) t stRefused 0 := by
  refine replies_of_issueC (exec_permit g d pol a b s) on ((if_neg (by omega)).trans ?_) keeps
  simp only [fetched, unread]

variable {v : BitVec 512} (desc : (getStream t (s.sched.cur / 16) (valN s a)).desc = some v)
include desc

theorem permit_denied (denied : ¬TakesPermit (getStream t (s.sched.cur / 16) (valN s a)) v s.sched.cur (valN s b)) :
    Spec.replies g d (.permit g d pol a b) s (void2 a b (curCtx s)) t stRefused 0 := by
  refine replies_of_issueC (exec_permit g d pol a b s) on ((if_neg (by omega)).trans ?_) keeps
  simp only [fetched, desc, not_takesPermit_iff.2 denied, if_true]

theorem permit_granted (takes : TakesPermit (getStream t (s.sched.cur / 16) (valN s a)) v s.sched.cur (valN s b)) :
    Spec.replies g d (.permit g d pol a b) s (void2 a b (curCtx s))
      (setStream t (s.sched.cur / 16) (valN s a) { getStream t (s.sched.cur / 16) (valN s a) with
        permits := smPut (getStream t (s.sched.cur / 16) (valN s a)).permits (s.sched.cur % 16)
          (smGetD (getStream t (s.sched.cur / 16) (valN s a)).permits (s.sched.cur % 16) 0 + valN s b) }) stDone 0 := by
  refine replies_of_issueC (exec_permit g d pol a b s) on ((if_neg (by omega)).trans ?_) keeps
  simp only [fetched, desc, if_neg (mt not_takesPermit_iff.1 (not_not.2 takes))]

end

end

/-! ### The descriptor's row (R211) -/

section

variable {s : State} {cl n : Nat}

theorem exec_descriptorFetch_waits (waits : mayFetchDesc s cl n = false) : exec (.descriptorFetch cl n) s = .next s := by
  change Host.Outcome.next (if mayFetchDesc s cl n = true then fetchDesc cl n s else s) = _
  rw [if_neg (Bool.eq_false_iff.1 waits)]

theorem exec_descriptorFetch_reads (reads : mayFetchDesc s cl n = true) : exec (.descriptorFetch cl n) s = .next (fetchDesc cl n s) := by
  change Host.Outcome.next (if mayFetchDesc s cl n = true then fetchDesc cl n s else s) = _
  rw [if_pos reads]

/-- A descriptor that may be read is that of an open stream, not read yet, that has not failed. -/
theorem unread_of_mayFetchDesc (reads : mayFetchDesc s cl n = true) :
    (getStream s cl n).isOpen = true ∧ (getStream s cl n).desc = none ∧ (getStream s cl n).failed = false := by
  simp only [mayFetchDesc, Bool.and_eq_true, Option.isNone_iff_eq_none, Bool.not_eq_true'] at reads
  obtain ⟨⟨⟨⟨⟨⟨isOpen, desc⟩, failed⟩, -⟩, -⟩, -⟩, -⟩ := reads
  exact ⟨isOpen, desc, failed⟩

end

/-! ### Steps of a stream (R210) -/

/-- The fields of a walk record stand in the first 193 bits of a descriptor. -/
theorem walkOf_descWalk (v : Nat) : walkOf (descWalk v) = walkOf v := by
  have fill : (bits v 0 256).testBit 192 = v.testBit 192 := by
    rw [bits, pow_zero, Nat.div_one, Nat.testBit_mod_two_pow, decide_eq_true (by decide), Bool.true_and]
  simp [walkOf, descWalk, bits_bits, fill]

/-- The walk of a step. -/
def stepWalk (v k : Nat) : Walk := { walkOf v with base := (walkOf v).base + k * descAdv v }

theorem descCores_eq (cl v : Nat) :
    descCores cl v = ((List.range 16).filter fun i => (bits v 448 16).testBit i).map fun i => cl * 16 + i := rfl

/-- The pieces of a step: those of its walk, at each consumer. -/
def stepPieces (cl v k : Nat) : List Piece :=
  (descCores cl v).flatMap fun c =>
    if descStore v = true then walkStore 2048 c (stepWalk v k) (descBuf v k) ((descBar v).map fun b => (c, b))
    else walkLoad 2048 c (stepWalk v k) (descBuf v k) ((descBar v).map fun b => (c, b))

/-- The request of a step. -/
def stepReq (s : State) (cl n v : Nat) (x : Stream) : Req :=
  { core := x.owner, bid := x.ownerBid, part := x.part, kind := .step cl n x.started, rdEng := 0xF, wrEng := 0xF,
    tick := coreTick s x.owner, pieces := stepPieces cl v x.started, context := false }

/-- The barrier that a step counts in at a consumer. -/
theorem descBar_map (v c : Nat) : ((descBar v).map fun b => (c, b)) = if v.testBit 471 = true then some (c, bits v 464 6) else none := by
  unfold descBar
  split_ifs <;> rfl

theorem bytesOf_stepPieces (cl v k : Nat) : Spec.bytesOf (stepPieces cl v k) =
    ((List.range 16).filter fun i => (bits v 448 16).testBit i).flatMap fun m => (List.range (bits v 64 16)).flatMap fun i =>
      (List.range (bits v 80 16)).map fun j =>
        let spad := Loc.spad (cl * 16 + m) (descBuf v k + i * bits v 160 32 + j)
        let virt := Loc.virt (walkVa (stepWalk v k) i + j)
        let bar := if v.testBit 471 = true then some (cl * 16 + m, bits v 464 6) else none
        if j < walkLive (walkOf v) i then (if v.testBit 360 = true then (spad, virt, bar, false) else (virt, spad, bar, false))
        else if v.testBit 360 = true then (.zero, .none, bar, false)
        else if v.testBit 192 = true then (.zero, .none, bar, true) else (.zero, spad, bar, false) := by
  rw [stepPieces, bytesOf_flatMap, descCores_eq, List.flatMap_map]
  refine List.flatMap_congr fun m _ => ?_
  by_cases store : v.testBit 360 = true
  · simp only [descStore, store, if_true, bytesOf_walkStore, descBar_map]
    rfl
  · simp only [descStore, store, if_false, bytesOf_walkLoad, descBar_map, Bool.false_eq_true]
    rfl

theorem exec_streamStepStart_waits {s : State} {cl n : Nat} (waits : ¬mayStep s cl n = true) : exec (.streamStepStart cl n) s = .next s :=
  if_neg waits

section

variable {s : State} {cl n : Nat} {v : BitVec 512} (desc : (getStream s cl n).desc = some v)
include desc

/-- A step starts where steps are left and every consumer has given a permit for it. -/
theorem mayStep_iff (isOpen : (getStream s cl n).isOpen = true) (closing : (getStream s cl n).closing = false)
    (failed : (getStream s cl n).failed = false) : mayStep s cl n = true ↔ (getStream s cl n).started < bits v.toNat 320 32 ∧
    ∀ i ∈ (List.range 16).filter (fun i => (bits v.toNat 448 16).testBit i),
      (getStream s cl n).started < smGetD (getStream s cl n).permits i 0 := by
  have consumers : ((descCores cl v.toNat).all fun c =>
      decide ((getStream s cl n).started < smGetD (getStream s cl n).permits (c % 16) 0)) = true ↔
      ∀ i ∈ (List.range 16).filter (fun i => (bits v.toNat 448 16).testBit i),
        (getStream s cl n).started < smGetD (getStream s cl n).permits i 0 := by
    rw [descCores_eq, List.all_map, List.all_eq_true]
    refine forall₂_congr fun i hi => ?_
    have low : (cl * 16 + i) % 16 = i := by
      have := List.mem_range.1 (List.mem_filter.1 hi).1
      omega
    simp only [Function.comp_apply, low, decide_eq_true_eq]
  simp only [mayStep, desc, isOpen, closing, failed, Bool.not_false, Bool.true_and, Bool.and_eq_true, consumers, decide_eq_true_eq]
  exact Iff.rfl

variable (starts : mayStep s cl n = true)
include starts

/-- The row of a step that may start: its request, or a fault of its buffer. -/
theorem exec_streamStepStart_eq : exec (.streamStepStart cl n) s =
    if spadOk (descBuf v.toNat (getStream s cl n).started) (walkSpan (walkOf v.toNat)) = true then
      .next (addReq (setStream s cl n { getStream s cl n with started := (getStream s cl n).started + 1 })
        (stepReq s cl n v.toNat (getStream s cl n)))
    else .next (postFault { setStream s cl n { getStream s cl n with started := (getStream s cl n).started + 1, failed := true } with
      nextReq := s.nextReq + 1 } s.nextReq (stepReq s cl n v.toNat (getStream s cl n))
        { cause := .xlate, engine := 0xF, reason := 4, va := some (descBuf v.toNat (getStream s cl n).started) }) := by
  change execStreamStepStart cl n s = _
  rw [execStreamStepStart, if_pos starts]
  simp only [desc, Option.getD_some, walkOf_descWalk, setStream_setStream]
  rfl

end

end Sys2Proof.Machine
end

section
/-! Proofs of the family of spec/11: the invalidation of translations (O37). -/

namespace Sys2Proof.Machine

/-! ### `tlbi` as it is issued (R222) -/

section

variable {g : Guard} {d : SDst} {sc : Scope} {void : Ctx → Bool} {lo len : State → Nat} {z : SOp} {i : Instr} {s : State}
  (row : exec i s = settle s (tlbiReq g d sc void lo len z s))
include row

theorem tlbi_stops (user : (curCtx s).kern = false) :
    exec i s = .next (takeStop s.sched.cur { cause := .priv, smask := 2 ^ slotC s, engine := 1 } s) := by
  have privileged : coreKern (cur s) = false := user
  have refused : tlbiReq g d sc void lo len z s = .error (privStop (maskC s)) := if_pos (by simp [privileged])
  rw [row, refused]
  rfl

/-- What a `tlbi` of kernel privilege does. -/
theorem tlbi_kernel (kern : (curCtx s).kern = true) : exec i s = settle s (issueC g d void (fun s =>
    if 16 ≤ valN s z ∨ 2 ^ 55 ≤ lo s ∨ 2 ^ 55 < len s then .ok (s, stBadarg, 0)
    else if len s = 0 then .ok (s, stDone, 0)
    else .ok ({ s with
      tlbis := smPut s.tlbis s.nextReq
        { core := s.sched.cur, bid := reqBid (cur s), part := valN s z, scope := sc.code, lo := lo s, hi := lo s + len s }
      nextReq := s.nextReq + 1 }, stAccepted, 0)) s) := by
  have privileged : coreKern (cur s) = true := kern
  rw [row]
  exact congrArg (settle s) (if_neg (by simp [privileged]))

variable (kern : (curCtx s).kern = true)
include kern

theorem tlbi_off : Spec.offC g d i s := offC_of_issueC (tlbi_kernel row kern)

variable (on : guardOn (curCtx s) g = true)
include on

theorem tlbi_bad (bad : 16 ≤ valN s z ∨ 2 ^ 55 ≤ lo s ∨ 2 ^ 55 < len s) : Spec.replies g d i s (void (curCtx s)) s stBadarg 0 :=
  replies_of_issueC (tlbi_kernel row kern) on (if_pos bad) rfl

variable (part : valN s z < 16) (low : lo s < 2 ^ 55)
include part low

theorem tlbi_nothing (none : len s = 0) : Spec.replies g d i s (void (curCtx s)) s stDone 0 :=
  replies_of_issueC (tlbi_kernel row kern) on ((if_neg (by omega)).trans (if_pos none)) rfl

theorem tlbi_sent (some : 0 < len s) (fits : len s ≤ 2 ^ 55) : Spec.replies g d i s (void (curCtx s))
    { s with
      tlbis := smPut s.tlbis s.nextReq
        { core := s.sched.cur, bid := reqBid (cur s), part := valN s z, scope := sc.code, lo := lo s, hi := lo s + len s }
      nextReq := s.nextReq + 1 } stAccepted 0 :=
  replies_of_issueC (tlbi_kernel row kern) on ((if_neg (by omega)).trans (if_neg some.ne')) rfl

end

/-! ### Leaves that are walked back (R223) -/

theorem tlbiHits_iff {op : TlbiOp} {l : Leaf} :
    tlbiHits op l = true ↔ l.part = op.part ∧ l.va < op.hi ∧ op.lo < l.va + leafSize l.lvl := by
  simp [tlbiHits, and_assoc]

theorem mem_tlbiClusters {s : State} {op : TlbiOp} {cl : Nat} : cl ∈ tlbiClusters s op ↔
    cl < 64 ∧ partHasCluster (getPart s op.part) cl = true ∧ (op.scope = 2 → cl / 16 = op.core / 256) := by
  simp [tlbiClusters, imp_iff_not_or]

theorem walk_of_walkOnly {s t : State} (h : WalkOnly s t) (va base : Nat) : walk t va [0, 1, 2] base = walk s va [0, 1, 2] base :=
  (congrArg (fun x => walk x va [0, 1, 2] base) h :)

theorem leafCheck_of_walkOnly {s t : State} (h : WalkOnly s t) (p bit lvl e va : Nat) :
    leafCheck t p bit lvl e va = leafCheck s p bit lvl e va :=
  (congrArg (fun x => leafCheck x p bit lvl e va) h :)

theorem getPart_of_walkOnly {s t : State} (h : WalkOnly s t) (p : Nat) : getPart t p = getPart s p := (congrArg (fun x => getPart x p) h :)

/-- The leaf that the walk for a removed leaf brings back, if it is pinned and some engine may use it. -/
def walkedBack (s : State) (op : TlbiOp) (l : Leaf) : Option Leaf :=
  match walk s l.va [0, 1, 2] (partRoot (getPart s op.part)) with
  | .ok (lvl, e) =>
    if (entPin e && (List.range 8).any fun bit => (leafCheck s op.part bit lvl e l.va).isNone) = true then some (mkLeaf op.part l.va lvl e)
    else none
  | .error _ => none

theorem walkedBack_iff {s : State} {op : TlbiOp} {l k : Leaf} : walkedBack s op l = some k ↔
    ∃ lvl e, (walk s l.va [0, 1, 2] (partRoot (getPart s op.part)) = .ok (lvl, e) ∧ entPin e = true ∧
      ∃ bit < 8, leafCheck s op.part bit lvl e l.va = none) ∧ k = mkLeaf op.part l.va lvl e := by
  unfold walkedBack
  cases walk s l.va [0, 1, 2] (partRoot (getPart s op.part)) with
  | error r => simp
  | ok x =>
    obtain ⟨lvl, e⟩ := x
    simp only [Bool.and_eq_true, anyBit_iff, Option.ite_none_right_eq_some, Option.some.injEq, Except.ok.injEq]
    constructor
    · rintro ⟨⟨pin, bit⟩, rfl⟩
      exact ⟨lvl, e, ⟨rfl, pin, bit⟩, rfl⟩
    · rintro ⟨lvl, e, ⟨⟨⟩, pin, bit⟩, rfl⟩
      exact ⟨⟨pin, bit⟩, rfl⟩

/-- Puts back what the walk for a removed leaf brings. -/
def putBack (s : State) (op : TlbiOp) (ls : List Leaf) (l : Leaf) : List Leaf :=
  match walkedBack s op l with
  | some k => tlbPut k ls
  | none => ls

/-- The leaves of an engine after a `tlbi`: without those that it removes, and with those that were walked back. -/
def dropped (s : State) (op : TlbiOp) (ls : List Leaf) : List Leaf :=
  (ls.filter (tlbiHits op)).foldl (putBack s op) (ls.filter fun l => !tlbiHits op l)

/-- Leaves for the same range. -/
def SameRange (l k : Leaf) : Prop := l.part = k.part ∧ l.va = k.va ∧ l.lvl = k.lvl

section

variable {s : State} {op : TlbiOp}

theorem mem_foldl_putBack {gone ls : List Leaf} {m : Leaf} (h : m ∈ gone.foldl (putBack s op) ls) :
    m ∈ ls ∨ ∃ l ∈ gone, walkedBack s op l = some m := by
  induction gone generalizing ls with
  | nil => exact .inl h
  | cons l gone ih =>
    rcases ih h with now | ⟨k, hk, back⟩
    · unfold putBack at now
      split at now
      · rename_i k back
        rcases mem_tlbPut _ _ now with old | rfl
        · exact .inl old
        · exact .inr ⟨l, List.mem_cons_self, back⟩
      · exact .inl now
    · exact .inr ⟨k, List.mem_cons_of_mem _ hk, back⟩

theorem tlbPut_room {l : Leaf} {ls : List Leaf} (room : ls.length < 2048) : tlbPut l ls = leavesWith l ls :=
  if_pos ((leavesWith_length l ls).trans room)

theorem putBack_length {l : Leaf} {ls : List Leaf} (room : ls.length < 2048) : (putBack s op ls l).length ≤ ls.length + 1 := by
  unfold putBack
  split
  · exact (tlbPut_room room).symm ▸ leavesWith_length ..
  · exact Nat.le_succ _

/-- While there is room no leaf leaves but for one of its own range. -/
theorem putBack_keeps {l m : Leaf} {ls : List Leaf} (room : ls.length < 2048) (h : m ∈ ls) :
    m ∈ putBack s op ls l ∨ ∃ k ∈ putBack s op ls l, walkedBack s op l = some k ∧ SameRange m k := by
  unfold putBack
  split
  · rename_i k back
    rw [tlbPut_room room]
    exact (mem_leavesWith_of h).imp_right fun same => ⟨k, List.mem_cons_self, back, same⟩
  · exact .inl h

theorem foldl_putBack_keeps {gone ls : List Leaf} {m : Leaf} (room : ls.length + gone.length ≤ 2048) (h : m ∈ ls)
    (apart : ∀ l ∈ gone, ∀ k, walkedBack s op l = some k → ¬SameRange m k) : m ∈ gone.foldl (putBack s op) ls := by
  induction gone generalizing ls with
  | nil => exact h
  | cons l gone ih =>
    rw [List.length_cons] at room
    have free : ls.length < 2048 := by omega
    have len := putBack_length (s := s) (op := op) (l := l) free
    refine ih (by omega) ?_ fun k hk => apart k (List.mem_cons_of_mem _ hk)
    exact (putBack_keeps free h).resolve_right fun ⟨k, _, back, same⟩ => apart l List.mem_cons_self k back same

/-- A range that is cached stays cached. -/
theorem foldl_putBack_covers {gone ls : List Leaf} {m : Leaf} (room : ls.length + gone.length ≤ 2048)
    (h : ∃ k ∈ ls, SameRange k m) : ∃ k ∈ gone.foldl (putBack s op) ls, SameRange k m := by
  induction gone generalizing ls with
  | nil => exact h
  | cons l gone ih =>
    rw [List.length_cons] at room
    have free : ls.length < 2048 := by omega
    have len := putBack_length (s := s) (op := op) (l := l) free
    obtain ⟨k, hk, range⟩ := h
    refine ih (by omega) ?_
    obtain ⟨part, va, lvl⟩ := range
    rcases putBack_keeps (s := s) (op := op) (l := l) free hk with stays | ⟨k', hk', -, part', va', lvl'⟩
    · exact ⟨k, stays, part, va, lvl⟩
    · exact ⟨k', hk', part'.symm.trans part, va'.symm.trans va, lvl'.symm.trans lvl⟩

theorem foldl_putBack_puts {gone ls : List Leaf} {l m : Leaf} (room : ls.length + gone.length ≤ 2048) (h : l ∈ gone)
    (back : walkedBack s op l = some m) : ∃ k ∈ gone.foldl (putBack s op) ls, SameRange k m := by
  induction gone generalizing ls with
  | nil => cases h
  | cons x gone ih =>
    rw [List.length_cons] at room
    have free : ls.length < 2048 := by omega
    have len := putBack_length (s := s) (op := op) (l := x) free
    rcases List.mem_cons.1 h with rfl | later
    · rw [List.foldl_cons]
      refine foldl_putBack_covers (by omega) ⟨m, ?_, rfl, rfl, rfl⟩
      simp only [putBack, back, tlbPut_room free]
      exact List.mem_cons_self
    · exact ih (by omega) later

end

/-! ### What a `tlbi` leaves of the engines (R223) -/

theorem walkedBack_of_walkOnly {s t : State} (h : WalkOnly s t) (op : TlbiOp) (l : Leaf) : walkedBack t op l = walkedBack s op l :=
  (congrArg (fun x => walkedBack x op l) h :)

theorem putBack_of_walkOnly {s t : State} (h : WalkOnly s t) (op : TlbiOp) : putBack t op = putBack s op :=
  funext₂ fun ls l => by rw [putBack, putBack, walkedBack_of_walkOnly h]

theorem dropped_of_walkOnly {s t : State} (h : WalkOnly s t) (op : TlbiOp) (ls : List Leaf) : dropped t op ls = dropped s op ls := by
  rw [dropped, dropped, putBack_of_walkOnly h]

/-- The leaves of one engine are others, and packets may be on their way. -/
structure LeavesAre (s : State) (cl : Nat) (ls : List Leaf) (t : State) : Prop where
  rest  : WalkOnly s t
  here  : getTwe t cl = { getTwe s cl with tlb := ls }
  apart : ∀ m, m ≠ cl → getTwe t m = getTwe s m

/-- Walks one removed leaf back. -/
def walkBack (op : TlbiOp) (cl : Nat) (s0 : State) (l : Leaf) : State :=
  let s := postWalk cl op.part l.va s0
  match walk s l.va [0, 1, 2] (partRoot (getPart s op.part)) with
  | .ok (lvl, e) =>
    if entPin e && (List.range 8).any fun bit => (leafCheck s op.part bit lvl e l.va).isNone then
      setTwe s cl { getTwe s cl with tlb := tlbPut (mkLeaf op.part l.va lvl e) (getTwe s cl).tlb }
    else s
  | .error _ => s

theorem LeavesAre.walkBack {s t : State} {op : TlbiOp} {cl : Nat} {ls : List Leaf} (h : LeavesAre s cl ls t) (l : Leaf) :
    LeavesAre s cl (putBack s op ls l) (walkBack op cl t l) := by
  have posted := postWalk_frame cl op.part l.va t
  have rest : WalkOnly s (postWalk cl op.part l.va t) := h.rest.trans (posted.walk _)
  have twes : ∀ m, getTwe (postWalk cl op.part l.va t) m = getTwe t m := fun m => (congrArg (fun x => getTwe x m) posted :)
  have stays : LeavesAre s cl ls (postWalk cl op.part l.va t) :=
    ⟨rest, (twes cl).trans h.here, fun m other => (twes m).trans (h.apart m other)⟩
  unfold Machine.walkBack putBack walkedBack
  simp only [walk_of_walkOnly rest, getPart_of_walkOnly rest, leafCheck_of_walkOnly rest]
  cases walk s l.va [0, 1, 2] (partRoot (getPart s op.part)) with
  | error r => exact stays
  | ok x =>
    dsimp only
    split_ifs
    · refine ⟨rest.trans rfl, ?_, fun m other => ?_⟩
      · rw [getTwe_setTwe, stays.here]
      · rw [getTwe_setTwe_ne _ _ _ _ other, stays.apart m other]
    · exact stays

theorem LeavesAre.foldl {s t : State} {op : TlbiOp} {cl : Nat} {ls : List Leaf} (h : LeavesAre s cl ls t) (gone : List Leaf) :
    LeavesAre s cl (gone.foldl (putBack s op) ls) (gone.foldl (Machine.walkBack op cl) t) := by
  induction gone generalizing t ls with
  | nil => exact h
  | cons l gone ih => exact ih (h.walkBack l)

theorem leavesAre_dropLeaves (op : TlbiOp) (cl : Nat) (s : State) :
    LeavesAre s cl (dropped s op (getTwe s cl).tlb) (dropLeaves op cl s) := by
  by_cases none : ((getTwe s cl).tlb.filter (tlbiHits op)).isEmpty = true
  · have kept : dropped s op (getTwe s cl).tlb = (getTwe s cl).tlb := by
      have clean := List.filter_eq_nil_iff.1 (List.isEmpty_iff.1 none)
      rw [dropped, List.isEmpty_iff.1 none]
      exact List.filter_eq_self.2 fun l hl => by simpa using clean l hl
    have same : dropLeaves op cl s = s := if_pos none
    rw [kept, same]
    exact ⟨rfl, rfl, fun _ _ => rfl⟩
  · have base : LeavesAre s cl ((getTwe s cl).tlb.filter fun l => !tlbiHits op l)
        (setTwe s cl { getTwe s cl with tlb := (getTwe s cl).tlb.filter fun l => !tlbiHits op l }) :=
      ⟨rfl, getTwe_setTwe .., fun m other => getTwe_setTwe_ne _ _ _ _ other⟩
    have dropping : dropLeaves op cl s = _ := if_neg none
    rw [dropping]
    exact base.foldl _

/-- Every cluster of a list loses its leaves, and no other does. -/
theorem dropLeaves_foldl (op : TlbiOp) {cls : List Nat} (distinct : cls.Nodup) (s t : State) (only_ : WalkOnly s t) :
    WalkOnly s (cls.foldl (fun s cl => dropLeaves op cl s) t) ∧
    (∀ m ∈ cls, getTwe (cls.foldl (fun s cl => dropLeaves op cl s) t) m = { getTwe t m with tlb := dropped s op (getTwe t m).tlb }) ∧
    ∀ m, m ∉ cls → getTwe (cls.foldl (fun s cl => dropLeaves op cl s) t) m = getTwe t m := by
  induction cls generalizing t with
  | nil => exact ⟨only_, fun m hm => (List.not_mem_nil hm).elim, fun _ _ => rfl⟩
  | cons cl cls ih =>
    obtain ⟨fresh, distinct⟩ := List.nodup_cons.1 distinct
    obtain ⟨rest, here, apart⟩ := leavesAre_dropLeaves op cl t
    obtain ⟨frame, inside, outside⟩ := ih distinct (dropLeaves op cl t) (only_.trans rest)
    refine ⟨frame, fun m hm => ?_, fun m hm => ?_⟩
    · by_cases same : m = cl
      · subst same
        rw [← dropped_of_walkOnly only_]
        exact (outside m fresh).trans here
      · have later : m ∈ cls := (List.mem_cons.1 hm).resolve_left same
        have untouched := apart m same
        have result := inside m later
        rw [untouched] at result
        exact result
    · obtain ⟨other, later⟩ := not_or.1 (mt List.mem_cons.2 hm)
      exact (outside m later).trans (apart m other)

theorem usersOver_iff {s : State} {op : TlbiOp} :
    usersOver s op = true ↔ ∀ n ∈ op.users, (getReq s n).complete = true ∨ (getReq s n).told = true := by
  simp [usersOver, overReq]

theorem mem_tlbiUsers {s : State} {op : TlbiOp} {m : Nat} : m ∈ tlbiUsers s op ↔
    ∃ r, (m, r) ∈ s.reqs ∧ ¬(r.complete = true ∨ r.told = true) ∧ usedLeaf s op r = true := by
  simp [tlbiUsers, overReq, and_assoc]

section

variable {s : State} {n : Nat} {x : TlbiOp} (op : smGet s.tlbis n = some x)
include op

theorem exec_tlbiPerform_removed (removed : x.removed = true) : exec (.tlbiPerform n) s =
    .next { s with tlbis := if usersOver s x = true then smDel s.tlbis n else smPut s.tlbis n x } := by
  change execTlbiPerform n s = _
  simp only [execTlbiPerform, op, removed, if_true]

/-- The operation once its leaves are gone. -/
def afterRemoval (s : State) (x : TlbiOp) : TlbiOp := { x with removed := true, users := tlbiUsers s x }

theorem exec_tlbiPerform_removes (pending : x.removed = false) : exec (.tlbiPerform n) s =
    .next { (tlbiClusters s x).foldl (fun s cl => dropLeaves x cl s) s with
      tlbis := if usersOver s (afterRemoval s x) = true then smDel s.tlbis n else smPut s.tlbis n (afterRemoval s x) } := by
  have tlbis : ((tlbiClusters s x).foldl (fun s cl => dropLeaves x cl s) s).tlbis = s.tlbis :=
    (congrArg State.tlbis (dropLeaves_foldl x (List.nodup_range.filter _) s s rfl).1 :)
  change execTlbiPerform n s = _
  simp only [execTlbiPerform, op, pending, Bool.false_eq_true, if_false, tlbis]
  rfl

end

end Sys2Proof.Machine
end

section
/-! Proofs of the family of spec/11: streams and invalidation (O37). -/

namespace Sys2Proof.Machine

/-- What stands in an engine after a `tlbi`: of what it hits only what was walked back, what it does not hit, and a leaf for each that was
walked back; the last two where the leaves fit, as they always do. -/
theorem dropped_leaves (s : State) (op : TlbiOp) (ls : List Leaf) :
    let hits := fun (l : Leaf) => l.part = op.part ∧ l.va < op.hi ∧ op.lo < l.va + leafSize l.lvl
    let walked := fun (l : Leaf) (lvl e : Nat) => walk s l.va [0, 1, 2] (partRoot (getPart s op.part)) = .ok (lvl, e) ∧
      entPin e = true ∧ ∃ bit < 8, leafCheck s op.part bit lvl e l.va = none
    (∀ l ∈ dropped s op ls, hits l → ∃ l0 ∈ ls, hits l0 ∧ ∃ lvl e, walked l0 lvl e ∧
      l = ⟨op.part, l0.va - l0.va % leafSize lvl, lvl, BitVec.ofNat 64 e⟩) ∧
    (∀ l ∈ ls, ¬hits l → ls.length ≤ 2048 →
      (∀ k ∈ ls, hits k → ∀ lvl e, walked k lvl e → ¬(l.part = op.part ∧ l.va = k.va - k.va % leafSize lvl ∧ l.lvl = lvl)) →
      l ∈ dropped s op ls) ∧
    (∀ l ∈ ls, hits l → ls.length ≤ 2048 → ∀ lvl e, walked l lvl e →
      ∃ k ∈ dropped s op ls, k.part = op.part ∧ k.va = l.va - l.va % leafSize lvl ∧ k.lvl = lvl) := by
  intro hits walked
  have hit : ∀ l, tlbiHits op l = true ↔ hits l := fun _ => tlbiHits_iff
  have parts : (ls.filter fun l => !tlbiHits op l).length + (ls.filter (tlbiHits op)).length = ls.length := by
    rw [Nat.add_comm]
    exact (List.length_eq_length_filter_add _).symm
  refine ⟨fun l hl hitsL => ?_, fun l hl missed fits apart => ?_, fun l hl hitsL fits lvl e back => ?_⟩
  · rcases mem_foldl_putBack hl with kept | ⟨l0, hl0, back⟩
    · have missed := (List.mem_filter.1 kept).2
      rw [(hit l).2 hitsL] at missed
      cases missed
    · obtain ⟨inside, hits0⟩ := List.mem_filter.1 hl0
      obtain ⟨lvl, e, walkedL, same⟩ := walkedBack_iff.1 back
      exact ⟨l0, inside, (hit l0).1 hits0, lvl, e, walkedL, same⟩
  · refine foldl_putBack_keeps (by omega) (List.mem_filter.2 ⟨hl, by simpa using mt (hit l).1 missed⟩) fun k hk k' back same => ?_
    obtain ⟨inside, hitsK⟩ := List.mem_filter.1 hk
    obtain ⟨lvl, e, walkedK, rfl⟩ := walkedBack_iff.1 back
    exact apart k inside ((hit k).1 hitsK) lvl e walkedK same
  · exact foldl_putBack_puts (by omega) (List.mem_filter.2 ⟨hl, (hit l).2 hitsL⟩) (walkedBack_iff.2 ⟨lvl, e, back, rfl⟩)

/-- Settles O37: the rows of streams answer by what stands of the stream, whose descriptor is read once (`fetchDesc_ok`); a step sends the
pieces of its walk (`bytesOf_stepPieces`); a `tlbi` leaves each engine the leaves of `dropped`. -/
theorem streamsAndInvalidation : Obligations.StreamsAndInvalidation := by
  unfold Obligations.StreamsAndInvalidation
  intro g d pol sc a b e cl n s c me x y z here str busy op pm cs void legal closed seen lost
  have used : streamUsed s here x = true ↔ busy := streamUsed_iff
  have rowO := exec_twopen g d pol a b s
  have rowP := exec_permit g d pol a b s
  have rowC := exec_twclose g d pol a s
  refine ⟨offC_of_issueC rowO, offC_of_issueC rowP, offC_of_issueC rowC, fun on => ⟨?badOpen, ?busyOpen, ?opens, ?badPermit, ?shut, ?known,
    ?failedStream, ?reads, ?badClose, ?notOwner, ?closes⟩, ?descriptor, ?step, ?issue, ?performs⟩
  case badOpen => exact fun bad => replies_of_issueC rowO on (if_pos bad) rfl
  case busyOpen => exact fun id aligned taken => replies_of_issueC rowO on ((if_neg (by omega)).trans (if_pos (used.2 taken))) rfl
  case opens => exact fun id aligned free => twopen_opens on id aligned (mt used.1 free)
  case badPermit => exact fun bad => replies_of_issueC rowP on (if_pos bad) rfl
  case shut => exact fun id pos small shut unread => permit_unread on id pos small (fetchDesc_idle (.inl shut)) rfl unread
  case known =>
    intro id pos small v desc sum good
    have fetched : fetchDesc here x s = s := fetchDesc_idle (.inr (.inl (by rw [desc]; exact Option.some_ne_none v)))
    exact ⟨fun takes => permit_granted on id pos small fetched rfl desc takes,
      fun denied => permit_denied on id pos small fetched rfl desc denied⟩
  case failedStream =>
    exact fun id pos small _ failed unread => permit_unread on id pos small (fetchDesc_idle (.inr (.inr failed))) rfl unread
  case reads =>
    intro id pos small isOpen failed unread
    refine ⟨fun t r read => ?_, fun t bs0 read _ => ?_⟩
    · have frame := walkOnly_of_readVirt read
      have stands := (getStream_of_twes (descLost_twes s here str r _) here x).trans
        (getStream_setStream t here x { str with failed := true })
      exact permit_unread on id pos small (fetchDesc_error isOpen unread failed read) ((curCtx_descLost ..).trans frame.curCtx_eq)
        ((congrArg Stream.desc stands).trans unread)
    · have frame := walkOnly_of_readVirt read
      have fetched := fetchDesc_ok isOpen unread failed read
      refine ⟨descBytes t here str bs0, ⟨descBytes_length .., fun idle => descBytes_idle (frame.reqs_eq.symm ▸ idle) ..⟩, ?_⟩
      intro v sum
      refine ⟨fun bad => ?_, ?_⟩
      · rw [if_neg (mt descOk_iff.1 bad)] at fetched
        exact permit_unread on id pos small fetched frame.curCtx_eq ((congrArg Stream.desc (getStream_setStream ..)).trans unread)
      intro good
      refine ⟨fun ok denied => ?_, fun ok takes => ?_⟩
      · rw [if_pos (descOk_iff.2 ok)] at fetched
        have stands := getStream_setStream t here x { str with desc := some v }
        refine permit_denied on id pos small fetched frame.curCtx_eq (congrArg Stream.desc stands) fun takes => denied ?_
        rw [stands] at takes
        obtain ⟨-, -, closing, named, within⟩ := takes
        exact ⟨closing, named, within⟩
      · rw [if_pos (descOk_iff.2 ok)] at fetched
        have stands := getStream_setStream t here x { str with desc := some v }
        obtain ⟨closing, named, within⟩ := takes
        have granted := permit_granted (a := a) (b := b) (g := g) (d := d) (pol := pol) on id pos small fetched frame.curCtx_eq
          (congrArg Stream.desc stands) (by rw [stands]; exact ⟨isOpen, failed, closing, named, within⟩)
        rw [stands, setStream_setStream] at granted
        exact granted
  case badClose => exact fun bad => replies_of_issueC rowC on (if_pos bad) rfl
  case notOwner =>
    intro id other
    have denied : (!streamUsed s here x || str.owner != me) = true := by
      rw [Bool.or_eq_true, Bool.not_eq_true', ← Bool.not_eq_true, used, bne_iff_ne]
      exact not_and_or.1 other
    exact replies_of_issueC rowC on ((if_neg (not_lt.2 id)).trans (if_pos denied)) rfl
  case closes =>
    intro id taken owner
    have mine : ¬(!streamUsed s here x || str.owner != me) = true := by
      rw [Bool.or_eq_true, Bool.not_eq_true', ← Bool.not_eq_true, used, bne_iff_ne]
      exact fun h => h.elim (· taken) (· owner)
    exact replies_of_issueC rowC on ((if_neg (not_lt.2 id)).trans (if_neg mine)) rfl
  case descriptor =>
    intro str
    refine ⟨fun idle => ?_, exec_descriptorFetch_waits, fun reads => ⟨fun t r read => ?_, fun t bs0 read _ => ?_⟩⟩
    · cases reads : mayFetchDesc s cl n with
      | false => exact exec_descriptorFetch_waits reads
      | true => exact (exec_descriptorFetch_reads reads).trans (congrArg _ (fetchDesc_idle idle))
    · obtain ⟨isOpen, unread, failed⟩ := unread_of_mayFetchDesc reads
      exact (exec_descriptorFetch_reads reads).trans (congrArg _ (fetchDesc_error isOpen unread failed read))
    · obtain ⟨isOpen, unread, failed⟩ := unread_of_mayFetchDesc reads
      have frame := walkOnly_of_readVirt read
      have fetched := (exec_descriptorFetch_reads reads).trans (congrArg _ (fetchDesc_ok isOpen unread failed read))
      refine ⟨descBytes t cl str bs0, ⟨descBytes_length .., fun idle => descBytes_idle (frame.reqs_eq.symm ▸ idle) ..⟩, fun ok => ?_,
        fun bad => ?_⟩
      · rwa [if_pos (descOk_iff.2 ok)] at fetched
      · rwa [if_neg (mt descOk_iff.1 bad)] at fetched
  case step =>
    intro str v desc isOpen closing failed u k who rowb live va buf row span step go
    have starts : mayStep s cl n = true ↔ go := mayStep_iff desc isOpen closing failed
    refine ⟨fun waits => exec_streamStepStart_waits (mt starts.1 waits), fun ready inside => ?_, fun ready past => ?_⟩
    · refine ⟨stepPieces cl u k, (exec_streamStepStart_eq desc (starts.2 ready)).trans (if_pos (decide_eq_true inside)), ?_⟩
      exact bytesOf_stepPieces cl u k
    · have told := postFaultAs_frame false { setStream s cl n { str with started := k + 1, failed := true } with nextReq := s.nextReq + 1 }
        s.nextReq (stepReq s cl n u str) { cause := .xlate, engine := 0xF, reason := 4, va := some (descBuf u k) }
      exact ⟨_, (exec_streamStepStart_eq desc (starts.2 ready)).trans (if_neg (mt of_decide_eq_true (not_le.2 past))),
        (getStream_of_twes told.twes_eq cl n).trans (getStream_setStream ..), (congrArg State.reqs told.rest :), told.mem⟩
  case issue =>
    intro va rng all stop rngVoid vaVoid sent
    have rowV : exec va s = settle s (tlbiReq g d sc (void2 a e) (fun s => valN s a) (fun _ => 1) e s) := rfl
    have rowR : exec rng s = settle s (tlbiReq g d sc (void3 a b e) (fun s => valN s a) (fun s => valN s b) e s) := rfl
    have rowA : exec all s = settle s (tlbiReq g d sc (void1 e) (fun _ => 0) (fun _ => 2 ^ 55) e s) := rfl
    refine ⟨fun user => ⟨tlbi_stops rowV user, tlbi_stops rowR user, tlbi_stops rowA user⟩,
      fun kern => ⟨tlbi_off rowV kern, tlbi_off rowR kern, tlbi_off rowA kern, fun on => ⟨?_, ?_, ?_, ?_, ?_, ?_, ?_⟩⟩⟩
    · exact fun bad => tlbi_bad rowV kern on (bad.imp_right .inl)
    · exact fun part low => tlbi_sent rowV kern on part low one_pos Nat.one_le_two_pow
    · exact fun bad => tlbi_bad rowR kern on bad
    · exact fun part low none => tlbi_nothing rowR kern on part low none
    · exact fun part low some fits => tlbi_sent rowR kern on part low some fits
    · exact fun bad => tlbi_bad rowA kern on (.inl bad)
    · intro part
      have everything := tlbi_sent rowA kern on part (Nat.two_pow_pos 55) (Nat.two_pow_pos 55) le_rfl
      rw [Nat.zero_add] at everything
      exact everything
  case performs =>
    intro x op reached over_ walked hits
    have users : usersOver s x = true ↔ ∀ m ∈ x.users, over_ (getReq s m) := usersOver_iff
    refine ⟨fun removed waits => ?_, fun removed done => ?_, fun pending => ?_⟩
    · have open_ : ¬usersOver s x = true := fun h => waits.elim fun m hm => hm.2 (users.1 h m hm.1)
      refine ⟨smPut s.tlbis n x, (exec_tlbiPerform_removed op removed).trans (by rw [if_neg open_]), fun m => ?_⟩
      by_cases same : m = n
      · rw [same, smGet_smPut, op]
      · exact smGet_smPut_ne _ _ same
    · rw [exec_tlbiPerform_removed op removed, if_pos (users.2 done)]
    · obtain ⟨frame, inside, outside⟩ := dropLeaves_foldl x (List.nodup_range.filter _) s s rfl (cls := tlbiClusters s x)
      have after : usersOver s (afterRemoval s x) = true ↔ ∀ m ∈ tlbiUsers s x, over_ (getReq s m) := usersOver_iff
      refine ⟨_, tlbiUsers s x, _, _, (exec_tlbiPerform_removes op pending).trans (congrArg (fun t : State => Host.Outcome.next { t with
        tlbis := if usersOver s (afterRemoval s x) = true then smDel s.tlbis n else smPut s.tlbis n (afterRemoval s x) }) frame),
        fun m => mem_tlbiUsers, fun done => if_pos (after.2 done), fun waits => if_neg fun h => ?_, fun m => ?_⟩
      · obtain ⟨m, hm, outstanding⟩ := waits
        exact outstanding (after.1 h m hm)
      · intro t
        refine ⟨?_, fun other => ?_, fun reach => ?_⟩
        · by_cases reach : m ∈ tlbiClusters s x
          · exact (congrArg Twe.streams (inside m reach) :)
          · exact (congrArg Twe.streams (outside m reach) :)
        · exact (congrArg Twe.tlb (outside m (mt mem_tlbiClusters.1 other)) :)
        · have leaves : t.tlb = dropped s x (getTwe s m).tlb := (congrArg Twe.tlb (inside m (mem_tlbiClusters.2 reach)) :)
          rw [leaves]
          exact dropped_leaves ..

end Sys2Proof.Machine
end

section
/-! Proofs of the family of spec/11: what the bytes of a home read as, before and after a write of one unit (O39). -/

namespace Sys2Proof.Machine

/-! ### The registers of the channels -/

/-- `KILN_CHST` of every channel reads as before. -/
structure SameStatus (s t : State) : Prop where
  status : ∀ c, chstValue (getChan t c) = chstValue (getChan s c)

theorem SameStatus.refl (s : State) : SameStatus s s := ⟨fun _ => rfl⟩

theorem SameStatus.trans {s t u : State} (h : SameStatus s t) (h' : SameStatus t u) : SameStatus s u :=
  ⟨fun c => (h'.status c).trans (h.status c)⟩

theorem sameStatus_postPacket (s : State) (ch : Nat) (p : Packet) : SameStatus s (postPacket s ch p) := by
  unfold postPacket
  dsimp only
  split
  · exact .refl s
  · refine ⟨fun c => ?_⟩
    by_cases here : c = ch
    · subst here
      rw [getChan_setChan]
      rfl
    · rw [getChan_setChan_ne _ _ _ _ here]

theorem sameStatus_postOwn (s : State) (core part req line pa : Nat) : SameStatus s (postOwn s core part req line pa) := by
  unfold postOwn
  split
  · exact .refl s
  · exact (sameStatus_postPacket ..).trans (sameStatus_postPacket ..)

theorem sameStatus_foldl_postOwn (core part req : Nat) (l : List Nat) (s : State) :
    SameStatus s (l.foldl (fun s a => postOwn s core part req (a / 256) a) s) := by
  induction l generalizing s with
  | nil => exact .refl s
  | cons a l ih => exact (sameStatus_postOwn ..).trans (ih _)

theorem sameStatus_postWalk (cl p va : Nat) (s : State) : SameStatus s (postWalk cl p va s) :=
  sameStatus_foldl_postOwn ..

theorem sameStatus_walkFill (s : State) (cl p bit va : Nat) : SameStatus s (walkFill s cl p bit va).1 := by
  unfold walkFill
  dsimp only
  split
  · exact sameStatus_postWalk ..
  · exact ⟨(sameStatus_postWalk cl p va s).status⟩

theorem sameStatus_translate (s : State) (cl p bit va : Nat) : SameStatus s (translate s cl p bit va).1 := by
  unfold translate
  split
  · exact .refl s
  · split
    · exact sameStatus_walkFill ..
    · split
      · exact ⟨fun _ => rfl⟩
      · split
        · exact sameStatus_walkFill ..
        · exact .refl s

/-! ### An access of a request -/

/-- An access leaves the state that its translation leaves. -/
theorem virtAccess_fst (s : State) (r : Req) (bit va n : Nat) (rd : Bool) :
    (virtAccess s r bit va n rd).1 = (translate s (r.core / 16) r.part bit va).1 := by
  unfold virtAccess
  split
  · next translated => rw [translated]
  · next translated =>
    rw [translated]
    repeat' split
    all_goals rfl

section

variable {s t : State} {r : Req} {bit va n : Nat} {rd : Bool} {x : Except (Nat × Nat) Xlat}
  (access : virtAccess s r bit va n rd = (t, x))
include access

theorem virtAccess_frame : WalkOnly s t := by
  have same := virtAccess_fst s r bit va n rd
  rw [access] at same
  change t = _ at same
  exact same ▸ translate_frame ..

theorem sameStatus_virtAccess : SameStatus s t := by
  have same := virtAccess_fst s r bit va n rd
  rw [access] at same
  change t = _ at same
  exact same ▸ sameStatus_translate ..

end

theorem kilnByte_of_walkOnly {s t : State} (h : WalkOnly s t) (status : SameStatus s t) (die off : Nat) :
    kilnByte t die off = kilnByte s die off := by
  have mon : kilnMon t = kilnMon s := (congrArg kilnMon h :)
  have heat : t.heat = s.heat := (congrArg State.heat h :)
  have rmap : t.rmap = s.rmap := (congrArg State.rmap h :)
  simp only [kilnByte, mon, heat, rmap, status.status]

/-! ### Bytes under a key slot -/

/-- The same memory, under the same pairs and slots. -/
structure SameHome (s t : State) : Prop where
  mem   : t.mem = s.mem
  tags  : t.tags = s.tags
  ftags : t.ftags = s.ftags
  keys  : t.keys = s.keys

theorem SameHome.trans {s t u : State} (h : SameHome s t) (h' : SameHome t u) : SameHome s u :=
  ⟨h'.mem.trans h.mem, h'.tags.trans h.tags, h'.ftags.trans h.ftags, h'.keys.trans h.keys⟩

theorem SameHome.symm {s t : State} (h : SameHome s t) : SameHome t s := ⟨h.mem.symm, h.tags.symm, h.ftags.symm, h.keys.symm⟩

theorem WalkOnly.sameHome {s t : State} (h : WalkOnly s t) : SameHome s t where
  mem := (congrArg State.mem h :)
  tags := (congrArg State.tags h :)
  ftags := (congrArg State.ftags h :)
  keys := (congrArg State.keys h :)

theorem ChanOnly.sameHome {s t : State} (h : ChanOnly s t) : SameHome s t where
  mem := (congrArg State.mem h :)
  tags := (congrArg State.tags h :)
  ftags := (congrArg State.ftags h :)
  keys := (congrArg State.keys h :)

theorem SameHome.unitPair {s t : State} (h : SameHome s t) (u : Nat) : unitPair t u = unitPair s u := by
  unfold Machine.unitPair
  rw [h.tags, h.ftags]

theorem SameHome.getKey {s t : State} (h : SameHome s t) (k : Nat) : getKey t k = getKey s k := by
  unfold Machine.getKey
  rw [h.keys]

/-- A byte of memory outside the aperture, as read under a key slot. -/
theorem byteUnder_memory {a : Nat} (memory : ∀ die off, paKind a ≠ .kiln die off) (s : State) (k : Nat) :
    byteUnder s (some k) a = (unitPair s (a / 64)).elim (mRead s.mem a) fun p =>
      if p = (getKey s k).pair then mRead s.mem a
      else (recode p (getKey s k).pair (a / 64) (mReadN s.mem (a / 64 * 64) 64)).getD (a % 64) 0 := by
  unfold byteUnder
  split
  · next die off kiln => exact absurd kiln (memory die off)
  · cases unitPair s (a / 64) <;> rfl

theorem SameHome.byteUnder {s t : State} (h : SameHome s t) {a : Nat} (memory : ∀ die off, paKind a ≠ .kiln die off)
    (k : Nat) : byteUnder t (some k) a = byteUnder s (some k) a := by
  simp only [byteUnder_memory memory, h.unitPair, h.getKey, h.mem]

/-- What a translation leaves reads as before, at the aperture too. -/
theorem byteUnder_of_walkOnly {s t : State} (h : WalkOnly s t) (status : SameStatus s t) (k a : Nat) :
    byteUnder t (some k) a = byteUnder s (some k) a := by
  by_cases memory : ∀ die off, paKind a ≠ .kiln die off
  · exact h.sameHome.byteUnder memory k
  · simp only [not_forall, not_not] at memory
    obtain ⟨die, off, kiln⟩ := memory
    simp only [byteUnder, kiln]
    exact kilnByte_of_walkOnly h status die off

theorem bytesUnder_congr {s t : State} {k k' : Option Nat} (same : ∀ a, byteUnder t k a = byteUnder s k' a) (pa n : Nat) :
    bytesUnder t k pa n = bytesUnder s k' pa n := by
  induction n generalizing pa with
  | zero => rfl
  | succ n ih => rw [bytesUnder, bytesUnder, same, ih]

theorem bytesUnder_of_access {s t : State} {r : Req} {bit va n : Nat} {rd : Bool} {x : Except (Nat × Nat) Xlat}
    (access : virtAccess s r bit va n rd = (t, x)) (k pa len : Nat) :
    bytesUnder t (some k) pa len = bytesUnder s (some k) pa len :=
  bytesUnder_congr (byteUnder_of_walkOnly (virtAccess_frame access) (sameStatus_virtAccess access) k) pa len

theorem bytesUnder_getD (s : State) (key : Option Nat) (pa n : Nat) {i : Nat} (h : i < n) :
    (bytesUnder s key pa n).getD i 0 = byteUnder s key (pa + i) := by
  induction n generalizing pa i with
  | zero => exact absurd h (Nat.not_lt_zero i)
  | succ n ih =>
    cases i with
    | zero => rfl
    | succ i => rw [bytesUnder, List.getD_cons_succ, ih _ (Nat.lt_of_succ_lt_succ h), Nat.add_assoc, Nat.add_comm 1]

theorem mReadN_congr {m m' : SMap Byte} {a n : Nat} (same : ∀ i < n, mRead m' (a + i) = mRead m (a + i)) :
    mReadN m' a n = mReadN m a n := by
  induction n generalizing a with
  | zero => rfl
  | succ n ih =>
    rw [mReadN, mReadN, show mRead m' a = mRead m a from same 0 (Nat.succ_pos n),
      ih fun i hi => by rw [Nat.add_assoc, Nat.add_comm 1]; exact same (i + 1) (Nat.succ_lt_succ hi)]

/-! ### A write of one unit under a key slot (R312) -/

/-- A unit that becomes the slot's holds what was read under the slot. -/
theorem mRead_retag {s : State} {k a : Nat} (memory : ∀ die off, paKind a ≠ .kiln die off) :
    mRead (retag s k (a / 64)).mem a = byteUnder s (some k) a := by
  unfold retag
  dsimp only
  split
  · next free => rw [byteUnder_memory memory, free]; rfl
  · next p taken =>
    split
    · next same => rw [byteUnder_memory memory, taken, same]; exact (if_pos rfl).symm
    · rw [mRead_mWriteN, bytesUnder_length, if_pos (by omega), bytesUnder_getD _ _ _ _ (by omega)]
      exact congrArg _ (by omega)

/-- Another unit keeps its pair, or gets the slot's as the frame's first writer names it. -/
theorem unitPair_retag_other (s : State) (k : Nat) {u v : Nat} (other : v ≠ u) :
    unitPair (retag s k u) v = unitPair s v ∨
      unitPair s v = none ∧ unitPair (retag s k u) v = some (getKey s k).pair := by
  by_cases pair : unitPair s v = none
  · have untagged : smGet s.tags v = none := by
      unfold unitPair at pair
      split at pair
      · cases pair
      · next untagged => exact untagged
    unfold retag
    dsimp only
    split
    · by_cases frame : v / 1024 = u / 1024
      · exact .inr ⟨pair, by simp [unitPair, untagged, frame]⟩
      · exact .inl (by simp only [unitPair, smGet_smPut_ne _ _ frame])
    · split
      · exact .inl rfl
      · exact .inl (by simp only [unitPair, smGet_smPut_ne _ _ other])
  · unfold retag
    dsimp only
    split
    · next free =>
      have untagged : smGet s.tags u = none ∧ smGet s.ftags (u / 1024) = none := by
        unfold unitPair at free
        split at free
        · cases free
        · next untagged => exact ⟨untagged, free⟩
      refine .inl ?_
      by_cases frame : v / 1024 = u / 1024
      · simp only [unitPair, frame, untagged.2] at pair ⊢
        cases tag : smGet s.tags v with
        | none => exact absurd (by rw [tag]) pair
        | some p => rfl
      · simp only [unitPair, smGet_smPut_ne _ _ frame]
    · split
      · exact .inl rfl
      · exact .inl (by simp only [unitPair, smGet_smPut_ne _ _ other])

theorem byteUnder_retag_other {s : State} {k u a : Nat} (memory : ∀ die off, paKind a ≠ .kiln die off) (other : a / 64 ≠ u) :
    byteUnder (retag s k u) (some k) a = byteUnder s (some k) a := by
  have unit : mReadN (retag s k u).mem (a / 64 * 64) 64 = mReadN s.mem (a / 64 * 64) 64 :=
    mReadN_congr fun i hi => mRead_retag_ne (by omega)
  simp only [byteUnder_memory memory, (retag_frame s k u).key k, mRead_retag_ne other, unit]
  obtain same | ⟨free, named⟩ := unitPair_retag_other s k other
  · rw [same]
  · rw [free, named]
    exact if_pos rfl

section

variable {s : State} {k pa a : Nat} {bs : List Byte} {whole : Bool} (one : pa % 64 + bs.length ≤ 64)
  (memory : ∀ die off, paKind a ≠ .kiln die off)
include one

theorem mRead_physWrite_other (other : a / 64 ≠ pa / 64) : mRead (physWrite s (some k) pa bs whole).mem a = mRead s.mem a := by
  show mRead (mWriteN _ pa bs) a = _
  rw [mRead_mWriteN, if_neg (by omega), mRead_retag_ne other]

include memory

/-- Under the slot of a write, the bytes of the run read as written and every other byte of memory as before. -/
theorem byteUnder_physWrite : byteUnder (physWrite s (some k) pa bs whole) (some k) a =
    if pa ≤ a ∧ a < pa + bs.length then bs.getD (a - pa) 0 else byteUnder s (some k) a := by
  split
  · next inside => exact (standsUnder_physWrite one inside.1 inside.2).read memory
  · next outside =>
    have key : getKey (physWrite s (some k) pa bs whole) k = getKey s k := (physWrite_frame ..).key k
    by_cases unit : a / 64 = pa / 64
    · have stands : StandsUnder (physWrite s (some k) pa bs whole) k a (byteUnder s (some k) a) := by
        refine ⟨?_, ?_⟩
        · rw [key, unit]
          exact unitPair_retag s k (pa / 64)
        · show mRead (mWriteN (retag s k (pa / 64)).mem pa bs) a = _
          rw [mRead_mWriteN, if_neg outside, ← unit]
          exact mRead_retag memory
      exact stands.read memory
    · have elsewhere : ∀ b, b / 64 ≠ pa / 64 → mRead (physWrite s (some k) pa bs whole).mem b = mRead (retag s k (pa / 64)).mem b :=
        fun b other => by
          show mRead (mWriteN _ pa bs) b = _
          rw [mRead_mWriteN, if_neg (by omega)]
      have unitBytes : mReadN (physWrite s (some k) pa bs whole).mem (a / 64 * 64) 64 =
          mReadN (retag s k (pa / 64)).mem (a / 64 * 64) 64 := mReadN_congr fun i hi => elsewhere _ (by omega)
      have pair : unitPair (physWrite s (some k) pa bs whole) (a / 64) = unitPair (retag s k (pa / 64)) (a / 64) := rfl
      rw [← byteUnder_retag_other (s := s) memory unit, byteUnder_memory memory, byteUnder_memory memory, key,
        (retag_frame s k (pa / 64)).key k, elsewhere a unit, unitBytes, pair]

end

/-- A write of one unit at a home, seen from states that hold the same memory. -/
theorem puts_physWrite {s t u : State} {x : Xlat} {bs : List Byte} {whole : Bool} (one : x.pa % 64 + bs.length ≤ 64)
    (some : 0 < bs.length) (before : SameHome s t) (after : SameHome (physWrite t (.some x.key) x.pa bs whole) u) :
    Spec.puts s u x bs := by
  refine ⟨fun a memory => ?_, fun a outside => ?_⟩
  · rw [after.byteUnder memory, byteUnder_physWrite one memory, before.byteUnder memory]
  · rw [after.mem, mRead_physWrite_other one (by omega), before.mem]

end Sys2Proof.Machine
end

section
/-! Proofs of the family of spec/11: the piece of a request as it is taken and put, and the end of a request (O39). -/

namespace Sys2Proof.Machine

/-! ### Requests of one piece -/

section

variable {s : State} {n : Nat} {r : Req} {p : Piece} (one : r.pieces = [p])
include one

theorem pieceAtIx_one : pieceAtIx r 0 = p := by simp [pieceAtIx, one]

theorem mapPieces_one (f : Nat → Piece → Piece) : mapPieces r f = { r with pieces := [f 0 p] } := by simp [mapPieces, one]

theorem takeGroup_one : takeGroup s r 0 = [0] := by simp [takeGroup, one]

theorem putGroup_one (left : p.stage < 2) : putGroup s r 0 = [0] := by
  simp [putGroup, one, List.filter, Nat.le_of_lt_succ left]

theorem segFrom_one (fuel : Nat) : segFrom r (fuel + 1) 0 = [0] := by simp [segFrom, pieceAtIx, one]

theorem doubleClosure_one (fuel : Nat) : doubleClosure s r fuel [0] = [0] := by
  cases fuel with
  | zero => rfl
  | succ fuel =>
    unfold doubleClosure
    rw [if_pos]
    rw [List.length_map, one]
    exact List.length_filter_le _ [(p, 0)]

variable (copy : r.kind = .copy)
include copy

omit one in
theorem not_allClipped_copy : allClipped r = false := by simp [allClipped, copy]

theorem landGroup_one : landGroup s r 0 = [0] := by
  unfold landGroup
  rw [not_allClipped_copy copy, segFrom_one one, doubleClosure_one one]
  simp

theorem mayTake_one : mayTake s n r 0 = (p.stage == 0 && srcReady s n r p) := by
  simp [mayTake, pieceAtIx_one one, takeGroup_one one, movesBytes, clippedNow, not_allClipped_copy copy, copy]

theorem mayPut_one (left : p.stage < 2) : mayPut s n r 0 = dstReady s n r [0] 0 := by
  simp [mayPut, putGroup_one one left, movesBytes, copy]

end

/-! ### Taking and putting a piece (R200, R296, R297) -/

section

variable {s t : State} {n : Nat} {p : Piece} (one : (getReq s n).pieces = [p]) (copy : (getReq s n).kind = .copy)
include one copy

theorem execBytePerform_take (fresh : p.stage = 0) : exec (.bytePerform n 0) s =
    if srcReady s n (getReq s n) p then .next (countCorePerformed (getReq s n).core (takePiece n 0 s)) else .next s := by
  show execBytePerform n 0 s = _
  simp [execBytePerform, mayTake_one one copy, takeGroup_one one, pieceAtIx_one one, fresh]

theorem execBytePerform_put (taken : p.stage = 1) : exec (.bytePerform n 0) s =
    if dstReady s n (getReq s n) [0] 0 then .next (countCorePerformed (getReq s n).core (putPiece n 0 s)) else .next s := by
  show execBytePerform n 0 s = _
  have left : p.stage < 2 := by omega
  simp [execBytePerform, mayTake_one one copy, mayPut_one one copy left, putGroup_one one left, pieceAtIx_one one, taken]

/-- What a piece is once it is taken from its source: its bytes are on their way. -/
theorem takePiece_virt {c a va : Nat} {x : Xlat} (source : p.src = .virt va) (target : p.dst = .spad c a)
    (access : virtAccess s (getReq s n) (getReq s n).rdBit va p.len true = (t, .ok x)) :
    ChanOnly (setReq t n { getReq s n with pieces := [{ p with stage := 1, buf := bytesUnder s (some x.key) x.pa p.len }] })
      (takePiece n 0 s) := by
  have bytes : srcBytes s (getReq s n) p = (t, bytesUnder s (some x.key) x.pa p.len) := by
    simp only [srcBytes, source, access, bytesUnder_of_access access]
  simp only [takePiece, pieceAtIx_one one, bytes, target, mapPieces_one one, source, copy]
  exact postReturn_frame ..

theorem takePiece_spad {c a va : Nat} (source : p.src = .spad c a) (core : c < 1024) (target : p.dst = .virt va) :
    takePiece n 0 s = setCore
      (setReq s n { getReq s n with pieces := [{ p with stage := 1, buf := mReadN (getCore s c).spad a p.len }] }) c
      { getCore s c with readAt := some (portCycle s c) } := by
  simp only [takePiece, pieceAtIx_one one, srcBytes, spadBytes, target, mapPieces_one one, source, copy, core, if_true]
  rfl

omit copy in
theorem putPiece_virt {va : Nat} {x : Xlat} (target : p.dst = .virt va)
    (access : virtAccess s (getReq s n) (getReq s n).wrBit va p.len false = (t, .ok x))
    (memory : ∀ die off, paKind x.pa ≠ .kiln die off) : ∃ whole, putPiece n 0 s =
      physWrite (setReq t n { getReq s n with pieces := [{ p with stage := 2, buf := [] }] }) (some x.key) x.pa p.buf whole := by
  simp only [putPiece, pieceAtIx_one one, target, access, mapPieces_one one, if_true]
  exact ⟨_, rfl⟩

end

/-! ### The end of a request (R192, R193) -/

theorem exec_requestComplete_one {s : State} {n : Nat} {p : Piece} (one : (getReq s n).pieces = [p])
    (copy : (getReq s n).kind = .copy) : exec (.requestComplete n) s =
      if p.stage = 2 ∧ (getReq s n).complete = false ∧ (getReq s n).told = false then
        .next (countCorePerformed (getReq s n).core
          (setReq s n { getReq s n with complete := true, pieces := [{ p with buf := [] }] }))
      else .next s := by
  show execRequestComplete n s = _
  have may : mayComplete (getReq s n) = true ↔
      p.stage = 2 ∧ (getReq s n).complete = false ∧ (getReq s n).told = false := by
    simp [mayComplete, copy, one]
    tauto
  simp only [execRequestComplete, may, one, List.map_cons, List.map_nil]

end Sys2Proof.Machine
end

section
/-! Proofs of the family of spec/11: a segment that lands and counts in its barrier (O39). -/

namespace Sys2Proof.Machine

/-! ### Runs of a memory after a write -/

theorem mReadN_mWriteN_self (m : SMap Byte) (a : Nat) (bs : List Byte) : mReadN (mWriteN m a bs) a bs.length = bs := by
  refine List.ext_getElem (mReadN_length ..) fun i inRead inBytes => ?_
  rw [← List.getD_eq_getElem (d := 0), ← List.getD_eq_getElem (d := 0), mReadN_getD _ _ _ _ inBytes, mRead_mWriteN,
    if_pos (by omega), Nat.add_sub_cancel_left]

theorem mReadN_mWriteN_apart (m : SMap Byte) {a b n : Nat} {bs : List Byte} (apart : a + bs.length ≤ b ∨ b + n ≤ a) :
    mReadN (mWriteN m a bs) b n = mReadN m b n :=
  mReadN_congr fun i hi => by rw [mRead_mWriteN, if_neg (by omega)]

/-! ### A count in a barrier object (R201) -/

section

variable {v count : Nat} (object : v < 2 ^ 64)
include object

/-- A count that leaves bytes pending: the pending count falls and the rest of the object stays. -/
theorem barCounted_below (live : v.testBit 25 = true) (below : count < bits v 0 24) :
    barCounted v count false = (v - count, false) ∧ v - count < 2 ^ 64 ∧ bits (v - count) 28 36 = bits v 28 36 ∧
      (v - count).testBit 26 = v.testBit 26 ∧ bits (v - count) 0 24 = bits v 0 24 - count ∧
      bits (v - count) 24 4 = bits v 24 4 := by
  have counted : barCounted v count false = (v - count, false) := by
    simp [barCounted, live, below.le, Nat.sub_ne_zero_of_lt below]
  simp only [bits, Nat.testBit_eq_decide_div_mod_eq, decide_eq_decide] at *
  refine ⟨counted, ?_, ?_, ?_, ?_, ?_⟩ <;> omega

/-- The count that leaves nothing pending turns the phase and ends the use of the object. -/
theorem barCounted_last (live : v.testBit 25 = true) (last : count = bits v 0 24) :
    let r := barCounted v count false
    r.2 = false ∧ r.1 < 2 ^ 64 ∧ bits r.1 28 36 = bits v 28 36 ∧ r.1.testBit 26 = v.testBit 26 ∧ bits r.1 0 24 = 0 ∧
      r.1.testBit 25 = false ∧ r.1.testBit 24 = !v.testBit 24 ∧ r.1.testBit 27 = v.testBit 27 := by
  have counted : barCounted v count false = (v - bits v 0 24 - 2 ^ 25 - bits v 24 1 * 2 ^ 24 + (1 - bits v 24 1) * 2 ^ 24, false) := by
    simp [barCounted, live, last]
  intro r
  rw [show r = _ from counted]
  simp only [bits, Nat.testBit_eq_decide_div_mod_eq, decide_eq_decide, ← decide_not, decide_eq_true_eq, decide_eq_false_iff_not] at *
  refine ⟨trivial, ?_, ?_, ?_, ?_, ?_, ?_, ?_⟩ <;> omega

/-- A count that is more than is pending, or of an object that is not in use, overflows. -/
theorem barCounted_excess (excess : v.testBit 25 = false ∨ bits v 0 24 < count) :
    let r := barCounted v count false
    r.2 = true ∧ r.1 < 2 ^ 64 ∧ bits r.1 28 36 = bits v 28 36 ∧ r.1.testBit 26 = v.testBit 26 ∧ bits r.1 0 24 = 0 ∧
      r.1.testBit 25 = false ∧ r.1.testBit 27 = true ∧ r.1.testBit 24 = v.testBit 24 := by
  have counted : barCounted v count false =
      (v - bits v 0 24 - (if v.testBit 25 then 2 ^ 25 else 0) + (if v.testBit 27 then 0 else 2 ^ 27), true) := by
    have overflows : (v.testBit 25 && decide (count ≤ bits v 0 24)) = false := by
      obtain dead | more := excess
      · rw [dead, Bool.false_and]
      · rw [decide_eq_false (by omega), Bool.and_false]
    simp [barCounted, overflows]
  intro r
  rw [show r = _ from counted]
  simp only [bits, Nat.testBit_eq_decide_div_mod_eq, decide_eq_decide, decide_eq_true_eq, decide_eq_false_iff_not]
  refine ⟨trivial, ?_, ?_, ?_, ?_, ?_, ?_, ?_⟩ <;> split <;> split <;> omega

/-- Whatever is counted, the sticky bit of void bytes and the high half of the object stay. -/
theorem barCounted_keeps (count : Nat) : let r := barCounted v count false
    r.1 < 2 ^ 64 ∧ bits r.1 28 36 = bits v 28 36 ∧ r.1.testBit 26 = v.testBit 26 := by
  intro r
  by_cases excess : v.testBit 25 = false ∨ bits v 0 24 < count
  · obtain ⟨-, fits, high, sticky, -⟩ := barCounted_excess object excess
    exact ⟨fits, high, sticky⟩
  · simp only [not_or, Bool.not_eq_false, not_lt] at excess
    obtain ⟨live, within⟩ := excess
    obtain below | last := within.lt_or_eq
    · obtain ⟨counted, fits, high, sticky, -⟩ := barCounted_below object live below
      rw [show r = _ from counted]
      exact ⟨fits, high, sticky⟩
    · obtain ⟨-, fits, high, sticky, -⟩ := barCounted_last object live last
      exact ⟨fits, high, sticky⟩

end

/-! ### The barrier object of a core -/

section

variable {s : State} {core b count engine n : Nat} {voidn : Bool}

theorem countBarrier_good (good : spadBad (getCore s core) (barAddr b) 8 = false) :
    let k := getCore s core
    let r := barCounted (leNat (mReadN k.spad (barAddr b) 8)) count voidn
    countBarrier core b count engine n voidn s = setCore s core { spadWrite k (barAddr b) (leBytes 8 r.1) with
      faults := k.faults ++ if r.2 then [⟨2, n, { cause := .barovf, engine := engine, va := some (barAddr b) }, false⟩] else [] } := by
  intro k r
  refine (if_neg (ne_true_of_eq_false good)).trans ?_
  show setCore s core (if r.2 then _ else _) = _
  cases r.2
  · show setCore s core (spadWrite k _ _) = setCore s core { spadWrite k _ _ with faults := k.faults ++ [] }
    rw [List.append_nil]
    rfl
  · rfl

theorem countBarrier_bad (bad : spadBad (getCore s core) (barAddr b) 8 = true) :
    RecordOnly (setCore s core { getCore s core with
      faults := (getCore s core).faults ++ [⟨3, n, sramStop engine 0 (some (barAddr b)), true⟩] })
      (countBarrier core b count engine n voidn s) := by
  unfold countBarrier
  dsimp only
  rw [if_pos bad]
  exact errorRecord_frame ..

end

/-! ### The landing (R199, R201) -/

/-- The core after a segment has landed in its scratchpad. -/
def landedCore (s : State) (c a : Nat) (bs : List Byte) : Core :=
  spadWrite { getCore s c with portAt := some (portCycle s c) } a bs

/-- A request whose one piece has landed or been put. -/
def landedReq (r : Req) (p : Piece) : Req := { r with pieces := [{ p with stage := 2, buf := [] }] }

/-- The state after the one piece of a request has landed in the scratchpad of a core. -/
def landedState (s : State) (n c a : Nat) (p : Piece) : State :=
  setCore (setReq s n (landedReq (getReq s n) p)) c (landedCore s c a p.buf)

section

variable {s : State} {n c a : Nat} {p : Piece} (one : (getReq s n).pieces = [p]) (copy : (getReq s n).kind = .copy)
  (target : p.dst = .spad c a) (core : c < 1024)
include one copy target core

omit copy in
theorem landPiece_one : landPiece n 0 (setCore s c { getCore s c with portAt := some (portCycle s c) }) = landedState s n c a p := by
  have req : getReq (setCore s c { getCore s c with portAt := some (portCycle s c) }) n = getReq s n := rfl
  simp only [landPiece, req, pieceAtIx_one one, mapPieces_one one, target, spadPut, core, if_true, landedState, landedReq, landedCore]
  have moved : ∀ x, setReq (setCore s c { getCore s c with portAt := some (portCycle s c) }) n x =
    setCore (setReq s n x) c { getCore s c with portAt := some (portCycle s c) } := fun _ => rfl
  rw [moved, getCore_setCore, setCore_setCore]

theorem exec_landing_one : exec (.copySegmentLanding n 0) s =
    if mayLand s n (getReq s n) 0 then
      .next (countCorePerformed (getReq s n).core (countPieces n (getReq s n) [p] (landedState s n c a p)))
    else .next s := by
  show execCopySegmentLanding n 0 s = _
  simp only [execCopySegmentLanding, pieceAtIx_one one, target, landCore, core, if_true, not_allClipped_copy copy, landGroup_one one copy]
  have kept : landKept s p = true := by simp [landKept, target]
  simp [landPiece_one one target core, pieceAtIx_one one, kept]

theorem portFree_of_mayLand (may : mayLand s n (getReq s n) 0 = true) :
    (getCore s c).portAt ≠ some (portCycle s c) ∧ (getCore s c).readAt ≠ some (portCycle s c) := by
  have free : portFree s n (getReq s n) c = true := by
    simp [mayLand, pieceAtIx_one one, target, landCore, core, not_allClipped_copy copy] at may
    obtain ⟨⟨⟨-, free⟩, -⟩, -⟩ := may
    exact free
  simp [portFree] at free
  exact free.1

end

end Sys2Proof.Machine
end

section
/-! Proofs of the family of spec/11: what a landing leaves in its core, counted (O39). -/

namespace Sys2Proof.Machine

theorem RecordOnly.getCore_eq {s t : State} (h : RecordOnly s t) (m : Nat) : getCore t m = getCore s m :=
  (congrArg (fun x => getCore x m) h.rest :)

theorem RecordOnly.getReq_eq {s t : State} (h : RecordOnly s t) (m : Nat) : getReq t m = getReq s m :=
  (congrArg (fun x => getReq x m) h.rest :)

theorem RecordOnly.refl (s : State) : RecordOnly s s := ⟨rfl, id⟩

/-! ### Words that cannot be corrected -/

section

variable {s : State} {c a : Nat} {bs : List Byte}

theorem spadBad_landedCore_of_good {lo n : Nat} (good : spadBad (getCore s c) lo n = false) :
    spadBad (landedCore s c a bs) lo n = false := by
  simp only [spadBad, ← Bool.not_eq_true, sramBad_iff] at good ⊢
  rintro ⟨w, bad, meets⟩
  exact good ⟨w, ((mem_badWords_spadWrite ..).1 bad).1, meets⟩

/-- A landing below a barrier object covers no word of it. -/
theorem spadBad_landedCore_of_bad {b : Nat} (below : a + bs.length ≤ barAddr b)
    (bad : spadBad (getCore s c) (barAddr b) 8 = true) : spadBad (landedCore s c a bs) (barAddr b) 8 = true := by
  simp only [spadBad, sramBad_iff] at bad ⊢
  obtain ⟨w, bad, meets⟩ := bad
  have object : barAddr b = 8 * (0x7FC0 + b) := by unfold barAddr; omega
  exact ⟨w, (mem_badWords_spadWrite ..).2 ⟨bad, fun covered => by omega⟩, meets⟩

end

/-! ### The landing as counted (R201) -/

/-- The state after a landing and its count. -/
def countedState (s : State) (n c a : Nat) (p : Piece) : State :=
  countPieces n (getReq s n) [p] (landedState s n c a p)

section

variable {s : State} {n c a b : Nat} {p : Piece}

theorem countedState_free (free : p.bar = none) : countedState s n c a p = landedState s n c a p := by
  simp only [countedState, countPieces, free]

theorem countedState_bar (bar : p.bar = some (c, b)) : countedState s n c a p =
    countBarrier c b p.len (barEngine (getReq s n) p) n p.voidn (landedState s n c a p) := by
  simp only [countedState, countPieces, bar, List.map_cons, List.map_nil, List.sum_cons, List.sum_nil, Nat.add_zero]

theorem getCore_landedState : getCore (landedState s n c a p) c = landedCore s c a p.buf := getCore_setCore ..

theorem setCore_landedState (k : Core) : setCore (landedState s n c a p) c k =
    setCore (setReq s n (landedReq (getReq s n) p)) c k := setCore_setCore ..

/-- A count in an object that can be read. -/
theorem countedState_good (bar : p.bar = some (c, b)) (good : spadBad (landedCore s c a p.buf) (barAddr b) 8 = false) :
    let k := landedCore s c a p.buf
    let r := barCounted (leNat (mReadN k.spad (barAddr b) 8)) p.len p.voidn
    countedState s n c a p = setCore (setReq s n (landedReq (getReq s n) p)) c
      { spadWrite k (barAddr b) (leBytes 8 r.1) with
        faults := k.faults ++
          if r.2 then [⟨2, n, { cause := .barovf, engine := barEngine (getReq s n) p, va := some (barAddr b) }, false⟩] else [] } := by
  intro k r
  rw [countedState_bar bar]
  refine (countBarrier_good (by rw [getCore_landedState]; exact good)).trans ?_
  rw [getCore_landedState]
  exact setCore_landedState _

/-- A count in an object that cannot be read: the core faults. -/
theorem countedState_bad (bar : p.bar = some (c, b)) (bad : spadBad (landedCore s c a p.buf) (barAddr b) 8 = true) :
    let k := landedCore s c a p.buf
    RecordOnly (setCore (setReq s n (landedReq (getReq s n) p)) c { k with
      faults := k.faults ++ [⟨3, n, sramStop (barEngine (getReq s n) p) 0 (some (barAddr b)), true⟩] }) (countedState s n c a p) := by
  intro k
  rw [countedState_bar bar, ← setCore_landedState]
  have counted := countBarrier_bad (s := landedState s n c a p) (count := p.len) (engine := barEngine (getReq s n) p) (n := n)
    (voidn := p.voidn) (by rw [getCore_landedState]; exact bad)
  rw [getCore_landedState] at counted
  exact counted

/-- What a landing leaves: the request landed, its core with its port used, and at most a record of an error. -/
theorem countedState_frame (bars : ∀ x, p.bar = some x → x.1 = c) : ∃ k, k.portAt = some (portCycle s c) ∧
    RecordOnly (setCore (setReq s n (landedReq (getReq s n) p)) c k)
      (countedState s n c a p) := by
  cases bar : p.bar with
  | none =>
    rw [countedState_free bar]
    exact ⟨landedCore s c a p.buf, rfl, .refl _⟩
  | some x =>
    obtain ⟨c', b⟩ := x
    obtain rfl : c' = c := bars _ bar
    cases bad : spadBad (landedCore s c' a p.buf) (barAddr b) 8 with
    | true => exact ⟨_, rfl, countedState_bad bar bad⟩
    | false =>
      rw [countedState_good bar bad]
      exact ⟨_, rfl, .refl _⟩

theorem countedState_mem (bars : ∀ x, p.bar = some x → x.1 = c)
    (good : ∀ x, p.bar = some x → spadBad (getCore s c) (barAddr x.2) 8 = false) : (countedState s n c a p).mem = s.mem := by
  cases bar : p.bar with
  | none => rw [countedState_free bar]; rfl
  | some x =>
    obtain ⟨c', b⟩ := x
    obtain rfl : c' = c := bars _ bar
    rw [countedState_good bar (spadBad_landedCore_of_good (good _ bar))]
    rfl

/-- The core after a landing and its count in an object that can be read. -/
theorem getCore_countedState_good (bar : p.bar = some (c, b)) (good : spadBad (getCore s c) (barAddr b) 8 = false)
    (below : a + p.buf.length ≤ barAddr b) (plain : p.voidn = false) :
    let k := getCore s c
    let u := getCore (countedState s n c a p) c
    let r := barCounted (leNat (mReadN k.spad (barAddr b) 8)) p.len false
    mReadN u.spad a p.buf.length = p.buf ∧ leNat (mReadN u.spad (barAddr b) 8) = r.1 ∧ u.faults = k.faults ++
      if r.2 then [⟨2, n, { cause := .barovf, engine := barEngine (getReq s n) p, va := some (barAddr b) }, false⟩] else [] := by
  intro k u r
  have object : mReadN (landedCore s c a p.buf).spad (barAddr b) 8 = mReadN k.spad (barAddr b) 8 :=
    mReadN_mWriteN_apart _ (.inl below)
  have fits : r.1 < 256 ^ 8 := (barCounted_keeps (leNat_mReadN_lt ..) _).1
  have counted := countedState_good (n := n) bar (spadBad_landedCore_of_good (a := a) (bs := p.buf) good)
  simp only [object, plain] at counted
  rw [show u = _ from (congrArg (getCore · c) counted).trans (getCore_setCore ..)]
  refine ⟨?_, ?_, rfl⟩
  · show mReadN (mWriteN (mWriteN k.spad a p.buf) (barAddr b) (leBytes 8 r.1)) a p.buf.length = p.buf
    rw [mReadN_mWriteN_apart _ (.inr below), mReadN_mWriteN_self]
  · show leNat (mReadN (mWriteN (mWriteN k.spad a p.buf) (barAddr b) (leBytes 8 r.1)) (barAddr b) 8) = r.1
    have written := mReadN_mWriteN_self (mWriteN k.spad a p.buf) (barAddr b) (leBytes 8 r.1)
    rw [leBytes_length] at written
    rw [written, leNat_leBytes, Nat.mod_eq_of_lt fits]

/-- The core after a landing whose count meets an object that cannot be read. -/
theorem getCore_countedState_bad (bar : p.bar = some (c, b)) (bad : spadBad (getCore s c) (barAddr b) 8 = true)
    (below : a + p.buf.length ≤ barAddr b) :
    let k := getCore s c
    let u := getCore (countedState s n c a p) c
    mReadN u.spad (barAddr b) 8 = mReadN k.spad (barAddr b) 8 ∧
      u.faults = k.faults ++ [⟨3, n, sramStop (barEngine (getReq s n) p) 0 (some (barAddr b)), true⟩] := by
  intro k u
  have core := ((countedState_bad (n := n) bar (spadBad_landedCore_of_bad below bad)).getCore_eq c).trans (getCore_setCore ..)
  rw [show u = _ from core]
  exact ⟨mReadN_mWriteN_apart _ (.inl below), rfl⟩

end

end Sys2Proof.Machine
end

section
/-! Proofs of the family of spec/11: an atomic as it performs (O39). -/

namespace Sys2Proof.Machine

/-! ### A write within one unit (R312) -/

theorem physWriteN_one (s : State) (key : Option Nat) {pa : Nat} {bs : List Byte} (one : pa % 64 + bs.length ≤ 64)
    (some : 0 < bs.length) : physWriteN s key pa bs = unpoison pa bs.length (physWrite s key pa bs false) := by
  have first : bs.take (64 - pa % 64) = bs := List.take_of_length_le (by omega)
  have last : bs.drop (64 - pa % 64) = [] := List.drop_of_length_le (by omega)
  rw [physWriteN, physWrites, physWritesN, if_neg (List.ne_nil_of_length_pos some)]
  dsimp only
  rw [first, last]
  simp [physWritesN]

theorem homeWrite_memory (s : State) (key : Nat) {pa : Nat} (memory : ∀ die off, paKind pa ≠ .kiln die off) (bs : List Byte) :
    homeWrite s key pa bs = physWriteN s (some key) pa bs := by
  unfold homeWrite
  split
  · next die off kiln => exact absurd kiln (memory die off)
  · rfl

/-! ### The table of operations (R209) -/

/-- The number that an operand of an atomic holds. -/
def atomicNum (sz : Sz) (q : Nat) : Int := match sz with
  | .i32 => (BitVec.ofNat 32 q).toInt
  | .i64 => (BitVec.ofNat 64 q).toInt
  | .u32 | .u64 => q

theorem eq_of_atomicNum_eq {sz : Sz} {x y : Nat} (hx : x < 2 ^ (8 * szBytes sz)) (hy : y < 2 ^ (8 * szBytes sz))
    (same : atomicNum sz x = atomicNum sz y) : x = y := by
  have signed : ∀ n, x < 2 ^ n → y < 2 ^ n → (BitVec.ofNat n x).toInt = (BitVec.ofNat n y).toInt → x = y := by
    intro n hx hy same
    have words := congrArg BitVec.toNat (BitVec.eq_of_toInt_eq same)
    rwa [BitVec.toNat_ofNat, BitVec.toNat_ofNat, Nat.mod_eq_of_lt hx, Nat.mod_eq_of_lt hy] at words
  cases sz with
  | i32 => exact signed 32 hx hy same
  | i64 => exact signed 64 hx hy same
  | u32 | u64 => exact Int.ofNat_inj.1 same

/-- The smaller and the larger of two operands, as numbers; the other operations as the table writes them. -/
theorem atomicNew_min {sz : Sz} {old v : Nat} (swap : Nat) (hold : old < 2 ^ (8 * szBytes sz)) (hv : v < 2 ^ (8 * szBytes sz)) :
    atomicNew 1 sz old v swap = if atomicNum sz v < atomicNum sz old then v else old := by
  have picked : atomicNew 1 sz old v swap = if atomicNum sz old < atomicNum sz v then old else v := by
    cases sz <;> simp [atomicNew, atomicNum, szBytes, sInt_eq_toInt] <;> rfl
  rw [picked]
  obtain less | same | more := lt_trichotomy (atomicNum sz old) (atomicNum sz v)
  · rw [if_pos less, if_neg less.not_gt]
  · simp only [eq_of_atomicNum_eq hold hv same, ite_self]
  · rw [if_neg more.not_gt, if_pos more]

theorem atomicNew_max (sz : Sz) (old v swap : Nat) :
    atomicNew 2 sz old v swap = if atomicNum sz old < atomicNum sz v then v else old := by
  cases sz <;> simp [atomicNew, atomicNum, szBytes, sInt_eq_toInt] <;> rfl

theorem atomicOld_i32 (old : Nat) : atomicOld .i32 old = ((BitVec.ofNat 32 old).signExtend 64).toNat := by
  rw [BitVec.signExtend, BitVec.toNat_ofInt, ← sInt_eq_toInt]
  rfl

/-! ### The pieces of an atomic -/

theorem mapPieces_cons {r : Req} {p : Piece} {ps : List Piece} (pieces : r.pieces = p :: ps) (f : Piece → Piece) (g : Piece → Piece) :
    mapPieces r (fun i q => if i = 0 then f q else g q) = { r with pieces := f p :: ps.map g } := by
  have rest : (ps.zipIdx 1).map (fun x => if x.2 = 0 then f x.1 else g x.1) = ps.map g := by
    have later : ∀ x ∈ ps.zipIdx 1, (if x.2 = 0 then f x.1 else g x.1) = (g ∘ Prod.fst) x := fun x mem =>
      if_neg (by have := List.le_snd_of_mem_zipIdx mem; omega)
    rw [List.map_congr_left later, ← List.map_map, List.zipIdx_map_fst]
  simp [mapPieces, pieces, rest]

/-- The core to which the old value of an atomic returns: that of its last piece. -/
theorem getLast?_dst {p : Piece} {ps : List Piece} {own : Nat} (some : ps ≠ []) (targets : ∀ q ∈ ps, ∃ a, q.dst = .spad own a) :
    ∃ a, ((p :: ps).getLast?.map (·.dst)) = .some (.spad own a) := by
  obtain ⟨a, target⟩ := targets _ (List.getLast_mem some)
  refine ⟨a, ?_⟩
  rw [List.getLast?_eq_some_getLast (List.cons_ne_nil _ _), List.getLast_cons some, Option.map_some, target]

/-! ### The step (R209) -/

section

variable {s t : State} {n opc ea z own : Nat} {sz : Sz} {v : Word} {x : Xlat} {p0 : Piece} {ps : List Piece}

/-- The state after the port of a core's scratchpad has read in the cycle. -/
def readPort (s : State) (c : Nat) : State := setCore s c { getCore s c with readAt := some (portCycle s c) }

/-- The state after the word of an atomic is replaced at its home. -/
def atomicHome (t : State) (x : Xlat) (opc : Nat) (sz : Sz) (old v swap : Nat) : State :=
  physWriteN t (some x.key) x.pa (leBytes (szBytes sz) (atomicNew opc sz old v swap))

/-- The request after its atomic performed: its old value is bound for the pieces behind the first. -/
def atomicReturn (r : Req) (p0 : Piece) (ps : List Piece) (z : Nat) (sz : Sz) (old : Nat) : Req :=
  { r with mid := true, pieces := { p0 with stage := 2 } :: ps.map fun p =>
      { p with stage := 1, buf := returnPart z (leBytes 8 (atomicOld sz old)) p } }

theorem exec_atomicPerform (kind : (getReq s n).kind = .atomic opc sz ea v z) (pieces : (getReq s n).pieces = p0 :: ps)
    (some : ps ≠ []) (targets : ∀ p ∈ ps, ∃ a, p.dst = .spad own a) (core : own < 1024)
    (may : mayAtomic s n (getReq s n) = true)
    (access : virtAccess s (getReq s n) (getReq s n).wrBit ea (szBytes sz) true = (t, .ok x))
    (memory : ∀ die off, paKind x.pa ≠ .kiln die off) :
    let old := leNat (bytesUnder s (.some x.key) x.pa (szBytes sz))
    let home := atomicHome t x opc sz old v.toNat (leNat (mReadN (getCore s own).spad z (szBytes sz)))
    ∃ u, exec (.atomicPerform n) s = .next (countCorePerformed (getReq s n).core u) ∧
      ChanOnly (setReq (if opc = 7 then readPort home own else home) n
        (atomicReturn (getReq s n) p0 ps z sz old)) u := by
  intro old home
  have walked := virtAccess_frame access
  have loaded : spadBytes t own z (szBytes sz) = mReadN (getCore s own).spad z (szBytes sz) := by
    rw [spadBytes, if_pos core, show getCore t own = getCore s own from (congrArg (getCore · own) walked :)]
  obtain ⟨a, last⟩ := getLast?_dst (p := p0) some targets
  rw [← pieces] at last
  refine ⟨_, ?_, postReturn_frame _ n (getReq s n) (getReq s n).wrBit ea⟩
  show execAtomicPerform n s = _
  simp only [execAtomicPerform, kind, may, if_true, access, last, loaded, bytesUnder_of_access access, homeWrite_memory _ _ memory]
  simp only [mapPieces_cons pieces, core, true_and]
  rfl

theorem getCore_atomicHome (walked : WalkOnly s t) (old y swap m : Nat) :
    getCore (atomicHome t x opc sz old y swap) m = getCore s m :=
  ((congrArg (getCore · m) (physWriteN_frame ..).rest :) : getCore (atomicHome t x opc sz old y swap) m = getCore t m).trans
    (congrArg (getCore · m) walked :)

theorem portCycle_atomicHome (walked : WalkOnly s t) (old y swap m : Nat) :
    portCycle (atomicHome t x opc sz old y swap) m = portCycle s m :=
  ((congrArg (portCycle · m) (physWriteN_frame ..).rest :) : portCycle (atomicHome t x opc sz old y swap) m = portCycle t m).trans
    (congrArg (portCycle · m) walked :)

/-- An aligned word stands within one unit. -/
theorem puts_atomicHome {u : State} {old y swap : Nat} (walked : WalkOnly s t) (aligned : x.pa % szBytes sz = 0)
    (after : SameHome (atomicHome t x opc sz old y swap) u) :
    Spec.puts s u x (leBytes (szBytes sz) (atomicNew opc sz old y swap)) := by
  have one : x.pa % 64 + szBytes sz ≤ 64 := by cases sz <;> simp only [szBytes] at aligned ⊢ <;> omega
  have word := leBytes_length (szBytes sz) (atomicNew opc sz old y swap)
  refine puts_physWrite (whole := false) (by rwa [word]) (by rw [word]; exact szBytes_pos sz) walked.sameHome (SameHome.trans ?_ after)
  rw [atomicHome, physWriteN_one _ _ (by rwa [word]) (by rw [word]; exact szBytes_pos sz)]
  exact ⟨rfl, rfl, rfl, rfl⟩

end

end Sys2Proof.Machine
end

section
/-! Proofs of the family of spec/11: the rows of a request of one piece and of an atomic (O39). -/

namespace Sys2Proof.Machine

/-- A request whose state is written is the one that is read back; the others stay. -/
theorem holds_of_reqs {s t : State} {n : Nat} {r : Req} (reqs : t.reqs = smPut s.reqs n r) :
    getReq t n = r ∧ ∀ m, m ≠ n → getReq t m = getReq s m := by
  have same : ∀ m, getReq t m = getReq (setReq s n r) m := fun m => by
    unfold getReq
    rw [reqs]
    rfl
  exact ⟨(same n).trans (getReq_setReq ..), fun m other => (same m).trans (getReq_setReq_ne _ _ _ _ other)⟩

section

variable {s : State} {n c a va : Nat} {p : Piece} (one : (getReq s n).pieces = [p]) (copy : (getReq s n).kind = .copy)
include one copy

theorem takes_virt (source : p.src = .virt va) (target : p.dst = .spad c a) (fresh : p.stage = 0)
    (ready : srcReady s n (getReq s n) p = true) {t : State} {x : Xlat}
    (access : virtAccess s (getReq s n) (getReq s n).rdBit va p.len true = (t, .ok x)) :
    ∃ u, exec (.bytePerform n 0) s = .next (countCorePerformed (getReq s n).core u) ∧ u.mem = s.mem ∧ u.cores = s.cores ∧
      u.reqs = smPut s.reqs n
        { getReq s n with pieces := [{ p with stage := 1, buf := bytesUnder s (some x.key) x.pa p.len }] } := by
  have walked := virtAccess_frame access
  have taken := takePiece_virt one copy source target access
  refine ⟨takePiece n 0 s, (execBytePerform_take one copy fresh).trans (if_pos ready), ?_, ?_, ?_⟩
  · exact ((congrArg State.mem taken :) : _ = t.mem).trans (congrArg State.mem walked :)
  · exact ((congrArg State.cores taken :) : _ = t.cores).trans (congrArg State.cores walked :)
  · refine (congrArg State.reqs taken :).trans ?_
    exact (congrArg (fun q => smPut q n _) ((congrArg State.reqs walked :) : t.reqs = s.reqs))

theorem puts_virt (target : p.dst = .virt va) (taken : p.stage = 1) (ready : dstReady s n (getReq s n) [0] 0 = true)
    (full : p.buf.length = p.len) (bytes : 0 < p.len) {t : State} {x : Xlat}
    (access : virtAccess s (getReq s n) (getReq s n).wrBit va p.len false = (t, .ok x)) (unit : x.pa % 64 + p.len ≤ 64)
    (memory : ∀ die off, paKind x.pa ≠ .kiln die off) :
    ∃ u, exec (.bytePerform n 0) s = .next (countCorePerformed (getReq s n).core u) ∧ Spec.puts s u x p.buf ∧
      u.cores = s.cores ∧ u.reqs = smPut s.reqs n (landedReq (getReq s n) p) := by
  have walked := virtAccess_frame access
  obtain ⟨whole, put⟩ := putPiece_virt one target access memory
  have frame := physWrite_frame (setReq t n (landedReq (getReq s n) p)) (some x.key) x.pa p.buf whole
  refine ⟨_, (execBytePerform_put one copy taken).trans (if_pos ready), ?_, ?_, ?_⟩
  · rw [put]
    exact puts_physWrite (t := setReq t n (landedReq (getReq s n) p)) (whole := whole) (by rwa [full]) (by rwa [full])
      (walked.sameHome.trans ⟨rfl, rfl, rfl, rfl⟩) ⟨rfl, rfl, rfl, rfl⟩
  · rw [put]
    exact ((congrArg State.cores frame.rest :) : _ = t.cores).trans (congrArg State.cores walked :)
  · rw [put]
    refine (congrArg State.reqs frame.rest :).trans ?_
    exact congrArg (fun q => smPut q n (landedReq (getReq s n) p)) ((congrArg State.reqs walked :) : t.reqs = s.reqs)

theorem landing_next (target : p.dst = .spad c a) (core : c < 1024) (idle : (getCore s c).portAt = some (portCycle s c) ∨
    (getCore s c).readAt = some (portCycle s c) ∨ mayLand s n (getReq s n) 0 = false) :
    exec (.copySegmentLanding n 0) s = .next s := by
  rw [exec_landing_one one copy target core, if_neg]
  intro may
  obtain ⟨port, read⟩ := portFree_of_mayLand one copy target core may
  obtain busy | reads | not := idle
  · exact port busy
  · exact read reads
  · rw [not] at may
    cases may

end

/-- A count in the object of a core, field by field (R201). -/
theorem countedObject_fields {s : State} {n c a b : Nat} {p : Piece} (bar : p.bar = some (c, b)) (full : p.buf.length = p.len)
    (below : a + p.len ≤ 0x3FE00) (plain : p.voidn = false) (good : spadBad (getCore s c) (0x3FE00 + 8 * b) 8 = false) :
    let object := fun (k : Core) => leNat (mReadN k.spad (0x3FE00 + 8 * b) 8)
    let k := getCore s c
    let u := getCore (countedState s n c a p) c
    let old := object k
    let new := object u
    mReadN u.spad a p.len = p.buf ∧ bits new 28 36 = bits old 28 36 ∧ new.testBit 26 = old.testBit 26 ∧
      (old.testBit 25 = true → p.len < bits old 0 24 →
        bits new 0 24 = bits old 0 24 - p.len ∧ bits new 24 4 = bits old 24 4 ∧ u.faults = k.faults) ∧
      (old.testBit 25 = true → p.len = bits old 0 24 → bits new 0 24 = 0 ∧ new.testBit 25 = false ∧
        new.testBit 24 = !old.testBit 24 ∧ new.testBit 27 = old.testBit 27 ∧ u.faults = k.faults) ∧
      (old.testBit 25 = false ∨ bits old 0 24 < p.len → bits new 0 24 = 0 ∧ new.testBit 25 = false ∧ new.testBit 27 = true ∧
        new.testBit 24 = old.testBit 24 ∧ ∃ e, u.faults = k.faults ++ [e] ∧ e.stop.cause = .barovf ∧
          e.stop.smask = 0 ∧ e.stop.reason = 0 ∧ e.stop.va = some (0x3FE00 + 8 * b)) := by
  intro object k u old new
  have under : a + p.buf.length ≤ barAddr b := by rw [full]; exact below.trans (Nat.le_add_right ..)
  obtain ⟨bytes, counted, faults⟩ := getCore_countedState_good (n := n) bar good under plain
  have word : old < 2 ^ 64 := leNat_mReadN_lt ..
  change new = (barCounted old p.len false).1 at counted
  change u.faults = k.faults ++ if (barCounted old p.len false).2 then _ else _ at faults
  obtain ⟨-, high, sticky⟩ := barCounted_keeps word p.len
  rw [full] at bytes
  rw [counted]
  refine ⟨bytes, high, sticky, fun live less => ?_, fun live last => ?_, fun excess => ?_⟩
  · obtain ⟨eq, -, -, -, pending, state⟩ := barCounted_below word live less
    rw [eq] at faults ⊢
    exact ⟨pending, state, faults.trans (List.append_nil _)⟩
  · obtain ⟨quiet, -, -, -, pending, dead, phase, fault⟩ := barCounted_last word live last
    rw [quiet] at faults
    exact ⟨pending, dead, phase, fault, faults.trans (List.append_nil _)⟩
  · obtain ⟨loud, -, -, -, pending, dead, fault, phase⟩ := barCounted_excess word excess
    rw [loud] at faults
    exact ⟨pending, dead, fault, phase, _, faults, rfl, rfl, rfl, rfl⟩

/-- An atomic that may perform replaces its word and sends the old value back. -/
theorem atomic_performs {s t : State} {n opc ea z own : Nat} {sz : Sz} {v : Word} {x : Xlat} {p0 : Piece} {ps : List Piece}
    (kind : (getReq s n).kind = .atomic opc sz ea v z) (pieces : (getReq s n).pieces = p0 :: ps)
    (some : ps ≠ []) (targets : ∀ p ∈ ps, ∃ a, p.dst = .spad own a) (core : own < 1024)
    (may : mayAtomic s n (getReq s n) = true)
    (access : virtAccess s (getReq s n) (getReq s n).wrBit ea (szBytes sz) true = (t, .ok x))
    (memory : ∀ die off, paKind x.pa ≠ .kiln die off) (aligned : x.pa % szBytes sz = 0) :
    let old := leNat (bytesUnder s (.some x.key) x.pa (szBytes sz))
    ∃ u, exec (.atomicPerform n) s = .next (countCorePerformed (getReq s n).core u) ∧
      Spec.puts s u x (leBytes (szBytes sz)
        (atomicNew opc sz old v.toNat (leNat (mReadN (getCore s own).spad z (szBytes sz))))) ∧
      (∀ m, m ≠ own ∨ opc ≠ 7 → getCore u m = getCore s m) ∧
      (opc = 7 → getCore u own = { getCore s own with readAt := .some (portCycle s own) }) ∧
      getReq u n = atomicReturn (getReq s n) p0 ps z sz old := by
  intro old
  have walked := virtAccess_frame access
  obtain ⟨u, performs, returned⟩ := exec_atomicPerform kind pieces some targets core may access memory
  have cores : ∀ m, getCore u m = getCore (if opc = 7 then readPort _ own else _) m := fun m => (congrArg (getCore · m) returned :)
  refine ⟨u, performs, puts_atomicHome walked aligned (SameHome.trans ?_ returned.sameHome), fun m kept => ?_, fun cas => ?_, ?_⟩
  · split <;> exact ⟨rfl, rfl, rfl, rfl⟩
  · rw [cores]
    split
    · next cas =>
      rw [readPort, getCore_setCore_ne _ _ _ _ (kept.resolve_right (not_not_intro cas)), getCore_atomicHome walked]
    · rw [getCore_atomicHome walked]
  · rw [cores, if_pos cas, readPort, getCore_setCore, getCore_atomicHome walked, portCycle_atomicHome walked]
  · exact ((congrArg (getReq · n) returned :) : _ = getReq (setReq _ n _) n).trans (getReq_setReq ..)

end Sys2Proof.Machine
end

section
/-! Proofs of the family of spec/11: bytes of a request and atomics, settled (O39). -/

namespace Sys2Proof.Machine

/-- The table of operations as the statement of R209 writes it. -/
theorem atomicNew_table {opc : Nat} {sz : Sz} {old v : Nat} (swap : Nat) (known : opc < 8) (hold : old < 2 ^ (8 * szBytes sz))
    (hv : v < 2 ^ (8 * szBytes sz)) : atomicNew opc sz old v swap = match (generalizing := false) opc with
      | 0 => (old + v) % 2 ^ (8 * szBytes sz)
      | 1 => if atomicNum sz v < atomicNum sz old then v else old
      | 2 => if atomicNum sz old < atomicNum sz v then v else old
      | 3 => Nat.land old v
      | 4 => Nat.lor old v
      | 5 => Nat.xor old v
      | 6 => v
      | _ => if old = v then swap else old := by
  match opc, known with
  | 1, _ => exact atomicNew_min swap hold hv
  | 2, _ => exact atomicNew_max sz old v swap
  | 0, _ | 3, _ | 4, _ | 5, _ | 6, _ | 7, _ => rfl

/-- Settles O39: a request of one piece has its piece taken, put or landed by the lemmas above, the count in a barrier object field by
field; an atomic replaces its word at the home, and its old value goes to the pieces behind the first. -/
theorem movingBytesAndAtomics : Obligations.MovingBytesAndAtomics := by
  unfold Obligations.MovingBytesAndAtomics
  refine ⟨fun n c a va b bs p s => ?_, fun n opc ea z own sz v s t x p0 ps => ?_⟩
  · intro r one copy holds
    have holdsOf : ∀ (u : State) (q : Piece), u.reqs = smPut s.reqs n { r with pieces := [q] } → holds u q :=
      fun u q reqs => holds_of_reqs reqs
    refine ⟨?wait, ?takeVirt, ?takeSpad, ?putWait, ?put, ?land, ?complete⟩
    case wait =>
      intro source target fresh waits
      exact (execBytePerform_take one copy fresh).trans (if_neg (ne_true_of_eq_false waits))
    case takeVirt =>
      intro source target fresh ready t x access
      obtain ⟨u, step, mem, cores, reqs⟩ := takes_virt one copy source target fresh ready access
      exact ⟨u, step, mem, cores, holdsOf u _ reqs⟩
    case takeSpad =>
      intro source _ core target fresh ready
      refine ⟨_, (execBytePerform_take one copy fresh).trans (if_pos ready), ?_⟩
      rw [takePiece_spad one copy source core target]
      exact ⟨rfl, fun m other => getCore_setCore_ne _ _ _ _ other, getCore_setCore .., holdsOf _ _ rfl⟩
    case putWait =>
      intro target taken waits
      exact (execBytePerform_put one copy taken).trans (if_neg (ne_true_of_eq_false waits))
    case put =>
      intro target taken ready full some t x access unit memory
      obtain ⟨u, step, puts, cores, reqs⟩ := puts_virt one copy target taken ready full some access unit (memory 0 some)
      exact ⟨u, step, puts, cores, holdsOf u _ reqs⟩
    case land =>
      intro target core taken bytes full k land
      subst bytes
      refine ⟨landing_next one copy target core, fun may bars => ?_⟩
      obtain ⟨k', port, frame⟩ := countedState_frame (s := s) (n := n) (a := a) (p := p) bars
      have landed : getCore (countedState s n c a p) c = k' := (frame.getCore_eq c).trans (getCore_setCore ..)
      refine ⟨countedState s n c a p, (exec_landing_one one copy target core).trans (if_pos may),
        holdsOf _ _ (congrArg State.reqs frame.rest :), countedState_mem bars,
        fun m other => (frame.getCore_eq m).trans (getCore_setCore_ne _ _ _ _ other), by rw [landed]; exact port,
        fun free => ?_, fun bar object below plain bad => ?_, fun bar object below plain good => ?_⟩
      · rw [countedState_free free, getCore_landedState]
        exact ⟨rfl, rfl, rfl⟩
      · exact getCore_countedState_bad bar bad (by rw [full]; exact below.trans (Nat.le_add_right ..))
      · exact countedObject_fields bar full below plain good
    case complete =>
      intro end_
      have ends := exec_requestComplete_one one copy
      refine ⟨fun performed open_ untold => ends.trans (if_pos ⟨performed, open_, untold⟩), fun not => ends.trans (if_neg ?_)⟩
      rintro ⟨performed, open_, untold⟩
      simp [r, performed, open_, untold] at not
  · intro r w kind pieces some targets core known fits may access memory aligned old y swap num new back
    have width : w = szBytes sz := by cases sz <;> rfl
    have word : old < 2 ^ (8 * szBytes sz) := by
      have small := leNat_lt (bytesUnder s (.some x.key) x.pa w)
      rwa [bytesUnder_length, width, show (256 : Nat) = 2 ^ 8 from rfl, ← pow_mul] at small
    rw [width] at access aligned fits
    obtain ⟨u, performs, puts, others, cas, req⟩ := atomic_performs kind pieces some targets core may access
      (memory 0 (by rw [width]; exact szBytes_pos sz)) aligned
    have value : new = atomicNew opc sz old y swap := by
      refine Eq.trans ?_ (atomicNew_table swap known word fits).symm
      cases sz <;> rfl
    have returned : back = leBytes 8 (atomicOld sz old) := by
      cases sz
      case i32 => exact congrArg (leBytes 8) (atomicOld_i32 old).symm
      all_goals rfl
    refine ⟨u, performs, ?_, others, cas, ?_⟩
    · rw [value]
      cases sz <;> exact puts
    · rw [req, returned]
      cases sz <;> rfl

end Sys2Proof.Machine
end

section
/-! Proofs of the family of spec/12: the exact sums of the rows of a product (O31). -/

namespace Sys2Proof.Machine

/-! ### Exact values -/

theorem dy_dyMul (a b : Dy) : Spec.dy (dyMul a b) = Spec.dy a * Spec.dy b := by
  simp only [dyMul, Spec.dy, zpow_add₀ (two_ne_zero (α := ℚ)), Int.cast_mul]
  ring

/-- The number of a decoded value is that of its exact value. -/
theorem map_dy_dyOf (v : FVal) : (dyOf v).map Spec.dy = Spec.rat v := by
  cases v with
  | nan signalling => rfl
  | inf neg => rfl
  | fin neg m e => cases neg <;> simp [dyOf, Spec.rat, Spec.dy]

/-! ### Elements (R104 to R106, R146, R157, R158) -/

/-- The code of element `k` of a data row. -/
def elemCode (ef : EF) (row : BitVec 1024) (k : Nat) : Nat := bits row.toNat ((efLt ef).width * k) (efLt ef).width

theorem rowCodes_eq_map (ef : EF) (row : BitVec 1024) :
    rowCodes ef row = (List.range (1024 / (efLt ef).width)).map (elemCode ef row) := lanesOf_eq_map ..

theorem elemCode_lt (ef : EF) (row : BitVec 1024) (k : Nat) : elemCode ef row k < 2 ^ (efLt ef).width :=
  Nat.mod_lt _ (Nat.two_pow_pos _)

theorem sInt_8_eq_num {x : Nat} (fits : x < 2 ^ 8) : sInt 8 x = Spec.num 8 false x := laneInt_eq_num (w := 8) false fits

theorem map_dy_elemDec (ef : EF) {alt : Nat} (byte : alt < 2 ^ 8) (row : BitVec 1024) (k : Nat) :
    (elemDec ef alt (elemCode ef row k)).map Spec.dy = Spec.elem ef alt row k := by
  have value : ∀ z : Int, Spec.dy (z, 0) = z := fun z => by simp [Spec.dy]
  have half : ∀ z : Int, Spec.dy (z, -1) = z / 2 := fun z => by simp [Spec.dy, div_eq_mul_inv]
  cases ef
  case i8 =>
    rw [elemDec, Option.map_some, value, sInt_8_eq_num (elemCode_lt ..)]
    rfl
  case e2m1 =>
    rw [elemDec, Spec.elem]
    by_cases alternate : elemCode .e2m1 row k = 8
    · rw [if_pos alternate, Option.map_some, half, sInt_8_eq_num byte]
      exact (if_pos ⟨rfl, alternate⟩).symm
    · rw [if_neg alternate, map_dy_dyOf]
      exact (if_neg fun both => alternate both.2).symm
  all_goals exact map_dy_dyOf _

/-! ### Sums along K (R157, R160, R161) -/

/-- A sum of products is exact, and marked where a term is no number. -/
theorem dotAt_exact {α : Type} (x y : α → Option Dy) (pos : α → Nat) (b : Array (Option Dy)) (ts : List α) (d : Dy) (bad : Bool)
    (partner : ∀ t ∈ ts, b.getD (pos t) (some (0, 0)) = y t) : let r := dotAt (ts.map x) (ts.map pos) b d bad
    Spec.dy r.1 = Spec.dy d + (ts.map fun t => ((x t).map Spec.dy).getD 0 * ((y t).map Spec.dy).getD 0).sum ∧
    (r.2 = true ↔ bad = true ∨ ∃ t ∈ ts, x t = none ∨ y t = none) := by
  induction ts generalizing d bad with
  | nil => simp [dotAt]
  | cons t ts ih =>
    obtain ⟨first, others⟩ := List.forall_mem_cons.1 partner
    simp only [List.map_cons, List.sum_cons, dotAt, List.exists_mem_cons_iff, first]
    cases hx : x t with
    | none => simp [ih d true others]
    | some u =>
      cases hy : y t with
      | none => simp [ih d true others]
      | some v => simp [ih (dyAdd d (dyMul u v)) bad others, dy_dyAdd, dy_dyMul, add_assoc]

/-! ### The terms of a row (R157, R158, R160, R161) -/

/-- The element format of a product; the K-block of one that has blocks, its alternate byte, and its first place along K. -/
def prodEf : ProdKind → EF
  | .mma ef _ _ _ | .mmab ef _ _ | .mmas ef _ _ => ef
def prodBlock : ProdKind → Option Nat
  | .mmab _ _ kb | .mmas _ (.plane _ kb) _ => some kb
  | _ => none
def prodAlt (kind : ProdKind) (side : BitVec 128) : Nat :=
  match prodBlock kind with
  | some kb => bits side.toNat (8 * (8 + kb)) 8
  | none => 0
def prodBase (kind : ProdKind) : Nat := 32 * (prodBlock kind).getD 0

theorem prodAlt_lt (kind : ProdKind) (side : BitVec 128) : prodAlt kind side < 2 ^ 8 := by
  unfold prodAlt
  split
  · exact Nat.mod_lt _ (Nat.two_pow_pos _)
  · exact Nat.two_pow_pos _

/-- A product's operands as the elements that the model decodes: of a row of A, and of column `j` of B. -/
def elemA (kind : ProdKind) (a : BitVec 1024 × BitVec 128) (k : Nat) : Option Dy :=
  elemDec (prodEf kind) (prodAlt kind a.2) (elemCode (prodEf kind) a.1 k)
def elemB (p : Prod) (j k : Nat) : Option Dy :=
  let per := 1024 / (efLt (prodEf p.kind)).width
  elemDec (prodEf p.kind) (prodAlt p.kind (p.bSide.getD j 0)) (elemCode (prodEf p.kind) (p.bRows.getD (64 * (k / per) + j) 0) (k % per))

/-- Two values for each group that is in order. -/
def keptOf {α : Type} (groups meta_ : Nat) (f : Nat → Nat → Nat → α) : List α := (List.range groups).flatMap fun g =>
  if bits meta_ (4 * g + 2) 2 ≤ bits meta_ (4 * g) 2 then [] else [f g 0 (bits meta_ (4 * g) 2), f g 1 (bits meta_ (4 * g + 2) 2)]

theorem map_keptOf {α β : Type} (h : α → β) (groups meta_ : Nat) (f : Nat → Nat → Nat → α) :
    (keptOf groups meta_ f).map h = keptOf groups meta_ fun g n i => h (f g n i) := by
  rw [keptOf, List.map_flatMap, keptOf]
  congr 1
  funext g
  split <;> rfl

theorem sparsePick_eq (groups meta_ : Nat) (kept : List (Option Dy)) :
    let r := sparsePick groups meta_ kept
    r.1 = keptOf groups meta_ (fun g n _ => kept.getD (2 * g + n) (some (0, 0))) ∧ r.2.1 = keptOf groups meta_ (fun g _ i => 4 * g + i) ∧
    (r.2.2 = true ↔ ∃ g < groups, bits meta_ (4 * g + 2) 2 ≤ bits meta_ (4 * g) 2) := by
  induction groups with
  | zero => simp [sparsePick, keptOf]
  | succ n ih =>
    obtain ⟨values, places, disorder⟩ := ih
    simp only [sparsePick, keptOf, List.range_succ, List.foldl_append, List.foldl_cons, List.foldl_nil, List.flatMap_append,
      Nat.exists_lt_succ_right] at values places disorder ⊢
    split <;> simp_all

/-- A K-block lies in a row. -/
theorem block_within {ef : EF} {kb : Nat} (lt : kb < ef.kblocks) : 32 * kb + 32 ≤ 1024 / (efLt ef).width := by
  have blocks : 32 * ef.kblocks ≤ 1024 / (efLt ef).width := by cases ef <;> decide
  omega

theorem group_of_record (record : BitVec 8192) (i : Nat) {g n : Nat} (lt : g < 32) (pair : n < 2) :
    bits record.toNat (128 * i + 4 * g + 2 * n) 2 = bits (metaRow record i) (4 * g + 2 * n) 2 := by
  rw [metaRow, bits_bits _ _ _ _ _ (by omega), Nat.add_assoc]

/-- The kept terms of a row, by its metadata. -/
def keptTerms (groups meta_ a b : Nat) : List (Nat × Nat) := keptOf groups meta_ fun g n i => (a + 2 * g + n, b + 4 * g + i)

theorem terms_of_record (record : BitVec 8192) (i : Nat) {groups : Nat} (le : groups ≤ 32) (a b : Nat) :
    ((List.range groups).flatMap fun g =>
      if bits record.toNat (128 * i + 4 * g + 2 * 1) 2 ≤ bits record.toNat (128 * i + 4 * g + 2 * 0) 2 then []
      else [(a + 2 * g, b + 4 * g + bits record.toNat (128 * i + 4 * g + 2 * 0) 2),
        (a + 2 * g + 1, b + 4 * g + bits record.toNat (128 * i + 4 * g + 2 * 1) 2)]) = keptTerms groups (metaRow record i) a b := by
  refine List.flatMap_congr fun g mem => ?_
  have lt : g < 32 := (List.mem_range.1 mem).trans_le le
  rw [group_of_record record i lt (n := 0) (by omega), group_of_record record i lt (n := 1) (by omega)]
  rfl

theorem disorder_of_record (record : BitVec 8192) (i : Nat) {groups : Nat} (le : groups ≤ 32) :
    (∃ g < groups, bits record.toNat (128 * i + 4 * g + 2 * 1) 2 ≤ bits record.toNat (128 * i + 4 * g + 2 * 0) 2) ↔
      ∃ g < groups, bits (metaRow record i) (4 * g + 2) 2 ≤ bits (metaRow record i) (4 * g) 2 := by
  refine exists_congr fun g => and_congr_right fun mem => ?_
  rw [group_of_record record i (mem.trans_le le) (n := 0) (by omega), group_of_record record i (mem.trans_le le) (n := 1) (by omega)]
  rfl

theorem terms_tile (ef : EF) (acc : Fin 4) (row0 nrow : Nat) (record : BitVec 8192) (i : Nat) :
    Spec.terms (.mmas ef (.tile acc row0 nrow) record) i = (keptTerms 32 (metaRow record i) 0 0,
      ∃ g < 32, bits (metaRow record i) (4 * g + 2) 2 ≤ bits (metaRow record i) (4 * g) 2) :=
  Prod.ext (terms_of_record record i le_rfl 0 0) (propext (disorder_of_record record i le_rfl))

theorem terms_plane (ef : EF) (pp : Fin 2) (kb : Nat) (record : BitVec 8192) (i : Nat) :
    Spec.terms (.mmas ef (.plane pp kb) record) i = (keptTerms 8 (metaRow record i) (16 * kb) (32 * kb),
      ∃ g < 8, bits (metaRow record i) (4 * g + 2) 2 ≤ bits (metaRow record i) (4 * g) 2) :=
  Prod.ext (terms_of_record record i (by omega) (16 * kb) (32 * kb)) (propext (disorder_of_record record i (by omega)))

theorem mem_keptTerms {groups meta_ a b : Nat} {t : Nat × Nat} (mem : t ∈ keptTerms groups meta_ a b) :
    b ≤ t.2 ∧ t.2 < b + 4 * groups := by
  obtain ⟨g, lt, mem⟩ := List.mem_flatMap.1 mem
  have lt := List.mem_range.1 lt
  have small : ∀ lo, bits meta_ lo 2 < 4 := fun lo => Nat.mod_lt _ (by omega)
  split at mem
  · exact absurd mem List.not_mem_nil
  · have low := small (4 * g)
    have high := small (4 * g + 2)
    rcases List.mem_pair.1 mem with rfl | rfl <;> dsimp only <;> omega

/-- The kept elements of a row, out of those that its groups stand over. -/
theorem keptOf_congr {α : Type} {groups meta_ : Nat} {f h : Nat → Nat → Nat → α}
    (same : ∀ g < groups, ∀ n < 2, ∀ i, f g n i = h g n i) : keptOf groups meta_ f = keptOf groups meta_ h := by
  refine List.flatMap_congr fun g mem => ?_
  rw [same g (List.mem_range.1 mem) 0 (by omega), same g (List.mem_range.1 mem) 1 (by omega)]

/-- The kept elements, two for each group, with the places of their partners. -/
theorem sparsePick_terms {groups meta_ first base : Nat} {kept : List (Option Dy)} (elem : Nat → Option Dy)
    (list : kept = (List.range (2 * groups)).map fun k => elem (first + k)) :
    let r := sparsePick groups meta_ kept
    let ts := keptTerms groups meta_ first base
    r.1 = ts.map (fun t => elem t.1) ∧ r.2.1 = ts.map (fun t => t.2 - base) ∧
    (r.2.2 = true ↔ ∃ g < groups, bits meta_ (4 * g + 2) 2 ≤ bits meta_ (4 * g) 2) := by
  obtain ⟨values, places, disorder⟩ := sparsePick_eq groups meta_ kept
  refine ⟨values.trans ?_, places.trans ?_, disorder⟩
  · rw [keptTerms, map_keptOf]
    refine keptOf_congr fun g lt n pair _ => ?_
    rw [list, map_range_getD _ _ (by omega), Nat.add_assoc]
  · rw [keptTerms, map_keptOf]
    refine keptOf_congr fun g _ n _ i => ?_
    dsimp only
    rw [Nat.add_assoc, Nat.add_sub_cancel_left]

/-- The tile forms of `mmas` have rows of at least 64 elements (R160). -/
theorem tile_within {ef : EF} (form : ef = .i8 ∨ ef = .bf16 ∨ ef = .f16) : 64 ≤ 1024 / (efLt ef).width := by
  rcases form with rfl | rfl | rfl <;> simp [efLt, LT.width]

/-- What a product takes of a row of A: its terms, with their places in what it takes of B. -/
theorem prodA_eq {kind : ProdKind} (wf : Spec.kindWf kind) (i : Nat) (a : BitVec 1024 × BitVec 128) :
    let x := prodA kind i a.1 a.2
    x.1 = (Spec.terms kind i).1.map (fun t => elemA kind a t.1) ∧
    x.2.1 = (Spec.terms kind i).1.map (fun t => t.2 - prodBase kind) ∧ (x.2.2 = true ↔ (Spec.terms kind i).2) := by
  cases kind with
  | mma ef acc row0 nrow =>
    refine ⟨?_, ?_, by simp [prodA, Spec.terms]⟩
    · simp only [prodA, rowElems, rowCodes_eq_map, Spec.terms, List.map_map]
      rfl
    · simp only [prodA, rowElems, rowCodes_eq_map, Spec.terms, List.map_map, List.length_map, List.length_range]
      exact (List.map_id _).symm
  | mmab ef pp kb =>
    obtain ⟨-, lt⟩ := wf
    refine ⟨?_, ?_, by simp [prodA, Spec.terms]⟩
    · simp only [prodA, blockElems, rowCodes_eq_map, take_drop_map_range _ (block_within lt), Spec.terms, List.map_map]
      rfl
    · simp only [prodA, Spec.terms, List.map_map]
      exact (List.map_id _).symm.trans (List.map_congr_left fun k _ => (Nat.add_sub_cancel_left ..).symm)
  | mmas ef dst record =>
    cases dst with
    | tile acc row0 nrow =>
      have list : (rowElems ef a.1).take 64 = (List.range (2 * 32)).map fun k =>
          elemA (.mmas ef (.tile acc row0 nrow) record) a (0 + k) := by
        rw [rowElems, rowCodes_eq_map, List.map_map, take_map_range _ (tile_within wf)]
        simp only [Nat.zero_add]
        rfl
      rw [terms_tile]
      exact sparsePick_terms _ list
    | plane pp kb =>
      obtain ⟨-, lt⟩ := wf
      have within := block_within lt
      have list : (((rowCodes ef a.1).drop (16 * kb) |>.take 16).map (elemDec ef (sideByte a.2 (8 + kb)))) =
          (List.range (2 * 8)).map fun k => elemA (.mmas ef (.plane pp kb) record) a (16 * kb + k) := by
        rw [rowCodes_eq_map, take_drop_map_range _ (by omega), List.map_map]
        rfl
      rw [terms_plane]
      exact sparsePick_terms _ list

theorem rowElems_getD (ef : EF) (row : BitVec 1024) {k : Nat} (lt : k < 1024 / (efLt ef).width) (d : Option Dy) :
    (rowElems ef row).getD k d = elemDec ef 0 (elemCode ef row k) := by
  rw [rowElems, rowCodes_eq_map, List.map_map, map_range_getD _ _ lt]
  rfl

theorem rowElems_length (ef : EF) (row : BitVec 1024) : (rowElems ef row).length = 1024 / (efLt ef).width := by
  rw [rowElems, rowCodes_eq_map, List.length_map, List.length_map, List.length_range]

/-- Two rows of B one after the other (R160). -/
theorem rowElems_append_getD (ef : EF) (x : Nat → BitVec 1024) {k : Nat} (lt : k < 2 * (1024 / (efLt ef).width)) (d : Option Dy) :
    let per := 1024 / (efLt ef).width
    (rowElems ef (x 0) ++ rowElems ef (x 1)).getD k d = elemDec ef 0 (elemCode ef (x (k / per)) (k % per)) := by
  dsimp only
  by_cases first : k < 1024 / (efLt ef).width
  · rw [List.getD_append _ _ _ _ (by rwa [rowElems_length]), rowElems_getD _ _ first, Nat.div_eq_of_lt first, Nat.mod_eq_of_lt first]
  · have quotient : k / (1024 / (efLt ef).width) = 1 := Nat.div_eq_of_lt_le (by omega) (by omega)
    rw [List.getD_append_right _ _ _ _ (by rw [rowElems_length]; omega), rowElems_length, rowElems_getD _ _ (by omega), quotient,
      Nat.mod_eq_sub_mod (by omega), Nat.mod_eq_of_lt (by omega)]

/-- What a product takes of a column of B, at the places of its terms. -/
theorem prodB_getD {p : Prod} (wf : Spec.kindWf p.kind) (i j : Nat) {t : Nat × Nat} (mem : t ∈ (Spec.terms p.kind i).1) :
    (prodB p.kind p.bRows.toArray p.bSide.toArray j).getD (t.2 - prodBase p.kind) (some (0, 0)) = elemB p j t.2 := by
  obtain ⟨kind, oa, ob, start, bRows, bSide, aRows, next⟩ := p
  dsimp only at wf mem ⊢
  have single : ∀ k, k < 1024 / (efLt (prodEf kind)).width → elemB ⟨kind, oa, ob, start, bRows, bSide, aRows, next⟩ j k =
      elemDec (prodEf kind) (prodAlt kind (bSide.getD j 0)) (elemCode (prodEf kind) (bRows.getD j 0) k) := fun k lt => by
    simp only [elemB, Nat.div_eq_of_lt lt, Nat.mod_eq_of_lt lt, Nat.mul_zero, Nat.zero_add]
  have block : ∀ ef kb, prodEf kind = ef → prodBlock kind = some kb → kb < ef.kblocks → 32 * kb ≤ t.2 → t.2 < 32 * kb + 32 →
      (blockElems ef kb (bRows.toArray.getD j 0) (bSide.toArray.getD j 0)).toArray.getD (t.2 - prodBase kind) (some (0, 0)) =
        elemB ⟨kind, oa, ob, start, bRows, bSide, aRows, next⟩ j t.2 := by
    intro ef kb format kbOf lt low high
    subst format
    have within := block_within lt
    rw [single _ (by omega), blockElems, rowCodes_eq_map, take_drop_map_range _ within, List.map_map, toArray_getD, toArray_getD,
      toArray_getD, prodBase, prodAlt, kbOf, Option.getD_some, map_range_getD _ _ (by omega), Function.comp, Nat.add_sub_cancel' low]
    rfl
  cases kind with
  | mma ef acc row0 nrow =>
    obtain ⟨k, lt, rfl⟩ := List.mem_map.1 mem
    have lt := List.mem_range.1 lt
    rw [single _ lt]
    simp only [prodB, toArray_getD]
    exact rowElems_getD ef _ lt _
  | mmab ef pp kb =>
    obtain ⟨k, lt, rfl⟩ := List.mem_map.1 mem
    have lt := List.mem_range.1 lt
    obtain ⟨-, below⟩ := wf
    exact block ef kb rfl rfl below (by dsimp only; omega) (by dsimp only; omega)
  | mmas ef dst record =>
    cases dst with
    | tile acc row0 nrow =>
      rw [terms_tile] at mem
      obtain ⟨-, high⟩ := mem_keptTerms mem
      have wide := tile_within wf
      by_cases byte : ef = .i8
      · subst byte
        rw [single _ (by simpa [prodEf, efLt, LT.width] using high)]
        simp only [prodB, toArray_getD]
        exact rowElems_getD .i8 _ (by simpa [efLt, LT.width, prodBase, prodBlock] using high) _
      · have plain : (ef == .i8) = false := beq_eq_false_iff_ne.2 byte
        simp only [prodB, toArray_getD, plain]
        have rows := rowElems_append_getD ef (fun q => bRows.getD (64 * q + j) 0) (k := t.2) (by omega) (some (0, 0))
        simp only [Nat.mul_zero, Nat.zero_add, Nat.mul_one] at rows
        exact rows
    | plane pp kb =>
      rw [terms_plane] at mem
      obtain ⟨low, high⟩ := mem_keptTerms mem
      obtain ⟨-, below⟩ := wf
      exact block ef kb rfl rfl below low high

/-- One column of a row of a product, and whether a term of it is no number. -/
def prodDot (p : Prod) (i j : Nat) (a : BitVec 1024 × BitVec 128) : Dy × Bool :=
  let x := prodA p.kind i a.1 a.2
  dotAt x.1 x.2.1 (prodB p.kind p.bRows.toArray p.bSide.toArray j) (0, 0) false

theorem dots_eq (p : Prod) (i j : Nat) (a : BitVec 1024 × BitVec 128) :
    let x := fun k => Spec.elem (prodEf p.kind) (prodAlt p.kind a.2) a.1 k
    let y := fun k =>
      let per := 1024 / (efLt (prodEf p.kind)).width
      Spec.elem (prodEf p.kind) (prodAlt p.kind (p.bSide.getD j 0)) (p.bRows.getD (64 * (k / per) + j) 0) (k % per)
    Spec.dots p i j a = (((Spec.terms p.kind i).1.map fun t => (x t.1).getD 0 * (y t.2).getD 0).sum,
      ∃ t ∈ (Spec.terms p.kind i).1, x t.1 = none ∨ y t.2 = none) := by
  obtain ⟨kind, oa, ob, start, bRows, bSide, aRows, next⟩ := p
  have same : ∀ ef, Spec.lanesIn ef = efLt ef := fun ef => by cases ef <;> rfl
  simp only [Spec.dots, same]
  cases kind with
  | mma ef acc row0 nrow => rfl
  | mmab ef pp kb => rfl
  | mmas ef dst record => cases dst <;> rfl

/-- A column of a row is the exact sum of its terms. -/
theorem prodDot_exact {p : Prod} (wf : Spec.kindWf p.kind) (i j : Nat) (a : BitVec 1024 × BitVec 128) :
    Spec.dy (prodDot p i j a).1 = (Spec.dots p i j a).1 ∧ ((prodDot p i j a).2 = true ↔ (Spec.dots p i j a).2) := by
  obtain ⟨values, places, -⟩ := prodA_eq wf i a
  obtain ⟨sum, mark⟩ := dotAt_exact (fun t => elemA p.kind a t.1) (fun t => elemB p j t.2) (fun t => t.2 - prodBase p.kind)
    (prodB p.kind p.bRows.toArray p.bSide.toArray j) (Spec.terms p.kind i).1 (0, 0) false fun t mem => prodB_getD wf i j mem
  have elemA_value : ∀ k, (elemA p.kind a k).map Spec.dy = _ := fun k => map_dy_elemDec _ (prodAlt_lt ..) _ _
  have elemB_value : ∀ k, (elemB p j k).map Spec.dy = _ := fun k => map_dy_elemDec _ (prodAlt_lt ..) _ _
  rw [prodDot, values, places, dots_eq]
  simp only [← elemA_value, ← elemB_value, Option.map_eq_none_iff]
  refine ⟨sum.trans ?_, mark.trans (or_iff_right Bool.false_ne_true)⟩
  rw [dy_zero, zero_add]

/-- Whether a row of a product raises `INVALID` (R157, R161). -/
def rowInvalid (p : Prod) (i : Nat) (a : BitVec 1024 × BitVec 128) : Bool :=
  (prodA p.kind i a.1 a.2).2.2 || (List.range 64).any fun j => (prodDot p i j a).2

/-- A row of a product: its exact sums, and whether it raises `INVALID`. -/
theorem prodRow_eq (p : Prod) (i : Nat) (a : BitVec 1024 × BitVec 128) :
    prodRow p.kind i a ((List.range 64).map (prodB p.kind p.bRows.toArray p.bSide.toArray)) =
      ((List.range 64).map fun j => (prodDot p i j a).1, rowInvalid p i a) := by
  simp only [prodRow, List.map_map, List.any_map]
  rfl

theorem rowInvalid_iff {p : Prod} (wf : Spec.kindWf p.kind) (i : Nat) (a : BitVec 1024 × BitVec 128) :
    rowInvalid p i a = true ↔ (Spec.terms p.kind i).2 ∨ ∃ j < 64, (Spec.dots p i j a).2 := by
  obtain ⟨-, -, disorder⟩ := prodA_eq wf i a
  rw [rowInvalid, Bool.or_eq_true, disorder, List.any_eq_true]
  simp only [List.mem_range, (prodDot_exact wf i _ a).2]

end Sys2Proof.Machine
end

section
/-! Proofs of the family of spec/12: what the rows of a product land (O31). -/

namespace Sys2Proof.Machine

/-! ### Rows of an AF tile (R157, R160) -/

/-- The row of A that a product has read for its row `r`. -/
def rowA (p : Prod) (r : Nat) : BitVec 1024 × BitVec 128 := smGetD p.aRows r (0, 0)

/-- The new values of a tile: each element of the rows `rs` of a product from `row0` up gains its sum. -/
def prodNews (rs : List Nat) (p : Prod) (row0 : Nat) (t : Tile) (i j : Nat) : Option Dy :=
  (rs.find? fun r => row0 + r == i).map fun r =>
    dyAdd (entBM ((tileRow t (row0 + r)).getD j 0), exB (t.ex.getD j 0))
      (((List.range 64).map fun j => (prodDot p (row0 + r) j (rowA p r)).1).getD j (0, 0))

theorem prodNews_of_mem {rs : List Nat} {p : Prod} {row0 r j : Nat} (t : Tile) (mem : r ∈ rs) (lt : j < 64) :
    prodNews rs p row0 t (row0 + r) j = some (dyAdd (entBM ((tileRow t (row0 + r)).getD j 0), exB (t.ex.getD j 0))
      (prodDot p (row0 + r) j (rowA p r)).1) := by
  have found : rs.find? (fun x => row0 + x == row0 + r) = some r := by
    cases first : rs.find? (fun x => row0 + x == row0 + r) with
    | none => exact absurd (List.find?_eq_none.1 first r mem) (by simp)
    | some q =>
      have same := List.find?_some first
      exact congrArg some (by simpa using same)
  rw [prodNews, found, Option.map_some, map_range_getD _ _ lt]

theorem prodNews_of_not_mem {rs : List Nat} {p : Prod} {row0 i : Nat} (t : Tile) (other : ∀ r ∈ rs, i ≠ row0 + r) (j : Nat) :
    prodNews rs p row0 t i j = none := by
  rw [prodNews, List.find?_eq_none.2 fun r mem => by simpa using (other r mem).symm]
  rfl

/-- The new values of a tile out of the sums of its rows, as the model looks them up. -/
def sumNews (sums : List (Nat × List Dy × Bool)) (t : Tile) (i j : Nat) : Option Dy :=
  let ex := t.ex.toArray
  let tab := sums.map fun x => (x.1, (x.2.1.toArray, (tileRow t x.1).toArray))
  (tab.find? fun x => x.1 == i).map fun x => dyAdd (entBM (x.2.2.getD j 0), exB (ex.getD j 0)) (x.2.1.getD j (0, 0))

theorem sumNews_eq (rs : List Nat) (p : Prod) (row0 : Nat) (t : Tile) :
    sumNews (rs.map fun r =>
      (row0 + r, (List.range 64).map fun j => (prodDot p (row0 + r) j (rowA p r)).1, rowInvalid p (row0 + r) (rowA p r))) t =
      prodNews rs p row0 t := by
  funext i j
  simp only [sumNews, prodNews, List.map_map, List.find?_map, Option.map_map, Function.comp_def, toArray_getD]

theorem landProd_tile {p : Prod} {acc : Fin 4} {row0 : Nat} (rs : List Nat) (d : MxData) (tile : prodTile p.kind = some (acc, row0))
    (af : prodF64 p.kind = false) :
    let r := tileWrite false (prodNews rs p row0 (tileOf d acc)) (tileOf d acc)
    landProd rs p d = (setTile d acc { r.1 with used := true },
      r.2 ||| fIf (rs.any fun r => rowInvalid p (row0 + r) (rowA p r)) fINVALID) := by
  have general : landProd rs p d =
      let bs := (List.range 64).map (prodB p.kind p.bRows.toArray p.bSide.toArray)
      let sums := rs.map fun r => (row0 + r, prodRow p.kind (row0 + r) (rowA p r) bs)
      let y := tileWrite false (sumNews sums (tileOf d acc)) (tileOf d acc)
      (setTile d acc { y.1 with used := true }, y.2 ||| fIf (sums.any fun x => x.2.2) fINVALID) := by
    obtain ⟨kind, oa, ob, start, bRows, bSide, aRows, next⟩ := p
    cases kind with
    | mma ef acc' row0' nrow =>
      cases tile
      cases ef with
      | f64 => cases af
      | _ => rfl
    | mmab ef pp kb => cases tile
    | mmas ef dst record =>
      cases dst with
      | tile acc' row0' nrow => cases tile; rfl
      | plane pp kb => cases tile
  dsimp only at general
  rw [general]
  simp only [prodRow_eq, sumNews_eq, List.any_map]
  rfl

/-! ### Rows of an F64 tile (R112, R157) -/

/-- An entry of a row of `mma.f64` with its flags: the products of the row of A with the column enter in order, each with one rounding. -/
def f64Entry (a b : BitVec 1024) (old : BitVec 96) : Nat × Flags :=
  let code := fun (row : BitVec 1024) (k : Nat) => decodeF .f64 (bits row.toNat (64 * k) 64)
  (List.range 16).foldl (fun (x : Nat × Flags) k =>
    let y := fmaF .f64 .ne (code a k) (code b k) (decodeF .f64 x.1)
    (y.1, x.2 ||| y.2)) (old.toNat % 2 ^ 64, 0)

theorem zipWith_eq_map_range {α β γ : Type} (f : α → β → γ) {l : List α} {m : List β} {n : Nat} (a : α) (b : β) (len : l.length = n)
    (le : n ≤ m.length) : List.zipWith f l m = (List.range n).map fun j => f (l.getD j a) (m.getD j b) := by
  apply List.ext_getElem
  · rw [List.length_zipWith, List.length_map, List.length_range]
    omega
  · intro j inList inRange
    have lt : j < n := by simpa using inRange
    rw [List.getElem_zipWith, List.getElem_map, List.getElem_range, List.getD_eq_getElem _ _ (by omega),
      List.getD_eq_getElem _ _ (by omega)]

theorem f64Row_eq {bs : List (BitVec 1024)} {old : List (BitVec 96)} (a : BitVec 1024) (rows : 64 ≤ bs.length) (len : old.length = 64) :
    let e := fun j => f64Entry a (bs.getD j 0) (old.getD j 0)
    f64Row a bs old = ((List.range 64).map fun j => BitVec.ofNat 96 (e j).1, Spec.flagsOf 64 fun j => (e j).2) := by
  have codes : ∀ x : BitVec 1024, rowCodes .f64 x = (List.range 16).map fun k => bits x.toNat (64 * k) 64 := rowCodes_eq_map .f64
  simp only [f64Row, codes, List.zip, List.zipWith_map, List.zipWith_self, List.foldl_map, zipWith_eq_map_range _ 0 0 len rows,
    List.map_map]
  exact Prod.ext rfl ((foldl_or_eq _ _ _).trans BitVec.zero_or)

/-- Rows written one after the other, each once. -/
theorem foldl_setRow_list (row0 : Nat) (f : Nat → List (BitVec 96)) (rs : List Nat) (t : Tile) :
    let u := rs.foldl (fun u r => setRow u (row0 + r) (f r)) t
    (∀ r ∈ rs, tileRow u (row0 + r) = f r) ∧ (∀ i, (∀ r ∈ rs, i ≠ row0 + r) → tileRow u i = tileRow t i) ∧
    (rs ≠ [] → u = { t with rows := u.rows, used := true }) := by
  induction rs generalizing t with
  | nil => simp
  | cons q rs ih =>
    obtain ⟨written, kept, fields⟩ := ih (setRow t (row0 + q) (f q))
    rw [List.foldl_cons]
    refine ⟨fun r mem => ?_, fun i other => ?_, fun _ => ?_⟩
    · by_cases again : r ∈ rs
      · exact written r again
      · obtain rfl : r = q := (List.mem_cons.1 mem).resolve_right again
        rw [kept _ fun x mem same => again (by rwa [Nat.add_left_cancel same]), tileRow_setRow_same]
    · obtain ⟨first, others⟩ := List.forall_mem_cons.1 other
      rw [kept i others, tileRow_setRow_ne _ _ first]
    · cases rs with
      | nil => rfl
      | cons x rs => exact (fields (List.cons_ne_nil x rs)).trans rfl

/-- The row of an F64 tile that a row of a product makes of an old one, with its flags. -/
def f64Landing (p : Prod) (row0 : Nat) (t : Tile) (r : Nat) : List (BitVec 96) × Flags :=
  f64Row (rowA p r).1 p.bRows (tileRow t (row0 + r))

/-- Rows that land one after the other in an F64 tile, each once: each comes of the tile as it stood before. -/
theorem foldl_f64Landing (p : Prod) (row0 : Nat) (t : Tile) {rs : List Nat} (nodup : rs.Nodup) (u : Tile) (f : Flags)
    (same : ∀ r ∈ rs, tileRow u (row0 + r) = tileRow t (row0 + r)) :
    rs.foldl (fun x r => (setRow x.1 (row0 + r) (f64Landing p row0 x.1 r).1, x.2 ||| (f64Landing p row0 x.1 r).2)) (u, f) =
      (rs.foldl (fun u r => setRow u (row0 + r) (f64Landing p row0 t r).1) u,
        rs.foldl (fun f r => f ||| (f64Landing p row0 t r).2) f) := by
  induction rs generalizing u f with
  | nil => rfl
  | cons q rs ih =>
    obtain ⟨first, others⟩ := List.forall_mem_cons.1 same
    obtain ⟨once, nodup⟩ := List.nodup_cons.1 nodup
    have landing : f64Landing p row0 u q = f64Landing p row0 t q := by rw [f64Landing, first, f64Landing]
    rw [List.foldl_cons, List.foldl_cons, List.foldl_cons, landing]
    refine ih nodup _ _ fun r mem => ?_
    rw [tileRow_setRow_ne _ _ fun again => once (by rwa [← Nat.add_left_cancel again]), others r mem]

@[simp] theorem tileOf_setTile {d : MxData} (four : d.tiles.length = 4) (acc : Fin 4) (t : Tile) : tileOf (setTile d acc t) acc = t := by
  rw [tileOf, setTile, List.getD_eq_getElem _ _ (by simp [four]), List.getElem_set_self]

@[simp] theorem setTile_setTile (d : MxData) (acc : Fin 4) (t u : Tile) : setTile (setTile d acc t) acc u = setTile d acc u := by
  rw [setTile, setTile, List.set_set, setTile]

theorem setTile_tileOf {d : MxData} (four : d.tiles.length = 4) (acc : Fin 4) : setTile d acc (tileOf d acc) = d := by
  rw [setTile, tileOf, List.getD_eq_getElem _ _ (by rw [four]; exact acc.isLt), List.set_getElem_self]

/-- Changes of one tile, one after the other. -/
theorem foldl_setTile {α : Type} {d : MxData} (four : d.tiles.length = 4) (acc : Fin 4) (change : Tile → α → Tile × Flags) (l : List α)
    (t : Tile) (f : Flags) :
    l.foldl (fun x y => (setTile x.1 acc (change (tileOf x.1 acc) y).1, x.2 ||| (change (tileOf x.1 acc) y).2)) (setTile d acc t, f) =
      let r := l.foldl (fun x y => ((change x.1 y).1, x.2 ||| (change x.1 y).2)) (t, f)
      (setTile d acc r.1, r.2) := by
  induction l generalizing t f with
  | nil => rfl
  | cons y l ih =>
    rw [List.foldl_cons, List.foldl_cons, tileOf_setTile four, setTile_setTile]
    exact ih _ _

/-- What lands of `mma.f64`: the rows in their tile, and their flags. -/
theorem landProd_f64 {p : Prod} {acc : Fin 4} {row0 nrow : Nat} {rs : List Nat} {d : MxData} (kind : p.kind = .mma .f64 acc row0 nrow)
    (nodup : rs.Nodup) (four : d.tiles.length = 4) :
    landProd rs p d = (setTile d acc (rs.foldl (fun u r => setRow u (row0 + r) (f64Landing p row0 (tileOf d acc) r).1) (tileOf d acc)),
      rs.foldl (fun f r => f ||| (f64Landing p row0 (tileOf d acc) r).2) 0) := by
  have lands : landProd rs p d = rs.foldl (fun x r =>
      (setTile x.1 acc (setRow (tileOf x.1 acc) (row0 + r) (f64Landing p row0 (tileOf x.1 acc) r).1),
        x.2 ||| (f64Landing p row0 (tileOf x.1 acc) r).2)) (d, 0) := by
    rw [landProd, kind]
    rfl
  have tile := foldl_setTile four acc (fun t r => (setRow t (row0 + r) (f64Landing p row0 t r).1, (f64Landing p row0 t r).2)) rs
    (tileOf d acc) 0
  rw [setTile_tileOf four, foldl_f64Landing p row0 (tileOf d acc) nodup _ _ fun r _ => rfl] at tile
  exact lands.trans tile

/-! ### Rows of a plane (R158, R160) -/

/-- A row of a plane with its flags: each exact sum rounded once. -/
def planeEntry (p : Prod) (r j : Nat) : Nat × Flags :=
  let v := (prodDot p r j (rowA p r)).1
  roundF .f32 .ne false (decide (v.1 < 0)) v.1.natAbs v.2
def planeLanding (p : Prod) (r : Nat) : List (BitVec 32) := (List.range 64).map fun j => BitVec.ofNat 32 (planeEntry p r j).1

theorem planeRow_setPlaneRow (d : MxData) (pp r pp' i : Nat) (row : List (BitVec 32)) :
    planeRow (setPlaneRow d pp r row) pp' i = if 64 * pp' + i = 64 * pp + r then row else planeRow d pp' i := smGetD_smSet ..

/-- Rows of a plane written one after the other. -/
theorem foldl_setPlaneRow {pp : Fin 2} (f : Nat → List (BitVec 32)) {rs : List Nat} (within : ∀ r ∈ rs, r < 64) (d : MxData) :
    let u := rs.foldl (fun u r => setPlaneRow u pp.val r (f r)) d
    (∀ r ∈ rs, planeRow u pp.val r = f r) ∧
    (∀ (q : Fin 2) (i : Nat), i < 64 → (q ≠ pp ∨ i ∉ rs) → planeRow u q.val i = planeRow d q.val i) ∧
    u = { d with planes := u.planes } := by
  induction rs generalizing d with
  | nil => simp
  | cons x rs ih =>
    obtain ⟨lt, within⟩ := List.forall_mem_cons.1 within
    obtain ⟨written, kept, fields⟩ := ih within (setPlaneRow d pp.val x (f x))
    rw [List.foldl_cons]
    refine ⟨fun r mem => ?_, fun q i below other => ?_, fields⟩
    · by_cases again : r ∈ rs
      · exact written r again
      · obtain rfl : r = x := (List.mem_cons.1 mem).resolve_right again
        rw [kept pp r lt (.inr again), planeRow_setPlaneRow, if_pos rfl]
    · rw [kept q i below (other.imp_right fun out mem => out (List.mem_cons_of_mem _ mem)), planeRow_setPlaneRow, if_neg fun same => ?_]
      have plane : q.val = pp.val := by omega
      have row : i = x := by omega
      exact other.elim (fun ne => ne (Fin.ext plane)) fun out => out (row ▸ List.mem_cons_self)

theorem fIf_or (a b : Bool) (m : Flags) : fIf (a || b) m = fIf a m ||| fIf b m := by
  cases a <;> cases b <;> simp [fIf]

/-- Flags gathered over rows, with one more for those that have a mark. -/
theorem foldl_flags_mark {α : Type} (mark : α → Bool) (m : Flags) (F : α → Flags) (l : List α) (f : Flags) :
    l.foldl (fun f x => f ||| fIf (mark x) m ||| F x) f = l.foldl (fun f x => f ||| F x) f ||| fIf (l.any mark) m := by
  induction l generalizing f with
  | nil => simp [fIf]
  | cons x l ih =>
    rw [List.foldl_cons, List.foldl_cons, ih, List.any_cons, fIf_or, foldl_or_eq, foldl_or_eq]
    ac_rfl

theorem landProd_plane {p : Prod} {pp : Fin 2} (rs : List Nat) (d : MxData) (plane : prodPlane p.kind = some pp) :
    landProd rs p d = (rs.foldl (fun u r => setPlaneRow u pp.val r (planeLanding p r)) d,
      rs.foldl (fun f r => f ||| Spec.flagsOf 64 fun j => (planeEntry p r j).2) 0 |||
        fIf (rs.any fun r => rowInvalid p r (rowA p r)) fINVALID) := by
  have general : landProd rs p d =
      rs.foldl (fun x r =>
        let y := prodRow p.kind r (rowA p r) ((List.range 64).map (prodB p.kind p.bRows.toArray p.bSide.toArray))
        let out := y.1.map fun v => roundF .f32 .ne false (decide (v.1 < 0)) v.1.natAbs v.2
        (setPlaneRow x.1 pp.val r (out.map fun q => BitVec.ofNat 32 q.1),
          out.foldl (fun f q => f ||| q.2) (x.2 ||| fIf y.2 fINVALID))) (d, 0) := by
    obtain ⟨kind, oa, ob, start, bRows, bSide, aRows, next⟩ := p
    cases kind with
    | mma ef acc row0 nrow => cases plane
    | mmab ef pp kb => cases plane; rfl
    | mmas ef dst record =>
      cases dst with
      | tile acc row0 nrow => cases plane
      | plane pp kb => cases plane; rfl
  rw [general, ← foldl_flags_mark]
  simp only [prodRow_eq, List.map_map, foldl_or_map_range_from Prod.snd]
  exact List.foldl_hom₂ rs (·, ·) _ _ _ d 0 fun _ _ _ => rfl

end Sys2Proof.Machine
end

section
/-! Proofs of the family of spec/12: what the units of the matrix engine land (O31). -/

namespace Sys2Proof.Machine

/-! ### A beat of `scacc` (R159) -/

/-- Whether the scale of a row of A or of a column of B is 0xFF. -/
def scaleBad (kb : Nat) (f : Fold) (i j : Nat) : Bool :=
  sideByte (smGetD f.rows i ([], 0)).2 kb == 0xFF || sideByte (f.bSide.getD j 0) kb == 0xFF

/-- The rows of a beat. -/
def inBeat (b i : Nat) : Bool := decide (16 * b ≤ i) && decide (i < 16 * b + 16)

/-- The new values of a tile in beat `b`: each scaled entry of the plane is added to its element. -/
def scaccNews (b kb : Nat) (f : Fold) (t : Tile) (i j : Nat) : Option Dy :=
  if (inBeat b i && !scaleBad kb f i j) = true then
    (dyOf (decodeF .f32 ((smGetD f.rows i ([], 0)).1.getD j 0).toNat)).map fun v =>
      dyAdd (entBM ((tileRow t i).getD j 0), exB (t.ex.getD j 0))
        (v.1, v.2 + sideByte (smGetD f.rows i ([], 0)).2 kb + sideByte (f.bSide.getD j 0) kb - 254)
  else none

/-- Whether a scale of beat `b` is 0xFF. -/
def beatInvalid (b kb : Nat) (f : Fold) : Bool :=
  (List.range 64).any fun i => inBeat b i && (List.range 64).any fun j => scaleBad kb f i j

theorem inBeat_iff {b i : Nat} : inBeat b i = true ↔ 16 * b ≤ i ∧ i < 16 * b + 16 := by
  rw [inBeat, Bool.and_eq_true, decide_eq_true_eq, decide_eq_true_eq]

/-- A row of the plane with its scale, and the row of the tile that takes it. -/
def foldRow (kb : Nat) (f : Fold) (t : Tile) (i : Nat) : Array (BitVec 32) × Nat × Array (BitVec 96) :=
  ((smGetD f.rows i ([], 0)).1.toArray, sideByte (smGetD f.rows i ([], 0)).2 kb, (tileRow t i).toArray)

/-- An element of such a row that gains its entry of the plane, scaled by both sides. -/
def scaledEntry (ex : Int) (scale j : Nat) (x : Array (BitVec 32) × Nat × Array (BitVec 96)) : Option Dy :=
  match dyOf (decodeF .f32 (x.1.getD j 0).toNat) with
  | some v => some (dyAdd (entBM (x.2.2.getD j 0), ex) (v.1, v.2 + x.2.1 + scale - 254))
  | none => none

theorem scaledEntry_foldRow (kb : Nat) (f : Fold) (t : Tile) (i j : Nat) :
    scaledEntry (exB (t.ex.toArray.getD j 0)) (sideByte (f.bSide.toArray.getD j 0) kb) j (foldRow kb f t i) =
      (dyOf (decodeF .f32 ((smGetD f.rows i ([], 0)).1.getD j 0).toNat)).map fun v =>
        dyAdd (entBM ((tileRow t i).getD j 0), exB (t.ex.getD j 0))
          (v.1, v.2 + sideByte (smGetD f.rows i ([], 0)).2 kb + sideByte (f.bSide.getD j 0) kb - 254) := by
  rw [scaledEntry, foldRow]
  simp only [toArray_getD]
  cases dyOf (decodeF .f32 ((smGetD f.rows i ([], 0)).1.getD j 0).toNat) <;> rfl

theorem landScacc_eq {b : Nat} (beat : b < 4) (kb : Nat) (f : Fold) (t : Tile) :
    let r := tileWrite false (scaccNews b kb f t) t
    landScacc b kb f t = ({ r.1 with used := true }, r.2 ||| fIf (beatInvalid b kb f) fINVALID) := by
  let rows := ((List.range 64).map (foldRow kb f t)).toArray
  have row : ∀ i, inBeat b i = true → rows.getD i (#[], 0, #[]) = foldRow kb f t i := fun i mine => by
    have := (inBeat_iff.1 mine).2
    rw [toArray_getD, map_range_getD _ _ (by omega)]
  have bad : ∀ i, inBeat b i = true → ∀ j,
      ((rows.getD i (#[], 0, #[])).2.1 == 0xFF || sideByte (f.bSide.toArray.getD j 0) kb == 0xFF) = scaleBad kb f i j :=
    fun i mine j => by
      rw [row i mine, toArray_getD]
      rfl
  have invalid : ((List.range 64).any fun i => inBeat b i && (List.range 64).any fun j =>
      ((rows.getD i (#[], 0, #[])).2.1 == 0xFF || sideByte (f.bSide.toArray.getD j 0) kb == 0xFF)) = beatInvalid b kb f := by
    refine congrArg (List.any _) (funext fun i => ?_)
    cases mine : inBeat b i with
    | false => rfl
    | true => simp only [bad i mine]
  rw [landScacc]
  dsimp only
  rw [tileWrite_congr (news' := scaccNews b kb f t) t fun i _ j _ => ?news]
  · exact congrArg (fun x => (_, _ ||| fIf x fINVALID)) invalid
  case news =>
    rw [scaccNews]
    cases mine : inBeat b i with
    | false => exact if_neg (by rw [← inBeat, mine]; exact Bool.false_ne_true)
    | true =>
      refine if_congr (by rw [← inBeat, mine, ← bad i mine]; rfl) ?_ rfl
      exact (congrArg (scaledEntry (exB (t.ex.toArray.getD j 0)) (sideByte (f.bSide.toArray.getD j 0) kb) j) (row i mine)).trans
        (scaledEntry_foldRow kb f t i j)

theorem beatInvalid_iff {b : Nat} (beat : b < 4) (kb : Nat) (f : Fold) : beatInvalid b kb f = true ↔
    ∃ i, 16 * b ≤ i ∧ i < 16 * b + 16 ∧ ∃ j < 64, scaleBad kb f i j = true := by
  simp only [beatInvalid, List.any_eq_true, List.mem_range, Bool.and_eq_true, inBeat_iff]
  exact ⟨fun ⟨i, _, ⟨low, high⟩, bad⟩ => ⟨i, low, high, bad⟩, fun ⟨i, low, high, bad⟩ => ⟨i, by omega, ⟨low, high⟩, bad⟩⟩

theorem scaleBad_iff {kb : Nat} {f : Fold} {i j : Nat} : scaleBad kb f i j = true ↔
    sideByte (smGetD f.rows i ([], 0)).2 kb = 0xFF ∨ sideByte (f.bSide.getD j 0) kb = 0xFF := by
  rw [scaleBad, Bool.or_eq_true, beq_iff_eq, beq_iff_eq]

section

variable {b kb : Nat} {f : Fold} {i j : Nat} (t : Tile)

/-- An element of the beat whose scales are numbers gains its scaled entry of the plane, exactly. -/
theorem scaccNews_some (mine : 16 * b ≤ i ∧ i < 16 * b + 16) (good : scaleBad kb f i j = false) {v : ℚ}
    (value : Spec.rat (decodeF .f32 ((smGetD f.rows i ([], 0)).1.getD j 0).toNat) = some v) :
    ∃ n, scaccNews b kb f t i j = some n ∧ Spec.dy n = Spec.dy (entBM ((tileRow t i).getD j 0), exB (t.ex.getD j 0)) +
      v * 2 ^ ((sideByte (smGetD f.rows i ([], 0)).2 kb + sideByte (f.bSide.getD j 0) kb : Int) - 254) := by
  rw [← map_dy_dyOf] at value
  obtain ⟨w, decoded, rfl⟩ := Option.map_eq_some_iff.1 value
  refine ⟨_, (if_pos (by rw [inBeat_iff.2 mine, good]; rfl)).trans (by rw [decoded]; rfl), ?_⟩
  rw [dy_dyAdd, Spec.dy, Spec.dy, Spec.dy, mul_assoc, ← zpow_add₀ two_ne_zero, add_assoc w.2, add_sub_assoc]

theorem scaccNews_none (not : ¬(16 * b ≤ i ∧ i < 16 * b + 16) ∨ scaleBad kb f i j = true ∨
    Spec.rat (decodeF .f32 ((smGetD f.rows i ([], 0)).1.getD j 0).toNat) = none) : scaccNews b kb f t i j = none := by
  rcases not with out | bad | none
  · exact if_neg fun both => out (inBeat_iff.1 (Bool.and_eq_true_iff.1 both).1)
  · exact if_neg (by simp [bad])
  · rw [← map_dy_dyOf, Option.map_eq_none_iff] at none
    rw [scaccNews, none]
    exact ite_self _

end

/-! ### How a landing lands (R171, R307) -/

section

variable {core : Nat} {s : State}

/-- A landing of a row: the engine, its flags, and what both were before. -/
theorem onMxRow_eq (f : Core → Mx × Flags) {k : Core} {m : Mx} {fl : Flags} (at_ : getCore s core = k)
    (lands : f { k with mxWas := some (k.mxWas.getD (k.mx, k.ctx.flags)) } = (m, fl)) :
    onMxRow core f s = setCore s core { k with
      mx := m, mxWas := some (k.mxWas.getD (k.mx, k.ctx.flags)), ctx := { k.ctx with flags := k.ctx.flags ||| fl } } := by
  rw [onMxRow, onMx]
  dsimp only
  rw [getCore_setCore, setCore_setCore, at_, lands]
  rfl

/-- A landing after which a unit that left its engine has nothing due. -/
theorem onMxRow_unitsFailed {m : Mx} {f : Core → Mx × Flags} (idle : ∀ k : Core, k.mx = m → f k = (m, 0)) :
    onMxRow core f (unitsFailed core true m s) = setCore s core { getCore s core with
      mx := m, mxWas := some ((getCore s core).mxWas.getD (m, (getCore s core).ctx.flags))
      faults := (getCore s core).faults ++ [⟨3, s.nextReq, { cause := .dataerr, reason := 13 }, true⟩] } := by
  rw [unitsFailed, onMxRow_eq f (getCore_setCore ..) (idle _ rfl), setCore_setCore, show (0 : Flags) = 0#10 from rfl, BitVec.or_zero]

end

/-! ### Rows of a product that are due -/

theorem prodDue_eq (t : Nat) (p : Prod) : prodDue t p =
    (List.range (prodRows p.kind)).filter fun r => decide (p.next ≤ r ∧ p.start + 3 + prodLast p.kind r ≤ t) :=
  List.filter_congr fun _ _ => (Bool.decide_and ..).symm

theorem prodF64_eq_false_iff {kind : ProdKind} : prodF64 kind = false ↔ ∀ acc r n, kind ≠ .mma .f64 acc r n := by
  cases kind with
  | mma ef acc row0 nrow => cases ef <;> simp [prodF64]
  | mmab ef pp kb => simp [prodF64]
  | mmas ef dst record => simp [prodF64]

/-- What a landing in a tile merges with: the exponents, unless it is of `mma.f64`, and the rows that are due (R307, log 56). -/
theorem prodMergesBad_iff {k : Core} {t : Nat} {p : Prod} (due : prodDue t p ≠ []) : prodMergesBad k t p = true ↔
    ∃ x, prodTile p.kind = some x ∧ (((∀ acc r n, p.kind ≠ .mma .f64 acc r n) ∧ Spec.rottenEx k x.1.val) ∨
      ∃ r ∈ prodDue t p, Spec.rottenRow k x.1.val (x.2 + r)) := by
  rw [prodMergesBad, ← prodF64_eq_false_iff]
  cases tile : prodTile p.kind with
  | none => simp
  | some x =>
    have some : (prodDue t p).isEmpty = false := by simpa using due
    simp only [some, Bool.not_false, Bool.true_and, Bool.or_eq_true, Bool.and_eq_true, Bool.not_eq_true', List.any_eq_true, exBad, rowBad,
      sramBad_iff, Option.some.injEq, exists_eq_left', mul_one]
    rfl

theorem badWords_of_prodMergesBad {k : Core} {t : Nat} {p : Prod} (due : prodDue t p ≠ []) (bad : prodMergesBad k t p = true) :
    k.badWords ≠ [] := by
  obtain ⟨x, -, ⟨-, rotten⟩ | ⟨r, -, rotten⟩⟩ := (prodMergesBad_iff due).1 bad
  · exact badWords_of_rotten rotten
  · exact badWords_of_rotten rotten

theorem prodCovers_eq (t : Nat) (k : Core) (p : Prod) : prodCovers t k p =
    match prodPlane p.kind with
    | none => k
    | some pp => (prodDue t p).foldl (fun k r => Spec.covers .plane (16384 * pp.val + 256 * r) 256 k) k := by
  simp only [prodCovers, sramGood_eq_covers] <;> rfl

/-- Words that become good change nothing else of a core. -/
theorem foldl_covers {α : Type} (m : Sram) (lo : α → Nat) (n : Nat) (l : List α) (k : Core) :
    ∃ words, l.foldl (fun k x => Spec.covers m (lo x) n k) k = { k with badWords := words } := by
  induction l generalizing k with
  | nil => exact ⟨_, rfl⟩
  | cons x l ih => exact ih (Spec.covers m (lo x) n k)

theorem prodCovers_frame (t : Nat) (k : Core) (p : Prod) : ∃ words, prodCovers t k p = { k with badWords := words } := by
  rw [prodCovers_eq]
  split
  · exact ⟨_, rfl⟩
  · exact foldl_covers ..

/-! ### The landings of the units -/

/-- The core after landings of the cycle: the engine `m`, its flags, and what both were before (R171). -/
def landed (k : Core) (m : Mx) (f : Flags) : Core :=
  { k with mx := m, mxWas := some (k.mxWas.getD (k.mx, k.ctx.flags)), ctx := { k.ctx with flags := k.ctx.flags ||| f } }

/-- The core after its landing unit has left the engine as `m`. -/
def landingFailed (core : Nat) (m : Mx) (s : State) : State :=
  let k := getCore s core
  setCore s core { k with
    mx := m, mxWas := some (k.mxWas.getD (m, k.ctx.flags))
    faults := k.faults ++ [⟨3, s.nextReq, { cause := .dataerr, reason := 13 }, true⟩] }

section

variable {core : Nat} {s : State}

theorem exec_productRowLanding_of_bad {p : Prod} (only : (getCore s core).mx.prods = [p])
    (due : prodDue (getCore s core).ctx.bc p ≠ []) (bad : prodMergesBad (getCore s core) (getCore s core).ctx.bc p = true) :
    exec (.productRowLanding core) s = .next (landingFailed core { (getCore s core).mx with prods := [] } s) := by
  have leaves : failUnits core true (fun k m => { m with prods := m.prods.filter fun p => !prodMergesBad k k.ctx.bc p }) s =
      unitsFailed core true { (getCore s core).mx with prods := [] } s :=
    failUnits_of_leave (badWords_of_prodMergesBad due bad) (by rw [only, filter_bad bad])
      fun same => List.cons_ne_nil p [] (only ▸ (congrArg Mx.prods same).symm)
  have covers : setCore (unitsFailed core true { (getCore s core).mx with prods := [] } s) core
      (getCore (unitsFailed core true { (getCore s core).mx with prods := [] } s) core) =
      unitsFailed core true { (getCore s core).mx with prods := [] } s := by
    rw [unitsFailed, getCore_setCore, setCore_setCore]
  have none : (getCore (unitsFailed core true { (getCore s core).mx with prods := [] } s) core).mx.prods = [] := by
    rw [unitsFailed, getCore_setCore]
  show execProductRowLanding core s = _
  rw [execProductRowLanding, leaves]
  dsimp only
  rw [none, List.foldl_nil, covers, onMxRow_unitsFailed fun k mx => by rw [mx]; rfl]
  rfl

theorem exec_productRowLanding_of_good {p : Prod} (only : (getCore s core).mx.prods = [p])
    (due : prodDue (getCore s core).ctx.bc p ≠ []) (good : ¬prodMergesBad (getCore s core) (getCore s core).ctx.bc p = true) :
    let k := getCore s core
    let r := landProd (prodDue k.ctx.bc p) p (Spec.made k)
    exec (.productRowLanding core) s = .next (setCore s core (landed (prodCovers k.ctx.bc k p)
      { k.mx with next := some r.1, prods := [{ p with next := p.next + (prodDue k.ctx.bc p).length }] } r.2)) := by
  intro k r
  obtain ⟨words, covered⟩ := prodCovers_frame k.ctx.bc k p
  have stay : failUnits core true (fun k m => { m with prods := m.prods.filter fun p => !prodMergesBad k k.ctx.bc p }) s = s :=
    failUnits_of_same (by rw [filter_good (by rw [only]; exact List.forall_mem_singleton.2 good)])
  have some : (prodDue k.ctx.bc p).isEmpty = false := by simpa using due
  show execProductRowLanding core s = _
  rw [execProductRowLanding, stay]
  dsimp only
  rw [only, List.foldl_cons, List.foldl_nil, covered, onMxRow_eq (k := { k with badWords := words }) _ (getCore_setCore ..),
    setCore_setCore]
  · rfl
  · show k.mx.prods.foldl _ (k.mx, 0) = _
    rw [only, List.foldl_cons, List.foldl_nil]
    dsimp only
    rw [if_neg (by rw [some]; exact Bool.false_ne_true), only, List.map_singleton, if_pos rfl,
      show (0 : Flags) = 0#10 from rfl, BitVec.zero_or]
    rfl

theorem badWords_of_rottenTile {k : Core} {acc : Nat} (bad : Spec.rottenTile k acc) : k.badWords ≠ [] := by
  obtain ⟨row, -, rotten⟩ | rotten | rotten := bad
  · exact badWords_of_rotten rotten
  · exact badWords_of_rotten rotten
  · exact badWords_of_rotten rotten

theorem foldMergesBad_iff {k : Core} {t : Nat} {f : Fold} (due : (landFold t f k.mx.now).isSome = true) :
    foldMergesBad k t f = true ↔ Spec.rottenTile k (foldTile f.kind).val := by
  rw [foldMergesBad, due, Bool.true_and, tileBad_iff]

theorem exec_foldRowLanding_of_bad {f : Fold} (only : (getCore s core).mx.folds = [f])
    (due : (landFold (getCore s core).ctx.bc f (getCore s core).mx.now).isSome = true)
    (bad : Spec.rottenTile (getCore s core) (foldTile f.kind).val) :
    exec (.foldRowLanding core) s = .next (landingFailed core { (getCore s core).mx with folds := [] } s) := by
  have leaves : failUnits core true (fun k m => { m with folds := m.folds.filter fun f => !foldMergesBad k k.ctx.bc f }) s =
      unitsFailed core true { (getCore s core).mx with folds := [] } s :=
    failUnits_of_leave (badWords_of_rottenTile bad) (by rw [only, filter_bad ((foldMergesBad_iff due).2 bad)])
      fun same => List.cons_ne_nil f [] (only ▸ (congrArg Mx.folds same).symm)
  show execFoldRowLanding core s = _
  rw [execFoldRowLanding, leaves]
  dsimp only
  rw [onMxRow_unitsFailed fun k mx => by rw [mx]; rfl]
  rfl

theorem exec_foldRowLanding_of_good {f : Fold} {r : Nat × MxData × Flags} (only : (getCore s core).mx.folds = [f])
    (lands : landFold (getCore s core).ctx.bc f (Spec.made (getCore s core)) = some r)
    (good : ¬foldMergesBad (getCore s core) (getCore s core).ctx.bc f = true) :
    let k := getCore s core
    exec (.foldRowLanding core) s = .next (setCore s core (landed k
      { k.mx with next := some r.2.1, folds := [{ f with next := r.1 }] } r.2.2)) := by
  intro k
  have stay : failUnits core true (fun k m => { m with folds := m.folds.filter fun f => !foldMergesBad k k.ctx.bc f }) s = s :=
    failUnits_of_same (by rw [filter_good (by rw [only]; exact List.forall_mem_singleton.2 good)])
  have lands : landFold k.ctx.bc f (k.mx.next.getD k.mx.now) = some r := lands
  show execFoldRowLanding core s = _
  rw [execFoldRowLanding, stay]
  dsimp only
  rw [onMxRow_eq (k := k) _ rfl]
  · rfl
  · dsimp only
    rw [only, List.foldl_cons, List.foldl_nil]
    dsimp only
    rw [lands]
    dsimp only
    rw [only, List.map_singleton, if_pos rfl, show (0 : Flags) = 0#10 from rfl, BitVec.zero_or]

theorem exec_scanLanding_of_due {x : Scan} {i : List (List (BitVec 96)) × List (BitVec 96) × List (BitVec 32)}
    (only : (getCore s core).mx.scans = [x]) (input : x.input = some i) (waits : x.landed = false)
    (due : x.start + 7 ≤ (getCore s core).ctx.bc) :
    let k := getCore s core
    let r := tileScan x.comp x.n i.1 i.2.1 i.2.2 (tileOf (Spec.made k) x.acc)
    exec (.scanLanding core) s = .next (setCore s core (landed k
      { k.mx with next := some (setTile (Spec.made k) x.acc { r.1 with used := true }), scans := [{ x with landed := true }] } r.2)) := by
  intro k r
  show execScanLanding core s = _
  rw [execScanLanding, onMxRow_eq (k := k) _ rfl]
  · rfl
  · dsimp only
    rw [only, List.foldl_cons, List.foldl_nil]
    dsimp only
    rw [input]
    dsimp only
    rw [if_pos (by rw [waits, decide_eq_true due]; rfl), only, List.map_singleton, if_pos rfl, show (0 : Flags) = 0#10 from rfl,
      BitVec.zero_or, ← input]
    rfl

end

/-! ### The statement -/

/-- What lands in an AF tile is its exact sums, written together. -/
theorem landProd_tile_exact {p : Prod} {acc : Fin 4} {row0 : Nat} {rs : List Nat} (d : MxData) (wf : Spec.kindWf p.kind)
    (tile : prodTile p.kind = some (acc, row0)) (af : ∀ nrow, p.kind ≠ .mma .f64 acc row0 nrow) (within : ∀ r ∈ rs, row0 + r < 64) :
    let r := landProd rs p d
    let t := d.tiles.getD acc.val {}
    let bad := ∃ r ∈ rs, (Spec.terms p.kind (row0 + r)).2 ∨ ∃ j < 64, (Spec.dots p (row0 + r) j (rowA p r)).2
    ∃ news : Nat → Nat → Option Dy,
      (∀ r ∈ rs, ∀ j < 64, ∃ v, news (row0 + r) j = some v ∧
        Spec.dy v = Spec.dy (entBM (Spec.ent t (row0 + r) j), exB (t.ex.getD j 0)) + (Spec.dots p (row0 + r) j (rowA p r)).1) ∧
      (∀ i j, (∀ r ∈ rs, i ≠ row0 + r) → news i j = none) ∧
      r.1 = { d with tiles := d.tiles.set acc.val { (tileWrite false news t).1 with used := true } } ∧
      (bad → r.2 = (tileWrite false news t).2 ||| fINVALID) ∧ (¬bad → r.2 = (tileWrite false news t).2) := by
  intro r t bad
  have notF64 : prodF64 p.kind = false := prodF64_eq_false_iff.2 fun acc' row0' nrow same => by
    rw [same] at tile
    cases tile
    exact af nrow same
  have lands := landProd_tile rs d tile notF64
  have invalid : (rs.any fun r => rowInvalid p (row0 + r) (rowA p r)) = true ↔ bad := by
    simp only [List.any_eq_true, rowInvalid_iff wf, bad]
  refine ⟨prodNews rs p row0 t, fun r mem j lt => ⟨_, prodNews_of_mem t mem lt, ?_⟩, fun i j other => prodNews_of_not_mem t other j,
    congrArg (·.1) lands, fun holds => ?_, fun fails => ?_⟩
  · rw [dy_dyAdd, (prodDot_exact wf _ _ _).1, Spec.ent, if_neg (within r mem).ne]
  · exact (congrArg (·.2) lands).trans (by rw [invalid.2 holds, fIf, if_pos rfl])
  · refine (congrArg (·.2) lands).trans ?_
    rw [eq_false_of_ne_true (mt invalid.1 fails)]
    exact BitVec.or_zero

/-- What lands of `mma.f64`: each entry of its rows takes its products in order. -/
theorem landProd_f64_entries {p : Prod} {acc : Fin 4} {row0 nrow : Nat} {rs : List Nat} {d : MxData}
    (kind : p.kind = .mma .f64 acc row0 nrow) (nodup : rs.Nodup) (some : rs ≠ []) (four : d.tiles.length = 4)
    (rowsB : 64 ≤ p.bRows.length) (within : ∀ r ∈ rs, row0 + r < 64)
    (wf : Spec.tileWf (tileOf d acc)) :
    let r := landProd rs p d
    let t := tileOf d acc
    let u := tileOf r.1 acc
    let entry := fun (r j : Nat) => f64Entry (rowA p r).1 (p.bRows.getD j 0) (Spec.ent t (row0 + r) j)
    r.1 = { d with tiles := d.tiles.set acc.val u } ∧ u = { t with rows := u.rows, used := true } ∧
    (∀ r ∈ rs, ∀ j < 64, Spec.ent u (row0 + r) j = BitVec.ofNat 96 (entry r j).1) ∧
    (∀ i < 64, (∀ r ∈ rs, i ≠ row0 + r) → tileRow u i = tileRow t i) ∧
    r.2 = rs.foldl (fun f r => f ||| Spec.flagsOf 64 fun j => (entry r j).2) 0 := by
  intro r t u entry
  obtain ⟨-, -, rowLen⟩ := wf
  have lands := landProd_f64 kind nodup four
  have landing : ∀ r ∈ rs, f64Landing p row0 t r =
      ((List.range 64).map fun j => BitVec.ofNat 96 (entry r j).1, Spec.flagsOf 64 fun j => (entry r j).2) := fun r mem => by
    refine (f64Row_eq _ rowsB (rowLen _ (within r mem))).trans ?_
    simp only [entry, Spec.ent, if_neg (within r mem).ne]
    rfl
  obtain ⟨written, kept, fields⟩ := foldl_setRow_list row0 (fun r => (f64Landing p row0 t r).1) rs t
  have tile : u = rs.foldl (fun u r => setRow u (row0 + r) (f64Landing p row0 t r).1) t := by
    show tileOf (landProd rs p d).1 acc = _
    rw [lands, tileOf_setTile four]
  refine ⟨?_, by rw [tile]; exact fields some, fun r mem j lt => ?_, fun i _ other => by rw [tile]; exact kept i other, ?_⟩
  · show (landProd rs p d).1 = setTile d acc u
    rw [lands, tile]
  · rw [Spec.ent, if_neg (within r mem).ne, tile, written r mem, landing r mem, map_range_getD _ _ lt]
  · show (landProd rs p d).2 = _
    rw [lands]
    exact List.foldl_ext _ _ _ fun f r mem => by rw [landing r mem]

/-- What lands in a plane is its exact sums, each rounded once. -/
theorem landProd_plane_exact {p : Prod} {pp : Fin 2} {rs : List Nat} (d : MxData) (wf : Spec.kindWf p.kind)
    (plane : prodPlane p.kind = some pp) (within : ∀ r ∈ rs, r < 64) :
    let r := landProd rs p d
    let bad := ∃ r ∈ rs, (Spec.terms p.kind r).2 ∨ ∃ j < 64, (Spec.dots p r j (rowA p r)).2
    ∃ V : Nat → Nat → Dy, (∀ r ∈ rs, ∀ j < 64, Spec.dy (V r j) = (Spec.dots p r j (rowA p r)).1) ∧
      (let out := fun (r j : Nat) => roundF .f32 .ne false (decide ((V r j).1 < 0)) (V r j).1.natAbs (V r j).2
       let fl := rs.foldl (fun f r => f ||| Spec.flagsOf 64 fun j => (out r j).2) 0
       r.1 = { d with planes := r.1.planes } ∧
       (∀ r' ∈ rs, planeRow r.1 pp.val r' = (List.range 64).map fun j => BitVec.ofNat 32 (out r' j).1) ∧
       (∀ (q : Fin 2) (i : Nat), i < 64 → (q ≠ pp ∨ i ∉ rs) → planeRow r.1 q.val i = planeRow d q.val i) ∧
       (bad → r.2 = fl ||| fINVALID) ∧ (¬bad → r.2 = fl)) := by
  intro r bad
  have lands := landProd_plane rs d plane
  obtain ⟨written, kept, fields⟩ := foldl_setPlaneRow (pp := pp) (planeLanding p) within d
  have invalid : (rs.any fun r => rowInvalid p r (rowA p r)) = true ↔ bad := by
    simp only [List.any_eq_true, rowInvalid_iff wf, bad]
  have data : r.1 = rs.foldl (fun u r => setPlaneRow u pp.val r (planeLanding p r)) d := congrArg (·.1) lands
  refine ⟨fun r j => (prodDot p r j (rowA p r)).1, fun r _ j _ => (prodDot_exact wf _ _ _).1, by rw [data]; exact fields,
    by rw [data]; exact written, by rw [data]; exact kept, fun holds => ?_, fun fails => ?_⟩
  · exact (congrArg (·.2) lands).trans (by rw [invalid.2 holds, fIf, if_pos rfl])
  · refine (congrArg (·.2) lands).trans ?_
    rw [eq_false_of_ne_true (mt invalid.1 fails)]
    exact BitVec.or_zero

/-- What lands of a beat of `scacc` is its scaled entries, added exactly. -/
theorem landScacc_exact {b : Nat} (beat : b < 4) (kb : Nat) (f : Fold) (t : Tile) :
    let sA := fun (i : Nat) => sideByte (smGetD f.rows i ([], 0)).2 kb
    let sB := fun (j : Nat) => sideByte (f.bSide.getD j 0) kb
    let plane := fun (i j : Nat) => Spec.rat (decodeF .f32 ((smGetD f.rows i ([], 0)).1.getD j 0).toNat)
    let bad := ∃ i, 16 * b ≤ i ∧ i < 16 * b + 16 ∧ ∃ j < 64, sA i = 0xFF ∨ sB j = 0xFF
    ∃ news : Nat → Nat → Option Dy,
      (∀ i j, 16 * b ≤ i → i < 16 * b + 16 → j < 64 → sA i ≠ 0xFF → sB j ≠ 0xFF → ∀ v, plane i j = some v → ∃ n, news i j = some n ∧
        Spec.dy n = Spec.dy (entBM (Spec.ent t i j), exB (t.ex.getD j 0)) + v * 2 ^ ((sA i + sB j : Int) - 254)) ∧
      (∀ i j, i < 16 * b ∨ 16 * b + 16 ≤ i ∨ (j < 64 ∧ (sA i = 0xFF ∨ sB j = 0xFF ∨ plane i j = none)) → news i j = none) ∧
      (landScacc b kb f t).1 = { (tileWrite false news t).1 with used := true } ∧
      (bad → (landScacc b kb f t).2 = (tileWrite false news t).2 ||| fINVALID) ∧
      (¬bad → (landScacc b kb f t).2 = (tileWrite false news t).2) := by
  intro sA sB plane bad
  have lands := landScacc_eq beat kb f t
  have invalid : beatInvalid b kb f = true ↔ bad := by
    simp only [beatInvalid_iff beat, scaleBad_iff]
    rfl
  refine ⟨scaccNews b kb f t, fun i j low high _ goodA goodB v value => ?_, fun i j out => scaccNews_none t ?_, congrArg (·.1) lands,
    fun holds => ?_, fun fails => ?_⟩
  · rw [Spec.ent, if_neg (by omega)]
    exact scaccNews_some t ⟨low, high⟩ (eq_false_of_ne_true fun bad => (scaleBad_iff.1 bad).elim goodA goodB) value
  · rcases out with low | high | ⟨-, badA | badB | none⟩
    · exact .inl (by omega)
    · exact .inl (by omega)
    · exact .inr (.inl (scaleBad_iff.2 (.inl badA)))
    · exact .inr (.inl (scaleBad_iff.2 (.inr badB)))
    · exact .inr (.inr none)
  · exact (congrArg (·.2) lands).trans (by rw [invalid.2 holds, fIf, if_pos rfl])
  · refine (congrArg (·.2) lands).trans ?_
    rw [eq_false_of_ne_true (mt invalid.1 fails)]
    exact BitVec.or_zero

/-- Settles O31: what a unit lands is the model's product, fold or scan (`exec_productRowLanding_of_good` and its like), whose rows are the
exact sums of their terms (`prodDot_exact`). -/
theorem matrixLandings : Obligations.MatrixLandings := by
  unfold Obligations.MatrixLandings
  refine ⟨fun rs p d nodup some four _ rowsB wf => ⟨fun acc row0 tile af within => landProd_tile_exact d wf tile af within,
    fun acc row0 nrow kind within tileWf => landProd_f64_entries kind nodup some four rowsB within tileWf,
    fun pp plane within => landProd_plane_exact d wf plane within⟩,
    fun b kb f t beat _ _ _ => landScacc_exact beat kb f t, fun core s => ?_⟩
  intro k d t was lands fails
  refine ⟨fun p only => ?products, fun f only => ⟨?scacc, ?acnorm⟩, fun x rows cy ex only input waits due => ?scans⟩
  case products =>
    intro due merges covered
    have rows : prodDue t p = due := prodDue_eq t p
    have merge : prodDue t p ≠ [] → (prodMergesBad k t p = true ↔ merges) := fun some => by
      rw [prodMergesBad_iff some, rows]
    have covers : prodCovers t k p = covered := (prodCovers_eq t k p).trans (by rw [rows] <;> rfl)
    refine ⟨fun some bad => ?leaves, fun dueSome good => ?lands⟩
    case leaves =>
      rw [← rows] at some
      exact exec_productRowLanding_of_bad only some ((merge some).2 bad)
    case lands =>
      rw [← rows] at dueSome
      have row : exec (.productRowLanding core) s = .next (setCore s core (landed (prodCovers t k p)
          { k.mx with
            next := some (landProd (prodDue t p) p d).1
            prods := [{ p with next := p.next + (prodDue t p).length }] } (landProd (prodDue t p) p d).2)) :=
        exec_productRowLanding_of_good only dueSome (mt (merge dueSome).1 good)
      obtain ⟨words, frame⟩ := prodCovers_frame t k p
      rw [covers] at frame
      rw [covers, rows] at row
      clear_value covered
      subst frame
      exact row
  case scans => exact exec_scanLanding_of_due (i := (rows, cy, ex)) only input waits due
  case scacc =>
    intro ef acc pp oa ob kb kind low due r
    have lands : ∀ d, landFold t f d = some (f.next + 1, setTile d acc (landScacc f.next kb f (tileOf d acc)).1,
        (landScacc f.next kb f (tileOf d acc)).2) := fun d => by
      rw [landFold, kind]
      exact if_pos ⟨low, due⟩
    have isSome : (landFold t f k.mx.now).isSome = true := by rw [lands]; rfl
    have tile : foldTile f.kind = acc := by rw [kind]; rfl
    rw [← tile]
    refine ⟨fun bad => exec_foldRowLanding_of_bad only isSome bad, fun good => ?_⟩
    have row := exec_foldRowLanding_of_good only (lands _) (mt (foldMergesBad_iff isSome).1 good)
    rw [tile]
    exact row
  case acnorm =>
    intro acc kind first due r
    have lands : ∀ d, landFold t f d = some (1, setTile d acc { tileNorm false (tileNorm true (tileOf d acc)) with used := true }, 0) :=
      fun d => by
        rw [landFold, kind]
        exact if_pos ⟨first, due⟩
    have isSome : (landFold t f k.mx.now).isSome = true := by rw [lands]; rfl
    have tile : foldTile f.kind = acc := by rw [kind]; rfl
    rw [← tile]
    refine ⟨fun bad => exec_foldRowLanding_of_bad only isSome bad, fun good => ?_⟩
    have row := exec_foldRowLanding_of_good only (lands _) (mt (foldMergesBad_iff isSome).1 good)
    rw [tile]
    exact row

end Sys2Proof.Machine
end

section
/-! Proofs of the family of spec/12: bits of descriptors, and records in their rings (O49). -/

namespace Sys2Proof.Machine

/-! ### Bits of a number -/

theorem testBit_bits (v lo len i : Nat) : (bits v lo len).testBit i = (decide (i < len) && v.testBit (lo + i)) := by
  rw [bits, Nat.testBit_mod_two_pow, Nat.testBit_div_two_pow, Nat.add_comm]

theorem bits_eq_iff {v w lo lo' len : Nat} : bits v lo len = bits w lo' len ↔ ∀ i < len, v.testBit (lo + i) = w.testBit (lo' + i) := by
  constructor
  · intro same i lt
    have bit := congrArg (Nat.testBit · i) same
    simpa [testBit_bits, lt] using bit
  · intro same
    refine Nat.eq_of_testBit_eq fun i => ?_
    rw [testBit_bits, testBit_bits]
    by_cases lt : i < len
    · rw [same i lt]
    · rw [decide_eq_false lt, Bool.false_and, Bool.false_and]

theorem bits_one_eq {v i : Nat} : (bits v i 1 == 1) = v.testBit i := by
  rw [bits, pow_one, Nat.testBit_eq_decide_div_mod_eq]
  rfl

theorem sub_and_halves (a b : Nat) : (a - (a &&& b)) % 2 = a % 2 - (a % 2 &&& b % 2) ∧ (a - (a &&& b)) / 2 = a / 2 - (a / 2 &&& b / 2) := by
  have low : (a &&& b) % 2 = a % 2 &&& b % 2 := by simpa using Nat.and_mod_two_pow (a := a) (b := b) (n := 1)
  have half : (a &&& b) / 2 = a / 2 &&& b / 2 := by simpa using Nat.and_div_two_pow (a := a) (b := b) (n := 1)
  have lowLe : (a &&& b) % 2 ≤ a % 2 := low ▸ Nat.and_le_left
  have parts : ∀ c ≤ a, c % 2 ≤ a % 2 → (a - c) % 2 = a % 2 - c % 2 ∧ (a - c) / 2 = a / 2 - c / 2 := fun c _ _ => by omega
  rw [← low, ← half]
  exact parts _ Nat.and_le_left lowLe

/-- The bits of a number that another one does not have. -/
theorem testBit_sub_and (a b i : Nat) : (a - (a &&& b)).testBit i = (a.testBit i && !b.testBit i) := by
  induction i generalizing a b with
  | zero =>
    rw [Nat.testBit_zero, Nat.testBit_zero, Nat.testBit_zero, (sub_and_halves a b).1]
    rcases Nat.mod_two_eq_zero_or_one a with ha | ha <;> rcases Nat.mod_two_eq_zero_or_one b with hb | hb <;> rw [ha, hb] <;> rfl
  | succ i ih =>
    rw [Nat.testBit_succ, Nat.testBit_succ, Nat.testBit_succ, (sub_and_halves a b).2]
    exact ih _ _

theorem and_ne_zero_iff {a b : Nat} : a &&& b ≠ 0 ↔ ∃ i, a.testBit i = true ∧ b.testBit i = true := by
  constructor
  · intro ne
    obtain ⟨i, bit⟩ := Nat.exists_testBit_of_ne_zero ne
    rw [Nat.testBit_and, Bool.and_eq_true] at bit
    exact ⟨i, bit⟩
  · rintro ⟨i, left, right⟩ zero
    have bit := congrArg (Nat.testBit · i) zero
    simp [left, right] at bit

theorem sub_and_ne_zero_iff {a b : Nat} : a - (a &&& b) ≠ 0 ↔ ∃ i, a.testBit i = true ∧ b.testBit i = false := by
  constructor
  · intro ne
    obtain ⟨i, bit⟩ := Nat.exists_testBit_of_ne_zero ne
    rw [testBit_sub_and, Bool.and_eq_true, Bool.not_eq_true'] at bit
    exact ⟨i, bit⟩
  · rintro ⟨i, left, right⟩ zero
    have bit := congrArg (Nat.testBit · i) zero
    simp [testBit_sub_and, left, right] at bit

/-! ### Records in their rings (R250, R305, R306, R315) -/

theorem mWriteN_append (m : SMap Byte) (a : Nat) (xs ys : List Byte) :
    mWriteN m a (xs ++ ys) = mWriteN (mWriteN m a xs) (a + xs.length) ys := by
  induction xs generalizing m a with
  | nil => rfl
  | cons x xs ih =>
    rw [List.cons_append, mWriteN, mWriteN, ih, List.length_cons, Nat.add_assoc, Nat.add_comm 1]

theorem mWriteN_take_drop (m : SMap Byte) (a n : Nat) (bs : List Byte) :
    mWriteN (mWriteN m a (bs.take n)) (a + n) (bs.drop n) = mWriteN m a bs := by
  by_cases all : bs.length ≤ n
  · rw [List.take_of_length_le all, List.drop_of_length_le all]
    rfl
  · have whole := mWriteN_append m a (bs.take n) (bs.drop n)
    rwa [List.take_append_drop, List.length_take_of_le (by omega), eq_comm] at whole

/-- A write under no key changes the bytes of memory alone. -/
theorem physWritesN_none (fuel : Nat) (s : State) {pa : Nat} {bs : List Byte} (enough : pa % 64 + bs.length ≤ 64 * fuel) :
    physWritesN fuel s none pa bs = { s with mem := mWriteN s.mem pa bs } := by
  induction fuel generalizing s pa bs with
  | zero =>
    obtain rfl := List.eq_nil_of_length_eq_zero (show bs.length = 0 by omega)
    rfl
  | succ n ih =>
    rw [physWritesN]
    split
    · rename_i empty
      subst empty
      rfl
    · dsimp only
      rw [ih _ (by rw [List.length_drop]; omega)]
      show { s with mem := mWriteN (mWriteN s.mem pa (bs.take (64 - pa % 64))) (pa + (64 - pa % 64)) (bs.drop (64 - pa % 64)) } = _
      rw [mWriteN_take_drop]

theorem physWriteN_none (s : State) (pa : Nat) (bs : List Byte) : physWriteN s none pa bs = { s with
    mem := mWriteN s.mem pa bs
    poison := s.poison.filter fun u => !(decide (pa ≤ u * 64) && decide (u * 64 + 64 ≤ pa + bs.length)) } := by
  rw [physWriteN, physWrites, physWritesN_none _ _ (by omega)]
  rfl

theorem physWriteN_none_of_lt (s : State) (pa : Nat) {bs : List Byte} (short : bs.length < 64) :
    physWriteN s none pa bs = { s with mem := mWriteN s.mem pa bs } := by
  have all : (s.poison.filter fun u => !(decide (pa ≤ u * 64) && decide (u * 64 + 64 ≤ pa + bs.length))) = s.poison :=
    List.filter_eq_self.2 fun u _ => by
      simp only [Bool.not_eq_true', Bool.and_eq_false_imp, decide_eq_true_eq, decide_eq_false_iff_not]
      omega
  rw [physWriteN_none, all]

/-- A sector written whole is poisoned no longer. -/
theorem physWriteN_none_of_eq (s : State) (pa : Nat) {bs : List Byte} (sector : bs.length = 64) :
    physWriteN s none pa bs = { s with mem := mWriteN s.mem pa bs, poison := s.poison.filter fun q => decide (q * 64 ≠ pa) } := by
  have same : ∀ u, (!(decide (pa ≤ u * 64) && decide (u * 64 + 64 ≤ pa + bs.length))) = decide (u * 64 ≠ pa) := fun u => by
    rw [← Bool.decide_and, ← decide_not, decide_eq_decide]
    omega
  rw [physWriteN_none, funext same]

/-- An event record goes to its ring, or is counted as lost (R250, R315). -/
theorem eventRecord_eq (p code region frame value : Nat) (s : State) :
    let x := getPart s p
    let full := (x.evHead + 2 ^ 32 - x.evTail) % 2 ^ 32 = 2048
    let record := code + region % 8 * 2 ^ 8 + region / 8 * 2 ^ 11 + p * 2 ^ 16 + frame % 2 ^ 64 * 2 ^ 64 +
      s.tick % 2 ^ 64 * 2 ^ 128 + value % 2 ^ 64 * 2 ^ 192
    (full → eventRecord p code region frame value s = setPart s p { x with evLost := (x.evLost + 1) % 2 ^ 32 }) ∧
    (¬full → eventRecord p code region frame value s =
      setPart { s with mem := mWriteN s.mem (bits x.desc.toNat 448 48 + x.evHead % 2048 * 32) (leBytes 32 record) } p
        { x with evHead := (x.evHead + 1) % 2 ^ 32 }) := by
  intro x full record
  refine ⟨fun holds => if_pos holds, fun fails => (if_neg fails).trans ?_⟩
  rw [physWriteN_none_of_lt _ _ (by rw [leBytes_length]; decide)]
  rfl

/-- The address field of an error record: 55 bits, and bit 63 where there is an address (R315). -/
theorem recordAddress (low : Nat) (va : Option Nat) : low + va.getD 0 % 2 ^ 55 * 2 ^ 128 + (if va.isSome then 2 ^ 191 else 0) =
    low + (match va with
      | some a => a % 2 ^ 55 + 2 ^ 63
      | none => 0) * 2 ^ 128 := by
  have top : (2 : Nat) ^ 191 = 2 ^ 63 * 2 ^ 128 := Nat.pow_add 2 63 128
  cases va with
  | none => rw [Option.getD_none, Nat.zero_mod, Option.isSome_none, if_neg Bool.false_ne_true, Nat.add_zero]
  | some a => rw [Option.getD_some, Option.isSome_some, if_pos rfl, top, Nat.add_assoc, ← Nat.add_mul]

/-- An error record goes to its ring, or is counted as lost (R315). -/
theorem errorRecord_eq (p kind cause orig engine reason id paddr : Nat) (va : Option Nat) (s : State) :
    let x := getPart s p
    let full := (x.erHead + 2 ^ 32 - x.erTail) % 2 ^ 32 = 1024
    let at_ := bits x.desc.toNat 512 48 + x.erHead % 1024 * 64
    let address := match va with
      | some a => a % 2 ^ 55 + 2 ^ 63
      | none => 0
    let record := kind + cause * 2 ^ 8 + orig * 2 ^ 16 + engine * 2 ^ 24 + reason * 2 ^ 32 + id * 2 ^ 40 + paddr * 2 ^ 64 +
      address * 2 ^ 128 + s.tick % 2 ^ 64 * 2 ^ 192 + x.cecnt % 2 ^ 32 * 2 ^ 256
    let write := errorRecord p kind cause orig engine reason id paddr va s
    (full → write = setPart s p { x with erLost := (x.erLost + 1) % 2 ^ 32 }) ∧
    (¬full → write = setPart
      { s with mem := mWriteN s.mem at_ (leBytes 64 record), poison := s.poison.filter fun q => decide (q * 64 ≠ at_) } p
      { x with erHead := (x.erHead + 1) % 2 ^ 32 }) := by
  intro x full at_ address record write
  refine ⟨fun holds => if_pos holds, fun fails => (if_neg fails).trans ?_⟩
  rw [physWriteN_none_of_eq _ _ (leBytes_length ..), recordAddress]
  rfl

end Sys2Proof.Machine
end

section
/-! Proofs of the family of spec/12: keys, sweeps, and errors that a reader finds (O49). -/

namespace Sys2Proof.Machine

/-! ### Errors in memory (R305, R306) -/

/-- A record can make a poisoned sector good, and poisons none. -/
theorem mem_poison_of_errorRecord {p kind cause orig engine reason id paddr q : Nat} {va : Option Nat} {s : State}
    (mem : q ∈ (errorRecord p kind cause orig engine reason id paddr va s).poison) : q ∈ s.poison := by
  obtain ⟨lost, written⟩ := errorRecord_eq p kind cause orig engine reason id paddr va s
  by_cases full : ((getPart s p).erHead + 2 ^ 32 - (getPart s p).erTail) % 2 ^ 32 = 1024
  · rwa [lost full] at mem
  · rw [written full] at mem
    exact List.mem_of_mem_filter mem

theorem mem_poison_of_countCorrected {p pa q : Nat} {s : State} (mem : q ∈ (countCorrected p pa s).poison) : q ∈ s.poison := by
  unfold countCorrected at mem
  dsimp only at mem
  split at mem
  · exact (mem_poison_of_errorRecord mem : q ∈ (setPart s p _).poison)
  · exact mem

theorem mem_poisonMore {us : List Nat} {s : State} {q : Nat} : q ∈ (poisonMore us s).poison ↔ q ∈ s.poison ∨ q ∈ us := by
  rw [poisonMore, List.mem_append, List.mem_filter, Bool.not_eq_true', List.contains_eq_mem, decide_eq_false_iff_not]
  exact ⟨Or.imp_right And.left, fun either => either.elim .inl fun mem => or_iff_not_imp_left.2 fun new => ⟨mem, new⟩⟩

/-- A line is poisoned where one of its four sectors is. -/
theorem poisoned_line_iff {s : State} {pa : Nat} : poisoned s (pa / 256 * 256) 256 = true ↔
    ∃ q ∈ s.poison, pa / 256 * 4 ≤ q ∧ q < pa / 256 * 4 + 4 := by
  rw [poisoned, List.any_eq_true]
  refine exists_congr fun q => and_congr_right fun _ => ?_
  rw [decide_eq_true_eq]
  omega

/-- The state after a corrected error, or without one. -/
def corrected (p pa : Nat) (err : Fin 3) (s : State) : State := if err.val = 1 then countCorrected p pa s else s

theorem corrected_eq (p pa : Nat) (err : Fin 3) (s : State) : corrected p pa err s =
    let n := ((getPart s p).cecnt + 1) % 2 ^ 32
    let t := setPart s p { getPart s p with cecnt := n }
    if err ≠ 1 then s else if n % 4096 = 0 then errorRecord p 5 0 0 0 0 0 (pa / 64 * 64) none t else t := by
  rw [corrected]
  by_cases one : err = 1
  · subst one
    rfl
  · rw [if_neg (show ¬err.val = 1 from fun val => one (Fin.ext val))]
    exact (if_pos one).symm

theorem mem_poison_of_corrected {p pa q : Nat} {err : Fin 3} {s : State} (mem : q ∈ (corrected p pa err s).poison) : q ∈ s.poison := by
  rw [corrected] at mem
  split at mem
  · exact mem_poison_of_countCorrected mem
  · exact mem

section

variable {s : State} {pa p : Nat} {err : Fin 3}

theorem exec_patrolScrub_unowned (owner : paOwner s pa = none) :
    exec (.patrolScrub (.mem pa) err) s = .next s ∧ exec (.patrolScrub (.read pa) err) s = .next s := by
  constructor
  · show Host.Outcome.next (scrubLine pa err s) = _
    rw [scrubLine, owner]
  · show Host.Outcome.next (readError pa err s) = _
    rw [readError, owner]

variable (owner : paOwner s pa = some p)
include owner

theorem exec_patrolScrub_line : exec (.patrolScrub (.mem pa) err) s = .next
    (if err.val = 2 ∨ poisoned s (pa / 256 * 256) 256 = true then
      errorRecord p 4 0 0 0 0 0 (pa / 64 * 64) none
        (poisonMore [pa / 256 * 4, pa / 256 * 4 + 1, pa / 256 * 4 + 2, pa / 256 * 4 + 3] (corrected p pa err s))
    else corrected p pa err s) := by
  show Host.Outcome.next (scrubLine pa err s) = _
  rw [scrubLine, owner]
  rfl

theorem exec_patrolScrub_read : exec (.patrolScrub (.read pa) err) s =
    .next (if err.val = 2 then poisonMore [pa / 64] s else corrected p pa err s) := by
  show Host.Outcome.next (readError pa err s) = _
  rw [readError, owner, corrected]
  dsimp only
  obtain ⟨n, lt⟩ := err
  interval_cases n <;> rfl

end

/-! ### Keys and lost lines (R311, R313, R314) -/

/-- A byte of a unit that no cache could lose. -/
theorem mRead_dropCached {f : Nat → Bool} {s : State} {a : Nat} (kept : f (a / 64) = false) :
    mRead (dropCached f s).mem a = mRead s.mem a := by
  have units : ∀ (us : List (Nat × BitVec 512)) (m : SMap Byte), (∀ u ∈ us, f u.1 = true) →
      mRead (us.foldl (fun m u => mWriteN m (64 * u.1) (leBytes 64 u.2.toNat)) m) a = mRead m a := fun us => by
    induction us with
    | nil => exact fun _ _ => rfl
    | cons u us ih =>
      intro m allowed
      obtain ⟨first, others⟩ := List.forall_mem_cons.1 allowed
      rw [List.foldl_cons, ih _ others, mRead_mWriteN, leBytes_length, if_neg]
      rintro ⟨low, high⟩
      rw [show a / 64 = u.1 by omega, first] at kept
      cases kept
  exact units _ _ fun u mem => (List.mem_filter.1 mem).2

/-- A unit in a slice cache stands in memory of HBM (R304). -/
theorem cachedFor_of_not_hbm {s : State} {pa : Nat} (not : ∀ st g, paKind pa ≠ .hbm st g) : cachedFor s pa = none := by
  unfold cachedFor
  split
  · next st g hbm => exact absurd hbm (not st g)
  · rfl

/-- Bytes of a kind of memory read 0, all others as before (R311). -/
theorem mRead_zeroWhere (f : PaKind → Bool) (s : State) (a : Nat) :
    mRead (zeroWhere f s).mem a = if f (paKind a) = true then 0 else mRead s.mem a := by
  rw [mRead, smGetD]
  split
  · rename_i zeroed
    rw [smGet_eq_none fun c mem same => ?_]
    · rfl
    · have kept := (List.mem_filter.1 mem).2
      rw [same, zeroed] at kept
      cases kept
  · rename_i kept
    exact congrArg (Option.getD · 0) (smGet_filter (fun _ => by simpa using kept) s.mem)

theorem exec_groupSweepDone (part : Nat) (s : State) : ∃ t, exec (.groupSweepDone part) s = .next t ∧
    getPart t part = { getPart s part with sweep := [] } ∧ t.cores = s.cores ∧
    ∀ a, mRead t.mem a = match paKind a with
      | .hbm st g => if (st, g) ∈ (getPart s part).sweep then 0 else mRead s.mem a
      | _ => mRead s.mem a := by
  refine ⟨_, rfl, getPart_setPart .., rfl, fun a => ?_⟩
  refine (mRead_zeroWhere _ s a).trans ?_
  cases paKind a <;> simp [inGroups]

theorem exec_keyRevoke (slot : Nat) (s : State) : ∃ t, exec (.keyRevoke slot) s = .next t ∧
    t = { s with
      keys := smPut s.keys slot { getKey s slot with revoked := true }
      mem := t.mem
      sched := { s.sched with choice := s.sched.choice + 1 } } ∧
    ∀ a, (∀ st g, paKind (64 * (a / 64)) ≠ .hbm st g) ∨
      (smGet s.tags (a / 64)).or (smGet s.ftags (a / 64 / 1024)) ≠ some (getKey s slot).pair → mRead t.mem a = mRead s.mem a := by
  refine ⟨_, rfl, rfl, fun a spared => mRead_dropCached (s := { s with keys := _ }) ?_⟩
  rw [cachedUnder]
  rcases spared with not | other
  · rw [cachedFor_of_not_hbm not]
    rfl
  · have pair : unitPair s (a / 64) = (smGet s.tags (a / 64)).or (smGet s.ftags (a / 64 / 1024)) := by
      unfold unitPair
      cases smGet s.tags (a / 64) <;> rfl
    rw [pair, beq_eq_false_iff_ne.2 other, Bool.and_false]

end Sys2Proof.Machine
end

section
/-! Proofs of the family of spec/12: key loads, the scrubber's clauses and the root of a partition's tables (O49). -/

namespace Sys2Proof.Machine

/-- A pair is loaded into a slot without a live key, where its two halves differ (R313). -/
theorem exec_keyload (slot : Nat) (pair : BitVec 512) (s : State) :
    let k := getKey s slot
    let bad := (k.valid = true ∧ k.revoked = false) ∨ bits pair.toNat 0 256 = bits pair.toNat 256 256
    (bad → exec (.keyload slot pair) s = .next s) ∧
    (¬bad → exec (.keyload slot pair) s =
      .next { s with keys := smPut s.keys slot { valid := true, revoked := false, pair := pair, loads := k.loads + 1 } }) := by
  intro k bad
  have ground : ((k.valid && !k.revoked) || bits pair.toNat 0 256 == bits pair.toNat 256 256) = true ↔ bad := by
    rw [Bool.or_eq_true, Bool.and_eq_true, Bool.not_eq_true', beq_iff_eq]
  exact ⟨fun holds => if_pos (ground.2 holds), fun fails => if_neg (mt ground.1 fails)⟩

/-- The words of a core's own memory that a found error marks (R307). -/
theorem mem_mark_word {α : Type} [BEq α] [LawfulBEq α] (w : α) (l : List α) (q : α) : q ∈ w :: l.filter (· != w) ↔ q ∈ l ∨ q = w := by
  rw [List.mem_cons, List.mem_filter, bne_iff_ne, or_comm]
  by_cases same : q = w
  · simp only [same, or_true]
  · simp only [same, or_false, ne_eq, not_false_eq_true, and_true]

theorem exec_patrolScrub_sram (core word : Nat) (m : Sram) (err : Fin 3) (s : State) :
    let scrub := exec (.patrolScrub (.sram core m word) err) s
    let p := (ownerPart s core).getD 0
    let n := ((getPart s p).cecnt + 1) % 2 ^ 32
    let t := setPart s p { getPart s p with cecnt := n }
    (err = 0 → scrub = .next s) ∧
    (err = 1 → scrub = .next (if n % 4096 = 0 then errorRecord p 5 0 0 0 0 0 0 none t else t)) ∧
    (err = 2 → ∃ l, scrub = .next (setCore s core { getCore s core with badWords := l }) ∧
      ∀ q, q ∈ l ↔ q ∈ (getCore s core).badWords ∨ q = (m, word)) := by
  refine ⟨?_, ?_, ?_⟩
  · rintro rfl
    rfl
  · rintro rfl
    rfl
  · rintro rfl
    exact ⟨_, rfl, mem_mark_word (m, word) _⟩

/-- The scrubber and another reader at memory that a partition owns (R305, R306). -/
theorem exec_patrolScrub_owned {s : State} {pa p : Nat} {err : Fin 3} (owner : paOwner s pa = some p) (c : State)
    (same : c = corrected p pa err s) :
    let scrub := exec (.patrolScrub (.mem pa) err) s
    let read := exec (.patrolScrub (.read pa) err) s
    let bad := err = 2 ∨ ∃ q ∈ s.poison, pa / 256 * 4 ≤ q ∧ q < pa / 256 * 4 + 4
    (¬bad → scrub = .next c) ∧
    (err ≠ 2 → read = .next c) ∧
    (err = 2 → ∃ u, read = .next u ∧ u = { s with poison := u.poison } ∧ ∀ q, q ∈ u.poison ↔ q ∈ s.poison ∨ q = pa / 64) ∧
    ((∃ q ∈ c.poison, pa / 256 * 4 ≤ q ∧ q < pa / 256 * 4 + 4) ∨ err = 2 →
      ∃ u, scrub = .next (errorRecord p 4 0 0 0 0 0 (pa / 64 * 64) none u) ∧
      u = { c with poison := u.poison } ∧
      ∀ q, q ∈ u.poison ↔ q ∈ c.poison ∨ (pa / 256 * 4 ≤ q ∧ q < pa / 256 * 4 + 4)) := by
  subst same
  intro scrub read bad
  have two : err.val = 2 ↔ err = 2 := ⟨fun val => Fin.ext val, congrArg Fin.val⟩
  have ground : err.val = 2 ∨ poisoned s (pa / 256 * 256) 256 = true ↔ bad := or_congr two poisoned_line_iff
  have line := exec_patrolScrub_line (err := err) owner
  have sector := exec_patrolScrub_read (err := err) owner
  refine ⟨fun good => line.trans (congrArg _ (if_neg (mt ground.1 good))), fun other => sector.trans (congrArg _ (if_neg (mt two.1 other))),
    fun found => ⟨_, sector.trans (congrArg _ (if_pos (two.2 found))), rfl, fun q => ?_⟩,
    fun found => ⟨_, line.trans (congrArg _ (if_pos (ground.2 ?_))), rfl, fun q => ?_⟩⟩
  · rw [mem_poisonMore, List.mem_singleton]
  · exact found.symm.imp_right fun ⟨q, mem, range⟩ => ⟨q, mem_poison_of_corrected mem, range⟩
  · rw [mem_poisonMore]
    simp only [List.mem_cons, List.not_mem_nil, or_false]
    exact or_congr_right (by omega)

/-- A field of a number replaced: the bits below it, its own and those above. -/
theorem bits_replace (d lo len x : Nat) (fits : x < 2 ^ len) :
    let new := d - bits d lo len * 2 ^ lo + x * 2 ^ lo
    bits new 0 lo = bits d 0 lo ∧ bits new lo len = x ∧ ∀ n, bits new (lo + len) n = bits d (lo + len) n := by
  intro new
  have parts : d = d % 2 ^ lo + 2 ^ lo * (bits d lo len + 2 ^ len * (d / 2 ^ (lo + len))) := by
    rw [bits, Nat.pow_add, ← Nat.div_div_eq_div_mul, Nat.mod_add_div, Nat.mod_add_div]
  have newEq : new = d % 2 ^ lo + 2 ^ lo * (x + 2 ^ len * (d / 2 ^ (lo + len))) := by
    show d - bits d lo len * 2 ^ lo + x * 2 ^ lo = _
    rw [Nat.sub_eq_of_eq_add (c := d % 2 ^ lo + 2 ^ lo * (2 ^ len * (d / 2 ^ (lo + len)))) (by linarith [parts])]
    ring
  have low : d % 2 ^ lo < 2 ^ lo := Nat.mod_lt _ (Nat.two_pow_pos lo)
  have above : new / 2 ^ lo = x + 2 ^ len * (d / 2 ^ (lo + len)) := by
    rw [newEq, Nat.add_mul_div_left _ _ (Nat.two_pow_pos lo), Nat.div_eq_of_lt low, Nat.zero_add]
  refine ⟨?_, ?_, fun n => ?_⟩
  · rw [bits, bits, pow_zero, Nat.div_one, Nat.div_one, newEq, Nat.add_mul_mod_self_left, Nat.mod_mod]
  · rw [bits, above, Nat.add_mul_mod_self_left, Nat.mod_eq_of_lt fits]
  · rw [bits, bits, Nat.pow_add, ← Nat.div_div_eq_div_mul, above, Nat.add_mul_div_left _ _ (Nat.two_pow_pos len), Nat.div_eq_of_lt fits,
      Nat.zero_add, ← Nat.pow_add]

theorem bits_ofNat {w lo len : Nat} (h : lo + len ≤ w) (n : Nat) : bits (BitVec.ofNat w n).toNat lo len = bits n lo len := by
  rw [BitVec.toNat_ofNat, bits_mod _ _ _ h]

/-- The root of a partition's tables is written and its TLBs emptied (R215, R223). -/
theorem exec_ptrootWrite (part : Nat) (v : Word) (s : State) :
    let old := (getPart s part).desc.toNat
    let root := bits v.toNat 16 32
    ∃ t, exec (.ptrootWrite part v) s = .next t ∧ t.mem = s.mem ∧ t.cores = s.cores ∧
      bits (getPart t part).desc.toNat 384 48 = root * 2 ^ 16 ∧ bits (getPart t part).desc.toNat 0 384 = bits old 0 384 ∧
      bits (getPart t part).desc.toNat 432 592 = bits old 432 592 ∧
      t.tlbis = smPut s.tlbis s.nextReq { core := 0, part := part, scope := 3, lo := 0, hi := 2 ^ 55 } := by
  intro old root
  have fits : root * 2 ^ 16 < 2 ^ 48 := by
    have lt : root < 2 ^ 32 := Nat.mod_lt _ (Nat.two_pow_pos 32)
    omega
  obtain ⟨below, field, above⟩ := bits_replace old 384 48 (root * 2 ^ 16) fits
  have kept (t : State) (desc : BitVec 1024) (same : t = flushPart part (setPart s part { getPart s part with desc := desc })) :
      (getPart t part).desc = desc := by
    subst same
    exact congrArg Part.desc (getPart_setPart ..)
  refine ⟨_, rfl, rfl, rfl, ?_, ?_, ?_, rfl⟩
  · rw [kept _ _ rfl, bits_ofNat (by decide)]
    exact field
  · rw [kept _ _ rfl, bits_ofNat (by decide)]
    exact below
  · rw [kept _ _ rfl, bits_ofNat (by decide)]
    exact above 592

end Sys2Proof.Machine
end

section
/-! Proofs of the family of spec/12: the grounds on which a partition's descriptor is refused (O49, R310). -/

namespace Sys2Proof.Machine

theorem bits_lt_two_pow (v lo len : Nat) : bits v lo len < 2 ^ len := Nat.mod_lt _ (Nat.two_pow_pos len)

/-- The resources that a descriptor names, by their places in it. -/
theorem testBit_descHolds (d i : Nat) : (descHolds d).testBit i = true ↔
    (i < 320 ∧ d.testBit i = true) ∨ (320 ≤ i ∧ i < 576 ∧ d.testBit (256 + i) = true) := by
  rw [descHolds, Nat.add_comm, Nat.mul_comm, Nat.testBit_two_pow_mul_add _ (bits_lt_two_pow d 0 320)]
  by_cases below : i < 320
  · rw [if_pos below, testBit_bits, decide_eq_true below, Bool.true_and, Nat.zero_add]
    simp only [below, true_and, show ¬320 ≤ i from by omega, false_and, or_false]
  · rw [if_neg below, testBit_bits, show 576 + (i - 320) = 256 + i by omega, Bool.and_eq_true, decide_eq_true_eq]
    simp only [below, false_and, false_or, show 320 ≤ i from by omega, true_and, show i - 320 < 256 ↔ i < 576 from by omega]

section

variable (s : State) (p old new : Nat)

/-- A field that an active partition may not change has changed. -/
theorem descChanged_iff : (old.testBit 323 && (bits old 0 323 != bits new 0 323 || bits old 832 55 != bits new 832 55)) = true ↔
    old.testBit 323 = true ∧ (bits old 0 323 ≠ bits new 0 323 ∨ bits old 832 55 ≠ bits new 832 55) := by
  rw [Bool.and_eq_true, Bool.or_eq_true, bne_iff_ne, bne_iff_ne]

/-- Another partition holds a resource that the descriptor names. -/
theorem descShared_iff : (s.parts.any fun y => y.1 != p && (descHolds y.2.desc.toNat &&& descHolds new) != 0) = true ↔
    ∃ q ∈ s.parts, q.1 ≠ p ∧ ∃ i,
      ((i < 320 ∧ q.2.desc.toNat.testBit i = true) ∨ (320 ≤ i ∧ i < 576 ∧ q.2.desc.toNat.testBit (256 + i) = true)) ∧
      ((i < 320 ∧ new.testBit i = true) ∨ (320 ≤ i ∧ i < 576 ∧ new.testBit (256 + i) = true)) := by
  rw [List.any_eq_true]
  refine exists_congr fun q => and_congr_right fun _ => ?_
  rw [Bool.and_eq_true, bne_iff_ne, bne_iff_ne, and_ne_zero_iff]
  simp only [testBit_descHolds]

theorem descReserved_iff : (descReserved new != 0) = true ↔
    ¬(bits new 324 60 = 0 ∧ bits new 432 16 = 0 ∧ bits new 496 16 = 0 ∧ bits new 560 16 = 0 ∧ bits new 887 137 = 0) := by
  rw [bne_iff_ne, descReserved]
  omega

/-- A group of a stack whose die gives the partition no quad. -/
theorem descQuadless_iff :
    ((List.range 12).any fun st => bits new (128 + 16 * st) 16 != 0 && bits new (64 + 16 * (st / 3)) 16 == 0) = true ↔
    ∃ st < 12, bits new (128 + 16 * st) 16 ≠ 0 ∧ bits new (64 + 16 * (st / 3)) 16 = 0 := by
  simp only [List.any_eq_true, List.mem_range, Bool.and_eq_true, bne_iff_ne, beq_iff_eq]

/-- It activates a partition with groups that are still being zeroed. -/
theorem descSweeping_iff (sweep : List (Nat × Nat)) : (new.testBit 323 && sweep != []) = true ↔ new.testBit 323 = true ∧ sweep ≠ [] := by
  rw [Bool.and_eq_true, bne_iff_ne]

/-- It takes a live key from an active partition. -/
theorem descKeyLost_iff :
    (old.testBit 323 && (List.range 256).any fun k => old.testBit (576 + k) && !new.testBit (576 + k) && !keyRevoked s k) = true ↔
    old.testBit 323 = true ∧ ∃ k < 256, old.testBit (576 + k) = true ∧ new.testBit (576 + k) = false ∧ (getKey s k).revoked = false := by
  simp only [List.any_eq_true, List.mem_range, Bool.and_eq_true, Bool.not_eq_true', keyRevoked, and_assoc]

end

/-- The model asks the grounds in another order than R310 lists them. -/
theorem grounds_reorder {changed shared reserved split quadless sweeping lost : Prop} :
    ((((((changed ∨ shared) ∨ reserved) ∨ split) ∨ quadless) ∨ sweeping) ∨ lost) ↔
    (reserved ∨ split ∨ changed ∨ shared ∨ quadless ∨ sweeping ∨ lost) := by
  tauto

/-- The grounds on which a descriptor is refused (R310). -/
theorem descBad_iff (s : State) (part new : Nat) :
    let x := getPart s part
    let old := x.desc.toNat
    let fixed := bits new 324 60 = 0 ∧ bits new 432 16 = 0 ∧ bits new 496 16 = 0 ∧ bits new 560 16 = 0 ∧ bits new 887 137 = 0
    let claims := fun (d i : Nat) => (i < 320 ∧ d.testBit i = true) ∨ (320 ≤ i ∧ i < 576 ∧ d.testBit (256 + i) = true)
    let active := old.testBit 323 = true
    let refused := ¬fixed ∨ 5 ≤ bits new 320 3 ∨
      (active ∧ (bits old 0 323 ≠ bits new 0 323 ∨ bits old 832 55 ≠ bits new 832 55)) ∨
      (∃ q ∈ s.parts, q.1 ≠ part ∧ ∃ i, claims q.2.desc.toNat i ∧ claims new i) ∨
      (∃ st < 12, bits new (128 + 16 * st) 16 ≠ 0 ∧ bits new (64 + 16 * (st / 3)) 16 = 0) ∨
      (new.testBit 323 = true ∧ x.sweep ≠ []) ∨
      (active ∧ ∃ k < 256, old.testBit (576 + k) = true ∧ new.testBit (576 + k) = false ∧ (getKey s k).revoked = false)
    descBad s part new = true ↔ refused := by
  intro x old fixed claims active refused
  rw [descBad, Bool.or_eq_true, Bool.or_eq_true, Bool.or_eq_true, Bool.or_eq_true, Bool.or_eq_true, Bool.or_eq_true, descChanged_iff,
    descShared_iff, descReserved_iff, decide_eq_true_eq, descQuadless_iff, descSweeping_iff, descKeyLost_iff]
  exact grounds_reorder

end Sys2Proof.Machine
end

section
/-! Proofs of the family of spec/12: what a descriptor gives its partition (O49, R311). -/

namespace Sys2Proof.Machine

/-! ### Clusters given -/

theorem smGet_map {α β : Type} (g : α → β) (m : SMap α) (k : Nat) : smGet (m.map fun x => (x.1, g x.2)) k = (smGet m k).map g := by
  induction m with
  | nil => rfl
  | cons x m ih =>
    rw [List.map_cons, smGet, smGet, ih]
    split <;> rfl

/-- What a core keeps when its cluster is given (R311). -/
def clearedCore (k : Core) : Core := { gen := k.gen, dlreload := k.dlreload, dlen := k.dlen, dbghold := k.dbghold }

theorem getCore_zeroCluster (cl : Nat) (s : State) (n : Nat) :
    getCore (zeroCluster cl s) n = if n / 16 = cl then clearedCore (getCore s n) else getCore s n := by
  have entries : ∀ m : SMap Core, smGet (m.map fun k => if k.1 / 16 = cl then (k.1, clearedCore k.2) else k) n =
      (smGet m n).map fun k => if n / 16 = cl then clearedCore k else k := fun m => by
    induction m with
    | nil => rfl
    | cons x m ih =>
      have key : (if x.1 / 16 = cl then (x.1, clearedCore x.2) else x) = (x.1, if x.1 / 16 = cl then clearedCore x.2 else x.2) := by
        split <;> rfl
      rw [List.map_cons, key, smGet, smGet, ih]
      split
      · next same => rw [same, Option.map_some]
      · rfl
  refine (congrArg (Option.getD · ({} : Core)) (entries s.cores)).trans ?_
  rw [show getCore s n = (smGet s.cores n).getD {} from rfl]
  cases smGet s.cores n with
  | none => split <;> rfl
  | some k => split <;> rfl

theorem getXing_zeroCluster (cl : Nat) (s : State) (n : Nat) : getXing (zeroCluster cl s) n = if n = cl then {} else getXing s n := by
  split
  · next same =>
    subst same
    exact congrArg (Option.getD · ({} : Crossing)) (smGet_smDel s.xings n)
  · next other => exact congrArg (Option.getD · ({} : Crossing)) (smGet_smDel_ne s.xings other)

theorem getTwe_zeroCluster (cl : Nat) (s : State) (n : Nat) : getTwe (zeroCluster cl s) n = if n = cl then {} else getTwe s n := by
  split
  · next same =>
    subst same
    exact congrArg (Option.getD · ({} : Twe)) (smGet_smPut s.twes n {})
  · next other => exact congrArg (Option.getD · ({} : Twe)) (smGet_smPut_ne s.twes {} other)

/-- Clusters given one after the other. -/
def giveClusters (cls : List Nat) (s : State) : State := cls.foldl (fun s cl => zeroCluster cl s) s

theorem giveClusters_frame (cls : List Nat) (s : State) :
    (giveClusters cls s).mem = s.mem ∧ (giveClusters cls s).regions = s.regions ∧ (giveClusters cls s).parts = s.parts := by
  induction cls generalizing s with
  | nil => exact ⟨rfl, rfl, rfl⟩
  | cons cl cls ih => exact ih (zeroCluster cl s)

theorem getCore_giveClusters (cls : List Nat) (s : State) (n : Nat) :
    getCore (giveClusters cls s) n = if n / 16 ∈ cls then clearedCore (getCore s n) else getCore s n := by
  induction cls generalizing s with
  | nil => rfl
  | cons cl cls ih =>
    refine (ih (zeroCluster cl s)).trans ?_
    rw [getCore_zeroCluster]
    by_cases first : n / 16 = cl
    · rw [if_pos first, if_pos (List.mem_cons.2 (.inl first))]
      split <;> rfl
    · rw [if_neg first]
      simp only [List.mem_cons, first, false_or]

theorem getXing_giveClusters (cls : List Nat) (s : State) (n : Nat) :
    getXing (giveClusters cls s) n = if n ∈ cls then {} else getXing s n := by
  induction cls generalizing s with
  | nil => rfl
  | cons cl cls ih =>
    refine (ih (zeroCluster cl s)).trans ?_
    rw [getXing_zeroCluster, ← ite_or]
    simp only [List.mem_cons, or_comm]

theorem getTwe_giveClusters (cls : List Nat) (s : State) (n : Nat) :
    getTwe (giveClusters cls s) n = if n ∈ cls then {} else getTwe s n := by
  induction cls generalizing s with
  | nil => rfl
  | cons cl cls ih =>
    refine (ih (zeroCluster cl s)).trans ?_
    rw [getTwe_zeroCluster, ← ite_or]
    simp only [List.mem_cons, or_comm]

/-! ### Requests of given clusters -/

/-- A request after clusters have been given. -/
def dropAll (cls : List Nat) (r : Req) : Req := cls.foldl (fun r cl => dropLandings cl r) r

theorem smGet_reqs_giveClusters (cls : List Nat) (s : State) (r : Nat) :
    smGet (giveClusters cls s).reqs r = (smGet s.reqs r).map (dropAll cls) := by
  induction cls generalizing s with
  | nil => exact (Option.map_id' ..).symm
  | cons cl cls ih =>
    refine (ih (zeroCluster cl s)).trans ?_
    rw [show smGet (zeroCluster cl s).reqs r = _ from smGet_map (dropLandings cl) s.reqs r, Option.map_map]
    rfl

/-- A request has nothing to do with a cluster: it neither was issued there nor lands there. -/
def Req.Apart (r : Req) (cl : Nat) : Prop := r.core / 16 ≠ cl ∧ ∀ p ∈ r.pieces, ∀ c, landCore p.dst = some c → c / 16 ≠ cl

/-- A request is over for a cluster: complete if it was issued there, and with nothing still to land there. -/
def Req.Over (r : Req) (cl : Nat) : Prop :=
  (r.core / 16 = cl → r.complete = true) ∧ ∀ p ∈ r.pieces, ∀ c, landCore p.dst = some c → c / 16 = cl → 2 ≤ p.stage

theorem landCore_any {l : Loc} {cl : Nat} : (landCore l).any (· / 16 == cl) = true ↔ ∃ c, landCore l = some c ∧ c / 16 = cl := by
  rw [Option.any_eq_true]
  simp only [beq_iff_eq]

/-- A piece that would still land in a cluster is over (R311). -/
def dropPiece (cl : Nat) (p : Piece) : Piece :=
  if p.stage < 2 ∧ (landCore p.dst).any (· / 16 == cl) then { p with stage := 2, buf := [] } else p

theorem dropPiece_dst (cl : Nat) (p : Piece) : (dropPiece cl p).dst = p.dst := by
  rw [dropPiece]
  split <;> rfl

theorem le_stage_dropPiece (cl : Nat) (p : Piece) : p.stage ≤ (dropPiece cl p).stage := by
  rw [dropPiece]
  split
  · next early => exact Nat.le_of_lt early.1
  · exact Nat.le_refl _

theorem two_le_stage_dropPiece {cl c : Nat} {p : Piece} (dst : landCore p.dst = some c) (here : c / 16 = cl) :
    2 ≤ (dropPiece cl p).stage := by
  rw [dropPiece]
  split
  · exact Nat.le_refl 2
  · next late => exact Nat.le_of_not_lt fun early => late ⟨early, landCore_any.2 ⟨c, dst, here⟩⟩

theorem dropLandings_of_eq {cl : Nat} {r : Req} (issued : r.core / 16 = cl) :
    dropLandings cl r = { r with complete := true, pieces := [] } := if_pos issued

theorem dropLandings_of_ne {cl : Nat} {r : Req} (elsewhere : r.core / 16 ≠ cl) :
    dropLandings cl r = { r with pieces := r.pieces.map (dropPiece cl) } := if_neg elsewhere

theorem dropLandings_core (cl : Nat) (r : Req) : (dropLandings cl r).core = r.core := by
  rw [dropLandings]
  split <;> rfl

theorem dropLandings_of_apart {r : Req} {cl : Nat} (apart : r.Apart cl) : dropLandings cl r = r := by
  obtain ⟨elsewhere, away⟩ := apart
  rw [dropLandings_of_ne elsewhere]
  have pieces : r.pieces.map (dropPiece cl) = r.pieces := by
    refine (List.map_congr_left fun p mem => if_neg ?_).trans (List.map_id _)
    rintro ⟨-, lands⟩
    obtain ⟨c, dst, here⟩ := landCore_any.1 lands
    exact away p mem c dst here
  rw [pieces]

theorem over_dropLandings (r : Req) (cl : Nat) : (dropLandings cl r).Over cl := by
  by_cases issued : r.core / 16 = cl
  · rw [dropLandings_of_eq issued]
    exact ⟨fun _ => rfl, fun p mem => absurd mem (List.not_mem_nil)⟩
  · rw [dropLandings_of_ne issued]
    refine ⟨fun here => absurd here issued, fun p mem c dst here => ?_⟩
    obtain ⟨q, -, rfl⟩ := List.mem_map.1 mem
    exact two_le_stage_dropPiece (dropPiece_dst cl q ▸ dst) here

theorem Req.Over.dropLandings {r : Req} {cl : Nat} (ended : r.Over cl) (other : Nat) : (dropLandings other r).Over cl := by
  obtain ⟨complete, landed⟩ := ended
  by_cases issued : r.core / 16 = other
  · rw [dropLandings_of_eq issued]
    exact ⟨fun _ => rfl, fun p mem => absurd mem (List.not_mem_nil)⟩
  · rw [dropLandings_of_ne issued]
    refine ⟨complete, fun p mem c dst here => ?_⟩
    obtain ⟨q, inside, rfl⟩ := List.mem_map.1 mem
    exact (landed q inside c (dropPiece_dst other q ▸ dst) here).trans (le_stage_dropPiece other q)

theorem dropAll_core (cls : List Nat) (r : Req) : (dropAll cls r).core = r.core := by
  induction cls generalizing r with
  | nil => rfl
  | cons cl cls ih => exact (ih (dropLandings cl r)).trans (dropLandings_core cl r)

theorem dropAll_of_apart {cls : List Nat} {r : Req} (apart : ∀ cl ∈ cls, r.Apart cl) : dropAll cls r = r := by
  induction cls with
  | nil => rfl
  | cons cl cls ih =>
    obtain ⟨first, others⟩ := List.forall_mem_cons.1 apart
    rw [dropAll, List.foldl_cons, dropLandings_of_apart first]
    exact ih others

theorem Req.Over.dropAll {r : Req} {cl : Nat} (ended : r.Over cl) (cls : List Nat) : (dropAll cls r).Over cl := by
  induction cls generalizing r with
  | nil => exact ended
  | cons other cls ih => exact ih (ended.dropLandings other)

theorem over_dropAll {cls : List Nat} {cl : Nat} (mem : cl ∈ cls) (r : Req) : (dropAll cls r).Over cl := by
  induction cls generalizing r with
  | nil => cases mem
  | cons first cls ih =>
    rcases List.mem_cons.1 mem with rfl | later
    · exact (over_dropLandings r cl).dropAll cls
    · exact ih later (dropLandings first r)

theorem getReq_giveClusters_of_apart {cls : List Nat} {s : State} {r : Nat} (apart : ∀ cl ∈ cls, (getReq s r).Apart cl) :
    getReq (giveClusters cls s) r = getReq s r := by
  have after := smGet_reqs_giveClusters cls s r
  rw [getReq, smGetD, after]
  rw [getReq, smGetD] at apart ⊢
  cases entry : smGet s.reqs r with
  | none => rfl
  | some q =>
    rw [entry] at apart
    exact dropAll_of_apart apart

theorem getReq_giveClusters {cls : List Nat} {s : State} {r : Nat} (listed : smGet s.reqs r ≠ none) :
    getReq (giveClusters cls s) r = dropAll cls (getReq s r) := by
  obtain ⟨q, entry⟩ := Option.ne_none_iff_exists'.1 listed
  rw [getReq, getReq, smGetD, smGetD, smGet_reqs_giveClusters, entry]
  rfl

end Sys2Proof.Machine
end

section
/-! Proofs of the family of spec/12: a partition's descriptor written, and O49. -/

namespace Sys2Proof.Machine

/-! ### The parts of a descriptor's write -/

/-- Places that a descriptor has and the former one had not. -/
theorem gained_iff {old new i : Nat} : (new.testBit i && !old.testBit i) = true ↔ new.testBit i = true ∧ old.testBit i = false := by
  rw [Bool.and_eq_true, Bool.not_eq_true']

/-- The clusters that a descriptor gives. -/
def gainedClusters (old new : Nat) : List Nat := (List.range 64).filter fun i => new.testBit i && !old.testBit i

theorem mem_gainedClusters {old new n : Nat} : n ∈ gainedClusters old new ↔ n < 64 ∧ new.testBit n = true ∧ old.testBit n = false := by
  rw [gainedClusters, List.mem_filter, List.mem_range, gained_iff]

/-- The quads that a descriptor takes away. -/
def lostQuads (old new : Nat) : Nat := bits old 64 64 - (bits old 64 64 &&& bits new 64 64)

theorem lostQuads_ne_zero_iff {old new : Nat} :
    lostQuads old new ≠ 0 ↔ ∃ q < 64, old.testBit (64 + q) = true ∧ new.testBit (64 + q) = false := by
  rw [lostQuads, sub_and_ne_zero_iff]
  refine exists_congr fun q => ?_
  rw [testBit_bits, testBit_bits]
  by_cases lt : q < 64 <;> simp [lt]

/-- The quads whose slices a descriptor has zeroed. -/
def zeroedQuads (old new : Nat) : Nat :=
  if bits old 320 3 ≠ bits new 320 3 then bits new 64 64 else bits new 64 64 - (bits new 64 64 &&& bits old 64 64)

theorem testBit_zeroedQuads {old new i : Nat} (lt : i < 64) (held : new.testBit (64 + i) = true)
    (zeroed : bits old 320 3 ≠ bits new 320 3 ∨ old.testBit (64 + i) = false) : (zeroedQuads old new).testBit i = true := by
  rw [zeroedQuads]
  split
  · rw [testBit_bits, decide_eq_true lt, held]
    rfl
  · next same =>
    rw [testBit_sub_and, testBit_bits, testBit_bits, held, zeroed.resolve_left same, Bool.and_false, decide_eq_true lt]
    rfl

/-- Every bit of a descriptor's fields is kept (R309). -/
theorem testBit_partDescMask :
    (∀ i < 324, partDescMask.testBit i = true) ∧ ∀ i < 256, partDescMask.testBit (576 + i) = true := by
  decide +kernel

theorem bits_partDescMask {lo len : Nat} (new : Nat) (whole : ∀ i < len, partDescMask.testBit (lo + i) = true) (h : lo + len ≤ 1024) :
    bits (BitVec.ofNat 1024 (new &&& partDescMask)).toNat lo len = bits new lo len := by
  rw [bits_ofNat h, bits_eq_iff]
  intro i lt
  rw [Nat.testBit_and, whole i lt, Bool.and_true]

/-- Nothing but memory and what belongs to it has changed, among the things that a descriptor gives. -/
structure KeepsUnits (t s : State) : Prop where
  regions : t.regions = s.regions
  parts : t.parts = s.parts
  reqs : t.reqs = s.reqs
  cores : t.cores = s.cores
  xings : t.xings = s.xings
  twes : t.twes = s.twes

/-! ### Lines that a quad takes with it -/

/-- The state after the lines in lost quads are dropped. -/
def dropLost (p lost : Nat) (s : State) : State := if lost = 0 then s else dropCached (cachedIn s p lost) s

theorem dropLost_keepsUnits (p lost : Nat) (s : State) : KeepsUnits (dropLost p lost s) s := by
  rw [dropLost]
  split <;> exact ⟨rfl, rfl, rfl, rfl, rfl, rfl⟩

/-- What a cache holds for a partition stands in a group that the partition has (R304). -/
theorem exists_group_of_cachedIn {s : State} {p quads unit : Nat} (cached : cachedIn s p quads unit = true) :
    ∃ st g, paKind (unit * 64) = .hbm st g ∧ ∃ q ∈ s.parts, q.1 = p ∧ q.2.desc.toNat.testBit (128 + 16 * st + g) = true := by
  rw [cachedIn, Bool.and_eq_true, beq_iff_eq, cachedFor, Nat.mul_comm] at cached
  obtain ⟨holder, -⟩ := cached
  split at holder
  · next st g hbm =>
    obtain ⟨q, found, same⟩ := Option.map_eq_some_iff.1 holder
    have group := List.find?_some found
    rw [Bool.and_eq_true, partHasGroup, partField, bits_one_eq] at group
    exact ⟨st, g, hbm, q, List.mem_of_find?_eq_some found, same, group.1⟩
  · cases holder

theorem mRead_dropLost {p lost a : Nat} {s : State} (kept : ¬(lost ≠ 0 ∧ cachedIn s p lost (a / 64) = true)) :
    mRead (dropLost p lost s).mem a = mRead s.mem a := by
  rw [dropLost]
  split
  · rfl
  · next some => exact mRead_dropCached (Bool.eq_false_of_not_eq_true fun cached => kept ⟨some, cached⟩)

/-! ### What a descriptor gives -/

/-- The state after clusters are given, before quads are zeroed. -/
def givenClusters (p old new : Nat) (s : State) : State := giveClusters (gainedClusters old new) (dropLost p (lostQuads old new) s)

/-- The state after quads are zeroed. -/
def zeroQuads (quads : Nat) (s : State) : State := if quads = 0 then s else zeroWhere (inQuads quads) s

theorem zeroQuads_keepsUnits (quads : Nat) (s : State) : KeepsUnits (zeroQuads quads s) s := by
  rw [zeroQuads]
  split <;> exact ⟨rfl, rfl, rfl, rfl, rfl, rfl⟩

theorem inQuads_zero (k : PaKind) : inQuads 0 k = false := by
  cases k with
  | slice die k off => exact Nat.zero_testBit _
  | hbm st g => rfl
  | kiln die off => rfl
  | nothing => rfl

theorem mRead_zeroQuads (quads : Nat) (s : State) (a : Nat) :
    mRead (zeroQuads quads s).mem a = if inQuads quads (paKind a) = true then 0 else mRead s.mem a := by
  rw [zeroQuads]
  split
  · next none =>
    rw [none, inQuads_zero, if_neg Bool.false_ne_true]
  · exact mRead_zeroWhere (inQuads quads) s a

section

variable (p old new : Nat) (s : State)

/-- The partition's entry after its descriptor is written: the groups that it still owns are zeroed in the background, and the new ones. -/
def givenPart : Part := { getPart s p with
  desc := BitVec.ofNat 1024 (new &&& partDescMask)
  sweep := ((getPart s p).sweep.filter fun g => new.testBit (128 + 16 * g.1 + g.2)) ++
    ((List.range 192).filter fun i => new.testBit (128 + i) && !old.testBit (128 + i)).map fun i => (i / 16, i % 16) }

theorem giveResources_eq : giveResources p old new s =
    let u := zeroQuads (zeroedQuads old new) (givenClusters p old new s)
    let t := setPart u p (givenPart p old new u)
    if bits old 384 48 = bits new 384 48 then t else flushPart p t := rfl

theorem givenClusters_frame : (givenClusters p old new s).regions = s.regions ∧ (givenClusters p old new s).parts = s.parts ∧
    (givenClusters p old new s).mem = (dropLost p (lostQuads old new) s).mem := by
  obtain ⟨mem, regions, parts⟩ := giveClusters_frame (gainedClusters old new) (dropLost p (lostQuads old new) s)
  have before := dropLost_keepsUnits p (lostQuads old new) s
  exact ⟨regions.trans before.regions, parts.trans before.parts, mem⟩

/-- What a descriptor gives changes the requests and the clusters as the giving of clusters does, and the memory as the zeroing of quads. -/
theorem giveResources_frame :
    let t := giveResources p old new s
    let u := givenClusters p old new s
    t.regions = u.regions ∧ t.reqs = u.reqs ∧ t.cores = u.cores ∧ t.xings = u.xings ∧ t.twes = u.twes ∧
    t.mem = (zeroQuads (zeroedQuads old new) u).mem ∧ getPart t p = givenPart p old new s := by
  intro t u
  obtain ⟨-, parts, -⟩ := givenClusters_frame p old new s
  have keeps := zeroQuads_keepsUnits (zeroedQuads old new) u
  have own : givenPart p old new (zeroQuads (zeroedQuads old new) u) = givenPart p old new s := by
    have parts : (zeroQuads (zeroedQuads old new) u).parts = s.parts := keeps.parts.trans parts
    have part : getPart (zeroQuads (zeroedQuads old new) u) p = getPart s p := congrArg (fun m : SMap Part => smGetD m p {}) parts
    rw [givenPart, part]
    rfl
  have set : t = if bits old 384 48 = bits new 384 48 then setPart (zeroQuads (zeroedQuads old new) u) p (givenPart p old new s)
      else flushPart p (setPart (zeroQuads (zeroedQuads old new) u) p (givenPart p old new s)) := by
    rw [← own]
    exact giveResources_eq p old new s
  rw [set]
  split <;> exact ⟨keeps.regions, keeps.reqs, keeps.cores, keeps.xings, keeps.twes, rfl, getPart_setPart ..⟩

end

end Sys2Proof.Machine
end

section
/-! Proofs of the family of spec/12: what stands after a partition's descriptor is written, and O49. -/

namespace Sys2Proof.Machine

theorem getReq_of_reqs {s t : State} (same : t.reqs = s.reqs) (r : Nat) : getReq t r = getReq s r := by
  rw [getReq, getReq, same]

section

variable (p old new : Nat) (s : State)

theorem getCore_giveResources (n : Nat) : getCore (giveResources p old new s) n =
    if n / 16 ∈ gainedClusters old new then clearedCore (getCore s n) else getCore s n := by
  obtain ⟨-, -, cores, -⟩ := giveResources_frame p old new s
  rw [getCore_of_cores cores, givenClusters, getCore_giveClusters, getCore_of_cores (dropLost_keepsUnits ..).cores]

theorem getXing_giveResources {n : Nat} (given : n ∈ gainedClusters old new) : getXing (giveResources p old new s) n = {} := by
  obtain ⟨-, -, -, xings, -⟩ := giveResources_frame p old new s
  rw [getXing, xings]
  exact (getXing_giveClusters ..).trans (if_pos given)

theorem getTwe_giveResources {n : Nat} (given : n ∈ gainedClusters old new) : getTwe (giveResources p old new s) n = {} := by
  obtain ⟨-, -, -, -, twes, -⟩ := giveResources_frame p old new s
  rw [getTwe, twes]
  exact (getTwe_giveClusters ..).trans (if_pos given)

theorem getReq_giveResources_of_apart {r : Nat} (apart : ∀ cl ∈ gainedClusters old new, (getReq s r).Apart cl) :
    getReq (giveResources p old new s) r = getReq s r := by
  obtain ⟨-, reqs, -⟩ := giveResources_frame p old new s
  have before := getReq_of_reqs (dropLost_keepsUnits p (lostQuads old new) s).reqs r
  rw [← before] at apart
  rw [getReq_of_reqs reqs, givenClusters, getReq_giveClusters_of_apart apart, before]

theorem getReq_giveResources {r : Nat} (listed : smGet s.reqs r ≠ none) :
    getReq (giveResources p old new s) r = dropAll (gainedClusters old new) (getReq s r) := by
  obtain ⟨-, reqs, -⟩ := giveResources_frame p old new s
  have before := (dropLost_keepsUnits p (lostQuads old new) s).reqs
  rw [← before] at listed
  rw [getReq_of_reqs reqs, givenClusters, getReq_giveClusters listed, getReq_of_reqs before]

theorem mRead_giveResources (a : Nat) : mRead (giveResources p old new s).mem a =
    if inQuads (zeroedQuads old new) (paKind a) = true then 0 else mRead (dropLost p (lostQuads old new) s).mem a := by
  obtain ⟨-, -, -, -, -, mem, -⟩ := giveResources_frame p old new s
  obtain ⟨-, -, given⟩ := givenClusters_frame p old new s
  rw [mem, mRead_zeroQuads, given]

end

/-- A partition's descriptor written (R310, R311). -/
theorem exec_partdescWrite (part : Nat) (desc : BitVec 1024) (s : State) :
    let x := getPart s part
    let old := x.desc.toNat
    let new := desc.toNat
    let write := exec (.partdescWrite part desc) s
    let gained := fun (i : Nat) => new.testBit i = true ∧ old.testBit i = false
    let resplit := bits old 320 3 ≠ bits new 320 3
    let cached := fun (a : Nat) => ∃ st g, paKind (a / 64 * 64) = .hbm st g ∧ ∃ q ∈ s.parts, q.1 = part ∧
      q.2.desc.toNat.testBit (128 + 16 * st + g) = true
    let leaves := ∃ q < 64, old.testBit (64 + q) = true ∧ new.testBit (64 + q) = false
    (descBad s part new = true → write = .next s) ∧
    (¬descBad s part new = true → ∃ t, write = .next t ∧ t.regions = s.regions ∧
      (∀ r, (∀ n < 64, gained n → (getReq s r).core / 16 ≠ n ∧ ∀ p ∈ (getReq s r).pieces, ∀ c, landCore p.dst = some c → c / 16 ≠ n) →
        getReq t r = getReq s r) ∧
      (∀ r n, n < 64 → gained n → smGet s.reqs r ≠ none →
        ((getReq s r).core / 16 = n → (getReq t r).complete = true) ∧
        ∀ p ∈ (getReq t r).pieces, ∀ c, landCore p.dst = some c → c / 16 = n → 2 ≤ p.stage) ∧
      (getPart t part).sweep = (x.sweep.filter fun g => new.testBit (128 + 16 * g.1 + g.2)) ++
        ((List.range 192).filter fun i => decide (gained (128 + i))).map (fun i => (i / 16, i % 16)) ∧
      bits (getPart t part).desc.toNat 0 324 = bits new 0 324 ∧ bits (getPart t part).desc.toNat 576 256 = bits new 576 256 ∧
      (∀ a, (∃ die k off, paKind a = .slice die k off ∧ new.testBit (64 + 16 * die + k / 4) = true ∧
          (resplit ∨ old.testBit (64 + 16 * die + k / 4) = false) ∧ die < 4 ∧ k < 64) → mRead t.mem a = 0) ∧
      (∀ a, (∀ die k off, paKind a ≠ .slice die k off) → ¬(leaves ∧ cached a) → mRead t.mem a = mRead s.mem a) ∧
      (∀ n, n / 16 < 64 → gained (n / 16) → (getCore t n).run = .idle ∧ (getCore t n).spad = [] ∧ (getCore t n).ctx = {} ∧
        (getCore t n).blk = none ∧ (getCore t n).mx = {}) ∧
      (∀ n, n / 16 < 64 → ¬gained (n / 16) → getCore t n = getCore s n) ∧
      (∀ n, n < 64 → gained n → getXing t n = {} ∧ getTwe t n = {})) := by
  intro x old new write gained resplit cached leaves
  refine ⟨fun bad => if_pos bad, fun good => ⟨giveResources part old new s, if_neg good, ?_⟩⟩
  obtain ⟨regions, -, -, -, -, -, own⟩ := giveResources_frame part old new s
  obtain ⟨same, -, -⟩ := givenClusters_frame part old new s
  obtain ⟨low, keys⟩ := testBit_partDescMask
  refine ⟨regions.trans same, ?requestsApart, ?requestsOver, ?sweep, ?fields, ?keyField, ?zeroed, ?kept, ?given, ?others, ?units⟩
  case requestsApart =>
    intro r apart
    exact getReq_giveResources_of_apart part old new s fun n mem =>
      have ⟨lt, given⟩ := mem_gainedClusters.1 mem
      apart n lt given
  case requestsOver =>
    intro r n lt given listed
    have ⟨complete, landed⟩ := over_dropAll (mem_gainedClusters.2 ⟨lt, given⟩) (getReq s r)
    rw [getReq_giveResources part old new s listed]
    exact ⟨fun issued => complete ((dropAll_core ..).symm ▸ issued), landed⟩
  case sweep =>
    have bool : (fun i => decide (gained (128 + i))) = fun i => new.testBit (128 + i) && !old.testBit (128 + i) :=
      funext fun i => Bool.eq_iff_iff.2 (decide_eq_true_iff.trans gained_iff.symm)
    rw [own, bool]
    rfl
  case fields =>
    rw [own]
    exact bits_partDescMask new (fun i lt => (Nat.zero_add i).symm ▸ low i lt) (by decide)
  case keyField =>
    rw [own]
    exact bits_partDescMask new keys (by decide)
  case zeroed =>
    rintro a ⟨die, k, off, slice, held, zeroed, dieLt, kLt⟩
    rw [Nat.add_assoc] at held zeroed
    have quad := testBit_zeroedQuads (by omega) held zeroed
    rw [mRead_giveResources, slice, if_pos]
    exact quad
  case kept =>
    intro a outside spared
    have notZeroed : inQuads (zeroedQuads old new) (paKind a) = false := by
      cases kind : paKind a with
      | slice die k off => exact absurd kind (outside die k off)
      | hbm st g => rfl
      | kiln die off => rfl
      | nothing => rfl
    rw [mRead_giveResources, notZeroed, if_neg Bool.false_ne_true]
    exact mRead_dropLost fun ⟨lost, inCache⟩ => spared ⟨lostQuads_ne_zero_iff.1 lost, exists_group_of_cachedIn inCache⟩
  case given =>
    intro n lt given
    rw [getCore_giveResources, if_pos (mem_gainedClusters.2 ⟨lt, given⟩)]
    exact ⟨rfl, rfl, rfl, rfl, rfl⟩
  case others =>
    intro n _ kept
    rw [getCore_giveResources, if_neg fun mem => kept (mem_gainedClusters.1 mem).2]
  case units =>
    intro n lt given
    have mem := mem_gainedClusters.2 ⟨lt, given⟩
    exact ⟨getXing_giveResources part old new s mem, getTwe_giveResources part old new s mem⟩

/-- Settles O49: each row's effect is its lemma, and a descriptor is refused on the grounds of `descBad_iff`. -/
theorem partitionsAndKeys : Obligations.PartitionsAndKeys := by
  unfold Obligations.PartitionsAndKeys
  intro part slot pa core word m desc v pair err s x old new
  have grounds := descBad_iff s part new
  obtain ⟨refusal, gift⟩ := exec_partdescWrite part desc s
  obtain ⟨badPair, load⟩ := exec_keyload slot pair s
  refine ⟨fun code region frame value => eventRecord_eq part code region frame value s,
    fun kind cause orig engine reason id paddr va => errorRecord_eq part kind cause orig engine reason id paddr va s,
    ⟨fun refused => refusal (grounds.2 refused), fun accepted => gift (mt grounds.1 accepted)⟩,
    exec_ptrootWrite part v s, exec_groupSweepDone part s, ⟨badPair, load, exec_keyRevoke slot s⟩,
    exec_patrolScrub_sram core word m err s, exec_patrolScrub_unowned, ?_⟩
  exact fun p owner => exec_patrolScrub_owned owner _ (corrected_eq p pa err s).symm

end Sys2Proof.Machine
end
